-- ==== Sys2Proof/Word.lean ====
section
/-! DEFINITION. The word types of Akfel: bytes, 32-bit registers (R10), 64-bit addresses and general registers (R36). -/

namespace Sys2Proof

/-- One byte of an in-memory structure or of scratchpad. -/
abbrev Byte := BitVec 8

/-- One control-port register (R10: every register is 32 bits wide). -/
abbrev Word := BitVec 32

/-- A 64-bit quantity: a general register, an address or a time in Tc. -/
abbrev DWord := BitVec 64

/-- A 16-bit field. -/
abbrev Half := BitVec 16

/-- A 64-byte mover instruction or op descriptor. -/
abbrev Line := BitVec 512

end Sys2Proof
end

