-- ==== Sys2Proof/Config.lean ====
section
/-! DEFINITION. What the generated configuration fixes (R1, R2) and the values the manual leaves open. -/

namespace Sys2Proof

/-- The tile count of the generated configuration (R2). -/
inductive TileCount where
  | t2 | t4 | t8 | t16 | t32
  deriving DecidableEq, Repr

/-- The generated configuration (R1): the tile count and the scratchpad option. No command changes it. -/
structure GenConfig where
  /-- the tile count T -/
  tiles : TileCount
  /-- the 4 MiB scratchpad option -/
  spad4 : Bool
  deriving DecidableEq, Repr

namespace Config

/-- The μ-law expansion of a component code (R144): width w, compShift, code to a 16-bit result.
The manual defers its values to the O-RAN specification, so it is a free function (log 4). -/
opaque muLawExpand : Nat → Nat → Nat → BitVec 16

/-- The μ-law compression of a component (R146): width w, compShift, component to a code.
The manual defers its values to the O-RAN specification, so it is a free function (log 4). -/
opaque muLawCompress : Nat → Nat → BitVec 16 → Nat

end Config

end Sys2Proof
end

