-- ==== Sys2Proof/Syntax.lean ====
section
/-! DEFINITION. The commands: one constructor per row of spec/opcode_table.json, with the operands that
name the unit, the access or the answer from outside that the step is about. -/

namespace Sys2Proof

/-- A sequencer source of a tile (R39, R310): the tile program, or ring source 1 to 8. -/
inductive Source where
  | prog
  | ring (k : Nat)
  deriving DecidableEq, Repr

/-- A side of a stream: its read walker or its write walker. -/
inductive Side where
  | read | write
  deriving DecidableEq, Repr

/-- What the SECDED check of the word that a step reads finds (R415): the environment's operand. -/
inductive Ecc where
  | clean | corrected | bad
  deriving DecidableEq, Repr

/-- The message, stream, source or counter that a command names, and what the check of the memory that it reads finds: at issue that
of the context copy at the leaf router (R415). -/
structure Checked (α : Type) where
  it : α
  ecc : Ecc
  deriving DecidableEq, Repr

/-- What the checks of a walker's IDX or SCAN find: of its word, and of the bytes that it reads (R415). -/
structure WalkEcc where
  word : Ecc
  data : Ecc
  deriving DecidableEq, Repr

/-- The compares of a last flit: its two computations agree, and its address keeps its residue (R410, R411). -/
structure FlitCheck where
  agree : Bool
  residue : Bool
  deriving DecidableEq, Repr

/-- What the checks of an update find: of its counter, the watch slots whose words are bad, and whether its two computations
agree (R409, R415). -/
structure UpdCheck where
  ecc : Ecc
  lost : List (BitVec 12)
  agree : Bool
  deriving DecidableEq, Repr

/-- What a command of the lodge names, and what the checks of the counter and the slots that it reads find (R409, R415). -/
structure Updating (α : Type) where
  it : α
  check : UpdCheck
  deriving DecidableEq, Repr

/-- Tag and operation of a window-port request (R346, R347). -/
structure WpHead where
  tag : BitVec 10
  op : BitVec 4
  deriving DecidableEq, Repr

/-- What a flash answers to the SFDP reads: the signature, and its table of parameters (R364). -/
structure SfdpWords where
  sig : Word
  bfpt : List Word
  deriving DecidableEq, Repr

/-- An output of a pavilion router (R19, R21): towards its parent, a member, or an attached unit. -/
inductive Hop where
  | up
  | tile (t : Nat)
  | pav (p : Nat)
  | sysPort (n : Nat)
  | winPort (l : Nat)
  | root
  deriving DecidableEq, Repr

/-- A contention point (R293). -/
inductive Point where
  | readIssue (t : Nat)
  | writeIssue (t : Nat)
  | datapath (t : Nat)
  | tileOut (t : Nat)
  | pavOut (p : Nat) (o : Hop)
  | bank (t b : Nat)
  | sysPort (n : Nat)
  | winPort (l : Nat)
  deriving DecidableEq, Repr

/-- The target of a LAUNCH: an issued stream, or the instruction a source is held at (R51). -/
inductive LaunchTarget where
  | stream (n : Nat)
  | source (src : Source)
  deriving DecidableEq, Repr

/-- A word that the scrubber visits (R418). -/
inductive ScrubLoc where
  | spad (t unit : Nat)
  | staging (t n : Nat)
  | imem (t w : Nat)
  | tdt (t w : Nat)
  | odt (t w : Nat)
  | wpm (t w : Nat)
  | journal (t n : Nat)
  | counter (c : BitVec 14)
  | watch (w : BitVec 12)
  | ctx (p : Nat) (i : BitVec 14)
  | tlb (n i : Nat)
  /-- the end of a pass over all arrays (`KP_SCRUB_PASSES`) -/
  | passEnd
  deriving DecidableEq, Repr

/-- A request whose response time has run out (R345, R402, R438): a tag of a system port, a request of a stream
to a bank group, the signal of a stream's first chunk, or a ring's `k`th access in flight. -/
inductive LateReq where
  | tag (n k : Nat)
  | request (t n id : Nat)
  | signal (t n : Nat)
  | gate (q k : Nat)
  deriving DecidableEq, Repr

/-- The commands. `t` is a tile, `n` a stream, `i` the place of a message among those in flight. -/
inductive Instr where
  -- mover instructions and the sequencer
  | instructionFetch (t : Nat) (ecc : Ecc)
  | move (t : Nat) (src : Checked Source) (ecc : Ecc)
  | walk (t : Nat) (src : Checked Source) (ecc : Ecc)
  | sig (t : Nat) (src : Checked Source)
  | waitGe (t : Nat) (src : Checked Source)
  | waitEq (t : Nat) (src : Checked Source)
  | waitAcquire (t : Nat) (src : Checked Source)
  | waitClaim (t : Nat) (src : Checked Source)
  | fence (t : Nat) (src : Checked Source)
  | fenceComplete (t : Nat) (src : Source)
  | bar (t : Nat) (src : Checked Source)
  | add (t : Nat) (src : Checked Source)
  | sub (t : Nat) (src : Checked Source)
  | and (t : Nat) (src : Checked Source)
  | or (t : Nat) (src : Checked Source)
  | xor (t : Nat) (src : Checked Source)
  | shl (t : Nat) (src : Checked Source)
  | shr (t : Nat) (src : Checked Source)
  | tdw (t : Nat) (src : Checked Source)
  | odw (t : Nat) (src : Checked Source)
  | rdtime (t : Nat) (src : Checked Source)
  | jmp (t : Nat) (src : Checked Source)
  | br (t : Nat) (src : Checked Source)
  | halt (t : Nat) (src : Checked Source)
  | nop (t : Nat) (src : Checked Source)
  | resume (t : Nat) (src : Source)
  | abandon (t : Nat) (src : Source)
  | launch (t : Nat) (target : LaunchTarget)
  | retire (t n : Nat)
  | pendingSignal (t : Nat) (ring : Bool)
  | programHalted (t : Nat)
  | run (t : Nat) (v : Word)
  | stop (t : Nat) (v : Word)
  | tileMemoryWrite (a : BitVec 26) (d : Word) (strb : BitVec 4)
  -- walkers
  | readRequest (t : Nat) (residueOk : Bool)
  | writeRequest (t : Nat) (residueOk : Bool)
  | walkEnd (t n : Nat) (side : Side) (ecc : Ecc)
  | emit (t n : Nat) (side : Side) (ecc : Ecc)
  | addi (t n : Nat) (side : Side) (ecc : Ecc)
  | adda (t n : Nat) (side : Side) (ecc : Ecc)
  | ldi (t n : Nat) (side : Side) (ecc : Ecc)
  | cset (t n : Nat) (side : Side) (ecc : Ecc)
  | rep (t n : Nat) (side : Side) (ecc : Ecc)
  | repr (t n : Nat) (side : Side) (ecc : Ecc)
  | idx (t n : Nat) (side : Side) (ecc : WalkEcc)
  | scan (t n : Nat) (side : Side) (ecc : WalkEcc)
  -- staging, datapath, writes and commit
  | apply (t : Nat)
  | layoutApplied (t : Nat)
  | readResponse (i : Nat) (ecc : Ecc)
  | tileDatapath (t : Nat)
  | calibrationWindow (t n : Nat)
  | signatureCompare (t n : Nat) (agree : Bool)
  | writeAcknowledgement (i : Nat)
  | lastFlitSend (t n : Nat) (check : FlitCheck)
  | bankWrite (i : Checked Nat)
  | bankRead (i : Nat) (ecc : Ecc)
  | accApply (i : Checked Nat)
  | discard (i : Nat)
  | chunkCommit (t : Nat) (n : Checked Nat)
  -- lodge and bandstand
  | signalApply (i : Nat) (check : UpdCheck)
  | watchRegistration (i : Updating Nat)
  | watchRegistrationRetry (t k : Nat)
  | watchDelivery (i : Nat)
  | watchWithdrawal (i : Nat)
  | timedSignal (timer : Updating Nat)
  | timerArm (w : Updating (BitVec 12))
  | expressUpdate
  | ldValue (c : BitVec 14) (v : Word)
  | ldAdd (c : Updating (BitVec 14)) (v : Word)
  | ldAtom (c : Checked (BitVec 14))
  | ldCfg (c : BitVec 14) (v : Word)
  | ldCtx (x : BitVec 8) (i : BitVec 6) (v : Word)
  | ldXvalue (e : BitVec 8) (v : Word)
  | ldXadd (e : BitVec 8) (v : Word)
  | ldHwCmdGo (v : Word)
  | ldHwCmdCancel (v : Word)
  | barrierArrival (i : Nat)
  | releaseDelivery (i : Nat)
  | bsCfg (b : BitVec 9) (v : Word)
  | bsArrive (v : Word)
  | bsReset (v : Word)
  -- pergola
  | pgLoad (v : Word)
  | timebaseLoad
  | tbTodLoad (tod : DWord)
  | tbFsync
  | step
  | slewAdjust
  | fsmiss
  | tbMismatch
  -- turnstiles and rings
  | turnstileGrant (p : Point)
  | slackDecrement (i : Nat)
  | ringEnable (q : BitVec 8)
  | prod (q : BitVec 8) (v : Word)
  | ringFetch
  | fetchResponse (q : Checked (BitVec 8))
  | fetchRetry (q : BitVec 8)
  | dispatch (q : BitVec 8)
  | entryReceipt (i : Nat)
  | completion (q : BitVec 8) (k : Nat)
  | ownWrite (q : BitVec 8) (k : Nat)
  | doneAdvance (q : BitVec 8)
  | gatehouseRetry (q : BitVec 8)
  | messageWrite (v : BitVec 6)
  -- ports and registers
  | systemPortRequest (n : Nat) (i : Checked Nat)
  | translationAnswer (n id : Nat) (pa : BitVec 52) (size : BitVec 2) (perm : BitVec 2) (fault : Bool)
  | systemPortResponse (n tag idx : Nat) (code : BitVec 3) (data : List Byte) (last : Bool)
  | responseTimeout (r : LateReq)
  | invalidation (n : Nat) (all : Bool) (va : BitVec 52) (part : BitVec 3)
  | invalidationComplete (n : Nat)
  | windowPortRequest (l : Nat) (head : WpHead) (addr : DWord) (len : BitVec 12) (data : List Byte)
  | registerWrite (a : BitVec 26) (d : Word) (strb : BitVec 4)
  | registerPairLoRead (a : BitVec 26)
  | registerPairHiWrite (a : BitVec 26) (d : Word)
  | registerPairLoWrite (a : BitVec 26) (d : Word)
  | tlSrSeed (t : Nat) (d : Word)
  | ghCompat (d : Word)
  | sealChange (a : BitVec 26) (d : Word)
  -- reset and boot
  | rstN
  | bootStart (hostfeed : Bool)
  /-- the word where SFDP has its signature, and the words of the Basic Flash Parameter Table -/
  | discovery (words : SfdpWords)
  | header (ws : List Word)
  | bootTimeout
  | ghBootFeed (w : Word)
  | regs (ws : List Word)
  | progSection (ws : List Word)
  | desc (ws : List Word)
  | ctx (ws : List Word)
  | seal (ws : List Word)
  | start (ws : List Word)
  | write
  | pollset
  | pollclr
  | delay
  -- clocks and power
  | go (p : Nat) (v : Word)
  | pllLock (p : Nat)
  | lockfail (p : Nat)
  | monitorWindow (k count : Nat)
  | up (d : BitVec 8)
  | down (d : BitVec 8)
  | retain (d : BitVec 8)
  | reset (d : BitVec 8)
  | quiesceAck (d : Nat)
  | routerConfirmation (d : Nat)
  | quiesceTimeout (d : Nat)
  | pwAck (d : Nat) (level : Bool)
  | ackTimeout (d : Nat)
  | isolationRelease (d : Nat)
  | resetRelease (d : Nat)
  -- keeper
  | lockstepMismatch (t : Nat) (recent : BitVec 8) (under : Option Source)
  | linkResend (p : Point) (good : Bool)
  | scrubAccess (loc : ScrubLoc) (ecc : Ecc)
  | scrublate
  | watchdogTick
  | watchdog (i : BitVec 6)
  | faultLogRead (j : BitVec 6)
  | tbTick
  | signalAcknowledgement (i : Nat)
  | overrunAnswer (i : Nat)
  | retryLater (i : Nat)
  deriving DecidableEq, Repr

end Sys2Proof
end

