-- ==== Sys2Proof/Decode.lean ====
section
/-! DEFINITION. Decoding of table words. The commands of this block are register accesses, port transfers and
internal steps; spec/opcode_table.json gives no row any bits, so no word spells one. -/

namespace Sys2Proof

/-- The command that a word spells by the table's bits: the table gives no row bits, so none. -/
def decodeTableWord (_nbits _w : Nat) : Option Instr := none

end Sys2Proof
end

