-- ==== Sys2Proof/Machine/Bits.lean ====
section
/-! DEFINITION. Bit fields, byte order, sign extension and saturating counts. -/

namespace Sys2Proof.Machine

/-- Field [hi:lo] of a word, as a number. -/
def fld {n : Nat} (w : BitVec n) (hi lo : Nat) : Nat := (w.toNat >>> lo) % 2 ^ (hi + 1 - lo)

/-- Bit `i` of a word. -/
def bit {n : Nat} (w : BitVec n) (i : Nat) : Bool := w.getLsbD i

/-- A word with field [hi:lo] replaced. -/
def putFld {n : Nat} (w : BitVec n) (hi lo v : Nat) : BitVec n :=
  let m := BitVec.ofNat n ((2 ^ (hi + 1 - lo) - 1) <<< lo)
  (w &&& ~~~m) ||| (BitVec.ofNat n (v <<< lo) &&& m)

/-- A word with bit `i` replaced. -/
def putBit {n : Nat} (w : BitVec n) (i : Nat) (b : Bool) : BitVec n := putFld w i i b.toNat

/-- A Boolean as a word with that bit at place `i`. -/
def at1 (b : Bool) (i : Nat) : Word := if b then BitVec.ofNat 32 (2 ^ i) else 0

/-- A number placed at bit `i` of a word. -/
def atN (v i : Nat) : Word := BitVec.ofNat 32 (v <<< i)

/-- Increment saturating at all ones. -/
def satInc {n : Nat} (c : BitVec n) : BitVec n := if c = BitVec.allOnes n then c else c + 1

/-- Addition of a count saturating at all ones. -/
def satAdd {n : Nat} (c : BitVec n) (k : Nat) : BitVec n :=
  if 2 ^ n ≤ c.toNat + k then BitVec.allOnes n else c + BitVec.ofNat n k

/-- The low `n` bits of a number read as two's complement. -/
def sext (n v : Nat) : Int :=
  let x := v % 2 ^ n
  if 2 * x < 2 ^ n then (x : Int) else (x : Int) - (2 : Int) ^ n

/-- The low `n` bits of an integer in two's complement. -/
def wrap (n : Nat) (v : Int) : Nat := (v % (2 : Int) ^ n).toNat

/-- Serial-number comparison (R242): `v` has reached `x`. -/
def serialGe (v x : Word) : Bool := decide (0 ≤ (v - x).toInt)

/-- Ceiling of a quotient; 0 when the divisor is 0. -/
def ceilDiv (a b : Nat) : Nat := if b = 0 then 0 else (a + b - 1) / b

/-- Clamp an integer to a range. -/
def clampI (v lo hi : Int) : Int := max lo (min hi v)

/-- `n` bytes of a number, least significant first (R9). -/
def toBytes : Nat → Nat → List Byte
  | 0, _ => []
  | n + 1, v => BitVec.ofNat 8 v :: toBytes n (v / 256)

/-- The number that bytes spell, least significant first (R9). -/
def ofBytes : List Byte → Nat
  | [] => 0
  | b :: bs => b.toNat + 256 * ofBytes bs

/-- The number that words spell, least significant first. -/
def ofWords : List Word → Nat
  | [] => 0
  | w :: ws => w.toNat + 2 ^ 32 * ofWords ws

/-- The bytes of words in address order. -/
def wordBytes (ws : List Word) : List Byte := ws.flatMap (fun w => toBytes 4 w.toNat)

/-- Replace the entry of a list at a place. -/
def setAt {α : Type} (l : List α) (i : Nat) (v : α) : List α := l.set i v

/-- Remove the entry of a list at a place. -/
def dropAt {α : Type} (l : List α) (i : Nat) : List α := l.eraseIdx i

/-- ⌊log2 v⌋ of a positive number. -/
def log2 (v : Nat) : Nat := Nat.log2 v

/-- The low half of a 64-bit quantity. -/
def lo32 (d : DWord) : Word := BitVec.ofNat 32 d.toNat

/-- The high half of a 64-bit quantity. -/
def hi32 (d : DWord) : Word := BitVec.ofNat 32 (d.toNat >>> 32)

/-- A 64-bit quantity from its halves (R10). -/
def pair (hi lo : Word) : DWord := BitVec.ofNat 64 (hi.toNat * 2 ^ 32 + lo.toNat)

/-- CRC-32C (R371) over bytes: reflected polynomial 0x82F63B78, initial value and final exclusive OR all ones. -/
def crc32cByte (c : Nat) (b : Byte) : Nat :=
  (List.range 8).foldl (fun c _ => if c % 2 = 1 then (c / 2) ^^^ 0x82F63B78 else c / 2) (c ^^^ b.toNat)

/-- CRC-32C of a list of bytes. -/
def crc32c (bs : List Byte) : Word :=
  BitVec.ofNat 32 ((bs.foldl crc32cByte 0xFFFFFFFF) ^^^ 0xFFFFFFFF)

/-- CRC-8 of R193: polynomial 0x07, initial value 0, most significant bit first. -/
def crc8 (bs : List Byte) : Nat :=
  bs.foldl (fun c b => (List.range 8).foldl
    (fun c _ => if 128 ≤ c then ((c * 2) ^^^ 0x07) % 256 else c * 2) (c ^^^ b.toNat)) 0

end Sys2Proof.Machine
end

