-- ==== Sys2Proof/Machine/Sparse.lean ====
section
/-! DEFINITION. Sparse tables (index, value) kept sorted by index, and the canonical byte memory. -/

namespace Sys2Proof.Machine

/-- A sparse table: pairs of an index and a value, indices strictly rising. -/
abbrev Tab (α : Type) := List (Nat × α)

/-- The entry at an index, where one is listed. -/
def Tab.find {α : Type} : Tab α → Nat → Option α
  | [], _ => none
  | (j, v) :: t, i => if j = i then some v else Tab.find t i

/-- The value at an index; an unlisted index reads `d`. -/
def Tab.get {α : Type} (t : Tab α) (d : α) (i : Nat) : α := (Tab.find t i).getD d

/-- List `v` at an index, in its place in the order. -/
def Tab.put {α : Type} : Tab α → Nat → α → Tab α
  | [], i, v => [(i, v)]
  | (j, w) :: t, i, v =>
    if i < j then (i, v) :: (j, w) :: t
    else if i = j then (i, v) :: t
    else (j, w) :: Tab.put t i v

/-- Unlist an index. -/
def Tab.erase {α : Type} (t : Tab α) (i : Nat) : Tab α := t.filter (fun p => decide (p.1 ≠ i))

/-- Write a value: writing what an unlisted index reads as removes the entry, so that equal
tables are equal lists. -/
def Tab.set {α : Type} [DecidableEq α] (t : Tab α) (d : α) (i : Nat) (v : α) : Tab α :=
  if v = d then Tab.erase t i else Tab.put t i v

/-- Indices strictly rising, all at least `lo`. -/
def Tab.sortedFrom {α : Type} : Nat → Tab α → Bool
  | _, [] => true
  | lo, (j, _) :: t => decide (lo ≤ j) && Tab.sortedFrom (j + 1) t

/-- The canonical form: indices strictly rising, and no entry equal to the default. -/
def Tab.wf {α : Type} [DecidableEq α] (d : α) (t : Tab α) : Bool :=
  Tab.sortedFrom 0 t && t.all (fun p => decide (p.2 ≠ d))

end Sys2Proof.Machine
end

