-- ==== Sys2Proof/Machine/State.lean ====
section
/-! DEFINITION. The state of the block: every register, table, queue and message in flight, as plain data. -/

namespace Sys2Proof.Machine

/-- Reasons a step can stop with a fault. The specification gives every row of the table an effect, so no
step of the model answers one; the constructor is the place a stuck state would have (safe). -/
inductive Fault where
  /-- raised by nothing; safe -/
  | stuck
  deriving DecidableEq, Repr

/-- Reasons a command has no meaning. -/
inductive Refusal where
  /-- a row of the table whose meaning is not written yet, by mnemonic; raised by the dispatch arm; safe -/
  | notModelled (mnemonic : String)
  deriving DecidableEq, Repr

/-! ## Instructions in a tile -/

/-- `TL_STATUS.STATE`. -/
inductive SeqState where
  | idle | running | halted | faulted
  deriving DecidableEq, Repr

/-- A ring entry: its ring, its number among the entries handed over, the number of its job's first entry,
and bytes 64–67 as captured (R315, R319). -/
structure EntryRef where
  ring : Nat
  idx : Nat
  job : Nat
  flags : Word
  deriving DecidableEq, Repr

/-- A place in the input queue of ring source `src` of tile `tile`, which entry `ref` has from its dispatch until the tile's
acceptance of it, or its completion, reaches the gatehouse (R25, R322). -/
structure Seat where
  tile : Nat
  src : Nat
  ref : EntryRef
  deriving DecidableEq, Repr

/-- A fetched entry: its reference and its mover instruction. -/
structure QEntry where
  ref : EntryRef
  line : Line
  deriving DecidableEq, Repr

/-- A DEP condition captured at issue (R47): the counter, its operand, the acquire scope, and whether its
watch has fired (R255). -/
structure Cond where
  cid : Nat
  express : Bool
  operand : Word
  scope : Nat
  fired : Bool
  deriving DecidableEq, Repr

/-- Launch conditions of an issued instruction and what its lateness is measured from (R42, R230, R232). -/
structure LaunchSt where
  conds : List Cond
  /-- LAUNCH field: 0 immediate, 1 absolute, 2 slot-relative -/
  kind : Nat
  /-- the launch time; none while a slot-relative time is not resolved (R227) -/
  tL : Option DWord
  /-- g[LREG][31:0] as captured at issue (R41), for a slot-relative time not resolved yet -/
  lreg : Word
  /-- cause code of the launch condition that held last (R232) -/
  cause : Nat
  /-- a step or later load occurred while held or running (R224) -/
  stepped : Bool
  /-- VALID was 0 when the launch time was reached (R217) -/
  tbinv : Bool
  /-- whether the launch time was the last condition seen not to hold (R230) -/
  timeLast : Bool
  /-- launch lateness in Tc (R230) and the local time of the launch -/
  ll : Nat
  tl : DWord
  deriving DecidableEq, Repr

/-- An instruction without a stream that has been issued and waits to launch: for its DEP and LAUNCH, which hold its source
(R51), or for an earlier instruction of the source to launch (R43). -/
structure HeldInstr where
  line : Line
  pc : Nat
  entry : Option EntryRef
  launch : LaunchSt
  /-- the counter a SIG or WAIT names, translated at issue (R247) -/
  cid : Nat
  express : Bool
  /-- the register operands captured at issue (R41): g[A], g[VREG] or g[TREG], and g[B] -/
  opA : DWord
  opB : DWord
  deriving DecidableEq, Repr

/-- A SIG, BAR, FENCE or NOP that has been issued, does not hold its source, and launches once every earlier instruction of
the source has (R43, R58, R59). `ord` is its place in the source's order. -/
structure IssuedInstr where
  src : Source
  ord : Nat
  held : HeldInstr
  deriving DecidableEq, Repr

/-- A WAIT in progress (R57). -/
structure WaitSt where
  line : Line
  pc : Nat
  entry : Option EntryRef
  ord : Nat
  launch : LaunchSt
  cid : Nat
  express : Bool
  cond : Nat
  operand : Word
  scope : Nat
  rreg : Nat
  deriving DecidableEq, Repr

/-- A BAR with WREL = 1 in progress (R58, R269). -/
structure BarSt where
  line : Line
  pc : Nat
  entry : Option EntryRef
  ord : Nat
  launch : LaunchSt
  bar : Nat
  /-- generation waited for; 4 while the arrival has not been sent -/
  gen : Nat
  scope : Nat
  deriving DecidableEq, Repr

/-- What holds a source's sequencer. -/
inductive Hold where
  | none
  | instr (h : HeldInstr)
  | wait (w : WaitSt)
  | bar (b : BarSt)
  deriving DecidableEq, Repr

/-- A sequencer source: how many instructions it has issued, what holds it, and the cause that last kept its
next instruction from issuing (0 none, 2 ORDER, 3 RESOURCE; R232). -/
structure SourceSt where
  ord : Nat
  hold : Hold
  issueWait : Nat
  deriving DecidableEq, Repr

/-- An entry of a pending-signal queue (R58): a SIG or a BAR arrival. `order` is its source order. -/
structure PendSig where
  src : Source
  ord : Nat
  line : Line
  pc : Nat
  entry : Option EntryRef
  isBar : Bool
  /-- counter of a SIG, or barrier of a BAR -/
  cid : Nat
  express : Bool
  value : Word
  scope : Nat
  launch : LaunchSt
  /-- a BAR with WREL = 1, which holds its source -/
  wrel : Bool
  /-- sent to the lodge or bandstand and not yet acknowledged -/
  sent : Bool
  deriving DecidableEq, Repr

/-- An incomplete FENCE (R59). -/
structure FenceSt where
  src : Source
  ord : Nat
  scope : Nat
  line : Line
  pc : Nat
  entry : Option EntryRef
  launch : LaunchSt
  deriving DecidableEq, Repr

/-! ## Streams -/

/-- A REPEAT body in progress (R91): first and one-past-last index, and the runs still to make. -/
structure Loop where
  first : Nat
  stop : Nat
  left : Nat
  deriving DecidableEq, Repr

/-- Complete walker state (R86, R103): program counter, a0–a15, the circular pairs and the REPEAT stack. -/
structure Walker where
  pc : Nat
  a : Tab DWord
  cBase : Tab DWord
  cLen : Tab DWord
  stack : List Loop
  ended : Bool
  /-- elements emitted so far -/
  count : Nat
  /-- a circular addition has wrapped since the last run was emitted (R90, R96) -/
  wrapped : Bool
  deriving DecidableEq, Repr

/-- What an address was generated under: the window's base and the partitions of the tiles (R292, R380). -/
structure GenAt where
  win : DWord
  parts : Tab Word
  deriving DecidableEq, Repr

/-- A run of elements emitted by a walker program and not yet requested: byte address of its first element,
element count, number of its first element, and whether a circular wrap precedes it (R96). -/
structure Run where
  addr : DWord
  n : Nat
  first : Nat
  wrap : Bool
  /-- walker program counter of the instruction that emitted it -/
  wpc : Nat
  /-- what it was generated under (R292) -/
  base : GenAt
  deriving DecidableEq, Repr

/-- What a read request fetches: data of visits (visit number and bit offset in the request's bytes, negative
where an earlier request holds the first bits), blocks (first visit of the block, byte offset and size), scale
records (number and byte offset), the header of a block of a row, a row's segment index entry, or entries of a row's side
list. -/
inductive ReadWhat where
  | elems (es : List (Nat × Int))
  | blocks (bs : List (Nat × Int × Nat))
  | scales (rs : List (Nat × Int))
  | header (row block : Nat)
  | entry (row : Nat)
  | sideList (row first n : Nat)
  deriving DecidableEq, Repr

/-- A read request of a stream (R97). `epoch` counts the restarts of the stream (R422); `pos` is the number, on
its side, of the first element it serves; `side` is the side that issued it; `off` is its address's offset in the scratchpad
window under the base of when the address was generated (R292). -/
structure ReadReq where
  id : Nat
  tile : Nat
  stream : Nat
  src : Source
  ord : Nat
  epoch : Nat
  addr : DWord
  off : Option Nat
  len : Nat
  what : ReadWhat
  side : Side
  pos : Nat
  nonidem : Bool
  part : Nat
  deriving DecidableEq, Repr

/-- A counter update in flight (R242, R249): its counter, amount, release scope and source. `kind` is 0 for a
data signal, 1 SIG, 2 host, 3 barrier release, 4 timed signal, 5 the give-back of R428. `wire` is the express
wire it waits on (R263): a tile, 64 and up a system port, 128 the root. -/
structure Upd where
  cid : Nat
  express : Bool
  value : Word
  scope : Nat
  kind : Nat
  tile : Nat
  stream : Nat
  seq : Word
  src : Source
  ord : Nat
  wire : Nat
  deriving DecidableEq, Repr

/-- A data endpoint (R23). -/
inductive Endpoint where
  | group (t g : Nat)
  | port (n : Nat)
  deriving DecidableEq, Repr

/-- Kind of a write that a stream makes. -/
inductive WriteKind where
  | data | addend | apply
  deriving DecidableEq, Repr

/-- A write request of a stream (R97), an addend to stage, or an apply command (R182). `pos` is the number of
its first element on the write side; `idx` the chunk it belongs to. -/
structure WriteReq where
  id : Nat
  tile : Nat
  stream : Nat
  src : Source
  ord : Nat
  epoch : Nat
  idx : Nat
  seq : Word
  addr : DWord
  /-- the address's offset in the scratchpad window under the base of when it was generated (R292) -/
  off : Option Nat
  data : List Byte
  kind : WriteKind
  fmt : Nat
  rnd : Nat
  endpoint : Endpoint
  signal : Option Upd
  pos : Nat
  part : Nat
  deriving DecidableEq, Repr

/-- A range of bytes that a chunk writes, and the number of its first element. `wrap` marks a circular wrap
before it (R97); `base` is what its address was generated under (R292). -/
structure Piece where
  addr : DWord
  data : List Byte
  pos : Nat
  wrap : Bool
  base : GenAt
  deriving DecidableEq, Repr

/-- Encoder or decoder position within a row of blocks (R197, R202). -/
structure RowSt where
  row : Nat
  block : Nat
  entries : Nat
  deriving DecidableEq, Repr

/-- Position of the escape and encode stages before an output element (R176, R204): side-list entries appended,
escapes used in the element's escape block, and the encoder's row position. -/
structure EscPos where
  side : Nat
  used : Nat
  row : RowSt
  deriving DecidableEq, Repr

/-- Position of a stream's output at the first element of a chunk (R103): the element, the escape position,
and the write walker's state before the run that holds the element. -/
structure Mark where
  k0 : Nat
  esc : EscPos
  wr : Walker
  deriving DecidableEq, Repr

/-- Output of stage 8 that the write walker has not placed: an element, a byte group of sub-byte elements, or an
encoded block. `k` is its first element, `addr` the address of a block, `side` its side-list entries with their
addresses, `recs` the scale records whose block ends in it, `pos` the escape position before it. -/
structure OutUnit where
  k : Nat
  n : Nat
  data : List Byte
  addr : Option DWord
  side : List (DWord × DWord)
  recs : List (Nat × List Byte)
  pos : EscPos
  deriving DecidableEq, Repr

/-- A chunk of a stream's output with its journal entry (R100, R102, R419). -/
structure Chunk where
  idx : Nat
  seq : Word
  mark : Mark
  kEnd : Nat
  bytes : Nat
  endpoint : Endpoint
  /-- data pieces not yet sent, in order; the last flit is cut off when the chunk closes -/
  todo : List Piece
  /-- side-list entries and scale records, sent after the data and before the last flit -/
  extra : List Piece
  last : Option Piece
  /-- no element is added any more -/
  closed : Bool
  /-- holds a journal entry (R102) -/
  journal : Bool
  /-- the accumulate reservation is made (R182) -/
  reserved : Bool
  unacked : Nat
  lastSent : Bool
  isLast : Bool
  wantSignal : Bool
  /-- the signal has been acknowledged -/
  acked : Bool
  /-- a read it needs came from a NONIDEM source -/
  nonidem : Bool
  /-- address of its first byte, and the window's base when it was generated -/
  addr : DWord
  base : GenAt
  /-- a bank group that may hold its apply was reset, and the chunk is not redone (R183) -/
  lostApply : Bool
  deriving DecidableEq, Repr

/-- What stops a stream after launch (R107): the positions on each side at and after which no element is used,
and the status code, side and faulting address of the first error. -/
structure StopSt where
  bounds : List (Side × Nat)
  code : Nat
  side : Side
  addr : DWord
  deriving DecidableEq, Repr

/-- An allocated stream: one issued MOVE or WALK from issue to retirement (R39). -/
structure Stream where
  src : Source
  entry : Option EntryRef
  pc : Nat
  ord : Nat
  line : Line
  srcTd : BitVec 1024
  dstTd : BitVec 1024
  scaleTd : BitVec 1024
  sideTd : BitVec 1024
  od : Line
  /-- BASE + g[BREG] of each side (R68) -/
  rdBase : DWord
  wrBase : DWord
  /-- smallest slice of the pool in bytes at issue (R120) -/
  slice : Nat
  /-- counter of the data signal, translated at issue -/
  sigCid : Nat
  sigX : Bool
  launch : LaunchSt
  launched : Bool
  /-- local time of the first read request, or of the effect (R234) -/
  tLaunch : DWord
  firstSent : Bool
  /-- nominal duration in Tc, and output rate in bytes per cycle as a fraction (R307) -/
  dnom : Nat
  rnum : Nat
  rden : Nat
  outBytes : Nat
  written : Nat
  parked : Option Word
  epoch : Nat
  nextId : Nat
  /-- next visit that the read walker has not requested -/
  rdPos : Nat
  /-- bytes of that visit's element or block that earlier requests fetch -/
  rdSkip : Nat
  rd : Walker
  rdRuns : List Run
  /-- the read walker's state before each of its emissions, with its element count then -/
  rdMarks : List (Nat × Walker)
  outstanding : List ReadReq
  /-- requests of before a restart that have not been answered: their answers are discarded (R422) -/
  oldReads : List ReadReq
  /-- element data in staging, by visit -/
  staged : Tab Word
  /-- blocks in staging and not decoded, by their first visit -/
  blocks : Tab (List Byte)
  scaleNext : Nat
  scales : Tab DWord
  /-- SEQ of record 0 -/
  t0 : Option Nat
  entries : Tab (DWord × DWord)
  sideEnts : Tab DWord
  /-- running ESCN sum before block j of a row, at row × 65,536 + j (R197) -/
  decSum : Tab Nat
  /-- next element of the stage-6 output -/
  outPos : Nat
  /-- output elements before this one are written already (R422) -/
  outFrom : Nat
  outQ : List OutUnit
  esc : EscPos
  wr : Walker
  wrRuns : List Run
  /-- the write walker's state before each of its emissions, with its element count then -/
  wrMarks : List (Nat × Walker)
  wrOut : List WriteReq
  /-- sequence numbers of data signals sent and neither answered nor known to be lost (R250) -/
  sigOut : List Word
  /-- chunks not committed, oldest first -/
  chunks : List Chunk
  nextChunk : Nat
  committed : Nat
  /-- times the first uncommitted chunk has been redone (R422) -/
  replays : Nat
  /-- the first uncommitted chunk keeps its journal entry through a redo (R422) -/
  kept : Bool
  hasSat : Bool
  undersize : Bool
  replayed : Bool
  /-- an apply of before a restart was not acknowledged when its bank group was reset (R183) -/
  lostApply : Bool
  stop : Option StopSt
  /-- code with which the stream ends at once, by a rule that names no position -/
  abort : Option Nat
  /-- RESUME entry whose completion waits on this stream, its TAG, and when it took effect (R328) -/
  resumer : Option (EntryRef × Nat × DWord)
  deriving DecidableEq, Repr

/-! ## Messages in flight -/

/-- An attachment of the promenade (R21, R240). -/
inductive Node where
  | tile (t : Nat)
  | lodge (h : Nat)
  | sysPort (n : Nat)
  | winPort (l : Nat)
  | gate
  | band
  | pergola
  | keeper
  | cpc
  deriving DecidableEq, Repr

/-- Traffic classes (R25). -/
inductive Cls where
  | request | response | lodge | control
  deriving DecidableEq, Repr

/-- Outcome of a request at its endpoint (R342, R402, R415, R416). -/
inductive Answer where
  | okay | denied | error | timeout | xfault | offline | poison
  deriving DecidableEq, Repr

/-- Who waits on a watch: a stream's DEP condition, or a source's WAIT or held instruction's DEP (R252). -/
structure Waiter where
  tile : Nat
  /-- a stream number, or none for a source -/
  stream : Option Nat
  src : Source
  ord : Nat
  /-- index of the DEP condition; 2 for a WAIT -/
  cond : Nat
  deriving DecidableEq, Repr

/-- A watch registration (R253). -/
structure Reg where
  who : Waiter
  cid : Nat
  express : Bool
  cond : Nat
  operand : Word
  scope : Nat
  deriving DecidableEq, Repr

/-- A barrier arrival (R268). -/
structure Arrival where
  bar : Nat
  a : Nat
  scope : Nat
  host : Bool
  tile : Nat
  src : Source
  ord : Nat
  deriving DecidableEq, Repr

/-- A gatehouse access to system memory (R323). -/
inductive GhAcc where
  | fetch (q first n : Nat)
  | comp (q k : Nat)
  | own (q k : Nat)
  | shadow (q : Nat) (v : Word)
  | msg (v : Nat) (addr : DWord) (data : Word)
  deriving DecidableEq, Repr

/-- A request at a system port. -/
inductive SpReq where
  | rd (r : ReadReq)
  | wr (w : WriteReq)
  | gh (a : GhAcc)
  deriving DecidableEq, Repr

/-- A request that a system port has accepted, with the slack and priority stamped on it (R297). -/
structure PortReq where
  req : SpReq
  slack : Int
  prio : Nat
  deriving DecidableEq, Repr

/-- Part `part` of a window-port request under a tag: the bytes of one bank group (R349). -/
structure WpReq where
  port : Nat
  tag : Nat
  op : Nat
  part : Nat
  off : Nat
  len : Nat
  data : List Byte
  deriving DecidableEq, Repr

/-- A delivery of a multicast message, with the points still ahead of it (R255). -/
structure WakeTo where
  route : List Point
  reg : Reg
  result : Nat
  bad : Bool
  deriving DecidableEq, Repr

/-- What a message carries. -/
inductive Body where
  | rd (r : ReadReq)
  | rdResp (r : ReadReq) (ans : Answer) (data : List Byte)
  | wr (w : WriteReq)
  | wrAck (w : WriteReq) (ans : Answer) (sats : Nat)
  | discardCmd (tile stream : Nat) (seq : Word) (ep : Endpoint) (epoch : Nat) (addr : DWord) (off : Option Nat)
  | upd (u : Upd)
  | updAck (u : Upd) (code : Nat)
  | watchReg (r : Reg)
  | wake (r : Reg) (result : Nat) (bad : Bool)
  | wakes (ws : List WakeTo)
  | regFull (r : Reg)
  | withdraw (r : Reg)
  | arrive (a : Arrival)
  | release (bar gen scope : Nat) (failed : Bool) (tile : Nat)
  | overrun (a : Arrival)
  | entry (t k : Nat) (e : QEntry)
  /-- a tile's acceptance of an entry: it has issued, and its place in the input queue is free (R25, R322) -/
  | accepted (e : EntryRef)
  | gh (a : GhAcc)
  | ghResp (a : GhAcc) (ans : Answer) (data : List Byte)
  | wp (q : WpReq)
  | wpResp (q : WpReq) (code : Nat) (data : List Byte)
  deriving DecidableEq, Repr

/-- A flit of a message on the promenade: the message's class, ends, slack as carried and as stamped, priority and number of
flits, this flit's index among them, the points still ahead, and the message's payload, which is its tag (R24, R25, R297, R302).
The last flit of a message stands for the whole of it once the receiver has assembled it. There, at a bank group, `done` counts the
bank cycles taken, `got` holds the bytes read, `sats` the saturations of an apply, and `bad` that an access met poison. -/
structure Msg where
  cls : Cls
  src : Node
  dst : Node
  slack : Int
  stamp : Int
  prio : Nat
  flits : Nat
  index : Nat
  route : List Point
  /-- router or unit it last left: its input queue at the present point (R294) -/
  inp : Nat
  done : Nat
  got : List Byte
  sats : Nat
  bad : Bool
  /-- a retry-later answer on its way back to the requester (R402) -/
  again : Bool
  body : Body
  deriving DecidableEq, Repr

/-- State of one turnstile: last winner, grants lost by waiting requesters, requesters already reported,
and the decision with its runner-up that stands for the cycle (R300, R301, R305). -/
structure PointSt where
  last : Nat
  lost : Tab Nat
  raised : List Nat
  granted : List Nat
  /-- inside a tile, the decision made in this cycle for the next (R301) -/
  next : List Nat
  /-- a lane-cycle of the link's next cycle belongs to a flit that has started (R24) -/
  half : Bool
  /-- index and bitmap reads granted at a bank and not yet made -/
  given : List Nat
  /-- cycles that the first control flit has waited without a start (R299) -/
  ctlAge : Nat
  deriving DecidableEq, Repr

/-! ## Tiles -/

/-- Calibration window of a stream (R179): the elements of stage-6 output counted in it, its counts, whether each has raised
its event, and the counts of elements past its end, which the next window takes over. -/
structure Window where
  elems : Nat
  sats : Nat
  flushes : Nat
  satUp : Bool
  flushUp : Bool
  nextSats : Nat
  nextFlushes : Nat
  deriving DecidableEq, Repr

/-- One mover tile. -/
structure Tile where
  seq : SeqState
  pc : Nat
  stopping : Bool
  fetched : Option Line
  fetchPc : Nat
  ringStreams : BitVec 4
  startPc : BitVec 10
  fault : Word
  faultCount : Word
  g : Tab DWord
  imem : Tab Word
  tdt : Tab Word
  odt : Tab Word
  wpm : Tab Word
  /-- words of the four memories above in which the scrubber found an error that it cannot correct (R415) -/
  badWords : List ScrubLoc
  streams : Tab Stream
  seqNo : Tab Word
  prog : SourceSt
  rings : Tab SourceSt
  issued : List IssuedInstr
  pendProg : List PendSig
  pendRing : List PendSig
  inq : Tab (List QEntry)
  /-- entries that have broken their jobs, as far as later ones can still arrive (R321) -/
  broken : List EntryRef
  fences : List FenceSt
  parkCtr : Word
  walkErr : Word
  walkErrAddr : DWord
  walkErrCount : Word
  sliceA : Word
  sliceB : Word
  stgPending : Option (Word × Word)
  stgBadsum : Bool
  activeA : Word
  activeB : Word
  srSeed : BitVec 16
  lfsr : List (BitVec 16)
  calCtrl : Word
  calSatThr : Word
  calFlushThr : Word
  calStatus : Word
  calSat : Tab Word
  calFlush : Tab Word
  calOcc : Word
  windows : Tab Window
  scaleErr : Word
  scaleErrBlock : Word
  scaleErrCount : Word
  lateCtrl : Word
  late : Word
  lateCount : Word
  lateMax : Word
  prio : Word
  waited : Tab Nat
  admitReg : Word
  refuseCount : Word
  replays : Nat
  bxErr : Word
  bxErrEntry : DWord
  bxErrBlock : Word
  bxErrCount : Word
  bxUnder : Word
  bxEsc : Word
  barCnt : Tab Nat
  fullRegs : List Reg
  xwatches : List Reg
  xheld : List Reg
  deriving DecidableEq, Repr

/-! ## Lodge and bandstand -/

/-- Release of the last update of a counter (R257): scope and source tile (none for host, barrier and timer). -/
structure Rel where
  scope : Nat
  tile : Option Nat
  deriving DecidableEq, Repr

/-- Action of a host watch beyond MSG (R260): the timed signal. -/
structure Tsig where
  inc : BitVec 16
  tcid : Nat
  offset : Word
  deriving DecidableEq, Repr

/-- A watch slot (R252, `LD_WATCH`). A WAKE watch names its waiter; a host watch its vector and timed signal.
`due` is the deadline of a fired TSIG watch that waits for a timer (R261). -/
structure Watch where
  cid : Nat
  cond : Nat
  operand : Word
  scope : Nat
  who : Option Waiter
  act : Nat
  rearm : Bool
  vec : Nat
  step : BitVec 16
  tsig : Tsig
  due : Option DWord
  deriving DecidableEq, Repr

/-- An armed timer of a home bank (R260). -/
structure Timer where
  slice : Nat
  bank : Nat
  slot : Nat
  deadline : DWord
  tcid : Nat
  inc : BitVec 16
  deriving DecidableEq, Repr

/-- Where applied sequence numbers are recorded (R420, R183). -/
inductive Home where
  | bank (slice h : Nat)
  | combiner
  | group (t g : Nat)
  deriving DecidableEq, Repr

/-- The last sequence number applied at a home for a tile and stream. -/
structure SeqRec where
  home : Home
  tile : Nat
  stream : Nat
  seq : Word
  deriving DecidableEq, Repr

/-- The lodge: counters, contexts, watches, timers, express counters and its registers. -/
structure Lodge where
  val : Tab Word
  cfg : Tab Word
  poison : List Nat
  rel : Tab Rel
  /-- the context table's copies: entry `64 × x + i` of leaf router `p` at 16,384 × p + it (R247) -/
  ctx : Tab Word
  /-- entries of copies that an uncorrectable error has hit -/
  ctxBad : List Nat
  watches : Tab Watch
  timers : List Timer
  flags : BitVec 4
  occ : BitVec 8
  lastCid : BitVec 14
  err : Word
  mm : Word
  errCount : Word
  mmCount : Word
  fullCount : Word
  hwCounter : Word
  hwOperand : Word
  hwAction : Word
  hwTsig : Word
  hwOffset : Word
  hwResult : BitVec 2
  hwSlot : BitVec 12
  xval : Tab Word
  xupds : List Upd
  xrel : Tab Rel
  applied : List SeqRec
  deriving DecidableEq, Repr

/-- A barrier (R267): generation, slot counts, lowest release scope of each generation's arrivals. -/
structure Barrier where
  gen : Nat
  cnt0 : Nat
  cnt1 : Nat
  scope0 : Nat
  scope1 : Nat
  deriving DecidableEq, Repr

/-- The bandstand. -/
structure Band where
  cfg : Tab Word
  bars : Tab Barrier
  err : Word
  errCount : Word
  deriving DecidableEq, Repr

/-! ## Pergola and turnstile registers -/

/-- The pergola (R212–R221). `time` is the counter; every local copy shows it (log 5). -/
structure Pergola where
  src : BitVec 2
  /-- the source in effect: `PG_SRC.SRC` as of the last tick (R215) -/
  srcIn : BitVec 2
  stepEn : Bool
  discEn : Bool
  mu : BitVec 3
  valid : Bool
  fsmiss : Bool
  bigerr : Bool
  loadign : Bool
  steps : BitVec 8
  alarmOcc : BitVec 8
  time : DWord
  load : DWord
  frameRef : DWord
  disc : Word
  slewLim : Word
  err : Word
  owed : Word
  slewCnt : Nat
  loadReq : Bool
  tod : Option DWord
  todDue : Option DWord
  stepDue : Option Word
  frozen : Bool
  running : Bool
  lastFsync : DWord
  missed : Bool
  deriving DecidableEq, Repr

/-- Turnstile registers and points. -/
structure Turn where
  evEn : Bool
  starveLimit : BitVec 15
  floor : BitVec 16
  fixed : Word
  untimed : BitVec 16
  sysrt : BitVec 16
  starve : Word
  starveCount : Word
  points : List (Point × PointSt)
  deriving DecidableEq, Repr

/-! ## Gatehouse -/

/-- Progress of a completion (R324). -/
inductive CompPhase where
  | ready | sent | landed | ownSent | ownLanded | done
  deriving DecidableEq, Repr

/-- A completion of an entry: bytes 64–127 to be written, and how far the writing is. `who` names the instruction (its tile, source
and place in the source's order) where writes or signals of it may still be on their way: that of a tile reset before the
instruction had retired (R324, R405). -/
structure Comp where
  idx : Nat
  flags : Word
  w72 : Word
  w76 : Word
  tLaunch : DWord
  tRetire : DWord
  prog : List Word
  phase : CompPhase
  who : Option (Nat × Source × Nat) := none
  deriving DecidableEq, Repr

/-- A ring (R310–R316). -/
structure Ring where
  base : DWord
  cfg : Word
  en : Bool
  prod : Word
  fetch : Word
  done : Word
  flags : BitVec 4
  occ : BitVec 8
  shadow : DWord
  /-- outstanding fetch requests: first entry and count -/
  fetching : List (Nat × Nat)
  /-- shadow writes not answered -/
  shadowOut : List Word
  /-- answered fetch requests whose entries are not captured yet -/
  arrived : List (Nat × List Byte)
  /-- an entry was fetched with OWN = 0 and waits for its retry (R316) -/
  notown : Bool
  openJob : List QEntry
  /-- the open job has met its 17th entry, which is the next to be captured (R320) -/
  overrun : Bool
  ready : List QEntry
  /-- entries that have broken their jobs, as far as later ones can still be dispatched (R321) -/
  broken : List EntryRef
  /-- accesses held after a failed attempt (R438), and after a translation fault (XFAULT) -/
  held : List GhAcc
  heldX : List GhAcc
  comps : List Comp
  deriving DecidableEq, Repr

/-- A message vector (R333). -/
structure Vec where
  addr : DWord
  data : Word
  mask : Bool
  pend : Bool
  mode : Bool
  wire : BitVec 2
  occ : BitVec 8
  count : Word
  deriving DecidableEq, Repr

/-- A park table entry (R330). -/
structure Park where
  prog : List Word
  faddr : DWord
  info : Word
  deriving DecidableEq, Repr

/-- The gatehouse's domain 0. -/
structure Gate where
  cfgerr : Bool
  vecerr : Bool
  occ : BitVec 8
  cfgRing : BitVec 8
  vecerrVec : BitVec 6
  evstat : Word
  evmap : Tab Word
  evinfo : Tab Word
  evocc : Tab (BitVec 8)
  vecs : Tab Vec
  rings : Tab Ring
  park : Tab Park
  /-- entries dispatched and not known to have issued (R322) -/
  placed : List Seat
  rr : Nat
  deriving DecidableEq, Repr

/-- A register list entry waiting to be applied (R373), with its byte offset in the image. -/
structure BootEntry where
  w0 : Word
  value : Word
  offset : Nat
  deriving DecidableEq, Repr

/-- A way of reading that the flash offers: the instruction, its dummy clocks and its mode clocks (R364). -/
structure ReadWay where
  instr : Nat
  dummy : Nat
  modeClocks : Nat
  /-- what the mode clocks carry -/
  modeBits : Nat
  deriving DecidableEq, Repr

/-- What the boot sequencer learns from SFDP (R364): the signature's presence, 4-byte addressing only, the 1-1-4 and 1-4-4 reads
where supported, and the quad enable requirement. -/
structure Sfdp where
  present : Bool
  addr4 : Bool
  r114 : Option ReadWay
  r144 : Option ReadWay
  qer : Nat
  deriving DecidableEq, Repr

/-- A command on the configuration port (R364–R367): an instruction alone, the write of a status register with its bytes, or a read
with its way, mode (0 1-1-1, 1 1-1-4, 2 1-4-4), address bytes, address and divider of `clk_ref`. -/
inductive SpiCmd where
  | alone (instr : Nat)
  | wrStatus (instr : Nat) (bytes : List Byte)
  | read (way : ReadWay) (mode addrBytes addr div : Nat)
  deriving DecidableEq, Repr

/-- The boot sequencer (R361). -/
structure Boot where
  /-- `GH_BOOT_STATUS.STATE`, 0 POWER to 6 FAILED -/
  state : Nat
  err : Nat
  sect : Nat
  offset : Word
  hostfeed : Bool
  mode : BitVec 2
  addr4 : Bool
  nosfdp : Bool
  running : Bool
  powerStep : Nat
  nsect : Nat
  total : Nat
  div : Nat
  modemax : Nat
  sfdp : Sfdp
  next : Nat
  feed : List Word
  /-- writes of `GH_BOOT_FEED` whose words the sequencer has not taken (R368) -/
  held : List Word
  entries : List BootEntry
  /-- commands issued on the configuration port, oldest first -/
  spi : List SpiCmd
  deriving DecidableEq, Repr

/-- Identification, partition map, seals: registers of the always-on domain (R395). -/
structure Always where
  profile : BitVec 4
  active : BitVec 4
  partTile : Tab Word
  partCtrl : BitVec 4
  partCnt : Tab Word
  partBar : Tab Word
  rstauth : BitVec 3
  debug : Bool
  refused : BitVec 8
  used : Tab Nat
  /-- log entries, first written first; each is W0 to W6 -/
  sealLog : List (List Word)
  msgBase : DWord
  xlateEn : Bool
  wpMask : Tab Word
  expAlloc : Word
  deriving DecidableEq, Repr

/-- An access of host software that waits for the control port. -/
inductive CpAccess where
  | write (a : Nat) (d : Word) (strb : BitVec 4)
  | read (a : Nat)
  deriving DecidableEq, Repr

/-- The control port: its pins and the shadows of register pairs (R10). -/
structure CtlPort where
  rdata : Word
  err : Bool
  shadow : Tab Word
  heldHi : Tab Word
  /-- a write of `GH_BOOT_FEED` is not complete: the sequencer has not taken its word (R368) -/
  busy : Bool
  /-- accesses that wait until the port is free, oldest first -/
  waiting : List CpAccess
  /-- `rst_n` is at 0 -/
  inReset : Bool
  deriving DecidableEq, Repr

/-! ## Clock and power controller -/

/-- A PLL (R386–R391). `inUse` holds the CFG and FRAC settings that it runs with. -/
structure Pll where
  cfg : Word
  frac : Word
  ss : Word
  busy : Bool
  lock : Bool
  lockfail : Bool
  sel : Bool
  occ : BitVec 8
  inUse : Word × Word
  deriving DecidableEq, Repr

/-- States of a power domain (`CP_DOM<d>.STATE`). -/
inductive DomState where
  | off | powering | on | quiescing | quiesced | retention | reset
  deriving DecidableEq, Repr

/-- What a domain's sequence waits for. -/
inductive DomPhase where
  | idle
  /-- drain acknowledgement (R399 step 2) -/
  | drain
  /-- router confirmation (R399 step 3) -/
  | confirm
  /-- `pw_ack` to fall or to rise -/
  | ackLow | ackHigh
  /-- PLL lock, then the isolation release -/
  | lock | release
  /-- 16 cycles of reset (R405) -/
  | inReset
  deriving DecidableEq, Repr

/-- A power domain with its handshake levels. -/
structure Dom where
  state : DomState
  ackerr : Bool
  resets : BitVec 8
  cycles : BitVec 8
  req : Bool
  ack : Bool
  iso : Bool
  phase : DomPhase
  /-- the sequence is a RETAIN -/
  toRet : Bool
  /-- left in QUIESCED by R404 and to come up once `pw_ack` has fallen -/
  thenUp : Bool
  deriving DecidableEq, Repr

/-- The clock and power controller. -/
structure Cpc where
  plls : Tab Pll
  monRange : Tab Word
  monZero : List Nat
  monStatus : Word
  cmdOp : BitVec 3
  cmdDom : BitVec 8
  cmdBusy : Bool
  cmdResult : BitVec 3
  /-- the command waits for the domain's own action to end (R398) -/
  cmdWaits : Bool
  pwrTo : Word
  doms : Tab Dom
  pwRet : List Nat
  /-- clocks reported stopped and not started again, by monitor (R391, R393) -/
  stopped : List Nat
  deriving DecidableEq, Repr

/-! ## Keeper -/

/-- A keeper watchdog (R425–R427). -/
structure Wd where
  cfg : Word
  timeout : BitVec 20
  fired : Bool
  authref : Bool
  occ : BitVec 8
  count : Nat
  latched : Bool
  /-- the target's progress as last seen: the model's own field, by which a later step knows that a progress event
  has come between (log 13) -/
  seen : List Nat
  diag : List Word
  deriving DecidableEq, Repr

/-- A fault log entry (R431): W0 to W6 and whether W0 has been read. -/
structure LogEntry where
  ws : List Word
  read : Bool
  deriving DecidableEq, Repr

/-- The keeper. -/
structure Keeper where
  logcorr : Bool
  logovf : Bool
  scrublate : Bool
  occ : BitVec 8
  log : Tab LogEntry
  next : Nat
  count : Nat
  corr : Word
  replays : Word
  unrec : Word
  scrubEn : Bool
  scrubPeriod : BitVec 4
  scrubPasses : Word
  wdTick : BitVec 8
  wds : Tab Wd
  deriving DecidableEq, Repr

/-! ## Ports -/

/-- An outstanding tag of a system port (R340): the request, its physical address, the translation it used,
flits received, and whether it has timed out (R345). -/
structure TagSt where
  req : PortReq
  pa : DWord
  xlate : Option (Nat × BitVec 52 × BitVec 2)
  got : List (Nat × List Byte)
  timedOut : Bool
  /-- a removed translation was used: an invalidation waits for it (R348) -/
  blocks : Bool
  deriving DecidableEq, Repr

/-- A translation buffer entry (R346). -/
structure TlbEnt where
  part : Nat
  va : BitVec 52
  pa : BitVec 52
  size : BitVec 2
  perm : BitVec 2
  deriving DecidableEq, Repr

/-- An invalidation in progress. -/
structure Inval where
  all : Bool
  va : BitVec 52
  part : Nat
  deriving DecidableEq, Repr

/-- An outstanding translation query, with the invalidations completed since it was sent (R348). -/
structure Query where
  part : Nat
  va : BitVec 52
  wr : Bool
  invals : List Inval
  deriving DecidableEq, Repr

/-- A system port. -/
structure SysPort where
  flags : BitVec 4
  occ : BitVec 8
  tag : BitVec 10
  xmiss : Word
  faddr : DWord
  tags : Tab TagSt
  waiting : List PortReq
  queries : Tab Query
  tlb : List TlbEnt
  inval : Option Inval
  /-- response flits received: the model's own count, the progress that a watchdog sees (log 13) -/
  rspFlits : Nat
  deriving DecidableEq, Repr

/-- The last answer of a window port: its tag, code and data (R349). -/
structure WpResp where
  tag : Nat
  code : Nat
  data : List Byte
  deriving DecidableEq, Repr

/-- Promenade registers, ports and messages in flight. -/
structure Prom where
  windowBase : DWord
  sysmap : Word
  rspTimeout : BitVec 16
  sps : Tab SysPort
  wpResp : Tab WpResp
  /-- outstanding window-port requests by 1,024 × port + tag: the answers of their parts so far -/
  wpOut : Tab (List (Option (Nat × List Byte)))
  net : List Msg
  linkFails : List (Point × Nat)
  failed : List Point
  deriving DecidableEq, Repr

/-- Addends of a chunk in a bank group's accumulate buffer (R182). -/
structure AccRes where
  tile : Nat
  stream : Nat
  seq : Word
  t : Nat
  g : Nat
  bytes : Nat
  /-- epoch of the stream that reserved, and its staged addends in element order -/
  epoch : Nat
  pieces : List WriteReq
  deriving DecidableEq, Repr

/-- Scratchpads and bank groups. -/
structure Spad where
  /-- bytes by tile × 4 MiB + slot offset, canonical with default 0 -/
  mem : List Host.Cell
  poison : List Nat
  acc : List AccRes
  deriving DecidableEq, Repr

/-- The state of the block. -/
structure State where
  gen : GenConfig
  always : Always
  boot : Boot
  cp : CtlPort
  gate : Gate
  cpc : Cpc
  keeper : Keeper
  pg : Pergola
  turn : Turn
  lodge : Lodge
  band : Band
  prom : Prom
  tiles : Tab Tile
  spad : Spad
  /-- commands waiting, first in first out -/
  pending : List Instr
  deriving DecidableEq, Repr

/-! ## Reset values

Each is the Reset column of the register's chapter (R13). A table entry that is not listed reads the value here. -/

def SourceSt.init : SourceSt := { ord := 0, hold := .none, issueWait := 0 }

def Window.init : Window :=
  { elems := 0, sats := 0, flushes := 0, satUp := false, flushUp := false, nextSats := 0, nextFlushes := 0 }

/-- Generator `p` seeded from `seed` (R154). -/
def lfsrSeed (seed : BitVec 16) (p : Nat) : BitVec 16 :=
  let v := seed ^^^ BitVec.ofNat 16 (p * 0x0101)
  if v = 0 then 1 else v

def Tile.init : Tile :=
  { seq := .idle, pc := 0, stopping := false, fetched := none, fetchPc := 0
    ringStreams := 2, startPc := 0, fault := 0, faultCount := 0
    g := [], imem := [], tdt := [], odt := [], wpm := [], badWords := [], streams := [], seqNo := []
    prog := SourceSt.init, rings := [], issued := [], pendProg := [], pendRing := [], inq := [], broken := [], fences := []
    parkCtr := 1, walkErr := 0, walkErrAddr := 0, walkErrCount := 0
    sliceA := 0x08080808, sliceB := 0x08080808, stgPending := none, stgBadsum := false
    activeA := 0x08080808, activeB := 0x08080808
    srSeed := 1, lfsr := (List.range 128).map (lfsrSeed 1)
    calCtrl := 0x10, calSatThr := 0xFFFFFFFF, calFlushThr := 0xFFFFFFFF, calStatus := 0
    calSat := [], calFlush := [], calOcc := 0, windows := []
    scaleErr := 0, scaleErrBlock := 0, scaleErrCount := 0
    lateCtrl := 0, late := 0, lateCount := 0, lateMax := 0
    prio := 0, waited := [], admitReg := 0, refuseCount := 0, replays := 0
    bxErr := 0, bxErrEntry := 0, bxErrBlock := 0, bxErrCount := 0, bxUnder := 0, bxEsc := 0
    barCnt := [], fullRegs := [], xwatches := [], xheld := [] }

def Lodge.init : Lodge :=
  { val := [], cfg := [], poison := [], rel := [], ctx := [], ctxBad := [], watches := [], timers := []
    flags := 0, occ := 0, lastCid := 0, err := 0, mm := 0, errCount := 0, mmCount := 0, fullCount := 0
    hwCounter := 0, hwOperand := 0, hwAction := 0, hwTsig := 0, hwOffset := 0, hwResult := 0, hwSlot := 0
    xval := [], xupds := [], xrel := [], applied := [] }

def Barrier.init : Barrier := { gen := 0, cnt0 := 0, cnt1 := 0, scope0 := 2, scope1 := 2 }

def Band.init : Band := { cfg := [], bars := [], err := 0, errCount := 0 }

def Pergola.init : Pergola :=
  { src := 0, srcIn := 0, stepEn := false, discEn := true, mu := 1, valid := false, fsmiss := false, bigerr := false
    loadign := false, steps := 0, alarmOcc := 0, time := 0, load := 0, frameRef := 0
    disc := 0x04000004, slewLim := 0x1000, err := 0, owed := 0, slewCnt := 0, loadReq := false
    tod := none, todDue := none, stepDue := none, frozen := false, running := false, lastFsync := 0
    missed := false }

def Turn.init : Turn :=
  { evEn := false, starveLimit := 0x400, floor := 0xFF80, fixed := 0x01000040, untimed := 0x7FFF
    sysrt := 0x0180, starve := 0, starveCount := 0, points := [] }

def PointSt.init : PointSt :=
  { last := 0, lost := [], raised := [], granted := [], next := [], half := false, given := [], ctlAge := 0 }

def Ring.init : Ring :=
  { base := 0, cfg := 3, en := false, prod := 0, fetch := 0, done := 0, flags := 0, occ := 0, shadow := 0
    fetching := [], shadowOut := [], arrived := [], notown := false, openJob := [], overrun := false, ready := []
    broken := [], held := [], heldX := [], comps := [] }

def Vec.init : Vec :=
  { addr := 0, data := 0, mask := true, pend := false, mode := false, wire := 0, occ := 0, count := 0 }

def Park.init : Park := { prog := [], faddr := 0, info := 0 }

def Gate.init : Gate :=
  { cfgerr := false, vecerr := false, occ := 0, cfgRing := 0, vecerrVec := 0, evstat := 0, evmap := []
    evinfo := [], evocc := [], vecs := [], rings := [], park := [], placed := [], rr := 0 }

def Sfdp.none : Sfdp := { present := false, addr4 := false, r114 := .none, r144 := .none, qer := 0 }

def Boot.init : Boot :=
  { state := 0, err := 0, sect := 0, offset := 0, hostfeed := false, mode := 0, addr4 := false
    nosfdp := false, running := false, powerStep := 0, nsect := 0, total := 0, div := 0, modemax := 0
    sfdp := Sfdp.none, next := 0, feed := [], held := [], entries := [], spi := [] }

/-- Reset value of `GH_PART_CNT<p>`: everything for partition 0, an empty range otherwise. -/
def partCntInit (p : Nat) : Word := if p = 0 then 0x00003FFF else 0x3FFF0000

/-- Reset value of `GH_PART_BAR<p>`. -/
def partBarInit (p : Nat) : Word := if p = 0 then 0x000001FF else 0x01FF0000

def Always.init : Always :=
  { profile := 2, active := 2, partTile := [], partCtrl := 8
    partCnt := (List.range 8).map (fun p => (p, partCntInit p))
    partBar := (List.range 8).map (fun p => (p, partBarInit p))
    rstauth := 7, debug := false, refused := 0, used := [], sealLog := [], msgBase := 0, xlateEn := false
    wpMask := [], expAlloc := 0 }

def CtlPort.init : CtlPort := { rdata := 0, err := false, shadow := [], heldHi := [], busy := false, waiting := [], inReset := false }

/-- Reset values of PLL `p` (R387). -/
def Pll.init (p : Nat) : Pll :=
  let c : Word := if p = 1 then 0x16001800 else 0x14001800
  { cfg := c, frac := 0, ss := if p ≤ 1 then 0 else 0x1E, busy := false, lock := false, lockfail := false
    sel := decide (p = 1), occ := 0, inUse := (c, 0) }

/-- Reset value of `CP_MON<k>_RANGE`. -/
def monRangeInit (k : Nat) : Word := if k = 1 then 0x0000FF01 else 0x8000FF01

def Dom.init : Dom :=
  { state := .off, ackerr := false, resets := 0, cycles := 0, req := false, ack := false, iso := true
    phase := .idle, toRet := false, thenUp := false }

def Cpc.init : Cpc :=
  { plls := [], monRange := [], monZero := [], monStatus := 0, cmdOp := 0, cmdDom := 0, cmdBusy := false
    cmdResult := 0, cmdWaits := false, pwrTo := 0x001400C8, doms := [], pwRet := [], stopped := [] }

def Wd.init : Wd :=
  { cfg := 0, timeout := 0x64, fired := false, authref := false, occ := 0, count := 0, latched := false
    seen := [], diag := [] }

def LogEntry.init : LogEntry := { ws := [], read := true }

def Keeper.init : Keeper :=
  { logcorr := false, logovf := false, scrublate := false, occ := 0, log := [], next := 0, count := 0
    corr := 0, replays := 0, unrec := 0, scrubEn := true, scrubPeriod := 4, scrubPasses := 0
    wdTick := 0x64, wds := [] }

def SysPort.init : SysPort :=
  { flags := 0, occ := 0, tag := 0, xmiss := 0, faddr := 0, tags := [], waiting := [], queries := []
    tlb := [], inval := none, rspFlits := 0 }

def Prom.init : Prom :=
  { windowBase := 0xFFFFFFFFF8000000, sysmap := 0x00000C00, rspTimeout := 0x0FA0, sps := [], wpResp := [], wpOut := []
    net := [], linkFails := [], failed := [] }

def Spad.init : Spad := { mem := [], poison := [], acc := [] }

/-- The block of a generated configuration right after reset. -/
def State.resetOf (c : GenConfig) : State :=
  { gen := c, always := Always.init, boot := Boot.init, cp := CtlPort.init, gate := Gate.init
    cpc := Cpc.init, keeper := Keeper.init, pg := Pergola.init, turn := Turn.init, lodge := Lodge.init
    band := Band.init, prom := Prom.init, tiles := [], spad := Spad.init, pending := [] }

/-- The block right after reset. The generated configuration is the 32-tile one with 2 MiB scratchpads:
DESIGN CHOICE (log 2), R1 leaves it to the integrator. -/
def State.reset : State := State.resetOf { tiles := .t32, spad4 := false }

end Sys2Proof.Machine
end

