-- ==== Sys2Proof/Machine/Geometry.lean ====
section
/-! DEFINITION. Tiles, pavilions, attachments, distances and routes (R15–R21), and the numbering of power
domains (R358). -/

namespace Sys2Proof.Machine

/-- log2 of the tile count. -/
def GenConfig.logT (c : GenConfig) : Nat :=
  match c.tiles with
  | .t2 => 1 | .t4 => 2 | .t8 => 3 | .t16 => 4 | .t32 => 5

/-- The tile count T. -/
def GenConfig.T (c : GenConfig) : Nat := 2 ^ GenConfig.logT c

/-- Tiles per leaf pavilion (R16). -/
def GenConfig.perLeaf (c : GenConfig) : Nat := if c.tiles = .t2 then 2 else 4

/-- Leaf pavilions L (R16). -/
def GenConfig.leaves (c : GenConfig) : Nat := GenConfig.T c / GenConfig.perLeaf c

/-- Pavilions P (R16). -/
def GenConfig.pavilions (c : GenConfig) : Nat :=
  match c.tiles with
  | .t2 => 1 | .t4 => 1 | .t8 => 3 | .t16 => 5 | .t32 => 11

/-- Pavilion levels (R2). -/
def GenConfig.levels (c : GenConfig) : Nat :=
  match c.tiles with
  | .t2 => 1 | .t4 => 1 | .t8 => 2 | .t16 => 2 | .t32 => 3

/-- System ports T/2 (R2). -/
def GenConfig.sysPorts (c : GenConfig) : Nat := GenConfig.T c / 2

/-- Switched power domains D = 3T + P + L + T/2 + 8 (R32). -/
def GenConfig.domains (c : GenConfig) : Nat :=
  3 * GenConfig.T c + GenConfig.pavilions c + GenConfig.leaves c + GenConfig.sysPorts c + 8

/-- The root pavilion has the last number (R358). -/
def GenConfig.root (c : GenConfig) : Nat := GenConfig.pavilions c - 1

/-- The leaf pavilion of a tile (R17). -/
def GenConfig.leafOf (c : GenConfig) (t : Nat) : Nat := t / GenConfig.perLeaf c

/-- The parent of a pavilion; the root has none (R16, R358: leaves, then the others, the root last). -/
def GenConfig.parent (c : GenConfig) (p : Nat) : Option Nat :=
  if p = GenConfig.root c then none
  else if c.tiles = .t32 then (if p < 4 then some 8 else if p < 8 then some 9 else some 10)
  else some (GenConfig.root c)

/-- The pavilions from one upward to the root. -/
def GenConfig.upFrom (c : GenConfig) (p : Nat) : List Nat :=
  match GenConfig.parent c p with
  | none => [p]
  | some q =>
    match GenConfig.parent c q with
    | none => [p, q]
    | some r => [p, q, r]

/-- The router to which a unit attaches (R21, R240). -/
def GenConfig.router (c : GenConfig) : Node → Nat
  | .tile t => GenConfig.leafOf c t
  | .lodge h => GenConfig.leafOf c h
  | .sysPort n => GenConfig.leafOf c (2 * n)
  | .winPort l => l
  | .gate | .band | .pergola | .keeper | .cpc => GenConfig.root c

/-- Level of a pavilion (R18). -/
def GenConfig.level (c : GenConfig) (p : Nat) : Nat :=
  GenConfig.levels c + 1 - (GenConfig.upFrom c p).length

/-- The lowest pavilion that two upward paths share. -/
def meet (us vs : List Nat) (d : Nat) : Nat := (us.find? (fun p => vs.contains p)).getD d

/-- Distance between two units (R18). -/
def GenConfig.distance (c : GenConfig) (a b : Node) : Nat :=
  if a = b then 0
  else
    let pa := GenConfig.router c a
    let pb := GenConfig.router c b
    match a, b with
    | .tile t, .lodge h => if t = h then 0
        else GenConfig.level c (meet (GenConfig.upFrom c pa) (GenConfig.upFrom c pb) (GenConfig.root c))
    | .lodge h, .tile t => if t = h then 0
        else GenConfig.level c (meet (GenConfig.upFrom c pa) (GenConfig.upFrom c pb) (GenConfig.root c))
    | _, _ => GenConfig.level c (meet (GenConfig.upFrom c pa) (GenConfig.upFrom c pb) (GenConfig.root c))

/-- R33: the synchronisation bound of a distance, in datapath cycles. -/
def boundOf : Nat → Nat
  | 0 => 6
  | 1 => 14
  | 2 => 26
  | _ => 42

/-- The router output that leads to an attached unit; a lodge bank shares its tile's (R240). -/
def exitHop : Node → Hop
  | .tile t => .tile t
  | .lodge h => .tile h
  | .sysPort n => .sysPort n
  | .winPort l => .winPort l
  | .gate | .band | .pergola | .keeper | .cpc => .root

/-- Downward outputs along a path of pavilions from the meeting point to the target's router. -/
def downHops : List Nat → List Point
  | p :: q :: r => .pavOut p (.pav q) :: downHops (q :: r)
  | _ => []

/-- The contention points of a message's one route (R20): up to the smallest pavilion that holds both ends,
then down. A tile reaches its own units without the promenade. A lodge bank's flits take the port of its tile (R240). -/
def GenConfig.route (c : GenConfig) (a b : Node) : List Point :=
  if a = b then []
  else
    let ups := GenConfig.upFrom c (GenConfig.router c a)
    let downs := GenConfig.upFrom c (GenConfig.router c b)
    let top := meet ups downs (GenConfig.root c)
    let first := match a with
      | .tile t => [Point.tileOut t]
      | .lodge h => [Point.tileOut h]
      | .winPort l => [Point.winPort l]
      | _ => []
    let up := (ups.takeWhile (fun p => p ≠ top)).map (fun p => Point.pavOut p .up)
    let path := (top :: (downs.takeWhile (fun p => p ≠ top)).reverse)
    first ++ up ++ downHops path ++ [.pavOut (GenConfig.router c b) (exitHop b)]

/-- Power domain numbers (R358). -/
def GenConfig.domCore (_ : GenConfig) (t : Nat) : Nat := 3 * t
def GenConfig.domSpad (_ : GenConfig) (t : Nat) : Nat := 3 * t + 1
def GenConfig.domBxz (_ : GenConfig) (t : Nat) : Nat := 3 * t + 2
def GenConfig.domRouter (c : GenConfig) (p : Nat) : Nat := 3 * GenConfig.T c + p
def GenConfig.domPll (c : GenConfig) (l : Nat) : Nat := 3 * GenConfig.T c + GenConfig.pavilions c + l
def GenConfig.domPort (c : GenConfig) (n : Nat) : Nat :=
  3 * GenConfig.T c + GenConfig.pavilions c + GenConfig.leaves c + n
/-- The fixed eight: lodge slices 0–3, bandstand, pergola, gatehouse domains 0 and 1. -/
def GenConfig.domFixed (c : GenConfig) (k : Nat) : Nat :=
  3 * GenConfig.T c + GenConfig.pavilions c + GenConfig.leaves c + GenConfig.sysPorts c + k

/-- The unit of a power domain. -/
inductive DomUnit where
  | core (t : Nat) | spad (t : Nat) | bxz (t : Nat) | router (p : Nat) | pll (l : Nat) | port (n : Nat)
  | slice (k : Nat) | band | pergola | gate0 | gate1
  deriving DecidableEq, Repr

/-- Which unit a domain number names; `none` beyond D − 1. -/
def GenConfig.domUnit (c : GenConfig) (d : Nat) : Option DomUnit :=
  let a := 3 * GenConfig.T c
  let b := a + GenConfig.pavilions c
  let e := b + GenConfig.leaves c
  let f := e + GenConfig.sysPorts c
  if d < a then
    some (if d % 3 = 0 then .core (d / 3) else if d % 3 = 1 then .spad (d / 3) else .bxz (d / 3))
  else if d < b then some (.router (d - a))
  else if d < e then some (.pll (d - b))
  else if d < f then some (.port (d - e))
  else if d < f + 4 then some (.slice (d - f))
  else if d = f + 4 then some .band
  else if d = f + 5 then some .pergola
  else if d = f + 6 then some .gate0
  else if d = f + 7 then some .gate1
  else none

/-- Bytes of populated scratchpad per tile (R22). -/
def GenConfig.spadBytes (c : GenConfig) : Nat := if c.spad4 then 4 * 2 ^ 20 else 2 * 2 ^ 20

/-- Bank group of a slot offset (R22). -/
def GenConfig.groupOf (c : GenConfig) (off : Nat) : Nat := off / (GenConfig.spadBytes c / 4)

end Sys2Proof.Machine
end

