-- ==== Sys2Proof/Machine/Ops.lean ====
section
/-! DEFINITION. Named operations over the state: tiles and streams, scratchpad memory, addresses, messages,
events, the keeper's log and counts. -/

namespace Sys2Proof.Machine

/-! ## Tiles and streams -/

/-- Tile `t`. -/
def State.tile (s : State) (t : Nat) : Tile := Tab.get s.tiles Tile.init t

/-- The state with tile `t` replaced. -/
def State.setTile (s : State) (t : Nat) (x : Tile) : State := { s with tiles := Tab.put s.tiles t x }

/-- Stream `n` of tile `t`, when allocated. -/
def State.stream? (s : State) (t n : Nat) : Option Stream := Tab.find (s.tile t).streams n

/-- The state with stream `n` of tile `t` replaced. -/
def State.setStream (s : State) (t n : Nat) (x : Stream) : State :=
  s.setTile t { s.tile t with streams := Tab.put (s.tile t).streams n x }

/-- The state with stream `n` of tile `t` freed (R39). -/
def State.freeStream (s : State) (t n : Nat) : State :=
  s.setTile t { s.tile t with streams := Tab.erase (s.tile t).streams n }

/-- The state of a source: the program, or a ring source. -/
def Tile.source (x : Tile) : Source → SourceSt
  | .prog => x.prog
  | .ring k => Tab.get x.rings SourceSt.init k

/-- A tile with the state of a source replaced. -/
def Tile.setSource (x : Tile) (src : Source) (v : SourceSt) : Tile :=
  match src with
  | .prog => { x with prog := v }
  | .ring k => { x with rings := Tab.put x.rings k v }

/-- Number of a source in LD_WATCH and BS_ERR: 0 program, 1 to 8 ring source (R310). -/
def Source.num : Source → Nat
  | .prog => 0
  | .ring k => k

/-- Whether a source is a ring source. -/
def Source.isRing : Source → Bool
  | .prog => false
  | .ring _ => true

/-- General register `n`: g0 reads as 0 at all times (R37). -/
def Tile.greg (x : Tile) (n : Nat) : DWord := if n = 0 then 0 else Tab.get x.g 0 n

/-- A write of general register `n`: a write to g0 is discarded (R37). -/
def Tile.setG (x : Tile) (n : Nat) (v : DWord) : Tile :=
  if n = 0 then x else { x with g := Tab.set x.g 0 n v }

/-! ## Power domains -/

/-- Status of domain `d`. -/
def State.dom (s : State) (d : Nat) : Dom := Tab.get s.cpc.doms Dom.init d

/-- The state with domain `d` replaced. -/
def State.setDom (s : State) (d : Nat) (x : Dom) : State :=
  { s with cpc := { s.cpc with doms := Tab.put s.cpc.doms d x } }

/-- Domain `d` is ON. -/
def State.isOn (s : State) (d : Nat) : Bool := decide ((s.dom d).state = .on)

/-- The clock of a domain has been found stopped (R391, R393): the promenade's for routers, bandstand and gatehouse domain 0, the
lodge's for lodge slices, a datapath's for the tiles of its leaf pavilion. -/
def clockDead (s : State) (d : Nat) : Bool :=
  !s.cpc.stopped.isEmpty &&
    (match GenConfig.domUnit s.gen d with
     | some (.router _) | some .band | some .gate0 => s.cpc.stopped.contains 3
     | some (.slice _) => s.cpc.stopped.contains 4
     | some (.core t) | some (.spad t) | some (.bxz t) => s.cpc.stopped.contains (8 + GenConfig.leafOf s.gen t)
     | _ => false)

/-- A domain's unit works: it is ON, or QUIESCING, and its clock runs. -/
def State.active (s : State) (d : Nat) : Bool :=
  (decide ((s.dom d).state = .on) || decide ((s.dom d).state = .quiescing)) && !clockDead s d

/-! ## Scratchpad memory -/

/-- Bytes of one tile's slot of the scratchpad window (R22). -/
def slotBytes : Nat := 4 * 2 ^ 20

/-- The byte at a window offset; a byte that nothing has written reads 0 (log 3). -/
def memByte (m : List Host.Cell) (o : Nat) : Byte := Tab.get m 0 o

/-- `n` bytes from a window offset. -/
def memRead (m : List Host.Cell) (o : Nat) : Nat → List Byte
  | 0 => []
  | n + 1 => memByte m o :: memRead m (o + 1) n

/-- Bytes written from a window offset, in the canonical form. -/
def memWrite (m : List Host.Cell) (o : Nat) : List Byte → List Host.Cell
  | [] => m
  | b :: bs => memWrite (Tab.set m 0 o b) (o + 1) bs

/-- The canonical form of the memory: addresses strictly rising and no entry equal to 0. -/
def Memory.wf (m : List Host.Cell) : Bool := Tab.wf (0 : Byte) m

/-- The 8-byte units that `n` bytes from an offset touch. -/
def unitsOf (o n : Nat) : List Nat :=
  if n = 0 then [] else (List.range ((o + n - 1) / 8 + 1 - o / 8)).map (fun i => o / 8 + i)

/-- Whether any of the bytes lies in a poisoned unit (R416). -/
def poisoned (p : List Nat) (o n : Nat) : Bool := (unitsOf o n).any (fun u => p.contains u)

/-- Whether `n` bytes from an offset cover all of unit `u`. -/
def coversUnit (o n u : Nat) : Bool := decide (o ≤ 8 * u) && decide (8 * u + 8 ≤ o + n)

/-- Write bytes under the rule of R416: a write that covers part of a poisoned unit is not performed; a
poisoned unit that is covered becomes good (log 8). The answer says whether the write was performed. -/
def spadWrite (sp : Spad) (o : Nat) (bs : List Byte) : Spad × Bool :=
  let n := bs.length
  if (unitsOf o n).any (fun u => sp.poison.contains u && !coversUnit o n u) then (sp, false)
  else
    ({ sp with mem := memWrite sp.mem o bs
               poison := sp.poison.filter (fun u => !coversUnit o n u) }, true)

/-! ## Addresses -/

/-- What an address that is generated now is judged under. -/
def State.genNow (s : State) : GenAt := { win := s.prom.windowBase, parts := s.always.partTile }

/-- The state with window base and partitions as they were when an address was generated: by these it is judged (R292, R380). -/
def State.atBase (s : State) (b : GenAt) : State :=
  { s with prom := { s.prom with windowBase := b.win }, always := { s.always with partTile := b.parts } }

/-- Offset of an address in the scratchpad window; none outside it (R291). -/
def windowOff (s : State) (a : DWord) : Option Nat :=
  let o := (a - s.prom.windowBase).toNat
  if o < 2 ^ 27 then some o else none

/-- A window offset that names a populated byte of a present tile (R77). -/
def offOk (s : State) (o : Nat) : Bool :=
  decide (o / slotBytes < GenConfig.T s.gen) && decide (o % slotBytes < GenConfig.spadBytes s.gen)

/-- Interleave granule exponent: below 12 acts as 12, above 30 as 30. -/
def sysGran (s : State) : Nat := max 12 (min 30 (fld s.prom.sysmap 12 8))

/-- The system port that serves a system address (R344), for a stream of tile `t` or the gatehouse. -/
def portOf (s : State) (t : Option Nat) (a : DWord) : Nat :=
  if bit s.prom.sysmap 31 then (a.toNat >>> sysGran s) % GenConfig.sysPorts s.gen
  else
    match t with
    | some t => t / 2
    | none =>
      let p := fld s.prom.sysmap 3 0
      if p < GenConfig.sysPorts s.gen then p else 0

/-- The data endpoint of an address for a stream of tile `t` (R23). -/
def endpointOf (s : State) (t : Nat) (a : DWord) : Endpoint :=
  match windowOff s a with
  | some o => .group (o / slotBytes) (GenConfig.groupOf s.gen (o % slotBytes))
  | none => .port (portOf s (some t) a)

/-- All of `n` bytes lie at one data endpoint: endpoints change at 4 KiB boundaries at the closest (R22, R344). -/
def oneEndpoint (s : State) (t : Nat) (a : DWord) (n : Nat) : Bool :=
  (List.range (n / 4096 + 2)).all (fun i =>
    decide (endpointOf s t (a + BitVec.ofNat 64 (min (4096 * i) (n - 1))) = endpointOf s t a))

/-- The bank of a window offset: four per group, chosen by slot-offset bits [8:7] (R22). -/
def bankOf (s : State) (o : Nat) : Point :=
  .bank (o / slotBytes) (4 * GenConfig.groupOf s.gen (o % slotBytes) + (o / 128) % 4)

/-- Flits of a request: one for each 128 B granule that its range touches (R98). -/
def flitsOf (a : DWord) (n : Nat) : Nat :=
  if n = 0 then 1 else (a.toNat + n - 1) / 128 + 1 - a.toNat / 128

/-! ## Partitions (R381) -/

/-- Partition of a tile. -/
def partOf (s : State) (t : Nat) : Nat :=
  fld (Tab.get s.always.partTile 0 (t / 8)) (4 * (t % 8) + 2) (4 * (t % 8))

/-- Counter `c` belongs to partition `p`. -/
def cntIn (s : State) (p c : Nat) : Bool :=
  let w := Tab.get s.always.partCnt (partCntInit p) p
  decide (fld w 29 16 ≤ c) && decide (c ≤ fld w 13 0)

/-- Barrier `b` belongs to partition `p`. -/
def barIn (s : State) (p b : Nat) : Bool :=
  let w := Tab.get s.always.partBar (partBarInit p) p
  decide (fld w 24 16 ≤ b) && decide (b ≤ fld w 8 0)

/-- Express counter `e` belongs to partition `p` (R266). -/
def expIn (s : State) (p e : Nat) : Bool :=
  decide (fld s.always.expAlloc (4 * (e / 32) + 3) (4 * (e / 32)) = p)

/-- Counter `c` belongs to the control port's partition; 8 to 15 is every partition. -/
def cpCnt (s : State) (c : Nat) : Bool :=
  decide (8 ≤ s.always.partCtrl.toNat) || cntIn s s.always.partCtrl.toNat c

/-! ## Events and vectors (R331–R335) -/

/-- Make vector `v` pending. -/
def pendVec (s : State) (v : Nat) : State :=
  let x := Tab.get s.gate.vecs Vec.init v
  { s with gate := { s.gate with
      vecs := Tab.put s.gate.vecs v { x with pend := true, occ := satInc x.occ } } }

/-- The word of `GH_EVINFO`. -/
def evInfo (t n ring detail : Nat) : Word := atN t 27 ||| atN n 24 ||| atN ring 16 ||| atN detail 0

/-- Raise event `e` (R332). While gatehouse domain 0 is off, or the promenade or lodge clock has stopped, an event is recorded only in
the keeper's log (R393, R395). -/
def raise (s : State) (e t n ring detail : Nat) : State :=
  if s.active (GenConfig.domFixed s.gen 6) && !s.cpc.stopped.contains 4 then
    let g := s.gate
    let g := { g with evstat := putBit g.evstat e true
                      evinfo := Tab.set g.evinfo 0 e (evInfo t n ring detail)
                      evocc := Tab.set g.evocc 0 e (satInc (Tab.get g.evocc 0 e)) }
    let s := { s with gate := g }
    let m := Tab.get g.evmap 0 e
    if bit m 31 then pendVec s (fld m 5 0) else s
  else s

def evCalibSat : Nat := 0
def evCalibFlush : Nat := 1
def evTimeLate : Nat := 2
def evTbStep : Nat := 3
def evTbAlarm : Nat := 4
def evLodgeErr : Nat := 5
def evScopeMismatch : Nat := 6
def evTsStarve : Nat := 7
def evStreamParked : Nat := 8
def evRingErr : Nat := 9
def evSealBudget : Nat := 10
def evKpFault : Nat := 11
def evKpWatchdog : Nat := 12
def evClkFail : Nat := 13

/-! ## The fault log (R431) -/

/-- Fault mechanisms. -/
inductive Mech where
  | lockstep | residue | chunkchk | linkretry | linkfail | sramCe | sramUe | scrubCe | scrubUe | lodgeDup
  | tbMismatch | clkStop | clkFreq | watchdog | rspTimeout | hostError | pllLockfail | pwrTimeout | replayLimit
  deriving DecidableEq, Repr

/-- MECH codes. -/
def Mech.code : Mech → Nat
  | .lockstep => 0x00 | .residue => 0x01 | .chunkchk => 0x02 | .linkretry => 0x03 | .linkfail => 0x04
  | .sramCe => 0x05 | .sramUe => 0x06 | .scrubCe => 0x07 | .scrubUe => 0x08 | .lodgeDup => 0x09
  | .tbMismatch => 0x0A | .clkStop => 0x0B | .clkFreq => 0x0C | .watchdog => 0x0D | .rspTimeout => 0x0E
  | .hostError => 0x0F | .pllLockfail => 0x10 | .pwrTimeout => 0x11 | .replayLimit => 0x12

/-- Fault classes. -/
inductive FClass where
  | corrected | recovered | unrecovered | reported
  deriving DecidableEq, Repr

/-- CLASS codes. -/
def FClass.code : FClass → Nat
  | .corrected => 0 | .recovered => 1 | .unrecovered => 2 | .reported => 3

/-- The UNIT and INDEX of a log entry. -/
structure LogUnit where
  unit : Nat
  index : Nat
  deriving DecidableEq, Repr

def luTile (t : Nat) : LogUnit := ⟨0, t⟩
def luRouter (p : Nat) : LogUnit := ⟨1, p⟩
def luSysPort (n : Nat) : LogUnit := ⟨2, n⟩
def luWinPort (l : Nat) : LogUnit := ⟨3, l⟩
def luSlice (k : Nat) : LogUnit := ⟨4, k⟩
def luPergola : LogUnit := ⟨6, 0⟩
def luGate : LogUnit := ⟨7, 0⟩
def luKeeper : LogUnit := ⟨8, 0⟩
def luClock (k : Nat) : LogUnit := ⟨9, k⟩
def luWatchdog (i : Nat) : LogUnit := ⟨10, i⟩

/-- What an entry adds to class, mechanism and unit. -/
structure LogInfo where
  stream : Nat := 0
  code : Nat := 0
  detail : Nat := 0
  addr : DWord := 0
  seq : Word := 0
  deriving DecidableEq, Repr

/-- Write the next log entry, without its event. -/
def logEntry (s : State) (c : FClass) (m : Mech) (u : LogUnit) (i : LogInfo) : State :=
  let k := s.keeper
  let ws : List Word :=
    [ 0x80000000 ||| atN c.code 29 ||| atN m.code 24 ||| atN u.unit 20 ||| atN (u.index % 65536) 0,
      atN i.stream 29 ||| atN i.code 16 ||| atN (i.detail % 65536) 0,
      lo32 i.addr, hi32 i.addr, lo32 s.pg.time, hi32 s.pg.time, i.seq ]
  let old := Tab.get k.log LogEntry.init k.next
  let ovf := !old.read
  { s with keeper := { k with
      log := Tab.put k.log k.next { ws := ws, read := false }
      next := (k.next + 1) % 64
      count := min 64 (k.count + 1)
      unrec := if c = .unrecovered then satInc k.unrec else k.unrec
      logovf := k.logovf || ovf
      occ := if ovf then satInc k.occ else k.occ } }

/-- The event KP_FAULT of an entry: DETAIL is the entry's index and MECH; TILE and STREAM are the fault's where its unit
is a tile (R332, R431). -/
def raiseFault (s : State) (next : Nat) (m : Mech) (u : LogUnit) (i : LogInfo) : State :=
  let tile := decide (u.unit = 0)
  raise s evKpFault (if tile then u.index else 0) (if tile then i.stream else 0) 0 (next + m.code * 256)

/-- The keeper's clock runs (R393). -/
def keeperRuns (s : State) : Bool := !s.cpc.stopped.contains 5

/-- Log a fault. Class UNRECOVERED, and REPORTED other than WATCHDOG and the clock monitors, raise KP_FAULT;
CORRECTED faults are counted, and logged only while LOGCORR = 1. With the keeper's clock stopped nothing is logged (R393). -/
def klog (s : State) (c : FClass) (m : Mech) (u : LogUnit) (i : LogInfo) : State :=
  if !keeperRuns s then s
  else
    match c with
    | .corrected =>
      let s := { s with keeper := { s.keeper with corr := satInc s.keeper.corr } }
      if s.keeper.logcorr then logEntry s c m u i else s
    | .recovered => logEntry s c m u i
    | .unrecovered =>
      raiseFault (logEntry s c m u i) s.keeper.next m u i
    | .reported =>
      let s' := logEntry s c m u i
      if m = .watchdog ∨ m = .clkStop ∨ m = .clkFreq then s'
      else raiseFault s' s.keeper.next m u i

/-! ## Gatehouse flags -/

/-- Flag bits of `GH_RING<q>_STATUS`: 3 OVERFILL, 2 NOTOWN, 1 XFAULT, 0 HOSTERR. -/
def ringFlag (s : State) (q b : Nat) : State :=
  let r := Tab.get s.gate.rings Ring.init q
  let r := { r with flags := putBit r.flags b true, occ := satInc r.occ }
  raise { s with gate := { s.gate with rings := Tab.put s.gate.rings q r } } evRingErr 0 0 q 0

/-- Ring `q`. -/
def State.ring (s : State) (q : Nat) : Ring := Tab.get s.gate.rings Ring.init q

/-- The state with ring `q` replaced. -/
def State.setRing (s : State) (q : Nat) (r : Ring) : State :=
  { s with gate := { s.gate with rings := Tab.put s.gate.rings q r } }

/-- Tile, ring source and partition of a ring (`GH_RING<q>_CFG`). -/
def Ring.tile (r : Ring) : Nat := fld r.cfg 31 27
def Ring.rsrc (r : Ring) : Nat := fld r.cfg 26 24 + 1
def Ring.part (r : Ring) : Nat := fld r.cfg 23 21
def Ring.cvec (r : Ring) : Nat := fld r.cfg 15 10
def Ring.cmode (r : Ring) : Nat := fld r.cfg 9 8
def Ring.shen (r : Ring) : Bool := bit r.cfg 7
def Ring.size (r : Ring) : Nat := fld r.cfg 4 0

/-! ## Messages -/

/-- A point is a scratchpad bank. -/
def Point.isBank : Point → Bool
  | .bank _ _ => true
  | _ => false

/-- The number of the router input at which a unit's flits arrive, a lodge bank's being its tile's (R240). The spec orders round
robin by requester numbers and gives inputs none: these are the model's (DESIGN CHOICE, log 127). -/
def Node.num : Node → Nat
  | .tile t => t
  | .lodge h => h
  | .sysPort n => 128 + n
  | .winPort l => 192 + l
  | .gate => 224
  | .band => 225
  | .pergola => 226
  | .keeper => 227
  | .cpc => 228

/-- The number of the router input at which a flit that left a point arrives (DESIGN CHOICE, log 127). -/
def Point.inpNum : Point → Nat
  | .readIssue t => t
  | .writeIssue t => t
  | .datapath t => t
  | .tileOut t => t
  | .pavOut p _ => 256 + p
  | .bank t _ => t
  | .sysPort n => 128 + n
  | .winPort l => 192 + l

/-- The flits of a message as they leave its unit: each with its index; a message that stays in its unit is whole (R302). -/
def Msg.split (m : Msg) : List Msg :=
  if m.route.all Point.isBank then [{ m with index := m.flits - 1 }]
  else (List.range (max 1 m.flits)).map (fun i => { m with index := i })

/-- Put the flits of a message in flight, at the end of the queue of its first point. -/
def post (s : State) (cls : Cls) (src dst : Node) (tail : List Point) (slack : Int) (prio flits : Nat)
    (body : Body) : State :=
  let m : Msg :=
    { cls := cls, src := src, dst := dst, slack := slack, stamp := slack, prio := prio, flits := flits, index := 0
      route := GenConfig.route s.gen src dst ++ tail, inp := Node.num src, done := 0, got := [], sats := 0, bad := false
      again := false, body := body }
  { s with prom := { s.prom with net := s.prom.net ++ m.split } }

/-- A control or lodge class message of no stream: one flit. The spec gives a lodge flit of no stream no slack; it carries 0
(DESIGN CHOICE, log 127). -/
def postSmall (s : State) (cls : Cls) (src dst : Node) (body : Body) : State :=
  post s cls src dst [] 0 0 1 body

/-- The flits that `lost` names are gone. What is left of a message that loses one never makes it whole: its receiver waits for a
flit more than it has (R302). -/
def dropFlits (lost : Msg → Bool) (net : List Msg) : List Msg :=
  let gone := net.filter lost
  let same := fun (a b : Msg) => decide (a.body = b.body) && decide (a.src = b.src) && decide (a.dst = b.dst)
    && decide (a.flits = b.flits)
  (net.filter (fun m => !lost m)).map (fun m =>
    if 1 < m.flits ∧ gone.any (fun g => same g m) then { m with flits := m.flits + 1 } else m)

/-- The messages that a multicast message becomes once it has passed a point: one for each output that its deliveries take, and
each delivery that has arrived on its own (R255). -/
def forkWakes (m : Msg) (ws : List WakeTo) : List Msg :=
  let outs := (ws.map (fun w => w.route.head?)).eraseDups
  outs.flatMap (fun o =>
    let g := ws.filter (fun w => decide (w.route.head? = o))
    let one := fun (w : WakeTo) =>
      { m with dst := .tile w.reg.who.tile, route := w.route, body := .wake w.reg w.result w.bad }
    match o, g with
    | some p, _ :: _ :: _ => [{ m with route := [p], body := .wakes g }]
    | _, _ => g.map one)

/-- The deliveries that a message carries. -/
def Msg.wakesOf (m : Msg) : List WakeTo :=
  match m.body with
  | .wake r result bad => [{ route := m.route, reg := r, result := result, bad := bad }]
  | .wakes ws => ws
  | _ => []

/-- The deliveries posted since state `old` leave as one multicast message (R255). -/
def joinWakes (old s : State) : State :=
  let n := old.prom.net.length
  let new := s.prom.net.drop n
  match new.filter (fun m => !(Msg.wakesOf m).isEmpty) with
  | m :: ms =>
    let rest := new.filter (fun m => (Msg.wakesOf m).isEmpty)
    let one := forkWakes m ((m :: ms).flatMap Msg.wakesOf)
    { s with prom := { s.prom with net := s.prom.net.take n ++ rest ++ one } }
  | [] => s

/-- A message has reached its unit: only banks lie ahead of it. -/
def Msg.atUnit (m : Msg) : Bool := m.route.all Point.isBank && !m.again

/-- The agent whose request a message carries: a stream of a tile, or a window port (R285). -/
def Msg.agent (m : Msg) : Option (Nat × Nat × Nat) :=
  match m.body with
  | .rd r => some (0, r.tile, r.stream)
  | .wr w => some (0, w.tile, w.stream)
  | .discardCmd t n _ _ _ _ _ => some (0, t, n)
  | .wp q => some (1, q.port, 0)
  | _ => none

/-- A message is an apply command (R182). -/
def Msg.isApply (m : Msg) : Bool :=
  match m.body with
  | .wr w => decide (w.kind = .apply)
  | _ => false

/-- Tile and bank group of a window offset. -/
def groupAt (s : State) (o : Nat) : Nat × Nat := (o / slotBytes, GenConfig.groupOf s.gen (o % slotBytes))

/-- The bank group that a request goes to. -/
def Msg.group (s : State) (m : Msg) : Option (Nat × Nat) :=
  let ofEnd := fun (e : Endpoint) => match e with
    | .group t g => some (t, g)
    | .port _ => none
  match m.body with
  | .rd r => r.off.map (groupAt s)
  | .wr w => ofEnd w.endpoint
  | .discardCmd _ _ _ ep _ _ _ => ofEnd ep
  | .wp q => some (groupAt s q.off)
  | _ => none

/-- Home bank of a counter within its slice (R239). -/
def homeBank (s : State) (c : Nat) : Nat := (c % 4096) >>> (12 - GenConfig.logT s.gen)

/-- Slice of a counter (R239). -/
def sliceOf (c : Nat) : Nat := c / 4096

/-- The home bank that an update or a registration goes to. -/
def Msg.lodgeBank (s : State) (m : Msg) : Option (Nat × Nat) :=
  let of := fun (c : Nat) => some (sliceOf c, homeBank s c)
  match m.body with
  | .upd u => of u.cid
  | .watchReg r => of r.cid
  | .withdraw r => of r.cid
  | _ => none

/-- A message waits for an earlier one at its unit: of requests to a bank group, one of the same agent, and an apply any other
(R185, R285, R288); at a lodge bank any (R241); elsewhere one of the same sender and class (R20). -/
def Msg.behind (s : State) (m x : Msg) : Bool :=
  match m.group s, m.lodgeBank s with
  | some g, _ => decide (x.group s = some g) && (decide (x.agent = m.agent) || (m.isApply && x.isApply))
  | none, some b => decide (x.lodgeBank s = some b)
  | none, none => decide (x.src = m.src) && decide (x.dst = m.dst) && decide (x.cls = m.cls)

/-- Message `m` at place `i` has its turn at its unit. -/
def inTurn (s : State) (i : Nat) (m : Msg) : Bool :=
  (s.prom.net.take i).all (fun x => !(x.atUnit && m.behind s x))

/-- Message `i`, when it has reached its unit, has been granted its access, and has its turn. -/
def arrived (s : State) (i : Nat) : Option Msg :=
  match s.prom.net[i]? with
  | none => none
  | some m => if m.route.isEmpty && !m.again && inTurn s i m then some m else none

/-- Take message `i` off the network. -/
def dropMsg (s : State) (i : Nat) : State :=
  { s with prom := { s.prom with net := s.prom.net.eraseIdx i } }

/-! ## Counters -/

/-- Send a counter update to its home: on an express wire, or as a lodge-class message (R249, R263). -/
def sendUpd (s : State) (src : Node) (u : Upd) : State :=
  if u.express then { s with lodge := { s.lodge with xupds := s.lodge.xupds ++ [u] } }
  else postSmall s .lodge src (.lodge (homeBank s u.cid)) (.upd u)

/-! ## Local time -/

/-- The local copy of the timebase: it equals the pergola's counter (R213, log 5). -/
def localTime (s : State) : DWord := s.pg.time

/-- Signed difference of two counter values. -/
def diffI (a b : DWord) : Int := (a - b).toInt

/-- ⌈Tc × 3,125 / 6,144⌉ saturating at 65,535 ns (R232). -/
def nsOf (tc : Nat) : Nat := min 65535 (ceilDiv (tc * 3125) 6144)

end Sys2Proof.Machine
end

