-- ==== Sys2Proof/Machine/Operands.lean ====
section
/-! DEFINITION. Fields of the mover instruction word (R46–R64), of tensor descriptors (R67) and op descriptors
(R70), the element formats (R129–R133), and the slack of a stream (R295–R298). -/

namespace Sys2Proof.Machine

/-- What the read of some words of a tile's memories finds: `ecc`, or the error that the scrubber found in one of them and that no write
has removed (R415; DESIGN CHOICE, log 131). -/
def Tile.readEcc (x : Tile) (reads : ScrubLoc → Bool) (ecc : Ecc) : Ecc := if x.badWords.any reads then .bad else ecc

/-- Field [hi:lo] of the 32-bit word at byte `b` of a structure. -/
def wf {n : Nat} (l : BitVec n) (b hi lo : Nat) : Nat := fld l (8 * b + hi) (8 * b + lo)

/-- Bit `i` of the 32-bit word at byte `b`. -/
def wb {n : Nat} (l : BitVec n) (b i : Nat) : Bool := bit l (8 * b + i)

/-- A 64-bit field at byte `b`. -/
def wq {n : Nat} (l : BitVec n) (b : Nat) : DWord := BitVec.ofNat 64 (fld l (8 * b + 63) (8 * b))

/-! ## The header (R46) -/

def iOpc (l : Line) : Nat := wf l 0 7 0
def iPrio (l : Line) : Nat := wf l 0 11 8
def iDep (l : Line) : Bool := wb l 0 12
def iSigmode (l : Line) : Nat := wf l 0 14 13
def iLaunch (l : Line) : Nat := wf l 0 16 15
def iScope (l : Line) : Nat := wf l 0 18 17
def iLreg (l : Line) : Nat := wf l 0 23 19
def iCtx (l : Line) : Nat := wf l 0 31 24
def iDv (l : Line) (n : Nat) : Bool := wb l 4 (if n = 0 then 15 else 31)
def iDreg (l : Line) (n : Nat) : Nat := if n = 0 then wf l 4 12 8 else wf l 4 28 24
def iDid (l : Line) (n : Nat) : Nat := if n = 0 then wf l 4 5 0 else wf l 4 21 16
def iDimm (l : Line) (n : Nat) : Nat := if n = 0 then wf l 56 31 0 else wf l 60 31 0
def iLtime (l : Line) : DWord := wq l 8
def iSiginc (l : Line) : Nat := wf l 16 31 16
def iSigid (l : Line) : Nat := wf l 16 5 0
def iTag (l : Line) : Nat := wf l 20 15 0

/-! ## Bodies (R52–R64) -/

def iOpd (l : Line) : Nat := wf l 24 22 16
def iDstTd (l : Line) : Nat := wf l 24 15 8
def iSrcTd (l : Line) : Nat := wf l 24 7 0
def iDstBreg (l : Line) : Nat := wf l 28 12 8
def iSrcBreg (l : Line) : Nat := wf l 28 4 0
def iWuse (l : Line) : Bool := wb l 28 31
def iWpc (l : Line) : Nat := wf l 28 27 16
def iRuse (l : Line) : Bool := wb l 28 15
def iRpc (l : Line) : Nat := wf l 28 11 0
def iWareg (l : Line) : Nat := wf l 32 12 8
def iRareg (l : Line) : Nat := wf l 32 4 0
/-- VREG of a SIG and A of a SET or B of a branch share bits [20:16] of bytes 24–27. -/
def iVreg (l : Line) : Nat := wf l 24 20 16
def iG (l : Line) : Bool := wb l 24 14
def iCid (l : Line) : Nat := wf l 24 13 0
def iValue (l : Line) : Nat := wf l 28 31 0
def iRreg (l : Line) : Nat := wf l 24 28 24
def iTreg (l : Line) : Nat := wf l 24 23 19
def iCond (l : Line) : Nat := wf l 24 18 16
def iWrel (l : Line) : Bool := wb l 24 16
def iBarid (l : Line) : Nat := wf l 24 8 0
def iSetB (l : Line) : Nat := wf l 24 28 24
def iSetA (l : Line) : Nat := wf l 24 20 16
def iSetD (l : Line) : Nat := wf l 24 12 8
def iSop (l : Line) : Nat := wf l 24 3 0
def iWi (l : Line) : Nat := wf l 28 11 8
def iTi (l : Line) : Nat := wf l 28 7 0
def iImm (l : Line) : DWord := wq l 32
def iBrB (l : Line) : Nat := wf l 24 20 16
def iBrA (l : Line) : Nat := wf l 24 12 8
def iBrCond (l : Line) : Nat := wf l 24 2 0
def iTarget (l : Line) : Nat := wf l 28 9 0
def iAbandon (l : Line) : Bool := wb l 24 8
def iStream (l : Line) : Nat := wf l 24 2 0
def iParkid (l : Line) : Word := BitVec.ofNat 32 (wf l 28 31 0)

/-! ## Class opcodes (R48) and rows of the table -/

/-- What an instruction word is: the row of the table that issues it. `SOP` and `COND` pick the row of SET and
WAIT; `bad` is a word of no row (R48, R57, R60). -/
inductive Row where
  | move | walk | sig | waitGe | waitEq | waitAcquire | waitClaim | fence | bar
  | add | sub | and | or | xor | shl | shr | tdw | odw | rdtime | jmp | br | halt | nop | resume | abandon
  | bad
  deriving DecidableEq, Repr

/-- The row of an instruction word. -/
def rowOf (l : Line) : Row :=
  match iOpc l with
  | 0x01 => .move
  | 0x02 => .walk
  | 0x10 => .sig
  | 0x11 =>
    match iCond l with
    | 0 => .waitGe
    | 1 => .waitEq
    | 2 => .waitAcquire
    | 3 => .waitClaim
    | _ => .bad
  | 0x12 => .fence
  | 0x13 => .bar
  | 0x20 =>
    match iSop l with
    | 0 => .add
    | 1 => .sub
    | 2 => .and
    | 3 => .or
    | 4 => .xor
    | 5 => .shl
    | 6 => .shr
    | 7 => .tdw
    | 8 => .odw
    | 9 => .rdtime
    | _ => .bad
  | 0x30 => .jmp
  | 0x31 => .br
  | 0x32 => .halt
  | 0x33 => .nop
  | 0x40 => if iAbandon l then .abandon else .resume
  | _ => .bad

/-- A row whose instruction uses a stream (R48). -/
def Row.isStream : Row → Bool
  | .move => true
  | .walk => true
  | _ => false

/-- A row of the SET class. -/
def Row.isSet : Row → Bool
  | .add | .sub | .and | .or | .xor | .shl | .shr | .tdw | .odw | .rdtime => true
  | _ => false

/-- A row of the WAIT class. -/
def Row.isWait : Row → Bool
  | .waitGe | .waitEq | .waitAcquire | .waitClaim => true
  | _ => false

/-- A row that takes effect as it issues (R61, R62), or, where DEP or LAUNCH hold it, as they let it go (R51). -/
def Row.atIssue : Row → Bool
  | .jmp | .br | .halt => true
  | r => r.isSet

/-- A row that enters the pending-signal queue at its launch (R58). -/
def Row.pends : Row → Bool
  | .sig | .bar => true
  | _ => false

/-- An instruction that holds its source until it is satisfied: WAIT, and BAR with WREL = 1 (R57, R58). -/
def holdsSource (l : Line) : Bool := (rowOf l).isWait || (decide (rowOf l = .bar) && iWrel l)

/-! ## Tensor descriptors (R67) -/

/-- A tensor descriptor as captured. -/
abbrev Td := BitVec 1024

def tdBase (t : Td) : DWord := wq t 0
def tdCirc (t : Td) (d : Nat) : Bool := bit t (64 + 12 + d)
def tdNonidem (t : Td) : Bool := bit t (64 + 11)
def tdNdim (t : Td) : Nat := fld t (64 + 10) (64 + 8)
def tdFmt (t : Td) : Nat := fld t (64 + 7) 64
def tdStride (t : Td) (d : Nat) : Int := sext 40 (fld t (8 * (16 + 8 * d) + 63) (8 * (16 + 8 * d) + 24))
def tdCount (t : Td) (d : Nat) : Nat := fld t (8 * (16 + 8 * d) + 23) (8 * (16 + 8 * d))
def tdClen (t : Td) (d : Nat) : Nat := fld t (8 * (80 + 6 * d) + 47) (8 * (80 + 6 * d) + 24)
def tdCstart (t : Td) (d : Nat) : Nat := fld t (8 * (80 + 6 * d) + 23) (8 * (80 + 6 * d))

/-- The dimensions a descriptor has. -/
def tdDims (t : Td) : List Nat := List.range (tdNdim t + 1)

/-- Counts of a descriptor, dimension 0 first. -/
def tdCounts (t : Td) : List Nat := (tdDims t).map (tdCount t)

/-- Product of counts. -/
def prodL (l : List Nat) : Nat := l.foldl (· * ·) 1

/-- Element count of a descriptor walk. -/
def tdN (t : Td) : Nat := prodL (tdCounts t)

/-- Index vector of element `k` of a walk with these counts, dimension 0 fastest (R79). -/
def unrank : List Nat → Nat → List Nat
  | [], _ => []
  | c :: cs, k => (if c = 0 then 0 else k % c) :: unrank cs (if c = 0 then 0 else k / c)

/-- Element number of an index vector. -/
def rank : List Nat → List Nat → Nat
  | c :: cs, i :: is => i + c * rank cs is
  | _, _ => 0

/-- j_d of R68: linear, or circular (R85). -/
def tdIndex (t : Td) (d i : Nat) : Nat :=
  if tdCirc t d then
    (if tdClen t d = 0 then 0 else (tdCstart t d + i) % tdClen t d)
  else i

/-- Byte offset of an index vector from the base, over dimensions from `d` (R68). -/
def tdOffset (t : Td) : Nat → List Nat → Int
  | _, [] => 0
  | d, i :: is => tdStride t d * (tdIndex t d i : Int) + tdOffset t (d + 1) is

/-- An address moved by a signed number of bytes, modulo 2^64. -/
def addI (a : DWord) (o : Int) : DWord := BitVec.ofNat 64 (((a.toNat : Int) + o) % (2 : Int) ^ 64).toNat

/-! ## Op descriptors (R70) -/

/-- Word `k` of an op descriptor. -/
def ow (o : Line) (k hi lo : Nat) : Nat := wf o (4 * k) hi lo

def oRate (o : Line) : Nat := ow o 0 31 28
def oCplx (o : Line) : Nat := ow o 0 27 26
def oPerm (o : Line) : Bool := wb o 0 25
def oPad (o : Line) : Bool := wb o 0 24
def oPadmode (o : Line) : Nat := ow o 0 23 22
def oRefuse (o : Line) : Bool := wb o 0 21
def oAcc (o : Line) : Bool := wb o 0 20
def oEscmax (o : Line) : Nat := ow o 0 19 17
def oEsc (o : Line) : Bool := wb o 0 16
def oAuto (o : Line) : Bool := wb o 0 15
def oSdim (o : Line) : Nat := ow o 0 14 12
def oBlk (o : Line) : Nat := ow o 0 11 10
def oSgran (o : Line) : Nat := ow o 0 9 8
def oReq (o : Line) : Bool := wb o 0 7
def oRnd (o : Line) : Nat := ow o 0 1 0
def oPmap (o : Line) (d : Nat) : Nat := ow o 1 (3 * d + 2) (3 * d)
def oMult (o : Line) : Int := sext 32 (ow o 2 31 0)
def oZo (o : Line) : Int := sext 16 (ow o 3 31 16)
def oZi (o : Line) : Int := sext 16 (ow o 3 15 0)
def oLbudget (o : Line) : Nat := ow o 4 31 16
def oChunk (o : Line) : Nat := ow o 4 12 8
def oShift (o : Line) : Nat := ow o 4 5 0
def oPadval (o : Line) : Word := BitVec.ofNat 32 (ow o 5 31 0)
/-- PRE_d and POST_d: two dimensions a word from OW6. -/
def oPre (o : Line) (d : Nat) : Nat := ow o (6 + d / 2) (16 * (d % 2) + 7) (16 * (d % 2))
def oPost (o : Line) (d : Nat) : Nat := ow o (6 + d / 2) (16 * (d % 2) + 15) (16 * (d % 2) + 8)
def oSideTd (o : Line) : Nat := ow o 10 15 8
def oScaleTd (o : Line) : Nat := ow o 10 7 0

/-- Elements of a scale block. -/
def oBlkN (o : Line) : Nat := 16 * 2 ^ oBlk o

/-- Chunk size in bytes. -/
def oChunkBytes (o : Line) : Nat := if oChunk o = 0 then 4096 else 1024 * oChunk o

/-! ## Element formats (R129–R135) -/

/-- A floating-point layout: exponent and fraction widths, bias, and whether it has infinity and NaN. `ieee`
is the IEEE coding of both; `e4m3` has NaN alone; `plain` has neither (R131). -/
inductive FSpecial where
  | ieee | e4m3 | plain
  deriving DecidableEq, Repr

/-- A floating-point format. -/
structure FFmt where
  ebits : Nat
  mbits : Nat
  bias : Nat
  sp : FSpecial
  deriving DecidableEq, Repr

def fF32 : FFmt := ⟨8, 23, 127, .ieee⟩
def fF16 : FFmt := ⟨5, 10, 15, .ieee⟩
def fBF16 : FFmt := ⟨8, 7, 127, .ieee⟩
def fE5M2 : FFmt := ⟨5, 2, 15, .ieee⟩
def fE4M3 : FFmt := ⟨4, 3, 7, .e4m3⟩
def fE3M2 : FFmt := ⟨3, 2, 3, .plain⟩
def fE2M3 : FFmt := ⟨2, 3, 1, .plain⟩
def fE2M1 : FFmt := ⟨2, 1, 1, .plain⟩

/-- What an element code names. -/
inductive Elem where
  | int (signed : Bool) (w : Nat)
  | flt (f : FFmt)
  /-- a microscaling element of a floating-point format -/
  | mxf (f : FFmt)
  | mxs8
  /-- two integer components of a width, or two F16 components -/
  | cint (w : Nat)
  | cf16
  | orb (w : Nat)
  | ors (w : Nat)
  | oru (w : Nat)
  | bxz
  deriving DecidableEq, Repr

/-- The format of an FMT code; `none` for an undefined code (R129). -/
def fmtOf (c : Nat) : Option Elem :=
  if c = 0x01 then some (.int false 4) else if c = 0x02 then some (.int true 4)
  else if c = 0x03 then some (.int false 8) else if c = 0x04 then some (.int true 8)
  else if c = 0x05 then some (.int false 16) else if c = 0x06 then some (.int true 16)
  else if c = 0x07 then some (.int false 32) else if c = 0x08 then some (.int true 32)
  else if c = 0x10 then some (.flt fE4M3) else if c = 0x11 then some (.flt fE5M2)
  else if c = 0x12 then some (.flt fF16) else if c = 0x13 then some (.flt fBF16)
  else if c = 0x14 then some (.flt fF32)
  else if c = 0x20 then some (.mxf fE4M3) else if c = 0x21 then some (.mxf fE5M2)
  else if c = 0x22 then some (.mxf fE3M2) else if c = 0x23 then some (.mxf fE2M3)
  else if c = 0x24 then some (.mxf fE2M1) else if c = 0x25 then some .mxs8
  else if c = 0x30 then some (.cint 8) else if c = 0x31 then some (.cint 16)
  else if c = 0x32 then some .cf16
  else if 0x50 ≤ c ∧ c ≤ 0x5F then some (.orb (c - 0x4F))
  else if 0x60 ≤ c ∧ c ≤ 0x6F then some (.ors (c - 0x5F))
  else if 0x73 ≤ c ∧ c ≤ 0x7F then some (.oru (c - 0x6F))
  else if c = 0x80 then some .bxz
  else none

/-- Width in bits of a floating-point format. -/
def FFmt.width (f : FFmt) : Nat := 1 + f.ebits + f.mbits

/-- Width in bits of an element; a fronthaul or BXZ source is counted as the element its decode gives. -/
def Elem.width : Elem → Nat
  | .int _ w => w
  | .flt f => f.width
  | .mxf f => f.width
  | .mxs8 => 8
  | .cint w => 2 * w
  | .cf16 => 32
  | .orb _ => 32
  | .ors _ => 32
  | .oru _ => 32
  | .bxz => 32

def Elem.isFronthaul : Elem → Bool
  | .orb _ | .ors _ | .oru _ => true
  | _ => false

def Elem.isBlock : Elem → Bool
  | .orb _ | .ors _ | .oru _ | .bxz => true
  | _ => false

def Elem.isMx : Elem → Bool
  | .mxf _ | .mxs8 => true
  | _ => false

def Elem.isComplex : Elem → Bool
  | .cint _ | .cf16 => true
  | _ => false

/-- An integer format, real or complex (R158). -/
def Elem.isInt : Elem → Bool
  | .int _ _ | .cint _ => true
  | _ => false

/-- Component width of a fronthaul format. -/
def Elem.compW : Elem → Nat
  | .orb w | .ors w | .oru w => w
  | _ => 0

/-- Elements of a block: 64 for BXZ, 12 complex samples for a PRB (R83). -/
def Elem.blockN : Elem → Nat
  | .bxz => 64
  | .orb _ | .ors _ | .oru _ => 12
  | _ => 1

/-- The element that leaves stage 2 (R144, R194). -/
def Elem.decoded : Elem → Elem
  | .orb _ | .ors _ | .oru _ => .cint 16
  | .bxz => .flt fF32
  | e => e

/-- Component format of a complex format (R114). -/
def Elem.component : Elem → Option Elem
  | .cint w => some (.int true w)
  | .cf16 => some (.flt fF16)
  | _ => none

/-- Complex format of a component format (R114). -/
def Elem.complex : Elem → Option Elem
  | .int true 8 => some (.cint 8)
  | .int true 16 => some (.cint 16)
  | .flt f => if f = fF16 then some .cf16 else none
  | _ => none

/-- The element that leaves stage 5. -/
def stage5Elem (src : Elem) (cplx : Nat) : Option Elem :=
  let e := src.decoded
  if cplx = 1 then e.component
  else if cplx = 2 then e.complex
  else some e

/-! ## Slack (R295–R298, R304) -/

/-- Element formats of the sides; an issued stream's codes are defined (R69). -/
def Stream.srcE (st : Stream) : Elem := (fmtOf (tdFmt st.srcTd)).getD (.int false 8)

/-- The floor of slack: values above −1 act as −1 (R304). -/
def slackFloor (s : State) : Int := min (-1) s.turn.floor.toInt

/-- Own work left of a stream in units of 8 cycles (R295). -/
def workOf (st : Stream) : Nat := ceilDiv ((st.outBytes - st.written) * st.rden) (8 * st.rnum)

/-- Bytes of a stream's slice that have arrived and not entered stage 2: the blocks of a block-coded source, which stage 2
decodes; else the elements. -/
def stagedBytes (st : Stream) : Nat :=
  if st.srcE.isBlock then (st.blocks.map (fun b => b.2.length)).sum
  else ceilDiv (st.staged.length * st.srcE.decoded.width) 8

/-- Slack of a stream (R295, R296, R304); `lead` for read walker issue and read requests. A stream whose slot-relative
time is not resolved has no deadline and shows the untimed slack. -/
def slackOf (s : State) (st : Stream) (lead : Bool) : Int :=
  match st.launch.tL with
  | none => max (slackFloor s) s.turn.untimed.toInt
  | some tL =>
    let tD := tL + BitVec.ofNat 64 st.dnom
    let margin := diffI tD (localTime s) * 625 / 8192
    let l : Int := if lead ∧ 0 < st.rnum then (stagedBytes st * st.rden / (8 * st.rnum) : Nat) else 0
    clampI (margin - (workOf st : Int) + l) (slackFloor s) 32767

/-- Priority of stream `n` in `TL_PRIO` (R45, R303). -/
def prioOf (x : Tile) (n : Nat) : Nat := fld x.prio (4 * n + 3) (4 * n)

/-- Slack and priority that a lodge flit of a registration or its withdrawal carries: those of its stream; none has 0 (R297;
DESIGN CHOICE, log 127). -/
def regSlack (s : State) (t : Nat) (stream : Option Nat) : Int × Nat :=
  match stream with
  | some n =>
    (match s.stream? t n with
     | some st => (slackOf s st false, prioOf (s.tile t) n)
     | none => (0, 0))
  | none => (0, 0)

end Sys2Proof.Machine
end

