-- ==== Sys2Proof/Machine/Flags.lean ====
section
/-! DEFINITION. Status codes (R429), first-fault captures with their counts, tallies and calibration windows. -/

namespace Sys2Proof.Machine

/-! ## Status codes (R429) -/

def stDone : Nat := 0x00
def stDoneLate : Nat := 0x01
def stDoneSaturated : Nat := 0x02
def stDoneReplayed : Nat := 0x03
def stDoneUndersize : Nat := 0x04
def stRefused : Nat := 0x08
def stMalformed : Nat := 0x10
def stBadFormat : Nat := 0x11
def stBadChain : Nat := 0x12
def stTranslation : Nat := 0x18
def stPermission : Nat := 0x19
def stScaleSeq : Nat := 0x20
def stOversize : Nat := 0x21
def stSidelist : Nat := 0x22
def stUnderflow : Nat := 0x28
def stOverrun : Nat := 0x29
def stBarOverrun : Nat := 0x2A
def stOffline : Nat := 0x30
def stUnrecovered : Nat := 0x38
def stNotReplayable : Nat := 0x39
def stWatchdog : Nat := 0x40

/-! ## Captures of a tile -/

/-- A program-source instruction that ended with a code of 0x08 or above: captured in `TL_FAULT` when VALID is
0, and counted in every case (R76). -/
def captureFault (x : Tile) (stream pc code : Nat) : Tile :=
  { x with
    fault := if bit x.fault 31 then x.fault
             else 0x80000000 ||| atN stream 27 ||| atN code 10 ||| atN pc 0
    faultCount := satInc x.faultCount }

/-- An error after launch: captured in `TL_WALK_ERR` when VALID is 0, and counted (R108).
DESIGN CHOICE (log 106): the WPC of CAUSE 0x4, 4,096, does not fit the 12-bit field; it is written modulo
4,096, as 0. -/
def captureWalk (x : Tile) (side : Side) (stream cause code wpc : Nat) (addr : DWord) : Tile :=
  let x := { x with walkErrCount := satInc x.walkErrCount }
  if bit x.walkErr 31 then x
  else { x with
    walkErr := 0x80000000 ||| at1 (decide (side = .write)) 30 ||| atN stream 27 ||| atN cause 20
               ||| atN code 12 ||| atN (wpc % 4096) 0
    walkErrAddr := addr }

/-- A scale sequence mismatch (R167): `chan` for a channel record, `found` its SEQ, `r` the record. -/
def captureScale (x : Tile) (chan : Bool) (stream found r : Nat) : Tile :=
  let x := { x with scaleErrCount := satInc x.scaleErrCount }
  if bit x.scaleErr 31 then x
  else { x with scaleErr := 0x80000000 ||| at1 chan 30 ||| atN stream 27 ||| atN (found % 65536) 0
                scaleErrBlock := BitVec.ofNat 32 r }

/-- A codec error (R209). -/
def captureBx (x : Tile) (enc : Bool) (stream cause code : Nat) (entry : DWord) (rate escn block : Nat) : Tile :=
  let x := { x with bxErrCount := satInc x.bxErrCount }
  if bit x.bxErr 31 then x
  else { x with bxErr := 0x80000000 ||| at1 enc 30 ||| atN stream 27 ||| atN cause 16 ||| atN code 8
                bxErrEntry := entry
                bxErrBlock := atN rate 28 ||| atN escn 25 ||| atN (block % 65536) 0 }

/-- A refusal of R308: counted for all sources, captured in `TL_ADMIT` for the program source (R309). -/
def captureRefusal (x : Tile) (isProg : Bool) (stream pc el : Nat) : Tile :=
  let x := { x with refuseCount := satInc x.refuseCount }
  if !isProg || bit x.admitReg 31 then x
  else { x with admitReg := 0x80000000 ||| atN stream 28 ||| atN pc 16 ||| atN (min 65535 el) 0 }

/-! ## Calibration status and tallies (R177, R179, R180) -/

/-- Set bit `n` of the field of `TL_CAL_STATUS` at bit `lo`, counting the set in `TL_CAL_OCC` (R180). Fields:
24 SATEV, 16 FLUSHEV, 8 TALLYMAX, 0 SIDEFULL. -/
def setCal (x : Tile) (lo n : Nat) : Tile :=
  { x with calStatus := putBit x.calStatus (lo + n) true
           calOcc := putFld x.calOcc (lo + 7) lo (min 255 (fld x.calOcc (lo + 7) lo + 1)) }

/-- Add `k` single counts to a tally: TALLYMAX is set by the increment that takes it to all ones (R177). -/
def addTally (x : Tile) (sat : Bool) (n k : Nat) : Tile :=
  if k = 0 then x
  else
    let old := (if sat then Tab.get x.calSat 0 n else Tab.get x.calFlush 0 n)
    let new := satAdd old k
    let x := if sat then { x with calSat := Tab.set x.calSat 0 n new }
             else { x with calFlush := Tab.set x.calFlush 0 n new }
    if decide (new = 0xFFFFFFFF) && decide (old ≠ 0xFFFFFFFF) then setCal x 8 n else x

/-- Elements of a calibration window: WIN below 10 acts as 10, above 30 as 30. -/
def calWin (x : Tile) : Nat := 2 ^ max 10 (min 30 (fld x.calCtrl 4 0))

/-- Count saturations and flushes of stream `n` in its window, raising CALIB_SAT or CALIB_FLUSH once in a window when its count
first exceeds the threshold (R179). -/
def countWindow (s : State) (t n sats flushes : Nat) : State :=
  let x := s.tile t
  let w := Tab.get x.windows Window.init n
  let overS := decide (x.calSatThr.toNat < w.sats + sats)
  let overF := decide (x.calFlushThr.toNat < w.flushes + flushes)
  let hitS := bit x.calCtrl 31 && !w.satUp && overS
  let hitF := bit x.calCtrl 30 && !w.flushUp && overF
  let w' := { w with sats := w.sats + sats, flushes := w.flushes + flushes, satUp := w.satUp || overS
                     flushUp := w.flushUp || overF }
  let x := { x with windows := Tab.put x.windows n w' }
  let x := if hitS then setCal x 24 n else x
  let x := if hitF then setCal x 16 n else x
  let s := s.setTile t x
  let s := if hitS then raise s evCalibSat t n 0 0 else s
  if hitF then raise s evCalibFlush t n 0 0 else s

/-- Count saturations and flushes of stream `n` in its tallies (R177) and its window. -/
def countEvents (s : State) (t n sats flushes : Nat) : State :=
  let x := s.tile t
  countWindow (s.setTile t (addTally (addTally x true n sats) false n flushes)) t n sats flushes

/-- Count the events of consecutive elements of stage-6 output, `counted` of them in the window, each with its saturations and
flushes. Those past the end of the window count in the next (R179). -/
def countElems (s : State) (t n counted : Nat) (es : List (Nat × Nat)) : State :=
  let x := s.tile t
  let sats := fun (l : List (Nat × Nat)) => (l.map (·.1)).sum
  let fls := fun (l : List (Nat × Nat)) => (l.map (·.2)).sum
  let room := calWin x - (Tab.get x.windows Window.init n).elems
  let k := es.length - counted + room
  let s := s.setTile t (addTally (addTally x true n (sats es)) false n (fls es))
  let s := countWindow s t n (sats (es.take k)) (fls (es.take k))
  let x := s.tile t
  let w := Tab.get x.windows Window.init n
  let w := { w with elems := w.elems + counted, nextSats := w.nextSats + sats (es.drop k)
                    nextFlushes := w.nextFlushes + fls (es.drop k) }
  s.setTile t { x with windows := Tab.put x.windows n w }

/-- The windows of the running streams of a tile under its thresholds as they are now: a count can first exceed a threshold that is
lowered (R179). -/
def judgeWindows (s : State) (t : Nat) : State :=
  (s.tile t).streams.foldl (fun s p => if p.2.launched then countWindow s t p.1 0 0 else s) s

/-- The next window of stream `n` begins, with the counts of elements that are in it already (R179). A write of WIN inside a window
moves its end: a window that is longer than the new WIN ends at once, and what it has more counts in the next (DESIGN CHOICE, log
129). -/
def nextWindow (s : State) (t n : Nat) : State :=
  let x := s.tile t
  let w := Tab.get x.windows Window.init n
  let v := { Window.init with elems := w.elems - calWin x }
  countWindow (s.setTile t { x with windows := Tab.put x.windows n v }) t n w.nextSats w.nextFlushes

/-- Set the window of a stream to 0 (R179). -/
def resetWindow (x : Tile) (n : Nat) : Tile := { x with windows := Tab.put x.windows n Window.init }

/-! ## Lodge flags and captures -/

/-- Flag bits of `LD_STATUS`: 3 CFGERR, 2 OVERCREDIT, 1 TALLYSAT, 0 TQFULL; every set raises LODGE_ERR. -/
def lodgeFlag (s : State) (b cid : Nat) : State :=
  let l := s.lodge
  raise { s with lodge := { l with flags := putBit l.flags b true, occ := satInc l.occ
                                   lastCid := BitVec.ofNat 14 cid } } evLodgeErr 0 0 0 0

/-- A failed update (R251): captured in `LD_ERR` when VALID is 0, counted, and LODGE_ERR raised. -/
def lodgeErr (s : State) (host : Bool) (t n code cid : Nat) : State :=
  let l := s.lodge
  let w : Word := 0x80000000 ||| at1 host 30 ||| atN t 25 ||| atN n 22 ||| atN code 14 ||| atN cid 0
  raise { s with lodge := { l with err := if bit l.err 31 then l.err else w
                                   errCount := satInc l.errCount } } evLodgeErr t n 0 0

/-- A scope mismatch (R257, R270). -/
def scopeMm (s : State) (isBar : Bool) (t n rel acq cid : Nat) : State :=
  let l := s.lodge
  let w : Word := 0x80000000 ||| at1 isBar 30 ||| atN t 25 ||| atN n 22 ||| atN rel 20 ||| atN acq 18 ||| atN cid 0
  raise { s with lodge := { l with mm := if bit l.mm 31 then l.mm else w
                                   mmCount := satInc l.mmCount } } evScopeMismatch t n 0 0

/-- A barrier overrun (R271): captured in `BS_ERR` when VALID is 0 and counted. -/
def barErr (s : State) (host : Bool) (t srcNum d gen bar : Nat) : State :=
  let b := s.band
  let w : Word := 0x80000000 ||| at1 host 30 ||| atN t 25 ||| atN srcNum 21 ||| atN d 19 ||| atN gen 9 ||| atN bar 0
  { s with band := { b with err := if bit b.err 31 then b.err else w, errCount := satInc b.errCount } }

/-! ## Pergola and port flags -/

/-- Alarm flags of `PG_STATUS` (R221). -/
inductive Alarm where
  | fsmiss | bigerr | loadign
  deriving DecidableEq, Repr

/-- Set an alarm flag: each set counts in ALARM_OCC and raises TB_ALARM. -/
def pgAlarm (s : State) (a : Alarm) : State :=
  let p := s.pg
  let p := { p with alarmOcc := satInc p.alarmOcc }
  let p := match a with
    | .fsmiss => { p with fsmiss := true }
    | .bigerr => { p with bigerr := true }
    | .loadign => { p with loadign := true }
  raise { s with pg := p } evTbAlarm 0 0 0 0

/-- System port `n`. -/
def State.sp (s : State) (n : Nat) : SysPort := Tab.get s.prom.sps SysPort.init n

/-- The state with system port `n` replaced. -/
def State.setSp (s : State) (n : Nat) (x : SysPort) : State :=
  { s with prom := { s.prom with sps := Tab.put s.prom.sps n x } }

/-- Flag bits of `PM_SP<n>_STATUS`: 3 HOSTERR, 2 LATE, 1 XFAULT, 0 BADRSP; TAG takes the tag concerned. -/
def spFlag (s : State) (n b tag : Nat) : State :=
  let x := s.sp n
  s.setSp n { x with flags := putBit x.flags b true, occ := satInc x.occ, tag := BitVec.ofNat 10 tag }

/-- Set CFGERR of `GH_STATUS` for ring `q` (R311, R312). -/
def ghCfgErr (s : State) (q : Nat) : State :=
  { s with gate := { s.gate with cfgerr := true, occ := satInc s.gate.occ, cfgRing := BitVec.ofNat 8 q } }

/-- Set VECERR of `GH_STATUS` for vector `v` (R334). -/
def ghVecErr (s : State) (v : Nat) : State :=
  { s with gate := { s.gate with vecerr := true, occ := satInc s.gate.occ, vecerrVec := BitVec.ofNat 6 v } }

end Sys2Proof.Machine
end

