-- ==== Sys2Proof/Machine/Cast.lean ====
section
/-! DEFINITION. Exact values, rounding (R150), casts (R149–R152), microscaling scales (R138), the requantiser
(R159), stochastic rounding (R153) and the additions of accumulate-on-write (R184). -/

namespace Sys2Proof.Machine

/-- An exact element value: NaN or infinity with a sign, or (−1)^neg × m × 2^e (R149). -/
inductive Val where
  | nan (neg : Bool)
  | inf (neg : Bool)
  | fin (neg : Bool) (m : Nat) (e : Int)
  deriving DecidableEq, Repr

/-- The value of a floating-point code (R131). -/
def FFmt.val (f : FFmt) (c : Nat) : Val :=
  let neg := decide ((c >>> (f.ebits + f.mbits)) % 2 = 1)
  let ex := (c >>> f.mbits) % 2 ^ f.ebits
  let fr := c % 2 ^ f.mbits
  let top := 2 ^ f.ebits - 1
  if f.sp = .ieee ∧ ex = top then (if fr = 0 then .inf neg else .nan neg)
  else if f.sp = .e4m3 ∧ ex = top ∧ fr = 2 ^ f.mbits - 1 then .nan neg
  else if ex = 0 then .fin neg fr (1 - (f.bias : Int) - f.mbits)
  else .fin neg (2 ^ f.mbits + fr) ((ex : Int) - f.bias - f.mbits)

/-- An integer as a value. -/
def intVal (v : Int) : Val := .fin (decide (v < 0)) v.natAbs 0

/-- The integer of a code of width `w` (R130). -/
def intOf (signed : Bool) (w c : Nat) : Int := if signed then sext w c else ((c % 2 ^ w : Nat) : Int)

/-- A value times 2^k. -/
def Val.scale (v : Val) (k : Int) : Val :=
  match v with
  | .fin n m e => .fin n m (e + k)
  | w => w

/-- The value of a real element code, without a shared scale (R130, R131, R134). -/
def Elem.val (e : Elem) (c : Nat) : Val :=
  match e with
  | .int sg w => intVal (intOf sg w c)
  | .flt f => f.val c
  | .mxf f => f.val c
  | .mxs8 => (intVal (sext 8 c)).scale (-6)
  | _ => .fin false 0 0

/-- The sign bit of an element code (R140). -/
def Elem.neg (e : Elem) (c : Nat) : Bool := decide ((c >>> (e.width - 1)) % 2 = 1)

/-- A microscaling element under scale code `x`: 0xFF makes it NaN with the element's own sign (R140). -/
def mxVal (e : Elem) (x c : Nat) : Val :=
  if x = 255 then .nan (e.neg c) else (e.val c).scale ((x : Int) - 127)

/-! ## Rounding (R150, R153) -/

/-- Round a quotient of naturals under RND: 0 RNE, 1 RNA, 2 RTZ, 3 SR with generator state `r`. -/
def roundRat (rnd r num den : Nat) : Nat :=
  let n := num / den
  let rem := num % den
  match rnd with
  | 0 => if den < 2 * rem ∨ (2 * rem = den ∧ n % 2 = 1) then n + 1 else n
  | 1 => if den ≤ 2 * rem then n + 1 else n
  | 2 => n
  | _ => if 65536 ≤ rem * 65536 / den + r then n + 1 else n

/-- The magnitude m × 2^e in units of 2^q, rounded. -/
def roundMag (rnd r m : Nat) (e q : Int) : Nat :=
  if q ≤ e then m * 2 ^ (e - q).toNat else roundRat rnd r m (2 ^ (q - e).toNat)

/-- Compare m × 2^e with m' × 2^e'. -/
def magGt (m : Nat) (e : Int) (m' : Nat) (e' : Int) : Bool :=
  let lo := min e e'
  decide (m' * 2 ^ (e' - lo).toNat < m * 2 ^ (e - lo).toNat)

/-- One step of a generator: a 16-bit Fibonacci LFSR (R153). -/
def lfsrStep (r : BitVec 16) : BitVec 16 :=
  let b := (bit r 15).xor ((bit r 13).xor ((bit r 12).xor (bit r 10)))
  (r <<< 1) ||| (if b then 1 else 0)

/-- A generator state with its two bytes exchanged (R160). -/
def swapBytes (r : Nat) : Nat := (r % 256) * 256 + r / 256

/-! ## Casts (R151) -/

/-- A converted code with its saturation and flush counts. -/
structure Conv where
  code : Nat
  sat : Nat
  flush : Nat
  deriving DecidableEq, Repr

/-- Largest finite magnitude of a floating-point format: significand and exponent. -/
def FFmt.max (f : FFmt) : Nat × Int :=
  match f.sp with
  | .ieee => (2 ^ (f.mbits + 1) - 1, (2 ^ f.ebits - 2 : Int) - f.bias - f.mbits)
  | .e4m3 => (2 ^ (f.mbits + 1) - 2, (2 ^ f.ebits - 1 : Int) - f.bias - f.mbits)
  | .plain => (2 ^ (f.mbits + 1) - 1, (2 ^ f.ebits - 1 : Int) - f.bias - f.mbits)

/-- Code of a sign. -/
def FFmt.signCode (f : FFmt) (neg : Bool) : Nat := if neg then 2 ^ (f.ebits + f.mbits) else 0

/-- Code of the largest finite magnitude. -/
def FFmt.maxCode (f : FFmt) : Nat :=
  match f.sp with
  | .ieee => (2 ^ f.ebits - 2) * 2 ^ f.mbits + (2 ^ f.mbits - 1)
  | .e4m3 => (2 ^ f.ebits - 1) * 2 ^ f.mbits + (2 ^ f.mbits - 2)
  | .plain => (2 ^ f.ebits - 1) * 2 ^ f.mbits + (2 ^ f.mbits - 1)

/-- Code of the canonical NaN without its sign (R132). -/
def FFmt.nanCode (f : FFmt) : Nat :=
  match f.sp with
  | .ieee => (2 ^ f.ebits - 1) * 2 ^ f.mbits + 2 ^ (f.mbits - 1)
  | _ => 2 ^ (f.ebits + f.mbits) - 1

/-- Code of a representable magnitude n × 2^q. -/
def FFmt.encMag (f : FFmt) (n : Nat) (q : Int) : Nat :=
  let l := (Nat.log2 n : Int) + q
  if l < 1 - (f.bias : Int) then roundMag 2 0 n q (1 - (f.bias : Int) - f.mbits)
  else (l + f.bias).toNat * 2 ^ f.mbits + (n * 2 ^ f.mbits / 2 ^ Nat.log2 n - 2 ^ f.mbits)

/-- Cast a value to a floating-point format (R150–R152). -/
def castFlt (f : FFmt) (v : Val) (rnd r : Nat) : Conv :=
  match v with
  | .nan neg => if f.sp = .plain then ⟨0, 1, 0⟩ else ⟨f.signCode neg + f.nanCode, 0, 0⟩
  | .inf neg =>
    if f.sp = .ieee then ⟨f.signCode neg + (2 ^ f.ebits - 1) * 2 ^ f.mbits, 0, 0⟩
    else ⟨f.signCode neg + f.maxCode, 1, 0⟩
  | .fin neg m e =>
    if m = 0 then ⟨f.signCode neg, 0, 0⟩
    else
      let q := max ((Nat.log2 m : Int) + e) (1 - (f.bias : Int)) - f.mbits
      let n := roundMag rnd r m e q
      if n = 0 then ⟨f.signCode neg, 0, 1⟩
      else if magGt n q f.max.1 f.max.2 then ⟨f.signCode neg + f.maxCode, 1, 0⟩
      else ⟨f.signCode neg + f.encMag n q, 0, 0⟩

/-- What a cast to an integer gives before the range is applied: a NaN or infinity keeps its name, a finite
value is rounded, with whether a non-zero source rounded to zero. -/
inductive IntCast where
  | nan
  | inf (neg : Bool)
  | val (v : Int) (flushed : Bool)
  deriving DecidableEq, Repr

/-- Round a value to an integer (R150). -/
def roundInt (v : Val) (rnd r : Nat) : IntCast :=
  match v with
  | .nan _ => .nan
  | .inf neg => .inf neg
  | .fin neg m e =>
    let n := roundMag rnd r m e 0
    .val (if neg then -(n : Int) else n) (decide (m ≠ 0) && decide (n = 0))

/-- Range limits of an integer format of width `w` (R130); with escapes the escape code is excluded (R173). -/
def intLo (signed esc : Bool) (w : Nat) : Int :=
  if signed then (if esc then -(2 : Int) ^ (w - 1) + 1 else -(2 : Int) ^ (w - 1)) else 0

def intHi (signed esc : Bool) (w : Nat) : Int :=
  if signed then (2 : Int) ^ (w - 1) - 1 else (if esc then (2 : Int) ^ w - 2 else (2 : Int) ^ w - 1)

/-- Apply a range, counting saturation and flush (R151). -/
def clampCast (c : IntCast) (lo hi : Int) (w : Nat) : Conv :=
  match c with
  | .nan => ⟨0, 1, 0⟩
  | .inf neg => ⟨wrap w (if neg then lo else hi), 1, 0⟩
  | .val v flushed =>
    if v < lo then ⟨wrap w lo, 1, 0⟩
    else if hi < v then ⟨wrap w hi, 1, 0⟩
    else ⟨wrap w v, 0, flushed.toNat⟩

/-! ## Microscaling destinations (R137–R140, R151) -/

/-- Cast a value into a block of scale code `x`. -/
def castMx (e : Elem) (x : Nat) (v : Val) (rnd r : Nat) : Conv :=
  if x = 255 then ⟨0, 1, 0⟩
  else
    let u := v.scale (127 - (x : Int))
    match e with
    | .mxf f => castFlt f u rnd r
    | _ => clampCast (roundInt (u.scale 6) rnd r) (-127) 127 8

/-- emax of R138. -/
def mxEmax (e : Elem) : Int :=
  match e with
  | .mxf f => if f = fE4M3 then 8 else if f = fE5M2 then 15 else if f = fE3M2 then 4 else 2
  | _ => 0

/-- A NaN or infinite value. -/
def Val.special : Val → Bool
  | .fin _ _ _ => false
  | _ => true

/-- A zero of either sign. -/
def Val.isZero : Val → Bool
  | .fin _ m _ => decide (m = 0)
  | _ => false

/-- ⌊log2⌋ of the largest magnitude of a list; none when every value is zero. -/
def maxLog (vs : List Val) : Option Int :=
  vs.foldl (fun a v => match v with
    | .fin _ m e =>
      if m = 0 then a
      else
        let l := (Nat.log2 m : Int) + e
        (match a with
         | some b => some (max b l)
         | none => some l)
    | _ => a) none

/-- The shared scale code that AUTO chooses for a block (R138). -/
def mxAuto (e : Elem) (vs : List Val) : Nat :=
  if vs.any Val.special then 255
  else
    match maxLog vs with
    | none => 0
    | some l => (clampI (l - mxEmax e + 127) 0 254).toNat

/-- A value cast under AUTO: only a NaN or infinite value counts (R139). -/
def castMxAuto (e : Elem) (x : Nat) (v : Val) (rnd r : Nat) : Conv :=
  if x = 255 then ⟨0, if v.special then 1 else 0, 0⟩
  else ⟨(castMx e x v rnd r).code, 0, 0⟩

/-! ## The requantiser (R159–R161) -/

/-- The product rounded at bit `s` with the zero points, and whether it flushed to zero. -/
def requant (x zi zo m : Int) (s rnd r : Nat) : Int × Bool :=
  let p := (x - zi) * m
  let n := roundMag rnd r p.natAbs 0 s
  let q : Int := if p < 0 then -(n : Int) else n
  (q + zo, decide (p ≠ 0) && decide (n = 0))

/-- The shift that AUTO chooses for a block (R170, R171): the smallest from SHIFT to 62 for which every value,
rounded with RNE, lies in range; 62 where none does. -/
def requantAuto (xs : List Int) (zi zo m : Int) (shift : Nat) (lo hi : Int) : Nat :=
  ((List.range 63).find? (fun s => decide (shift ≤ s) && xs.all (fun x =>
    let v := (requant x zi zo m s 0 0).1
    decide (lo ≤ v) && decide (v ≤ hi)))).getD 62

/-! ## Accumulate-on-write (R184) -/

/-- The exact sum of two finite values; an exact zero is +0 unless both are −0. -/
def addFin (n1 : Bool) (m1 : Nat) (e1 : Int) (n2 : Bool) (m2 : Nat) (e2 : Int) : Val :=
  let lo := min e1 e2
  let a : Int := (m1 * 2 ^ (e1 - lo).toNat : Nat)
  let b : Int := (m2 * 2 ^ (e2 - lo).toNat : Nat)
  let v := (if n1 then -a else a) + (if n2 then -b else b)
  if v = 0 then .fin (n1 && n2 && decide (m1 = 0) && decide (m2 = 0)) 0 0
  else .fin (decide (v < 0)) v.natAbs lo

/-- The sum of the stored value and an addend. -/
def addVal (stored add : Val) : Val :=
  match stored, add with
  | .nan n, _ => .nan n
  | _, .nan n => .nan n
  | .inf a, .inf b => if a = b then .inf a else .nan false
  | .inf a, _ => .inf a
  | _, .inf b => .inf b
  | .fin n1 m1 e1, .fin n2 m2 e2 => addFin n1 m1 e1 n2 m2 e2

/-- Add one component in the destination format: the new code and whether it saturated. SR is performed as
RNE. -/
def accComp (e : Elem) (stored add rnd : Nat) : Nat × Nat :=
  match e with
  | .int sg w =>
    let c := clampCast (.val (intOf sg w stored + intOf sg w add) false) (intLo sg false w) (intHi sg false w) w
    (c.code, c.sat)
  | .flt f =>
    let c := castFlt f (addVal (f.val stored) (f.val add)) (if rnd = 3 then 0 else rnd) 0
    (c.code, c.sat)
  | _ => (stored, 0)

/-- Add one element, per component for a complex format. -/
def accElem (e : Elem) (stored add rnd : Nat) : Nat × Nat :=
  match e.component with
  | none => accComp e stored add rnd
  | some c =>
    let w := c.width
    let re := accComp c (stored % 2 ^ w) (add % 2 ^ w) rnd
    let im := accComp c (stored / 2 ^ w) (add / 2 ^ w) rnd
    (re.1 + im.1 * 2 ^ w, re.2 + im.2)

end Sys2Proof.Machine
end

