-- ==== Sys2Proof/Machine/Codec.lean ====
section
/-! DEFINITION. The block codecs: fronthaul PRBs (R141–R146) and BXZ blocks (R186–R207). -/

namespace Sys2Proof.Machine

/-! ## Fronthaul PRBs -/

/-- Bytes of a PRB block (R141). -/
def prbBytes (w : Nat) : Nat := 1 + 3 * w

/-- The number that bytes spell, most significant first: the O-RAN bit order (R141). -/
def ofBytesBe (bs : List Byte) : Nat := bs.foldl (fun a b => a * 256 + b.toNat) 0

/-- `n` bytes of a number, most significant first. -/
def toBytesBe (n v : Nat) : List Byte := (toBytes n v).reverse

/-- Component field `k` of a payload of 24 components of `w` bits. -/
def prbField (w : Nat) (payload : Nat) (k : Nat) : Nat := (payload >>> (w * (23 - k))) % 2 ^ w

/-- Saturate an integer to 16 bits, counting. -/
def sat16 (v : Int) : Int × Nat :=
  if v < -32768 then (-32768, 1) else if 32767 < v then (32767, 1) else (v, 0)

/-- Round a signed quotient to nearest even. -/
def rneDiv (v : Int) (den : Nat) : Int :=
  let n := roundRat 0 0 v.natAbs den
  if v < 0 then -(n : Int) else n

/-- One decoded component and its saturation count (R144). -/
def prbComp (e : Elem) (par c : Nat) : Int × Nat :=
  match e with
  | .orb w => sat16 (sext w c * (2 : Int) ^ (par % 16))
  | .ors w => sat16 (rneDiv (sext w c * (2 : Int) ^ (16 - w) * (par : Int)) 128)
  | .oru w => ((Config.muLawExpand w (par % 16) c).toInt, 0)
  | _ => (0, 0)

/-- A PRB that fails the decode check of R145. -/
def prbBad (e : Elem) (bs : List Byte) : Bool :=
  match e with
  | .oru w =>
    let par := ofBytes (bs.take 1)
    !(decide (par / 16 = w % 16) && decide (par % 16 < 8))
  | _ => false

/-- The 12 CS16 elements of a PRB, and of each the saturations of its components (R144). -/
def prbDecode (e : Elem) (bs : List Byte) : List Word × List (Nat × Nat) :=
  let w := e.compW
  let par := ofBytes (bs.take 1)
  let pl := ofBytesBe (bs.drop 1)
  (List.range 12).foldl (fun (a : List Word × List (Nat × Nat)) i =>
    let re := prbComp e par (prbField w pl (2 * i))
    let im := prbComp e par (prbField w pl (2 * i + 1))
    (a.1 ++ [BitVec.ofNat 32 (wrap 16 re.1 + 65536 * wrap 16 im.1)], a.2 ++ [(re.2, im.2)])) ([], [])

/-- Fewest bits that hold `x` in two's complement. -/
def bitsOf (x : Int) : Nat :=
  if x = 0 ∨ x = -1 then 1
  else if 0 < x then Nat.log2 x.toNat + 2 else Nat.log2 (-x - 1).toNat + 2

/-- Saturate to a `w`-bit two's-complement field, counting. -/
def satW (w : Nat) (v : Int) : Nat × Nat :=
  let c := clampCast (.val v false) (intLo true false w) (intHi true false w) w
  (c.code, c.sat)

/-- Round a signed quotient under RND. -/
def signedRound (rnd r : Nat) (v : Int) (den : Nat) : Int :=
  let n := roundRat rnd r v.natAbs den
  if v < 0 then -(n : Int) else n

/-- Encode 24 components with the generator state of each (R146): the block's bytes and the saturations of each component. Of an
ORU PRB whose amax is 32,768 no compShift meets the rule; the model takes 0 (DESIGN CHOICE, log 109). -/
def prbEncode (e : Elem) (xs : List (Int × Nat)) (rnd : Nat) : List Byte × List Nat :=
  let amax := xs.foldl (fun a x => max a x.1.natAbs) 0
  let w := e.compW
  match e with
  | .orb _ =>
    let n := xs.foldl (fun a x => max a (bitsOf x.1)) 1
    let ex := n - w
    let cs := xs.map (fun x => satW w (signedRound rnd x.2 x.1 (2 ^ ex)))
    (BitVec.ofNat 8 ex :: toBytesBe (3 * w) (cs.foldl (fun a c => a * 2 ^ w + c.1) 0),
      cs.map (·.2))
  | .ors _ =>
    let sg := ceilDiv (128 * amax) 32767
    let cs := xs.map (fun x => if sg = 0 then (0, 0)
      else satW w (signedRound rnd x.2 (x.1 * 128) (sg * 2 ^ (16 - w))))
    (BitVec.ofNat 8 sg :: toBytesBe (3 * w) (cs.foldl (fun a c => a * 2 ^ w + c.1) 0),
      cs.map (·.2))
  | _ =>
    let sh := (((List.range 8).reverse).find? (fun k => decide (amax * 2 ^ k < 2 ^ 15))).getD 0
    let cs := xs.map (fun x => Config.muLawCompress w sh (BitVec.ofInt 16 x.1) % 2 ^ w)
    (BitVec.ofNat 8 ((w % 16) * 16 + sh) :: toBytesBe (3 * w) (cs.foldl (fun a c => a * 2 ^ w + c) 0), cs.map (fun _ => 0))

/-! ## BXZ -/

/-- Bits per element of a rate code; none for a reserved code (R186). -/
def rateBits (c : Nat) : Option Nat :=
  match c with
  | 1 => some 2 | 2 => some 3 | 3 => some 4 | 4 => some 5 | 5 => some 6 | 6 => some 8 | 7 => some 10
  | 8 => some 12 | _ => none

/-- Block bytes B = 8 + 8r of a rate code. -/
def blockBytes (c : Nat) : Nat := 8 + 8 * (rateBits c).getD 0

/-- Blocks per 4 KiB page. -/
def blocksPerPage (c : Nat) : Nat := 4096 / blockBytes c

/-- Largest escape count of a block at a declared rate. -/
def escLim (c : Nat) : Nat := if c = 8 then 3 else 4

/-- A segment index entry (R189). -/
structure SegEntry where
  nblkm1 : Nat
  segOff : Nat
  fexp : Nat
  rate : Nat
  sideLen : Nat
  sideOff : Nat
  resv : Nat
  deriving DecidableEq, Repr

/-- The entry that two 64-bit words spell. -/
def segEntry (w0 w1 : DWord) : SegEntry :=
  { nblkm1 := fld w0 63 48, segOff := fld w0 47 0, fexp := fld w1 57 52, rate := fld w1 51 48
    sideLen := fld w1 47 32, sideOff := fld w1 31 0, resv := fld w1 63 58 }

/-- The segment address S = E + SEG_OFF. -/
def SegEntry.seg (g : SegEntry) (ea : DWord) : DWord := ea + BitVec.ofNat 64 g.segOff

/-- The side list address L = S + 8 × SIDE_OFF. -/
def SegEntry.list (g : SegEntry) (ea : DWord) : DWord := g.seg ea + BitVec.ofNat 64 (8 * g.sideOff)

/-- A valid entry for a row of `count` elements (R191). -/
def SegEntry.ok (g : SegEntry) (ea : DWord) (count : Nat) : Bool :=
  decide (g.resv = 0) && (rateBits g.rate).isSome && decide ((g.seg ea).toNat % 4096 = 0)
    && decide (count / 64 ≤ g.nblkm1 + 1)

/-- Start of block `j` (R190). -/
def SegEntry.blockAddr (g : SegEntry) (ea : DWord) (j : Nat) : DWord :=
  let p := blocksPerPage g.rate
  g.seg ea + BitVec.ofNat 64 ((if p = 0 then 0 else j / p) * 4096 + (if p = 0 then 0 else j % p) * blockBytes g.rate)

/-- A block header (R192). -/
structure BxHdr where
  crc : Nat
  sloff : Nat
  bidx : Nat
  resv : Nat
  escn : Nat
  mode : Nat
  exp : Nat
  rate : Nat
  deriving DecidableEq, Repr

/-- The header of a block's first 8 bytes. -/
def bxHdr (bs : List Byte) : BxHdr :=
  let h : DWord := BitVec.ofNat 64 (ofBytes (bs.take 8))
  { crc := fld h 63 56, sloff := fld h 55 40, bidx := fld h 39 24, resv := fld h 23 15, escn := fld h 14 12
    mode := fld h 11 10, exp := fld h 9 4, rate := fld h 3 0 }

/-- The first check of R205 that a block fails: its code and CAUSE. `sum` is the running ESCN sum where the
decoder knows it (log 10), `ents` the block's side-list entries. -/
def bxCheck (bs : List Byte) (j declared sideLen : Nat) (sum : Option Nat) (ents : List DWord) :
    Option (Nat × Nat) :=
  let h := bxHdr bs
  let idx := ents.map (fun d => fld d 31 0)
  let inBlock := idx.all (fun i => decide (64 * j ≤ i) && decide (i < 64 * j + 64))
  let rising := (idx.zip (idx.drop 1)).all (fun p => decide (p.1 < p.2))
  if crc8 (bs.take 7) ≠ h.crc then some (stOversize, 0x2)
  else if h.resv ≠ 0 ∨ rateBits h.rate = none ∨ h.mode = 3 ∨ ((h.mode = 1 ∨ h.mode = 2) ∧ h.escn ≠ 0) then
    some (stOversize, 0x4)
  else if h.bidx ≠ j then some (stOversize, 0x3)
  else if declared < h.rate then some (stOversize, 0x0)
  else if escLim declared < h.escn then some (stOversize, 0x1)
  else if sum.getD h.sloff ≠ h.sloff then some (stSidelist, 0x6)
  else if sideLen < h.sloff + h.escn then some (stSidelist, 0x7)
  else if !(inBlock && rising) then some (stSidelist, 0x8)
  else none

/-- The F32 code of an element of a good block (R194, R195, R207). -/
def bxElem (bs : List Byte) (j : Nat) (ents : List DWord) (k : Nat) : Word :=
  let h := bxHdr bs
  if h.mode = 1 then 0
  else if h.mode = 2 then 0x7FC00000
  else
    match ents.find? (fun d => decide (fld d 31 0 = 64 * j + k)) with
    | some d => hi32 d
    | none =>
      let r := (rateBits h.rate).getD 0
      let m := sext r ((ofBytes (bs.drop 8) >>> (r * k)) % 2 ^ r)
      BitVec.ofNat 32 (castFlt fF32 ((intVal m).scale ((h.exp : Int) - 32)) 0 0).code

/-- The 64 elements of a good block. -/
def bxDecode (bs : List Byte) (j : Nat) (ents : List DWord) : List Word :=
  (List.range 64).map (bxElem bs j ents)

/-- What encoding a block gives: its header and payload bytes, its side-list entries, the saturations and flushes of each
element, and outliers that the list had no room for (R200–R203). -/
structure BxEnc where
  bytes : List Byte
  ents : List DWord
  evs : List (Nat × Nat)
  full : Nat

/-- The header bytes of a block with its CRC8 (R193, R203). -/
def bxHeader (rate exp mode escn j sloff : Nat) : List Byte :=
  let low := toBytes 7 (rate + exp * 2 ^ 4 + mode * 2 ^ 10 + escn * 2 ^ 12 + (j % 65536) * 2 ^ 24
    + (sloff % 65536) * 2 ^ 40)
  low ++ [BitVec.ofNat 8 (crc8 low)]

/-- One LIN element: its payload field and counts, appending an escape where R201 allows one. `cs` and `cf` say whether
saturations and flushes count. -/
def bxLin (r exp j limit sideLen sloff rnd : Nat) (esc cs cf : Bool) (a : List Nat × BxEnc)
    (kv : Nat × Val × Nat) : List Nat × BxEnc :=
  let b := a.2
  match roundInt (kv.2.1.scale (32 - (exp : Int))) rnd kv.2.2 with
  | .val m flushed =>
    let lo := intLo true false r
    let hi := intHi true false r
    if m < lo ∨ hi < m then
      let hasRoom := decide (sloff + b.ents.length < sideLen)
      if esc && decide (b.ents.length < limit) && hasRoom then
        let v := (castFlt fF32 kv.2.1 rnd kv.2.2).code
        (a.1 ++ [0], { b with ents := b.ents ++ [pair (BitVec.ofNat 32 v) (BitVec.ofNat 32 (64 * j + kv.1))]
                              evs := b.evs ++ [(0, 0)] })
      else
        let refused := esc && decide (b.ents.length < limit) && !hasRoom
        (a.1 ++ [wrap r (if m < lo then lo else hi)],
          { b with evs := b.evs ++ [(cs.toNat, 0)], full := b.full + refused.toNat })
    else (a.1 ++ [wrap r m], { b with evs := b.evs ++ [(0, (flushed && cf).toNat)] })
  | _ => (a.1 ++ [0], { b with evs := b.evs ++ [(0, 0)] })

/-- Encode one block of 64 values, each with its generator state (R200–R203). With AUTO a saturation counts only while the clamp
of EXP at 63 is in force, and a flush only while that at 0 is. -/
def bxEncode (vs : List (Val × Nat)) (rate fexp j sloff sideLen limit rnd : Nat) (esc auto : Bool) : BxEnc :=
  let r := (rateBits rate).getD 0
  let zero := List.replicate (8 * r) (0 : Byte)
  if vs.any (fun v => v.1.special) then
    { bytes := bxHeader rate 0 2 0 j sloff ++ zero, ents := [], evs := vs.map (fun v => (v.1.special.toNat, 0)), full := 0 }
  else if vs.all (fun v => v.1.isZero) then
    { bytes := bxHeader rate 0 1 0 j sloff ++ zero, ents := [], evs := vs.map (fun _ => (0, 0)), full := 0 }
  else
    let x : Int := if auto then ((maxLog (vs.map (·.1))).map (fun l => l - ((r : Int) - 2) + 32)).getD 0 else fexp
    let exp := (clampI x 0 63).toNat
    let start : List Nat × BxEnc := ([], { bytes := [], ents := [], evs := [], full := 0 })
    let res := ((vs.zipIdx).map (fun p => (p.2, p.1.1, p.1.2))).foldl
      (bxLin r exp j limit sideLen sloff rnd esc (!auto || decide (63 < x)) (!auto || decide (x < 0))) start
    let payload := (res.1.reverse).foldl (fun a m => a * 2 ^ r + m) 0
    { res.2 with bytes := bxHeader rate exp 0 res.2.ents.length j sloff ++ toBytes (8 * r) payload }

end Sys2Proof.Machine
end

