-- ==== Sys2Proof/Machine/Ending.lean ====
section
/-! DEFINITION. How an instruction ends: completions of ring entries (R324, R327), program faults (R76), broken
jobs (R321), lateness (R230–R235), and the withdrawal of watches. -/

namespace Sys2Proof.Machine

/-- The fields of a completion (R317, R327). -/
structure CompArgs where
  status : Nat
  late : Nat := 0
  cause : Nat := 0
  claimed : Bool := false
  prog : List Word := []
  rstatus : Nat := 0
  stream : Nat := 0
  tag : Nat := 0
  tl : DWord := 0
  tr : DWord := 0
  /-- the instruction had launched: no field of the completion; R76 asks for it -/
  launched : Bool := true
  /-- the instruction, where its completion waits for what it has sent (R324) -/
  who : Option (Nat × Source × Nat) := none

/-- Queue the completion of an entry at its ring: bytes 64–127 as R317 lays them out. With it the gatehouse learns that the entry's
place in its input queue is free. -/
def addComp (s : State) (e : EntryRef) (c : CompArgs) : State :=
  let r := s.ring e.ring
  let w72 := atN (min 65535 c.late) 16 ||| at1 c.claimed 12 ||| at1 (!c.prog.isEmpty) 11 ||| atN c.cause 8
    ||| atN c.status 0
  let w76 := atN c.rstatus 24 ||| atN c.stream 21 ||| atN r.tile 16 ||| atN c.tag 0
  let s := { s with gate := { s.gate with placed := s.gate.placed.filter (fun p => decide (p.ref ≠ e)) } }
  s.setRing e.ring { r with comps := r.comps ++
    [{ idx := e.idx, flags := e.flags, w72 := w72, w76 := w76, tLaunch := c.tl, tRetire := c.tr
       prog := c.prog, phase := .ready, who := c.who }] }

/-! ## Source order -/

/-- Source order is the condition that held last so far (R232). -/
def LaunchSt.ordered (la : LaunchSt) : LaunchSt := { la with cause := 2, timeLast := false }

/-- An instruction of a source has launched or ended without launching: for those behind number `ord` that have not
launched, source order is the condition that held last so far (R232). -/
def orderCleared (x : Tile) (src : Source) (ord : Nat) : Tile :=
  let x := { x with
    streams := x.streams.map (fun (p : Nat × Stream) =>
      if p.2.src = src ∧ ord < p.2.ord ∧ !p.2.launched then (p.1, { p.2 with launch := p.2.launch.ordered }) else p)
    issued := x.issued.map (fun (i : IssuedInstr) =>
      if i.src = src ∧ ord < i.ord then { i with held := { i.held with launch := i.held.launch.ordered } } else i) }
  let v := x.source src
  match v.hold with
  | .instr h => if ord < v.ord then x.setSource src { v with hold := .instr { h with launch := h.launch.ordered } } else x
  | _ => x

/-- Issued instructions of a tile that `p` picks leave it without having launched. -/
def dropIssued (x : Tile) (p : IssuedInstr → Bool) : Tile :=
  (x.issued.filter p).foldl (fun x i => orderCleared x i.src i.ord) { x with issued := x.issued.filter (fun i => !p i) }

/-! ## Lateness (R230–R235) -/

/-- Local time past a launch time, when positive; times compare unsigned (R225). -/
def latePast (now : DWord) (due : Nat) : Nat := now.toNat - due

/-- Record an instruction's reported lateness of `l` ns when it exceeds TOL_NS (R235). -/
def judgeLate (s : State) (t n : Nat) (ring : Bool) (l cause : Nat) : State :=
  let x := s.tile t
  if l ≤ fld x.lateCtrl 15 0 then s
  else
    let w : Word := 0x80000000 ||| atN cause 28 ||| atN n 25 ||| at1 ring 24 ||| atN l 0
    let x := { x with lateCount := satInc x.lateCount
                      late := if bit x.late 31 then x.late else w
                      lateMax := if x.lateMax.toNat < l then BitVec.ofNat 32 l else x.lateMax }
    let s := s.setTile t x
    if bit x.lateCtrl 31 then raise s evTimeLate t n 0 0 else s

/-- L in ns and its cause, from the launch lateness, the finish lateness and the launch record (R232). -/
def lateOf (la : LaunchSt) (ll fl : Nat) : Nat × Nat :=
  if la.kind = 0 then (0, 0)
  else
    let l := nsOf (max ll fl)
    (l, if l = 0 then 0 else if la.stepped then 4 else if fl ≤ ll then la.cause else 5)

/-- Finish lateness of a stream at local time `now` (R231). -/
def finishLate (st : Stream) (now : DWord) : Nat :=
  match st.launch.tL with
  | some tL => latePast now (tL.toNat + st.dnom)
  | none => 0

/-! ## Deliveries to a waiter -/

/-- Clear what holds a source. -/
def clearHold (s : State) (t : Nat) (src : Source) : State :=
  let x := s.tile t
  s.setTile t (x.setSource src { x.source src with hold := .none })

/-- Note what keeps the head from issuing (R232): 2 ORDER, 3 RESOURCE. -/
def noteWait (s : State) (t : Nat) (src : Source) (c : Nat) : State :=
  let x := s.tile t
  s.setTile t (x.setSource src { x.source src with issueWait := c })

/-- A value satisfies GE or EQ for an express counter, which is a SEQUENCE counter (R263). -/
def exHolds (v operand : Word) (cond : Nat) : Bool :=
  if cond = 1 then decide (v = operand) else serialGe v operand

/-- Compare a release with an acquire scope, recording a mismatch (R257, R283). -/
def compareScope (s : State) (rel : Option Rel) (acq : Nat) (w : Waiter) (cid : Nat) : State :=
  match rel with
  | none => s
  | some r =>
    if r.scope < acq ∨ (r.scope = 0 ∧ r.tile ≠ some w.tile) then
      scopeMm s false w.tile (w.stream.getD 0) r.scope acq cid
    else s

/-- Mark condition `i` of a launch record as fired: a DEP condition that holds last is the cause (R232). -/
def LaunchSt.fire (la : LaunchSt) (i : Nat) : LaunchSt :=
  { la with conds := la.conds.zipIdx.map (fun p => if p.2 = i then { p.1 with fired := true } else p.1)
            cause := 1, timeLast := false }

/-- An instruction that uses no stream ends with its work done: its launch lateness is judged and a ring entry completes
(R233, R235, R327). -/
def finishDone (s : State) (t : Nat) (entry : Option EntryRef) (l : Line) (la : LaunchSt) (claimed : Bool) : State :=
  let lc := lateOf la la.ll 0
  let late := decide (fld (s.tile t).lateCtrl 15 0 < lc.1)
  let s := judgeLate s t 0 entry.isSome lc.1 lc.2
  match entry with
  | some e => addComp s e { status := if late then stDoneLate else stDone, late := lc.1, cause := lc.2, claimed := claimed
                            tag := iTag l, tl := la.tl, tr := localTime s }
  | none => s

/-- A WAIT completes (R57): a CLAIM writes its result register. -/
def completeWait (s : State) (t : Nat) (src : Source) (w : WaitSt) (result : Nat) : State :=
  let s := clearHold s t src
  let s := if w.cond = 3 then s.setTile t ((s.tile t).setG w.rreg (BitVec.ofNat 64 result)) else s
  noteWait (finishDone s t w.entry w.line w.launch (decide (w.cond = 3 ∧ result = 1))) t src 2

/-- A watch that fires wakes its waiter (R255). The answer says whether the waiter was there. -/
def wake (s : State) (r : Reg) (result : Nat) : State × Bool :=
  let t := r.who.tile
  let x := s.tile t
  match r.who.stream with
  | some n =>
    (match Tab.find x.streams n with
     | none => (s, false)
     | some st =>
       if st.src = r.who.src ∧ st.ord = r.who.ord ∧ !st.launched then
         (s.setStream t n { st with launch := st.launch.fire r.who.cond }, true)
       else (s, false))
  | none =>
    (match (x.source r.who.src).hold with
     | .instr h =>
       if (x.source r.who.src).ord = r.who.ord then
         (s.setTile t (x.setSource r.who.src { x.source r.who.src with
           hold := .instr { h with launch := h.launch.fire r.who.cond } }), true)
       else (s, false)
     | .wait w =>
       if w.ord = r.who.ord ∧ r.who.cond = 2 then (completeWait s t r.who.src w result, true)
       else (s, false)
     | _ => (s, false))

/-- Register an express watch: it is evaluated at the tile's replica and takes one of 16 slots, or is held in the tile until
a slot frees (R265). -/
def registerX (s : State) (r : Reg) : State :=
  let t := r.who.tile
  if exHolds (Tab.get s.lodge.xval 0 r.cid) r.operand r.cond then
    (wake (compareScope s (Tab.find s.lodge.xrel r.cid) r.scope r.who r.cid) r 0).1
  else
    let x := s.tile t
    if x.xwatches.length < 16 then s.setTile t { x with xwatches := x.xwatches ++ [r] }
    else s.setTile t { x with xheld := x.xheld ++ [r] }

/-- Held registrations of a tile register again as slots free (R265). -/
def takeHeld (s : State) (t : Nat) : State :=
  let x := s.tile t
  let hs := x.xheld
  hs.foldl registerX (s.setTile t { x with xheld := [] })

/-! ## Watches of an instruction -/

/-- The registration of DEP condition `i` of an instruction (R252). -/
def depReg (t : Nat) (stream : Option Nat) (src : Source) (ord i : Nat) (c : Cond) : Reg :=
  { who := { tile := t, stream := stream, src := src, ord := ord, cond := i }
    cid := c.cid, express := c.express, cond := 0, operand := c.operand, scope := c.scope }

/-- The same waiter and condition. -/
def sameWait (a b : Waiter) : Bool := decide (a = b)

/-- Withdraw a registration: at the replica for an express counter, else at its home (R427). A registration
that the tile still holds is dropped; a held one takes the slot that an express watch leaves (R265). -/
def withdrawReg (s : State) (r : Reg) : State :=
  let t := r.who.tile
  let x := s.tile t
  let keep := fun (g : Reg) => !sameWait g.who r.who
  let s := s.setTile t { x with fullRegs := x.fullRegs.filter keep, xwatches := x.xwatches.filter keep
                                xheld := x.xheld.filter keep }
  if r.express then takeHeld s t
  else
    let k := regSlack s t r.who.stream
    post s .lodge (.tile t) (.lodge (homeBank s r.cid)) [] k.1 k.2 1 (.withdraw r)

/-- Withdraw the unfired conditions of an instruction. -/
def withdrawConds (s : State) (t : Nat) (stream : Option Nat) (src : Source) (ord : Nat) (cs : List Cond) :
    State :=
  (cs.zipIdx).foldl (fun s p => if p.1.fired then s else withdrawReg s (depReg t stream src ord p.2 p.1)) s

/-- The registration of a WAIT. -/
def waitReg (t : Nat) (src : Source) (w : WaitSt) : Reg :=
  { who := { tile := t, stream := none, src := src, ord := w.ord, cond := 2 }
    cid := w.cid, express := w.express, cond := w.cond, operand := w.operand, scope := w.scope }

/-- Withdraw what a held instruction waits on. -/
def withdrawHold (s : State) (t : Nat) (src : Source) : State :=
  match ((s.tile t).source src).hold with
  | .none => s
  | .instr h => withdrawConds s t none src ((s.tile t).source src).ord h.launch.conds
  | .wait w => withdrawReg s (waitReg t src w)
  | .bar _ => s

/-! ## Broken jobs (R321) -/

/-- Entry number `a` follows `b`, modulo 2^32. -/
def laterIdx (a b : Nat) : Bool :=
  let d := (a + 2 ^ 32 - b) % 2 ^ 32
  decide (0 < d) && decide (d < 2 ^ 31)

/-- `e` is a later entry of the job that entry `b` belongs to. -/
def inBroken (b e : EntryRef) : Bool :=
  decide (e.ring = b.ring) && decide (e.job = b.job) && laterIdx e.idx b.idx

/-- Complete an entry with BAD_CHAIN: T_RETIRE is the time decided, the other times 0 (R327). -/
def badChain (s : State) (e : EntryRef) (tag : Nat) : State :=
  addComp s e { status := stBadChain, tag := tag, tr := localTime s }

/-- The entry a hold belongs to, and its instruction. -/
def Hold.entry? : Hold → Option (EntryRef × Line)
  | .none => Option.none
  | .instr h => h.entry.map (fun e => (e, h.line))
  | .wait w => w.entry.map (fun e => (e, w.line))
  | .bar b => b.entry.map (fun e => (e, b.line))

/-- The tile and, with the entry's completion, the gatehouse note that entry `b` has broken its job: later entries of it end where
they arrive or before they are dispatched (R30, R321). -/
def noteBroken (s : State) (b : EntryRef) : State :=
  let r := s.ring b.ring
  let x := s.tile r.tile
  (s.setRing b.ring { r with broken := r.broken ++ [b] }).setTile r.tile { x with broken := x.broken ++ [b] }

/-- Notes of broken jobs that are still of use once entry `e` has come by: those of other rings, and of a job of its own ring that has
begun with an earlier entry. -/
def keepBroken (bs : List EntryRef) (e : EntryRef) : List EntryRef :=
  bs.filter (fun b => decide (b.ring ≠ e.ring) || (decide (b.job = e.job) && decide (e.idx ≠ e.job)))

/-- Later entries in the input queue and in the pending-signal queue, and what has been issued without a stream and not
launched. -/
def sweepTile (s : State) (b : EntryRef) : State :=
  let r := s.ring b.ring
  let t := r.tile
  let k := r.rsrc
  let x := s.tile t
  let q := Tab.get x.inq [] k
  let badQ := q.filter (fun e => inBroken b e.ref)
  let isBadP := fun (p : PendSig) => match p.entry with
    | some e => !p.sent && inBroken b e
    | none => false
  let badP := x.pendRing.filter isBadP
  let isBadI := fun (i : IssuedInstr) => match i.held.entry with
    | some e => inBroken b e
    | none => false
  let badI := x.issued.filter isBadI
  let s := s.setTile t (dropIssued { x with inq := Tab.put x.inq k (q.filter (fun e => !inBroken b e.ref))
                                            pendRing := x.pendRing.filter (fun p => !isBadP p) } isBadI)
  let s := badQ.foldl (fun s e => badChain s e.ref (iTag e.line)) s
  let s := badP.foldl (fun s p => match p.entry with
    | some e => badChain s e (iTag p.line)
    | none => s) s
  let s := badI.foldl (fun s i => match i.held.entry with
    | some e => badChain s e (iTag i.held.line)
    | none => s) s
  let src := Source.ring k
  match ((s.tile t).source src).hold with
  | .bar h =>
    -- a BAR that has not been sent was swept with the queue; one that was sent has launched
    (match h.entry with
     | some e => if badP.any (fun p => decide (p.entry = some e)) then clearHold s t src else s
     | none => s)
  | h =>
    match h.entry? with
    | some (e, l) =>
      if inBroken b e then badChain (clearHold (withdrawHold s t src) t src) e (iTag l) else s
    | none => s

/-- Later entries that hold a stream and have not launched. -/
def sweepStreams (s : State) (b : EntryRef) : State :=
  let t := (s.ring b.ring).tile
  (List.range 8).foldl (fun s n =>
    match s.stream? t n with
    | none => s
    | some st =>
      match st.entry with
      | some e =>
        if !st.launched && inBroken b e then
          let s := (withdrawConds s t (some n) st.src st.ord st.launch.conds).freeStream t n
          badChain (s.setTile t (orderCleared (s.tile t) st.src st.ord)) e (iTag st.line)
        else s
      | none => s) s

/-- Break the job of entry `b` behind it (R321). -/
def breakJob (s : State) (b : EntryRef) : State :=
  sweepStreams (sweepTile (noteBroken s b) b) b

/-! ## Program faults (R76) -/

/-- The program source stops with STATE = FAULTED. The instruction that it is held at is dropped, unjudged for lateness, and its
watches are withdrawn (log 9). A fault of an earlier instruction that comes while the source is FAULTED moves `TL_STATUS.PC` to
that instruction, and `TL_FAULT` keeps the first (DESIGN CHOICE, log 124). -/
def stopProgram (s : State) (t pc : Nat) : State :=
  let s := clearHold (withdrawHold s t .prog) t .prog
  s.setTile t { s.tile t with seq := .faulted, pc := pc, fetched := none, stopping := false }

/-- A program-source instruction ends with an error: captured and counted. REFUSED_ADMISSION lets the program continue; any
other code sets FAULTED and stops issue, and an error after launch discards the pending SIG and BAR entries, those
too that have been issued and not launched. Of the pending entries one already sent and not acknowledged is discarded too, so that
its later failure is neither captured nor counted, and none is judged for lateness (DESIGN CHOICE, log 96). -/
def progFault (s : State) (t stream pc code : Nat) (launched : Bool) : State :=
  let s := s.setTile t (captureFault (s.tile t) stream pc code)
  if code = stRefused then s
  else
    let s := stopProgram s t pc
    if launched then
      s.setTile t (dropIssued { s.tile t with pendProg := [] } (fun i => decide (i.src = .prog) && (rowOf i.held.line).pends))
    else s

/-- An instruction ends with `code`: a ring entry completes, breaking its job where the code is 0x08 or above
and no park; a program instruction follows R76, and its park is reported only in the park table (R330). -/
def endInstr (s : State) (t : Nat) (entry : Option EntryRef) (pc : Nat) (c : CompArgs) : State :=
  match entry with
  | some e =>
    let s := addComp s e c
    if 8 ≤ c.status ∧ c.status ≠ stTranslation then breakJob s e else s
  | none => if 8 ≤ c.status ∧ c.status ≠ stTranslation then progFault s t c.stream pc c.status c.launched else s

/-- An instruction fails at issue (R69): nothing is launched. -/
def failIssue (s : State) (t : Nat) (entry : Option EntryRef) (pc : Nat) (l : Line) (code : Nat) : State :=
  endInstr s t entry pc { status := code, tag := iTag l, tr := localTime s, launched := false }

/-- An instruction that uses no stream ends with a code: its launch lateness is judged (R233, R235). -/
def finishSimple (s : State) (t : Nat) (entry : Option EntryRef) (pc : Nat) (l : Line) (la : LaunchSt)
    (code : Nat) : State :=
  if code = stDone then finishDone s t entry l la false
  else
    let lc := lateOf la la.ll 0
    let s := judgeLate s t 0 entry.isSome lc.1 lc.2
    endInstr s t entry pc { status := code, late := lc.1, cause := lc.2, tag := iTag l, tl := la.tl, tr := localTime s }

end Sys2Proof.Machine
end

