-- ==== Sys2Proof/Machine/Layout.lean ====
section
/-! DEFINITION. The layout operations (R109–R115) and the order in which the read walker visits the elements
(R122–R125). A visit is one reading of a source element; visits are numbered in the order the walker makes
them. -/

namespace Sys2Proof.Machine

/-- How visits relate to the permuted tensor: in its order; once for each output of a split whose rows are read
twice; alternating pieces of two planes; or in bands (R122–R125). -/
inductive VisitMode where
  | direct | twice | alt | band
  deriving DecidableEq, Repr

/-- The layout of a descriptor-walk read side: counts, padding, permutation and realisation. -/
structure Lay where
  cnt : List Nat
  pre : List Nat
  pad : List Nat
  pmap : List Nat
  /-- PADMODE, or none with PAD = 0 -/
  padmode : Option Nat
  cplx : Nat
  /-- width in bits of the element at stage 4 -/
  bits : Nat
  /-- counts of the permuted tensor -/
  perm : List Nat
  m : Nat
  K : Nat
  B : Nat
  E : Nat
  mode : VisitMode
  /-- zero STRIDE_0 of an element format: one read a row (R84) -/
  bcast : Bool
  deriving DecidableEq, Repr

/-- Position of a value in a list. -/
def posOf (l : List Nat) (v : Nat) : Nat := l.findIdx (fun x => decide (x = v))

/-- The layout of an instruction from its read descriptor, op descriptor, source element and the smallest slice
of its pool in bytes (R120). -/
def Lay.of (td : Td) (od : Line) (e : Elem) (slice : Nat) : Lay :=
  let dims := tdDims td
  let cnt := tdCounts td
  let pre := dims.map (fun d => if oPad od then oPre od d else 0)
  let pad := dims.map (fun d => if oPad od then oPre od d + tdCount td d + oPost od d else tdCount td d)
  let pmap := dims.map (fun d => if oPerm od then oPmap od d else d)
  let perm := pmap.map (fun d => pad.getD d 0)
  let m := posOf pmap 0
  let bits := e.decoded.width
  let wb := bits / 8
  let K := prodL (perm.take m)
  let B := if wb = 0 then 0 else 128 / wb
  let E := if K * wb = 0 then B else min B (slice / (2 * K * wb))
  let n0 := pad.getD 0 0
  let mode := if 1 ≤ m then VisitMode.band
    else if oCplx od = 1 then (if n0 * wb / 2 ≤ slice / 2 then .direct else .twice)
    else if oCplx od = 2 then .alt else .direct
  { cnt := cnt, pre := pre, pad := pad, pmap := pmap
    padmode := if oPad od then some (oPadmode od) else none
    cplx := oCplx od, bits := bits, perm := perm, m := m, K := K, B := B, E := E, mode := mode
    bcast := !e.isBlock && decide (tdStride td 0 = 0) && decide (8 ≤ bits) }

/-- Elements of the tensor leaving stage 5 (R115). -/
def Lay.nOut (l : Lay) : Nat :=
  let n := prodL l.perm
  if l.cplx = 1 then 2 * n else if l.cplx = 2 then n / 2 else n

/-- Counts of the tensor leaving stage 5 (R111–R113). -/
def Lay.outCounts (l : Lay) : List Nat :=
  match l.cplx, l.perm with
  | 1, c :: cs => c :: 2 :: cs
  | 2, c :: _ :: cs => c :: cs
  | _, p => p

/-- R109: padded index to source index, none for the constant value. -/
def srcIndex (q pre n : Nat) (padmode : Option Nat) : Option Nat :=
  if pre ≤ q ∧ q < pre + n then some (q - pre)
  else
    match padmode with
    | some 1 => some (if q < pre then 0 else n - 1)
    | some 2 => some (if q < pre then pre - q else 2 * (n - 1) - (q - pre))
    | _ => none

/-- Padded source indices, dimension 0 first, of permuted element `x` (R111). -/
def Lay.padded (l : Lay) (x : Nat) : List Nat :=
  let p := unrank l.perm x
  (List.range l.cnt.length).map (fun d => p.getD (posOf l.pmap d) 0)

/-- Permuted element of padded source indices. -/
def Lay.permuted (l : Lay) (q : List Nat) : Nat := rank l.perm (l.pmap.map (fun d => q.getD d 0))

/-- Source indices, none where any dimension gives the constant value. -/
def srcIndices : List Nat → List Nat → List Nat → Option Nat → Option (List Nat)
  | q :: qs, p :: ps, n :: ns, m =>
    match srcIndex q p n m, srcIndices qs ps ns m with
    | some i, some is => some (i :: is)
    | _, _ => none
  | _, _, _, _ => some []

/-- Source index vector of permuted element `x`. -/
def Lay.src (l : Lay) (x : Nat) : Option (List Nat) := srcIndices (l.padded x) l.pre l.cnt l.padmode

/-! ## Visits -/

/-- Bands: the permuted element of visit `v`, and the reverse (R123). -/
def Lay.bandPerm (l : Lay) (v : Nat) : Nat :=
  let n0 := l.pad.getD 0 1
  let u := v / (l.K * n0)
  let x := v % (l.K * n0)
  let b := x / (l.E * l.K)
  let e := min l.E (n0 - b * l.E)
  let y := x - b * l.E * l.K
  u * l.K * n0 + (b * l.E + y % e) * l.K + y / e

def Lay.bandVisit (l : Lay) (x : Nat) : Nat :=
  let n0 := l.pad.getD 0 1
  let u := x / (l.K * n0)
  let r := x % l.K
  let j := x / l.K % n0
  let b := j / l.E
  let e := min l.E (n0 - b * l.E)
  u * l.K * n0 + b * l.E * l.K + r * e + (j - b * l.E)

/-- Interleave with m = 0: pieces of B elements of each plane of a row (R125). -/
def Lay.altPerm (l : Lay) (v : Nat) : Nat :=
  let p0 := l.perm.getD 0 1
  let row := v / (2 * p0)
  let x := v % (2 * p0)
  let pc := x / (2 * l.B)
  let len := min l.B (p0 - pc * l.B)
  let y := x - pc * 2 * l.B
  row * 2 * p0 + (y / len) * p0 + pc * l.B + y % len

def Lay.altVisit (l : Lay) (x : Nat) : Nat :=
  let p0 := l.perm.getD 0 1
  let row := x / (2 * p0)
  let c := x / p0 % 2
  let i := x % p0
  let pc := i / l.B
  let len := min l.B (p0 - pc * l.B)
  row * 2 * p0 + pc * 2 * l.B + c * len + (i - pc * l.B)

/-- The piece that a visit belongs to under interleave with m = 0: row, piece and plane (R125). -/
def Lay.altPiece (l : Lay) (v : Nat) : Nat × Nat × Nat :=
  let p0 := l.perm.getD 0 1
  let x := v % (2 * p0)
  let pc := x / (2 * l.B)
  (v / (2 * p0), pc, (x - pc * 2 * l.B) / min l.B (p0 - pc * l.B))

/-- Number of visits. -/
def Lay.visits (l : Lay) : Nat := if l.mode = .twice then l.nOut else prodL l.perm

/-- Permuted element of output element `k` of a split: its row's element, and the component. -/
def Lay.splitOf (l : Lay) (k : Nat) : Nat × Nat :=
  let p0 := l.perm.getD 0 1
  (k / (2 * p0) * p0 + k % p0, k / p0 % 2)

/-- Permuted element that a visit reads. -/
def Lay.permOf (l : Lay) (v : Nat) : Nat :=
  match l.mode with
  | .direct => v
  | .twice => (l.splitOf v).1
  | .alt => l.altPerm v
  | .band => l.bandPerm v

/-- Visit that reads permuted element `x`; component `c` of a split whose rows are read twice. -/
def Lay.visitOf (l : Lay) (x c : Nat) : Nat :=
  match l.mode with
  | .direct => x
  | .twice =>
    let p0 := l.perm.getD 0 1
    x / p0 * (2 * p0) + c * p0 + x % p0
  | .alt => l.altVisit x
  | .band => l.bandVisit x

/-- Component of a visit of a split whose rows are read twice. -/
def Lay.planeOf (l : Lay) (v : Nat) : Nat := if l.mode = .twice then (l.splitOf v).2 else 0

/-- Source indices of a visit, none for a padded element. -/
def Lay.srcAt (l : Lay) (v : Nat) : Option (List Nat) := l.src (l.permOf v)

/-- Element number, on the read side, of a visit. -/
def Lay.elemAt (l : Lay) (v : Nat) : Option Nat := (l.srcAt v).map (rank l.cnt)

/-- First and last padded index of dimension 0 that a broadcast read of a visit serves: those of its row, or of
its input row within a band, without constant padding. That a band's input row, and not the whole row, is served by one read is
the model's reading of R84 (DEDUCED, log 108: a band visits the row once for each band, R123). -/
def Lay.span (l : Lay) (q0 : Nat) : Nat × Nat :=
  let n0 := l.pad.getD 0 1
  let lo := if l.padmode = some 1 ∨ l.padmode = some 2 then 0 else l.pre.getD 0 0
  let hi := if l.padmode = some 1 ∨ l.padmode = some 2 then n0 - 1 else l.pre.getD 0 0 + l.cnt.getD 0 1 - 1
  if l.mode = .band then
    let b := q0 / l.E
    (max lo (b * l.E), min hi (b * l.E + min l.E (n0 - b * l.E) - 1))
  else (lo, hi)

/-- A visit with padded index 0 replaced. -/
def Lay.atIndex0 (l : Lay) (v q0 : Nat) : Nat :=
  l.visitOf (l.permuted ((l.padded (l.permOf v)).set 0 q0)) (l.planeOf v)

/-- The visit whose read serves this one: itself, or the first of its row under a broadcast (R84). -/
def Lay.canon (l : Lay) (v : Nat) : Nat :=
  if l.bcast then l.atIndex0 v (l.span ((l.padded (l.permOf v)).getD 0 0)).1 else v

/-- Visits that output element `k` uses: one, or the two planes of an interleaved element. -/
def Lay.needs (l : Lay) (k : Nat) : List Nat :=
  let p0 := l.perm.getD 0 1
  if l.cplx = 1 then
    let x := l.splitOf k
    [l.visitOf x.1 x.2]
  else if l.cplx = 2 then
    let x := k / p0 * (2 * p0) + k % p0
    [l.visitOf x 0, l.visitOf (x + p0) 0]
  else [l.visitOf k 0]

/-- Last output element that uses the data of visit `v`. -/
def Lay.lastUse (l : Lay) (v : Nat) : Nat :=
  let p0 := l.perm.getD 0 1
  let v := if l.bcast then l.atIndex0 v (l.span ((l.padded (l.permOf v)).getD 0 0)).2 else v
  let x := l.permOf v
  if l.cplx = 1 then
    (if l.mode = .twice then v else x / p0 * (2 * p0) + p0 + x % p0)
  else if l.cplx = 2 then x / (2 * p0) * p0 + x % p0
  else x

/-- First output element that uses the data of visit `v`. -/
def Lay.firstUse (l : Lay) (v : Nat) : Nat :=
  let p0 := l.perm.getD 0 1
  let x := l.permOf v
  if l.cplx = 1 then (if l.mode = .twice then v else x / p0 * (2 * p0) + x % p0)
  else if l.cplx = 2 then x / (2 * p0) * p0 + x % p0
  else x

/-- The first visit that output elements from `k` on need (R103). -/
def Lay.restart (l : Lay) (k : Nat) : Nat :=
  let p0 := l.perm.getD 0 1
  match l.mode with
  | .twice => l.canon k
  | .alt => l.canon (k / p0 * (2 * p0) + (k % p0) / l.B * (2 * l.B))
  | .band =>
    let x := if l.cplx = 1 then (l.splitOf k).1 else if l.cplx = 2 then k / p0 * (2 * p0) + k % p0 else k
    let n0 := l.pad.getD 0 1
    x / (l.K * n0) * (l.K * n0) + (x / l.K % n0) / l.E * (l.E * l.K)
  | .direct =>
    if l.cplx = 1 then
      (if k / p0 % 2 = 0 then k / (2 * p0) * p0 else l.canon (k / (2 * p0) * p0 + k % p0))
    else l.canon k

/-- Whether some row of source data is read twice under split or interleave (R116). -/
def Lay.readsTwice (l : Lay) : Bool := decide (l.mode = .twice)

end Sys2Proof.Machine
end

