-- ==== Sys2Proof/Machine/Issue.lean ====
section
/-! DEFINITION. The issue checks of mover instructions (R46–R64, R69, R71, R81–R83, R116, R129, R136, R143,
R147, R148, R158, R164, R172, R175, R181, R188, R198, R199, R248, R437) and what issue computes (R120, R307). -/

namespace Sys2Proof.Machine

/-! ## Header and body rules -/

/-- A field list is all zero. -/
def zeros (l : Line) (fs : List (Nat × Nat × Nat)) : Bool :=
  fs.all (fun f => decide (wf l f.1 f.2.1 f.2.2 = 0))

/-- Reserved header bits (R46). -/
def headerRes : List (Nat × Nat × Nat) :=
  [(4, 30, 29), (4, 23, 22), (4, 14, 13), (4, 7, 6), (16, 15, 6), (20, 31, 16)]

/-- Words of the body from byte `b` up to byte 55. -/
def restZero (b : Nat) : List (Nat × Nat × Nat) :=
  (List.range ((56 - b) / 4)).map (fun i => (b + 4 * i, 31, 0))

/-- Reserved body bits of a row (R52–R64). -/
def bodyRes : Row → List (Nat × Nat × Nat)
  | .move => [(24, 31, 23), (28, 31, 13), (28, 7, 5)] ++ restZero 32
  | .walk => [(24, 31, 23), (28, 30, 28), (28, 14, 12), (32, 31, 13), (32, 7, 5)] ++ restZero 36
  | .sig => [(24, 31, 21), (24, 15, 15)] ++ restZero 32
  | .waitGe | .waitEq | .waitAcquire | .waitClaim => [(24, 31, 29), (24, 15, 15)] ++ restZero 32
  | .fence => restZero 24
  | .bar => [(24, 31, 17), (24, 15, 9)] ++ restZero 28
  | .add | .sub | .and | .or | .xor | .shl | .shr | .tdw | .odw | .rdtime =>
    [(24, 31, 29), (24, 23, 21), (24, 15, 13), (24, 7, 4), (28, 31, 12)] ++ restZero 40
  | .jmp | .br | .halt | .nop => [(24, 31, 21), (24, 15, 13), (24, 7, 3), (28, 31, 10)] ++ restZero 40
  | .resume | .abandon => [(24, 31, 9), (24, 7, 3)] ++ restZero 32
  | .bad => []

/-- Body rules beyond reserved bits: RREG, G and CID, descriptor ranges, branch fields, and a WALK with a
program side (R54, R56, R57, R60, R62). -/
def bodyBad (l : Line) : Row → Bool
  | .walk => !iRuse l && !iWuse l
  | .sig => !iG l && decide (64 ≤ iCid l)
  | .waitGe | .waitEq | .waitAcquire => (!iG l && decide (64 ≤ iCid l)) || decide (iRreg l ≠ 0)
  | .waitClaim => !iG l && decide (64 ≤ iCid l)
  | .odw => decide (128 ≤ iTi l) || decide (8 ≤ iWi l)
  | .jmp => decide (iBrCond l ≠ 0) || decide (iBrA l ≠ 0) || decide (iBrB l ≠ 0) || decide (iImm l ≠ 0)
  | .br => decide (6 ≤ iBrCond l)
  | .halt | .nop => decide (iBrCond l ≠ 0) || decide (iBrA l ≠ 0) || decide (iBrB l ≠ 0) || decide (iImm l ≠ 0)
      || decide (iTarget l ≠ 0)
  | .bad => true
  | _ => false

/-- Register fields of a body, which a ring-sourced instruction leaves 0 (R50). -/
def bodyRegs (l : Line) : Row → List Nat
  | .move => [iSrcBreg l, iDstBreg l]
  | .walk => [iRareg l, iWareg l]
  | .sig => [iVreg l]
  | .waitGe | .waitEq | .waitAcquire | .waitClaim => [iRreg l, iTreg l]
  | _ => []

/-- Classes whose SCOPE is 0 (R48). -/
def Row.noScope : Row → Bool
  | .move | .walk | .sig | .waitGe | .waitEq | .waitAcquire | .waitClaim | .fence | .bar => false
  | _ => true

/-- A row that ring sources may not carry (R50). -/
def Row.progOnly : Row → Bool
  | .jmp | .br | .halt => true
  | r => r.isSet

/-- A row that only ring sources may carry (R50). -/
def Row.ringOnly : Row → Bool
  | .resume | .abandon => true
  | _ => false

/-- The header rules of R46–R50. -/
def headerBad (l : Line) (r : Row) (ring : Bool) : Bool :=
  !zeros l headerRes || decide (iScope l = 3) || decide (iLaunch l = 3) || decide (iSigmode l = 3)
  || (decide (iLaunch l = 2) && decide (fld (iLtime l) 63 48 ≠ 0))
  || (!r.isStream && decide (iSigmode l ≠ 0))
  || (r.noScope && decide (iScope l ≠ 0))
  || (r.ringOnly && (iDep l || decide (iLaunch l ≠ 0)))
  || (iDep l && !iDv l 0 && !iDv l 1)
  || (!iDep l && !zeros l [(4, 31, 0), (56, 31, 0), (60, 31, 0)])
  || (!iDv l 0 && (decide (iDid l 0 ≠ 0) || decide (iDreg l 0 ≠ 0) || decide (iDimm l 0 ≠ 0)))
  || (!iDv l 1 && (decide (iDid l 1 ≠ 0) || decide (iDreg l 1 ≠ 0) || decide (iDimm l 1 ≠ 0)))
  || (decide (iSigmode l = 0) && (decide (iSigid l ≠ 0) || decide (iSiginc l ≠ 0)))
  || (decide (iSigmode l ≠ 0) && decide (iSiginc l = 0))
  || (decide (iLaunch l = 0) && (decide (iLtime l ≠ 0) || decide (iLreg l ≠ 0)))
  || (ring && (r.progOnly || decide (iLreg l ≠ 0) || decide (iDreg l 0 ≠ 0) || decide (iDreg l 1 ≠ 0)
      || (bodyRegs l r).any (fun n => decide (n ≠ 0))))
  || (!ring && r.ringOnly)

/-- Header and body rules together. -/
def wordBad (l : Line) (ring : Bool) : Bool :=
  let r := rowOf l
  headerBad l r ring || !zeros l (bodyRes r) || bodyBad l r

/-! ## Contexts and permissions (R69, R246–R248) -/

/-- Place of entry `k` of the context table in the copy of leaf router `p` (R247). -/
def ctxPlace (p k : Nat) : Nat := 16384 * p + k

/-- Entry `i` of context `x` in the copy at tile `t`'s leaf router: express flag and counter, none when it is unmapped
(R247, R415). -/
def ctxEntry (s : State) (t x i : Nat) : Option (Bool × Nat) :=
  let k := ctxPlace (GenConfig.leafOf s.gen t) (64 * x + i)
  let w := Tab.get s.lodge.ctx 0 k
  if s.lodge.ctxBad.contains k || !bit w 31 || decide (fld w 29 14 ≠ 0)
      || (bit w 30 && decide (256 ≤ fld w 13 0)) then none
  else some (bit w 30, fld w 13 0)

/-- Local sync IDs that an instruction names in its header: DEP conditions and the data signal. -/
def headerIds (l : Line) : List Nat :=
  (if iDv l 0 then [iDid l 0] else []) ++ (if iDv l 1 then [iDid l 1] else [])
    ++ (if iSigmode l ≠ 0 then [iSigid l] else [])

/-- The places in the context copy that the issue of an instruction at tile `t` reads. -/
def ctxReads (s : State) (t : Nat) (l : Line) : List Nat :=
  let r := rowOf l
  (headerIds l ++ (if (r = .sig ∨ r.isWait) ∧ !iG l then [iCid l] else [])).map (fun i =>
    ctxPlace (GenConfig.leafOf s.gen t) (64 * iCtx l + i))

/-- An entry of a context copy is unmapped from now on, until it is written (R415). -/
def loseCtx (s : State) (k : Nat) : State :=
  { s with lodge := { s.lodge with ctxBad := if s.lodge.ctxBad.contains k then s.lodge.ctxBad else s.lodge.ctxBad ++ [k] } }

/-- What SECDED finds in the context copy at issue: of the entries that the instruction reads, the first shows it (R415). -/
def ctxEcc (s : State) (t : Nat) (l : Line) (ecc : Ecc) : State :=
  let u := luRouter (GenConfig.leafOf s.gen t)
  match (ctxReads s t l).head?, ecc with
  | some k, .corrected => klog s .corrected .sramCe u { addr := BitVec.ofNat 64 (k % 16384) }
  | some k, .bad => loseCtx (klog s .unrecovered .sramUe u { code := stPermission, addr := BitVec.ofNat 64 (k % 16384) }) k
  | _, _ => s

/-- A counter lies in the tile's partition. -/
def cntOk (s : State) (t : Nat) (c : Bool × Nat) : Bool :=
  if c.1 then expIn s (partOf s t) (c.2 / 32 * 32) else cntIn s (partOf s t) c.2

/-- Counter of a SIG or WAIT: a global ID with G = 1, else a local sync ID. -/
def cidOf (s : State) (t : Nat) (l : Line) : Option (Bool × Nat) :=
  if iG l then some (false, iCid l) else ctxEntry s t (iCtx l) (iCid l)

/-- A named counter that is unmapped or outside the partition. -/
def idBad (s : State) (t : Nat) (o : Option (Bool × Nat)) : Bool :=
  match o with
  | none => true
  | some c => !cntOk s t c

/-- The PERMISSION conditions of R69. -/
def permBad (s : State) (t : Nat) (l : Line) (r : Row) : Bool :=
  (headerIds l).any (fun i => idBad s t (ctxEntry s t (iCtx l) i))
  || (decide (r = .sig ∨ r.isWait) && idBad s t (cidOf s t l))
  || (decide (r = .bar) && !barIn s (partOf s t) (iBarid l))

/-- R248: ACQUIRE or CLAIM on an express counter, and a DEP on one with an operand register. -/
def expressBad (s : State) (t : Nat) (l : Line) (r : Row) : Bool :=
  let isX := fun (o : Option (Bool × Nat)) => match o with
    | some c => c.1
    | none => false
  (decide (r = .waitAcquire ∨ r = .waitClaim) && isX (cidOf s t l))
  || [0, 1].any (fun n => iDv l n && decide (iDreg l n ≠ 0) && isX (ctxEntry s t (iCtx l) (iDid l n)))

/-- The code that the checks of an instruction give, most severe first (R69). -/
def rankCode (malformed badFormat perm : Bool) : Option Nat :=
  if malformed then some stMalformed
  else if badFormat then some stBadFormat
  else if perm then some stPermission
  else none

/-- Issue checks of an instruction that uses no stream. -/
def issueCode (s : State) (t : Nat) (l : Line) (ring : Bool) : Option Nat :=
  let r := rowOf l
  rankCode (wordBad l ring || expressBad s t l r) false (permBad s t l r)

/-! ## Descriptors -/

/-- Words `n` from index `i` of a table as one vector. -/
def tabBits (tb : Tab Word) (i n w : Nat) : BitVec w :=
  BitVec.ofNat w (ofWords ((List.range n).map (fun k => Tab.get tb 0 (i + k))))

def Tile.td (x : Tile) (k : Nat) : Td := tabBits x.tdt (32 * k) 32 1024
def Tile.od (x : Tile) (k : Nat) : Line := tabBits x.odt (16 * k) 16 512

/-- What an issue check needs: the descriptors, sides and bases of a MOVE or WALK. -/
structure IssueCtx where
  src : Td
  dst : Td
  scale : Td
  side : Td
  od : Line
  ruse : Bool
  wuse : Bool
  rdBase : DWord
  wrBase : DWord
  slice : Nat

/-- Reserved bits, and the rows of R69 on dimensions. -/
def tdResBad (t : Td) : Bool := decide (fld t (64 + 63) (64 + 20) ≠ 0)

def tdDimsBad (t : Td) : Bool :=
  (tdDims t).any (fun d => decide (tdCount t d = 0)
    || (tdCirc t d && (decide (tdClen t d = 0) || decide (tdClen t d ≤ tdCstart t d))))
  || (List.range 8).any (fun d => decide (tdNdim t < d)
    && (decide (tdCount t d ≠ 0) || decide (tdStride t d ≠ 0) || decide (tdClen t d ≠ 0)
        || decide (tdCstart t d ≠ 0) || tdCirc t d))

/-- A multiple, with 0 for no constraint. -/
def multipleOf (v : Int) (n : Nat) : Bool := decide (v % (n : Int) = 0)

/-- Base and strides of a descriptor walk are multiples of `n` (R81). -/
def tdAligned (t : Td) (base : DWord) (n : Nat) : Bool :=
  multipleOf base.toNat n && (tdDims t).all (fun d => decide (tdCount t d ≤ 1) || multipleOf (tdStride t d) n)

/-- Layout conditions of a descriptor walk in a format: R81, R82, R83, R143, R188. -/
def walkBad (t : Td) (base : DWord) (e : Elem) : Bool :=
  match e with
  | .bxz =>
    decide (tdCount t 0 % 64 ≠ 0) || decide (tdStride t 0 ≠ 0) || tdCirc t 0 || !multipleOf base.toNat 16
    || (tdDims t).any (fun d => decide (1 ≤ d) && decide (1 < tdCount t d) && !multipleOf (tdStride t d) 16)
    || decide (4194304 < tdCount t 0) || tdNonidem t
  | .orb _ | .ors _ | .oru _ =>
    decide (tdCount t 0 % 12 ≠ 0) || decide (tdStride t 0 ≠ 0) || tdCirc t 0
  | _ =>
    if e.width < 8 then
      decide (tdStride t 0 ≠ 0) || decide (tdCount t 0 * e.width % 8 ≠ 0) || tdCirc t 0
    else !tdAligned t base (e.width / 8)

/-- Elements of the tensor leaving stage 5 when the read side is a descriptor walk. -/
def IssueCtx.lay (c : IssueCtx) (e : Elem) : Lay := Lay.of c.src c.od e c.slice

/-- Shape of the tensor leaving stage 5 (R437); none when both sides run programs. -/
def IssueCtx.shape (c : IssueCtx) (e : Elem) : Option (List Nat) :=
  if !c.ruse then some (c.lay e).outCounts
  else if !c.wuse then some (tdCounts c.dst)
  else none

/-- A permutation of 0 to n − 1. -/
def isPerm (l : List Nat) : Bool := (List.range l.length).all (fun d => l.contains d)

/-- R71 and the fields that R70 reserves. -/
def odBad (o : Line) (ndim : Nat) : Bool :=
  decide (4 < oEscmax o) || decide (oShift o = 63) || decide (16 < oChunk o)
  || decide (oCplx o = 3) || decide (oPadmode o = 3) || decide (oBlk o = 3)
  || decide (ow o 0 6 2 ≠ 0) || decide (ow o 1 31 24 ≠ 0) || decide (ow o 4 15 13 ≠ 0) || decide (ow o 4 7 6 ≠ 0)
  || decide (ow o 10 31 16 ≠ 0) || (List.range 5).any (fun k => decide (ow o (11 + k) 31 0 ≠ 0))
  || (oPerm o && !isPerm ((List.range (ndim + 1)).map (oPmap o)))
  || (List.range 8).any (fun d => decide (ndim < d) && decide (oPmap o d ≠ 0))

/-- Conditions of R116 that give MALFORMED; those on the element's width are `known` of a defined format only. -/
def layoutBad (c : IssueCtx) (e : Elem) (known : Bool) : Bool :=
  let o := c.od
  let l := c.lay e
  let nd := tdNdim c.src
  let w := e.decoded.width
  (!oPad o && (List.range 5).any (fun k => decide (ow o (5 + k) 31 0 ≠ 0)))
  || (!oPerm o && decide (ow o 1 23 0 ≠ 0))
  || (c.ruse && (oPad o || oPerm o || decide (oCplx o ≠ 0)))
  || (!c.ruse && (
      (List.range 8).any (fun d => decide (nd < d) && (decide (oPre o d ≠ 0) || decide (oPost o d ≠ 0)))
      || l.pad.any (fun n => decide (2 ^ 24 - 1 < n))
      || (oPad o && decide (oPadmode o = 2) && (tdDims c.src).any (fun d =>
          decide (tdCount c.src d ≤ oPre o d) || decide (tdCount c.src d ≤ oPost o d)))
      || (known && oPad o && decide (2 ^ w ≤ (oPadval o).toNat))
      || (oPad o && decide (w < 8) && (decide (oPre o 0 * w % 8 ≠ 0) || decide (oPost o 0 * w % 8 ≠ 0)))
      || (decide (oCplx o = 2) && (decide (nd = 0) || decide (l.perm.getD 1 0 ≠ 2)))
      || (tdNonidem c.src && (oPerm o || (oPad o && decide (oPadmode o ≠ 0)) || (known && l.readsTwice)))
      || (known && decide (1 ≤ l.m) && decide (8 ≤ w) && decide (l.E = 0))))

/-- Conditions of R116 that give BAD_FORMAT. -/
def layoutBadFmt (c : IssueCtx) (e : Elem) : Bool :=
  let o := c.od
  let l := c.lay e
  (decide (oCplx o = 1) && !e.decoded.isComplex)
  || (decide (oCplx o = 2) && (e.isMx || e.decoded.complex.isNone))
  || (e.isMx && (oPad o || oPerm o || decide (oCplx o ≠ 0)))
  || (!c.ruse && decide (e.decoded.width < 8) && decide (1 ≤ l.m))

/-- A scale tensor is read or written (R157). -/
def usesScale (o : Line) : Bool := decide (2 ≤ oSgran o)

/-- Elements of a scale block: 32 for a microscaling side, else BLK (R157, R134). -/
def blockSize (o : Line) (e d : Elem) : Nat := if e.isMx || d.isMx then 32 else oBlkN o

/-- Bytes of a scale record (R163). -/
def recBytes (o : Line) : Nat := if oReq o then 8 else 4

/-- Records of an instruction: by the shape of the tensor leaving stage 5, or by the scale descriptor when both
sides run programs (R164, R437). -/
def recCount (c : IssueCtx) (e d : Elem) : Nat :=
  match c.shape e with
  | some sh =>
    if oSgran c.od = 2 then sh.getD (oSdim c.od) 0 else prodL sh / blockSize c.od e d
  | none => tdN c.scale

/-- Differences between consecutive indices of a dimension of a walk (R68, R85). -/
def tdSteps (t : Td) (d : Nat) : List Int :=
  let n := tdCount t d
  let l := tdClen t d
  if n ≤ 1 then []
  else if tdCirc t d then
    (if 2 ≤ l ∧ (tdCstart t d + 1 < l ∨ 3 ≤ n) then [1] else [])
    ++ (if l ≤ tdCstart t d + n - 1 then [1 - (l : Int)] else [])
  else [1]

/-- Every address that a walk can generate is a multiple of `n`. -/
def tdAllAligned (t : Td) (base : DWord) (n : Nat) : Bool :=
  multipleOf ((base.toNat : Int)
      + ((tdDims t).map (fun d => tdStride t d * (if tdCirc t d then (tdCstart t d : Int) else 0))).sum) n
  && (tdDims t).all (fun d => (tdSteps t d).all (fun k => multipleOf (tdStride t d * k) n))

/-- The scale descriptor rules (R164). -/
def scaleBad (c : IssueCtx) (e d : Elem) : Bool :=
  let t := c.scale
  tdResBad t || tdDimsBad t || decide (tdFmt t ≠ 7) || tdNonidem t
  || !tdAllAligned t (tdBase t) (recBytes c.od) || decide (tdN t ≠ recCount c e d)

/-- Conditions of R158, and of R199 for AUTO with a BXZ source, that give MALFORMED. -/
def requantBad (c : IssueCtx) (e d : Elem) : Bool :=
  let o := c.od
  let sg := oSgran o
  (oReq o && decide (sg = 0))
  || (!oReq o && decide (sg = 1 ∨ sg = 2))
  || (!oReq o && (decide (oMult o ≠ 0) || decide (oZi o ≠ 0) || decide (oZo o ≠ 0) || decide (oShift o ≠ 0)))
  || (oReq o && decide (2 ≤ sg) && !oAuto o && (decide (oMult o ≠ 0) || decide (oShift o ≠ 0)))
  || (oAuto o && oReq o && decide (sg ≠ 3))
  || (oAuto o && !oReq o && !d.isMx && decide (d ≠ .bxz)) || (oAuto o && decide (e = .bxz))
  || (decide (sg ≠ 3) && decide (oBlk o ≠ 0)) || (decide (sg ≠ 2) && decide (oSdim o ≠ 0))
  || (match c.shape e with
      | some sh =>
        (decide (sg = 2) && (decide (sh.length ≤ oSdim o) || decide (512 < sh.getD (oSdim o) 0)))
        || (decide (sg = 3) && decide (sh.getD 0 0 % blockSize o e d ≠ 0))
      | none => decide (oSdim o ≠ 0) || (decide (sg = 2) && decide (512 < tdN c.scale)))
  || (usesScale o && scaleBad c e d)

/-- Conditions of R158 that give BAD_FORMAT. -/
def requantBadFmt (c : IssueCtx) (e d : Elem) : Bool :=
  let o := c.od
  (match stage5Elem e (oCplx o) with
   | some i => oReq o && (!i.isInt || !d.isInt || decide (i.isComplex ≠ d.isComplex))
   | none => false)
  || (oReq o && (d.isMx || d.isBlock))
  || (!oReq o && decide (oSgran o = 3) && !e.isMx && !d.isMx)

/-- Microscaling checks (R136, R137): MALFORMED. -/
def mxBad (c : IssueCtx) (e d : Elem) : Bool :=
  (e.isMx && !c.ruse && decide (tdCount c.src 0 % 32 ≠ 0))
  || (d.isMx && !c.wuse && decide (tdCount c.dst 0 % 32 ≠ 0))

/-- Microscaling checks: BAD_FORMAT. -/
def mxBadFmt (c : IssueCtx) (e d : Elem) : Bool :=
  let o := c.od
  (e.isMx && d.isMx)
  || ((e.isMx || d.isMx) && (decide (oSgran o ≠ 3) || decide (oBlk o ≠ 1) || oReq o))
  || (d.isMx && (decide (e = .bxz) || (match stage5Elem e (oCplx o) with
      | some i => i.isComplex
      | none => false)))
  || (e.isMx && (d.isComplex || d.isBlock))
  || (e.isMx && c.ruse) || (d.isMx && c.wuse) || (e.isMx && oAuto o)

/-- Whether the conversion from the element leaving stage 5 is supported (R147, R148, R198). -/
def convOk (e d : Elem) (cplx : Nat) : Bool :=
  match stage5Elem e cplx with
  | none => false
  | some i =>
    if e.isBlock && d.isBlock then false
    else if d.isFronthaul then i.isComplex
    else if d = .bxz then !i.isComplex && !i.isMx
    else if e = .bxz then !d.isComplex && !d.isMx
    else decide (i.isComplex = d.isComplex)

/-- Escape and side-list checks (R172, R175): MALFORMED. -/
def escBad (c : IssueCtx) (d : Elem) : Bool :=
  let o := c.od
  let t := c.side
  (oEsc o && decide (oEscmax o = 0)) || (!oEsc o && decide (oEscmax o ≠ 0)) || (oEsc o && oAuto o)
  || (oEsc o && decide (d ≠ .bxz) && (tdResBad t || tdDimsBad t || decide (tdFmt t ≠ 7) || decide (tdNdim t ≠ 0)
      || decide (tdStride t 0 ≠ 8) || tdCirc t 0 || tdNonidem t || !multipleOf (tdBase t).toNat 8))

/-- A destination that takes escapes (R172). -/
def escDest (d : Elem) : Bool :=
  match d with
  | .int _ w => decide (w ≤ 16)
  | .bxz => true
  | _ => false

/-- A destination that takes accumulation (R181). -/
def accDest (d : Elem) : Bool :=
  match d with
  | .int _ w => decide (8 ≤ w)
  | .flt f => decide (f = fF16 ∨ f = fBF16 ∨ f = fF32)
  | .cint _ => true
  | .cf16 => true
  | _ => false

/-- Smallest and largest circular or linear index of a dimension that a walk reaches. -/
def idxRange (t : Td) (d : Nat) : Int × Int :=
  if tdCirc t d then
    (if tdCstart t d + tdCount t d ≤ tdClen t d
     then ((tdCstart t d : Int), (tdCstart t d + tdCount t d - 1 : Int)) else (0, (tdClen t d : Int) - 1))
  else (0, (tdCount t d : Int) - 1)

/-- Bytes that a walk covers from each combination of its higher indices on, or of all its indices: a packed row (R82), the blocks of
a fronthaul row (R143), the index entry of a BXZ row (R187), or one element. -/
def walkBytes (e : Elem) (t : Td) : Nat :=
  if e = .bxz then 16
  else if e.isFronthaul then tdCount t 0 / 12 * prbBytes e.compW
  else if e.width < 8 then tdCount t 0 * e.width / 8
  else e.width / 8

/-- Smallest and largest byte offset of a walk from its base. -/
def offRange (t : Td) : Int × Int :=
  (tdDims t).foldl (fun (a : Int × Int) d =>
    let st := tdStride t d
    let r := idxRange t d
    (a.1 + min (st * r.1) (st * r.2), a.2 + max (st * r.1) (st * r.2))) (0, 0)

/-- Every address of a walk whose elements or rows are `n` bytes lies in the scratchpad window (R181). -/
def walkInWindow (s : State) (t : Td) (base : DWord) (n : Nat) : Bool :=
  let r := offRange t
  let o := (addI base r.1 - s.prom.windowBase).toNat
  decide ((o : Int) + (r.2 - r.1) + n ≤ (2 : Int) ^ 27)

/-- The element of a format code, and whether the code is defined (R129). An undefined code stands as a plain byte: it is no
microscaling, complex or block-coded format, and no check of its width applies to it (DEDUCED, log 95). -/
def elemOrByte (f : Nat) : Elem × Bool :=
  match fmtOf f with
  | some e => (e, true)
  | none => (.int false 8, false)

/-- Every issue check of a MOVE or WALK: the code of the first that fails in the order of R69. -/
def streamCode (s : State) (t : Nat) (l : Line) (ring : Bool) (c : IssueCtx) : Option Nat :=
  let r := rowOf l
  let o := c.od
  let e := (elemOrByte (tdFmt c.src)).1
  let d := (elemOrByte (tdFmt c.dst)).1
  let known := (elemOrByte (tdFmt c.src)).2
  let defined := known && (elemOrByte (tdFmt c.dst)).2
  let malformed := wordBad l ring || expressBad s t l r || tdResBad c.src || tdResBad c.dst || tdNonidem c.dst
    || odBad o (tdNdim c.src)
    || (!c.ruse && tdDimsBad c.src) || (!c.wuse && tdDimsBad c.dst)
    || (oAcc o && (oEsc o || oAuto o || c.wuse))
    || (!c.ruse && walkBad c.src c.rdBase e) || (!c.wuse && walkBad c.dst c.wrBase d)
    || (!c.ruse && !c.wuse && decide ((c.lay e).nOut ≠ tdN c.dst))
    || layoutBad c e known || requantBad c e d || mxBad c e d || escBad c d
    || (oAcc o && !c.wuse && !walkInWindow s c.dst c.wrBase (walkBytes d c.dst))
  let badFormat := !defined || !convOk e d (oCplx o) || layoutBadFmt c e || requantBadFmt c e d || mxBadFmt c e d
    || (decide (d ≠ .bxz) && decide (oRate o ≠ 0)) || (decide (d = .bxz) && (rateBits (oRate o)).isNone)
    || (oEsc o && (!escDest d || decide (e = .bxz) || d.isFronthaul))
    || (oAcc o && !accDest d)
    || (decide (e = .bxz) && c.ruse) || (decide (d = .bxz) && c.wuse)
  rankCode malformed badFormat (permBad s t l r)

/-! ## Pools and slices (R44, R120) -/

/-- Streams of a source's pool, lowest first. -/
def poolOf (x : Tile) (ring : Bool) : List Nat :=
  let rs := min 8 x.ringStreams.toNat
  (List.range 8).filter (fun n => if ring then decide (8 - rs ≤ n) else decide (n < 8 - rs))

/-- Pages of a stream's slice in the applied layout. -/
def sliceOfStream (x : Tile) (n : Nat) : Nat :=
  if n < 4 then fld x.activeA (8 * n + 7) (8 * n) else fld x.activeB (8 * (n - 4) + 7) (8 * (n - 4))

/-- S of R120 in bytes. DESIGN CHOICE (log 119): the spec gives no S for a pool without a stream
(`RING_STREAMS` 0 or 8); the model takes the whole 262,144 bytes. -/
def poolSlice (x : Tile) (ring : Bool) : Nat :=
  ((poolOf x ring).map (fun n => 4096 * sliceOfStream x n)).foldl min (64 * 4096)

/-- The stream that an allocation takes: the lowest free one of the pool. -/
def freeOf (x : Tile) (ring : Bool) : Option Nat :=
  (poolOf x ring).find? (fun n => (Tab.find x.streams n).isNone)

/-- The descriptors and bases that a MOVE or WALK captures (R52–R54, R68). -/
def issueCtx (x : Tile) (l : Line) (ring : Bool) : IssueCtx :=
  let od := x.od (iOpd l)
  let src := x.td (iSrcTd l)
  let dst := x.td (iDstTd l)
  let isWalk := decide (rowOf l = .walk)
  let rb := if isWalk then 0 else x.greg (iSrcBreg l)
  let wb := if isWalk then 0 else x.greg (iDstBreg l)
  { src := src, dst := dst, scale := x.td (oScaleTd od), side := x.td (oSideTd od), od := od
    ruse := isWalk && iRuse l, wuse := isWalk && iWuse l
    rdBase := tdBase src + rb, wrBase := tdBase dst + wb, slice := poolSlice x ring }

/-! ## The admission estimate (R307) -/

/-- The smaller of two rates given as fractions. -/
def minRate (a b : Nat × Nat) : Nat × Nat := if a.1 * b.2 ≤ b.1 * a.2 then a else b

/-- Output bytes of an element of the destination, as a fraction. -/
def outSize (d : Elem) (rate : Nat) : Nat × Nat :=
  match d with
  | .bxz => (blockBytes rate, 64)
  | .orb w | .ors w | .oru w => (prbBytes w, 12)
  | _ => (d.width, 8)

/-- Complex samples per cycle of the fronthaul lane (R156), as a fraction. -/
def prbRate (w : Nat) : Nat × Nat := minRate (32, 1) (12 * 128, prbBytes w)

/-- Elements of the stage-6 output per cycle at stages 6 to 8 and the codec lane (R155, R156, R210). -/
def laneRate (e d : Elem) (o : Line) : Nat × Nat :=
  let i := (stage5Elem e (oCplx o)).getD e.decoded
  let out := d.decoded
  let pass := decide (i = out) && !e.isBlock && !d.isBlock && !oReq o && !oEsc o && !oAuto o && decide (oSgran o = 0)
  let base : Nat × Nat :=
    if e = .bxz then (min 64 (1024 / d.width), 1)
    else if d = .bxz then (min 64 (1024 / i.width), 1)
    else if pass then (1024 / i.width, 1)
    else (min 128 (min (1024 / i.width) (1024 / out.width)), 1)
  let dec := if e.isFronthaul then
      (let r := prbRate e.compW
       minRate base (if oCplx o = 1 then (2 * r.1, r.2) else r)) else base
  if d.isFronthaul then minRate dec (prbRate d.compW) else dec

/-- Elements per cycle that the trellis delivers when PAD, PERM or CPLX is used (R126), as a fraction. -/
def trellisRate (l : Lay) (o : Line) (i : Elem) : Option (Nat × Nat) :=
  if oPad o || oPerm o || decide (oCplx o ≠ 0) then
    let bytes : Nat × Nat :=
      match l.mode with
      | .twice => (64, 1)
      | .band =>
        let e := min l.E (l.pad.getD 0 0)
        let n := e * l.K * (l.bits / 8)
        (n, max 1 (max l.K (ceilDiv n 128)))
      | _ => (128, 1)
    some (8 * bytes.1, i.width * bytes.2)
  else none

/-- r_nom in bytes per cycle (R307), as a fraction. -/
def rNom (c : IssueCtx) (e d : Elem) : Nat × Nat :=
  let i := (stage5Elem e (oCplx c.od)).getD e.decoded
  let lane := laneRate e d c.od
  let el := if c.ruse then lane else
    (match trellisRate (c.lay e) c.od i with
     | some r => minRate lane r
     | none => lane)
  let sz := outSize d (oRate c.od)
  let r := minRate (el.1 * sz.1, el.2 * sz.2) (128, 1)
  if oAcc c.od then minRate r (64, 1) else r

/-- Output bytes of an instruction (R307): 0 when both sides run walker programs. -/
def nOutBytes (c : IssueCtx) (e d : Elem) : Nat :=
  let n := if !c.wuse then tdN c.dst else if !c.ruse then (c.lay e).nOut else 0
  let sz := outSize d (oRate c.od)
  n * sz.1 / sz.2

/-- R236: the round trip to the endpoint of an address, with the assumed host round trip for a system address. -/
def roundTrip (s : State) (t : Nat) (a : DWord) : Nat :=
  match endpointOf s t a with
  | .group u _ => 2 * boundOf (GenConfig.distance s.gen (.tile t) (.tile u))
  | .port n => 2 * boundOf (GenConfig.distance s.gen (.tile t) (.sysPort n)) + s.turn.sysrt.toNat

/-- D_nom in Tc (R307, R238). -/
def dNom (s : State) (t : Nat) (c : IssueCtx) (e d : Elem) : Nat :=
  let r := rNom c e d
  let dc := ceilDiv (nOutBytes c e d * r.2) r.1
  let cycles := (6 + roundTrip s t c.rdBase + 12) + dc + roundTrip s t c.wrBase
  ceilDiv (cycles * 1024) 625

end Sys2Proof.Machine
end

