-- ==== Sys2Proof/Machine/Lane.lean ====
section
/-! DEFINITION. Stages 6 to 8 of the element pipeline: conversion (R148–R161, R170, R171), escapes (R172–R175) and
encoding (R146, R200–R204) of groups of consecutive output elements. -/

namespace Sys2Proof.Machine

/-- A converted element: its code, counts, and the value it would escape with. -/
structure ConvE where
  code : Nat
  sat : Nat
  flush : Nat
  cand : Option Int

def ConvE.of (c : Conv) : ConvE := { code := c.code, sat := c.sat, flush := c.flush, cand := none }

/-- Apply an integer range; out of it an element is a candidate for escape when ESC = 1 (R173). -/
def rangeInt (c : IntCast) (signed esc : Bool) (w : Nat) : ConvE :=
  let lo := intLo signed esc w
  let hi := intHi signed esc w
  let k := ConvE.of (clampCast c lo hi w)
  match c with
  | .val v _ => if esc && (decide (v < lo) || decide (hi < v)) then { k with cand := some v } else k
  | _ => k

/-- Cast a value to a real element format (R150–R152). -/
def castReal (d : Elem) (v : Val) (rnd r : Nat) (esc : Bool) : ConvE :=
  match d with
  | .flt f => ConvE.of (castFlt f v rnd r)
  | .int sg w => rangeInt (roundInt v rnd r) sg esc w
  | _ => { code := 0, sat := 0, flush := 0, cand := none }

/-- Two components of a complex element converted with a generator's state and that state with its bytes
exchanged (R160). -/
def perComponent (w wo : Nat) (f : Nat → Nat → ConvE) (x r : Nat) : ConvE :=
  let a := f (x % 2 ^ w) r
  let b := f (x / 2 ^ w) (swapBytes r)
  { code := a.code + b.code * 2 ^ wo, sat := a.sat + b.sat, flush := a.flush + b.flush, cand := none }

/-- Cast an element between real formats or between complex formats. -/
def castElem (i d : Elem) (x rnd r : Nat) (esc : Bool) : ConvE :=
  match i.component, d.component with
  | some ic, some dc => perComponent ic.width dc.width (fun c r => castReal dc (ic.val c) rnd r false) x r
  | _, _ => castReal d (i.val x) rnd r esc

/-- Signedness and width of an integer component. -/
def Elem.intShape : Elem → Bool × Nat
  | .int sg w => (sg, w)
  | .cint w => (true, w)
  | _ => (true, 0)

/-- Requantise one integer (R159, R161): the flush is judged before the zero point. -/
def requantOne (wi : Nat) (sg : Bool) (dg : Bool) (wo : Nat) (od : Line) (m : Int) (s : Nat) (esc : Bool)
    (x r : Nat) : ConvE :=
  let v := requant (if sg then sext wi x else (x % 2 ^ wi : Nat)) (oZi od) (oZo od) m s (oRnd od) r
  let c := rangeInt (.val v.1 false) dg esc wo
  { c with flush := c.flush + v.2.toNat }

/-- Requantise an element with multiplier `m` and shift `s`. -/
def requantElem (i d : Elem) (od : Line) (m : Int) (s x r : Nat) : ConvE :=
  let a := i.intShape
  let b := d.intShape
  let f := requantOne a.2 a.1 b.1 b.2 od m s
  if i.isComplex then perComponent a.2 b.2 (f false) x r else f (oEsc od) x r

/-- Fields of an 8-byte scale record (R163). -/
def recM (r : DWord) : Int := sext 32 (fld r 31 0)
def recS (r : DWord) : Nat := fld r 37 32

/-- The generator states of an element: the list of states, and the state used; SR advances the element's
generator once (R153). -/
def drawState (od : Line) (ls : List (BitVec 16)) (k : Nat) : List (BitVec 16) × Nat :=
  if oRnd od = 3 then
    let v := ls.getD (k % 128) 1
    (ls.set (k % 128) (lfsrStep v), v.toNat)
  else (ls, 0)

/-- States for consecutive elements. -/
def drawStates (od : Line) (ls : List (BitVec 16)) : List Nat → List (BitVec 16) × List Nat
  | [] => (ls, [])
  | k :: ks =>
    let a := drawState od ls k
    let b := drawStates od a.1 ks
    (b.1, a.2 :: b.2)

/-- What a group of elements leaves stage 8 as. -/
structure LaneOut where
  units : List OutUnit
  pos : EscPos
  /-- saturations and flushes of each element -/
  evs : List (Nat × Nat)
  /-- outliers refused for lack of side-list room (R175) -/
  full : Nat
  /-- entries that an encode appended (`BX_ESC_COUNT`) -/
  esc : Nat

/-- What the lane needs of a stream: elements at stage 6, the op descriptor, the scale record of an element, the
side list, and the number of elements of a destination row. -/
structure LaneCtx where
  i : Elem
  d : Elem
  od : Line
  /-- formats equal and no option of stages 6 and 7 (R155) -/
  pass : Bool
  /-- a source microscaling element -/
  mxSrc : Bool
  record : Nat → Option DWord
  sideBase : DWord
  sideCap : Nat
  row : Nat

/-- Conversion of element `k` without AUTO. -/
def convOne (c : LaneCtx) (k x r : Nat) : ConvE :=
  let o := c.od
  if c.pass then { code := x, sat := 0, flush := 0, cand := none }
  else if oReq o then
    (match c.record k with
     | some w => requantElem c.i c.d o (recM w) (recS w) x r
     | none => requantElem c.i c.d o (oMult o) (oShift o) x r)
  else if c.mxSrc then castReal c.d (mxVal c.i (fld ((c.record k).getD 0) 7 0) x) (oRnd o) r (oEsc o)
  else if c.d.isMx then ConvE.of (castMx c.d (fld ((c.record k).getD 0) 7 0) (c.i.val x) (oRnd o) r)
  else castElem c.i c.d x (oRnd o) r (oEsc o)

/-- Conversion of a whole AUTO block `b`: the elements and the block's record (R138, R139, R170, R171). -/
def convAuto (c : LaneCtx) (b : Nat) (xr : List (Nat × Nat)) : List ConvE × List Byte :=
  let o := c.od
  if oReq o then
    let a := c.i.intShape
    let dd := c.d.intShape
    let ints := xr.flatMap (fun p => if c.i.isComplex then [sext a.2 (p.1 % 2 ^ a.2), sext a.2 (p.1 / 2 ^ a.2)]
      else [if a.1 then sext a.2 p.1 else (p.1 : Int)])
    let s := requantAuto ints (oZi o) (oZo o) (oMult o) (oShift o) (intLo dd.1 false dd.2) (intHi dd.1 false dd.2)
    (xr.map (fun p => requantElem c.i c.d o (oMult o) s p.1 p.2),
      toBytes 8 (wrap 32 (oMult o) + 2 ^ 32 * s + 2 ^ 48 * (b % 65536)))
  else
    let x := mxAuto c.d (xr.map (fun p => c.i.val p.1))
    (xr.map (fun p => ConvE.of (castMxAuto c.d x (c.i.val p.1) (oRnd o) p.2)),
      toBytes 4 (x + 65536 * (b % 65536)))

/-- The escape code of an integer destination (R173). -/
def escCode (d : Elem) : Nat :=
  let a := d.intShape
  if a.1 then 2 ^ (a.2 - 1) else 2 ^ a.2 - 1

/-- A side-list entry of element `k` with value `v` clamped to S32 (R174). -/
def sideEntry (k : Nat) (v : Int) : DWord × Nat :=
  let w := clampI v (-(2 : Int) ^ 31) ((2 : Int) ^ 31 - 1)
  (pair (BitVec.ofInt 32 w) (BitVec.ofNat 32 k), if w = v then 0 else 1)

/-- Stage 7 for one element of a non-block destination: its code, counts, entries, and the position after it. -/
def stage7 (c : LaneCtx) (p : EscPos) (k : Nat) (e : ConvE) : Nat × Nat × Nat × List (DWord × DWord) × EscPos :=
  let p := if k % 64 = 0 then { p with used := 0 } else p
  match e.cand with
  | none => (e.code, e.sat, 0, [], p)
  | some v =>
    let allowed := decide (p.used < oEscmax c.od)
    let room := decide (p.side + 1 < c.sideCap)
    if allowed && room then
      let en := sideEntry k v
      (escCode c.d, en.2, 0, [(c.sideBase + BitVec.ofNat 64 (8 * p.side), en.1)],
        { p with used := p.used + 1, side := p.side + 1 })
    else (e.code, e.sat, (allowed && !room).toNat, [], p)

/-- Stage 7 over consecutive elements: their codes with entries, the position after them, the saturations of each, and the
outliers refused. -/
def stage7All (c : LaneCtx) : EscPos → List (Nat × ConvE) →
    List (Nat × Nat × EscPos × List (DWord × DWord)) × EscPos × List Nat × Nat
  | p, [] => ([], p, [], 0)
  | p, (k, e) :: es =>
    let a := stage7 c p k e
    let p0 := if k % 64 = 0 then { p with used := 0 } else p
    let b := stage7All c a.2.2.2.2 es
    ((k, a.1, p0, a.2.2.2.1) :: b.1, b.2.1, a.2.1 :: b.2.2.1, a.2.2.1 + b.2.2.2)

/-- Elements that share whole bytes: one from 8 bits up, two of 4 bits, four of 6 bits (R82, R100). -/
def packOf (w : Nat) : Nat := if w = 4 then 2 else if w = 6 then 4 else 1

/-- Group consecutive coded elements into byte units. -/
def packUnits (w : Nat) : Nat → List (Nat × Nat × EscPos × List (DWord × DWord)) → List OutUnit
  | 0, _ => []
  | _, [] => []
  | fuel + 1, (k, c, p, s) :: es =>
    let n := packOf w
    let g := ((k, c, p, s) :: es).take n
    let v := (g.zipIdx).foldl (fun a q => a + (q.1.2.1 % 2 ^ w) * 2 ^ (w * q.2)) 0
    { k := k, n := n, data := toBytes (n * w / 8) v, addr := none, side := g.flatMap (fun q => q.2.2.2), recs := []
      pos := p } :: packUnits w fuel (((k, c, p, s) :: es).drop n)

/-- A group of elements of a destination that is not block-coded. `auto` is the number of the AUTO block the group
forms. Elements before `from0` are written already: they are neither counted nor written again. -/
def laneElems (c : LaneCtx) (auto : Option Nat) (from0 : Nat) (p : EscPos) (xs : List (Nat × Nat)) (rs : List Nat) :
    LaneOut :=
  let kxr := xs.zip rs
  let cv : List ConvE × List Byte := match auto with
    | some b => convAuto c b (kxr.map (fun q => (q.1.2, q.2)))
    | none => (kxr.map (fun q => convOne c q.1.1 q.1.2 q.2), [])
  let kes := ((xs.map (·.1)).zip cv.1).filter (fun q => decide (from0 ≤ q.1))
  let st := stage7All c p kes
  let us := packUnits c.d.width xs.length st.1
  let us := match auto with
    | some b => us.zipIdx.map (fun q => if q.2 + 1 = us.length then { q.1 with recs := [(b, cv.2)] } else q.1)
    | none => us
  { units := us, pos := st.2.1, evs := st.2.2.1.zip (kes.map (fun q => q.2.flush)), full := st.2.2.2, esc := 0 }

/-- One PRB of twelve complex elements (R146): cast to CS16 at stage 6, then encoded. -/
def lanePrb (c : LaneCtx) (p : EscPos) (xs : List (Nat × Nat)) (rs : List Nat) : LaneOut :=
  let k0 := (xs.headD (0, 0)).1
  let cs := (xs.zip rs).map (fun q => castElem c.i (.cint 16) q.1.2 (oRnd c.od) q.2 false)
  let comps := (cs.zip rs).flatMap (fun q =>
    [(sext 16 (q.1.code % 65536), q.2), (sext 16 (q.1.code / 65536), swapBytes q.2)])
  let e := prbEncode c.d comps (oRnd c.od)
  { units := [{ k := k0, n := 12, data := e.1, addr := none, side := [], recs := [], pos := p }], pos := p
    evs := cs.zipIdx.map (fun q => (q.1.sat + e.2.getD (2 * q.2) 0 + e.2.getD (2 * q.2 + 1) 0, q.1.flush)), full := 0
    esc := 0 }

/-- One BXZ block of 64 elements of the row whose index entry is `g` at `ea` (R200–R204). -/
def laneBxz (c : LaneCtx) (g : SegEntry) (ea : DWord) (p : EscPos) (xs : List (Nat × Nat)) (rs : List Nat) :
    LaneOut :=
  let k0 := (xs.headD (0, 0)).1
  let row := k0 / c.row
  let j := k0 % c.row / 64
  let sloff := if p.row.row = row then p.row.entries else 0
  let p0 := { p with row := { row := row, block := j, entries := sloff } }
  let limit := min (oEscmax c.od) (escLim g.rate)
  let e := bxEncode ((xs.zip rs).map (fun q => (c.i.val q.1.2, q.2))) (oRate c.od) g.fexp j sloff g.sideLen limit
    (oRnd c.od) (oEsc c.od) (oAuto c.od)
  let side := e.ents.zipIdx.map (fun q => (g.list ea + BitVec.ofNat 64 (8 * (sloff + q.2)), q.1))
  { units := [{ k := k0, n := 64, data := e.bytes, addr := some (g.blockAddr ea j), side := side, recs := []
                pos := p0 }]
    pos := { p with row := { row := row, block := j + 1, entries := sloff + e.ents.length } }
    evs := e.evs, full := e.full, esc := e.ents.length }

/-- The terminator of a side list of `n` entries (R174). -/
def terminator (base : DWord) (n : Nat) : DWord × DWord :=
  (base + BitVec.ofNat 64 (8 * n), pair (BitVec.ofNat 32 n) 0xFFFFFFFF)

end Sys2Proof.Machine
end

