-- ==== Sys2Proof/Machine/Launch.lean ====
section
/-! DEFINITION. Issue, hold and launch (R39–R45, R47, R51, R58, R72, R225–R232), registrations of watches
(R252–R257, R265) and the effects of instructions that use no stream (R56–R65). -/

namespace Sys2Proof.Machine

/-- The core of tile `t` runs. -/
def coreRuns (s : State) (t : Nat) : Bool := s.active (GenConfig.domCore s.gen t)

/-! ## Heads of sources -/

/-- The instruction next to issue from a source, with its program index and entry. -/
structure Head where
  line : Line
  pc : Nat
  entry : Option EntryRef
  deriving DecidableEq, Repr

/-- The head of a source whose sequencer is not held: by an instruction, or by a registration that the tile holds for want
of an express watch slot (R265). -/
def headOf (x : Tile) (src : Source) : Option Head :=
  if (x.source src).hold ≠ .none ∨ x.xheld.any (fun r => decide (r.who.src = src)) then none
  else
    match src with
    | .prog =>
      if x.seq = .running then x.fetched.map (fun l => { line := l, pc := x.fetchPc, entry := none }) else none
    | .ring k =>
      match Tab.get x.inq [] k with
      | e :: _ => some { line := e.line, pc := 0, entry := some e.ref }
      | [] => none

/-- The head leaves its source: a source issues in order, each instruction with the next number. -/
def popHead (s : State) (t : Nat) (src : Source) : State :=
  let x := s.tile t
  let v := x.source src
  let x := x.setSource src { v with ord := v.ord + 1, issueWait := 0 }
  match src with
  | .prog => s.setTile t { x with fetched := none }
  | .ring k =>
    let q := Tab.get x.inq [] k
    let s := s.setTile t { x with inq := Tab.put x.inq k (q.drop 1) }
    match q with
    | e :: _ => postSmall s .control (.tile t) .gate (.accepted e.ref)
    | [] => s

/-! ## Launch times (R225–R227) -/

/-- Slot length of a numerology in Tc (R226). -/
def slotLen (mu : Nat) : Nat := 1966080 / 2 ^ mu

/-- A slot-relative launch time resolved at local time `tI` (R227). -/
def resolveSlot (s : State) (l : Line) (lreg : Word) (tI : DWord) : DWord :=
  let len := slotLen s.pg.mu.toNat
  let k := diffI tI s.pg.frameRef / (len : Int)
  let s0 := addI s.pg.frameRef (k * len)
  let off := BitVec.ofNat 32 (fld (iLtime l) 31 0) + lreg
  s0 + BitVec.ofNat 64 (fld (iLtime l) 47 32 * len) + BitVec.ofNat 64 off.toNat

/-- DEP conditions as captured at issue (R41, R47). -/
def captureConds (s : State) (t : Nat) (l : Line) : List Cond :=
  [0, 1].filterMap (fun n =>
    if iDv l n then
      (ctxEntry s t (iCtx l) (iDid l n)).map (fun c =>
        { cid := c.2, express := c.1, operand := lo32 ((s.tile t).greg (iDreg l n)) + BitVec.ofNat 32 (iDimm l n)
          scope := iScope l, fired := false })
    else none)

/-- Launch conditions of an instruction at issue. The cause is what issue itself waited for, in case issue was the
last condition (R232). -/
def captureLaunch (s : State) (t : Nat) (l : Line) (wait : Nat) : LaunchSt :=
  let x := s.tile t
  let lreg := x.greg (iLreg l)
  let tL := if iLaunch l = 1 then some (iLtime l + lreg)
    else if iLaunch l = 2 ∧ s.pg.valid then some (resolveSlot s l (lo32 lreg) (localTime s))
    else none
  { conds := captureConds s t l, kind := iLaunch l, tL := tL, lreg := lo32 lreg
    cause := if wait = 3 then 3 else 2, stepped := false, tbinv := false, timeLast := false, ll := 0, tl := 0 }

/-- Every DEP condition has fired (R255). -/
def condsHeld (la : LaunchSt) : Bool := la.conds.all (fun c => c.fired)

/-- The launch time is reached on the local copy, and the timebase is valid and not frozen (R217, R229,
R414). -/
def timeHeld (s : State) (la : LaunchSt) : Bool :=
  decide (la.kind = 0) || (s.pg.valid && !s.pg.frozen && (match la.tL with
    | some tL => decide (tL ≤ localTime s)
    | none => false))

/-- An earlier entry of the same job is parked, or resumed and its outcome not known yet (R321; DEDUCED, log 16). -/
def jobParked (s : State) (t : Nat) (entry : Option EntryRef) : Bool :=
  match entry with
  | none => false
  | some e => (s.tile t).streams.any (fun p => (p.2.parked.isSome || p.2.resumer.isSome) && (match p.2.entry with
      | some b => inBroken b e
      | none => false))

/-- Every earlier instruction of the source has launched (R43): those with a stream, and those issued without one that do not
hold their source. -/
def launchedBefore (x : Tile) (src : Source) (ord : Nat) : Bool :=
  x.streams.all (fun p => p.2.launched || decide (p.2.src ≠ src) || decide (ord ≤ p.2.ord))
  && x.issued.all (fun i => decide (i.src ≠ src) || decide (ord ≤ i.ord))

/-- Every earlier instruction of the source has launched, and none of its earlier FENCEs is incomplete (R42). -/
def orderHeld (x : Tile) (src : Source) (ord : Nat) : Bool :=
  launchedBefore x src ord
  && x.fences.all (fun f => decide (f.src ≠ src) || decide (ord ≤ f.ord))

/-- The launch record at launch: its lateness in Tc and its time (R230, R222). When the launch time was the last
condition to hold the lateness is 0; a step that carries the counter past it counts as no such moment. -/
def atLaunch (s : State) (la : LaunchSt) : LaunchSt :=
  let now := localTime s
  let ll := match la.tL with
    | some tL => if la.kind = 0 ∨ la.timeLast then 0 else latePast now tL.toNat
    | none => 0
  { la with ll := ll, tl := now, cause := if la.tbinv then 6 else la.cause }

/-! ## Deliveries and registrations (R252, R253, R265) -/

/-- The delivery of a watch to its waiter (R255, R256). A fault delivery ends the instruction with
FAULT_UNRECOVERED (R415, R417), one from a unit that is off with UNIT_OFFLINE (R402); `result` is then the code. The answer says whether the waiter was there. -/
def deliver (s : State) (r : Reg) (result : Nat) (bad : Bool) : State × Bool :=
  if !bad then wake s r result
  else
    let t := r.who.tile
    let x := s.tile t
    match r.who.stream with
    | some n =>
      (match Tab.find x.streams n with
       | none => (s, false)
       | some st =>
         if st.src = r.who.src ∧ st.ord = r.who.ord ∧ !st.launched then
           let s := (withdrawConds s t (some n) st.src st.ord st.launch.conds).freeStream t n
           let s := s.setTile t (orderCleared (s.tile t) st.src st.ord)
           (endInstr s t st.entry st.pc { status := result, stream := n, tag := iTag st.line
                                          tr := localTime s, launched := false }, true)
         else (s, false))
    | none =>
      (match (x.source r.who.src).hold with
       | .instr h =>
         if (x.source r.who.src).ord = r.who.ord then
           let s := clearHold (withdrawHold s t r.who.src) t r.who.src
           (endInstr s t h.entry h.pc { status := result, tag := iTag h.line, tr := localTime s
                                        launched := false }, true)
         else (s, false)
       | .wait w =>
         if w.ord = r.who.ord ∧ r.who.cond = 2 then
           (finishSimple (clearHold s t r.who.src) t w.entry w.pc w.line w.launch result, true)
         else (s, false)
       | _ => (s, false))

/-- Register a watch: an express watch at the tile's replica, any other at the counter's home (R253, R265). -/
def register (s : State) (r : Reg) : State :=
  if r.express then registerX s r
  else
    let k := regSlack s r.who.tile r.who.stream
    post s .lodge (.tile r.who.tile) (.lodge (homeBank s r.cid)) [] k.1 k.2 1 (.watchReg r)

/-- Register the DEP conditions of an instruction at issue (R253). -/
def registerConds (s : State) (t : Nat) (stream : Option Nat) (src : Source) (ord : Nat) (cs : List Cond) : State :=
  cs.zipIdx.foldl (fun s p => register s (depReg t stream src ord p.2 p.1)) s

/-! ## Effects of instructions that use no stream -/

/-- First register operand of an instruction without a stream (R41): of SIG and WAIT the one added to VALUE or TARGET. -/
def operandA (x : Tile) (l : Line) (r : Row) : DWord :=
  match r with
  | .sig => x.greg (iVreg l)
  | .waitGe | .waitEq | .waitAcquire | .waitClaim => x.greg (iTreg l)
  | .br => x.greg (iBrA l)
  | _ => x.greg (iSetA l)

/-- Second register operand (R60, R62). -/
def operandB (x : Tile) (l : Line) (r : Row) : DWord :=
  match r with
  | .br => x.greg (iBrB l)
  | _ => x.greg (iSetB l)

/-- The value that a register-writing SET computes from its operands (R60): op2 is (g[B] + IMM) mod 2^64. -/
def setValue (l : Line) (r : Row) (a b now : DWord) : DWord :=
  let b := b + iImm l
  match r with
  | .add => a + b
  | .sub => a - b
  | .and => a &&& b
  | .or => a ||| b
  | .xor => a ^^^ b
  | .shl => a <<< (b.toNat % 64)
  | .shr => a >>> (b.toNat % 64)
  | _ => now

/-- Two table words take a 64-bit value. -/
def putDWord (tb : Tab Word) (i : Nat) (v : DWord) : Tab Word :=
  Tab.set (Tab.set tb 0 i (lo32 v)) 0 (i + 1) (hi32 v)

/-- A SET (R60, R61) on operands `a` and `b`. -/
def setEffect (x : Tile) (l : Line) (r : Row) (a b now : DWord) : Tile :=
  let v := a + (b + iImm l)
  match r with
  | .tdw =>
    let i := 32 * iTi l + 2 * iWi l
    { x with tdt := putDWord x.tdt i v, badWords := x.badWords.filter (fun p => match p with
        | .tdt _ w => decide (w ≠ i) && decide (w ≠ i + 1)
        | _ => true) }
  | .odw =>
    let i := 16 * iTi l + 2 * iWi l
    { x with odt := putDWord x.odt i v, badWords := x.badWords.filter (fun p => match p with
        | .odt _ w => decide (w ≠ i) && decide (w ≠ i + 1)
        | _ => true) }
  | _ => x.setG (iSetD l) (setValue l r a b now)

/-- The comparison of a BR (R62) of g[A] with op2. -/
def branchTaken (l : Line) (a b : DWord) : Bool :=
  let b := b + iImm l
  match iBrCond l with
  | 0 => decide (a = b)
  | 1 => decide (a ≠ b)
  | 2 => decide (a < b)
  | 3 => decide (b ≤ a)
  | 4 => decide (a.toInt < b.toInt)
  | _ => decide (b.toInt ≤ a.toInt)

/-- The pending-signal queue of a source (R58). -/
def Tile.pend (x : Tile) (ring : Bool) : List PendSig := if ring then x.pendRing else x.pendProg

def Tile.setPend (x : Tile) (ring : Bool) (q : List PendSig) : Tile :=
  if ring then { x with pendRing := q } else { x with pendProg := q }

/-- The pending-signal queue of a source has no room for an instruction of a row (R58). -/
def pendFull (x : Tile) (src : Source) (r : Row) : Bool :=
  r.pends && decide (4 ≤ (x.pend (Source.isRing src)).length)

/-- A SIG or BAR, number `ord` of its source, enters the pending-signal queue at its launch. -/
def enqueueSig (s : State) (t : Nat) (src : Source) (ord : Nat) (h : HeldInstr) (isBar : Bool) : State :=
  let x := s.tile t
  let v := x.source src
  let wrel := isBar && iWrel h.line
  let p : PendSig :=
    { src := src, ord := ord, line := h.line, pc := h.pc, entry := h.entry, isBar := isBar
      cid := if isBar then iBarid h.line else h.cid, express := !isBar && h.express
      value := lo32 h.opA + BitVec.ofNat 32 (iValue h.line)
      scope := iScope h.line, launch := h.launch, wrel := wrel, sent := false }
  let hold := if wrel then
      Hold.bar { line := h.line, pc := h.pc, entry := h.entry, ord := ord, launch := h.launch
                 bar := iBarid h.line, gen := 4, scope := iScope h.line }
    else v.hold
  let x := x.setSource src { v with hold := hold }
  s.setTile t (x.setPend (Source.isRing src) (x.pend (Source.isRing src) ++ [p]))

/-- A WAIT becomes the next instruction of its source: it holds the source and registers its watch (R253). -/
def startWait (s : State) (t : Nat) (src : Source) (ord : Nat) (h : HeldInstr) : State :=
  let x := s.tile t
  let v := x.source src
  let w : WaitSt :=
    { line := h.line, pc := h.pc, entry := h.entry, ord := ord, launch := h.launch, cid := h.cid
      express := h.express, cond := iCond h.line
      operand := lo32 h.opA + BitVec.ofNat 32 (iValue h.line)
      scope := iScope h.line, rreg := iRreg h.line }
  register (s.setTile t (x.setSource src { v with hold := .wait w })) (waitReg t src w)

/-- The effect of an instruction that uses no stream, number `ord` of its source, at its launch (R39). RESUME and ABANDON act
elsewhere. -/
def simpleEffect (s : State) (t : Nat) (src : Source) (ord : Nat) (h : HeldInstr) : State :=
  let x := s.tile t
  let fin := fun (s : State) => finishDone s t h.entry h.line h.launch false
  let r := rowOf h.line
  match r with
  | .sig => enqueueSig s t src ord h false
  | .bar => enqueueSig s t src ord h true
  | .waitGe | .waitEq | .waitAcquire | .waitClaim => startWait s t src ord h
  | .fence =>
    s.setTile t { x with fences := x.fences ++
      [{ src := src, ord := ord, scope := iScope h.line, line := h.line, pc := h.pc
         entry := h.entry, launch := h.launch }] }
  | .jmp => fin (s.setTile t { x with pc := iTarget h.line })
  | .br => fin (s.setTile t (if branchTaken h.line h.opA h.opB then { x with pc := iTarget h.line } else x))
  | .halt => fin (s.setTile t { x with stopping := true })
  | .nop => fin s
  | _ => fin (s.setTile t (setEffect x h.line r h.opA h.opB (localTime s)))

/-- The head of a source as issue captures it (R41). -/
def captureHeld (s : State) (t : Nat) (src : Source) (hd : Head) : HeldInstr :=
  let x := s.tile t
  let r := rowOf hd.line
  let c := (cidOf s t hd.line).getD (false, 0)
  { line := hd.line, pc := hd.pc, entry := hd.entry, launch := captureLaunch s t hd.line (x.source src).issueWait
    cid := c.2, express := c.1, opA := operandA x hd.line r, opB := operandB x hd.line r }

/-- A source is held at an instruction that has been issued (R51, R57, R58). -/
def holdAt (s : State) (t : Nat) (src : Source) (h : HeldInstr) : State :=
  let x := s.tile t
  s.setTile t (x.setSource src { x.source src with hold := .instr h })

/-- The turn of instruction number `ord` of a source to launch: every earlier one has launched (R43), and no earlier entry of its
job is parked (R321). -/
def turnCome (s : State) (t : Nat) (src : Source) (ord : Nat) (entry : Option EntryRef) : Bool :=
  launchedBefore (s.tile t) src ord && !jobParked s t entry

/-- An instruction without a stream whose DEP and LAUNCH no longer hold its source. SET and control flow take effect (R61, R62;
DEDUCED, log 18); any other takes effect when its turn to launch has come. Before that a WAIT or a BAR with WREL = 1 holds the
source, and the rest leave it free to issue (R58, R59). -/
def goOn (s : State) (t : Nat) (src : Source) (ord : Nat) (h : HeldInstr) : State :=
  if (rowOf h.line).atIssue || turnCome s t src ord h.entry then
    simpleEffect s t src ord { h with launch := atLaunch s h.launch }
  else if holdsSource h.line then holdAt s t src h
  else
    let x := s.tile t
    s.setTile t { x with issued := x.issued ++ [{ src := src, ord := ord, held := h }] }

/-- Offer the head of a source to the row `want` (R39, R40). A head of another row is left; a word of no row fails
under whatever row it is offered. Issue waits for a pending staging layout (R119) and for room in the pending-signal
queue (R58); an issued instruction with DEP or LAUNCH holds its source (R51). `ctx` is what the words of the context copy that
issue reads show (R415). -/
def issueSimple (s : State) (t : Nat) (src : Source) (want : Row) (ctx : Ecc) : State :=
  if !coreRuns s t then s
  else
    match headOf (s.tile t) src with
    | none => s
    | some hd =>
      let r := rowOf hd.line
      if r ≠ want ∧ r ≠ .bad then s
      else if (s.tile t).stgPending.isSome then noteWait s t src 3
      else
        let s := ctxEcc s t hd.line ctx
        match issueCode s t hd.line (Source.isRing src) with
        | some code => failIssue (popHead s t src) t hd.entry hd.pc hd.line code
        | none =>
          if pendFull (s.tile t) src r then noteWait s t src 3
          else
            let h := captureHeld s t src hd
            let s1 := popHead s t src
            let ord := ((s1.tile t).source src).ord
            if iDep hd.line ∨ iLaunch hd.line ≠ 0 then
              registerConds (holdAt s1 t src h) t none src ord h.launch.conds
            else goOn s1 t src ord h

/-- Room in the pending-signal queue is what an instruction waits for last (R232). -/
def HeldInstr.forRoom (h : HeldInstr) : HeldInstr := { h with launch := { h.launch with cause := 3, timeLast := false } }

/-- The conditions of an issued instruction without a stream hold (R51). -/
def heldReady (s : State) (h : HeldInstr) : Bool := condsHeld h.launch && timeHeld s h.launch

/-- The instruction that a source is held at goes on once its conditions hold. A SIG or BAR whose turn has come and whose queue
another ring source has filled since it was issued waits for room. -/
def launchHeld (s : State) (t : Nat) (src : Source) : State :=
  match ((s.tile t).source src).hold with
  | .instr h =>
    let ord := ((s.tile t).source src).ord
    let come := turnCome s t src ord h.entry
    if heldReady s h && (come || !holdsSource h.line) then
      if come && pendFull (s.tile t) src (rowOf h.line) then holdAt s t src h.forRoom
      else noteWait (goOn (clearHold s t src) t src ord h) t src 2
    else s
  | _ => s

/-- The first of a source's issued instructions that have not launched and do not hold it. -/
def nextIssued (x : Tile) (src : Source) : Option IssuedInstr := x.issued.find? (fun i => decide (i.src = src))

/-- The turn of an issued instruction has come, and its conditions hold. -/
def issuedReady (s : State) (t : Nat) (i : IssuedInstr) : Bool :=
  heldReady s i.held && turnCome s t i.src i.ord i.held.entry

/-- An issued instruction that does not hold its source leaves the list of those to launch. -/
def takeIssued (s : State) (t : Nat) (i : IssuedInstr) : State :=
  s.setTile t (dropIssued (s.tile t) (fun j => decide (j.src = i.src) && decide (j.ord = i.ord)))

/-- Launch of an issued instruction that does not hold its source (R43, R58). A SIG or BAR waits for room in the pending-signal
queue. -/
def launchIssued (s : State) (t : Nat) (i : IssuedInstr) : State :=
  if pendFull (s.tile t) i.src (rowOf i.held.line) then
    let x := s.tile t
    s.setTile t { x with issued := x.issued.map (fun j => if j = i then { j with held := j.held.forRoom } else j) }
  else simpleEffect (takeIssued s t i) t i.src i.ord { i.held with launch := atLaunch s i.held.launch }

end Sys2Proof.Machine
end

