-- ==== Sys2Proof/Machine/Walk.lean ====
section
/-! DEFINITION. What a stream is made of (its sides, elements and positions), errors after launch (R106–R108) and the
walker program instructions (R86–R95). -/

namespace Sys2Proof.Machine

/-! ## A stream's parts -/

def Stream.row (st : Stream) : Row := rowOf st.line
def Stream.ruse (st : Stream) : Bool := decide (st.row = .walk) && iRuse st.line
def Stream.wuse (st : Stream) : Bool := decide (st.row = .walk) && iWuse st.line
def Stream.dstE (st : Stream) : Elem := (fmtOf (tdFmt st.dstTd)).getD (.int false 8)
/-- Stage-6 input (R148). -/
def Stream.inE (st : Stream) : Elem := (stage5Elem st.srcE (oCplx st.od)).getD st.srcE.decoded
def Stream.lay (st : Stream) : Lay := Lay.of st.srcTd st.od st.srcE st.slice

/-- The stream works: launched, not parked, and not ended by a rule that names no position. -/
def Stream.live (st : Stream) : Bool := st.launched && st.parked.isNone && st.abort.isNone

/-- Element count of each side, where it is known. -/
def Stream.rdTotal (st : Stream) : Option Nat :=
  if st.ruse then (if st.rd.ended then some st.rd.count else none) else some st.lay.nOut
def Stream.wrTotal (st : Stream) : Option Nat :=
  if st.wuse then (if st.wr.ended then some st.wr.count else none) else some (tdN st.dstTd)

/-- Elements that the records of a scale tensor cover, read or, with AUTO, written, when both sides run programs (R437). -/
def Stream.covered (st : Stream) : Option Nat :=
  if st.ruse && st.wuse && usesScale st.od then
    some (tdN st.scaleTd * (if oSgran st.od = 3 then oBlkN st.od else 1))
  else none

/-- Elements that leave stage 5, where both sides' counts are known. -/
def Stream.total (st : Stream) : Option Nat :=
  match st.rdTotal, st.wrTotal with
  | some a, some b => some (min a b)
  | _, _ => none

/-- Elements that leave stage 5, as far as the sides' counts are known. -/
def Stream.avail (st : Stream) : Option Nat :=
  match st.rdTotal, st.wrTotal with
  | some a, some b => some (min a b)
  | some a, none => some a
  | none, b => b

/-- Walker program counter of the instruction whose emission holds element `k` of a side; beyond the last emission, the
walker's own. -/
def emitterPc (marks : List (Nat × Walker)) (w : Walker) (k : Nat) : Nat :=
  if k < w.count then (((marks.filter (fun m => decide (m.1 ≤ k))).getLast?).map (fun m => m.2.pc)).getD w.pc else w.pc

/-- WPC of an error at element `k` of a side: 0 for a descriptor walk. -/
def Stream.sidePc (st : Stream) (side : Side) (k : Nat) : Nat :=
  match side with
  | .read => if st.ruse then emitterPc st.rdMarks st.rd k else 0
  | .write => if st.wuse then emitterPc st.wrMarks st.wr k else 0

/-! ## Positions (R107) -/

/-- First output element from `k` on that uses a source element at or after `pos`; `fuel` bounds the search. -/
def firstNeeding (l : Lay) (pos : Nat) : Nat → Nat → Nat
  | 0, k => k
  | fuel + 1, k =>
    if (l.needs k).any (fun v => match l.elemAt v with
        | some e => decide (pos ≤ e)
        | none => false) then k
    else firstNeeding l pos fuel (k + 1)

/-- The output element that a position on a side blocks. -/
def Stream.blockedBy (st : Stream) (b : Side × Nat) : Nat :=
  match b.1 with
  | .write => b.2
  | .read =>
    if st.ruse then b.2
    else if !oPad st.od && !oPerm st.od && decide (oCplx st.od = 0) then b.2
    else firstNeeding st.lay b.2 st.lay.nOut 0

/-- Consecutive output elements that are converted together: an AUTO block, a scale block's AUTO shift, a PRB, a BXZ
block, or the elements of a byte (R138, R146, R170, R200). -/
def Stream.group (st : Stream) : Nat :=
  let d := st.dstE
  if d.isFronthaul then 12
  else if d = .bxz then 64
  else if oAuto st.od then (if oReq st.od then oBlkN st.od else 32)
  else packOf d.width

/-- First output element that an error keeps from being written, none without an error. Elements converted together
with a blocked one are blocked with it, but for one that has no place at all, past the end of the write side (R95). Nothing later in output order is written, though it may need only elements before the
position: chunks commit in output order (R419; DEDUCED, log 102). -/
def Stream.limit (st : Stream) : Option Nat :=
  st.stop.map (fun x =>
    let k := (x.bounds.map st.blockedBy).foldl min (st.total.getD (2 ^ 64))
    if st.wrTotal = some k then k else k / st.group * st.group)

/-! ## Errors after launch -/

/-- Stop a stream at a position; the first error gives the code (R107, R430). -/
def stopAt (st : Stream) (side : Side) (pos code : Nat) (addr : DWord) : Stream :=
  match st.stop with
  | none => { st with stop := some { bounds := [(side, pos)], code := code, side := side, addr := addr } }
  | some x => { st with stop := some { x with bounds := x.bounds ++ [(side, pos)] } }

/-- A walker error of stream `n` (R106–R108): captured and counted as the side's, and the stream stops at the position
`bound`. -/
def walkErrorAt (s : State) (t n : Nat) (side : Side) (bound : Side × Nat) (cause code : Nat) (addr : DWord) (wpc : Nat) :
    State :=
  match s.stream? t n with
  | none => s
  | some st =>
    let s := s.setTile t (captureWalk (s.tile t) side n cause code wpc addr)
    s.setStream t n (stopAt st bound.1 bound.2 code addr)

/-- A walker error at an element of the side where it arose. -/
def walkError (s : State) (t n : Nat) (side : Side) (pos cause code : Nat) (addr : DWord) (wpc : Nat) : State :=
  walkErrorAt s t n side (side, pos) cause code addr wpc

/-- The code of a stream that a rule ends with `code`: that of the first error it met (R430). A translation fault met before
parks and ends nothing, so it gives way. -/
def Stream.firstCode (st : Stream) (code : Nat) : Nat :=
  match st.stop with
  | some x => if x.code = stTranslation then code else x.code
  | none => code

/-- A stream does no more work, by a rule that names no position; it retires with its code once nothing of it is in
flight (R250, R279). The first code stays (R430). -/
def abortStream (s : State) (t n code : Nat) : State :=
  match s.stream? t n with
  | none => s
  | some st =>
    if st.abort.isSome then s else s.setStream t n { st with abort := some (st.firstCode code) }

/-- No request, write or signal of the stream is in flight. -/
def Stream.drained (st : Stream) : Bool :=
  st.outstanding.isEmpty && st.oldReads.isEmpty && st.wrOut.isEmpty && st.sigOut.isEmpty

/-- The address error of a byte for a stream of tile `t` (R77, R106): its CAUSE. -/
def addrErr (s : State) (t : Nat) (a : DWord) : Option Nat :=
  match windowOff s a with
  | none => none
  | some o =>
    if !offOk s o then some 7
    else if partOf s (o / slotBytes) ≠ partOf s t then some 8
    else none

/-- The address error of `n` bytes, with the faulting byte's address: where only the end lies outside, that of the last byte
(DESIGN CHOICE, log 103: R106 names no byte). -/
def rangeErr (s : State) (t : Nat) (a : DWord) (n : Nat) : Option (Nat × DWord) :=
  let e := a + BitVec.ofNat 64 (n - 1)
  match addrErr s t a, addrErr s t e with
  | some c, _ => some (c, a)
  | none, some c => some (c, e)
  | none, none => none

/-- Side counts that differ (R95), and records that do not match the elements (R437). The position is one of the elements that
leave stage 5, whichever side it is reported against. Against which side a mismatch with the records is reported, and with
which walker program counter, is open: the model names the write side (DESIGN CHOICE, log 104). -/
def checkCounts (s : State) (t n : Nat) : State :=
  match s.stream? t n with
  | none => s
  | some st =>
    if st.stop.isSome then s
    else
      let rMin := st.rdTotal.getD st.rd.count
      let wMin := st.wrTotal.getD st.wr.count
      let short := match st.covered with
        | none => none
        | some c =>
          if c < st.rd.count ∧ c < st.wr.count then some c
          else match st.total with
            | some m => if m < c then some m else none
            | none => none
      if st.wrTotal.any (fun w => decide (w < rMin)) then
        walkErrorAt s t n .read (.write, st.wrTotal.getD 0) 6 stMalformed 0 (st.sidePc .read (st.wrTotal.getD 0))
      else if st.rdTotal.any (fun r => decide (r < wMin)) then
        walkError s t n .write (st.rdTotal.getD 0) 6 stMalformed 0 (st.sidePc .write (st.rdTotal.getD 0))
      else match short with
        | some p => walkError s t n .write p 6 stMalformed 0 (st.sidePc .write p)
        | none => s

/-! ## Walker programs -/

def Walker.init (pc : Nat) (a0 : DWord) : Walker :=
  { pc := pc, a := Tab.set [] 0 0 a0, cBase := [], cLen := [], stack := [], ended := false, count := 0, wrapped := false }

/-- Address register `i`. -/
def Walker.reg (w : Walker) (i : Nat) : DWord := Tab.get w.a 0 i
def Walker.setReg (w : Walker) (i : Nat) (v : DWord) : Walker := { w with a := Tab.set w.a 0 i v }

/-- Walker and pending runs of a side. -/
def Stream.walker (st : Stream) : Side → Walker
  | .read => st.rd
  | .write => st.wr

def Stream.setWalker (st : Stream) (side : Side) (w : Walker) (runs : List Run) : Stream :=
  match side with
  | .read => { st with rd := w, rdRuns := st.rdRuns ++ runs
                       rdMarks := if runs.isEmpty then st.rdMarks else st.rdMarks ++ [(st.rd.count, st.rd)] }
  | .write => { st with wr := w, wrRuns := st.wrRuns ++ runs
                        wrMarks := if runs.isEmpty then st.wrMarks else st.wrMarks ++ [(st.wr.count, st.wr)] }

/-- Whether a side runs a walker program. -/
def Stream.usesProg (st : Stream) : Side → Bool
  | .read => st.ruse
  | .write => st.wuse

/-- Element and base of a side. -/
def Stream.elemOf (st : Stream) : Side → Elem
  | .read => st.srcE
  | .write => st.dstE

def Stream.baseOf (st : Stream) : Side → DWord
  | .read => st.rdBase
  | .write => st.wrBase

/-- Bytes and elements of the smallest unit that a run holds: a PRB block, the bytes of packed elements, or one
element. -/
def runUnit (e : Elem) : Nat × Nat :=
  if e.isFronthaul then (prbBytes e.compW, 12)
  else if e.width < 8 then (packOf e.width * e.width / 8, packOf e.width)
  else (e.width / 8, 1)

/-- Walker instruction names. -/
inductive WOp where
  | wend | emit | addi | adda | ldi | cset | rep | repr | idx | scan | bad
  deriving DecidableEq, Repr

/-- The instruction of a word; reserved codes and bits, W = 3, SH = 3 in LDI and NPRB = 0 are `bad` (R89, R106). -/
def wopOf (w : Word) : WOp :=
  match fld w 31 27 with
  | 0x00 => if fld w 26 0 = 0 then .wend else .bad
  | 0x01 => .emit
  | 0x02 => .addi
  | 0x03 => if fld w 15 0 = 0 then .adda else .bad
  | 0x04 => if fld w 22 21 = 3 then .bad else .ldi
  | 0x06 => if fld w 16 0 = 0 then .cset else .bad
  | 0x08 => .rep
  | 0x09 => if fld w 22 12 = 0 then .repr else .bad
  | 0x0C => if fld w 8 0 = 0 ∧ fld w 14 13 ≠ 3 then .idx else .bad
  | 0x0D => if fld w 14 10 = 0 ∧ fld w 8 0 ≠ 0 then .scan else .bad
  | _ => .bad

/-- What a walker instruction gives: a new state with runs; an error, with the state and the good runs before it: CAUSE, code
and address; or nothing, because the read met a poisoned unit (R416). -/
inductive WRes where
  | ok (w : Walker) (runs : List Run)
  | err (w : Walker) (runs : List Run) (cause code : Nat) (addr : DWord)
  | poison

/-- Circular addition of R90 and whether it wrapped; none when the pair's length is 0. -/
def circAdd (w : Walker) (k : Nat) (v : DWord) (d : Int) : Option (DWord × Bool) :=
  let base := Tab.get w.cBase 0 k
  let len := (Tab.get w.cLen 0 k).toNat
  if len = 0 then none
  else
    let x := (addI (v - base) d).toInt
    some (base + BitVec.ofNat 64 (x % (len : Int)).toNat, decide (x < 0) || decide ((len : Int) ≤ x))

/-- Plain or circular addition. -/
def wAdd (w : Walker) (ce : Bool) (k : Nat) (v : DWord) (d : Int) : Option (DWord × Bool) :=
  if ce then circAdd w k v d else some (addI v d, false)

/-- Register `an` takes the result of an addition; a wrap separates the runs on either side of it, whichever register they
start at (R96, R97). -/
def Walker.setSum (w : Walker) (an : Nat) (r : DWord × Bool) : Walker :=
  { w.setReg an r.1 with wrapped := w.wrapped || r.2 }

/-- After an instruction: loop back at the end of a body, leaving loops that are done (R88). -/
def loopBack : List Loop → Nat → List Loop × Nat
  | [], pc => ([], pc)
  | l :: ls, pc =>
    if pc = l.stop then
      (if 0 < l.left then ({ l with left := l.left - 1 } :: ls, l.first) else loopBack ls pc)
    else (l :: ls, pc)

/-- The walker moves past an instruction to `pc`. -/
def Walker.goto (w : Walker) (pc : Nat) : Walker :=
  let r := loopBack w.stack pc
  { w with pc := r.2, stack := r.1 }

/-- Segments of a circular EMIT: relative offset, units and whether a wrap precedes; `fuel` bounds the segments. -/
def circSegs (len ub : Nat) : Nat → Int → Nat → Bool → List (Int × Nat × Bool)
  | 0, _, _, _ => []
  | fuel + 1, r, n, wr =>
    if n = 0 then []
    else if (len : Int) ≤ r then circSegs len ub fuel 0 n true
    else
      let c := min n ((((len : Int) - r).toNat + ub - 1) / ub)
      (r, c, wr) :: circSegs len ub fuel 0 (n - c) true

/-- Whether a run of `n` bytes at an address breaks R94 or, for a sub-byte write, R101: its CAUSE. -/
def runErr (s : State) (t : Nat) (e : Elem) (side : Side) (a : DWord) (n : Nat) : Option Nat :=
  if e.isFronthaul then none
  else if e.width < 8 then (if side = .write ∧ !oneEndpoint s t a n then some 1 else none)
  else if a.toNat % (e.width / 8) ≠ 0 then some 0 else none

/-- Emit runs given as offset, units and wrap, with the element count after them. The first that breaks a rule is the error:
its CAUSE and address, with the runs before it and the count there, which is its position (R101, R107). -/
def emitRuns (s : State) (t : Nat) (st : Stream) (side : Side) (w : Walker) (segs : List (DWord × Nat × Bool)) :
    Except ((Nat × DWord) × List Run × Nat) (List Run × Nat) :=
  let e := st.elemOf side
  let u := runUnit e
  segs.foldl (fun acc g =>
    match acc with
    | .error x => .error x
    | .ok (rs, cnt) =>
      let a := st.baseOf side + g.1
      match runErr s t e side a (g.2.1 * u.1) with
      | some c => .error ((c, a), rs, cnt)
      | none => .ok (rs ++ [{ addr := a, n := g.2.1 * u.2, first := cnt, wrap := g.2.2 || (rs.isEmpty && w.wrapped)
                              wpc := w.pc, base := s.genNow }], cnt + g.2.1 * u.2)) (.ok ([], w.count))

/-- The walker after `rs` have been emitted. -/
def Walker.emitted (w : Walker) (rs : List Run) (cnt : Nat) : Walker :=
  { w with count := cnt, wrapped := w.wrapped && rs.isEmpty }

/-- END (R90). -/
def wEnd (w : Walker) : WRes := .ok { w with ended := true } []

/-- EMIT (R90, R94). CNT counts elements on every side. A run on a fronthaul side that is no whole number of PRBs is an error as
one of packed elements that is no whole number of bytes (DEDUCED, log 11). -/
def wEmit (s : State) (t : Nat) (st : Stream) (side : Side) (w : Walker) (i : Word) : WRes :=
  let an := fld i 26 23
  let ce := bit i 21
  let k := fld i 20 19
  let e := st.elemOf side
  let u := runUnit e
  let cnt := fld i 18 0 + 1
  let a := w.reg an
  if cnt % u.2 ≠ 0 then .err w [] 1 stMalformed (st.baseOf side + a)
  else
    let units := cnt / u.2
    let base := Tab.get w.cBase 0 k
    let len := (Tab.get w.cLen 0 k).toNat
    if ce && decide (len = 0) then .err w [] 5 stMalformed 0
    else
      let segs := if ce then
          (circSegs len u.1 (2 * units + 2) (a - base).toInt units false).map (fun g => (addI base g.1, g.2))
        else [(a, units, false)]
      match emitRuns s t st side w segs with
      | .error x => .err (w.emitted x.2.1 x.2.2) x.2.1 x.1.1 stMalformed x.1.2
      | .ok (rs, c) =>
        let w1 := w.emitted rs c
        let w2 := if bit i 22 then
            (match wAdd w ce k a (units * u.1 : Nat) with
             | some v => w1.setSum an v
             | none => w1)
          else w1
        .ok (w2.goto (w.pc + 1)) rs

/-- ADDI and ADDA (R90). -/
def wAddTo (w : Walker) (i : Word) (d : Int) : WRes :=
  let an := fld i 26 23
  match wAdd w (bit i 22) (fld i 21 20) (w.reg an) d with
  | some v => .ok ((w.setSum an v).goto (w.pc + 1)) []
  | none => .err w [] 5 stMalformed 0

/-- LDI (R90). -/
def wLdi (w : Walker) (i : Word) : WRes :=
  let an := fld i 26 23
  let v := sext 20 (fld i 19 0) * (2 : Int) ^ (20 * fld i 22 21)
  let b : DWord := if bit i 20 then w.reg an else 0
  .ok ((w.setReg an (addI b v)).goto (w.pc + 1)) []

/-- CSET (R90). -/
def wCset (w : Walker) (i : Word) : WRes :=
  let k := fld i 26 25
  .ok ({ w with cBase := Tab.set w.cBase 0 k (w.reg (fld i 24 21))
                cLen := Tab.set w.cLen 0 k (w.reg (fld i 20 17)) }.goto (w.pc + 1)) []

/-- REPEAT and REPEATR with a count (R90, R91). A REPEATR whose count is 0 is checked like any other: its nesting and its body
can still be in error (DESIGN CHOICE, log 105). -/
def wRepeat (w : Walker) (body count : Nat) : WRes :=
  let stop := w.pc + 1 + body
  let outside := match w.stack with
    | [] => false
    | l :: _ => decide (l.stop < stop)
  if body = 0 ∨ 4096 < stop ∨ outside = true ∨ 8 ≤ w.stack.length then .err w [] 3 stMalformed 0
  else if count = 0 then .ok (w.goto stop) []
  else .ok { w with pc := w.pc + 1, stack := { first := w.pc + 1, stop := stop, left := count - 1 } :: w.stack } []

/-- Bytes of the issuing tile's scratchpad for an index or bitmap read, where they are populated. -/
def ownBytes (s : State) (t : Nat) (a : DWord) (n : Nat) : Option Nat :=
  if a.toNat + n ≤ GenConfig.spadBytes s.gen then some (t * slotBytes + a.toNat) else none

/-- The bytes of the issuing tile's scratchpad that an IDX or a SCAN reads: window offset and length; none where it reads
nothing. -/
def wReads (s : State) (t : Nat) (w : Walker) (i : Word) : Option (Nat × Nat) :=
  match wopOf i with
  | .idx =>
    let n := if fld i 14 13 = 0 then 2 else 4
    let a := w.reg (fld i 18 15)
    if a.toNat % n = 0 then (ownBytes s t a n).map (fun o => (o, n)) else none
  | .scan =>
    let n := (fld i 8 0 + 7) / 8
    (ownBytes s t (w.reg (fld i 22 19)) n).map (fun o => (o, n))
  | _ => none

/-- IDX (R92). The index register is advanced before a[AN] is written, and a[AB] is taken before the advance (DEDUCED,
log 12). -/
def wIdx (s : State) (t : Nat) (w : Walker) (i : Word) : WRes :=
  let ax := fld i 18 15
  let sel := fld i 14 13
  match wReads s t w i with
  | none => .err w [] 9 stPermission (w.reg ax)
  | some (o, n) =>
    if poisoned s.spad.poison o n then .poison
    else
      let v := ofBytes (memRead s.spad.mem o n)
      let x : Int := if sel = 2 then sext 32 v else (v : Int)
      let w1 := w.setReg ax (w.reg ax + BitVec.ofNat 64 n)
      .ok ((w1.setReg (fld i 26 23) (addI (w.reg (fld i 22 19)) (x * (2 : Int) ^ fld i 12 9))).goto (w.pc + 1)) []

/-- SCAN (R93). -/
def wScan (s : State) (t : Nat) (st : Stream) (side : Side) (w : Walker) (i : Word) : WRes :=
  match wReads s t w i with
  | none => .err w [] 9 stPermission (w.reg (fld i 22 19))
  | some (o, n) =>
    if poisoned s.spad.poison o n then .poison
    else
      let bits := ofBytes (memRead s.spad.mem o n)
      let u := runUnit (st.elemOf side)
      let sel := (List.range (fld i 8 0)).filter (fun p => decide ((bits >>> p) % 2 = (if bit i 9 then 0 else 1)))
      let segs := sel.map (fun p =>
        (w.reg (fld i 26 23) + BitVec.ofNat 64 p * w.reg (fld i 18 15), 12 / u.2, false))
      match emitRuns s t st side w segs with
      | .error x => .err (w.emitted x.2.1 x.2.2) x.2.1 x.1.1 stMalformed x.1.2
      | .ok (rs, c) => .ok ((w.emitted rs c).goto (w.pc + 1)) rs

/-- One walker instruction. -/
def wExec (s : State) (t : Nat) (st : Stream) (side : Side) (i : Word) : WRes :=
  let w := st.walker side
  match wopOf i with
  | .wend => wEnd w
  | .emit => wEmit s t st side w i
  | .addi => wAddTo w i (sext 20 (fld i 19 0))
  | .adda => wAddTo w i (w.reg (fld i 19 16)).toInt
  | .ldi => wLdi w i
  | .cset => wCset w i
  | .rep => wRepeat w (fld i 11 0) (fld i 26 12 + 1)
  | .repr => wRepeat w (fld i 11 0) ((w.reg (fld i 26 23)).toNat % 2 ^ 32)
  | .idx => wIdx s t w i
  | .scan => wScan s t st side w i
  | .bad => .err w [] 2 stMalformed 0

/-! ## Bank accesses of index and bitmap reads (R293) -/

/-- State of a point. -/
def pointSt (s : State) (p : Point) : PointSt :=
  ((s.turn.points.find? (fun q => decide (q.1 = p))).map (·.2)).getD PointSt.init

def setPoint (s : State) (p : Point) (v : PointSt) : State :=
  { s with turn := { s.turn with points := (s.turn.points.filter (fun q => decide (q.1 ≠ p))) ++ [(p, v)] } }

/-- The banks that `n` bytes from a window offset lie in. -/
def banksOf (s : State) (o n : Nat) : List Point :=
  (List.range ((o + n - 1) / 128 + 1 - o / 128)).map (fun i => bankOf s (o / 128 * 128 + 128 * i))

/-- The number at a bank of a stream's index or bitmap read. -/
def indexId (n : Nat) : Side → Nat
  | .read => 4096 + 2 * n
  | .write => 4097 + 2 * n

/-- The bank accesses of an index or bitmap read have been granted. -/
def indexGiven (s : State) (n : Nat) (side : Side) (ps : List Point) : Bool :=
  ps.all (fun p => (pointSt s p).given.contains (indexId n side))

/-- The granted accesses are used. -/
def takeGiven (s : State) (n : Nat) (side : Side) (ps : List Point) : State :=
  ps.foldl (fun s p =>
    let q := pointSt s p
    setPoint s p { q with given := q.given.erase (indexId n side) }) s

/-- A double-bit error found at a read poisons the first unit that it touches (R415, R416). -/
def poisonAt (s : State) (o : Nat) : State :=
  { s with spad := { s.spad with poison := if s.spad.poison.contains (o / 8) then s.spad.poison
                                            else s.spad.poison ++ [o / 8] } }

/-- Note what SECDED found at a scratchpad read. -/
def spadEcc (s : State) (u o : Nat) (ecc : Ecc) : State :=
  let i : LogInfo := { addr := BitVec.ofNat 64 (o % slotBytes) }
  match ecc with
  | .clean => s
  | .corrected => klog s .corrected .sramCe (luTile u) i
  | .bad => poisonAt (klog s .unrecovered .sramUe (luTile u) i) o

/-! ## One step of a walker -/

/-- A side's walker generates no more addresses (R107): it is past the blocked position. The write walker goes on until the
place of the blocked element is known, which says where the chunk before it ends, unless its own error is there. -/
def Stream.walkPast (st : Stream) (side : Side) : Bool :=
  let c := (st.walker side).count
  match st.stop, st.limit with
  | some x, some l =>
    (match side with
     | .read => decide (l ≤ c)
     | .write => decide (l < c) || x.bounds.contains (.write, c))
  | _, _ => false

/-- The word that a side's walker is at. -/
def walkerWord (s : State) (t : Nat) (st : Stream) (side : Side) : Word := Tab.get (s.tile t).wpm 0 (st.walker side).pc

/-- A side's walker can execute an instruction. -/
def Stream.walks (st : Stream) (side : Side) : Bool :=
  st.live && st.usesProg side && !(st.walker side).ended && !st.walkPast side

/-- The read that a stream's walker needs for its next instruction: window offset and length. -/
def walkerReads (s : State) (t : Nat) (st : Stream) (side : Side) : Option (Nat × Nat) :=
  if st.walks side && decide ((st.walker side).pc ≤ 4095) then wReads s t (st.walker side) (walkerWord s t st side) else none

/-- A walker's instruction takes effect. -/
def walkerExec (s : State) (t n : Nat) (st : Stream) (side : Side) : State :=
  let w := st.walker side
  match (if 4095 < w.pc then WRes.err w [] 4 stMalformed 0 else wExec s t st side (walkerWord s t st side)) with
  | .ok w' rs => checkCounts (s.setStream t n (st.setWalker side w' rs)) t n
  | .err w' rs c code a => walkError (s.setStream t n (st.setWalker side w' rs)) t n side w'.count c code a w.pc
  | .poison => abortStream s t n stUnrecovered

/-- Offer a side's walker to the row `want`: its instruction at the walker program counter runs when it is of that
row, an index or bitmap read once its banks have granted it. A word of no row, or a counter past 4,095, fails under whatever
row it is offered (R88, R106). `ecc` is what the read of the word finds, `data` what the read of the scratchpad does (R415). -/
def walkerStep (s : State) (t n : Nat) (side : Side) (want : WOp) (ecc data : Ecc) : State :=
  match s.stream? t n with
  | none => s
  | some st =>
    let w := st.walker side
    let op := wopOf (walkerWord s t st side)
    let rd := walkerReads s t st side
    let ps := (rd.map (fun r => banksOf s r.1 r.2)).getD []
    if !coreRuns s t || !st.walks side || (decide (w.pc ≤ 4095) && decide (op ≠ want) && decide (op ≠ .bad))
        || !indexGiven s n side ps then s
    else if w.pc ≤ 4095 ∧ (s.tile t).readEcc (fun l => match l with
        | .wpm _ k => decide (k = w.pc)
        | _ => false) ecc = .bad then
      abortStream (klog s .unrecovered .sramUe (luTile t)
        { stream := n, code := stUnrecovered, addr := BitVec.ofNat 64 (4 * w.pc) }) t n stUnrecovered
    else
      let s := if w.pc ≤ 4095 ∧ ecc = .corrected then
          klog s .corrected .sramCe (luTile t) { stream := n, addr := BitVec.ofNat 64 (4 * w.pc) } else s
      let s := takeGiven s n side ps
      let s := match rd with
        | some r => spadEcc s t r.1 data
        | none => s
      walkerExec s t n st side

end Sys2Proof.Machine
end

