-- ==== Sys2Proof/Machine/Arb.lean ====
section
/-! DEFINITION. The decision of a turnstile with its starvation check (R294, R300–R305, R309). -/

namespace Sys2Proof.Machine

/-- A requester of a turnstile: its number, slack, priority, and how `TS_STARVE` names it (kind, tile or port,
stream). -/
structure Cand where
  id : Nat
  slack : Int
  prio : Nat
  kind : Nat
  rtile : Nat
  rstream : Nat
  deriving DecidableEq, Repr

/-- Requester numbers of a point are below this. -/
def candMod : Nat := 2 ^ 16

/-- Whether `a` is granted before `b`: lowest slack, then highest priority, then round robin after `last`. -/
def beats (last : Nat) (a b : Cand) : Bool :=
  decide (a.slack < b.slack)
  || (decide (a.slack = b.slack) && (decide (b.prio < a.prio)
    || (decide (a.prio = b.prio)
        && decide ((a.id + candMod - last - 1) % candMod < (b.id + candMod - last - 1) % candMod))))

/-- The first of the requesters in the order of R300. -/
def bestCand (last : Nat) : List Cand → Option Cand
  | [] => none
  | c :: cs =>
    match bestCand last cs with
    | none => some c
    | some d => if beats last d c then some d else some c

/-- POINT, INDEX and BANK of `TS_STARVE`. -/
def pointCode : Point → Nat × Nat × Nat
  | .readIssue t => (0, t, 0)
  | .writeIssue t => (1, t, 0)
  | .datapath t => (2, t, 0)
  | .tileOut t => (3, t, 0)
  | .pavOut p _ => (4, p, 0)
  | .bank t b => (5, t, b)
  | .sysPort n => (6, n, 0)
  | .winPort l => (7, l, 0)

/-- Starvation of a requester at a point (R305). -/
def starve (s : State) (p : Point) (c : Cand) : State :=
  let k := pointCode p
  let occ := fld s.turn.starve 7 0
  let old := s.turn.starve
  let w : Word := 0x80000000 ||| atN k.1 28 ||| atN k.2.1 22 ||| atN c.kind 20 ||| atN (c.rtile % 32) 15
    ||| atN c.rstream 12 ||| atN k.2.2 8
  let w := putFld (if bit old 31 then old else w) 7 0 (min 255 (occ + 1))
  let s := { s with turn := { s.turn with starve := w, starveCount := satInc s.turn.starveCount } }
  if s.turn.evEn then raise s evTsStarve (if c.kind = 0 then c.rtile else 0) c.rstream 0 0 else s

/-- The tile of a point that belongs to one (R309). -/
def Point.tile? : Point → Option Nat
  | .readIssue t => some t
  | .writeIssue t => some t
  | .datapath t => some t
  | .tileOut t => some t
  | .bank t _ => some t
  | _ => none

/-- The streams of tile `t` among requesters of one of its points. -/
def ownStreams (t : Nat) (cs : List Cand) : List Nat :=
  ((cs.filter (fun c => decide (c.kind = 0) && decide (c.rtile = t))).map (·.rstream)).eraseDups

/-- A grant to requester `w` at one of the tile's points: `TL_SLACK` counts it for the tile's other streams that wait there, from
the last grant to each (R309). -/
def countWaits (x : Tile) (t w : Nat) (cs : List Cand) : Tile :=
  let won := ownStreams t (cs.filter (fun c => decide (c.id = w)))
  let lost := (ownStreams t cs).filter (fun n => !won.contains n)
  let after := lost.foldl (fun tb n => Tab.put tb n (min 0xFFFF (Tab.get tb 0 n + 1))) x.waited
  { x with waited := won.foldl (fun tb n => Tab.put tb n 0) after }

/-- `TL_SLACK` of a tile after a grant at one of its points. -/
def noteWaits (s : State) (p : Point) (w : Nat) (cs : List Cand) : State :=
  match Point.tile? p with
  | some t => s.setTile t (countWaits (s.tile t) t w cs)
  | none => s

/-- Account for a grant to requester `w` among those waiting: the others lose one, and one that exceeds the limit
is reported once for its wait (R305). -/
def accountGrant (s : State) (p : Point) (w : Nat) (cs : List Cand) : State :=
  let q := pointSt s p
  let lost := (cs.filter (fun c => decide (c.id ≠ w))).foldl
    (fun (tb : Tab Nat) c => Tab.put tb c.id (Tab.get q.lost 0 c.id + 1)) []
  let lim := s.turn.starveLimit.toNat
  let past := cs.filter (fun c => decide (c.id ≠ w) && decide (0 < lim) && decide (lim < Tab.get lost 0 c.id)
    && !q.raised.contains c.id)
  let waiting := cs.map (·.id)
  let raised := (q.raised.filter (fun i => decide (i ≠ w) && waiting.contains i)) ++ past.map (·.id)
  let s := noteWaits (setPoint s p { q with last := w, lost := lost, raised := raised }) p w cs
  past.foldl (fun s c => starve s p c) s

/-- The requester that takes a point this cycle by the decision made in the cycle before: the winner, or the runner-up where the
winner has nothing to send; none where no decision was made or neither has (R301). -/
def takerOf (s : State) (p : Point) (cs : List Cand) : Option Nat :=
  (pointSt s p).granted.find? (fun i => cs.any (fun c => decide (c.id = i)))

/-- The stream that takes a point inside a tile: the decision is used up. A grant that nobody uses counts as one to the winner
(R305, R306). -/
def takePoint (s : State) (p : Point) (cs : List Cand) : State × Option Nat :=
  let q := pointSt s p
  let s1 := setPoint s p { q with granted := [] }
  match takerOf s p cs, q.granted with
  | some i, _ => (accountGrant s1 p i cs, some i)
  | none, w :: _ => (accountGrant s1 p w cs, none)
  | none, [] => (s, none)

/-- The first `n` of the requesters in the order of R300. -/
def ranked (last : Nat) : Nat → List Cand → List Cand
  | 0, _ => []
  | n + 1, cs =>
    match bestCand last cs with
    | none => []
    | some c => c :: ranked last n (cs.filter (fun d => decide (d.id ≠ c.id)))

/-- The start of a cycle at a point inside a tile: the decision of the cycle before stands for this one, and from the requests of
now, with this cycle's winner as the previous one, the next is made: winner and runner-up (R300, R301). A decision that still stood
has gone unused. -/
def decideNext (s : State) (p : Point) (cs : List Cand) : State :=
  let s := match (pointSt s p).granted with
    | w :: _ => accountGrant s p w cs
    | [] => s
  let q := pointSt s p
  let s := setPoint s p { q with granted := q.next }
  let won := match takerOf s p cs with
    | some i => i
    | none => q.next.headD q.last
  setPoint s p { q with granted := q.next, next := (ranked won 2 cs).map (·.id) }

/-- A stream as a requester. -/
def streamCand (s : State) (t n : Nat) (st : Stream) (lead : Bool) : Cand :=
  { id := n, slack := slackOf s st lead, prio := prioOf (s.tile t) n, kind := 0, rtile := t, rstream := n }

/-- Streams of a tile that satisfy a condition, as requesters. -/
def streamCands (s : State) (t : Nat) (lead : Bool) (f : Nat → Stream → Bool) : List Cand :=
  (s.tile t).streams.filterMap (fun p => if f p.1 p.2 then some (streamCand s t p.1 p.2 lead) else none)

end Sys2Proof.Machine
end

