-- ==== Sys2Proof/Machine/Reads.lean ====
section
/-! DEFINITION. The read side of a stream: what the walker reads next (R84, R96–R98, R122–R125, R165, R211), the room
of a slice (R117, R121), and landing of read data (R26). -/

namespace Sys2Proof.Machine

/-! ## Shapes and records -/

/-- Shape of the tensor leaving stage 5 (R437). -/
def Stream.shape (st : Stream) : Option (List Nat) :=
  if !st.ruse then some st.lay.outCounts
  else if !st.wuse then some (tdCounts st.dstTd) else none

/-- The stream reads scale records. -/
def Stream.readsScale (st : Stream) : Bool := usesScale st.od && !oAuto st.od

/-- Record that output element `k` uses. -/
def Stream.recordOf (st : Stream) (k : Nat) : Nat :=
  if oSgran st.od = 3 then k / oBlkN st.od
  else
    match st.shape with
    | some sh => (unrank sh k).getD (oSdim st.od) 0
    | none => k

/-- Address of scale record `r` (R164). -/
def Stream.recordAddr (st : Stream) (r : Nat) : DWord :=
  addI (tdBase st.scaleTd) (tdOffset st.scaleTd 0 (unrank (tdCounts st.scaleTd) r))

/-- First output element that record `r` serves, as the position of an error of its read. -/
def Stream.recordPos (st : Stream) (r : Nat) : Nat := if oSgran st.od = 3 then r * oBlkN st.od else 0

/-! ## Rows of BXZ sides -/

/-- The descriptor, base and side of the BXZ side of a stream. -/
def Stream.bxSide (st : Stream) : Td × DWord × Side :=
  if st.srcE = .bxz then (st.srcTd, st.rdBase, .read) else (st.dstTd, st.wrBase, .write)

/-- Address E of the index entry of a row (R187). -/
def Stream.entryAddr (st : Stream) (row : Nat) : DWord :=
  let b := st.bxSide
  addI b.2.1 (tdOffset b.1 0 (0 :: (unrank (tdCounts b.1) (row * tdCount b.1 0)).drop 1))

/-- The index entry of a row in staging. -/
def Stream.entryOf (st : Stream) (row : Nat) : Option SegEntry :=
  (Tab.find st.entries row).map (fun w => segEntry w.1 w.2)

/-! ## Places of elements -/

/-- Byte address and bit of an element of a descriptor walk (R68, R82). -/
def elemPlace (td : Td) (base : DWord) (e : Elem) (idx : List Nat) : DWord × Nat :=
  let a := addI base (tdOffset td 0 idx)
  if e.width < 8 then
    let b := e.width * idx.headD 0
    (a + BitVec.ofNat 64 (b / 8), b % 8)
  else (a, 0)

/-- Address of a PRB block of a descriptor walk (R143). -/
def prbPlace (td : Td) (base : DWord) (e : Elem) (idx : List Nat) : DWord :=
  addI base (tdOffset td 0 idx) + BitVec.ofNat 64 (idx.headD 0 / 12 * prbBytes e.compW)

/-- A circular dimension wraps between two index vectors: its index steps from CLEN − 1 to 0, by counting on, by returning to
its first value, or, where visits run backward, the other way (R85). -/
def wrapsFrom (td : Td) (a b : List Nat) : Bool :=
  ((a.zip b).zipIdx).any (fun p =>
    let n := tdClen td p.2
    let x := tdCstart td p.2 + p.1.1
    let y := tdCstart td p.2 + p.1.2
    tdCirc td p.2 && decide (p.1.1 ≠ p.1.2)
      && ((decide (x % n = n - 1) && decide (y % n = 0)) || decide (x / n < y / n)
          || (decide (y + 1 = x) && decide (y / n < x / n))))

/-- What a visit reads. `idx` and `last` are the index vectors of its first and last element in a descriptor walk; `wrap` tells
that a circular wrap lies between it and the run before it in a walker program, `inner` that one lies between the elements that a
broadcast read serves; `base` is what its address was generated under. -/
structure Item where
  addr : DWord
  bit : Nat
  bits : Nat
  /-- elements a block serves; 0 for an element -/
  cover : Nat
  pos : Nat
  idx : List Nat
  last : List Nat
  wrap : Bool
  inner : Bool
  wpc : Nat
  base : GenAt

/-- Visits from `v` on that lie in the same block of the same row; `fuel` bounds the search. -/
def coverLen (l : Lay) (n : Nat) (idx : List Nat) : Nat → Nat → Nat
  | 0, _ => 0
  | fuel + 1, v =>
    match l.srcAt v with
    | some i =>
      if v < l.visits ∧ i.drop 1 = idx.drop 1 ∧ i.headD 0 / n = idx.headD 0 / n then 1 + coverLen l n idx fuel (v + 1)
      else 0
    | none => 0

/-- Elements a block read at visit `v` serves. -/
def Stream.cover (st : Stream) (v : Nat) : Nat :=
  let n := st.srcE.blockN
  if st.ruse then n
  else
    match st.lay.srcAt v with
    | some idx => coverLen st.lay n idx n v
    | none => 0

/-- The item of visit `v` of a walker program. -/
def Stream.progItem (st : Stream) (v : Nat) : Option Item :=
  (st.rdRuns.find? (fun r => decide (r.first ≤ v) && decide (v < r.first + r.n))).map (fun r =>
    let e := st.srcE
    let i := v - r.first
    let wr := r.wrap && decide (i = 0)
    if e.isBlock then
      { addr := r.addr + BitVec.ofNat 64 (i / 12 * prbBytes e.compW), bit := 0, bits := 8 * prbBytes e.compW
        cover := 12, pos := v, idx := [], last := [], wrap := wr, inner := false, wpc := r.wpc, base := r.base }
    else
      { addr := r.addr + BitVec.ofNat 64 (i * e.width / 8), bit := i * e.width % 8, bits := e.width, cover := 0
        pos := v, idx := [], last := [], wrap := wr, inner := false, wpc := r.wpc, base := r.base })

/-- Index vector of the last element that the read of visit `v`, of element `idx`, serves: under a broadcast the last of its row (R84). -/
def Stream.lastServed (st : Stream) (v : Nat) (idx : List Nat) : List Nat :=
  let l := st.lay
  if l.bcast then ((l.srcAt (l.atIndex0 v (l.span ((l.padded (l.permOf v)).getD 0 0)).2)).getD idx) else idx

/-- A circular wrap of dimension 0 lies between the elements from `idx` to `last` of a row that one read serves (R85, R97). -/
def Stream.innerWrap (st : Stream) (idx last : List Nat) : Bool :=
  let td := st.srcTd
  let n := tdClen td 0
  let whole := decide (st.lay.padmode = some 1) || decide (st.lay.padmode = some 2)
  let x := tdCstart td 0 + (if whole then 0 else idx.headD 0)
  let y := tdCstart td 0 + (if whole then tdCount td 0 - 1 else last.headD 0)
  st.lay.bcast && tdCirc td 0 && decide (x / n ≠ y / n)

/-- The item of visit `v` of a descriptor walk, generated under `base`; none for padding and for a visit that another's read
serves. -/
def Stream.descItem (st : Stream) (base : GenAt) (v : Nat) : Option Item :=
  let l := st.lay
  let e := st.srcE
  match l.srcAt v with
  | none => none
  | some idx =>
    if l.canon v ≠ v then none
    else
      let pos := rank l.cnt idx
      if e.isBlock then
        let cov := st.cover v
        let last := idx.set 0 (idx.headD 0 + cov - 1)
        if e = .bxz then
          let row := pos / tdCount st.srcTd 0
          (st.entryOf row).map (fun g =>
            { addr := g.blockAddr (st.entryAddr row) (idx.headD 0 / 64), bit := 0, bits := 8 * blockBytes g.rate, cover := cov
              pos := pos, idx := idx, last := last, wrap := false, inner := false, wpc := 0, base := base })
        else
          some { addr := prbPlace st.srcTd st.rdBase e idx, bit := 0, bits := 8 * prbBytes e.compW, cover := cov
                 pos := pos, idx := idx, last := last, wrap := false, inner := false, wpc := 0, base := base }
      else
        let p := elemPlace st.srcTd st.rdBase e idx
        let last := st.lastServed v idx
        some { addr := p.1, bit := p.2, bits := e.width, cover := 0, pos := pos, idx := idx, last := last, wrap := false
               inner := st.innerWrap idx last, wpc := 0, base := base }

/-- The item of a visit. -/
def Stream.item (st : Stream) (base : GenAt) (v : Nat) : Option Item :=
  if st.ruse then st.progItem v else st.descItem base v

/-- A visit is not read: it is past a blocked position (R107). -/
def Stream.pastLimit (st : Stream) (v : Nat) : Bool :=
  match st.limit with
  | none => false
  | some k => if st.ruse then decide (k ≤ v) else decide (k ≤ st.lay.firstUse v)

/-- Visits to come: none once a program has no run left. -/
def Stream.visitEnd (st : Stream) : Nat :=
  if st.ruse then (match st.rdRuns.getLast? with
    | some r => min (r.first + r.n) (st.avail.getD (r.first + r.n))
    | none => st.rdPos)
  else st.lay.visits

/-- The next visit that is read, from `v` on. -/
def nextVisit (st : Stream) : Nat → Nat → Option Nat
  | 0, _ => none
  | fuel + 1, v =>
    if st.visitEnd ≤ v then none
    else if st.pastLimit v then nextVisit st fuel (v + 1)
    else if st.ruse then some v
    else
      match st.lay.srcAt v with
      | none => nextVisit st fuel (v + 1)
      | some _ => if st.lay.canon v = v then some v else nextVisit st fuel (v + 1)

/-! ## Building a request -/

/-- A request being built: bits [lo, hi) from byte address `a0`, what it serves, the next visit, and the bits of
that visit already taken. -/
structure RBuild where
  a0 : DWord
  lo : Int
  hi : Int
  elems : List (Nat × Int)
  blocks : List (Nat × Int × Nat)
  next : Nat
  skip : Nat
  last : List Nat
  inner : Bool
  base : GenAt

/-- First byte and length of bits [lo, hi) from `a0`. -/
def byteSpan (a0 : DWord) (lo hi : Int) : DWord × Nat := (addI a0 (lo / 8), ((hi + 7) / 8 - lo / 8).toNat)

/-- A range lies within one 4 KiB page and at one endpoint (R97). -/
def oneRange (s : State) (t : Nat) (r : DWord × Nat) : Bool :=
  let e := r.1 + BitVec.ofNat 64 (r.2 - 1)
  decide (r.1.toNat / 4096 = e.toNat / 4096) && decide (endpointOf s t r.1 = endpointOf s t e)

/-- Bytes up to the next 4 KiB boundary. -/
def toPageEnd (a : DWord) : Nat := 4096 - a.toNat % 4096

/-- Begin a request with visit `v`, of which `skip` bits are requested already. A block or element that crosses a
page or endpoint is requested in pieces: R97 and R340 let no request cross, though R83 lets none hold part of a block (DEDUCED,
log 26). -/
def rbStart (s : State) (t v skip : Nat) (it : Item) : RBuild :=
  let lo : Int := it.bit + skip
  let full : Int := it.bit + it.bits
  let r := byteSpan it.addr lo full
  let cut := !oneRange s t r
  let hi : Int := if cut then lo / 8 * 8 + 8 * toPageEnd r.1 else full
  { a0 := it.addr, lo := lo, hi := hi
    elems := if it.cover = 0 then [(v, (it.bit : Int))] else []
    blocks := if it.cover = 0 then [] else [(v, 0, it.bits / 8)]
    next := if cut then v else if it.cover = 0 then v + 1 else v + it.cover
    skip := if cut then (hi - it.bit).toNat else 0
    last := it.last, inner := it.inner, base := it.base }

/-- Extend a request with visit `v`, where the result meets R97. -/
def rbAdd (s : State) (t : Nat) (td : Td) (max v : Nat) (it : Item) (b : RBuild) : Option RBuild :=
  let x : Int := diffI it.addr b.a0 * 8 + it.bit
  let lo := if x + it.bits = b.lo then x else b.lo
  let hi := if x = b.hi then b.hi + it.bits else b.hi
  let r := byteSpan b.a0 lo hi
  if it.wrap ∨ it.inner ∨ b.inner ∨ wrapsFrom td b.last it.idx ∨ it.base.win ≠ b.base.win ∨ b.skip ≠ 0 ∨ (x ≠ b.hi ∧ x + it.bits ≠ b.lo) ∨ (it.cover = 0) ≠ b.blocks.isEmpty
      ∨ (rangeErr s t it.addr ((it.bit + it.bits + 7) / 8)).isSome then none
  else if oneRange s t r then
    if r.2 ≤ max then
      some { b with lo := lo, hi := hi
                    elems := if it.cover = 0 then b.elems ++ [(v, x)] else b.elems
                    blocks := if it.cover = 0 then b.blocks else b.blocks ++ [(v, x / 8, it.bits / 8)]
                    next := if it.cover = 0 then v + 1 else v + it.cover
                    last := it.last }
    else none
  else if x = b.hi ∧ x % 8 ≠ 0 then
    -- the element shares its first byte with the request and crosses the page
    some { b with hi := (x / 8 + 1) * 8, elems := b.elems ++ [(v, x)], next := v
                  skip := ((x / 8 + 1) * 8 - x).toNat }
  else none

/-! ## Room (R117, R121) -/

/-- The first visit of the band that visit `v` belongs to, and the first after the band (R123). -/
def Lay.bandOf (l : Lay) (v : Nat) : Nat × Nat :=
  let n0 := l.pad.getD 0 1
  let row := l.K * n0
  let b := v % row / (l.E * l.K)
  let lo := v / row * row + b * (l.E * l.K)
  (lo, lo + min l.E (n0 - b * l.E) * l.K)

/-- The trellis works in bands. -/
def Stream.bands (st : Stream) : Bool := !st.ruse && decide (st.lay.mode = .band)

/-- The first visit after the two bands that the trellis holds: that of the next output element and the one that fills while
it drains (R123). -/
def Stream.bandsEnd (st : Stream) : Nat :=
  let v := match st.lay.needs st.outPos with
    | v :: vs => vs.foldl min v
    | [] => 0
  (st.lay.bandOf (st.lay.bandOf v).2).2

/-- Visits whose data a read request carries, by their first. -/
def ReadReq.firstVisit (r : ReadReq) : Option Nat :=
  match r.what with
  | .elems es => (es.map (·.1)).head?
  | .blocks bs => (bs.map (·.1)).head?
  | _ => none

/-- Visits whose data a read request carries, by their last. -/
def ReadReq.lastVisit (r : ReadReq) : Option Nat :=
  match r.what with
  | .elems es => (es.map (·.1)).getLast?
  | .blocks bs => (bs.map (·.1)).getLast?
  | _ => none

/-- Bytes of a slice in use: data that has landed, records, side-list and index entries read ahead, and the responses
outstanding. Of a row held for its imaginary elements, half of each element is left (R125). -/
def Stream.used (st : Stream) : Nat :=
  let l := st.lay
  let w := st.srcE.decoded.width
  let halfHeld := !st.ruse && decide (l.cplx = 1) && decide (l.mode = .direct)
  let bits := (st.staged.map (fun p => if halfHeld ∧ l.firstUse p.1 < st.outPos then w / 2 else w)).sum
  ceilDiv bits 8 + (st.blocks.map (fun b => b.2.length)).sum
    + (if oSgran st.od = 3 then st.scales.length * recBytes st.od else 0)
    + 8 * st.sideEnts.length + 16 * st.entries.length + (st.outstanding.map (·.len)).sum

/-- What the two bands, which take their room for as long as the instruction runs, have not filled of it (R124). -/
def Stream.bandFree (st : Stream) : Nat :=
  if st.bands then
    let l := st.lay
    let w := st.srcE.decoded.width
    let e := st.bandsEnd
    2 * l.E * l.K * (w / 8)
      - (ceilDiv ((st.staged.filter (fun p => decide (p.1 < e))).length * w) 8
          + ((st.blocks.filter (fun b => decide (b.1 < e))).map (fun b => b.2.length)).sum
          + ((st.outstanding.filter (fun r => r.lastVisit.any (fun v => decide (v < e)))).map (·.len)).sum)
  else 0

/-- The stream reads records, index entries or side lists beside its data. -/
def Stream.sideReads (st : Stream) : Bool :=
  decide (st.srcE = .bxz) || decide (st.dstE = .bxz) || (st.readsScale && decide (oSgran st.od = 3))

/-- Bytes of a slice that data and read-ahead leave to what the next data waits for: enough for the records and entries of a block
(DESIGN CHOICE, log 107). -/
def Stream.keptFree (st : Stream) : Nat := if st.sideReads then 128 else 0

/-- Room of a stream's slice in bytes. -/
def roomOf (x : Tile) (n : Nat) (st : Stream) : Nat := 4096 * sliceOfStream x n - st.used

/-! ## Readiness -/

/-- A read request still carries data of visit `v`. -/
def Stream.awaits (st : Stream) (v : Nat) : Bool :=
  st.outstanding.any (fun r => match r.what with
    | .elems es => es.any (fun e => decide (e.1 = v))
    | .blocks bs => bs.any (fun b => decide (b.1 = v))
    | _ => false)

/-- The landed block that serves visit `v`. -/
def Stream.blockFor (st : Stream) (v : Nat) : Option (Nat × List Byte) :=
  (st.blocks.reverse.find? (fun b => decide (b.1 ≤ v))).bind (fun b =>
    if v < b.1 + st.cover b.1 ∧ b.1 < st.rdPos ∧ !st.awaits b.1 then some b else none)

/-- Row, block index and index entry of a visit of a BXZ source. -/
def Stream.bxOf (st : Stream) (v : Nat) : Option (Nat × Nat × SegEntry) :=
  match st.lay.elemAt v with
  | none => none
  | some p =>
    let c := tdCount st.srcTd 0
    (st.entryOf (p / c)).map (fun g => (p / c, p % c / 64, g))

/-- Side-list entries of a block are in staging, as far as the list reaches. -/
def Stream.sideReady (st : Stream) (v : Nat) (bs : List Byte) : Bool :=
  if st.srcE = .bxz then
    match st.bxOf v with
    | none => false
    | some (row, j, g) =>
      let h := bxHdr bs
      let want := (List.range h.escn).map (fun i => h.sloff + i)
      decide (j * escLim g.rate < h.sloff) || decide (escLim g.rate < h.escn)
        || want.all (fun i => decide (g.sideLen ≤ i) || (Tab.find st.sideEnts (row * 65536 + i)).isSome)
  else true

/-- Data of visit `v` can enter stage 3. -/
def Stream.visitReady (st : Stream) (v : Nat) : Bool :=
  if !st.ruse && (st.lay.srcAt v).isNone then true
  else
    let c := if st.ruse then v else st.lay.canon v
    ((Tab.find st.staged c).isSome && decide (c < st.rdPos) && !st.awaits c)
    || (match st.blockFor c with
        | some b => st.sideReady c b.2
        | none => false)

/-- Visits that output element `k` uses. -/
def Stream.needs (st : Stream) (k : Nat) : List Nat := if st.ruse then [k] else st.lay.needs k

/-- The group of output elements that starts at `k`, up to the end of the output. -/
def Stream.groupAt (st : Stream) (k : Nat) : List Nat :=
  let n := match st.avail with
    | some m => min st.group (m - k)
    | none => st.group
  (List.range n).map (fun i => k + i)

/-- The band that holds output element `k` has filled: nothing of it is to be read or outstanding (R123, R124). -/
def Stream.bandFull (st : Stream) (k : Nat) : Bool :=
  !st.bands || (st.lay.needs k).all (fun v =>
    let e := (st.lay.bandOf v).2
    (match nextVisit st (e + 1 - st.rdPos) st.rdPos with
     | some u => decide (e ≤ u)
     | none => true)
    && st.outstanding.all (fun r => r.firstVisit.all (fun u => decide (e ≤ u))))

/-- The next output elements can pass stages 2 to 8: their data, records and, for an encode, the row's index entry are
present, and no calibration window is full. -/
def Stream.groupReady (st : Stream) (k : Nat) : Bool :=
  let g := st.groupAt k
  let inRuns := (match st.avail with
    | some m => decide (k < m)
    | none => true) && (st.rdTotal.isSome || decide (k + g.length ≤ st.rd.count))
  let free := match st.limit with
    | some l => decide (k < l)
    | none => true
  inRuns && free && g.all (fun k => (st.needs k).all st.visitReady && st.bandFull k)
  && (!st.readsScale || (if oSgran st.od = 2 then decide (st.scales.length = tdN st.scaleTd)
        else g.all (fun k => (Tab.find st.scales (st.recordOf k)).isSome)))
  && (decide (st.dstE ≠ .bxz) || (Tab.find st.entries (k / tdCount st.dstTd 0)).isSome)

/-! ## The next read of a stream -/

/-- What the read walker does next for a stream. -/
inductive Plan where
  /-- nothing to issue -/
  | idle
  /-- issue a request, with the stream's next position -/
  | req (addr : DWord) (len : Nat) (what : ReadWhat) (side : Side) (pos next skip : Nat)
  /-- an address error, against a side and at a position -/
  | err (side : Side) (bound : Side × Nat) (cause code : Nat) (addr : DWord) (wpc : Nat)

/-- Most bytes that a stream reads ahead of its data at one time: a quarter of its slice (DESIGN CHOICE, log 107: R165 and R211
share the slice's space and give no split). -/
def aheadBytes (x : Tile) (n : Nat) : Nat := 1024 * sliceOfStream x n

/-- Scale records from `r` on in one request, up to `n` more: contiguous upward or downward, in one range, with no circular
wrap between them (R96, R97, R165). Answers the lowest address and the records with theirs. -/
def growScales (s : State) (t : Nat) (st : Stream) (rb : Nat) : Nat → Nat → DWord → List (Nat × DWord) →
    DWord × List (Nat × DWord)
  | 0, _, lo, acc => (lo, acc)
  | fuel + 1, r, lo, acc =>
    let n := rb * acc.length
    let a := st.recordAddr r
    let cs := tdCounts st.scaleTd
    let lo' := if a + BitVec.ofNat 64 rb = lo then a else lo
    if !wrapsFrom st.scaleTd (unrank cs (r - 1)) (unrank cs r)
        && (decide (a = lo + BitVec.ofNat 64 n) || decide (a + BitVec.ofNat 64 rb = lo)) && oneRange s t (lo', n + rb) then
      growScales s t st rb fuel (r + 1) lo' (acc ++ [(r, a)])
    else (lo, acc)

/-- The read of scale records, where output element `k` needs one that is not requested (R165): by the read walker, at the
position of the first element that the record serves. -/
def scalePlan (s : State) (t n : Nat) (st : Stream) (k max : Nat) : Option Plan :=
  let total := tdN st.scaleTd
  let want := if oSgran st.od = 2 then total else min total (st.recordOf k + 1)
  if st.readsScale && decide (st.scaleNext < want) then
    let rb := recBytes st.od
    let r := st.scaleNext
    let a := st.recordAddr r
    let most := min (if oSgran st.od = 2 then 4096 else min max (aheadBytes (s.tile t) n)) 4096 / rb
    match rangeErr s t a rb with
    | some e => some (.err .read (.write, st.recordPos r) e.1 stPermission e.2 0)
    | none =>
      let g := growScales s t st rb (min (total - r) most - 1) (r + 1) a [(r, a)]
      some (.req g.1 (rb * g.2.length) (.scales (g.2.map (fun p => (p.1, diffI p.2 g.1)))) .read (st.recordPos r)
        st.rdPos st.rdSkip)
  else none

/-- The read of a row's index entry (R191, R211). -/
def entryPlan (s : State) (t : Nat) (st : Stream) (row : Nat) : Option Plan :=
  let asked := st.outstanding.any (fun r => match r.what with
    | .entry q => decide (q = row)
    | _ => false)
  if (Tab.find st.entries row).isSome then none
  else if asked then some .idle
  else
    let b := st.bxSide
    let a := st.entryAddr row
    match rangeErr s t a 16 with
    | some e => some (.err b.2.2 (b.2.2, row * tdCount b.1 0) e.1 stPermission e.2 0)
    | none => some (.req a 16 (.entry row) b.2.2 (row * tdCount b.1 0) st.rdPos st.rdSkip)

/-- Entry `i` of a row's side list is in staging or asked for. -/
def Stream.sideHeld (st : Stream) (row i : Nat) : Bool :=
  (Tab.find st.sideEnts (row * 65536 + i)).isSome
  || st.outstanding.any (fun r => match r.what with
      | .sideList q first n => decide (q = row) && decide (first ≤ i) && decide (i < first + n)
      | _ => false)

/-- Block of a row at or before `j` whose running ESCN sum is known, and the sum (R197). -/
def Stream.sumBefore (st : Stream) (row j : Nat) : Nat × Nat :=
  match (st.decSum.filter (fun p => decide (row * 65536 ≤ p.1) && decide (p.1 ≤ row * 65536 + j))).getLast? with
  | some p => (p.1 - row * 65536, p.2)
  | none => (0, 0)

/-- The request for the first of the side-list entries [lo, hi) that is not held, reading ahead up to `ahead`, at most `max`
bytes. -/
def sideRun (s : State) (t : Nat) (st : Stream) (row lo hi ahead pos max : Nat) (g : SegEntry) : Option Plan :=
  match ((List.range (hi - lo)).map (fun i => lo + i)).find? (fun i => !st.sideHeld row i) with
  | none => none
  | some i =>
    let a := g.list (st.entryAddr row) + BitVec.ofNat 64 (8 * i)
    let n := Nat.max 1 (min (min (ahead - i) (toPageEnd a / 8)) (max / 8))
    match rangeErr s t a (8 * n) with
    | some e => some (.err .read (.read, pos) e.1 stPermission e.2 0)
    | none => some (.req a (8 * n) (.sideList row i n) .read pos st.rdPos st.rdSkip)

/-- The prefetch of a row's side list for block `j`: ESCLIM entries for it, and ahead for the blocks of its page (R211). -/
def sidePlan (s : State) (t n : Nat) (st : Stream) (row j pos max : Nat) (g : SegEntry) : Option Plan :=
  let lim := escLim g.rate
  let b := st.sumBefore row j
  let page := 4096 / Nat.max 1 (blockBytes g.rate)
  let need := min (b.2 + (j + 1 - b.1) * lim) g.sideLen
  let ahead := min (min (b.2 + ((j / page + 1) * page - b.1) * lim) (tdCount st.srcTd 0 / 64 * lim)) g.sideLen
  sideRun s t st row b.2 need ahead pos (min max (aheadBytes (s.tile t) n)) g

/-- Reflected padding brings block `j` of a row before the blocks below it. Their headers are read first, so that the sum of
R197 is known when the block is checked (DESIGN CHOICE, log 10). -/
def headerPlan (s : State) (t : Nat) (st : Stream) (row j pos : Nat) (g : SegEntry) : Option Plan :=
  if st.lay.padmode ≠ some 2 ∨ st.lay.pre.getD 0 0 / 64 < j ∨ j = 0 ∨ (Tab.find st.decSum (row * 65536 + j)).isSome then none
  else
    let i := (st.sumBefore row j).1
    if st.outstanding.any (fun r => match r.what with
        | .header q b => decide (q = row) && decide (b = i)
        | _ => false) then some .idle
    else
      let a := g.blockAddr (st.entryAddr row) i
      match rangeErr s t a 8 with
      | some e => some (.err .read (.read, pos) e.1 stPermission e.2 0)
      | none => some (.req a 8 (.header row i) .read pos st.rdPos st.rdSkip)

/-- What a block of a BXZ source needs before it: its row's index entry, the headers below it, and its side list. -/
def blockPlan (s : State) (t n : Nat) (st : Stream) (v max : Nat) : Option Plan :=
  let pos := (st.lay.elemAt v).getD 0
  let row := pos / tdCount st.srcTd 0
  let j := pos % tdCount st.srcTd 0 / 64
  match entryPlan s t st row with
  | some p => some p
  | none =>
    match st.entryOf row with
    | none => none
    | some g =>
      match headerPlan s t st row j pos g with
      | some p => some p
      | none => sidePlan s t n st row j pos max g

/-- Extend a request as far as R97 and `max` bytes allow; `fuel` bounds the visits. A block joins once its index entry, its
side list and the sum before it are held or asked for (R211). Pieces of interleaved planes stay apart (R125). -/
def rbGrow (s : State) (t n : Nat) (st : Stream) (max : Nat) : Nat → RBuild → RBuild
  | 0, b => b
  | fuel + 1, b =>
    if b.skip ≠ 0 then b
    else
      match nextVisit st (st.visitEnd + 1 - b.next) b.next with
      | none => b
      | some v =>
        if (st.srcE = .bxz ∧ (blockPlan s t n st v max).isSome)
            ∨ (!st.ruse ∧ st.lay.mode = .alt ∧ st.lay.altPiece v ≠ st.lay.altPiece (b.next - 1)) then b
        else
          match st.item s.genNow v with
          | none => b
          | some it =>
            match rbAdd (s.atBase it.base) t st.srcTd max v it b with
            | some b' => rbGrow s t n st max fuel b'
            | none => b

/-- Side-list entries of a landed block that are not held any more: they are read again. -/
def sideFix (s : State) (t : Nat) (st : Stream) : Option Plan :=
  if st.srcE ≠ .bxz then none
  else
    (st.lay.needs st.outPos).findSome? (fun v =>
      let c := st.lay.canon v
      if (Tab.find st.staged c).isSome then none
      else
        match st.blockFor c with
        | none => none
        | some b =>
          if st.sideReady c b.2 then none
          else
            match st.bxOf c with
            | none => none
            | some (row, _, g) =>
              let h := bxHdr b.2
              sideRun s t st row h.sloff (min (h.sloff + h.escn) g.sideLen) (min (h.sloff + h.escn) g.sideLen)
                ((st.lay.elemAt c).getD 0) 4096 g)

/-- What must be read before the data of visit `v`. -/
def beforeData (s : State) (t n : Nat) (st : Stream) (v max : Nat) : Option Plan :=
  let k := if st.ruse then v else st.lay.firstUse v
  match scalePlan s t n st k max with
  | some p => some p
  | none =>
    if st.srcE = .bxz then blockPlan s t n st v max
    else if st.dstE = .bxz then entryPlan s t st (k / tdCount st.dstTd 0)
    else none

/-- The request that begins at visit `v`, at most `max` bytes; of interleaved planes at most 128 (R125). -/
def dataPlan (s : State) (t n : Nat) (st : Stream) (v max : Nat) : Plan :=
  match st.item s.genNow v with
  | none => .idle
  | some it =>
    let sb := s.atBase it.base
    match rangeErr sb t it.addr ((it.bit + it.bits + 7) / 8) with
    | some e => .err .read (.read, it.pos) e.1 stPermission e.2 it.wpc
    | none =>
      let most := if !st.ruse && decide (st.lay.mode = .alt) then min max 128 else max
      let b := rbGrow s t n st most 8192 (rbStart sb t v (if v = st.rdPos then st.rdSkip else 0) it)
      let r := byteSpan b.a0 b.lo b.hi
      let base := b.lo / 8 * 8
      .req r.1 r.2
        (if b.blocks.isEmpty then .elems (b.elems.map (fun e => (e.1, e.2 - base)))
         else .blocks (b.blocks.map (fun e => (e.1, e.2.1 - base / 8, e.2.2))))
        .read it.pos b.next b.skip

/-- The output elements that remain need something that no data read brings: the scale records or index entry of the
next output element when its data is padding or already read. -/
def restPlan (s : State) (t n : Nat) (st : Stream) (max : Nat) : Plan :=
  let k := st.outPos
  let more := match st.avail, st.limit with
    | some m, none => decide (k < m)
    | some m, some l => decide (k < m) && decide (k < l)
    | none, _ => false
  if !more then .idle
  else
    match scalePlan s t n st k max with
    | some p => p
    | none => if st.dstE = .bxz then (entryPlan s t st (k / tdCount st.dstTd 0)).getD .idle else .idle

/-- What the read walker does next for a stream, within `max` bytes. -/
def readPlan (s : State) (t n : Nat) (st : Stream) (max : Nat) : Plan :=
  match sideFix s t st with
  | some p => p
  | none =>
  match nextVisit st (st.visitEnd + 1 - st.rdPos) st.rdPos with
  | none => restPlan s t n st max
  | some v =>
    match beforeData s t n st v max with
    | some p => p
    | none => dataPlan s t n st v max

/-- A read brings element or block data. -/
def ReadWhat.isData : ReadWhat → Bool
  | .elems _ => true
  | .blocks _ => true
  | _ => false

/-- The slice has room for the whole response of a request, beside what is kept free of it; data from after the two bands finds none
in theirs (R26, R121, R124). -/
def fitsSlice (x : Tile) (n : Nat) (st : Stream) : Plan → Bool
  | .req _ len w _ _ next _ =>
    decide (len + st.keptFree + (if w.isData && decide (st.bandsEnd < next) then st.bandFree else 0) ≤ roomOf x n st)
  | _ => true

/-- A read of what the next data waits for, which fits in the slice with what was kept free for it. -/
def fitsKept (x : Tile) (n : Nat) (st : Stream) : Plan → Bool
  | .req _ len w _ _ _ _ => !w.isData && decide (len ≤ roomOf x n st)
  | _ => true

/-- The plan that the slice has room for: the whole request, or, where nothing else can free the slice, as much of it
as fits (R26, R121). -/
def roomPlan (s : State) (t n : Nat) (st : Stream) : Plan :=
  let x := s.tile t
  let p := readPlan s t n st 4096
  if fitsSlice x n st p then p
  else if st.outstanding.isEmpty && !st.groupReady st.outPos then
    let room := roomOf x n st - st.keptFree
    let small := readPlan s t n st 64
    if fitsKept x n st small then small
    else (([room, room - st.bandFree, 1].map (fun k => readPlan s t n st (Nat.max 1 k))).find? (fitsSlice x n st)).getD .idle
  else .idle

/-- A stream requests the read walker. -/
def wantsRead (s : State) (t n : Nat) (st : Stream) : Bool :=
  st.live && (match roomPlan s t n st with
    | .idle => false
    | _ => true)

/-! ## Sending a request -/

/-- The side and position at which a failed read stops the stream: scale records serve elements that leave stage 5. -/
def ReadReq.bound (r : ReadReq) : Side × Nat :=
  match r.what with
  | .scales _ => (.write, r.pos)
  | _ => (r.side, r.pos)

/-- Where a data request travels, by its address and the address's window offset: the bank of its first byte, or its system
port. -/
def dataRoute (s : State) (t : Nat) (a : DWord) (off : Option Nat) : Node × List Point :=
  match off with
  | some o => (.tile (o / slotBytes), [bankOf s o])
  | none =>
    let p := portOf s (some t) a
    (.sysPort p, [.sysPort p])

/-- What the address of a request was generated under: for a walker program's data what its emission was, else what holds now (R292). -/
def Stream.reqBase (s : State) (st : Stream) (what : ReadWhat) (v : Nat) : GenAt :=
  if what.isData then ((st.item s.genNow v).map (·.base)).getD s.genNow else s.genNow

/-- Issue a read request: the read walker's position moves past it. -/
def sendRead (s : State) (t n : Nat) (st : Stream) (addr : DWord) (len : Nat) (what : ReadWhat) (side : Side)
    (pos next skip : Nat) : State :=
  let r : ReadReq :=
    { id := st.nextId, tile := t, stream := n, src := st.src, ord := st.ord, epoch := st.epoch, addr := addr
      off := windowOff (s.atBase (st.reqBase s what pos)) addr
      len := len, what := what, side := side, pos := pos, nonidem := tdNonidem st.srcTd, part := partOf s t }
  let st1 := { st with
    nextId := st.nextId + 1, rdPos := next, rdSkip := skip, outstanding := st.outstanding ++ [r]
    scaleNext := (match what with
      | .scales rs => st.scaleNext + rs.length
      | _ => st.scaleNext)
    tLaunch := if st.firstSent then st.tLaunch else localTime s
    firstSent := true
    rdRuns := st.rdRuns.filter (fun q => decide (st.outPos < q.first + q.n)) }
  let d := dataRoute s t addr r.off
  post (s.setStream t n st1) .request (.tile t) d.1 d.2 (slackOf s st true) (prioOf (s.tile t) n) 1 (.rd r)

/-! ## Landing -/

/-- Bits `w` at a bit offset of bytes; bits outside read 0. -/
def bitsAt (v nbits : Nat) (off : Int) (w : Nat) : Nat :=
  let m := v % 2 ^ nbits
  if 0 ≤ off then (m >>> off.toNat) % 2 ^ w else (m <<< (-off).toNat) % 2 ^ w

/-- Bytes copied into a block at an offset. -/
def blend (old : List Byte) (off : Int) (data : List Byte) : List Byte :=
  old.zipIdx.map (fun p =>
    let i : Int := (p.2 : Int) + off
    if 0 ≤ i ∧ i < data.length then data.getD i.toNat p.1 else p.1)

/-- Data of a read request lands in the stream's slice. -/
def landData (st : Stream) (r : ReadReq) (data : List Byte) : Stream :=
  let st := { st with outstanding := st.outstanding.filter (fun q => decide (q.id ≠ r.id)) }
  let v := ofBytes data
  let nb := 8 * data.length
  match r.what with
  | .elems es =>
    { st with staged := es.foldl (fun tb e =>
        Tab.put tb e.1 (Tab.get tb 0 e.1 ||| BitVec.ofNat 32 (bitsAt v nb e.2 st.srcE.width))) st.staged }
  | .blocks bs =>
    { st with blocks := bs.foldl (fun tb b =>
        Tab.put tb b.1 (blend ((Tab.find tb b.1).getD (List.replicate b.2.2 0)) b.2.1 data)) st.blocks }
  | .scales rs =>
    let rb := recBytes st.od
    let sc := rs.foldl (fun tb e => Tab.put tb e.1 (BitVec.ofNat 64 (bitsAt v nb (8 * e.2) (8 * rb)))) st.scales
    { st with scales := sc
              t0 := if st.t0.isSome then st.t0
                    else (Tab.find sc 0).map (fun w => if rb = 8 then fld w 63 48 else fld w 31 16) }
  | .header row b =>
    let sum := Tab.get st.decSum 0 (row * 65536 + b)
    { st with decSum := if b + 1 < 65536 then Tab.put st.decSum (row * 65536 + b + 1) (sum + (bxHdr data).escn) else st.decSum }
  | .entry row =>
    { st with entries := Tab.put st.entries row (BitVec.ofNat 64 (bitsAt v nb 0 64), BitVec.ofNat 64 (bitsAt v nb 64 64)) }
  | .sideList row first k =>
    { st with sideEnts := (List.range k).foldl (fun tb i =>
        Tab.put tb (row * 65536 + first + i) (BitVec.ofNat 64 (bitsAt v nb (64 * i) 64))) st.sideEnts }

end Sys2Proof.Machine
end

