-- ==== Sys2Proof/Machine/Datapath.lean ====
section
/-! DEFINITION. Stages 2 to 8 of a stream (R27): decode of landed blocks with their checks (R144, R145, R205–R209), the
record checks (R166–R168), the transform's element values (R109–R115), conversion and encode, and the counts
(R177–R180). -/

namespace Sys2Proof.Machine

/-! ## Decode (stage 2) -/

/-- Number of a PRB within its row of a descriptor walk, or within its run of a walker program. -/
def Stream.prbIndex (st : Stream) (v : Nat) : Nat :=
  if st.ruse then
    match st.rdRuns.find? (fun r => decide (r.first ≤ v) && decide (v < r.first + r.n)) with
    | some r => (v - r.first) / 12
    | none => 0
  else (((st.lay.srcAt v).getD []).headD 0) / 12

/-- Index of a visit's element within its block. -/
def Stream.inBlock (st : Stream) (v : Nat) : Nat :=
  let n := st.srcE.blockN
  if st.ruse then v % n else (((st.lay.srcAt v).getD []).headD 0) % n

/-- The elements of a decoded block enter staging; the block leaves it. -/
def Stream.stageBlock (st : Stream) (b : Nat) (es : List Word) : Stream :=
  { st with
    staged := (List.range (st.cover b)).foldl (fun tb i => Tab.put tb (b + i) (es.getD (st.inBlock (b + i)) 0)) st.staged
    blocks := Tab.erase st.blocks b }

/-- Saturations of the components that a decode at visit `b` brings: those of its elements, and of a row that is read twice those of
the plane that is read, so that each result counts once however often its PRB is read (R144). -/
def Stream.prbSats (st : Stream) (b : Nat) (sats : List (Nat × Nat)) : Nat :=
  ((List.range (st.cover b)).map (fun i =>
    let p := sats.getD (st.inBlock (b + i)) (0, 0)
    if st.ruse || !st.lay.readsTwice then p.1 + p.2 else if st.lay.planeOf (b + i) = 0 then p.1 else p.2)).sum

/-- Decode a PRB (R144, R145). -/
def decodePrb (s : State) (t n : Nat) (st : Stream) (b : Nat) (bs : List Byte) : State :=
  let it := st.item s.genNow b
  let pos := ((it.map (·.pos)).getD b) / 12 * 12
  if prbBad st.srcE bs then
    let a := (it.map (·.addr)).getD 0
    let s := s.setTile t (captureBx (s.tile t) false n 0x5 stBadFormat a 0 0 (st.prbIndex b))
    s.setStream t n (stopAt st .read pos stBadFormat a)
  else
    let d := prbDecode st.srcE bs
    let k := st.prbSats b d.2
    let st := { st.stageBlock b d.1 with hasSat := st.hasSat || decide (0 < k) }
    countEvents (s.setStream t n st) t n k 0

/-- Side-list entries of a block that are in staging. -/
def Stream.blockEnts (st : Stream) (row : Nat) (h : BxHdr) : List DWord :=
  (List.range h.escn).filterMap (fun i => Tab.find st.sideEnts (row * 65536 + h.sloff + i))

/-- Running ESCN sum before block `j` of a row: from the blocks decoded before it, or from their headers where it comes before
them (log 10). -/
def Stream.sumAt (st : Stream) (row j : Nat) : Option Nat :=
  if j = 0 then some 0 else Tab.find st.decSum (row * 65536 + j)

/-- Decode a BXZ block (R205–R207). -/
def decodeBxz (s : State) (t n : Nat) (st : Stream) (b : Nat) (bs : List Byte) : State :=
  match st.bxOf b with
  | none => s
  | some (row, j, g) =>
    let h := bxHdr bs
    let ents := st.blockEnts row h
    match bxCheck bs j g.rate g.sideLen (st.sumAt row j) ents with
    | some (code, cause) =>
      let s := s.setTile t (captureBx (s.tile t) false n cause code (st.entryAddr row) h.rate h.escn j)
      s.setStream t n (stopAt st .read (row * tdCount st.srcTd 0 + 64 * j) code 0)
    | none =>
      let small := decide (h.rate < g.rate)
      let sum := h.sloff + h.escn
      let st := st.stageBlock b (bxDecode bs j ents)
      let st := { st with
        undersize := st.undersize || small
        decSum := if j + 1 < 65536 then Tab.put (Tab.put st.decSum (row * 65536 + j) h.sloff) (row * 65536 + j + 1) sum
                  else st.decSum
        sideEnts := st.sideEnts.filter (fun p => !(decide (row * 65536 ≤ p.1) && decide (p.1 < row * 65536 + h.sloff))) }
      let s := s.setStream t n st
      if small then s.setTile t { s.tile t with bxUnder := satInc (s.tile t).bxUnder } else s

/-- Decode the landed block that visit `v` needs, where its element is not in staging yet. -/
def decodeFor (s : State) (t n v : Nat) : State :=
  match s.stream? t n with
  | none => s
  | some st =>
    let c := if st.ruse then v else st.lay.canon v
    if (Tab.find st.staged c).isSome then s
    else
      match st.blockFor c with
      | none => s
      | some b => if st.srcE = .bxz then decodeBxz s t n st b.1 b.2 else decodePrb s t n st b.1 b.2

/-! ## Record checks -/

/-- Record `r` fails the check of R166 or R168: its SEQ, and whether the sequence mismatches. -/
def Stream.badRecord (st : Stream) (r : Nat) : Option (Nat × Bool) :=
  match Tab.find st.scales r with
  | none => none
  | some w =>
    let seq := if oReq st.od then fld w 63 48 else fld w 31 16
    if seq ≠ (st.t0.getD 0 + r) % 65536 then some (seq, true)
    else if oReq st.od && decide (recS w = 63) then some (seq, false)
    else none

/-- Check the records that a group of output elements uses: the whole table for channels. -/
def checkRecords (s : State) (t n : Nat) (st : Stream) (ks : List Nat) : State :=
  if !st.readsScale then s
  else
    let chan := decide (oSgran st.od = 2)
    let rs := if chan then List.range (tdN st.scaleTd) else ks.map st.recordOf
    match rs.findSome? (fun r => (st.badRecord r).map (fun x => (r, x))) with
    | none => s
    | some (r, seq, mism) =>
      let s := if mism then s.setTile t (captureScale (s.tile t) chan n seq r) else s
      s.setStream t n (stopAt st .write (st.recordPos r) (if mism then stScaleSeq else stMalformed) 0)

/-- An encode at a rate above the row's declared rate fails at the row's block 0 (R203). -/
def checkRate (s : State) (t n : Nat) (st : Stream) (k : Nat) : State :=
  if st.dstE ≠ .bxz then s
  else
    let c := tdCount st.dstTd 0
    match st.entryOf (k / c) with
    | none => s
    | some g =>
      if g.rate < oRate st.od then
        let s := s.setTile t (captureBx (s.tile t) true n 0xA stOversize (st.entryAddr (k / c)) 0 0 0)
        s.setStream t n (stopAt st .write (k / c * c) stOversize 0)
      else s

/-! ## Values leaving stage 5 -/

/-- Element that a visit brings, or PADVAL (R109, R110). -/
def Stream.visitVal (st : Stream) (v : Nat) : Nat :=
  if !st.ruse && (st.lay.srcAt v).isNone then (oPadval st.od).toNat
  else (Tab.get st.staged 0 (if st.ruse then v else st.lay.canon v)).toNat

/-- Element `k` of the tensor leaving stage 5 (R111–R114). -/
def Stream.valueAt (st : Stream) (k : Nat) : Nat :=
  if st.ruse then st.visitVal k
  else
    let w := st.srcE.decoded.width
    let l := st.lay
    match l.needs k with
    | [v] =>
      let x := st.visitVal v
      if l.cplx = 1 then (if (l.splitOf k).2 = 0 then x % 2 ^ (w / 2) else x / 2 ^ (w / 2)) else x
    | a :: b :: _ => st.visitVal a + st.visitVal b * 2 ^ w
    | [] => 0

/-! ## A group through stages 6 to 8 -/

/-- What the arithmetic and codec lanes need of a stream. -/
def Stream.laneCtx (st : Stream) : LaneCtx :=
  let o := st.od
  { i := st.inE, d := st.dstE, od := o
    pass := decide (st.inE = st.dstE) && !st.srcE.isBlock && !st.dstE.isBlock && !oReq o && !oEsc o && !oAuto o
      && decide (oSgran o = 0)
    mxSrc := st.srcE.isMx
    record := fun k => if st.readsScale then Tab.find st.scales (st.recordOf k) else none
    sideBase := tdBase st.sideTd, sideCap := tdCount st.sideTd 0, row := tdCount st.dstTd 0 }

/-- Convert and encode a group. -/
def Stream.laneRun (st : Stream) (ks rs : List Nat) : LaneOut :=
  let c := st.laneCtx
  let xs := ks.map (fun k => (k, st.valueAt k))
  let k0 := ks.headD 0
  if st.dstE.isFronthaul then lanePrb c st.esc xs rs
  else
    match st.dstE with
    | .bxz =>
      let row := k0 / tdCount st.dstTd 0
      (match st.entryOf row with
       | some g => laneBxz c g (st.entryAddr row) st.esc xs rs
       | none => { units := [], pos := st.esc, evs := [], full := 0, esc := 0 })
    | _ =>
      let auto := if oAuto st.od then some (k0 / (if oReq st.od then oBlkN st.od else 32)) else none
      laneElems c auto st.outFrom st.esc xs rs

/-- Rows whose index entry is still needed: on a decoding side those of blocks that have landed or are outstanding, of the next
visit, and of the next output; on an encoding side those of the output not placed yet and all after it. -/
def Stream.needsRow (st : Stream) (row : Nat) : Bool :=
  if st.srcE = .bxz then
    let c := tdCount st.srcTd 0
    let at_ := fun v => decide ((st.lay.elemAt v).map (· / c) = some row)
    st.blocks.any (fun b => at_ b.1) || st.outstanding.any (fun r => r.firstVisit.any at_)
      || (nextVisit st (st.visitEnd + 1 - st.rdPos) st.rdPos).any at_ || (st.lay.needs st.outPos).any at_
  else
    let k := match st.outQ with
      | u :: _ => u.k
      | [] => st.outPos
    decide (k / Nat.max 1 (tdCount st.dstTd 0) ≤ row)

/-- Free what no later output element uses (R121), with the index and side-list entries of rows that are done. -/
def Stream.freeUsed (st : Stream) : Stream :=
  let dead := fun v => decide ((if st.ruse then v else st.lay.lastUse v) < st.outPos)
  let st := { st with
    staged := st.staged.filter (fun p => !dead p.1)
    blocks := st.blocks.filter (fun b => !(List.range (max 1 (st.cover b.1))).all (fun i => dead (b.1 + i)))
    scales := if oSgran st.od = 3 then st.scales.filter (fun p => decide (st.recordOf st.outPos ≤ p.1)) else st.scales }
  let held : List Nat := st.entries.map (fun p => p.1) ++ st.sideEnts.map (fun p => p.1 / 65536)
  let rows := held.eraseDups.filter (fun r => st.needsRow r)
  { st with entries := st.entries.filter (fun p => rows.contains p.1)
            sideEnts := st.sideEnts.filter (fun p => rows.contains (p.1 / 65536)) }

/-- Set SIDEFULL once for each refused outlier (R175, R180). -/
def noteFull (x : Tile) (n : Nat) : Nat → Tile
  | 0 => x
  | k + 1 => noteFull (setCal x 0 n) n k

/-- A group of output elements passes stages 6 to 8. On a redo that begins inside an AUTO block the elements of the block that were
written before are converted again, and advance their generators again; they are counted and written no more (R153 is silent; DESIGN
CHOICE, log 133). -/
def runGroup (s : State) (t n : Nat) (st : Stream) (ks : List Nat) : State :=
  let x := s.tile t
  let dr := drawStates st.od x.lfsr ks
  let o := st.laneRun ks dr.2
  let st1 := { st with outPos := st.outPos + ks.length, outQ := st.outQ ++ o.units, esc := o.pos
                       hasSat := st.hasSat || o.evs.any (fun e => decide (0 < e.1)) }
  let x : Tile := { x with lfsr := dr.1, bxEsc := satAdd x.bxEsc o.esc }
  let x := noteFull x n o.full
  let s := (s.setTile t x).setStream t n st1.freeUsed
  countElems s t n (ks.filter (fun k => decide (st.outFrom ≤ k))).length o.evs

/-- The calibration window of a stream is full: its counts return to 0 before the next row. -/
def windowFull (x : Tile) (n : Nat) : Bool := decide (calWin x ≤ (Tab.get x.windows Window.init n).elems)

/-- One group of a row; the answer says whether it passed. -/
def stepGroup (s : State) (t n : Nat) : State × Bool :=
  match s.stream? t n with
  | none => (s, false)
  | some st =>
    if windowFull (s.tile t) n || !st.groupReady st.outPos then (s, false)
    else
      let ks := st.groupAt st.outPos
      let s := (ks.flatMap st.needs).foldl (fun s v => decodeFor s t n v) s
      match s.stream? t n with
      | none => (s, false)
      | some st1 =>
        if !st1.groupReady st1.outPos then (s, true)
        else
          let s := checkRecords s t n st1 ks
          let s := match s.stream? t n with
            | some st2 => checkRate s t n st2 st1.outPos
            | none => s
          match s.stream? t n with
          | none => (s, false)
          | some st3 => if st3.groupReady st3.outPos then (runGroup s t n st3 ks, true) else (s, true)

/-- Groups of one 128 B row. -/
def stepRow (s : State) (t n : Nat) : Nat → State
  | 0 => s
  | fuel + 1 =>
    let r := stepGroup s t n
    if r.2 then stepRow r.1 t n fuel else r.1

/-- Groups of a stream that pass in one cycle (R155, R156, R210). -/
def Stream.rowGroups (st : Stream) : Nat :=
  let r := laneRate st.srcE st.dstE st.od
  max 1 (r.1 / max 1 r.2 / st.group)

/-- The BXZ codec lane that a stream needs is off (R402). -/
def laneOff (s : State) (t : Nat) (st : Stream) : Bool :=
  (st.srcE.isBlock || st.dstE.isBlock) && !s.active (GenConfig.domBxz s.gen t)

/-- A stream requests the datapath. -/
def wantsRow (s : State) (t n : Nat) (st : Stream) : Bool :=
  st.live && !windowFull (s.tile t) n && st.groupReady st.outPos
    && !(laneOff s t st && decide ((s.dom (GenConfig.domBxz s.gen t)).state = .reset))

end Sys2Proof.Machine
end

