-- ==== Sys2Proof/Machine/Writes.lean ====
section
/-! DEFINITION. The write side of a stream: addresses of output units, chunks (R100–R103), side lists and records
(R169, R176), requests (R96–R98), the journal (R102, R419), accumulate reservations (R182) and the last flit with its
signal (R249). -/

namespace Sys2Proof.Machine

/-! ## Addresses -/

/-- Bytes of an output unit. -/
def Stream.unitBytes (st : Stream) : Nat :=
  let d := st.dstE
  match d with
  | .bxz => blockBytes (oRate st.od)
  | _ => if d.isFronthaul then prbBytes d.compW else packOf d.width * d.width / 8

/-- Elements of an output unit. -/
def Stream.unitLen (st : Stream) : Nat :=
  if st.dstE.isFronthaul then 12 else if st.dstE = .bxz then 64 else packOf st.dstE.width

/-- Where a unit is written: its address, whether a circular wrap precedes it, the walker program counter, and what the address was
generated under (R292). -/
structure Place where
  addr : DWord
  wrap : Bool
  wpc : Nat
  base : GenAt

/-- Where the unit that begins at element `k` is written, generated under `base`. None while it is not known. -/
def Stream.wrPlace (st : Stream) (base : GenAt) (k : Nat) : Option Place :=
  let d := st.dstE
  if d = .bxz then
    let c := tdCount st.dstTd 0
    (st.entryOf (k / c)).map (fun g =>
      { addr := g.blockAddr (st.entryAddr (k / c)) (k % c / 64), wrap := false, wpc := 0, base := base })
  else if st.wuse then
    (st.wrRuns.find? (fun r => decide (r.first ≤ k) && decide (k < r.first + r.n))).map (fun r =>
      let i := k - r.first
      { addr := r.addr + BitVec.ofNat 64 (if d.isFronthaul then i / 12 * prbBytes d.compW else i * d.width / 8)
        wrap := r.wrap && decide (i = 0), wpc := r.wpc, base := r.base })
  else
    let cs := tdCounts st.dstTd
    let idx := unrank cs k
    let wr := decide (0 < k) && wrapsFrom st.dstTd (unrank cs (k - 1)) idx
    some { addr := if d.isFronthaul then prbPlace st.dstTd st.wrBase d idx else (elemPlace st.dstTd st.wrBase d idx).1
           wrap := wr, wpc := 0, base := base }

/-- A sub-byte row of a descriptor walk that crosses an endpoint (R101), checked at its first element. -/
def rowCrosses (s : State) (t : Nat) (st : Stream) (k : Nat) (a : DWord) : Bool :=
  let w := st.dstE.width
  let c := tdCount st.dstTd 0
  !st.wuse && !st.dstE.isBlock && decide (w < 8) && decide (k % c = 0) && !oneEndpoint s t a (c * w / 8)

/-- The address error of a unit, with its side list entries and records: CAUSE, code and address. -/
def unitErr (s : State) (t : Nat) (st : Stream) (u : OutUnit) (a : DWord) (base : GenAt) : Option (Nat × Nat × DWord) :=
  match rangeErr (s.atBase base) t a u.data.length with
  | some e => some (e.1, stPermission, e.2)
  | none =>
    if rowCrosses (s.atBase base) t st u.k a then some (1, stMalformed, a)
    else
      match u.side.findSome? (fun p => rangeErr s t p.1 8) with
      | some e => some (e.1, stPermission, e.2)
      | none =>
        (u.recs.findSome? (fun p => rangeErr s t (st.recordAddr p.1) p.2.length)).map (fun e =>
          (e.1, stPermission, e.2))

/-! ## Pieces -/

/-- Split a range at 4 KiB boundaries and at endpoints (log 26); `fuel` bounds the pieces. -/
def splitPiece (s : State) (t : Nat) : Nat → Piece → List Piece
  | 0, p => [p]
  | fuel + 1, p =>
    if oneRange (s.atBase p.base) t (p.addr, p.data.length) then [p]
    else
      let n := min p.data.length (toPageEnd p.addr)
      { p with data := p.data.take n }
        :: splitPiece s t fuel { p with addr := p.addr + BitVec.ofNat 64 n, data := p.data.drop n, wrap := false }

/-- Join a piece to the one before it, where R97 lets one request cover both. -/
def joinPiece (s : State) (t : Nat) (a b : Piece) : Option Piece :=
  let n := a.data.length + b.data.length
  let s := s.atBase a.base
  if b.wrap ∨ b.base.win ≠ a.base.win ∨ 4096 < n then none
  else if b.addr = a.addr + BitVec.ofNat 64 a.data.length ∧ oneRange s t (a.addr, n) then
    some { a with data := a.data ++ b.data }
  else if a.addr = b.addr + BitVec.ofNat 64 b.data.length ∧ oneRange s t (b.addr, n) then
    some { a with addr := b.addr, data := b.data ++ a.data }
  else none

/-- Join the pieces of a list from the first on. -/
def joinPieces (s : State) (t : Nat) : Piece → List Piece → List Piece
  | a, [] => [a]
  | a, b :: bs =>
    match joinPiece s t a b with
    | some c => joinPieces s t c bs
    | none => a :: joinPieces s t b bs

/-- The requests of a chunk's ranges. -/
def mergePieces (s : State) (t : Nat) (ps : List Piece) : List Piece :=
  match ps.flatMap (splitPiece s t 4) with
  | [] => []
  | a :: as => joinPieces s t a as

/-- Cut the last flit off a piece made of blocks of `b` bytes (R98): what comes before it, and the flit, with the whole of the blocks
that it holds part of (R83). -/
def cutLast (b : Nat) (p : Piece) : List Piece × Piece :=
  let len := p.data.length
  let e := p.addr.toNat + len
  let tail := e - max p.addr.toNat ((e - 1) / 128 * 128)
  let n := len - ceilDiv tail b * b
  if n = 0 then ([], p)
  else
    ([{ p with data := p.data.take n }]
     , { p with addr := p.addr + BitVec.ofNat 64 n, data := p.data.drop n, wrap := false })

/-! ## Chunks -/

/-- The side list of a stream and the terminator that ends it (R174). -/
def Stream.endsList (st : Stream) : Bool := oEsc st.od && decide (st.dstE ≠ .bxz)

/-- Close a chunk: its requests are made up, and its last flit is set apart. -/
def closeChunk (s : State) (t : Nat) (st : Stream) (isLast : Bool) (c : Chunk) : Chunk :=
  let ps := mergePieces s t c.todo
  let cut : List Piece × Option Piece :=
    if oAcc st.od then (ps, none)
    else
      match ps.getLast? with
      | none => ([], none)
      | some p =>
        let q := cutLast (if st.dstE.isBlock then st.unitBytes else 1) p
        (ps.dropLast ++ q.1, some q.2)
  let term := if isLast && st.endsList then
      (let e := terminator (tdBase st.sideTd) st.esc.side
       [{ addr := e.1, data := toBytes 8 e.2.toNat, pos := c.kEnd - 1, wrap := false
          base := s.genNow : Piece }])
    else []
  { c with todo := cut.1, last := cut.2, extra := mergePieces s t (c.extra ++ term), closed := true, isLast := isLast
           wantSignal := decide (iSigmode st.line = 2) || (decide (iSigmode st.line = 1) && isLast) }

/-- Close the open chunk, if there is one. -/
def closeOpen (s : State) (t : Nat) (st : Stream) (isLast : Bool) : Stream :=
  { st with chunks := st.chunks.map (fun c => if c.closed then c else closeChunk s t st isLast c) }

/-- The open chunk of a stream. -/
def Stream.openChunk (st : Stream) : Option Chunk := st.chunks.find? (fun c => !c.closed)

/-- A unit of `b` bytes at endpoint `ep` begins a new chunk after chunk `c` (R100). -/
def startsNew (st : Stream) (c : Chunk) (ep : Endpoint) (b : Nat) : Bool :=
  decide (oChunkBytes st.od < c.bytes + b) || decide (c.endpoint ≠ ep)

/-- State of the write walker that restarts at element `k`: before the emission of the run that holds it. -/
def Stream.wrAt (st : Stream) (k : Nat) : Walker :=
  match (st.wrMarks.filter (fun m => decide (m.1 ≤ k))).getLast? with
  | some m => m.2
  | none => st.wr

/-- Some output element from `k` up to `e`, or one that is converted together with one of them, needs a read (R419): padding
that takes the constant value needs none. -/
def Stream.readsFor (st : Stream) (k e : Nat) : Bool :=
  st.ruse || (let a := k / st.group * st.group
              (List.range (ceilDiv e st.group * st.group - a)).any (fun i =>
                (st.lay.needs (a + i)).any (fun v => (st.lay.elemAt v).isSome)))

/-- Place a unit in the open chunk, or in a new one that takes the sequence number `seq` (R419). -/
def addUnit (s : State) (t : Nat) (st : Stream) (seq : Word) (u : OutUnit) (a : DWord) (pl : Place) : Stream × Word :=
  let ep := endpointOf (s.atBase pl.base) t a
  let b := u.data.length
  let p : Piece := { addr := a, data := u.data, pos := u.k, wrap := pl.wrap, base := pl.base }
  let own := s.genNow
  let extra : List Piece :=
    u.side.map (fun e => { addr := e.1, data := toBytes 8 e.2.toNat, pos := u.k, wrap := false, base := own })
    ++ u.recs.map (fun r => { addr := st.recordAddr r.1, data := r.2, pos := u.k, wrap := false, base := own })
  let grow := match st.openChunk with
    | some c => !startsNew st c ep b
    | none => false
  let st := { st with outQ := st.outQ.drop 1 }
  if grow then
    ({ st with chunks := st.chunks.map (fun c => if c.closed then c
        else { c with kEnd := u.k + u.n, bytes := c.bytes + b, todo := c.todo ++ [p], extra := c.extra ++ extra
                      nonidem := c.nonidem || (tdNonidem st.srcTd && st.readsFor u.k (u.k + u.n)) }) }, seq)
  else
    let st := closeOpen s t st false
    let c : Chunk :=
      { idx := st.nextChunk, seq := seq, mark := { k0 := u.k, esc := u.pos, wr := st.wrAt u.k }, kEnd := u.k + u.n
        bytes := b, endpoint := ep, todo := [p], extra := extra, last := none, closed := false, journal := st.kept
        reserved := false, unacked := 0, lastSent := false, isLast := false, wantSignal := false, acked := false
        nonidem := tdNonidem st.srcTd && st.readsFor u.k (u.k + u.n), addr := a, base := pl.base, lostApply := false }
    ({ st with chunks := st.chunks ++ [c], nextChunk := st.nextChunk + 1, kept := false }, seq + 1)

/-- What placing units gives: the stream and the next sequence number, with the error that stopped it. -/
structure Placed where
  st : Stream
  seq : Word
  err : Option (Nat × Nat × Nat × DWord × Nat)

/-- Place the output units whose addresses are known; `fuel` bounds them. -/
def placeUnits (s : State) (t : Nat) : Nat → Stream → Word → Placed
  | 0, st, seq => { st := st, seq := seq, err := none }
  | fuel + 1, st, seq =>
    match st.outQ with
    | [] => { st := st, seq := seq, err := none }
    | u :: _ =>
      match st.wrPlace s.genNow u.k with
      | none => { st := st, seq := seq, err := none }
      | some pl =>
        let a := u.addr.getD pl.addr
        match unitErr s t st u a pl.base with
        | some e => { st := { st with outQ := [] }, seq := seq, err := some (u.k, e.1, e.2.1, e.2.2, pl.wpc) }
        | none =>
          let r := addUnit s t st seq u a pl
          placeUnits s t fuel r.1 r.2

/-- The next output element that has not been placed. -/
def Stream.nextPlace (st : Stream) : Nat :=
  match st.outQ with
  | u :: _ => u.k
  | [] => st.outPos

/-- The blocked element `k` would begin a new chunk after the open one, or no element is left there. Its place is that which the
write walker has given it, or that of its own error there (R107). -/
def endsBefore (s : State) (t : Nat) (st : Stream) (c : Chunk) (k : Nat) : Bool :=
  decide (st.wrTotal = some k) || decide (oChunkBytes st.od < c.bytes + st.unitBytes)
  || (match st.wrPlace s.genNow k with
      | some pl => startsNew st c (endpointOf (s.atBase pl.base) t pl.addr) st.unitBytes
      | none => st.stop.any (fun x => decide (x.side = .write) && x.bounds.contains (.write, k) && decide (x.addr ≠ 0)
          && startsNew st c (endpointOf s t x.addr) st.unitBytes))

/-- The place of the blocked element `k` is still to come: the write walker goes on to it. -/
def Stream.placeComing (st : Stream) (k : Nat) : Bool :=
  st.openChunk.isSome && st.walks .write && (st.wrPlace { win := 0, parts := [] } k).isNone

/-- Close the open chunk where no element is added to it any more. -/
def closeDone (s : State) (t : Nat) (st : Stream) : Stream :=
  match st.openChunk with
  | none => st
  | some c =>
    match st.limit with
    | none => if st.total = some st.nextPlace then closeOpen s t st true else st
    | some l => if l ≤ st.nextPlace ∧ endsBefore s t st c l then closeOpen s t st false else st

/-- An address error of the terminator, at the last element. -/
def termErr (s : State) (t : Nat) (st : Stream) : Option (Nat × Nat × Nat × DWord × Nat) :=
  if st.endsList ∧ st.stop = none ∧ st.total = some st.nextPlace ∧ st.openChunk ≠ none then
    (rangeErr s t (terminator (tdBase st.sideTd) st.esc.side).1 8).map (fun e =>
      (st.nextPlace - 1, e.1, stPermission, e.2, 0))
  else none

/-- The write walker's bookkeeping: units placed, chunks closed. -/
def placeAll (s : State) (t n : Nat) (st : Stream) : Placed :=
  let p := placeUnits s t st.outQ.length st (Tab.get (s.tile t).seqNo 0 n)
  match p.err with
  | some _ => p
  | none =>
    match termErr s t p.st with
    | some e => { p with err := some e }
    | none => { p with st := closeDone s t p.st }

/-! ## The journal and the accumulate buffer -/

/-- Journal entries of a tile in use (R102). -/
def journalUsed (x : Tile) : Nat :=
  (x.streams.map (fun p => (p.2.chunks.filter (fun c => c.journal)).length + p.2.kept.toNat)).sum

/-- Bytes reserved in a bank group's accumulate buffer. -/
def accUsed (s : State) (t g : Nat) : Nat :=
  ((s.spad.acc.filter (fun r => decide (r.t = t) && decide (r.g = g))).map (fun r => r.bytes)).sum

/-- The chunk that the write walker works at: the first whose last flit has not been sent. -/
def Stream.current (st : Stream) : Option Chunk := st.chunks.find? (fun c => !c.lastSent)

/-- The current chunk may begin or go on: it holds no blocked element; it has a journal entry or there is room for one; its reservation is made or
fits in a group that does not quiesce (R400); and no write of before a restart is unacknowledged (R102, R182, R422). -/
def mayWrite (s : State) (t : Nat) (st : Stream) (c : Chunk) : Bool :=
  c.closed && (match st.limit with
      | none => true
      | some l => decide (c.kEnd ≤ l))
    && (c.journal || decide (journalUsed (s.tile t) < 64))
    && st.wrOut.all (fun w => decide (w.epoch = st.epoch))
    && (!oAcc st.od || c.reserved || (match c.endpoint with
        | .group u g => decide (accUsed s u g + c.bytes ≤ 32768)
            && decide ((s.dom (GenConfig.domSpad s.gen u)).state ≠ .quiescing)
        | .port _ => true))

/-- The next write of a stream other than a last flit: its piece, and whether it is side-list or record data. -/
def nextWrite (s : State) (t : Nat) (st : Stream) : Option (Chunk × Piece × Bool) :=
  match st.current with
  | none => none
  | some c =>
    if mayWrite s t st c then
      match c.todo, c.extra with
      | p :: _, _ => some (c, p, false)
      | [], p :: _ => some (c, p, true)
      | [], [] => none
    else none

/-! ## Sending -/

/-- The data signal of a chunk (R249, R420). -/
def signalOf (t n : Nat) (st : Stream) (c : Chunk) : Option Upd :=
  if c.wantSignal then
    some { cid := st.sigCid, express := st.sigX, value := BitVec.ofNat 32 (iSiginc st.line), scope := iScope st.line
           kind := 0, tile := t, stream := n, seq := c.seq, src := st.src, ord := st.ord, wire := 0 }
  else none

/-- Change the current chunk of a stream. -/
def Stream.setCurrent (st : Stream) (i : Nat) (f : Chunk → Chunk) : Stream :=
  { st with chunks := st.chunks.map (fun c => if c.idx = i then f c else c) }

/-- A write request of a chunk. -/
def mkWrite (s : State) (t n : Nat) (st : Stream) (c : Chunk) (p : Piece) (kind : WriteKind) (sg : Option Upd) :
    WriteReq :=
  { id := st.nextId, tile := t, stream := n, src := st.src, ord := st.ord, epoch := st.epoch, idx := c.idx, seq := c.seq
    addr := p.addr, data := p.data, kind := kind, fmt := tdFmt st.dstTd, rnd := oRnd st.od
    off := windowOff (s.atBase p.base) p.addr
    endpoint := (if kind = WriteKind.data then endpointOf (s.atBase p.base) t p.addr else c.endpoint)
    signal := sg, pos := p.pos, part := partOf s t }

/-- Put a write in flight; the stream notes it as unacknowledged. `data` says that it carries output bytes, which are counted as
written (R295). -/
def sendWrite (s : State) (t n : Nat) (st : Stream) (c : Chunk) (p : Piece) (kind : WriteKind) (data : Bool)
    (sg : Option Upd) (f : Chunk → Chunk) : State :=
  let w := mkWrite s t n st c p kind sg
  let st1 := { st with
    nextId := st.nextId + 1, wrOut := st.wrOut ++ [w]
    sigOut := if sg.isSome then st.sigOut ++ [c.seq] else st.sigOut
    written := if data then st.written + p.data.length else st.written
    tLaunch := if st.firstSent then st.tLaunch else localTime s
    firstSent := true }
  let st2 := st1.setCurrent c.idx (fun c => f { c with journal := true, unacked := c.unacked + 1 })
  let d := dataRoute s t p.addr w.off
  post (s.setStream t n st2) .request (.tile t) d.1 d.2 (slackOf s st false) (prioOf (s.tile t) n)
    (flitsOf p.addr p.data.length) (.wr w)

/-- Reserve a chunk's bytes in its bank group's accumulate buffer (R182). -/
def reserveAcc (s : State) (t n : Nat) (st : Stream) (c : Chunk) : State :=
  match c.endpoint with
  | .port _ => s
  | .group u g =>
    if c.reserved ∨ !oAcc st.od then s
    else
      { s with spad := { s.spad with acc := s.spad.acc ++
        [{ tile := t, stream := n, seq := c.seq, t := u, g := g, bytes := c.bytes, epoch := st.epoch, pieces := [] }] } }

/-- Send the next write of the current chunk. -/
def sendNext (s : State) (t n : Nat) (st : Stream) (c : Chunk) (p : Piece) (extra : Bool) : State :=
  let s := reserveAcc s t n st c
  sendWrite s t n st c p (if oAcc st.od && !extra then .addend else .data) (!extra) none (fun c =>
    { c with reserved := c.reserved || oAcc st.od
             todo := if extra then c.todo else c.todo.drop 1, extra := if extra then c.extra.drop 1 else c.extra })

/-- The last flit of the current chunk can be sent (R249, R182): everything before it is acknowledged, for a signal over
the whole instruction; and the signals of earlier chunks have been answered, so that none follows a failed one (R251). -/
def lastReady (s : State) (t : Nat) (st : Stream) : Option Chunk :=
  match st.current with
  | none => none
  | some c =>
    if mayWrite s t st c && c.todo.isEmpty && c.extra.isEmpty && decide (c.unacked = 0)
        && (!c.wantSignal || (st.wrOut.isEmpty && st.sigOut.all (fun q => decide (q = c.seq)))) then some c else none

/-- A stream requests the write walker: with its units placed it has a write to send (R293). -/
def wantsWrite (s : State) (t n : Nat) (st : Stream) : Bool :=
  let p := placeAll s t n st
  st.live && p.err.isNone && ((nextWrite s t p.st).isSome || (lastReady s t p.st).isSome)

/-- Send the last flit, or the apply command, with the chunk's signal. -/
def sendLast (s : State) (t n : Nat) (st : Stream) (c : Chunk) : State :=
  let sg := signalOf t n st c
  match c.last with
  | some p => sendWrite s t n st c p .data true sg (fun c => { c with lastSent := true, last := none })
  | none =>
    sendWrite s t n st c { addr := c.addr, data := [], pos := c.mark.k0, wrap := false, base := c.base } WriteKind.apply false sg
      (fun c => { c with lastSent := true })

end Sys2Proof.Machine
end

