-- ==== Sys2Proof/Machine/Streams.lean ====
section
/-! DEFINITION. Restart at a chunk (R103), replay (R421–R424), commit (R250, R251, R419), park and resume (R65, R66,
R328–R330), and the end of a stream (R39, R178, R206, R231–R235, R424, R430). -/

namespace Sys2Proof.Machine

/-! ## Restart (R103) -/

/-- The first output element of the first uncommitted chunk, with the escape position there. -/
def Stream.firstOpen (st : Stream) : Nat × EscPos :=
  match st.chunks with
  | c :: _ => (c.mark.k0, c.mark.esc)
  | [] =>
    match st.outQ with
    | u :: _ => (u.k, u.pos)
    | [] => (st.outPos, st.esc)

/-- Output elements are converted again from the start of the group that holds `k`. -/
def Stream.groupStart (st : Stream) (k : Nat) : Nat := k / st.group * st.group

/-- The visit at which the read side restarts for output elements from `k`. -/
def Stream.restartVisit (st : Stream) (k : Nat) : Nat :=
  if st.ruse then (if st.srcE.isBlock then k / 12 * 12 else k) else st.lay.restart k

/-- Output bytes of a chunk that have been sent. -/
def Chunk.sentBytes (c : Chunk) : Nat :=
  if c.closed then
    c.bytes - (c.todo.map (fun p => p.data.length)).sum - (c.last.map (fun p => p.data.length)).getD 0
  else 0

/-- The stream with both walkers back at the first uncommitted chunk: its state of R103, staging empty, and requests
made before counted as earlier ones. -/
def Stream.restartAt (st : Stream) : Stream :=
  let f := st.firstOpen
  let k := f.1
  let g := st.groupStart k
  let v := st.restartVisit g
  let wrW := match st.chunks with
    | c :: _ => c.mark.wr
    | [] => st.wrAt k
  let rdW := ((st.rdMarks.filter (fun m => decide (m.1 ≤ v))).getLast?).map (·.2)
  let keepTable := decide (oSgran st.od = 2) && decide (st.scales.length = tdN st.scaleTd)
  { st with
    epoch := st.epoch + 1
    written := st.written - (st.chunks.map Chunk.sentBytes).sum
    rd := rdW.getD st.rd, rdRuns := []
    rdMarks := st.rdMarks.filter (fun m => decide (m.1 < (rdW.getD st.rd).count))
    rdPos := v, rdSkip := 0, outstanding := [], oldReads := st.oldReads ++ st.outstanding, staged := [], blocks := []
    scaleNext := if keepTable then st.scaleNext else if oSgran st.od = 3 then st.recordOf g else 0
    scales := if keepTable then st.scales else []
    entries := [], sideEnts := []
    outPos := g, outFrom := k, outQ := [], esc := f.2
    wr := if st.wuse then wrW else st.wr, wrRuns := []
    wrMarks := st.wrMarks.filter (fun m => decide (m.1 < wrW.count))
    kept := (match st.chunks with
      | c :: _ => c.journal
      | [] => st.kept)
    nextChunk := (match st.chunks with
      | c :: _ => c.idx
      | [] => st.nextChunk)
    chunks := [] }

/-- The sequence number of the first uncommitted chunk. -/
def firstSeq (s : State) (t n : Nat) (st : Stream) : Word :=
  match st.chunks with
  | c :: _ => c.seq
  | [] => Tab.get (s.tile t).seqNo 0 n

/-- Discard commands for the reserved chunks of a stream (R183). Each takes the way of the chunk's apply, so that it does not
reach the bank group before one that was sent. -/
def sendDiscards (s : State) (t n : Nat) (st : Stream) : State :=
  st.chunks.foldl (fun s c =>
    if c.reserved then
      match c.endpoint with
      | .group _ _ =>
        let off := windowOff (s.atBase c.base) c.addr
        let d := dataRoute s t c.addr off
        post s .request (.tile t) d.1 d.2 (slackOf s st false) (prioOf (s.tile t) n) 1
          (.discardCmd t n c.seq c.endpoint st.epoch c.addr off)
      | .port _ => s
    else s) s

/-- Restart a stream at its first uncommitted chunk. -/
def restartStream (s : State) (t n : Nat) (st : Stream) : State :=
  let seq := firstSeq s t n st
  let s := sendDiscards s t n st
  let x := s.tile t
  (s.setTile t { x with seqNo := Tab.set x.seqNo 0 n seq }).setStream t n st.restartAt

/-! ## Replay -/

/-- The read of a visit has been performed, as far as the tile knows: its request has left. -/
def Stream.asked (st : Stream) (v : Nat) : Bool :=
  decide (v < st.rdPos) || (decide (v = st.rdPos) && decide (0 < st.rdSkip))

/-- First output element of the chunk that will hold element `k`: the units from `u` on are added to a chunk that begins at element
`a` with `bytes` at endpoint `ep` (R100). A unit whose place is not known yet is taken to lie at the same endpoint; `fuel` bounds
the units. -/
def chunkAhead (s : State) (t : Nat) (st : Stream) (k : Nat) : Nat → Nat → Nat → Option Endpoint → Nat → Nat
  | 0, a, _, _, _ => a
  | fuel + 1, a, bytes, ep, u =>
    let here := ((st.wrPlace s.genNow u).map (fun pl => endpointOf (s.atBase pl.base) t pl.addr)).orElse (fun _ => ep)
    let new := decide (oChunkBytes st.od < bytes + st.unitBytes) || (ep.isSome && decide (here ≠ ep))
    let a := if new then u else a
    if k < u + st.unitLen then a
    else chunkAhead s t st k fuel a (if new then st.unitBytes else bytes + st.unitBytes) here (u + st.unitLen)

/-- First output element of the chunk that output element `k` belongs to, made or to be made. -/
def chunkStart (s : State) (t : Nat) (st : Stream) (k : Nat) : Nat :=
  match st.chunks.find? (fun c => decide (c.mark.k0 ≤ k) && decide (k < c.kEnd)) with
  | some c => c.mark.k0
  | none =>
    let u := st.nextPlace
    if k < u then k
    else
      match st.openChunk with
      | some c => chunkAhead s t st k (k + 1 - u) c.mark.k0 c.bytes (some c.endpoint) u
      | none => chunkAhead s t st k (k + 1 - u) u 0 none u

/-- First output element of the chunk that a write belongs to. -/
def Stream.chunkOf (st : Stream) (w : WriteReq) : Nat :=
  match st.chunks.find? (fun c => decide (c.idx = w.idx)) with
  | some c => c.mark.k0
  | none => st.firstOpen.1

/-- The chunk that begins at output element `k`, or a later one, needs a read from a NONIDEM source that has been
performed (R422). -/
def Stream.readOnce (st : Stream) (k : Nat) : Bool :=
  tdNonidem st.srcTd
  && (st.chunks.any (fun c => c.nonidem && decide (k ≤ c.mark.k0))
      || (if st.ruse then st.asked k
          else (List.range (st.lay.nOut - k)).any (fun i => (st.lay.needs (k + i)).any (fun v =>
            (st.lay.elemAt v).isSome && st.asked (st.lay.canon v)))))

/-- A stream whose chunk cannot be redone ends (R183, R422). -/
def endUnredone (s : State) (t n : Nat) (st : Stream) (m : Mech) (addr : DWord) : State :=
  abortStream (klog s .unrecovered m (luTile t)
    { stream := n, code := stNotReplayable, addr := addr, seq := firstSeq s t n st }) t n stNotReplayable

/-- With the last write of before a restart answered or given up, a redo would begin: it does not where an apply among them may have
been lost (R183, R422). It is logged as the timeout that the lost apply is (DESIGN CHOICE, log 132). -/
def lostRedo (s : State) (t n : Nat) (addr : DWord) : State :=
  match s.stream? t n with
  | none => s
  | some st =>
    if st.live && st.lostApply && st.wrOut.all (fun w => decide (w.epoch = st.epoch)) then
      endUnredone s t n st .rspTimeout addr
    else s

/-- A detected fault of the chunk that holds output element `k`, and of those after it (R421): the stream's replay, or the
end that R422 gives. A chunk whose apply a reset bank group may have lost is not redone (R183). -/
def replay (s : State) (t n : Nat) (m : Mech) (addr : DWord) (k : Nat) : State :=
  match s.stream? t n with
  | none => s
  | some st =>
    if !st.live then s
    else
      let seq := firstSeq s t n st
      if st.readOnce (chunkStart s t st k) || st.lostApply || st.chunks.any (fun c => c.lostApply) then
        endUnredone s t n st m addr
      else if 2 ≤ st.replays then
        abortStream (klog s .unrecovered .replayLimit (luTile t)
          { stream := n, code := stUnrecovered, addr := addr, seq := seq }) t n stUnrecovered
      else
        let s := klog s .recovered m (luTile t) { stream := n, addr := addr, seq := seq }
        let s := { s with keeper := { s.keeper with replays := satInc s.keeper.replays } }
        let x := s.tile t
        let s := s.setTile t { x with replays := min 65535 (x.replays + 1) }
        restartStream s t n { st with replays := st.replays + 1, replayed := true }

/-- The stream of a request that a message answers: the same instruction and the same run of it. -/
def matchStream (s : State) (t n : Nat) (src : Source) (ord epoch : Nat) : Option Stream :=
  match s.stream? t n with
  | none => none
  | some st => if st.src = src ∧ st.ord = ord ∧ st.epoch = epoch then some st else none

/-! ## Commit (R250, R251, R419) -/

/-- A chunk is complete: every byte acknowledged, its last flit too, and its signal. -/
def Chunk.done (c : Chunk) : Bool := c.lastSent && decide (c.unacked = 0) && (!c.wantSignal || c.acked)

/-- Commit the first chunk of a stream when it is complete; the next in order may then follow. -/
def commitFirst (s : State) (t n : Nat) : State :=
  match s.stream? t n with
  | none => s
  | some st =>
    match st.chunks with
    | [] => s
    | c :: cs =>
      if c.done && st.abort.isNone then
        s.setStream t n { st with chunks := cs, committed := st.committed + 1, replays := 0 }
      else s

/-- The home's answer to a chunk's signal: applied, or failed with a code, which stops the stream (R251). -/
def chunkAnswer (s : State) (t n : Nat) (u : Upd) (code : Nat) : State :=
  match s.stream? t n with
  | none => s
  | some st =>
    if st.src ≠ u.src ∨ st.ord ≠ u.ord then s
    else
      let st := { st with sigOut := st.sigOut.erase u.seq }
      if code = 0 then
        s.setStream t n { st with chunks := st.chunks.map (fun c =>
          if c.seq = u.seq ∧ c.lastSent then { c with acked := true } else c) }
      else abortStream (s.setStream t n st) t n code

/-! ## The end of a stream -/

/-- The completion code of a stream that did all its work (R430). -/
def doneCode (st : Stream) (late : Bool) : Nat :=
  if late then stDoneLate
  else if st.replayed then stDoneReplayed
  else if st.undersize then stDoneUndersize
  else if st.hasSat then stDoneSaturated
  else stDone

/-- VALID of a park table entry clears (R330). -/
def clearPark (s : State) (t n : Nat) : State :=
  let k := 8 * t + n
  let p := Tab.get s.gate.park Park.init k
  { s with gate := { s.gate with park := Tab.put s.gate.park k { p with info := putBit p.info 31 false } } }

/-- Report the end of a stream's instruction, or its park: to the RESUME that waits on it, or as its own completion (R327,
R328). Of a program's a park is reported only in the park table (R330). -/
def reportEnd (s : State) (t n : Nat) (st : Stream) (c : CompArgs) : State :=
  match st.resumer with
  | none => endInstr s t st.entry st.pc c
  | some (e, tag, tEff) =>
    let s := addComp s e { c with status := stDone, rstatus := c.status, tag := tag, tl := tEff }
    if 8 ≤ c.status ∧ c.status ≠ stTranslation then
      (match st.entry with
       | some b => breakJob s b
       | none => progFault s t n st.pc c.status true)
    else s

/-- T_LAUNCH of a stream's completion (R234): the time of its first request, or of the launch where it has made none; 0 where
it never launched (R317). -/
def Stream.launchTime (st : Stream) : DWord :=
  if !st.launched then 0 else if st.firstSent then st.tLaunch else st.launch.tl

/-- A stream ends: its reservations are discarded, it is freed, its lateness is judged where it launched, and its end is
reported. `code` is 0 for a stream that did all its work. The end of one that never launched lets those behind it launch
(R43, R232). -/
def endStream (s : State) (t n : Nat) (st : Stream) (code : Nat) : State :=
  let s := if st.launched then s else withdrawConds s t (some n) st.src st.ord st.launch.conds
  let s := sendDiscards s t n st
  let s := s.freeStream t n
  let s := if st.launched then s else s.setTile t (orderCleared (s.tile t) st.src st.ord)
  let s := if st.resumer.isSome then clearPark s t n else s
  let now := localTime s
  let lc := if st.launched then lateOf st.launch st.launch.ll (finishLate st now) else (0, 0)
  let late := decide (fld (s.tile t).lateCtrl 15 0 < lc.1)
  let s := if st.launched then judgeLate s t n st.entry.isSome lc.1 lc.2 else s
  reportEnd s t n st
    { status := if code = 0 then doneCode st late else code, late := lc.1, cause := lc.2, stream := n
      tag := iTag st.line, tl := st.launchTime, tr := now, launched := st.launched }

/-- A parked stream ends with a code by a rule other than ABANDON: a ring's park has been reported, and its job breaks (R321); a
program's instruction ends with the code (R76). -/
def endParked (s : State) (t n : Nat) (st : Stream) (code : Nat) : State :=
  let s := clearPark (s.freeStream t n) t n
  match st.entry with
  | some b => breakJob s b
  | none => progFault s t n st.pc code true

/-- A rule ends a stream's instruction with a code whatever it is doing: one that has launched stops and retires once
nothing of it is in flight, one that has not ends now. -/
def killStream (s : State) (t n code : Nat) : State :=
  match s.stream? t n with
  | none => s
  | some st =>
    if st.parked.isSome then endParked s t n st code
    else if st.launched then abortStream s t n code
    else endStream s t n st code

/-! ## Park (R66, R329, R330) -/

/-- The words of a progress record. -/
def progressWords (id : Word) (chunk : Nat) (idx : List Nat) : List Word :=
  let bs := idx.flatMap (fun i => toBytes 3 i)
  let bs := bs ++ List.replicate (24 - bs.length) 0
  id :: BitVec.ofNat 32 chunk :: (List.range 6).map (fun i => BitVec.ofNat 32 (ofBytes ((bs.drop (4 * i)).take 4)))

/-- The stream parks at its first chunk not written. -/
def parkStream (s : State) (t n : Nat) (st : Stream) (addr : DWord) : State :=
  let x := s.tile t
  let id := x.parkCtr
  let k := match st.chunks with
    | c :: _ => c.mark.k0
    | [] => st.nextPlace
  let idx := if st.wuse then [] else unrank (tdCounts st.dstTd) k
  let pr := progressWords id st.committed idx
  let info : Word := 0x80000000 ||| (match st.entry with
      | some e => 0x40000000 ||| atN e.ring 22
      | none => 0) ||| atN (iTag st.line) 0
  let s := s.setTile t { x with parkCtr := if id = 0xFFFFFFFF then 1 else id + 1 }
  let s := s.setStream t n { st with parked := some id, resumer := none }
  let pk : Park := { prog := pr, faddr := addr, info := info }
  let s := { s with gate := { s.gate with park := Tab.put s.gate.park (8 * t + n) pk } }
  let s := raise s evStreamParked t n 0 0
  let lc := lateOf st.launch st.launch.ll 0
  reportEnd s t n st
    { status := stTranslation, late := lc.1, cause := lc.2, prog := pr, stream := n, tag := iTag st.line
      tl := st.launchTime, tr := localTime s }

/-- Every chunk that needs no blocked element has committed, and nothing of the stream is outstanding (R107). -/
def Stream.quiet (s : State) (t n : Nat) (st : Stream) : Bool :=
  match st.limit with
  | none => false
  | some l =>
    decide (l ≤ st.nextPlace) && !st.placeComing l && decide ((placeAll s t n st).st = st) && st.drained
      && st.chunks.all (fun c => !c.closed || decide (l < c.kEnd))

/-- All the work of a stream is done. -/
def Stream.finished (st : Stream) : Bool :=
  match st.total with
  | none => false
  | some m => decide (st.nextPlace = m) && st.outQ.isEmpty && st.chunks.isEmpty && st.drained

/-- Retirement of a stream (R39), or its park (R66). -/
def retireStream (s : State) (t n : Nat) : State :=
  match s.stream? t n with
  | none => s
  | some st =>
    if !coreRuns s t || st.parked.isSome then s
    else
      match st.abort with
      | some code => if st.drained then endStream s t n st code else s
      | none =>
        if !st.launched then s
        else
          match st.stop with
          | some x =>
            if Stream.quiet s t n st then
              (if x.code = stTranslation then parkStream s t n st x.addr else endStream s t n st x.code)
            else s
          | none => if st.finished then endStream s t n st 0 else s

/-- The parked stream that a RESUME names, where its PARKID matches (R65). -/
def parkedStream (s : State) (t : Nat) (l : Line) : Option Stream :=
  match s.stream? t (iStream l) with
  | none => none
  | some st => if st.parked = some (iParkid l) then some st else none

/-- RESUME: the stream redoes its first uncommitted chunk and what follows (R65, R328). -/
def resumeStream (s : State) (t : Nat) (l : Line) (e : EntryRef) (st : Stream) : State :=
  let n := iStream l
  restartStream s t n { st with parked := none, stop := none, resumer := some (e, iTag l, localTime s) }

/-- ABANDON: the stream ends without further writes or signals, and breaks its own job (R65, R321, R328). An instruction of the
program so ends with TRANSLATION_FAULT, which is captured and counted; the program goes on (R76; DEDUCED, log 125). -/
def abandonStream (s : State) (t : Nat) (l : Line) (e : EntryRef) (st : Stream) : State :=
  let n := iStream l
  let s := sendDiscards s t n st
  let s := clearPark (s.freeStream t n) t n
  let now := localTime s
  let s := addComp s e { status := stDone, rstatus := stTranslation, stream := n, tag := iTag l, tl := now, tr := now }
  match st.entry with
  | some b => breakJob s b
  | none => s.setTile t (captureFault (s.tile t) n st.pc stTranslation)

end Sys2Proof.Machine
end

