-- ==== Sys2Proof/Machine/Mover.lean ====
section
/-! DEFINITION. Fetch, issue and launch of mover instructions, retirement, and the program's end (R39–R45, R51–R65, R72,
R75). -/

namespace Sys2Proof.Machine

/-- The outcome of a step with an effect. -/
abbrev Out := Host.Outcome State Fault Refusal

/-! ## Fetch -/

/-- Instruction `i` of instruction memory. -/
def Tile.instr (x : Tile) (i : Nat) : Line := tabBits x.imem (16 * i) 16 512

/-- INSTRUCTION_FETCH (R39, R63, R415). -/
def fetchStep (s : State) (t : Nat) (ecc : Ecc) : State :=
  let x := s.tile t
  let ecc := x.readEcc (fun l => match l with
    | .imem _ w => decide (w / 16 = x.pc)
    | _ => false) ecc
  if !coreRuns s t || decide (x.seq ≠ .running) || x.stopping || x.fetched.isSome || decide (x.prog.hold ≠ .none) then s
  else if 1023 < x.pc then progFault s t 0 1023 stMalformed false
  else
    let a : DWord := BitVec.ofNat 64 (64 * x.pc)
    match ecc with
    | .bad => progFault (klog s .unrecovered .sramUe (luTile t) { code := stUnrecovered, addr := a }) t 0 x.pc stUnrecovered false
    | e =>
      let s := if e = .corrected then klog s .corrected .sramCe (luTile t) { addr := a } else s
      s.setTile t { x with fetched := some (x.instr x.pc), fetchPc := x.pc, pc := x.pc + 1 }

def execInstructionFetch (t : Nat) (ecc : Ecc) (s : State) : Out := .next (fetchStep s t ecc)

/-! ## Issue of MOVE and WALK -/

/-- A stream as issue allocates it (R41, R44, R86, R103). -/
def newStream (s : State) (t : Nat) (hd : Head) (src : Source) (ord wait : Nat) (c : IssueCtx) (e d : Elem) : Stream :=
  let l := hd.line
  let x := s.tile t
  let sg := (ctxEntry s t (iCtx l) (iSigid l)).getD (false, 0)
  let r := rNom c e d
  { src := src, entry := hd.entry, pc := hd.pc, ord := ord, line := l
    srcTd := c.src, dstTd := c.dst, scaleTd := c.scale, sideTd := c.side, od := c.od
    rdBase := c.rdBase, wrBase := c.wrBase, slice := c.slice, sigCid := sg.2, sigX := sg.1
    launch := captureLaunch s t l wait, launched := false, tLaunch := 0, firstSent := false
    dnom := dNom s t c e d, rnum := r.1, rden := r.2, outBytes := nOutBytes c e d, written := 0
    parked := none, epoch := 0, nextId := 0, rdPos := 0, rdSkip := 0
    rd := Walker.init (iRpc l) (if c.ruse then x.greg (iRareg l) else 0), rdRuns := [], rdMarks := []
    outstanding := [], oldReads := [], staged := [], blocks := [], scaleNext := 0, scales := [], t0 := none
    entries := [], sideEnts := [], decSum := [], outPos := 0, outFrom := 0, outQ := []
    esc := { side := 0, used := 0, row := { row := 0, block := 0, entries := 0 } }
    wr := Walker.init (iWpc l) (if c.wuse then x.greg (iWareg l) else 0), wrRuns := [], wrMarks := [], wrOut := [], sigOut := []
    chunks := [], nextChunk := 0, committed := 0, replays := 0, kept := false, hasSat := false
    undersize := false, replayed := false, lostApply := false, stop := none, abort := none, resumer := none }

/-- Allocate stream `n` to the head of a source (R44, R45, R253). -/
def allocate (s : State) (t n : Nat) (hd : Head) (src : Source) (c : IssueCtx) (e d : Elem) : State :=
  let wait := ((s.tile t).source src).issueWait
  let s1 := popHead s t src
  let ord := ((s1.tile t).source src).ord
  let st := newStream s t hd src ord wait c e d
  let s2 := s1.setStream t n st
  let x := s2.tile t
  let x := { x with prio := putFld x.prio (4 * n + 3) (4 * n) (iPrio hd.line), waited := Tab.put x.waited n 0 }
  registerConds (s2.setTile t x) t (some n) src ord st.launch.conds

/-- The words of the descriptor tables that the issue of a MOVE or WALK reads. -/
def issueReads (x : Tile) (l : Line) (p : ScrubLoc) : Bool :=
  let o := x.od (iOpd l)
  match p with
  | .tdt _ w => decide (w / 32 = iSrcTd l) || decide (w / 32 = iDstTd l) || (usesScale o && decide (w / 32 = oScaleTd o))
      || (oEsc o && decide (w / 32 = oSideTd o))
  | .odt _ w => decide (w / 16 = iOpd l)
  | _ => false

/-- Offer the head of a source to MOVE or WALK (R39, R40, R44, R69, R119, R415): `ecc` is what the descriptors' words show, `ctx`
what those of the context copy do. -/
def issueStream (s : State) (t : Nat) (src : Source) (want : Row) (ctx ecc : Ecc) : State :=
  if !coreRuns s t then s
  else
    match headOf (s.tile t) src with
    | none => s
    | some hd =>
      let r := rowOf hd.line
      let ring := Source.isRing src
      if r ≠ want ∧ r ≠ .bad then s
      else if (s.tile t).stgPending.isSome then noteWait s t src 3
      else if r = .bad then failIssue (popHead s t src) t hd.entry hd.pc hd.line stMalformed
      else if (s.tile t).readEcc (issueReads (s.tile t) hd.line) ecc = .bad then
        failIssue (popHead (klog s .unrecovered .sramUe (luTile t) { code := stUnrecovered }) t src) t hd.entry hd.pc
          hd.line stUnrecovered
      else
        let s := ctxEcc (if ecc = .corrected then klog s .corrected .sramCe (luTile t) {} else s) t hd.line ctx
        let x := s.tile t
        let c := issueCtx x hd.line ring
        match streamCode s t hd.line ring c with
        | some code => failIssue (popHead s t src) t hd.entry hd.pc hd.line code
        | none =>
          match freeOf x ring, fmtOf (tdFmt c.src), fmtOf (tdFmt c.dst) with
          | some n, some e, some d =>
            allocate s t n hd src c e d
          | _, _, _ => noteWait s t src 3

def execMove (t : Nat) (src : Checked Source) (ecc : Ecc) (s : State) : Out := .next (issueStream s t src.it .move src.ecc ecc)
def execWalk (t : Nat) (src : Checked Source) (ecc : Ecc) (s : State) : Out := .next (issueStream s t src.it .walk src.ecc ecc)

/-! ## Instructions that use no stream -/

def execSig (t : Nat) (src : Checked Source) (s : State) : Out := .next (issueSimple s t src.it .sig src.ecc)
def execWaitGe (t : Nat) (src : Checked Source) (s : State) : Out := .next (issueSimple s t src.it .waitGe src.ecc)
def execWaitEq (t : Nat) (src : Checked Source) (s : State) : Out := .next (issueSimple s t src.it .waitEq src.ecc)
def execWaitAcquire (t : Nat) (src : Checked Source) (s : State) : Out := .next (issueSimple s t src.it .waitAcquire src.ecc)
def execWaitClaim (t : Nat) (src : Checked Source) (s : State) : Out := .next (issueSimple s t src.it .waitClaim src.ecc)
def execFence (t : Nat) (src : Checked Source) (s : State) : Out := .next (issueSimple s t src.it .fence src.ecc)
def execBar (t : Nat) (src : Checked Source) (s : State) : Out := .next (issueSimple s t src.it .bar src.ecc)
def execAdd (t : Nat) (src : Checked Source) (s : State) : Out := .next (issueSimple s t src.it .add src.ecc)
def execSub (t : Nat) (src : Checked Source) (s : State) : Out := .next (issueSimple s t src.it .sub src.ecc)
def execAnd (t : Nat) (src : Checked Source) (s : State) : Out := .next (issueSimple s t src.it .and src.ecc)
def execOr (t : Nat) (src : Checked Source) (s : State) : Out := .next (issueSimple s t src.it .or src.ecc)
def execXor (t : Nat) (src : Checked Source) (s : State) : Out := .next (issueSimple s t src.it .xor src.ecc)
def execShl (t : Nat) (src : Checked Source) (s : State) : Out := .next (issueSimple s t src.it .shl src.ecc)
def execShr (t : Nat) (src : Checked Source) (s : State) : Out := .next (issueSimple s t src.it .shr src.ecc)
def execTdw (t : Nat) (src : Checked Source) (s : State) : Out := .next (issueSimple s t src.it .tdw src.ecc)
def execOdw (t : Nat) (src : Checked Source) (s : State) : Out := .next (issueSimple s t src.it .odw src.ecc)
def execRdtime (t : Nat) (src : Checked Source) (s : State) : Out := .next (issueSimple s t src.it .rdtime src.ecc)
def execJmp (t : Nat) (src : Checked Source) (s : State) : Out := .next (issueSimple s t src.it .jmp src.ecc)
def execBr (t : Nat) (src : Checked Source) (s : State) : Out := .next (issueSimple s t src.it .br src.ecc)
def execHalt (t : Nat) (src : Checked Source) (s : State) : Out := .next (issueSimple s t src.it .halt src.ecc)
def execNop (t : Nat) (src : Checked Source) (s : State) : Out := .next (issueSimple s t src.it .nop src.ecc)

/-! ## RESUME and ABANDON -/

/-- A RESUME or ABANDON whose turn has come: the parked stream restarts or is released; where no stream is parked under its
PARKID it fails and changes nothing (R65). -/
def resumeEffect (s : State) (t : Nat) (h : HeldInstr) : State :=
  match h.entry, parkedStream s t h.line with
  | some e, some st =>
    if rowOf h.line = .abandon then abandonStream s t h.line e st else resumeStream s t h.line e st
  | _, _ => failIssue s t h.entry h.pc h.line stMalformed

/-- Offer the head of a source to RESUME or ABANDON (R43, R64, R65). A pending staging layout does not keep them from issuing:
it waits for the parked streams that they name (R119; DEDUCED, log 97). One whose turn has not come leaves its source free to
issue (R59). -/
def issueResume (s : State) (t : Nat) (src : Source) (want : Row) : State :=
  if !coreRuns s t then s
  else
    match headOf (s.tile t) src with
    | none => s
    | some hd =>
      let r := rowOf hd.line
      if r ≠ want ∧ r ≠ .bad then s
      else if r = .bad ∧ (s.tile t).stgPending.isSome then noteWait s t src 3
      else
        match issueCode s t hd.line (Source.isRing src) with
        | some code => failIssue (popHead s t src) t hd.entry hd.pc hd.line code
        | none =>
          let h := captureHeld s t src hd
          let s1 := popHead s t src
          let ord := ((s1.tile t).source src).ord
          if turnCome s1 t src ord hd.entry then resumeEffect s1 t h
          else
            let x := s1.tile t
            s1.setTile t { x with issued := x.issued ++ [{ src := src, ord := ord, held := h }] }

def execResume (t : Nat) (src : Source) (s : State) : Out := .next (issueResume s t src .resume)
def execAbandon (t : Nat) (src : Source) (s : State) : Out := .next (issueResume s t src .abandon)

/-! ## Launch -/

/-- Work queued ahead of a stream, in units of 8 cycles (R308). -/
def queuedWork (s : State) (t n : Nat) (st : Stream) : Nat :=
  let sl := slackOf s st false
  ((s.tile t).streams.map (fun p => if p.1 ≠ n ∧ slackOf s p.2 false ≤ sl then workOf p.2 else 0)).sum

/-- el_ns of R308, with launch lateness `ll` in Tc. -/
def estimate (s : State) (t n : Nat) (st : Stream) (ll : Nat) : Nat :=
  ceilDiv (ll * 3125) 6144 + ceilDiv (queuedWork s t n st * 20) 3

/-- A refused instruction ends without launching (R308, R309, R327). -/
def refuseLaunch (s : State) (t n : Nat) (st : Stream) (el : Nat) : State :=
  let s := s.setTile t (captureRefusal (s.tile t) st.entry.isNone n st.pc el)
  endInstr (s.freeStream t n) t st.entry st.pc
    { status := stRefused, late := el, stream := n, tag := iTag st.line, tr := localTime s, launched := false }

/-- Launch of an issued stream (R42, R229, R230, R308). -/
def launchStream (s : State) (t n : Nat) : State :=
  match s.stream? t n with
  | none => s
  | some st =>
    if coreRuns s t && !st.launched && st.abort.isNone && condsHeld st.launch && timeHeld s st.launch
        && orderHeld (s.tile t) st.src st.ord && !jobParked s t st.entry then
      let la := atLaunch s st.launch
      let el := estimate s t n st la.ll
      if oRefuse st.od ∧ oLbudget st.od < el then
        let s := refuseLaunch s t n st el
        s.setTile t (orderCleared (s.tile t) st.src st.ord)
      else
        let s := s.setStream t n { st with launched := true, launch := la }
        s.setTile t (resetWindow (orderCleared (s.tile t) st.src st.ord) n)
    else s

/-- The next instruction without a stream of a source launches (R43): the first of those that do not hold it, else the one that
holds it. -/
def launchSource (s : State) (t : Nat) (src : Source) : State :=
  match nextIssued (s.tile t) src with
  | some i =>
    if !issuedReady s t i then launchHeld s t src
    else if (rowOf i.held.line).ringOnly then resumeEffect (takeIssued s t i) t i.held
    else launchIssued s t i
  | none => launchHeld s t src

/-- LAUNCH. -/
def launchStep (s : State) (t : Nat) (target : LaunchTarget) : State :=
  match target with
  | .stream n => launchStream s t n
  | .source src => if coreRuns s t then launchSource s t src else s

def execLaunch (t : Nat) (target : LaunchTarget) (s : State) : Out := .next (launchStep s t target)

/-! ## Retirement and the program's end -/

def execRetire (t n : Nat) (s : State) : Out := .next (retireStream s t n)

/-- PROGRAM_HALTED (R75): no stream of the program source is allocated but parked ones, and its pending entries, and what it has
issued and not launched, wait only on parked streams. -/
def haltStep (s : State) (t : Nat) : State :=
  let x := s.tile t
  let parkedOrds := (x.streams.filter (fun p => decide (p.2.src = .prog) && p.2.parked.isSome)).map (fun p => p.2.ord)
  let drained := x.streams.all (fun p => decide (p.2.src ≠ .prog) || p.2.parked.isSome)
    && x.pendProg.all (fun p => parkedOrds.any (fun o => decide (o < p.ord)))
    && x.issued.all (fun i => decide (i.src ≠ .prog) || parkedOrds.any (fun o => decide (o < i.ord)))
  if coreRuns s t && decide (x.seq = .running) && x.stopping && decide (x.prog.hold = .none) && x.fetched.isNone
      && drained then
    s.setTile t { x with seq := .halted, stopping := false }
  else s

def execProgramHalted (t : Nat) (s : State) : Out := .next (haltStep s t)

/-! ## FENCE_COMPLETE -/

/-- A write of a source numbered before `ord` that a fence of a scope still waits for (R281). -/
def fenceWrites (t : Nat) (src : Source) (ord scope : Nat) (w : WriteReq) : Bool :=
  decide (w.src = src) && decide (w.ord < ord)
  && (match scope, w.endpoint with
      | 0, .group u _ => decide (u = t)
      | 0, .port _ => false
      | 1, .group _ _ => true
      | 1, .port _ => false
      | _, _ => true)

/-- A write to a system address that its port has not accepted: it is still on the promenade. -/
def onPromenade (s : State) (w : WriteReq) : Bool :=
  s.prom.net.any (fun m => match m.body with
    | .wr v => decide (v.tile = w.tile) && decide (v.stream = w.stream) && decide (v.ord = w.ord)
        && decide (v.epoch = w.epoch) && decide (v.id = w.id)
    | _ => false)

/-- An earlier instruction's stream has work that a fence waits for: reads outstanding or to come, writes not made, or
writes not landed to the scope (R59, R281). -/
def fenceHolds (s : State) (t : Nat) (src : Source) (f : FenceSt) (st : Stream) : Bool :=
  decide (st.src = src) && decide (st.ord < f.ord)
  && (st.parked.isSome || !st.launched || st.abort.isSome || !st.outstanding.isEmpty || !st.oldReads.isEmpty
      || (match st.total with
          | some m => decide (st.outPos < m)
          | none => true)
      || !st.outQ.isEmpty || st.chunks.any (fun c => !c.lastSent)
      || st.wrOut.any (fun w => fenceWrites t src f.ord f.scope w || (decide (f.scope = 1) && onPromenade s w)))

/-- A freed stream's write of the source that has not landed: one still in flight (R59). -/
def strayWrites (s : State) (t : Nat) (src : Source) (f : FenceSt) : Bool :=
  s.prom.net.any (fun m => match m.body with
    | .wr w => decide (w.tile = t) && fenceWrites t src f.ord (if f.scope = 1 then 2 else f.scope) w
    | _ => false)
  || s.prom.sps.any (fun p => decide (f.scope = 2) && (p.2.waiting.any (fun q => match q.req with
      | .wr w => decide (w.tile = t) && fenceWrites t src f.ord 2 w
      | _ => false) || p.2.tags.any (fun g => !g.2.timedOut && (match g.2.req.req with
      | .wr w => decide (w.tile = t) && fenceWrites t src f.ord 2 w
      | _ => false))))

/-- FENCE_COMPLETE: the first fence of a source completes once what precedes it has landed. -/
def fenceStep (s : State) (t : Nat) (src : Source) : State :=
  let x := s.tile t
  match x.fences.find? (fun f => decide (f.src = src)) with
  | none => s
  | some f =>
    if !coreRuns s t || x.streams.any (fun p => fenceHolds s t src f p.2) || strayWrites s t src f then s
    else
      let s := s.setTile t { orderCleared x src f.ord with fences := x.fences.filter (fun g => decide (g ≠ f)) }
      finishDone s t f.entry f.line f.launch false

def execFenceComplete (t : Nat) (src : Source) (s : State) : Out := .next (fenceStep s t src)

/-! ## PENDING_SIGNAL -/

/-- An earlier MOVE or WALK of a source has not retired, or an earlier FENCE is incomplete (R58, R59). -/
def pendingWaits (x : Tile) (src : Source) (ord : Nat) : Bool :=
  x.streams.any (fun p => decide (p.2.src = src) && decide (p.2.ord < ord))
  || x.fences.any (fun f => decide (f.src = src) && decide (f.ord < ord))

/-- The generation that a BAR's arrival belongs to, as the tile counts it (R268). -/
def arrivalOf (x : Tile) (bar : Nat) (ring : Bool) : Nat := Tab.get x.barCnt 0 (2 * bar + ring.toNat)

/-- PENDING_SIGNAL: the head of a pending-signal queue is sent. -/
def pendStep (s : State) (t : Nat) (ring : Bool) : State :=
  let x := s.tile t
  match x.pend ring with
  | [] => s
  | p :: ps =>
    if !coreRuns s t || p.sent || pendingWaits x p.src p.ord then s
    else
      let x := x.setPend ring ({ p with sent := true } :: ps)
      if p.isBar then
        let a := arrivalOf x p.cid ring
        let x := { x with barCnt := Tab.put x.barCnt (2 * p.cid + ring.toNat) ((a + 1) % 4) }
        let v := x.source p.src
        let x := match v.hold with
          | .bar b => if b.ord = p.ord then x.setSource p.src { v with hold := .bar { b with gen := a } } else x
          | _ => x
        postSmall (s.setTile t x) .lodge (.tile t) .band
          (.arrive { bar := p.cid, a := a, scope := p.scope, host := false, tile := t, src := p.src, ord := p.ord })
      else
        let u : Upd := { cid := p.cid, express := p.express, value := p.value, scope := p.scope, kind := 1, tile := t
                         stream := 0, seq := 0, src := p.src, ord := p.ord, wire := t }
        sendUpd (s.setTile t x) (.tile t) u

def execPendingSignal (t : Nat) (ring : Bool) (s : State) : Out := .next (pendStep s t ring)

/-- The entry of a pending-signal queue that an answer is for: the one sent. -/
def pendSent (x : Tile) (src : Source) (ord : Nat) : Option PendSig :=
  (x.pend (Source.isRing src)).find? (fun p => p.sent && decide (p.src = src) && decide (p.ord = ord))

/-- A SIG or BAR leaves its queue with a code (R56, R58, R251). -/
def pendDone (s : State) (t : Nat) (p : PendSig) (code : Nat) : State :=
  let x := s.tile t
  let ring := Source.isRing p.src
  let s := s.setTile t (x.setPend ring ((x.pend ring).filter (fun q => decide (q ≠ p))))
  finishSimple s t p.entry p.pc p.line p.launch code

end Sys2Proof.Machine
end

