-- ==== Sys2Proof/Machine/Flow.lean ====
section
/-! DEFINITION. A stream's requests, datapath rows, answers and commits at the tile, and what a bank group does with the
requests that reach it (R22, R26, R97–R99, R118, R119, R179, R182–R184, R249, R277, R285–R289, R402, R410, R411, R415,
R416, R420). -/

namespace Sys2Proof.Machine

/-! ## Requests at a unit (R402) -/

/-- What a unit's power state makes of a request: served, retry-later, UNIT_OFFLINE from its router, or no answer. -/
inductive Avail where
  | on | later | off | dead
  deriving DecidableEq, Repr

/-- Availability of a domain (R402). -/
def availOf (s : State) (d : Nat) : Avail :=
  if clockDead s d then .dead
  else match (s.dom d).state with
  | .on => .on
  | .quiescing => .later
  | .reset => .dead
  | _ => .off

/-- A retry-later answer: the request goes back to its requester. -/
def turnBack (s : State) (i : Nat) (m : Msg) : State :=
  let m' : Msg := { m with cls := if m.cls = .request then .response else m.cls, src := m.dst, dst := m.src, flits := 1
                           index := 0, route := GenConfig.route s.gen m.dst m.src, inp := Node.num m.dst, again := true }
  let s := dropMsg s i
  { s with prom := { s.prom with net := s.prom.net ++ [m'] } }

/-- Serve request `i` at a unit of domain `d`: `admit_` while it quiesces (R400), `k` performs it, `off` answers that the
unit is off, and `later` that it quiesces. -/
def serveOr (s : State) (i d : Nat) (admit_ : Bool) (off later k : State → State) : State :=
  match availOf s d with
  | .on => k s
  | .later => if admit_ then k s else later s
  | .off => off (dropMsg s i)
  | .dead => dropMsg s i

/-- Serve a request that a retry-later answer turns back, and that is performed whole. -/
def serve (s : State) (i : Nat) (m : Msg) (d : Nat) (admit_ : Bool) (off k : State → State) : State :=
  serveOr s i d admit_ off (fun s => turnBack s i m) (fun s => k (dropMsg s i))

/-- Answer a read request, with the slack stamped on it (R297). -/
def answerRead (s : State) (src : Node) (m : Msg) (r : ReadReq) (a : Answer) (data : List Byte) : State :=
  post s .response src (.tile r.tile) [] m.stamp m.prio (if a = .okay then flitsOf r.addr r.len else 1) (.rdResp r a data)

/-- Acknowledge a write. -/
def answerWrite (s : State) (src : Node) (m : Msg) (w : WriteReq) (a : Answer) (sats : Nat) : State :=
  post s .response src (.tile w.tile) [] m.stamp m.prio 1 (.wrAck w a sats)

/-- The endpoint of a flit that carried a signal forwards it to the counter's home (R249 step 6); `wire` is its express
wire. -/
def forward (s : State) (src : Node) (wire : Nat) (w : WriteReq) : State :=
  match w.signal with
  | some u => sendUpd s src { u with wire := wire }
  | none => s

/-! ## The read walker -/

/-- READ_REQUEST: the read walker serves one stream (R97, R99, R300, R411). -/
def readStep (s : State) (t : Nat) (ok : Bool) : State :=
  if !coreRuns s t then s
  else
    let r := takePoint s (.readIssue t) (streamCands s t true (fun n st => wantsRead s t n st))
    match r.2 with
    | none => r.1
    | some n =>
      match r.1.stream? t n with
      | none => r.1
      | some st =>
        match roomPlan r.1 t n st with
        | .idle => r.1
        | .err side bound cause code addr wpc => walkErrorAt r.1 t n side bound cause code addr wpc
        | .req addr len what side pos next skip =>
          let s := sendRead r.1 t n st addr len what side pos next skip
          if ok then s else replay s t n .residue addr
            (st.blockedBy (match what with
              | .scales _ => (Side.write, pos)
              | _ => (side, pos)))

def execReadRequest (t : Nat) (residueOk : Bool) (s : State) : Out := .next (readStep s t residueOk)

/-- Remove a request from those outstanding. -/
def Stream.landed (st : Stream) (id : Nat) : Stream :=
  { st with outstanding := st.outstanding.filter (fun q => decide (q.id ≠ id))
            oldReads := st.oldReads.filter (fun q => decide (q.id ≠ id)) }

/-- An invalid segment index entry stops the stream at the row's first element (R191, R208, R209). -/
def checkEntry (s : State) (t n : Nat) (st : Stream) (r : ReadReq) : State :=
  match r.what with
  | .entry row =>
    let b := st.bxSide
    let ea := st.entryAddr row
    (match st.entryOf row with
     | none => s
     | some g =>
       if g.ok ea (tdCount b.1 0) then s
       else
         let s := s.setTile t (captureBx (s.tile t) (decide (b.2.2 = .write)) n 0x9 stMalformed ea 0 0 0)
         s.setStream t n (stopAt st b.2.2 (row * tdCount b.1 0) stMalformed 0))
  | _ => s

/-- A good read response lands; an uncorrectable error of the staging buffer replays the chunk (R26, R415). -/
def landResponse (s : State) (t n : Nat) (st : Stream) (r : ReadReq) (data : List Byte) (ecc : Ecc) : State :=
  match ecc with
  | .bad => replay s t n .sramUe r.addr (st.blockedBy r.bound)
  | e =>
    let s := if e = .corrected then klog s .corrected .sramCe (luTile t) { stream := n, addr := r.addr } else s
    let st := landData st r data
    checkEntry (s.setStream t n st) t n st r

/-- WPC of a translation fault: the instruction whose emission holds the element; 0 for descriptor walks, scales,
index entries and side lists (R95, R106). -/
def faultPc (st : Stream) (r : ReadReq) : Nat :=
  match r.what with
  | .elems _ => st.sidePc r.side r.pos
  | .blocks _ => st.sidePc r.side r.pos
  | _ => 0

/-- The instruction to which a request belongs still holds its stream. -/
def ownStream (s : State) (t n : Nat) (src : Source) (ord : Nat) : Option Stream :=
  match s.stream? t n with
  | none => none
  | some st => if st.src = src ∧ st.ord = ord then some st else none

/-- The answer to a read request at its tile (R106, R342, R402, R416, R421). An answer to a request of before a restart, or to
a stream that does no more work, is discarded. -/
def readAnswer (s : State) (r : ReadReq) (a : Answer) (data : List Byte) (ecc : Ecc) : State :=
  let t := r.tile
  let n := r.stream
  match ownStream s t n r.src r.ord with
  | none => s
  | some st =>
    let s1 := s.setStream t n (st.landed r.id)
    if !st.outstanding.any (fun q => decide (q.id = r.id)) || st.abort.isSome then s1
    else
      match a with
      | .okay => landResponse s t n st r data ecc
      | .denied => walkErrorAt s1 t n r.side r.bound 0xB stPermission r.addr 0
      | .xfault => walkErrorAt s1 t n r.side r.bound 0xA stTranslation r.addr (faultPc st r)
      | .error => replay s1 t n .hostError r.addr (st.blockedBy r.bound)
      | .timeout => replay s1 t n .rspTimeout r.addr (st.blockedBy r.bound)
      | .offline => abortStream s1 t n stOffline
      | .poison => abortStream s1 t n stUnrecovered

/-! ## The datapath -/

/-- TILE_DATAPATH: one row of one stream (R27, R155, R300). -/
def rowStep (s : State) (t : Nat) : State :=
  if !coreRuns s t then s
  else
    let r := takePoint s (.datapath t) (streamCands s t false (fun n st => wantsRow s t n st))
    match r.2 with
    | none => r.1
    | some n =>
      match r.1.stream? t n with
      | none => r.1
      | some st => if laneOff r.1 t st then abortStream r.1 t n stOffline else stepRow r.1 t n st.rowGroups

def execTileDatapath (t : Nat) (s : State) : Out := .next (rowStep s t)

/-- CALIBRATION_WINDOW: a full window's counts return to 0 (R179). -/
def windowStep (s : State) (t n : Nat) : State :=
  if coreRuns s t && windowFull (s.tile t) n then nextWindow s t n else s

def execCalibrationWindow (t n : Nat) (s : State) : Out := .next (windowStep s t n)

/-- SIGNATURE_COMPARE: a mismatch of the running signatures replays the chunk (R410, R421). -/
def compareStep (s : State) (t n : Nat) (agree : Bool) : State :=
  match s.stream? t n with
  | none => s
  | some st =>
    if coreRuns s t && !agree then
      replay s t n .chunkchk 0 (match st.current with
        | some c => c.mark.k0
        | none => st.firstOpen.1)
    else s

def execSignatureCompare (t n : Nat) (agree : Bool) (s : State) : Out := .next (compareStep s t n agree)

/-! ## The write walker -/

/-- The stream with its write walker's bookkeeping done. -/
def keepPlaced (s : State) (t n : Nat) (p : Placed) : State :=
  let s := s.setStream t n p.st
  let x := s.tile t
  s.setTile t { x with seqNo := Tab.set x.seqNo 0 n p.seq }

/-- The write walker's bookkeeping for a stream, which takes no request: the errors it finds stop the stream. -/
def placeStream (s : State) (t n : Nat) : State :=
  match s.stream? t n with
  | none => s
  | some st =>
    if !st.live then s
    else
      let p := placeAll s t n st
      let s := keepPlaced s t n p
      match p.err with
      | some e => walkError s t n .write e.1 e.2.1 e.2.2.1 e.2.2.2.1 e.2.2.2.2
      | none => s

/-- The write walker's bookkeeping for every stream of a tile (R100–R103). -/
def placeTile (s : State) (t : Nat) : State := (s.tile t).streams.foldl (fun s p => placeStream s t p.1) s

/-- The streams that request the write walker. -/
def writeCands (s : State) (t : Nat) : List Cand := streamCands s t false (fun n st => wantsWrite s t n st)

/-- WRITE_REQUEST: the write walker serves the stream that has its grant, where that has more to write than a last flit
(R97, R99, R100, R102, R182, R300, R411). -/
def writeStep (s : State) (t : Nat) (ok : Bool) : State :=
  if !coreRuns s t then s
  else
    let s := placeTile s t
    let cs := writeCands s t
    match takerOf s (.writeIssue t) cs with
    | none => (takePoint s (.writeIssue t) cs).1
    | some n =>
      match s.stream? t n with
      | none => s
      | some st =>
        match nextWrite s t st with
        | none => s
        | some (c, q, extra) =>
          let s := (takePoint s (.writeIssue t) cs).1
          if ok then sendNext s t n st c q extra else replay s t n .residue q.addr c.mark.k0

def execWriteRequest (t : Nat) (residueOk : Bool) (s : State) : Out := .next (writeStep s t residueOk)

/-- LAST_FLIT_SEND (R182, R249, R293, R410, R411), by the stream that has the write walker's grant: the residue check of its
address passes before it is sent. -/
def lastStep (s : State) (t n : Nat) (agree residueOk : Bool) : State :=
  if !coreRuns s t then s
  else
    let s := placeTile s t
    match s.stream? t n with
    | none => s
    | some st =>
      match lastReady s t st, st.live && takerOf s (.writeIssue t) (writeCands s t) == some n with
      | none, _ => s
      | _, false => s
      | some c, true =>
        let s := (takePoint s (.writeIssue t) (writeCands s t)).1
        if !agree then replay s t n .chunkchk 0 c.mark.k0
        else if !residueOk then replay s t n .residue c.addr c.mark.k0
        else sendLast s t n st c

def execLastFlitSend (t n : Nat) (check : FlitCheck) (s : State) : Out := .next (lastStep s t n check.agree check.residue)

/-- An acknowledged write leaves the list of those outstanding. -/
def Stream.writeBack (st : Stream) (w : WriteReq) : Stream :=
  { st with wrOut := st.wrOut.filter (fun v => !(decide (v.id = w.id) && decide (v.epoch = w.epoch))) }

/-- A write that has not been performed carries no signal to its home. -/
def Stream.signalLost (st : Stream) (w : WriteReq) : Stream :=
  if w.signal.isSome then { st with sigOut := st.sigOut.erase w.seq } else st

/-- The write is counted for its chunk. -/
def Stream.writeCount (st : Stream) (w : WriteReq) : Stream :=
  { st with chunks := st.chunks.map (fun c => if c.idx = w.idx then { c with unacked := c.unacked - 1 } else c) }

/-- The answer to a write at its tile (R106, R184, R342, R402, R416, R421). -/
def writeAnswer (s : State) (w : WriteReq) (a : Answer) (sats : Nat) : State :=
  let t := w.tile
  let n := w.stream
  match s.stream? t n with
  | none => s
  | some st =>
    if st.src ≠ w.src ∨ st.ord ≠ w.ord ∨ !st.wrOut.any (fun v => decide (v.id = w.id) && decide (v.epoch = w.epoch)) then s
    else
      let st := { st.writeBack w with hasSat := st.hasSat || decide (0 < sats) }
      let st := if a = .okay then st else st.signalLost w
      let fresh := decide (w.epoch = st.epoch) && st.abort.isNone
      let s1 := countEvents (s.setStream t n (if fresh ∧ a = .okay then st.writeCount w else st)) t n sats 0
      if !fresh then lostRedo s1 t n w.addr
      else
        match a with
        | .okay => s1
        | .denied => walkError s1 t n .write w.pos 0xB stPermission w.addr 0
        | .xfault => walkError s1 t n .write w.pos 0xA stTranslation w.addr (st.sidePc .write w.pos)
        | .error => replay s1 t n .hostError w.addr (st.chunkOf w)
        | .timeout => replay s1 t n .rspTimeout w.addr (st.chunkOf w)
        | .offline => abortStream s1 t n stOffline
        | .poison => abortStream s1 t n stUnrecovered

/-- The first answer to a data signal of stream `n` that has reached tile `t`. -/
def signalAnswer (s : State) (t n : Nat) : Option (Nat × Upd × Nat) :=
  (List.range s.prom.net.length).findSome? (fun i =>
    match arrived s i with
    | some m =>
      (match m.body with
       | .updAck u code => if m.dst = .tile t ∧ u.kind = 0 ∧ u.stream = n then some (i, u, code) else none
       | _ => none)
    | none => none)

/-- What SECDED found at the journal entry of a stream's first chunk: a double-bit error ends the stream (R415). -/
def journalEcc (s : State) (t n : Nat) (ecc : Ecc) : State :=
  match s.stream? t n with
  | none => s
  | some st =>
    if !(st.chunks.head?.any (fun c => c.journal)) then s
    else
      match ecc with
      | .clean => s
      | .corrected => klog s .corrected .sramCe (luTile t) { stream := n }
      | .bad => abortStream (klog s .unrecovered .sramUe (luTile t) { stream := n, code := stUnrecovered }) t n stUnrecovered

/-- CHUNK_COMMIT (R55, R250, R251, R419). -/
def commitStep (s : State) (t n : Nat) (ecc : Ecc) : State :=
  if !coreRuns s t then s
  else
    let s := journalEcc s t n ecc
    let s := match signalAnswer s t n with
      | some (i, u, code) => chunkAnswer (dropMsg s i) t n u code
      | none => s
    commitFirst s t n

def execChunkCommit (t : Nat) (n : Checked Nat) (s : State) : Out := .next (commitStep s t n.it n.ecc)

/-! ## Bank groups -/

/-- The scratchpad domain of a tile. -/
def spadDom (s : State) (u : Nat) : Nat := GenConfig.domSpad s.gen u

/-- The `k`th 128 B access of `n` bytes from window offset `o`: its offset and length (R22, R98). -/
def granule (o n k : Nat) : Nat × Nat :=
  let base := o / 128 * 128 + 128 * k
  let lo := max o base
  (lo, min (o + n) (base + 128) - lo)

/-- Accesses that `n` bytes from a window offset take. -/
def granules (o n : Nat) : Nat := (o + n - 1) / 128 + 1 - o / 128

/-- After an access of message `i`: the next at window offset `next`, which waits for its bank's grant, or none. -/
def nextAccess (s : State) (i : Nat) (m : Msg) (next : Option Nat) (fin : State → State) : State :=
  match next with
  | some o => { s with prom := { s.prom with net := s.prom.net.set i { m with route := [bankOf s o] } } }
  | none => fin (dropMsg s i)

/-- The next of the accesses to `n` bytes from `o` after the first `k`. -/
def accessAt (o n k : Nat) : Option Nat := if k < granules o n then some (granule o n k).1 else none

/-- One access of a read at a bank group: the bytes of one granule (R287, R288, R416). -/
def readAccess (s : State) (u i : Nat) (m : Msg) (o n : Nat) (ecc : Ecc) (fin : State → Msg → State) : State :=
  let g := granule o n m.done
  let s := spadEcc s u g.1 ecc
  let m := { m with done := m.done + 1, got := m.got ++ memRead s.spad.mem g.1 g.2
                    bad := m.bad || poisoned s.spad.poison g.1 g.2 }
  nextAccess s i m (accessAt o n m.done) (fun s => fin s m)

/-- Answer a part of a window-port request (R349). -/
def answerWp (s : State) (u : Nat) (m : Msg) (q : WpReq) (code : Nat) (data : List Byte) : State :=
  post s .response (.tile u) (.winPort q.port) [] m.stamp m.prio (if data.isEmpty then 1 else flitsOf (BitVec.ofNat 64 q.off) q.len)
    (.wpResp q code data)

/-- BANK_READ: one access of a stream's read or of a window port's. -/
def bankReadStep (s : State) (i : Nat) (ecc : Ecc) : State :=
  match arrived s i with
  | some m =>
    (match m.body, m.dst with
     | .rd r, .tile u =>
       serveOr s i (spadDom s u) (decide (0 < m.done)) (fun s => answerRead s (.tile u) m r .offline [])
         (fun s => turnBack s i m)
         (fun s => readAccess s u i m (r.off.getD 0) r.len ecc (fun s m =>
           if m.bad then answerRead s (.tile u) m r .poison [] else answerRead s (.tile u) m r .okay m.got))
     | .wp q, .tile u =>
       if q.op ≠ 0 then s
       else
         serveOr s i (spadDom s u) (decide (0 < m.done)) (fun s => answerWp s u m q 4 [])
           (fun s => answerWp (dropMsg s i) u m q 3 [])
           (fun s => readAccess s u i m q.off q.len ecc (fun s m =>
             if m.bad then answerWp s u m q 2 [] else answerWp s u m q 0 m.got))
     | _, _ => s)
  | none => s

def execBankRead (i : Nat) (ecc : Ecc) (s : State) : Out := .next (bankReadStep s i ecc)

/-- The reservation of a write's chunk. -/
def accOf (w : WriteReq) (r : AccRes) : Bool :=
  decide (r.tile = w.tile) && decide (r.stream = w.stream) && decide (r.seq = w.seq) && decide (r.epoch = w.epoch)

/-- An addend takes its place in the chunk's element order. -/
def insertAddend (w : WriteReq) : List WriteReq → List WriteReq
  | [] => [w]
  | p :: ps => if w.pos < p.pos then w :: p :: ps else p :: insertAddend w ps

/-- Stage an addend in its reservation (R182 step 2). The additions are made in the chunk's element order, whatever order the
addends come in. -/
def stageAddend (s : State) (w : WriteReq) : State :=
  { s with spad := { s.spad with acc := s.spad.acc.map (fun r =>
      if accOf w r then { r with pieces := insertAddend w r.pieces } else r) } }

/-- What the read of a unit that a write covers in part finds (R415). -/
def partEcc (s : State) (u o n : Nat) (ecc : Ecc) : State :=
  match (unitsOf o n).find? (fun v => !coversUnit o n v) with
  | some v => spadEcc s u (8 * v) ecc
  | none => s

/-- One access of a write at a bank group: the bytes of one granule, which are not written where they cover part of a poisoned
unit (R287, R288, R416). -/
def writeAccess (s : State) (u i : Nat) (m : Msg) (o : Nat) (data : List Byte) (ecc : Ecc) (fin : State → Msg → State) :
    State :=
  let g := granule o data.length m.done
  let s := partEcc s u g.1 g.2 ecc
  let p := spadWrite s.spad g.1 ((data.drop (g.1 - o)).take g.2)
  let m := { m with done := m.done + 1, bad := m.bad || !p.2 }
  nextAccess { s with spad := p.1 } i m (accessAt o data.length m.done) (fun s => fin s m)

/-- The unit's new value under an atomic (R339). -/
def atomicValue (op n old x cmp : Nat) : Nat :=
  let m := 2 ^ (8 * n)
  match op with
  | 4 => (old + x) % m
  | 5 => x % m
  | 6 => if old = cmp % m then x % m else old
  | 7 => old ||| (x % m)
  | _ => old &&& (x % m)

/-- An atomic at its bank group (R289, R339, R416). -/
def atomicAccess (s : State) (u : Nat) (m : Msg) (q : WpReq) (ecc : Ecc) : State :=
  let s := spadEcc s u q.off ecc
  if poisoned s.spad.poison q.off q.len then answerWp s u m q 2 []
  else
    let old := ofBytes (memRead s.spad.mem q.off q.len)
    let v := atomicValue q.op q.len old (ofBytes ((q.data.take 8).take q.len)) (ofBytes ((q.data.drop 8).take q.len))
    answerWp { s with spad := (spadWrite s.spad q.off (toBytes q.len v)).1 } u m q 0 (toBytes 8 old)

/-- BANK_WRITE: one access of a stream's write, of a window port's write or atomic, or an addend that takes its place in the
accumulate buffer (R182, R249, R277). -/
def bankWriteStep (s : State) (i : Nat) (ecc : Ecc) : State :=
  match arrived s i with
  | some m =>
    (match m.body, m.dst with
     | .wr w, .tile u =>
       let run := fun (k : State → State) =>
         serveOr s i (spadDom s u) (decide (0 < m.done)) (fun s => answerWrite s (.tile u) m w .offline 0)
           (fun s => turnBack s i m) k
       (match w.kind with
        | .apply => s
        | .addend => run (fun s => answerWrite (stageAddend (dropMsg s i) w) (.tile u) m w .okay 0)
        | .data => run (fun s => writeAccess s u i m (w.off.getD 0) w.data ecc (fun s m =>
            if m.bad then answerWrite s (.tile u) m w .poison 0
            else answerWrite (forward s (.tile u) u w) (.tile u) m w .okay 0)))
     | .wp q, .tile u =>
       if q.op = 0 then s
       else
         serveOr s i (spadDom s u) (decide (0 < m.done)) (fun s => answerWp s u m q 4 [])
           (fun s => answerWp (dropMsg s i) u m q 3 [])
           (fun s => if q.op = 1 then
               writeAccess s u i m q.off q.data ecc (fun s m => answerWp s u m q (if m.bad then 2 else 0) [])
             else atomicAccess (dropMsg s i) u m q ecc)
     | _, _ => s)
  | none => s

def execBankWrite (i : Checked Nat) (s : State) : Out := .next (bankWriteStep s i.it i.ecc)

/-! ## Accumulate applies -/

/-- The sequence number recorded at a home for a tile and stream (R183, R420). -/
def seqAt (rs : List SeqRec) (h : Home) (t n : Nat) : Option Word :=
  (rs.find? (fun r => decide (r.home = h) && decide (r.tile = t) && decide (r.stream = n))).map (·.seq)

/-- A number at or before the recorded one has been applied already; an empty record accepts any (R420). -/
def seqOld (rs : List SeqRec) (h : Home) (t n : Nat) (q : Word) : Bool :=
  match seqAt rs h t n with
  | some v => decide ((q - v).toInt ≤ 0)
  | none => false

/-- Record a sequence number. -/
def seqPut (rs : List SeqRec) (h : Home) (t n : Nat) (q : Word) : List SeqRec :=
  rs.filter (fun r => !(decide (r.home = h) && decide (r.tile = t) && decide (r.stream = n)))
    ++ [{ home := h, tile := t, stream := n, seq := q }]

/-- What applying addends gives: the scratchpad, the saturations, and whether a poisoned unit was met. -/
structure AccRun where
  spad : Spad
  sats : Nat
  bad : Bool

/-- Add one element at a window offset: a read-modify-write of its unit (R184, R289, R416). -/
def applyElem (e : Elem) (rnd o : Nat) (add : List Byte) (a : AccRun) : AccRun :=
  if poisoned a.spad.poison o add.length then { a with bad := true }
  else
    let old := ofBytes (memRead a.spad.mem o add.length)
    let r := accElem e old (ofBytes add) rnd
    { a with spad := (spadWrite a.spad o (toBytes add.length r.1)).1, sats := a.sats + r.2 }

/-- Add the elements of a piece in address order; `fuel` bounds them. -/
def applyBytes (e : Elem) (rnd wb : Nat) : Nat → Nat → List Byte → AccRun → AccRun
  | 0, _, _, a => a
  | fuel + 1, o, bs, a =>
    if bs.isEmpty then a
    else applyBytes e rnd wb fuel (o + wb) (bs.drop wb) (applyElem e rnd o (bs.take wb) a)

/-- The accesses that the addends of a reservation take, in the chunk's element order (R182 step 4): window offsets and
addends. -/
def AccRes.accesses (r : AccRes) : List (Nat × List Byte) :=
  r.pieces.flatMap (fun w =>
    let o := w.off.getD 0
    (List.range (granules o w.data.length)).map (fun k =>
      let g := granule o w.data.length k
      (g.1, (w.data.drop (g.1 - o)).take g.2)))

/-- The accesses of an apply: none where its chunk has been applied already or holds no addend (R183). -/
def applyWork (s : State) (u : Nat) (w : WriteReq) : List (Nat × List Byte) :=
  let g := match w.endpoint with
    | .group _ g => g
    | .port _ => 0
  if seqOld s.lodge.applied (.group u g) w.tile w.stream w.seq then []
  else ((s.spad.acc.find? (fun r => accOf w r)).map AccRes.accesses).getD []

/-- The end of an apply: the reservation is freed, the number recorded, the signal forwarded, and the command acknowledged
(R182–R184). -/
def applyEnd (s : State) (u : Nat) (m : Msg) (w : WriteReq) : State :=
  let g := match w.endpoint with
    | .group _ g => g
    | .port _ => 0
  let h := Home.group u g
  let s := { s with spad := { s.spad with acc := s.spad.acc.filter (fun r => !accOf w r) } }
  let s := if seqOld s.lodge.applied h w.tile w.stream w.seq then s
    else { s with lodge := { s.lodge with applied := seqPut s.lodge.applied h w.tile w.stream w.seq } }
  if m.bad then answerWrite s (.tile u) m w .poison m.sats
  else answerWrite (forward s (.tile u) u w) (.tile u) m w .okay m.sats

/-- One bank cycle of an apply, which takes two for each granule (R185): one reads it, and the next adds and writes. No other agent
sees a state between: what an access of the first cycle changes the second adds to (R289). -/
def applyAccess (s : State) (u i : Nat) (m : Msg) (w : WriteReq) (ecc : Ecc) : State :=
  let work := applyWork s u w
  match work[m.done / 2]? with
  | none => applyEnd (dropMsg s i) u m w
  | some (o, add) =>
    let m' := { m with done := m.done + 1 }
    if m.done % 2 = 0 then nextAccess (spadEcc s u o ecc) i m' (some o) id
    else
      let e := (fmtOf w.fmt).getD (.int false 8)
      let a := applyBytes e w.rnd (max 1 (e.width / 8)) add.length o add { spad := s.spad, sats := m.sats, bad := m.bad }
      let m' := { m' with sats := a.sats, bad := a.bad }
      nextAccess { s with spad := a.spad } i m' (work[m'.done / 2]?.map (·.1)) (fun s => applyEnd s u m' w)

/-- ACC_APPLY. -/
def applyStep (s : State) (i : Nat) (ecc : Ecc) : State :=
  match arrived s i with
  | some m =>
    (match m.body, m.dst with
     | .wr w, .tile u =>
       if w.kind ≠ WriteKind.apply then s
       else
         serveOr s i (spadDom s u) (s.spad.acc.any (fun r => accOf w r) || decide (0 < m.done))
           (fun s => answerWrite s (.tile u) m w .offline 0) (fun s => turnBack s i m)
           (fun s => applyAccess s u i m w ecc)
     | _, _ => s)
  | none => s

def execAccApply (i : Checked Nat) (s : State) : Out := .next (applyStep s i.it i.ecc)

/-- DISCARD: the staged addends of a chunk are freed (R183). -/
def discardStep (s : State) (i : Nat) : State :=
  match arrived s i with
  | some m =>
    (match m.body, m.dst with
     | .discardCmd t n q _ ep _ _, .tile u =>
       let hit := fun (r : AccRes) => decide (r.tile = t) && decide (r.stream = n) && decide (r.seq = q)
         && decide (r.epoch ≤ ep)
       serve s i m (spadDom s u) (s.spad.acc.any hit) id
         (fun s => { s with spad := { s.spad with acc := s.spad.acc.filter (fun r => !hit r) } })
     | _, _ => s)
  | none => s

def execDiscard (i : Nat) (s : State) : Out := .next (discardStep s i)

/-! ## Staging layout (R118, R119) -/

/-- The four slice sizes of a layout word. -/
def sliceBytes (w : Word) : List Nat := [fld w 7 0, fld w 15 8, fld w 23 16, fld w 31 24]

/-- The write of APPLY: the requested layout becomes pending, or is refused. -/
def stgApply (x : Tile) : Tile :=
  let ss := sliceBytes x.sliceA ++ sliceBytes x.sliceB
  if ss.any (fun v => decide (v = 0) || decide (64 < v)) || decide (64 < ss.sum) then { x with stgBadsum := true }
  else { x with stgPending := some (x.sliceA, x.sliceB) }

/-- LAYOUT_APPLIED. -/
def layoutStep (s : State) (t : Nat) : State :=
  let x := s.tile t
  match x.stgPending with
  | some p =>
    if coreRuns s t && x.streams.isEmpty then
      s.setTile t { x with activeA := p.1, activeB := p.2, stgPending := none }
    else s
  | none => s

def execLayoutApplied (t : Nat) (s : State) : Out := .next (layoutStep s t)

/-! ## Walker programs -/

def execWalkEnd (t n : Nat) (side : Side) (ecc : Ecc) (s : State) : Out := .next (walkerStep s t n side .wend ecc .clean)
def execEmit (t n : Nat) (side : Side) (ecc : Ecc) (s : State) : Out := .next (walkerStep s t n side .emit ecc .clean)
def execAddi (t n : Nat) (side : Side) (ecc : Ecc) (s : State) : Out := .next (walkerStep s t n side .addi ecc .clean)
def execAdda (t n : Nat) (side : Side) (ecc : Ecc) (s : State) : Out := .next (walkerStep s t n side .adda ecc .clean)
def execLdi (t n : Nat) (side : Side) (ecc : Ecc) (s : State) : Out := .next (walkerStep s t n side .ldi ecc .clean)
def execCset (t n : Nat) (side : Side) (ecc : Ecc) (s : State) : Out := .next (walkerStep s t n side .cset ecc .clean)
def execRep (t n : Nat) (side : Side) (ecc : Ecc) (s : State) : Out := .next (walkerStep s t n side .rep ecc .clean)
def execRepr (t n : Nat) (side : Side) (ecc : Ecc) (s : State) : Out := .next (walkerStep s t n side .repr ecc .clean)
def execIdx (t n : Nat) (side : Side) (ecc : WalkEcc) (s : State) : Out := .next (walkerStep s t n side .idx ecc.word ecc.data)
def execScan (t n : Nat) (side : Side) (ecc : WalkEcc) (s : State) : Out := .next (walkerStep s t n side .scan ecc.word ecc.data)

end Sys2Proof.Machine
end

