-- ==== Sys2Proof/Machine/Lodge.lean ====
section
/-! DEFINITION. Lodge counters, watches, timers, host watches and express counters at their homes (R239–R266, R415, R417,
R420, R427, R428), and the answers that reach a waiter or a signaller (R251, R253, R256, R402). -/

namespace Sys2Proof.Machine

/-! ## Counter classes (R242, R243) -/

/-- CLASS of a counter: 0 SEQUENCE, 1 CREDIT, 2 TALLY. -/
def cntClass (s : State) (c : Nat) : Nat := fld (Tab.get s.lodge.cfg 0 c) 31 30
def cntPartner (s : State) (c : Nat) : Nat := fld (Tab.get s.lodge.cfg 0 c) 29 16
def cntDepth (s : State) (c : Nat) : Nat := fld (Tab.get s.lodge.cfg 0 c) 15 0

/-- Value of a counter. -/
def cntVal (s : State) (c : Nat) : Word := Tab.get s.lodge.val 0 c

/-- Set the value of a counter. -/
def setCnt (s : State) (c : Nat) (v : Word) : State :=
  { s with lodge := { s.lodge with val := Tab.set s.lodge.val 0 c v } }

/-- Bank of a counter: its slice and its home. -/
def bankOfCnt (s : State) (c : Nat) : Nat × Nat := (sliceOf c, homeBank s c)

/-- Whether a counter value satisfies a condition (R242, R254): 1 EQ, else at or beyond the operand. A CREDIT counter
never reaches an operand of 2^31 or more. -/
def classHolds (cls : Nat) (v x : Word) (cond : Nat) : Bool :=
  if cls = 1 ∧ 2 ^ 31 ≤ x.toNat then false
  else if cond = 1 then decide (v = x)
  else if cls = 0 then serialGe v x
  else decide (x ≤ v)

def cntHolds (s : State) (c : Nat) (v x : Word) (cond : Nat) : Bool := classHolds (cntClass s c) v x cond

/-- Outcome of an update: the new value with the flag bit of `LD_STATUS` that it sets, or a failure code. -/
inductive UpdRes where
  | ok (v : Word) (flag : Option Nat)
  | fail (code : Nat)
  deriving DecidableEq, Repr

/-- SEQUENCE update with depth and the partner's value. -/
def seqUpdate (v amt : Word) (depth : Nat) (partner : Word) : UpdRes :=
  let n := v + amt
  if depth ≠ 0 ∧ (depth : Int) < (n - partner).toInt then .fail stOverrun else .ok n none

/-- CREDIT update: capacity `depth`, or 2^31 − 1. -/
def creditUpdate (v amt : Word) (depth : Nat) : UpdRes :=
  let cap : Int := if depth = 0 then 2 ^ 31 - 1 else depth
  let n : Int := (v.toNat : Int) + amt.toInt
  if n < 0 then .fail stUnderflow
  else if cap < n then .ok (BitVec.ofInt 32 cap) (some 2)
  else .ok (BitVec.ofInt 32 n) none

/-- TALLY update, saturating. -/
def tallyUpdate (v amt : Word) : UpdRes :=
  let n := satAdd v amt.toNat
  .ok n (if n = 0xFFFFFFFF then some 1 else none)

/-- The update of a counter by an amount; one that reads a poisoned counter fails (R417). -/
def newValue (s : State) (c : Nat) (amt : Word) : UpdRes :=
  if s.lodge.poison.contains c then .fail stUnrecovered
  else
    let v := cntVal s c
    let d := cntDepth s c
    let p := cntPartner s c
    if cntClass s c = 0 then
      if d ≠ 0 ∧ s.lodge.poison.contains p then .fail stUnrecovered else seqUpdate v amt d (cntVal s p)
    else if cntClass s c = 1 then creditUpdate v amt d
    else tallyUpdate v amt

/-! ## Watches -/

/-- Scope comparison for a host watch, which has no destination tile (R257). -/
def hostScope (s : State) (rel : Option Rel) (acq cid : Nat) : State :=
  match rel with
  | none => s
  | some r => if r.scope < acq ∨ r.scope = 0 then scopeMm s false 0 0 r.scope acq cid else s

/-- The registration that a WAKE watch came from. -/
def Watch.reg (x : Watch) (w : Waiter) : Reg :=
  { who := w, cid := x.cid, express := false, cond := x.cond, operand := x.operand, scope := x.scope }

/-- Send a WAKE delivery from a counter's home; those of one update are joined (R255, `joinWakes`). -/
def sendWake (s : State) (r : Reg) (result : Nat) (bad : Bool) : State :=
  postSmall s .lodge (.lodge (homeBank s r.cid)) (.tile r.who.tile) (.wake r result bad)

/-- Replace a watch slot. -/
def putWatch (s : State) (w : Nat) (x : Watch) : State :=
  { s with lodge := { s.lodge with watches := Tab.put s.lodge.watches w x } }

/-- Free a watch slot. -/
def freeWatch (s : State) (w : Nat) : State :=
  { s with lodge := { s.lodge with watches := Tab.erase s.lodge.watches w } }

/-- Timers armed in the bank of a counter. -/
def timersIn (s : State) (c : Nat) : Nat :=
  (s.lodge.timers.filter (fun k => decide ((k.slice, k.bank) = bankOfCnt s c))).length

/-- Arm a timer of the bank of watch `x`; `slot` is 4,096 when the watch keeps no slot. -/
def armTimer (s : State) (slot : Nat) (x : Watch) (deadline : DWord) : State :=
  let b := bankOfCnt s x.cid
  { s with lodge := { s.lodge with timers := s.lodge.timers ++
    [{ slice := b.1, bank := b.2, slot := slot, deadline := deadline, tcid := x.tsig.tcid, inc := x.tsig.inc }] } }

/-- One firing of a host watch (R260): the message, and the timer, or the deadline that waits for one. -/
def fireHost (s : State) (slot : Nat) (x : Watch) (rel : Option Rel) : State × Option DWord :=
  let s := hostScope s rel x.scope x.cid
  let s := if x.act % 2 = 1 then pendVec s x.vec else s
  if 2 ≤ x.act then
    let d := localTime s + x.tsig.offset.zeroExtend 64
    if timersIn s x.cid < 16 then (armTimer s (if x.rearm then slot else 4096) x d, none) else (s, some d)
  else (s, none)

/-- A REARM watch in its slot fires once for each step that its counter has passed (R260); `fuel` bounds the firings. -/
def rearmRun (rel : Option Rel) (slot : Nat) : Nat → State → State
  | 0, s => s
  | fuel + 1, s =>
    match Tab.find s.lodge.watches slot with
    | none => s
    | some x =>
      if x.due.isSome || !cntHolds s x.cid (cntVal s x.cid) x.operand x.cond then s
      else
        let r := fireHost s slot x rel
        match r.2 with
        | some d => putWatch r.1 slot { x with due := some d }
        | none =>
          if x.step = 0 then r.1
          else rearmRun rel slot fuel (putWatch r.1 slot { x with operand := x.operand + x.step.zeroExtend 32 })

/-- Firings of one evaluation of a REARM watch, at most. -/
def rearmFuel : Nat := 2 ^ 32

/-- Visit one slot of an evaluation whose counter stood at `start` (R254). A GE or EQ watch is compared with the value that the ACQUIREs
and CLAIMs of lower slots have left (DESIGN CHOICE, log 136). -/
def evalSlot (rel : Option Rel) (start : Word) (s : State) (slot : Nat) : State :=
  match Tab.find s.lodge.watches slot with
  | none => s
  | some x =>
    let v := cntVal s x.cid
    match x.who with
    | none =>
      if x.due.isSome then s
      else if x.rearm then rearmRun rel slot rearmFuel s
      else if cntHolds s x.cid v x.operand x.cond then
        let r := fireHost s slot x rel
        match r.2 with
        | some d => putWatch r.1 slot { x with due := some d }
        | none => freeWatch r.1 slot
      else s
    | some w =>
      if x.cond = 3 then
        if cntHolds s x.cid start x.operand 0 then
          let ok := cntHolds s x.cid v x.operand 0
          let s := compareScope (freeWatch s slot) rel x.scope w x.cid
          sendWake (if ok then setCnt s x.cid (v - x.operand) else s) (x.reg w) ok.toNat false
        else s
      else if cntHolds s x.cid v x.operand x.cond then
        let s := compareScope (freeWatch s slot) rel x.scope w x.cid
        sendWake (if x.cond = 2 then setCnt s x.cid (v - x.operand) else s) (x.reg w) 0 false
      else s

/-- Watch slots on a counter, ascending. -/
def slotsOn (s : State) (c : Nat) : List Nat :=
  (s.lodge.watches.filter (fun p => decide (p.2.cid = c))).map (·.1)

/-- Evaluate the watches on a counter in ascending slot number; a poisoned counter has no value to compare (R254). -/
def evaluate (s : State) (c : Nat) (rel : Option Rel) : State :=
  if s.lodge.poison.contains c then s else joinWakes s ((slotsOn s c).foldl (evalSlot rel (cntVal s c)) s)

/-- Release of the last update of a counter (R257). -/
def lastRel (s : State) (c : Nat) : Option Rel := Tab.find s.lodge.rel c

/-! ## Updates at the home (R250, R251) -/

/-- The release that an update carries. The give-back of R428 is no signal. -/
def Upd.rel (u : Upd) : Option Rel :=
  if u.kind = 5 then none
  else some { scope := u.scope, tile := if u.kind ≤ 1 then some u.tile else none }

/-- A failed update: its capture names the source tile and stream, or the host, a barrier or a timer. -/
def failUpd (s : State) (u : Upd) (code : Nat) : State :=
  let host := decide (2 ≤ u.kind ∧ u.kind ≤ 4)
  lodgeErr s host (if host then 0 else u.tile) (if u.kind = 0 then u.stream else 0) code u.cid

/-- Perform an update at its home: its code is 0 when it was applied. -/
def applyUpd (s : State) (u : Upd) : State × Nat :=
  match newValue s u.cid u.value with
  | .fail code => (failUpd s u code, code)
  | .ok v flag =>
    let s := setCnt s u.cid v
    let s := match flag with
      | some b => lodgeFlag s b u.cid
      | none => s
    let s := match u.rel with
      | some r => { s with lodge := { s.lodge with rel := Tab.put s.lodge.rel u.cid r } }
      | none => s
    (evaluate s u.cid u.rel, 0)

/-- Acknowledge an update to its tile: data signals and SIG. -/
def ackUpd (s : State) (src : Node) (u : Upd) (code : Nat) : State :=
  if u.kind ≤ 1 then postSmall s .lodge src (.tile u.tile) (.updAck u code) else s

/-- The slice domain of a counter. -/
def sliceDom (s : State) (c : Nat) : Nat := GenConfig.domFixed s.gen (sliceOf c)

/-- A watch is lost with its counter or its slot: its timer goes too, and a WAKE waiter receives a fault delivery (R415,
R417). -/
def loseWatch (s : State) (w : Nat) : State :=
  match Tab.find s.lodge.watches w with
  | none => s
  | some x =>
    let s := freeWatch s w
    let s := { s with lodge := { s.lodge with timers := s.lodge.timers.filter (fun k => decide (k.slot ≠ w)) } }
    match x.who with
    | some r => sendWake s (x.reg r) stUnrecovered true
    | none => s

/-- A lodge counter is poisoned; every WAKE registration on it receives a fault delivery (R417). -/
def poisonCnt (s : State) (c : Nat) : State :=
  let s := { s with lodge := { s.lodge with
      poison := if s.lodge.poison.contains c then s.lodge.poison else s.lodge.poison ++ [c] } }
  joinWakes s (((s.lodge.watches.filter (fun p => decide (p.2.cid = c) && p.2.who.isSome)).map (·.1)).foldl loseWatch s)

/-- What SECDED found at the counter's word: a double-bit error poisons the counter (R415, R417). -/
def cntEcc (s : State) (c : Nat) (ecc : Ecc) : State :=
  let u := luSlice (sliceOf c)
  match ecc with
  | .clean => s
  | .corrected => klog s .corrected .sramCe u { addr := BitVec.ofNat 64 c }
  | .bad => poisonCnt (klog s .unrecovered .sramUe u { addr := BitVec.ofNat 64 c }) c

/-- Watch slots of a counter that its evaluation finds bad (R415). -/
def watchEcc (s : State) (c : Nat) (lost : List (BitVec 12)) : State :=
  ((slotsOn s c).filter (fun w => lost.any (fun l => decide (l.toNat = w)))).foldl (fun s w =>
    loseWatch (klog s .unrecovered .sramUe (luSlice (w / 1024)) { addr := BitVec.ofNat 64 w }) w) s

/-- The two computations of an update are compared: a mismatch is masked by computing it again, and logged (R409, R431). -/
def dupCheck (s : State) (c : Nat) (agree : Bool) : State :=
  if agree then s else klog s .corrected .lodgeDup (luSlice (sliceOf c)) { addr := BitVec.ofNat 64 c }

/-- What the checks of an update of a counter find and do. -/
def updCheck (s : State) (c : Nat) (k : UpdCheck) : State := dupCheck (watchEcc (cntEcc s c k.ecc) c k.lost) c k.agree

/-- A signal at its home bank: a data signal already applied is acknowledged and changes nothing (R420). -/
def homeSignal (s : State) (u : Upd) (k : UpdCheck) : State :=
  let b := bankOfCnt s u.cid
  let h := Home.bank b.1 b.2
  let src := Node.lodge b.2
  if u.kind = 0 && seqOld s.lodge.applied h u.tile u.stream u.seq then ackUpd s src u 0
  else
    let r := applyUpd (updCheck s u.cid k) u
    let s := if u.kind = 0 ∧ r.2 = 0 then
        { r.1 with lodge := { r.1.lodge with applied := seqPut r.1.lodge.applied h u.tile u.stream u.seq } }
      else r.1
    ackUpd s src u r.2

/-- SIGNAL_APPLY. -/
def signalStep (s : State) (i : Nat) (k : UpdCheck) : State :=
  match arrived s i with
  | some m =>
    (match m.body, m.dst with
     | .upd u, .lodge h =>
       serve s i m (sliceDom s u.cid) false
         (fun s => ackUpd (failUpd s u stOffline) (.lodge h) u stOffline) (fun s => homeSignal s u k)
     | _, _ => s)
  | none => s

def execSignalApply (i : Nat) (check : UpdCheck) (s : State) : Out :=
  .next (signalStep s i check)

/-! ## Registrations (R253, R254) -/

/-- First slot of the bank of a counter, and slots per bank. -/
def bankSlots (s : State) (c : Nat) : Nat × Nat :=
  let per := 1024 / GenConfig.T s.gen
  (1024 * sliceOf c + per * homeBank s c, per)

/-- The lowest free watch slot in the bank of a counter. -/
def freeSlot (s : State) (c : Nat) : Option Nat :=
  let b := bankSlots s c
  ((List.range b.2).map (fun k => b.1 + k)).find? (fun w => (Tab.find s.lodge.watches w).isNone)

/-- The waiter of a registration still waits on it. -/
def stillWaits (s : State) (w : Waiter) : Bool :=
  let x := s.tile w.tile
  match w.stream with
  | some n =>
    (match Tab.find x.streams n with
     | some st => decide (st.src = w.src) && decide (st.ord = w.ord) && !st.launched
     | none => false)
  | none =>
    (match (x.source w.src).hold with
     | .instr _ => decide ((x.source w.src).ord = w.ord)
     | .wait h => decide (h.ord = w.ord) && decide (w.cond = 2)
     | _ => false)

/-- The watch slot of a WAKE registration. -/
def Reg.watch (r : Reg) : Watch :=
  { cid := r.cid, cond := r.cond, operand := r.operand, scope := r.scope, who := some r.who, act := 0, rearm := false
    vec := 0, step := 0, tsig := { inc := 0, tcid := 0, offset := 0 }, due := none }

/-- A FULL answer: the tile sends the registration again later (R253). -/
def answerFull (s : State) (r : Reg) : State :=
  let s := { s with lodge := { s.lodge with fullCount := satInc s.lodge.fullCount } }
  postSmall s .lodge (.lodge (homeBank s r.cid)) (.tile r.who.tile) (.regFull r)

/-- A registration at its home, with what its reads of the counter and of the watch slots find. -/
def homeRegister (s : State) (r : Reg) (k : UpdCheck) : State :=
  let c := r.cid
  let s := watchEcc (cntEcc s c k.ecc) c k.lost
  if s.lodge.poison.contains c then sendWake s r stUnrecovered true
  else
    let v := cntVal s c
    let rel := lastRel s c
    if cntHolds s c v r.operand r.cond then
      let s := compareScope s rel r.scope r.who c
      let s := if 2 ≤ r.cond then setCnt s c (v - r.operand) else s
      joinWakes s (evaluate (sendWake s r (decide (r.cond = 3)).toNat false) c rel)
    else
      match freeSlot s c with
      | none => answerFull s r
      | some w =>
        let others := slotsOn s c
        joinWakes s (others.foldl (evalSlot rel v) (putWatch s w r.watch))

/-- WATCH_REGISTRATION. -/
def registrationStep (s : State) (i : Nat) (k : UpdCheck) : State :=
  match arrived s i with
  | some m =>
    (match m.body, m.dst with
     | .watchReg r, .lodge _ =>
       serve s i m (sliceDom s r.cid) false (fun s => sendWake s r stOffline true) (fun s => homeRegister s r k)
     | _, _ => s)
  | none => s

def execWatchRegistration (i : Updating Nat) (s : State) : Out := .next (registrationStep s i.it i.check)

/-- WATCH_REGISTRATION_RETRY: a registration answered FULL is sent again. -/
def regRetryStep (s : State) (t k : Nat) : State :=
  let x := s.tile t
  match x.fullRegs[k]? with
  | none => s
  | some r =>
    if coreRuns s t then
      postSmall (s.setTile t { x with fullRegs := x.fullRegs.eraseIdx k }) .lodge (.tile t) (.lodge (homeBank s r.cid))
        (.watchReg r)
    else s

def execWatchRegistrationRetry (t k : Nat) (s : State) : Out := .next (regRetryStep s t k)

/-- The operand that a watch of an ended instruction took goes back (R428). -/
def giveBack (s : State) (r : Reg) (result : Nat) : State :=
  if r.cond = 2 ∨ (r.cond = 3 ∧ result = 1) then
    sendUpd s (.tile r.who.tile)
      { cid := r.cid, express := false, value := r.operand, scope := 0, kind := 5, tile := r.who.tile, stream := 0
        seq := 0, src := r.who.src, ord := r.who.ord, wire := r.who.tile }
  else s

/-- WATCH_DELIVERY: a firing, a fault delivery, or the answer FULL reaches the tile. -/
def deliveryStep (s : State) (i : Nat) : State :=
  match arrived s i with
  | some m =>
    (match m.body, m.dst with
     | .wake r result bad, .tile t =>
       let s := dropMsg s i
       if !coreRuns s t then s
       else
         let d := deliver s r result bad
         if d.2 || bad then d.1 else giveBack s r result
     | .regFull r, .tile t =>
       let s := dropMsg s i
       let x := s.tile t
       if coreRuns s t && stillWaits s r.who then s.setTile t { x with fullRegs := x.fullRegs ++ [r] } else s
     | _, _ => s)
  | none => s

def execWatchDelivery (i : Nat) (s : State) : Out := .next (deliveryStep s i)

/-- WATCH_WITHDRAWAL. -/
def withdrawalStep (s : State) (i : Nat) : State :=
  match arrived s i with
  | some m =>
    (match m.body, m.dst with
     | .withdraw r, .lodge _ =>
       serve s i m (sliceDom s r.cid) true id (fun s =>
         { s with lodge := { s.lodge with watches := s.lodge.watches.filter (fun p =>
             !(decide (p.2.who = some r.who) && decide (p.2.cid = r.cid))) } })
     | _, _ => s)
  | none => s

def execWatchWithdrawal (i : Nat) (s : State) : Out := .next (withdrawalStep s i)

/-! ## Timed signals (R260, R261) -/

/-- A timed signal applied at its counter; one whose slice does not serve it fails (R251, R402). -/
def timedApply (s : State) (tcid : Nat) (inc : BitVec 16) (k : UpdCheck) : State :=
  let u : Upd := { cid := tcid, express := false, value := inc.zeroExtend 32, scope := 2, kind := 4, tile := 0
                   stream := 0, seq := 0, src := .prog, ord := 0, wire := 0 }
  if s.active (sliceDom s tcid) then (applyUpd (updCheck s tcid k) u).1 else failUpd s u stOffline

/-- TIMED_SIGNAL: timer `k` of those armed reaches its deadline. -/
def timedStep (s : State) (k : Nat) (check : UpdCheck) : State :=
  match s.lodge.timers[k]? with
  | none => s
  | some x =>
    if x.deadline ≤ localTime s ∧ s.active (GenConfig.domFixed s.gen x.slice) then
      timedApply { s with lodge := { s.lodge with timers := s.lodge.timers.eraseIdx k } } x.tcid x.inc check
    else s

def execTimedSignal (timer : Updating Nat) (s : State) : Out := .next (timedStep s timer.it timer.check)

/-- The slot after its waiting timed signal has been armed or applied: a REARM watch moves on and is evaluated again. -/
def afterArm (s : State) (slot : Nat) (x : Watch) : State :=
  if x.rearm then
    let s := putWatch s slot { x with due := none, operand := x.operand + x.step.zeroExtend 32 }
    if x.step = 0 ∨ s.lodge.poison.contains x.cid then s else rearmRun (lastRel s x.cid) slot rearmFuel s
  else freeWatch s slot

/-- TIMER_ARM, with what the checks of the update that it may apply at once find. -/
def timerArmStep (s : State) (slot : Nat) (check : UpdCheck) : State :=
  match Tab.find s.lodge.watches slot with
  | none => s
  | some x =>
    match x.due with
    | none => s
    | some d =>
      if 16 ≤ timersIn s x.cid ∨ !s.active (sliceDom s x.cid) then s
      else if d ≤ localTime s then
        timedApply (lodgeFlag (afterArm s slot x) 0 x.tsig.tcid) x.tsig.tcid x.tsig.inc check
      else afterArm (armTimer s (if x.rearm then slot else 4096) x d) slot x

def execTimerArm (w : Updating (BitVec 12)) (s : State) : Out := .next (timerArmStep s w.it.toNat w.check)

/-! ## Control-port operations on counters -/

/-- A write of `LD_VALUE` (R245, R417). -/
def ldValueOp (s : State) (c : Nat) (v : Word) : State :=
  let r : Rel := { scope := 2, tile := none }
  let s := setCnt s c v
  let s := { s with lodge := { s.lodge with poison := s.lodge.poison.filter (fun p => decide (p ≠ c))
                                            rel := Tab.put s.lodge.rel c r } }
  evaluate s c (some r)

/-- A write of `LD_ADD`: its code is 0 when it was applied (R251, R258). -/
def ldAddOp (s : State) (c : Nat) (v : Word) : State × Nat :=
  applyUpd s
    { cid := c, express := false, value := v, scope := 2, kind := 2, tile := 0, stream := 0, seq := 0
      src := .prog, ord := 0, wire := 0 }

/-- A read of `LD_ATOM` (R259, R417). -/
def ldAtomOp (s : State) (c : Nat) : State × Word :=
  if s.lodge.poison.contains c then (s, 0)
  else
    let v := cntVal s c
    if cntClass s c = 1 ∧ v ≠ 0 then (setCnt s c (v - 1), v) else (s, v)

/-- A write of `LD_CFG` that R244 ignores. -/
def ldCfgBad (s : State) (c : Nat) (v : Word) : Bool :=
  decide (fld v 31 30 = 3)
  || (decide (fld v 31 30 = 0) && decide (fld v 15 0 ≠ 0)
      && decide (bankOfCnt s (fld v 29 16) ≠ bankOfCnt s c))

/-- A write of `LD_CFG` (R244, R245). -/
def ldCfgOp (s : State) (c : Nat) (v : Word) : State :=
  if ldCfgBad s c v then lodgeFlag s 3 c
  else evaluate { s with lodge := { s.lodge with cfg := Tab.set s.lodge.cfg 0 c v } } c (lastRel s c)

/-- A write of a context entry updates the copy at every leaf router (R247, R415). -/
def ldCtxOp (s : State) (k : Nat) (v : Word) : State :=
  let ks := (List.range (GenConfig.leaves s.gen)).map (fun p => ctxPlace p k)
  let l := s.lodge
  { s with lodge := { l with
      ctx := ks.foldl (fun c j => Tab.set c 0 j (v &&& 0xC0003FFF)) l.ctx
      ctxBad := l.ctxBad.filter (fun j => !ks.contains j) } }

/-! ## Host watches (R260, R261) -/

/-- The watch that the host-watch registers describe. -/
def hostWatch (l : Lodge) : Watch :=
  { cid := fld l.hwCounter 13 0, cond := fld l.hwAction 29 29, operand := l.hwOperand, scope := fld l.hwAction 27 26
    who := none, act := fld l.hwAction 31 30 + 1, rearm := bit l.hwAction 28, vec := fld l.hwAction 21 16
    step := BitVec.ofNat 16 (fld l.hwAction 15 0)
    tsig := { inc := BitVec.ofNat 16 (fld l.hwTsig 31 16), tcid := fld l.hwTsig 13 0, offset := l.hwOffset }
    due := none }

/-- RESULT, and SLOT where one is assigned. -/
def hwDone (s : State) (result : Nat) (slot : Option Nat) : State :=
  { s with lodge := { s.lodge with hwResult := BitVec.ofNat 2 result
                                   hwSlot := (slot.map (BitVec.ofNat 12)).getD s.lodge.hwSlot } }

/-- `LD_HW_CMD.GO`. -/
def hwGo (s : State) : State :=
  let x := hostWatch s.lodge
  let c := x.cid
  if x.act = 4 ∨ x.scope = 3 ∨ !cpCnt s c ∨ s.lodge.poison.contains c then hwDone s 3 none
  else if !s.active (sliceDom s c) then hwDone s 2 none
  else
    let rel := lastRel s c
    let others := slotsOn s c
    let rest := fun (s : State) => joinWakes s (others.foldl (evalSlot rel (cntVal s c)) s)
    let holds := cntHolds s c (cntVal s c) x.operand x.cond
    let keeps := x.rearm || !holds || (decide (2 ≤ x.act) && decide (16 ≤ timersIn s c))
    if keeps then
      match freeSlot s c with
      | none => hwDone s 2 none
      | some w => hwDone (rest (evalSlot rel (cntVal s c) (putWatch s w x) w)) 0 (some w)
    else hwDone (rest (fireHost s 4096 x rel).1) 1 none

/-- `LD_HW_CMD.CANCEL`: the slot and its unexpired timer are freed. -/
def hwCancel (s : State) (slot : Nat) : State :=
  match Tab.find s.lodge.watches slot with
  | none => s
  | some x =>
    if x.who.isSome then s
    else
      let s := freeWatch s slot
      { s with lodge := { s.lodge with timers := s.lodge.timers.filter (fun k => decide (k.slot ≠ slot)) } }

/-! ## Express counters (R263–R265, R420) -/

/-- The updates that reach the combiner in a cycle: the first that waits on each wire. -/
def firstPerWire : List Upd → List Nat → List Upd × List Upd
  | [], _ => ([], [])
  | u :: us, seen =>
    if seen.contains u.wire then
      let r := firstPerWire us seen
      (r.1, u :: r.2)
    else
      let r := firstPerWire us (u.wire :: seen)
      (u :: r.1, r.2)

/-- The release of a summed update: the lowest scope, and the tile it came from where only one did. -/
def lowestRel (us : List Upd) : Rel :=
  let sc := us.foldl (fun a u => min a u.scope) 2
  let ts := (us.filter (fun u => decide (u.scope = sc))).map (fun u => if u.kind ≤ 1 then some u.tile else none)
  { scope := sc, tile := match ts with
      | t :: r => if r.all (fun x => decide (x = t)) then t else none
      | [] => none }

/-- A broadcast value fires the watches of a tile's replica that it satisfies. -/
def xFireTile (e : Nat) (s : State) (t : Nat) : State :=
  let x := s.tile t
  let v := Tab.get s.lodge.xval 0 e
  let hit := fun (r : Reg) => decide (r.cid = e) && exHolds v r.operand r.cond
  let fired := x.xwatches.filter hit
  let s := s.setTile t { x with xwatches := x.xwatches.filter (fun r => !hit r) }
  let s := fired.foldl (fun s r =>
    (deliver (compareScope s (Tab.find s.lodge.xrel e) r.scope r.who e) r 0 false).1) s
  if fired.isEmpty then s else takeHeld s t

/-- Broadcast express counter `e` to every replica. -/
def xBroadcast (s : State) (e : Nat) : State := (List.range (GenConfig.T s.gen)).foldl (xFireTile e) s

/-- Set an express counter with its release and broadcast it. -/
def xSet (s : State) (e : Nat) (v : Word) (r : Rel) : State :=
  xBroadcast { s with lodge := { s.lodge with xval := Tab.set s.lodge.xval 0 e v, xrel := Tab.put s.lodge.xrel e r } } e

/-- Note the sequence numbers of the data signals among updates. -/
def xRecord (s : State) (us : List Upd) : State :=
  us.foldl (fun s u => if u.kind = 0 then
      { s with lodge := { s.lodge with applied := seqPut s.lodge.applied .combiner u.tile u.stream u.seq } } else s) s

/-- EXPRESS_UPDATE: one cycle of the combiner. -/
def expressStep (s : State) : State :=
  let r := firstPerWire s.lodge.xupds []
  let s := { s with lodge := { s.lodge with xupds := r.2 } }
  let new := r.1.filter (fun u => !(decide (u.kind = 0) && seqOld s.lodge.applied .combiner u.tile u.stream u.seq))
  let s := xRecord s new
  let cids := (new.map (·.cid)).eraseDups
  let s := cids.foldl (fun s e =>
    let us := new.filter (fun u => decide (u.cid = e))
    xSet s e (us.foldl (fun v u => v + u.value) (Tab.get s.lodge.xval 0 e)) (lowestRel us)) s
  r.1.foldl (fun s u => ackUpd s .band u 0) s

def execExpressUpdate (s : State) : Out := .next (expressStep s)

/-- A write of `LD_XVALUE`. -/
def ldXvalueOp (s : State) (e : Nat) (v : Word) : State := xSet s e v { scope := 2, tile := none }

/-- A write of `LD_XADD`: an update on the root's wire. -/
def ldXaddOp (s : State) (e : Nat) (v : Word) : State :=
  sendUpd s .band { cid := e, express := true, value := v, scope := 2, kind := 2, tile := 0, stream := 0, seq := 0
                    src := .prog, ord := 0, wire := 128 }

/-! ## Acknowledgements at the tile -/

/-- SIGNAL_ACKNOWLEDGEMENT: a SIG ends with DONE or with the code of its failed update (R56, R251). -/
def signalAckStep (s : State) (i : Nat) : State :=
  match arrived s i with
  | some m =>
    (match m.body, m.dst with
     | .updAck u code, .tile t =>
       if u.kind ≠ 1 then s
       else
         let s := dropMsg s i
         if !coreRuns s t then s
         else
           match pendSent (s.tile t) u.src u.ord with
           | some p => pendDone s t p code
           | none => s
     | _, _ => s)
  | none => s

def execSignalAcknowledgement (i : Nat) (s : State) : Out := .next (signalAckStep s i)

end Sys2Proof.Machine
end

