-- ==== Sys2Proof/Machine/Bandstand.lean ====
section
/-! DEFINITION. Barriers: arrivals, releases, host arrivals and resets (R58, R267–R272). -/

namespace Sys2Proof.Machine

/-- Barrier `b`. -/
def State.bar (s : State) (b : Nat) : Barrier := Tab.get s.band.bars Barrier.init b

/-- The state with barrier `b` replaced. -/
def State.setBar (s : State) (b : Nat) (x : Barrier) : State :=
  { s with band := { s.band with bars := Tab.put s.band.bars b x } }

/-- `BS_CFG<b>`. -/
def barCfg (s : State) (b : Nat) : Word := Tab.get s.band.cfg 0 b

/-- Participants N of a barrier (R267). -/
def barN (s : State) (b : Nat) : Nat := fld (barCfg s b) 9 0 + 1

/-! ## Completion of a BAR at its tile -/

/-- A source held at a BAR continues; the BAR ends with a code. -/
def endBarHold (s : State) (t : Nat) (src : Source) (b : BarSt) (code : Nat) : State :=
  noteWait (finishSimple (clearHold s t src) t b.entry b.pc b.line b.launch code) t src 2

/-- The BAR hold of a source with a number, if it is held there. -/
def barHold (s : State) (t : Nat) (src : Source) (ord : Nat) : Option BarSt :=
  match ((s.tile t).source src).hold with
  | .bar b => if b.ord = ord then some b else none
  | _ => none

/-- An arrival's entry leaves its pending-signal queue: a BAR with WREL = 0 ends with the code; one with WREL = 1 goes on
waiting when the arrival was counted, and ends otherwise (R58, R271). -/
def arrivalDone (s : State) (a : Arrival) (code : Nat) : State :=
  match pendSent (s.tile a.tile) a.src a.ord with
  | none => s
  | some p =>
    if p.wrel then
      let x := s.tile a.tile
      let ring := Source.isRing p.src
      let s := s.setTile a.tile (x.setPend ring ((x.pend ring).filter (fun q => decide (q ≠ p))))
      if code = stDone then s
      else
        match barHold s a.tile a.src a.ord with
        | some b => endBarHold s a.tile a.src b code
        | none => s
    else pendDone s a.tile p code

/-! ## Release (R269) -/

/-- Broadcast a release of a barrier to every tile. -/
def sendRelease (s : State) (b gen scope : Nat) (failed : Bool) : State :=
  (List.range (GenConfig.T s.gen)).foldl (fun s t =>
    postSmall s .lodge .band (.tile t) (.release b gen scope failed t)) s

/-- Release one generation, with its signal and its message. -/
def releaseOne (s : State) (b : Nat) : State :=
  let x := s.bar b
  let w := barCfg s b
  let s := s.setBar b { gen := (x.gen + 1) % 4, cnt0 := x.cnt1, cnt1 := 0, scope0 := x.scope1, scope1 := 2 }
  let s := sendRelease s b x.gen x.scope0 false
  let s := if bit w 24 then
      sendUpd s .band { cid := fld w 23 10, express := false, value := 1, scope := x.scope0, kind := 3, tile := 0
                        stream := 0, seq := 0, src := .prog, ord := 0, wire := 128 }
    else s
  if bit w 31 then pendVec s (fld w 30 25) else s

/-- Release the generations that are complete; the second slot holds at most one more. A count above an N that BS_CFG has lowered releases
too, as R272 has CNT0 do, and so does the CNT1 that moves up (R269 names only N itself; DESIGN CHOICE, log 137). -/
def releaseLoop : Nat → State → Nat → State
  | 0, s, _ => s
  | fuel + 1, s, b =>
    if barN s b ≤ (s.bar b).cnt0 then releaseLoop fuel (releaseOne s b) b else s

/-! ## Arrivals (R268, R270, R271) -/

/-- d of R268. -/
def arrivalD (x : Barrier) (a : Nat) : Nat := (a + 4 - x.gen) % 4

/-- An arrival is an overrun: d of 2 or 3, or a count above N. -/
def arrivalBad (s : State) (a : Arrival) : Bool :=
  let x := s.bar a.bar
  let d := arrivalD x a.a
  let n := barN s a.bar
  decide (2 ≤ d) || (decide (d = 0) && decide (n ≤ x.cnt0)) || (decide (d = 1) && decide (n ≤ x.cnt1))

/-- Count an arrival and release what it completes. -/
def countArrival (s : State) (a : Arrival) : State :=
  let x := s.bar a.bar
  let s := if arrivalD x a.a = 0 then s.setBar a.bar { x with cnt0 := x.cnt0 + 1, scope0 := min x.scope0 a.scope }
    else s.setBar a.bar { x with cnt1 := x.cnt1 + 1, scope1 := min x.scope1 a.scope }
  releaseLoop 3 s a.bar

/-- Capture an overrun arrival (R271). -/
def noteOverrun (s : State) (a : Arrival) : State :=
  let x := s.bar a.bar
  barErr s a.host a.tile (Source.num a.src) (arrivalD x a.a) x.gen a.bar

/-- The bandstand's domain. -/
def bandDom (s : State) : Nat := GenConfig.domFixed s.gen 4

/-- An arrival at the bandstand. -/
def bandArrival (s : State) (a : Arrival) : State :=
  if arrivalBad s a then postSmall (noteOverrun s a) .lodge .band (.tile a.tile) (.overrun a)
  else arrivalDone (countArrival s a) a stDone

/-- BARRIER_ARRIVAL. -/
def arrivalStep (s : State) (i : Nat) : State :=
  match arrived s i with
  | some m =>
    (match m.body, m.dst with
     | .arrive a, .band =>
       serve s i m (bandDom s) false (fun s => arrivalDone s a stOffline) (fun s => bandArrival s a)
     | _, _ => s)
  | none => s

def execBarrierArrival (i : Nat) (s : State) : Out := .next (arrivalStep s i)

/-- OVERRUN_ANSWER. -/
def overrunStep (s : State) (i : Nat) : State :=
  match arrived s i with
  | some m =>
    (match m.body, m.dst with
     | .overrun a, .tile t => if coreRuns s t then arrivalDone (dropMsg s i) a stBarOverrun else dropMsg s i
     | _, _ => s)
  | none => s

def execOverrunAnswer (i : Nat) (s : State) : Out := .next (overrunStep s i)

/-- A release reaches one source: its waiting BAR of that barrier and generation ends, or every one when the barrier was
reset (R269, R270, R272). One whose arrival is still in its queue has no generation and goes on waiting (DESIGN CHOICE, log 138). -/
def releaseSource (bar gen scope : Nat) (failed : Bool) (t : Nat) (s : State) (src : Source) : State :=
  match ((s.tile t).source src).hold with
  | .bar b =>
    if b.bar = bar ∧ b.gen < 4 ∧ (failed ∨ b.gen = gen) then
      if failed then endBarHold s t src b stBarOverrun
      else
        let s := if scope < b.scope then scopeMm s true t 0 scope b.scope bar else s
        endBarHold s t src b stDone
    else s
  | _ => s

/-- The sources of a tile. -/
def sources : List Source := .prog :: (List.range 8).map (fun k => .ring (k + 1))

/-- RELEASE_DELIVERY. -/
def releaseStep (s : State) (i : Nat) : State :=
  match arrived s i with
  | some m =>
    (match m.body, m.dst with
     | .release b g sc f _, .tile t =>
       let s := dropMsg s i
       if coreRuns s t then sources.foldl (releaseSource b g sc f t) s else s
     | _, _ => s)
  | none => s

def execReleaseDelivery (i : Nat) (s : State) : Out := .next (releaseStep s i)

/-! ## Control-port operations on barriers -/

/-- A write of `BS_CFG<b>` (R272). -/
def bsCfgOp (s : State) (b : Nat) (v : Word) : State :=
  releaseLoop 3 { s with band := { s.band with cfg := Tab.set s.band.cfg 0 b v } } b

/-- A write of `BS_ARRIVE`: whether it was counted (R270, R271). -/
def bsArriveOp (s : State) (v : Word) : State × Bool :=
  let a : Arrival := { bar := fld v 8 0, a := fld v 17 16, scope := 2, host := true, tile := 0, src := .prog, ord := 0 }
  if arrivalBad s a then (noteOverrun s a, false) else (countArrival s a, true)

/-- A write of `BS_RESET` (R272). The tiles' own counts clear at once, and the wake travels as a release does: it also ends a BAR sent
meanwhile (DESIGN CHOICE, log 138). -/
def bsResetOp (s : State) (v : Word) : State :=
  let b := fld v 8 0
  let s := s.setBar b Barrier.init
  let s := (List.range (GenConfig.T s.gen)).foldl (fun s t =>
    let x := s.tile t
    s.setTile t { x with barCnt := x.barCnt.filter (fun p => decide (p.1 / 2 ≠ b)) }) s
  sendRelease s b 0 2 true

end Sys2Proof.Machine
end

