-- ==== Sys2Proof/Machine/Pergola.lean ====
section
/-! DEFINITION. The pergola: ticks, slews, steps, loads and discipline, and what a change of the counter does to held
launches (R212–R224, R227–R232, R414). -/

namespace Sys2Proof.Machine

/-- The pergola's domain serves. -/
def pgOn (s : State) : Bool := s.active (GenConfig.domFixed s.gen 5)

/-- The counter ticks: its clock runs and it is not frozen (R216, R414). -/
def pgTicks (s : State) : Bool := pgOn s && s.pg.running && !s.pg.frozen

/-! ## Held launches -/

/-- Apply a change to the launch record of everything issued at a tile; `g` is told whether a record waits to launch and
whether nothing but its conditions and its time holds it. -/
def Hold.mapLaunch (turn : HeldInstr → Bool) (g : Bool → LaunchSt → LaunchSt) : Hold → Hold
  | .none => .none
  | .instr h => .instr { h with launch := g ((rowOf h.line).atIssue || turn h) h.launch }
  | .wait w => .wait { w with launch := g false w.launch }
  | .bar b => .bar { b with launch := g false b.launch }

/-- A change of launch records over a tile. That an earlier entry of the job is parked counts among the conditions of a launch,
with and without a stream (R230, R321; DEDUCED, log 16). -/
def Tile.mapLaunch (s : State) (t : Nat) (x : Tile) (g : Bool → LaunchSt → LaunchSt) : Tile :=
  let turn := fun (src : Source) (ord : Nat) (h : HeldInstr) => launchedBefore x src ord && !jobParked s t h.entry
  let hs := fun (src : Source) (v : SourceSt) => { v with hold := v.hold.mapLaunch (turn src v.ord) g }
  { x with
    streams := x.streams.map (fun p =>
      (p.1, { p.2 with launch := g (!p.2.launched && orderHeld x p.2.src p.2.ord && !jobParked s t p.2.entry) p.2.launch }))
    prog := hs .prog x.prog
    rings := x.rings.map (fun p => (p.1, hs (.ring p.1) p.2))
    issued := x.issued.map (fun i => { i with held := { i.held with launch := g (turn i.src i.ord i.held) i.held.launch } })
    pendProg := x.pendProg.map (fun p => { p with launch := g false p.launch })
    pendRing := x.pendRing.map (fun p => { p with launch := g false p.launch })
    fences := x.fences.map (fun f => { f with launch := g false f.launch }) }

/-- A change of launch records over every tile. -/
def mapLaunches (s : State) (g : Bool → LaunchSt → LaunchSt) : State :=
  { s with tiles := s.tiles.map (fun p => (p.1, Tile.mapLaunch s p.1 p.2 g)) }

/-- The launch time is crossed as the last condition to hold (R230). -/
def LaunchSt.cross (old new : DWord) (last : Bool) (la : LaunchSt) : LaunchSt :=
  match la.tL with
  | none => la
  | some tL =>
    if last && condsHeld la && decide (old < tL) && decide (tL ≤ new) then { la with timeLast := true } else la

/-- Note a step or a later load (R224). -/
def LaunchSt.step (la : LaunchSt) : LaunchSt := { la with stepped := true }

/-- A tick moves the counter to `v`; launch times that it crosses are noted, and a new source takes effect (R215). A slew still owed, a
step due, a captured `tb_tod` and a requested load stand over a change of source (DESIGN CHOICE, log 134). -/
def moveTime (s : State) (v : DWord) : State :=
  let old := s.pg.time
  let s := if s.pg.valid then mapLaunches s (LaunchSt.cross old v) else s
  { s with pg := { s.pg with time := v, srcIn := s.pg.src } }

/-! ## Ticks -/

/-- SLEW_INT and DEADBAND of `PG_DISC`. -/
def slewInt (s : State) : Nat := fld s.pg.disc 31 16
def deadband (s : State) : Nat := fld s.pg.disc 7 0

/-- What the coming tick does (R216, R219, R220), whatever the source is now (DESIGN CHOICE, log 134). -/
inductive TickKind where
  | load | step | adjust | plain
  deriving DecidableEq, Repr

def tickKind (s : State) : TickKind :=
  let p := s.pg
  if p.loadReq || p.todDue.isSome then .load
  else if p.stepDue.isSome then .step
  else if decide (p.owed ≠ 0) && decide (slewInt s ≤ p.slewCnt + 1) then .adjust
  else .plain

/-- TB_TICK: the counter advances by 4 Tc. A frozen counter stands, and the tick gives a change of source its effect, so that a load
can end the freeze (R215, R414). -/
def plainTick (s : State) : State :=
  if pgTicks s && decide (tickKind s = .plain) then
    moveTime { s with pg := { s.pg with slewCnt := if s.pg.owed = 0 then 0 else s.pg.slewCnt + 1 } } (s.pg.time + 4)
  else if pgOn s && s.pg.running && s.pg.frozen && decide (tickKind s ≠ .load) then { s with pg := { s.pg with srcIn := s.pg.src } }
  else s

def execTbTick (s : State) : Out := .next (plainTick s)

/-- SLEW_ADJUST: 5 Tc where the owed amount is positive, 3 Tc where it is negative (R219). -/
def adjustTick (s : State) : State :=
  if pgTicks s && decide (tickKind s = .adjust) then
    let up := decide (0 < s.pg.owed.toInt)
    moveTime { s with pg := { s.pg with owed := if up then s.pg.owed - 1 else s.pg.owed + 1, slewCnt := 0 } }
      (s.pg.time + (if up then 5 else 3))
  else s

def execSlewAdjust (s : State) : Out := .next (adjustTick s)

/-- A step or later load is counted and raises TB_STEP (R220). -/
def countStep (s : State) : State :=
  raise { s with pg := { s.pg with steps := satInc s.pg.steps } } evTbStep 0 0 0 0

/-- STEP: the tick's value plus Δ (R220, R222–R224). A launch time that it carries the counter past is not the last condition
of R230: the lateness is measured on the stepped counter (R222). -/
def stepTick (s : State) : State :=
  if pgTicks s && decide (tickKind s = .step) then
    let d := (s.pg.stepDue.getD 0).toInt
    let s := mapLaunches s (fun _ la => la.step)
    countStep { s with pg := { s.pg with stepDue := none, slewCnt := 0, lastFsync := addI s.pg.lastFsync d
                                         time := addI (s.pg.time + 4) d, srcIn := s.pg.src } }
  else s

def execStep (s : State) : Out := .next (stepTick s)

/-! ## Loads (R216, R227) -/

/-- Resolve a slot-relative time that waited for the first load, and note what the invalid timebase held (R217, R227). -/
def LaunchSt.firstLoad (s : State) (line : Line) (la : LaunchSt) : LaunchSt :=
  let la := if la.kind = 2 ∧ la.tL = none then { la with tL := some (resolveSlot s line la.lreg (localTime s)) } else la
  match la.tL with
  | some tL => if la.kind ≠ 0 ∧ tL ≤ localTime s then { la with tbinv := true } else la
  | none => la

/-- The first load over a tile: streams and held instructions that have not launched. -/
def Tile.firstLoad (s : State) (x : Tile) : Tile :=
  let hs := fun (v : SourceSt) => match v.hold with
    | .instr h => { v with hold := .instr { h with launch := h.launch.firstLoad s h.line } }
    | _ => v
  { x with
    streams := x.streams.map (fun p =>
      (p.1, if p.2.launched then p.2 else { p.2 with launch := p.2.launch.firstLoad s p.2.line }))
    prog := hs x.prog
    rings := x.rings.map (fun p => (p.1, hs p.2))
    issued := x.issued.map (fun i => { i with held := { i.held with launch := i.held.launch.firstLoad s i.held.line } }) }

/-- The value that a load takes: the captured one, or `PG_LOAD` at the tick. -/
def loadValue (s : State) : DWord := s.pg.todDue.getD s.pg.load

/-- The registers after an applied load. The 11 ms of R221 run from it until an edge comes (DESIGN CHOICE, log 135). -/
def loaded (p : Pergola) (v : DWord) : Pergola :=
  { p with time := v, srcIn := p.src, frameRef := v, valid := true, owed := 0, slewCnt := 0, stepDue := none, loadReq := false
           todDue := none, frozen := false, lastFsync := v, missed := false }

/-- TIMEBASE_LOAD: the first load is applied; a later one, or one that ends a freeze, is a step; a later one without
STEP_EN is ignored (R216, R414). -/
def loadTick (s : State) : State :=
  if pgOn s && s.pg.running && decide (tickKind s = .load) then
    let v := loadValue s
    if s.pg.frozen ∨ (s.pg.valid ∧ s.pg.stepEn) then
      let s := mapLaunches s (fun _ la => la.step)
      let s := { s with pg := loaded s.pg v }
      countStep { s with tiles := s.tiles.map (fun p => (p.1, Tile.firstLoad s p.2)) }
    else if s.pg.valid then
      pgAlarm { s with pg := { s.pg with loadReq := false, todDue := none, srcIn := s.pg.src } } .loadign
    else
      let s := { s with pg := loaded s.pg v }
      { s with tiles := s.tiles.map (fun p => (p.1, Tile.firstLoad s p.2)) }
  else s

def execTimebaseLoad (s : State) : Out := .next (loadTick s)

/-! ## The timebase port (R215, R216, R218, R221) -/

/-- TB_TOD_LOAD. -/
def todStep (s : State) (tod : DWord) : State :=
  if pgOn s && decide (s.pg.srcIn = 1) then { s with pg := { s.pg with tod := some tod } } else s

def execTbTodLoad (tod : DWord) (s : State) : Out := .next (todStep s tod)

/-- Frame length in Tc. -/
def frameTc : Int := 19660800

/-- e of R218: the distance from the nearest frame boundary. -/
def frameErr (s : State) : Int :=
  let r := diffI s.pg.time s.pg.frameRef % frameTc
  if r < frameTc / 2 then r else r - frameTc

/-- The correction that a measured error chooses (R218). -/
def correct (s : State) (e : Int) : State :=
  let lim := s.pg.slewLim.toNat
  let s := { s with pg := { s.pg with err := BitVec.ofInt 32 e, stepDue := none, owed := 0, slewCnt := 0 } }
  if e.natAbs ≤ deadband s then s
  else if e.natAbs ≤ lim ∨ !s.pg.stepEn then
    let s := { s with pg := { s.pg with owed := BitVec.ofInt 32 (-e) } }
    if lim < e.natAbs then pgAlarm s .bigerr else s
  else { s with pg := { s.pg with stepDue := some (BitVec.ofInt 32 (-e)) } }

/-- TB_FSYNC: a rising edge of `tb_fsync`. -/
def fsyncStep (s : State) : State :=
  if pgOn s && decide (s.pg.srcIn = 1) then
    match s.pg.tod with
    | some v => { s with pg := { s.pg with tod := none, todDue := some v, lastFsync := s.pg.time, missed := false } }
    | none =>
      if s.pg.valid then
        let s := { s with pg := { s.pg with lastFsync := s.pg.time, missed := false } }
        if s.pg.discEn then correct s (frameErr s) else s
      else s
  else s

def execTbFsync (s : State) : Out := .next (fsyncStep s)

/-- FSMISS: no edge within 11 ms of the previous one, or of the load where none has come since (R221; DESIGN CHOICE, log 135). -/
def fsmissStep (s : State) : State :=
  let p := s.pg
  if pgOn s && decide (p.srcIn = 1) && p.valid && !p.missed && decide (21626880 ≤ diffI p.time p.lastFsync) then
    pgAlarm { s with pg := { p with missed := true } } .fsmiss
  else s

def execFsmiss (s : State) : Out := .next (fsmissStep s)

/-- TB_MISMATCH (R414). -/
def mismatchStep (s : State) : State :=
  if pgTicks s then klog { s with pg := { s.pg with frozen := true } } .unrecovered .tbMismatch luPergola {} else s

def execTbMismatch (s : State) : Out := .next (mismatchStep s)

end Sys2Proof.Machine
end

