-- ==== Sys2Proof/Machine/Turnstile.lean ====
section
/-! DEFINITION. Grants of the turnstiles: streams at the points of a tile, and queues of flits at the points of the
promenade (R19, R20, R293, R294, R297, R299–R302, R305). -/

namespace Sys2Proof.Machine

/-! ## Points inside a tile -/

/-- The requesters of a point inside a tile (R293). -/
def tileCands (s : State) : Point → List Cand
  | .readIssue t => streamCands s t true (fun n st => wantsRead s t n st)
  | .writeIssue t => streamCands s t false (fun n st => wantsWrite s t n st)
  | .datapath t => streamCands s t false (fun n st => wantsRow s t n st)
  | _ => []

/-! ## Queues of flits -/

/-- Number of a traffic class. -/
def Cls.num : Cls → Nat
  | .request => 0
  | .response => 1
  | .lodge => 2
  | .control => 3

/-- A message waits at point `p`. -/
def waitsAt (p : Point) (m : Msg) : Bool := decide (m.route.head? = some p)

/-- The requester that a message's flits belong to: one input and class (R294). Its number, by which round robin goes, is the
model's (DESIGN CHOICE, log 127). -/
def Msg.queue (m : Msg) : Nat := 4 * m.inp + Cls.num m.cls

/-- How `TS_STARVE` names a requester of flits: 0 stream, 1 window port, 2 gatehouse, 3 other (R305). RTILE of a requester that
is neither a stream nor a port is 0 for the gatehouse, and for others the number of the sender's tile, lodge bank or port (DESIGN
CHOICE, log 128). -/
def Msg.starver (m : Msg) : Nat × Nat × Nat :=
  match m.body with
  | .rd r => (0, r.tile, r.stream)
  | .rdResp r _ _ => (0, r.tile, r.stream)
  | .wr w => (0, w.tile, w.stream)
  | .wrAck w _ _ => (0, w.tile, w.stream)
  | .discardCmd t n _ _ _ _ _ => (0, t, n)
  | .wp q => (1, q.port, 0)
  | .wpResp q _ _ => (1, q.port, 0)
  | .gh _ => (2, 0, 0)
  | .ghResp _ _ _ => (2, 0, 0)
  | .entry _ _ _ => (2, 0, 0)
  | _ => (3, match m.src with
      | .tile t => t
      | .lodge h => h
      | .sysPort n => n
      | .winPort l => l
      | _ => 0, 0)

/-- A queue of flits as a requester, by its first flit; no slack shows below the floor (R304), and the control class has none that is
compared (R296). -/
def Msg.cand (s : State) (m : Msg) : Cand :=
  let k := m.starver
  let free := decide (m.cls = .control)
  { id := m.queue, slack := if free then 0 else max (slackFloor s) m.slack, prio := if free then 0 else m.prio, kind := k.1, rtile := k.2.1, rstream := k.2.2 }

/-- The first flit of every queue at a point, with its place among those in flight; `seen` lists the queues met. -/
def heads (p : Point) : List Msg → Nat → List Nat → List (Nat × Msg)
  | [], _, _ => []
  | m :: ms, i, seen =>
    if waitsAt p m ∧ !seen.contains m.queue then (i, m) :: heads p ms (i + 1) (m.queue :: seen)
    else heads p ms (i + 1) seen

/-- A point on a router's output (R293). -/
def Point.isRouter : Point → Bool
  | .tileOut _ => true
  | .pavOut _ _ => true
  | _ => false

/-- The link of a point carries flits: its router serves and the link has not failed (R412). -/
def linkUp (s : State) (p : Point) : Bool :=
  !s.prom.failed.contains p && (match p with
    | .pavOut q _ => s.active (GenConfig.domRouter s.gen q)
    | .winPort l => s.active (GenConfig.domRouter s.gen l)
    | _ => true)

/-- Room for one more request at a port (R340, R345). -/
def portRoom (x : SysPort) : Bool := decide (x.tags.length + x.waiting.length < 1024)

/-- The first flit of a queue can take a start: at a bank it has its turn, at a system port the port has credit (R31, R300). -/
def flitReady (s : State) (p : Point) (h : Nat × Msg) : Bool :=
  match p with
  | .bank _ _ => inTurn s h.1 h.2
  | .sysPort n => portRoom (s.sp n)
  | _ => true

/-- The flits that wait at a point, one for each queue. -/
def flitHeads (s : State) (p : Point) : List (Nat × Msg) :=
  (heads p s.prom.net 0 []).filter (fun h => flitReady s p h)

/-- Index and bitmap reads that wait at a bank (R293). -/
def indexCands (s : State) (p : Point) : List Cand :=
  match p with
  | .bank t _ =>
    (s.tile t).streams.flatMap (fun q => [Side.read, Side.write].filterMap (fun side =>
      match walkerReads s t q.2 side with
      | some r =>
        if coreRuns s t && (banksOf s r.1 r.2).contains p && !(pointSt s p).given.contains (indexId q.1 side) then
          some { streamCand s t q.1 q.2 false with id := indexId q.1 side }
        else none
      | none => none))
  | _ => []

/-- The requesters of a point of the promenade or of a bank. -/
def pointCands (s : State) (p : Point) : List Cand := (flitHeads s p).map (fun h => h.2.cand s) ++ indexCands s p

/-! ## The decision and the starts -/

/-- Tiles below a pavilion. -/
def tilesBelow (c : GenConfig) (q : Nat) : Nat :=
  ((List.range (GenConfig.T c)).filter (fun t => (GenConfig.upFrom c (GenConfig.leafOf c t)).contains q)).length

/-- Lanes of the link at a router output: three for each tile below the unit whose link it is (R24). The link to an attached port or
subsystem is as wide as the router's own (DESIGN CHOICE, log 110). -/
def lanesOf (s : State) (p : Point) : Nat :=
  match p with
  | .pavOut _ (.tile _) => 3
  | .pavOut _ (.pav q) => 3 * tilesBelow s.gen q
  | .pavOut q _ => 3 * tilesBelow s.gen q
  | _ => 3

/-- Flits that a point can start in one cycle. A flit takes two lane-cycles: where one is left over it starts, and takes the other
of the cycle after (R24, R300). A point that is no router output grants one. -/
def startsOf (s : State) (p : Point) : Nat :=
  if Point.isRouter p then (lanesOf s p + 1 - (pointSt s p).half.toNat) / 2 else 1

/-- The most flits that a point can start in one cycle, of which a decision ranks one more as the runner-up (R301). -/
def mostStarts (s : State) (p : Point) : Nat := if Point.isRouter p then (lanesOf s p + 1) / 2 else 1

/-- A flit that starts this cycle takes a lane-cycle of the next one: `k` of them start. -/
def leftOver (s : State) (p : Point) (k : Nat) : Bool :=
  Point.isRouter p && decide (lanesOf s p - (pointSt s p).half.toNat < 2 * k)

/-- Numbers of the first requesters of a point in the order of their grants, after winner `last` and with a control flit that has
waited `age` cycles (R299, R300): at a router output a control flit that has waited 15 cycles, then the lodge class, then requests
and responses, then control. -/
def pointOrder (s : State) (p : Point) (last age n : Nat) : List Nat :=
  let rank := fun (cs : List Cand) => (ranked last n cs).map (·.id)
  if Point.isRouter p then
    let of := fun (f : Cls → Bool) => ((flitHeads s p).filter (fun h => f h.2.cls)).map (fun h => h.2.cand s)
    let ctl := rank (of (fun c => decide (c = .control)))
    let due := if 15 ≤ age then ctl.take 1 else []
    ((due ++ rank (of (fun c => decide (c = .lodge)))
      ++ rank (of (fun c => decide (c = .request) || decide (c = .response))) ++ ctl).eraseDups).take n
  else rank (pointCands s p)

/-- A flit has passed a point: it goes to the end of the queue of its next one. At its unit a flit before the message's last is kept
until that one completes the message (R302). -/
def passPoint (p : Point) (m : Msg) : List Msg :=
  let m' := { m with route := m.route.drop 1, inp := Point.inpNum p }
  match m.body with
  | .wakes ws => forkWakes m' (ws.map (fun w => { w with route := w.route.drop 1 }))
  | _ => if m'.route.all Point.isBank && decide (m.index + 1 < m.flits) then [] else [m']

/-- Flit `i` takes a start at a point, or at a bank its message takes an access, for which it keeps its place. -/
def sendFlit (p : Point) (net : List Msg) (i : Nat) (m : Msg) : List Msg :=
  if Point.isBank p then net.set i { m with route := [] } else net.eraseIdx i ++ passPoint p m

/-- Requester `k` takes a start at a point: a message's flit or access, or an index read's access. -/
def startOne (s : State) (p : Point) (k : Nat) : State :=
  match (flitHeads s p).find? (fun h => decide (h.2.queue = k)) with
  | some (i, m) => { s with prom := { s.prom with net := sendFlit p s.prom.net i m } }
  | none =>
    let q := pointSt s p
    setPoint s p { q with given := q.given ++ [k] }

/-- The starts of one cycle by the decision made for it, at most `n`: the winners, and the runner-up in place of one that has
nothing to send (R301). Answers the requesters that took one. -/
def sendStarts (p : Point) : Nat → List Nat → List Nat → State → State × List Nat
  | 0, _, took, s => (s, took)
  | _, [], took, s => (s, took)
  | n + 1, k :: ks, took, s =>
    let cs := (pointCands s p).filter (fun c => !took.contains c.id)
    if cs.any (fun c => decide (c.id = k)) then sendStarts p n ks (took ++ [k]) (startOne (accountGrant s p k cs) p k)
    else sendStarts p (n + 1) ks took s

/-- TURNSTILE_GRANT at a point of the promenade or a bank: the starts decided in the cycle before, and the decision for the next
from what waits at the start of this one, after this cycle's winner (R299–R302, R305). -/
def pointStep (s : State) (p : Point) : State :=
  if !linkUp s p then s
  else
    let q := pointSt s p
    let ctl := (flitHeads s p).any (fun h => decide (h.2.cls = .control))
    let r := sendStarts p (startsOf s p) q.granted [] s
    let s1 := match r.2, q.granted with
      | [], w :: _ => accountGrant r.1 p w (pointCands s p)
      | _, _ => r.1
    let q1 := pointSt s1 p
    let age := if ctl && !r.2.any (fun k => decide (k % 4 = 3)) then q.ctlAge + 1 else 0
    setPoint s1 p { q1 with granted := pointOrder s p q1.last age (mostStarts s p + 1), ctlAge := age
                            half := leftOver s p r.2.length }

/-- TURNSTILE_GRANT: inside a tile the decision for the next cycle; elsewhere a cycle of the point. -/
def grantStep (s : State) (p : Point) : State :=
  match p with
  | .readIssue t => if coreRuns s t then decideNext s p (tileCands s p) else s
  | .writeIssue t => if coreRuns s t then decideNext s p (tileCands s p) else s
  | .datapath t => if coreRuns s t then decideNext s p (tileCands s p) else s
  | _ => pointStep s p

def execTurnstileGrant (p : Point) (s : State) : Out := .next (grantStep s p)

/-- SLACK_DECREMENT: the carried slack of a waiting flit decreases, down to the floor (R297). -/
def slackStep (s : State) (i : Nat) : State :=
  match s.prom.net[i]? with
  | some m =>
    if m.route.isEmpty ∨ m.slack ≤ slackFloor s then s
    else { s with prom := { s.prom with net := s.prom.net.set i { m with slack := m.slack - 1 } } }
  | none => s

def execSlackDecrement (i : Nat) (s : State) : Out := .next (slackStep s i)

end Sys2Proof.Machine
end

