-- ==== Sys2Proof/Machine/Gatehouse.lean ====
section
/-! DEFINITION. Rings, jobs, dispatch, completions and messages (R310–R328, R333, R334, R438). -/

namespace Sys2Proof.Machine

/-- Gatehouse domain 0 serves. -/
def gateOn (s : State) : Bool := s.active (GenConfig.domFixed s.gen 6)

/-! ## Addresses of gatehouse accesses -/

/-- Entries of a ring. -/
def Ring.len (r : Ring) : Nat := 2 ^ Ring.size r

/-- Address of entry `i` (R310). -/
def Ring.entryAddr (r : Ring) (i : Nat) : DWord := r.base + BitVec.ofNat 64 (128 * (i % r.len))

/-- The completion of entry `i`. -/
def Ring.comp? (r : Ring) (i : Nat) : Option Comp := r.comps.find? (fun c => decide (c.idx = i))

/-- Bytes 72–127 of a completion (R317). -/
def Comp.bytes (c : Comp) : List Byte :=
  wordBytes [c.w72, c.w76] ++ toBytes 8 c.tLaunch.toNat ++ toBytes 8 c.tRetire.toNat
    ++ (if c.prog.isEmpty then List.replicate 32 0 else wordBytes c.prog)

/-- Bytes 64–67 at completion: OWN = 0, the flags as captured, reserved bits 0 (R317). -/
def Comp.ownBytes (c : Comp) : List Byte := toBytes 4 (c.flags &&& 0x78000000).toNat

/-- Address, length and write data of a gatehouse access; no data for a read (R310, R317, R324, R325, R333). -/
def ghAccess (s : State) (a : GhAcc) : DWord × Nat × Option (List Byte) :=
  match a with
  | .fetch q first n => ((s.ring q).entryAddr first, 128 * n, none)
  | .comp q k => ((s.ring q).entryAddr k + 72, 56, some ((((s.ring q).comp? k).map Comp.bytes).getD []))
  | .own q k => ((s.ring q).entryAddr k + 64, 4, some ((((s.ring q).comp? k).map Comp.ownBytes).getD []))
  | .shadow q v => ((s.ring q).shadow, 4, some (toBytes 4 v.toNat))
  | .msg _ addr data => (addr, 4, some (toBytes 4 data.toNat))

/-- Partition of a gatehouse access (R347). -/
def ghPart (s : State) : GhAcc → Nat
  | .fetch q _ _ => Ring.part (s.ring q)
  | .comp q _ => Ring.part (s.ring q)
  | .own q _ => Ring.part (s.ring q)
  | .shadow q _ => Ring.part (s.ring q)
  | .msg _ _ _ => if s.always.partCtrl.toNat < 8 then s.always.partCtrl.toNat else 0

/-! ## Answers to gatehouse accesses (R324, R438) -/

/-- Change the completion of entry `i` of a ring. -/
def setComp (s : State) (q i : Nat) (f : Comp → Comp) : State :=
  let r := s.ring q
  s.setRing q { r with comps := r.comps.map (fun c => if c.idx = i then f c else c) }

/-- Accesses of ring `q` that have been sent and not answered. -/
def Ring.inFlight (q : Nat) (r : Ring) : List GhAcc :=
  let own := r.comps.filterMap (fun c => match c.phase with
    | .sent => some (GhAcc.comp q c.idx)
    | .ownSent => some (GhAcc.own q c.idx)
    | _ => none)
  r.fetching.map (fun f => GhAcc.fetch q f.1 f.2) ++ own.filter (fun a => !(r.held ++ r.heldX).contains a)
    ++ r.shadowOut.map (fun v => GhAcc.shadow q v)

/-- Hold an access after a failed attempt: with HOSTERR, or with XFAULT after a translation fault. -/
def holdAccess (s : State) (q : Nat) (a : GhAcc) (x : Bool) : State :=
  let s := ringFlag s q (if x then 1 else 0)
  let r := s.ring q
  s.setRing q (if x then { r with heldX := r.heldX ++ [a] } else { r with held := r.held ++ [a] })

/-- The ring of a gatehouse access; none for a message write. -/
def GhAcc.ring? : GhAcc → Option Nat
  | .fetch q _ _ => some q
  | .comp q _ => some q
  | .own q _ => some q
  | .shadow q _ => some q
  | .msg _ _ _ => none

/-- An access of ring `q` has been answered OKAY. -/
def ringOkay (s : State) (q : Nat) (a : GhAcc) (data : List Byte) : State :=
  match a with
  | .fetch _ i _ => s.setRing q { s.ring q with arrived := (s.ring q).arrived ++ [(i, data)] }
  | .comp _ k => setComp s q k (fun c => { c with phase := .landed })
  | .own _ k => setComp s q k (fun c => { c with phase := .ownLanded })
  | _ => s

/-- An access of a ring is no longer in flight. -/
def Ring.landed (r : Ring) (a : GhAcc) : Ring :=
  match a with
  | .fetch _ i n => { r with fetching := r.fetching.erase (i, n) }
  | .shadow _ v => { r with shadowOut := r.shadowOut.erase v }
  | _ => r

/-- The answer to a gatehouse access. One that the gatehouse does not wait for changes nothing: its ring has been reset. -/
def ghAnswer (s : State) (a : GhAcc) (ans : Answer) (data : List Byte) : State :=
  match a.ring? with
  | none => s
  | some q =>
    let r := s.ring q
    if !(r.inFlight q).contains a then s
    else
      let s := s.setRing q (r.landed a)
      if ans = .okay then ringOkay s q a data else holdAccess s q a (decide (ans = .xfault))

/-- Send a gatehouse access to the system port of its address (R296, R323, R344), with its slack at the floor or above (R304).
One whose bytes touch the scratchpad window never reaches a port (R291) and is answered DENIED (DESIGN CHOICE, log 101). -/
def ghPost (s : State) (a : GhAcc) : State :=
  let x := ghAccess s a
  let p := portOf s none x.1
  let inWindow := (windowOff s x.1).isSome || (windowOff s (x.1 + BitVec.ofNat 64 (x.2.1 - 1))).isSome
  if inWindow then ghAnswer s a .denied []
  else post s .request .gate (.sysPort p) [.sysPort p] (max (slackFloor s) (sext 16 (fld s.turn.fixed 15 0))) 0
    (if x.2.2.isSome then flitsOf x.1 x.2.1 else 1) (.gh a)

/-- Write the shadow of a ring's DONE (R325). -/
def sendShadow (s : State) (q : Nat) (v : Word) : State :=
  ghPost (s.setRing q { s.ring q with shadowOut := (s.ring q).shadowOut ++ [v] }) (.shadow q v)

/-! ## Ring enable and doorbell (R311–R313, R316, R438) -/

/-- Another enabled ring delivers to the same source. -/
def sourceTaken (s : State) (q : Nat) (r : Ring) : Bool :=
  s.gate.rings.any (fun p => decide (p.1 ≠ q) && p.2.en && decide (Ring.tile p.2 = Ring.tile r)
    && decide (Ring.rsrc p.2 = Ring.rsrc r))

/-- The checks of R311. -/
def enableOk (s : State) (q : Nat) : Bool :=
  let r := s.ring q
  let last := r.base + BitVec.ofNat 64 (128 * r.len - 1)
  decide (3 ≤ Ring.size r) && decide (Ring.size r ≤ 16)
  && decide (fld r.base 11 0 = 0) && (windowOff s r.base).isNone && (windowOff s last).isNone
  && decide (Ring.tile r < GenConfig.T s.gen) && decide (partOf s (Ring.tile r) = Ring.part r)
  && !sourceTaken s q r

/-- A write of 1 to `GH_RING<q>_CTRL.EN`. -/
def ringEnableOp (s : State) (q : Nat) : State :=
  let r := s.ring q
  if r.en then s
  else if enableOk s q then s.setRing q { r with en := true }
  else ghCfgErr s q

/-- Fetches held after a failed attempt: first entry and count. -/
def Ring.heldFetches (r : Ring) : List (Nat × Nat) :=
  (r.held ++ r.heldX).filterMap (fun a => match a with
    | .fetch _ i n => some (i, n)
    | _ => none)

/-- Entries of a ring's outstanding and held fetches and of answers not captured. -/
def Ring.outstanding (r : Ring) : Nat :=
  ((r.fetching ++ r.heldFetches).map (·.2)).sum + (r.arrived.map (fun a => a.2.length / 128)).sum

/-- Room in a ring's fetch buffer (R315). -/
def Ring.room (r : Ring) : Nat := 16 - (r.ready.length + r.openJob.length + r.outstanding)

/-- The open job has 16 entries without LAST: another one makes it malformed (R320). -/
def Ring.jobFull (r : Ring) : Bool := decide (16 ≤ r.openJob.length)

/-- Entries of one fetch from entry `i`, within `room`, before entry `stop`, the ring's end and the page (R315). -/
def Ring.span (r : Ring) (i room left : Nat) : Nat :=
  min (min room left) (min (r.len - i % r.len) ((4096 - (r.entryAddr i).toNat % 4096) / 128))

/-- Distance from a counter to another, modulo 2^32. -/
def idxDist (a b : Nat) : Nat := (b + 2 ^ 32 - a) % 2 ^ 32

/-- The next fetch of a ring, if it has fetchable entries and room (R315). A job that its 17th entry makes malformed leaves the
buffer before that is fetched. -/
def Ring.nextFetch (r : Ring) : Option (Nat × Nat) :=
  let r := if r.jobFull then { r with openJob := [] } else r
  let i := (r.fetch.toNat + r.outstanding) % 2 ^ 32
  let left := idxDist i r.prod.toNat
  if !r.en || r.notown || !r.heldFetches.isEmpty || decide (left = 0) || decide (r.room = 0) then none
  else some (i, r.span i r.room left)

/-- Issue a fetch. -/
def sendFetch (s : State) (q i n : Nat) : State :=
  let r := s.ring q
  ghPost (s.setRing q { r with fetching := r.fetching ++ [(i, n)] }) (.fetch q i n)

/-- Fetch again from the entry that was found with OWN = 0 (R316): up to the next entry that has been fetched, or whose fetch is
held (R438). Where PROD leaves no entry to fetch, the retry waits for the next. -/
def refetch (s : State) (q : Nat) : State :=
  let r := s.ring q
  let i := r.fetch.toNat
  let ahead := ((r.fetching ++ r.heldFetches).map (·.1) ++ r.arrived.map (·.1)).map (idxDist i)
  let n := r.span i r.room (ahead.foldl min (idxDist i r.prod.toNat))
  if r.notown ∧ 0 < n then sendFetch (s.setRing q { r with notown := false }) q i n else s

/-- Issue a held access again; a shadow write carries the latest DONE (R325, R438). -/
def reissueHeld (s : State) (q : Nat) (a : GhAcc) : State :=
  match a with
  | .fetch _ i n => sendFetch s q i n
  | .shadow _ _ => sendShadow s q (s.ring q).done
  | a => ghPost s a

/-- What every PROD write sets going again (R316, R438). -/
def retryAll (s : State) (q : Nat) : State :=
  let r := s.ring q
  let as := r.held ++ r.heldX
  let s := s.setRing q { r with held := [], heldX := [] }
  refetch (as.foldl (fun s a => reissueHeld s q a) s) q

/-- A write of `GH_RING<q>_PROD` (R313). -/
def prodOp (s : State) (q : Nat) (v : Word) : State :=
  let r := s.ring q
  let s := if ((2 ^ Ring.size r : Nat) : Int) < (v - r.done).toInt ∨ (v - r.fetch).toInt < 0 then ringFlag s q 3
    else s.setRing q { r with prod := v }
  retryAll s q

/-! ## Fetching (R315, R316, R318–R320) -/

/-- The first ring after `rr` in round robin that has fetchable entries. -/
def nextRing (s : State) : Option (Nat × Nat × Nat) :=
  (List.range 256).findSome? (fun k =>
    let q := (s.gate.rr + 1 + k) % 256
    ((s.ring q).nextFetch).map (fun f => (q, f.1, f.2)))

/-- FETCH_RETRY. -/
def fetchRetryStep (s : State) (q : Nat) : State := if gateOn s then refetch s q else s

def execFetchRetry (q : BitVec 8) (s : State) : Out := .next (fetchRetryStep s q.toNat)

/-- Flags of a fetched entry. -/
def efOwn (w : Word) : Bool := bit w 31
def efFirst (w : Word) : Bool := bit w 30
def efLast (w : Word) : Bool := bit w 29
def efChain (w : Word) : Bool := bit w 28
def efRes (w : Word) : Bool := decide (fld w 26 0 ≠ 0)

/-- End every entry of the open job at the gatehouse: those with a reserved bit with MALFORMED, the others with
BAD_CHAIN (R318, R320). -/
def failJob (s : State) (q : Nat) : State :=
  let r := s.ring q
  let es := r.openJob
  es.foldl (fun s e => addComp s e.ref
      { status := if efRes e.ref.flags then stMalformed else stBadChain, tag := iTag e.line })
    (s.setRing q { r with openJob := [] })

/-- The open job has met its 17th entry: the 16 that the buffer holds end, and the 17th ends when it is captured (R315, R320; DEDUCED,
log 64). -/
def endFullJob (s : State) (q : Nat) : State :=
  if (s.ring q).jobFull then failJob (s.setRing q { s.ring q with overrun := true }) q else s

/-- RING_FETCH. -/
def ringFetchStep (s : State) : State :=
  if !gateOn s then s
  else
    match nextRing s with
    | none => s
    | some (q, i, n) => sendFetch (endFullJob { s with gate := { s.gate with rr := q } } q) q i n

def execRingFetch (s : State) : Out := .next (ringFetchStep s)

/-- The open job is malformed with its newest entry; `was` says whether a job was open before it (R320). -/
def jobBad (was : Bool) (es : List QEntry) (w : Word) : Bool :=
  (efFirst w == was) || (efChain w == efLast w)
  || (decide (1 < es.length) && es.any (fun e => decide (iOpc e.line = 0x40)))

/-- Capture one entry (R315, R318–R320). -/
def captureEntry (s : State) (q : Nat) (data : List Byte) : State :=
  let r := s.ring q
  let i := r.fetch.toNat
  let w : Word := BitVec.ofNat 32 (ofBytes ((data.drop 64).take 4))
  let was := !r.openJob.isEmpty
  let job := ((r.openJob.head?).map (fun e => e.ref.job)).getD i
  let e : QEntry := { ref := { ring := q, idx := i, job := job, flags := w }
                      line := BitVec.ofNat 512 (ofBytes (data.take 64)) }
  let es := r.openJob ++ [e]
  let s := s.setRing q { r with fetch := r.fetch + 1, openJob := es, overrun := false }
  if r.overrun || jobBad was es w then failJob s q
  else if efLast w then
    if es.any (fun e => efRes e.ref.flags) then failJob s q
    else
      let r := s.ring q
      s.setRing q { r with openJob := [], ready := r.ready ++ es }
  else s

/-- Capture the entries of an answered fetch, up to one with OWN = 0 (R316); `fuel` bounds them. -/
def captureAll (q : Nat) : Nat → List Byte → State → State
  | 0, _, s => s
  | fuel + 1, data, s =>
    if data.length < 128 then s
    else if efOwn (BitVec.ofNat 32 (ofBytes ((data.drop 64).take 4))) then
      captureAll q fuel (data.drop 128) (captureEntry s q (data.take 128))
    else
      let s := ringFlag s q 2
      s.setRing q { s.ring q with notown := true }

/-- The fault log's entry about a ring's entry. -/
def fetchInfo (s : State) (q i : Nat) : LogInfo := { addr := (s.ring q).entryAddr i }

/-- FETCH_RESPONSE: answers are captured in ring order. An uncorrectable error of the fetch buffer fetches the entries again
(R415). -/
def fetchResponseStep (s : State) (q : Nat) (ecc : Ecc) : State :=
  let r := s.ring q
  match r.arrived.find? (fun a => decide (a.1 = r.fetch.toNat)) with
  | some a =>
    if gateOn s && !r.notown then
      let s1 := s.setRing q { r with arrived := r.arrived.filter (fun b => decide (b.1 ≠ a.1)) }
      match ecc with
      | .clean => captureAll q 16 a.2 s1
      | .corrected => captureAll q 16 a.2 (klog s1 .corrected .sramCe luGate (fetchInfo s q a.1))
      | .bad => sendFetch (klog s1 .recovered .sramUe luGate (fetchInfo s q a.1)) q a.1 (a.2.length / 128)
    else s
  | none => s

def execFetchResponse (q : Checked (BitVec 8)) (s : State) : Out := .next (fetchResponseStep s q.it.toNat q.ecc)

/-! ## Dispatch (R322) -/

/-- The acceptance that a message has brought to the gatehouse. -/
def Msg.acceptance (m : Msg) : Option EntryRef :=
  match m.body with
  | .accepted e => if m.route.isEmpty then some e else none
  | _ => none

/-- The gatehouse takes the acceptances that have arrived: the entries' places are free. -/
def takeAccepted (s : State) : State :=
  let got := s.prom.net.filterMap Msg.acceptance
  { s with prom := { s.prom with net := s.prom.net.filter (fun m => (Msg.acceptance m).isNone) }
           gate := { s.gate with placed := s.gate.placed.filter (fun p => !got.contains p.ref) } }

/-- Places taken in an input queue, as the gatehouse knows it (R30, R322). -/
def seatsTaken (s : State) (t k : Nat) : Nat :=
  (s.gate.placed.filter (fun p => decide (p.tile = t) && decide (p.src = k))).length

/-- DISPATCH. An entry behind one that has broken their job ends here instead (R321). -/
def dispatchStep (s : State) (q : Nat) : State :=
  if !gateOn s then s
  else
    let s := takeAccepted s
    let r := s.ring q
    let t := Ring.tile r
    let k := Ring.rsrc r
    match r.ready with
    | [] => s
    | e :: es =>
      if r.broken.any (fun b => inBroken b e.ref) then badChain (s.setRing q { r with ready := es }) e.ref (iTag e.line)
      else if seatsTaken s t k < 4 then
        let s := s.setRing q { r with ready := es, broken := keepBroken r.broken e.ref }
        let s := { s with gate := { s.gate with placed := s.gate.placed ++ [{ tile := t, src := k, ref := e.ref }] } }
        postSmall s .control .gate (.tile t) (.entry t k e)
      else s

def execDispatch (q : BitVec 8) (s : State) : Out := .next (dispatchStep s q.toNat)

/-- ENTRY_RECEIPT. -/
def receiptStep (s : State) (i : Nat) : State :=
  match arrived s i with
  | some m =>
    (match m.body with
     | .entry t k e =>
       let s := dropMsg s i
       if s.isOn (GenConfig.domCore s.gen t) then
         let x := s.tile t
         if x.broken.any (fun b => inBroken b e.ref) then badChain s e.ref (iTag e.line)
         else
           s.setTile t { x with inq := Tab.put x.inq k (Tab.get x.inq [] k ++ [e]), broken := keepBroken x.broken e.ref }
       else endInstr s t (some e.ref) 0 { status := stOffline, tag := iTag e.line }
     | _ => s)
  | none => s

def execEntryReceipt (i : Nat) (s : State) : Out := .next (receiptStep s i)

/-! ## Completions (R324–R326) -/

/-- A write of an instruction has not landed, or its SIG or BAR has not been applied: it is still on its way (R324). -/
def stillOut (s : State) (who : Nat × Source × Nat) : Bool :=
  let mine := fun (t : Nat) (src : Source) (ord : Nat) => decide ((t, src, ord) = who)
  let wr := fun (q : SpReq) => match q with
    | .wr w => mine w.tile w.src w.ord
    | _ => false
  let sig := fun (u : Upd) => decide (u.kind = 1) && mine u.tile u.src u.ord
  s.prom.net.any (fun m => match m.body with
    | .wr w => mine w.tile w.src w.ord
    | .upd u => sig u
    | .arrive a => !a.host && mine a.tile a.src a.ord
    | _ => false)
  || s.lodge.xupds.any sig
  || s.prom.sps.any (fun p => p.2.waiting.any (fun q => wr q.req) || p.2.tags.any (fun g => !g.2.timedOut && wr g.2.req.req))

/-- COMPLETION: bytes 72–127 of completion `k` of those of the ring are written, once every write and signal of the instruction has
landed or been applied. -/
def completionStep (s : State) (q k : Nat) : State :=
  match (s.ring q).comps[k]? with
  | some c =>
    if gateOn s && decide (c.phase = .ready) && !(c.who.any (stillOut s)) then
      ghPost (setComp s q c.idx (fun c => { c with phase := .sent })) (.comp q c.idx)
    else s
  | none => s

def execCompletion (q : BitVec 8) (k : Nat) (s : State) : Out := .next (completionStep s q.toNat k)

/-- OWN_WRITE: once those have landed, bytes 64–67. -/
def ownStep (s : State) (q k : Nat) : State :=
  match (s.ring q).comps[k]? with
  | some c =>
    if gateOn s && decide (c.phase = .landed) then
      ghPost (setComp s q c.idx (fun c => { c with phase := .ownSent })) (.own q c.idx)
    else s
  | none => s

def execOwnWrite (q : BitVec 8) (k : Nat) (s : State) : Out := .next (ownStep s q.toNat k)

/-- A completion makes the ring's vector pending (R326). -/
def Comp.raises (c : Comp) (mode : Nat) : Bool :=
  let bad := decide (8 ≤ fld c.w72 7 0)
  match mode with
  | 0 => false
  | 1 => true
  | 2 => bit c.flags 27 || bad
  | _ => bad

/-- DONE moves over entries whose OWN write has landed; `fuel` bounds them (R325). -/
def advance : Nat → Ring → Ring
  | 0, r => r
  | fuel + 1, r =>
    match r.comp? r.done.toNat with
    | some c =>
      if c.phase = .done then
        advance fuel { r with done := r.done + 1, comps := r.comps.filter (fun d => decide (d.idx ≠ c.idx)) }
      else r
    | none => r

/-- DONE_ADVANCE. -/
def doneStep (s : State) (q : Nat) : State :=
  let r := s.ring q
  let fresh := r.comps.filter (fun c => decide (c.phase = .ownLanded))
  if !gateOn s || fresh.isEmpty then s
  else
    let r1 := { r with comps := r.comps.map (fun c => if c.phase = .ownLanded then { c with phase := .done } else c) }
    let r2 := advance r1.comps.length r1
    let s := s.setRing q r2
    let s := if Ring.shen r ∧ r2.done ≠ r.done then sendShadow s q r2.done else s
    fresh.foldl (fun s c => if c.raises (Ring.cmode r) then pendVec s (Ring.cvec r) else s) s

def execDoneAdvance (q : BitVec 8) (s : State) : Out := .next (doneStep s q.toNat)

/-- GATEHOUSE_RETRY: the first access held after a failed attempt is issued again. -/
def gateRetryStep (s : State) (q : Nat) : State :=
  let r := s.ring q
  match r.held with
  | a :: as => if gateOn s then reissueHeld (s.setRing q { r with held := as }) q a else s
  | [] => s

def execGatehouseRetry (q : BitVec 8) (s : State) : Out := .next (gateRetryStep s q.toNat)

/-! ## Messages (R333, R334) -/

/-- The message window holds an address. -/
def inMsgWindow (s : State) (a : DWord) : Bool :=
  let sp := fld s.always.msgBase 5 0
  let base := fld s.always.msgBase 63 12 * 4096
  decide (sp ≠ 0) && decide (base ≤ a.toNat) && decide (a.toNat < base + 2 ^ max 12 sp)

/-- MESSAGE_WRITE. -/
def messageStep (s : State) (v : Nat) : State :=
  let x := Tab.get s.gate.vecs Vec.init v
  if gateOn s && x.pend && !x.mask && !x.mode then
    let ok := decide (fld x.addr 1 0 = 0) && inMsgWindow s x.addr
    let x' := { x with pend := false, count := if ok then satInc x.count else x.count }
    let s := { s with gate := { s.gate with vecs := Tab.put s.gate.vecs v x' } }
    if ok then ghPost s (.msg v x.addr x.data) else ghVecErr s v
  else s

def execMessageWrite (v : BitVec 6) (s : State) : Out := .next (messageStep s v.toNat)

/-! ## Interrupt outputs -/

/-- Level of the output `int_out[w]`: 1 while a pending, unmasked wire vector names that pin (R335), and 0 while
`rst_n` is 0 (R359). Isolated or in reset, gatehouse domain 0 drives 0 (DEDUCED, log 17). -/
def intOut (s : State) (w : Nat) : Bool :=
  let x := s.dom (GenConfig.domFixed s.gen 6)
  !s.cp.inReset && !x.iso && decide (x.state ≠ .reset)
    && (List.range 64).any (fun v =>
      let e := Tab.get s.gate.vecs Vec.init v
      e.mode && e.pend && !e.mask && decide (e.wire.toNat = w))

end Sys2Proof.Machine
end

