-- ==== Sys2Proof/Machine/Ports.lean ====
section
/-! DEFINITION. System ports with their translation (R339–R348, R402) and window ports (R339, R349–R351, R416). -/

namespace Sys2Proof.Machine

/-! ## Requests at a system port -/

/-- The domain of a system port. -/
def portDom (s : State) (n : Nat) : Nat := GenConfig.domPort s.gen n

/-- `rq_src` of a request. -/
def SpReq.srcNum : SpReq → Nat
  | .rd r => 8 * r.tile + r.stream
  | .wr w => 8 * w.tile + w.stream
  | .gh _ => 0x100

/-- Address, byte count and direction of a request. -/
def reqAccess (s : State) : SpReq → DWord × Nat × Bool
  | .rd r => (r.addr, r.len, false)
  | .wr w => (w.addr, w.data.length, true)
  | .gh a =>
    let x := ghAccess s a
    (x.1, x.2.1, x.2.2.isSome)

/-- Partition of a request (R347). -/
def reqPart (s : State) : SpReq → Nat
  | .rd r => r.part
  | .wr w => w.part
  | .gh a => ghPart s a

/-- The answer to a request travels to its requester (R297, R342). -/
def answerReq (s : State) (n : Nat) (q : PortReq) (a : Answer) (data : List Byte) : State :=
  match q.req with
  | .rd r => post s .response (.sysPort n) (.tile r.tile) [] q.slack q.prio
      (if a = .okay then flitsOf r.addr r.len else 1) (.rdResp r a data)
  | .wr w => post s .response (.sysPort n) (.tile w.tile) [] q.slack q.prio 1 (.wrAck w a 0)
  | .gh x => post s .response (.sysPort n) .gate [] q.slack q.prio
      (match x, a with
       | .fetch _ _ _, .okay => flitsOf (ghAccess s x).1 (ghAccess s x).2.1
       | _, _ => 1) (.ghResp x a data)

/-! ## Translation (R346–R348) -/

/-- Page address bits below a page of size code `sz`, counted from address bit 12. -/
def pageShift (sz : BitVec 2) : Nat :=
  match sz.toNat with
  | 0 => 0
  | 1 => 4
  | 2 => 9
  | _ => 18

/-- Two page numbers lie in one page of a size. -/
def samePage (sz : BitVec 2) (a b : BitVec 52) : Bool := decide (a >>> pageShift sz = b >>> pageShift sz)

/-- Page number of an address. -/
def pageOf (a : DWord) : BitVec 52 := BitVec.ofNat 52 (a.toNat / 4096)

/-- A buffer entry maps a page of a partition. -/
def TlbEnt.hits (e : TlbEnt) (part : Nat) (va : BitVec 52) : Bool := decide (e.part = part) && samePage e.size e.va va

/-- A permission allows an access: bit 0 read, bit 1 write. -/
def permits (perm : BitVec 2) (wr : Bool) : Bool := if wr then bit perm 1 else bit perm 0

/-- The physical address that an entry gives. -/
def TlbEnt.phys (e : TlbEnt) (a : DWord) : DWord :=
  let n := 12 + pageShift e.size
  BitVec.ofNat 64 (e.pa.toNat * 4096 / 2 ^ n * 2 ^ n + a.toNat % 2 ^ n)

/-- What the port finds for a request. -/
inductive Xlate where
  | go (pa : DWord) (ent : Option TlbEnt)
  | fault
  | miss
  deriving DecidableEq, Repr

/-- Translate a request through the buffer of a port (R346, R347). -/
def translate (s : State) (n : Nat) (q : SpReq) : Xlate :=
  let x := reqAccess s q
  if !s.always.xlateEn then .go x.1 none
  else
    match (s.sp n).tlb.find? (fun e => e.hits (reqPart s q) (pageOf x.1)) with
    | none => .miss
    | some e => if permits e.perm x.2.2 then .go (e.phys x.1) (some e) else .fault

/-- The entry used last stands first (R346). -/
def touch (l : List TlbEnt) (e : TlbEnt) : List TlbEnt := e :: l.filter (fun f => decide (f ≠ e))

/-- The lowest free tag of a port. -/
def freeTag (x : SysPort) : Option Nat := (List.range 1024).find? (fun k => (Tab.find x.tags k).isNone)

/-- Present a request to the host fabric under a tag (R340). -/
def present (s : State) (n : Nat) (q : PortReq) (pa : DWord) (ent : Option TlbEnt) : State :=
  let x := s.sp n
  match freeTag x with
  | none => s
  | some k =>
    let g : TagSt := { req := q, pa := pa, xlate := ent.map (fun e => (e.part, e.va, e.size)), got := []
                       timedOut := false, blocks := false }
    let tlb := match ent with
      | some e => touch x.tlb e
      | none => x.tlb
    s.setSp n { x with tags := Tab.put x.tags k g, tlb := tlb }

/-- A translation fault ends the request at its first element (R347). The flag names no tag, since none was taken. -/
def faultReq (s : State) (n : Nat) (q : PortReq) : State :=
  let s := spFlag s n 1 (s.sp n).tag.toNat
  let x := s.sp n
  answerReq (s.setSp n { x with faddr := (reqAccess s q.req).1 }) n q .xfault []

/-- The query that a request's page shares (R347). -/
def queryFor (s : State) (n : Nat) (q : SpReq) : Option Nat :=
  let va := pageOf (reqAccess s q).1
  ((s.sp n).queries.find? (fun p => decide (p.2.part = reqPart s q) && decide (p.2.va = va))).map (·.1)

/-- The lowest free query number. -/
def freeQuery (x : SysPort) : Option Nat := (List.range 64).find? (fun k => (Tab.find x.queries k).isNone)

/-- A query goes out for a request, unless one for its page is outstanding; none when all 64 are. -/
def sendQuery (s : State) (n : Nat) (q : SpReq) : Option State :=
  if (queryFor s n q).isSome then some s
  else
    let x := s.sp n
    let a := reqAccess s q
    (freeQuery x).map (fun k =>
      s.setSp n { x with xmiss := satInc x.xmiss
                         queries := Tab.put x.queries k { part := reqPart s q, va := pageOf a.1, wr := a.2.2
                                                          invals := [] } })

/-- Take waiting requests of a port through translation again, in order; one that still waits holds the later ones of
its source (R347). -/
def drain (n : Nat) : List PortReq → List Nat → List PortReq → State → State
  | [], _, kept, s => s.setSp n { s.sp n with waiting := kept }
  | q :: qs, srcs, kept, s =>
    let stay := drain n qs (SpReq.srcNum q.req :: srcs) (kept ++ [q])
    if srcs.contains (SpReq.srcNum q.req) then stay s
    else
      match translate s n q.req with
      | .go pa ent => drain n qs srcs kept (present s n q pa ent)
      | .fault => drain n qs srcs kept (faultReq s n q)
      | .miss => stay ((sendQuery s n q.req).getD s)

/-- A request accepted by a port: presented, ended by a fault, or waiting on a query. None where all 64 queries are
outstanding. -/
def acceptReq (s : State) (n : Nat) (q : PortReq) : Option State :=
  let x := s.sp n
  let wait := fun (s : State) => s.setSp n { s.sp n with waiting := (s.sp n).waiting ++ [q] }
  if x.waiting.any (fun w => decide (SpReq.srcNum w.req = SpReq.srcNum q.req)) then some (wait s)
  else
    match translate s n q.req with
    | .go pa ent => some (present s n q pa ent)
    | .fault => some (faultReq s n q)
    | .miss => (sendQuery s n q.req).map wait

/-- The request that a message brings to a system port, with the slack stamped on it (R297). -/
def portReq (m : Msg) : Option PortReq :=
  match m.body with
  | .rd r => some { req := .rd r, slack := m.stamp, prio := m.prio }
  | .wr w => some { req := .wr w, slack := m.stamp, prio := m.prio }
  | .gh a => some { req := .gh a, slack := m.stamp, prio := m.prio }
  | _ => none

/-- What SECDED found at the buffer entry that a request hits: one with an uncorrectable error is dropped, so that it is queried
again (R415). -/
def tlbEcc (s : State) (n : Nat) (q : SpReq) (ecc : Ecc) : State :=
  let a := (reqAccess s q).1
  match s.always.xlateEn, (s.sp n).tlb.find? (fun e => e.hits (reqPart s q) (pageOf a)) with
  | true, some e =>
    (match ecc with
     | .clean => s
     | .corrected => klog s .corrected .sramCe (luSysPort n) { addr := a }
     | .bad =>
       let s := klog s .recovered .sramUe (luSysPort n) { addr := a }
       s.setSp n { s.sp n with tlb := (s.sp n).tlb.filter (fun f => decide (f ≠ e)) })
  | _, _ => s

/-- SYSTEM_PORT_REQUEST. -/
def portRequestStep (s : State) (n i : Nat) (ecc : Ecc) : State :=
  match arrived s i with
  | some m =>
    (match portReq m with
     | some q =>
       if m.dst ≠ .sysPort n then s
       else
         match availOf s (portDom s n) with
         | .on => if portRoom (s.sp n) then (acceptReq (tlbEcc (dropMsg s i) n q.req ecc) n q).getD s else s
         | .later => turnBack s i m
         | .off => answerReq (dropMsg s i) n q .offline []
         | .dead => dropMsg s i
     | none => s)
  | none => s

def execSystemPortRequest (n : Nat) (i : Checked Nat) (s : State) : Out := .next (portRequestStep s n i.it i.ecc)

/-- An invalidation matches a page of a partition, of a size. -/
def Inval.hits (v : Inval) (part : Nat) (va : BitVec 52) (sz : BitVec 2) : Bool :=
  decide (v.part = part) && (v.all || samePage sz v.va va)

/-- Waiting requests that shared a faulted query end; those behind them in their source stay (R347). -/
def endFaulted (n : Nat) (q : Query) (all : Bool) (perm : BitVec 2) :
    List PortReq → List Nat → List PortReq → State → State
  | [], _, kept, s => s.setSp n { s.sp n with waiting := kept }
  | r :: rs, srcs, kept, s =>
    let x := reqAccess s r.req
    let k := SpReq.srcNum r.req
    let hit := !srcs.contains k && decide (reqPart s r.req = q.part) && decide (pageOf x.1 = q.va)
      && (all || !permits perm x.2.2)
    if hit then endFaulted n q all perm rs srcs kept (faultReq s n r)
    else endFaulted n q all perm rs (k :: srcs) (kept ++ [r]) s

/-- A port serves its channels. -/
def portActive (s : State) (n : Nat) : Bool := s.active (portDom s n)

/-- TRANSLATION_ANSWER. -/
def xlateAnswerStep (s : State) (n id : Nat) (pa : BitVec 52) (size perm : BitVec 2) (fault : Bool) : State :=
  let x := s.sp n
  match Tab.find x.queries id with
  | none => s
  | some q =>
    if !portActive s n then s
    else if (q.invals ++ x.inval.toList).any (fun v => v.hits q.part q.va size) then
      s.setSp n { x with xmiss := satInc x.xmiss, queries := Tab.put x.queries id { q with invals := [] } }
    else
      let s := s.setSp n { x with queries := Tab.erase x.queries id }
      let bad := fault || !permits perm q.wr
      let s :=
        if bad then endFaulted n q fault perm x.waiting [] [] s
        else
          let y := s.sp n
          s.setSp n { y with tlb := ({ part := q.part, va := q.va, pa := pa, size := size, perm := perm : TlbEnt }
                                      :: y.tlb).take 256 }
      drain n (s.sp n).waiting [] [] s

def execTranslationAnswer (n id : Nat) (pa : BitVec 52) (size perm : BitVec 2) (fault : Bool) (s : State) : Out :=
  .next (xlateAnswerStep s n id pa size perm fault)

/-! ## Responses (R342, R345) -/

/-- Flits of a read response that the port has received, with the newest. -/
def gotAll (g : TagSt) (need : Nat) : Bool := (List.range need).all (fun i => g.got.any (fun f => decide (f.1 = i)))

/-- The bytes of a read request from the flits of its response: flit `i` holds granule `i` of the range. -/
def assemble (g : TagSt) (a : DWord) (n : Nat) : List Byte :=
  let off := a.toNat % 128
  (List.range n).map (fun k =>
    let j := (off + k) / 128
    match g.got.find? (fun f => decide (f.1 = j)) with
    | some f => f.2.getD ((off + k) % 128) 0
    | none => 0)

/-- Free a tag. -/
def freeTagOf (s : State) (n tag : Nat) : State :=
  let x := s.sp n
  s.setSp n { x with tags := Tab.erase x.tags tag }

/-- A tag's request is done: a write's signal goes to its counter (R249 step 5). -/
def finishTag (s : State) (n tag : Nat) (g : TagSt) : State :=
  let a := reqAccess s g.req.req
  let s := freeTagOf s n tag
  match g.req.req with
  | .wr w => answerReq (forward s (.sysPort n) (64 + n) w) n g.req .okay []
  | _ => answerReq s n g.req .okay (if a.2.2 then [] else assemble g a.1 a.2.1)

/-- An error response: DENIED, or any other code as ERROR (R342). -/
def failTag (s : State) (n tag code : Nat) (g : TagSt) : State :=
  let s := freeTagOf s n tag
  let s := spFlag s n 3 tag
  if code = 1 then answerReq s n g.req .denied []
  else
    let s := if 3 ≤ code then spFlag s n 0 tag else s
    let s := klog s .reported .hostError (luSysPort n) { addr := (reqAccess s g.req.req).1 }
    answerReq s n g.req .error []

/-- SYSTEM_PORT_RESPONSE. -/
def portResponseStep (s : State) (n tag idx : Nat) (code : BitVec 3) (data : List Byte) (last : Bool) : State :=
  if !portActive s n then s
  else
    let s := s.setSp n { s.sp n with rspFlits := (s.sp n).rspFlits + 1 }
    let x := s.sp n
    match Tab.find x.tags tag with
    | none => spFlag s n 0 tag
    | some g =>
      if g.timedOut then (if last then spFlag (freeTagOf s n tag) n 2 tag else s)
      else if code ≠ 0 then failTag s n tag code.toNat g
      else
        let g := { g with got := g.got ++ [(idx, data)] }
        let a := reqAccess s g.req.req
        if last then
          (if a.2.2 || gotAll g (flitsOf a.1 a.2.1) then finishTag s n tag g else s)
        else s.setSp n { x with tags := Tab.put x.tags tag g }

def execSystemPortResponse (n tag idx : Nat) (code : BitVec 3) (data : List Byte) (last : Bool) (s : State) : Out :=
  .next (portResponseStep s n tag idx code data last)

/-! ## Timeouts (R345, R402) -/

/-- A tag runs out of time: its requester is told, and the tag stays reserved. -/
def tagTimeout (s : State) (n k : Nat) : State :=
  let x := s.sp n
  match Tab.find x.tags k with
  | none => s
  | some g =>
    if g.timedOut || !portActive s n then s
    else
      let s := s.setSp n { x with tags := Tab.put x.tags k { g with timedOut := true } }
      let s := klog s .reported .rspTimeout (luSysPort n) { addr := (reqAccess s g.req.req).1 }
      answerReq s n g.req .timeout []

/-- A message of a stream's request or of its answer is in flight. -/
def reqInFlight (t n id epoch : Nat) (b : Body) : Bool :=
  let same := fun (u m i e : Nat) => decide (u = t) && decide (m = n) && decide (i = id) && decide (e = epoch)
  match b with
  | .rd r => same r.tile r.stream r.id r.epoch
  | .rdResp r _ _ => same r.tile r.stream r.id r.epoch
  | .wr w => same w.tile w.stream w.id w.epoch
  | .wrAck w _ _ => same w.tile w.stream w.id w.epoch
  | _ => false

/-- The request is held at some system port. -/
def reqAtPort (s : State) (t n id epoch : Nat) : Bool :=
  let hit := fun (q : SpReq) => match q with
    | .rd r => reqInFlight t n id epoch (.rd r)
    | .wr w => reqInFlight t n id epoch (.wr w)
    | .gh _ => false
  s.prom.sps.any (fun p => p.2.waiting.any (fun q => hit q.req) || p.2.tags.any (fun g => hit g.2.req.req))

/-- The request is nowhere: its target was reset or a link dropped it. -/
def reqLost (s : State) (t n id epoch : Nat) : Bool :=
  !(s.prom.net.any (fun m => reqInFlight t n id epoch m.body)) && !reqAtPort s t n id epoch

/-- The domain that serves a request of a tile, by its offset in the scratchpad window. -/
def targetDom (s : State) (t : Nat) (a : DWord) (off : Option Nat) : Nat :=
  match off with
  | some o => spadDom s (o / slotBytes)
  | none => portDom s (portOf s (some t) a)

/-- A timeout that starts no replay is logged as reported (R431; DESIGN CHOICE, log 130). -/
def lateReport (s : State) (t n : Nat) (addr : DWord) : State :=
  klog s .reported .rspTimeout (luTile t) { stream := n, addr := addr }

/-- A request of a stream runs out of time: the chunk is replayed, or the stream ends where its target is not ON (R402). One of a
stream that does no more work is logged. -/
def lateRequest (s : State) (t n : Nat) (dom : Nat) (addr : DWord) (k : Nat) : State :=
  match s.stream? t n with
  | none => s
  | some st =>
    if st.live ∧ s.isOn dom then replay s t n .rspTimeout addr k
    else abortStream (lateReport s t n addr) t n stOffline

/-- RESPONSE_TIMEOUT of a stream's request to an endpoint. -/
def requestTimeout (s : State) (t n id : Nat) : State :=
  match s.stream? t n with
  | none => s
  | some st =>
    if !coreRuns s t then s
    else
      match (st.outstanding ++ st.oldReads).find? (fun r => decide (r.id = id)) with
      | some r =>
        if reqLost s t n id r.epoch then
          let s := s.setStream t n (st.landed id)
          if r.epoch = st.epoch then
            lateRequest s t n (targetDom s t r.addr r.off) r.addr (st.blockedBy r.bound)
          else lateReport s t n r.addr
        else s
      | none =>
        match st.wrOut.find? (fun w => decide (w.id = id)) with
        | some w =>
          if reqLost s t n id w.epoch then
            let s := s.setStream t n ((st.writeBack w).signalLost w)
            if w.epoch = st.epoch then lateRequest s t n (targetDom s t w.addr w.off) w.addr (st.chunkOf w)
            else lostRedo (lateReport s t n w.addr) t n w.addr
          else s
        | none => s

/-- RESPONSE_TIMEOUT of the oldest data signal of a stream that has not been answered: no message of it is in flight, so it is
lost. Its chunk is redone; a signal of before a restart is only given up. -/
def signalTimeout (s : State) (t n : Nat) : State :=
  match s.stream? t n with
  | none => s
  | some st =>
    match st.sigOut with
    | [] => s
    | q :: _ =>
      let mine := fun (u : Upd) => decide (u.kind = 0) && decide (u.tile = t) && decide (u.stream = n)
        && decide (u.seq = q)
      let flying := s.lodge.xupds.any mine || st.wrOut.any (fun w => w.signal.isSome && decide (w.seq = q))
        || s.prom.net.any (fun m => match m.body with
          | .upd u => mine u
          | .updAck u _ => mine u
          | _ => false)
      if coreRuns s t && !flying then
        let st := { st with sigOut := st.sigOut.filter (fun p => decide (p ≠ q)) }
        let s := s.setStream t n st
        match st.chunks.find? (fun c => decide (c.seq = q)) with
        | some c =>
          if c.lastSent && !c.acked then lateRequest s t n (sliceDom s st.sigCid) 0 c.mark.k0 else lateReport s t n 0
        | none => lateReport s t n 0
      else s

/-- A gatehouse access is nowhere: a link or a reset dropped it. -/
def ghLost (s : State) (a : GhAcc) : Bool :=
  !(s.prom.net.any (fun m => match m.body with
    | .gh b => decide (b = a)
    | .ghResp b _ _ => decide (b = a)
    | _ => false))
  && !(s.prom.sps.any (fun p => p.2.waiting.any (fun q => decide (q.req = .gh a))
    || p.2.tags.any (fun g => !g.2.timedOut && decide (g.2.req.req = .gh a))))

/-- RESPONSE_TIMEOUT of a gatehouse access of a ring that is nowhere: a failed attempt (R438). -/
def gateTimeout (s : State) (q k : Nat) : State :=
  match ((s.ring q).inFlight q)[k]? with
  | none => s
  | some a =>
    if gateOn s && ghLost s a then
      ghAnswer (klog s .reported .rspTimeout luGate { addr := (ghAccess s a).1 }) a .timeout []
    else s

/-- RESPONSE_TIMEOUT. -/
def timeoutStep (s : State) (r : LateReq) : State :=
  match r with
  | .tag n k => tagTimeout s n k
  | .request t n id => requestTimeout s t n id
  | .signal t n => signalTimeout s t n
  | .gate q k => gateTimeout s q k

def execResponseTimeout (r : LateReq) (s : State) : Out := .next (timeoutStep s r)

/-! ## Invalidations (R348) -/

/-- INVALIDATION: matching entries leave the buffer, and requests that used one hold the handshake. -/
def invalStep (s : State) (n : Nat) (v : Inval) : State :=
  let x := s.sp n
  if !portActive s n || x.inval.isSome then s
  else
    let hit := fun (e : TlbEnt) => v.hits e.part e.va e.size
    let tags := x.tags.map (fun p => (p.1, { p.2 with blocks := p.2.blocks || (match p.2.xlate with
      | some (a, b, c) => v.hits a b c
      | none => false) }))
    s.setSp n { x with tlb := x.tlb.filter (fun e => !hit e), tags := tags, inval := some v }

def execInvalidation (n : Nat) (all : Bool) (va : BitVec 52) (part : BitVec 3) (s : State) : Out :=
  .next (invalStep s n { all := all, va := va, part := part.toNat })

/-- INVALIDATION_COMPLETE. -/
def invalDoneStep (s : State) (n : Nat) : State :=
  let x := s.sp n
  match x.inval with
  | none => s
  | some v =>
    if !portActive s n || x.tags.any (fun p => p.2.blocks && !p.2.timedOut) then s
    else s.setSp n { x with inval := none, queries := x.queries.map (fun p => (p.1, { p.2 with invals := p.2.invals ++ [v] })) }

def execInvalidationComplete (n : Nat) (s : State) : Out := .next (invalDoneStep s n)

/-! ## Window ports (R339, R349) -/

/-- An opcode of the table of R339. -/
def wpOpOk (op : Nat) : Bool := decide (op ≤ 1) || (decide (4 ≤ op) && decide (op ≤ 8))

/-- An atomic has 4 or 8 bytes and is aligned to them. -/
def atomicOk (op : Nat) (o n : Nat) : Bool :=
  decide (op ≤ 1) || ((decide (n = 4) || decide (n = 8)) && decide (o % n = 0))

/-- Answer a window-port request. -/
def wpAnswer (s : State) (l tag code : Nat) (data : List Byte) : State :=
  { s with prom := { s.prom with wpResp := Tab.put s.prom.wpResp l { tag := tag, code := code, data := data } } }

/-- The window offset of a window-port request that is not DENIED. -/
def wpTarget (s : State) (l op : Nat) (a : DWord) (n : Nat) : Option Nat :=
  match windowOff s a with
  | none => none
  | some o =>
    let t := o / slotBytes
    if offOk s o && offOk s (o + n - 1) && decide ((o + n - 1) / slotBytes = t)
        && bit (Tab.get s.always.wpMask 0 l) t && wpOpOk op && atomicOk op o n then some o else none

/-- The parts of a window-port request: one for each bank group that its bytes lie in. Groups change at 4 KiB boundaries at the
closest (R22). -/
def wpParts (s : State) (o n : Nat) : List (Nat × Nat) :=
  let m := min n (4096 - o % 4096)
  if groupAt s o = groupAt s (o + n - 1) then [(o, n)] else [(o, m), (o + m, n - m)]

/-- Key of a tag of a window port. -/
def wpKey (l tag : Nat) : Nat := 1024 * l + tag

/-- Send the parts of a window-port request to their bank groups, with the slack of `TS_FIXED.WINDOW` (R293, R296, R304). -/
def wpSend (s : State) (l tag op o n : Nat) (data : List Byte) : State :=
  let ps := wpParts s o n
  let slack := max (slackFloor s) (sext 16 (fld s.turn.fixed 31 16))
  let s := { s with prom := { s.prom with wpOut := Tab.put s.prom.wpOut (wpKey l tag) (ps.map (fun _ => none)) } }
  ps.zipIdx.foldl (fun s p =>
    let q : WpReq := { port := l, tag := tag, op := op, part := p.2, off := p.1.1, len := p.1.2
                       data := if op = 1 then (data.drop (p.1.1 - o)).take p.1.2 else data.take 16 }
    post s .request (.winPort l) (.tile (p.1.1 / slotBytes)) [bankOf s p.1.1] slack 0
      (if op = 1 then flitsOf (BitVec.ofNat 64 q.off) q.len else 1) (.wp q)) s

/-- A request under a tag of a window port is still on its way: itself, or the answer to a part of it. -/
def wpBusy (s : State) (l tag : Nat) : Bool :=
  s.prom.net.any (fun m => match m.body with
    | .wp q => decide (q.port = l) && decide (q.tag = tag)
    | .wpResp q _ _ => decide (q.port = l) && decide (q.tag = tag)
    | _ => false)

/-- WINDOW_PORT_REQUEST. A tag is distinct while it is outstanding; a second request under one is not accepted. A leaf router that
quiesces answers RETRY (R400); one that is isolated or in reset answers nothing (R337). -/
def windowStepPort (s : State) (l tag op : Nat) (a : DWord) (n : Nat) (data : List Byte) : State :=
  if wpBusy s l tag then s
  else
    match availOf s (GenConfig.domRouter s.gen l) with
    | .later => wpAnswer s l tag 3 []
    | .on =>
      (match wpTarget s l op a n with
       | none => wpAnswer s l tag 1 []
       | some o => wpSend s l tag op o n data)
    | _ => s

def execWindowPortRequest (l : Nat) (head : WpHead) (addr : DWord) (len : BitVec 12) (data : List Byte) (s : State) : Out :=
  .next (windowStepPort s l head.tag.toNat head.op.toNat addr (len.toNat + 1) data)

/-- A part of a window-port request is answered: with the last one the request is, by the first code that is not OKAY (R349;
DESIGN CHOICE, log 112). -/
def wpLand (s : State) (q : WpReq) (code : Nat) (data : List Byte) : State :=
  let k := wpKey q.port q.tag
  match Tab.find s.prom.wpOut k with
  | none => s
  | some ps =>
    let ps := ps.set q.part (some (code, data))
    if ps.all (·.isSome) then
      let rs := ps.filterMap id
      let c := ((rs.map (·.1)).find? (fun c => decide (c ≠ 0))).getD 0
      wpAnswer { s with prom := { s.prom with wpOut := Tab.erase s.prom.wpOut k } } q.port q.tag c
        (if c = 0 then rs.flatMap (·.2) else [])
    else { s with prom := { s.prom with wpOut := Tab.put s.prom.wpOut k ps } }

/-! ## Answers at their requesters (R25, R297, R342) -/

/-- A gatehouse access is a read. -/
def GhAcc.isFetch : GhAcc → Bool
  | .fetch _ _ _ => true
  | _ => false

/-- READ_RESPONSE: an answer with read data, or to a read, reaches its tile, the gatehouse or its window port. -/
def responseStep (s : State) (i : Nat) (ecc : Ecc) : State :=
  match arrived s i with
  | some m =>
    (match m.body, m.dst with
     | .rdResp r a data, .tile t => if coreRuns s t then readAnswer (dropMsg s i) r a data ecc else dropMsg s i
     | .ghResp a ans data, .gate =>
       if !a.isFetch then s else if gateOn s then ghAnswer (dropMsg s i) a ans data else dropMsg s i
     | .wpResp q code data, .winPort _ => if q.op = 1 then s else wpLand (dropMsg s i) q code data
     | _, _ => s)
  | none => s

def execReadResponse (i : Nat) (ecc : Ecc) (s : State) : Out := .next (responseStep s i ecc)

/-- WRITE_ACKNOWLEDGEMENT: the answer to a write reaches its tile, the gatehouse or its window port. -/
def ackStep (s : State) (i : Nat) : State :=
  match arrived s i with
  | some m =>
    (match m.body, m.dst with
     | .wrAck w a sats, .tile t => if coreRuns s t then writeAnswer (dropMsg s i) w a sats else dropMsg s i
     | .ghResp a ans data, .gate =>
       if a.isFetch then s else if gateOn s then ghAnswer (dropMsg s i) a ans data else dropMsg s i
     | .wpResp q code data, .winPort _ => if q.op = 1 then wpLand (dropMsg s i) q code data else s
     | _, _ => s)
  | none => s

def execWriteAcknowledgement (i : Nat) (s : State) : Out := .next (ackStep s i)

/-! ## Requests that a unit turned back (R402) -/

/-- The request of a turned-back message, issued anew (R402); a stream's request is dropped when its run has ended. -/
def reissue (s : State) (m : Msg) : State :=
  match m.body with
  | .rd r =>
    (match matchStream s r.tile r.stream r.src r.ord r.epoch with
     | some st =>
       let d := dataRoute s r.tile r.addr r.off
       post s .request (.tile r.tile) d.1 d.2 (slackOf s st true) (prioOf (s.tile r.tile) r.stream) 1 (.rd r)
     | none => s)
  | .wr w =>
    (match matchStream s w.tile w.stream w.src w.ord w.epoch with
     | some st =>
       let d := dataRoute s w.tile w.addr w.off
       post s .request (.tile w.tile) d.1 d.2 (slackOf s st false) (prioOf (s.tile w.tile) w.stream)
         (flitsOf w.addr w.data.length) (.wr w)
     | none => s)
  | .gh a => ghPost s a
  | .discardCmd t n q ep e a off =>
    let d := dataRoute s t a off
    let k := regSlack s t (some n)
    post s .request (.tile t) d.1 d.2 k.1 k.2 1 (.discardCmd t n q ep e a off)
  | .watchReg r => register s r
  | .withdraw r =>
    let k := regSlack s r.who.tile r.who.stream
    post s .lodge m.dst m.src [] k.1 k.2 1 (.withdraw r)
  | b => postSmall s m.cls m.dst m.src b

/-- RETRY_LATER. -/
def retryLaterStep (s : State) (i : Nat) : State :=
  match s.prom.net[i]? with
  | some m => if m.again && m.route.isEmpty then reissue (dropMsg s i) m else s
  | none => s

def execRetryLater (i : Nat) (s : State) : Out := .next (retryLaterStep s i)

end Sys2Proof.Machine
end

