-- ==== Sys2Proof/Machine/Power.lean ====
section
/-! DEFINITION. PLLs and clock monitors (R386–R393), power domains and their commands (R395–R407), what a unit loses when
it is reset or goes off (R405, R406), and the power-up of boot (R361, R407). -/

namespace Sys2Proof.Machine

/-! ## Dependencies (R396) -/

/-- Leaf pavilion of a system port (R21). -/
def portLeaf (c : GenConfig) (n : Nat) : Nat := GenConfig.leafOf c (2 * n)

/-- The domains that a unit's domain depends on (R396). -/
def DomUnit.needs (c : GenConfig) : DomUnit → List Nat
  | .core t => [GenConfig.domSpad c t, GenConfig.domRouter c (GenConfig.leafOf c t), GenConfig.domPll c (GenConfig.leafOf c t)]
  | .bxz t => [GenConfig.domCore c t]
  | .spad t => [GenConfig.domRouter c (GenConfig.leafOf c t), GenConfig.domPll c (GenConfig.leafOf c t)]
  | .router p => (match GenConfig.parent c p with
    | some q => [GenConfig.domRouter c q]
    | none => [])
  | .port n => [GenConfig.domRouter c (portLeaf c n)]
  | .slice _ => (List.range (GenConfig.leaves c)).map (fun l => GenConfig.domRouter c l)
  | .band | .pergola | .gate0 | .gate1 => [GenConfig.domRouter c (GenConfig.root c)]
  | .pll _ => []

/-- The domains that a domain depends on; none beyond D − 1. -/
def needsOf (c : GenConfig) (d : Nat) : List Nat :=
  match GenConfig.domUnit c d with
  | some u => DomUnit.needs c u
  | none => []

/-- The domains that depend on a domain. -/
def dependents (c : GenConfig) (d : Nat) : List Nat :=
  (List.range (GenConfig.domains c)).filter (fun e => (needsOf c e).contains d)

/-- A domain lies below router `p` or is attached to it (R21, R400). -/
def underRouter (c : GenConfig) (p d : Nat) : Bool :=
  match GenConfig.domUnit c d with
  | some (.core t) | some (.spad t) | some (.bxz t) => (GenConfig.upFrom c (GenConfig.leafOf c t)).contains p
  | some (.router q) => decide (q ≠ p) && (GenConfig.upFrom c q).contains p
  | some (.pll l) => (GenConfig.upFrom c l).contains p
  | some (.port n) => (GenConfig.upFrom c (portLeaf c n)).contains p
  | some (.slice _) => true
  | some .band | some .pergola | some .gate0 | some .gate1 => decide (p = GenConfig.root c)
  | none => false

/-- A domain state that is not, and is not on its way to, ON. -/
def DomState.down : DomState → Bool
  | .off | .retention | .quiesced => true
  | _ => false

/-! ## What a unit loses -/

/-- An instruction of a ring that a reset, a quiesce or a watchdog ends: its entry, stream and TAG; its lateness, cause and time of
launch, all 0 where it had not launched (R327); and the instruction itself, where it may have sent something. -/
structure Lost where
  ref : EntryRef
  stream : Nat := 0
  tag : Nat
  late : Nat := 0
  cause : Nat := 0
  tl : DWord := 0
  who : Option (Nat × Source × Nat) := none

/-- An instruction without a stream that has not launched. -/
def Lost.held (l : Line) (e : Option EntryRef) : Option Lost := e.map (fun e => { ref := e, tag := iTag l })

/-- An instruction without a stream that has launched, number `ord` of its source. -/
def Lost.begun (t : Nat) (src : Source) (ord : Nat) (l : Line) (la : LaunchSt) (e : Option EntryRef) : Option Lost :=
  let lc := lateOf la la.ll 0
  e.map (fun e => { ref := e, tag := iTag l, late := lc.1, cause := lc.2, tl := la.tl, who := some (t, src, ord) })

/-- The instruction that holds a source of tile `t`. -/
def Hold.lost (t : Nat) (src : Source) : Hold → Option Lost
  | .none => Option.none
  | .instr h => Lost.held h.line h.entry
  | .wait w => Lost.begun t src w.ord w.line w.launch w.entry
  | .bar b => Lost.begun t src b.ord b.line b.launch b.entry

/-- The ring entries of tile `t` that have no stream and have not ended: those that have not issued, that have issued and not
launched, at which a source is held, and the pending signals and fences. -/
def heldEntries (x : Tile) (t : Nat) : List Lost :=
  let q := x.inq.flatMap (fun p => p.2.filterMap (fun e => Lost.held e.line (some e.ref)))
  let is := x.issued.filterMap (fun i => Lost.held i.held.line i.held.entry)
  let hs := x.rings.filterMap (fun p => p.2.hold.lost t (.ring p.1))
  let ps := (x.pendProg ++ x.pendRing).filterMap (fun p =>
    if p.wrel then none else Lost.begun t p.src p.ord p.line p.launch p.entry)
  let fs := x.fences.filterMap (fun f => Lost.begun t f.src f.ord f.line f.launch f.entry)
  q ++ is ++ hs ++ ps ++ fs

/-- The ring entries of the streams of tile `t` that have not completed at local time `now`: a parked stream's has, unless a RESUME
waits on it. -/
def streamEntries (x : Tile) (t : Nat) (now : DWord) : List Lost :=
  x.streams.filterMap (fun p =>
    let st := p.2
    let lc := if st.launched then lateOf st.launch st.launch.ll (finishLate st now) else (0, 0)
    if st.parked.isSome || st.resumer.isSome then none
    else st.entry.map (fun e => { ref := e, stream := p.1, tag := iTag st.line, late := lc.1, cause := lc.2, tl := st.launchTime
                                  who := some (t, st.src, st.ord) : Lost }))

/-- The lateness of ring entries that end is judged as any other (R235). -/
def judgeLost (s : State) (t : Nat) (ls : List Lost) : State :=
  ls.foldl (fun s l => judgeLate s t l.stream true l.late l.cause) s

/-- Complete entries that have left their tile with a code, and break their jobs (R321). -/
def completeWith (s : State) (code : Nat) (ls : List Lost) : State :=
  let now := localTime s
  let s := ls.foldl (fun s l =>
    addComp s l.ref { status := code, late := l.late, cause := l.cause, stream := l.stream, tag := l.tag, tl := l.tl, tr := now
                      who := l.who }) s
  ls.foldl (fun s l => breakJob s l.ref) s

/-- Complete the entries that a tile loses with UNIT_OFFLINE (R405). -/
def completeLost (s : State) (ls : List Lost) : State := completeWith s stOffline ls

/-- The RESUME entries that wait on streams of a tile complete with the stream's end, which breaks the job of the resumed
instruction (R321, R328). -/
def completeResumers (s : State) (x : Tile) : State :=
  x.streams.foldl (fun s p =>
    match p.2.resumer with
    | some (e, tag, tEff) =>
      let s := addComp s e { status := stDone, rstatus := stOffline, stream := p.1, tag := tag, tl := tEff, tr := localTime s }
      (match p.2.entry with
       | some b => breakJob s b
       | none => s)
    | none => s) s

/-- A source after a reset: its number of issued instructions, the model's own, goes on, so that nothing of before the reset is taken
for the new instruction's. -/
def SourceSt.restart (v : SourceSt) : SourceSt := { SourceSt.init with ord := v.ord }

/-- Reset values of a tile's core, with the registers of its codec lane kept (R406). -/
def coreInit (x : Tile) : Tile :=
  { Tile.init with bxErr := x.bxErr, bxErrEntry := x.bxErrEntry, bxErrBlock := x.bxErrBlock, bxErrCount := x.bxErrCount
                   bxUnder := x.bxUnder, bxEsc := x.bxEsc
                   prog := x.prog.restart, rings := x.rings.map (fun p => (p.1, p.2.restart)) }

/-- Reset values of a tile's codec lane. -/
def laneInit (x : Tile) : Tile :=
  { x with bxErr := Tile.init.bxErr, bxErrEntry := Tile.init.bxErrEntry, bxErrBlock := Tile.init.bxErrBlock
           bxErrCount := Tile.init.bxErrCount, bxUnder := Tile.init.bxUnder, bxEsc := Tile.init.bxEsc }

/-- A message that goes back to a tile for reissue. -/
def backTo (t : Nat) (m : Msg) : Bool := m.again && decide (m.dst = .tile t)

/-- A write without its signal, when tile `t` sent it. -/
def cutSignal (t : Nat) (w : WriteReq) : WriteReq := if w.tile = t then { w with signal := none } else w

/-- A message without what tile `t` of before its reset could still apply under a sequence number (R420). -/
def cutMsg (t : Nat) (m : Msg) : Option Msg :=
  match m.body with
  | .upd u => if u.kind = 0 ∧ u.tile = t then none else some m
  | .wr w => if w.tile = t ∧ w.kind ≠ .data then none else some { m with body := .wr (cutSignal t w) }
  | .discardCmd u _ _ _ _ _ _ => if u = t then none else some m
  | _ => some m

/-- A request at a system port without its signal. -/
def cutReq (t : Nat) (q : PortReq) : PortReq :=
  match q.req with
  | .wr w => { q with req := .wr (cutSignal t w) }
  | _ => q

/-- A system port without the signals of tile `t`. -/
def cutPort (t : Nat) (x : SysPort) : SysPort :=
  { x with waiting := x.waiting.map (cutReq t), tags := x.tags.map (fun p => (p.1, { p.2 with req := cutReq t p.2.req })) }

/-- Signals, addends, applies and discards of tile `t` that have not been performed are gone, and the records of those that have
are cleared: the tile's next signal and apply of every stream are always performed (R420; DEDUCED, log 115). -/
def forgetTile (s : State) (t : Nat) : State :=
  { s with
    lodge := { s.lodge with applied := s.lodge.applied.filter (fun r => decide (r.tile ≠ t))
                            xupds := s.lodge.xupds.filter (fun u => !(decide (u.kind = 0) && decide (u.tile = t))) }
    spad := { s.spad with acc := s.spad.acc.filter (fun r => decide (r.tile ≠ t)) }
    prom := { s.prom with net := s.prom.net.filterMap (cutMsg t), sps := s.prom.sps.map (fun p => (p.1, cutPort t p.2)) } }

/-- The jobs of parked instructions that a reset ends break (R321): their own completions have been written. -/
def breakParked (s : State) (x : Tile) : State :=
  x.streams.foldl (fun s p =>
    match p.2.parked, p.2.entry with
    | some _, some b => breakJob s b
    | _, _ => s) s

/-- The core of a tile is reset: what it holds ends with UNIT_OFFLINE, its program state is that after `rst_n`, and every
record kept for the tile elsewhere is cleared (R405, R420). What its instructions have sent goes on its way, and their completions
wait for it (R324; DEDUCED, log 126). -/
def coreReset (s : State) (t : Nat) : State :=
  let x := s.tile t
  let ls := heldEntries x t ++ streamEntries x t (localTime s)
  let s := judgeLost s t ls
  let s := forgetTile (s.setTile t (coreInit x)) t
  let s := { s with prom := { s.prom with net := s.prom.net.filter (fun m => !backTo t m) } }
  let s := x.streams.foldl (fun s p => if p.2.parked.isSome || p.2.resumer.isSome then clearPark s t p.1 else s) s
  completeLost (breakParked (completeResumers s x) x) ls

/-- Requests in flight to a unit that is reset are gone (R402). -/
def dropReqs (s : State) (f : Msg → Bool) : State :=
  { s with prom := { s.prom with net := s.prom.net.filter (fun m => m.again || !f m) } }

/-- A chunk whose apply a reset bank group may have lost is not redone, nor is one whose redo waits for such an apply (R183). -/
def markApplies (t : Nat) (st : Stream) : Stream :=
  let hit := fun (w : WriteReq) => decide (w.kind = WriteKind.apply) &&
    (match w.endpoint with
     | .group u _ => decide (u = t)
     | .port _ => false)
  { st with
    lostApply := st.lostApply || st.wrOut.any (fun w => hit w && decide (w.epoch ≠ st.epoch))
    chunks := st.chunks.map (fun c =>
      if st.wrOut.any (fun w => hit w && decide (w.epoch = st.epoch) && decide (w.idx = c.idx)) then { c with lostApply := true }
      else c) }

/-- The bank groups of a scratchpad are reset: requests on their way, staged addends and applied numbers are lost, the array is kept
(R402, R405). -/
def spadReset (s : State) (t : Nat) : State :=
  let home := fun (h : Home) => match h with
    | .group u _ => decide (u = t)
    | _ => false
  let s := dropReqs s (fun m => decide (m.dst = .tile t) && decide (m.cls = .request))
  { s with
    spad := { s.spad with acc := s.spad.acc.filter (fun r => decide (r.t ≠ t)) }
    lodge := { s.lodge with applied := s.lodge.applied.filter (fun r => !home r.home) }
    tiles := s.tiles.map (fun p => (p.1, { p.2 with streams := p.2.streams.map (fun q => (q.1, markApplies t q.2)) })) }

/-- A scratchpad array loses its contents. -/
def spadErase (s : State) (t : Nat) : State :=
  { s with spad := { s.spad with
      mem := s.spad.mem.filter (fun c => decide (c.1 / slotBytes ≠ t))
      poison := s.spad.poison.filter (fun u => decide (u * 8 / slotBytes ≠ t)) } }

/-- A point at an output of router `p`, at its window port, or at the link to it from a tile of its pavilion. -/
def pointOf (c : GenConfig) (p : Nat) : Point → Bool
  | .pavOut q _ => decide (q = p)
  | .winPort l => decide (l = p)
  | .tileOut t => decide (GenConfig.leafOf c t = p)
  | _ => false

/-- The context table copy of a leaf router is cleared (R247, R406). -/
def ctxReset (s : State) (p : Nat) : State :=
  { s with lodge := { s.lodge with ctx := s.lodge.ctx.filter (fun c => decide (c.1 / 16384 ≠ p))
                                   ctxBad := s.lodge.ctxBad.filter (fun k => decide (k / 16384 ≠ p)) } }

/-- A router is reset: the flits it holds are lost and its links work again (R405, R412). -/
def routerReset (s : State) (p : Nat) : State :=
  let s := ctxReset s p
  { s with
    prom := { s.prom with
      net := dropFlits (fun m => m.route.head?.any (pointOf s.gen p)) s.prom.net
      failed := s.prom.failed.filter (fun q => !pointOf s.gen p q)
      linkFails := s.prom.linkFails.filter (fun f => !pointOf s.gen p f.1)
      wpResp := Tab.erase s.prom.wpResp p
      wpOut := s.prom.wpOut.filter (fun f => decide (f.1 / 1024 ≠ p)) }
    turn := { s.turn with points := s.turn.points.filter (fun f => !pointOf s.gen p f.1) } }

/-- A system port is reset: its registers, tags and translations, and the requests on their way to it (R402, R405). -/
def portReset (s : State) (n : Nat) : State :=
  (dropReqs s (fun m => decide (m.dst = .sysPort n) && decide (m.cls = .request))).setSp n SysPort.init

/-- Indices of a table outside a range. -/
def outside {α : Type} (lo n : Nat) (t : Tab α) : Tab α := t.filter (fun p => decide (p.1 < lo) || decide (lo + n ≤ p.1))

/-- An update, registration or withdrawal for lodge slice `k`. -/
def Msg.toSlice (k : Nat) (m : Msg) : Bool :=
  match m.body with
  | .upd u => decide (sliceOf u.cid = k)
  | .watchReg r => decide (sliceOf r.cid = k)
  | .withdraw r => decide (sliceOf r.cid = k)
  | _ => false

/-- A lodge slice is reset: its counters, watches, timers and applied numbers, and the messages on their way to it (R402, R405). -/
def sliceReset (s : State) (k : Nat) : State :=
  let home := fun (h : Home) => match h with
    | .bank j _ => decide (j = k)
    | _ => false
  let s := dropReqs s (Msg.toSlice k)
  let l := s.lodge
  { s with lodge := { l with
      val := outside (4096 * k) 4096 l.val
      cfg := outside (4096 * k) 4096 l.cfg
      rel := outside (4096 * k) 4096 l.rel
      poison := l.poison.filter (fun c => decide (c / 4096 ≠ k))
      watches := outside (1024 * k) 1024 l.watches
      timers := l.timers.filter (fun x => decide (x.slice ≠ k))
      applied := l.applied.filter (fun r => !home r.home) } }

/-- The bandstand is reset, and arrivals on their way to it are gone. -/
def bandReset (s : State) : State := { dropReqs s (fun m => decide (m.dst = .band)) with band := Band.init }

/-- Gatehouse domain 0 is reset, and answers on their way to it are gone. -/
def gateReset (s : State) : State := { dropReqs s (fun m => decide (m.dst = .gate)) with gate := Gate.init }

/-- Boot's power step is in progress. -/
def booting (s : State) : Bool := s.boot.running && decide (s.boot.state = 0)

/-- Gatehouse domain 1 is reset: the boot sequencer and the configuration port stop where they are, and the boot registers, which lie
in the always-on domain, keep what they show (R395, R406; DEDUCED, log 113). The power step of boot is the CPC's (R407). -/
def seqReset (s : State) : State :=
  if booting s then s
  else
    let b := s.boot
    { s with boot := { Boot.init with state := b.state, err := b.err, sect := b.sect, offset := b.offset, hostfeed := b.hostfeed
                                      mode := b.mode, addr4 := b.addr4, nosfdp := b.nosfdp, spi := b.spi } }

/-- The pergola is reset: its registers but `PG_SRC`, and its counters (R395, R406). -/
def pergolaReset (s : State) : State :=
  { s with pg := { Pergola.init with src := s.pg.src, srcIn := s.pg.srcIn, running := s.pg.running } }

/-- Every register and table of a domain's unit returns to its Reset value (R406). -/
def unitReset (s : State) (d : Nat) : State :=
  match GenConfig.domUnit s.gen d with
  | some (.core t) => coreReset s t
  | some (.spad t) => spadReset s t
  | some (.bxz t) => s.setTile t (laneInit (s.tile t))
  | some (.router p) => routerReset s p
  | some (.port n) => portReset s n
  | some (.slice k) => sliceReset s k
  | some .band => bandReset s
  | some .pergola => pergolaReset s
  | some .gate0 => gateReset s
  | some .gate1 => seqReset s
  | some (.pll _) | none => s

/-! ## PLLs (R387–R390) -/

/-- PLL `p`. -/
def State.pll (s : State) (p : Nat) : Pll := Tab.get s.cpc.plls (Pll.init p) p

/-- The state with PLL `p` replaced. -/
def State.setPll (s : State) (p : Nat) (x : Pll) : State :=
  { s with cpc := { s.cpc with plls := Tab.put s.cpc.plls p x } }

/-- A PLL starts to lock at the settings in use: the domain runs from `clk_ref`, and PLL 1, which has no multiplexer,
stops the tb clock (R388, R389). -/
def startLock (s : State) (p : Nat) : State :=
  let x := s.pll p
  let s := s.setPll p { x with busy := true, lock := false, sel := decide (p = 1) }
  if p = 1 then { s with pg := { s.pg with running := false } } else s

/-- The clock from which the multiplexer of a PLL would switch has stopped: the switch never completes (R391). -/
def muxStuck (s : State) (p : Nat) : Bool :=
  if p = 0 then s.cpc.stopped.contains 3 || s.cpc.stopped.contains 4 else decide (2 ≤ p) && s.cpc.stopped.contains (p + 6)

/-- A leaf PLL locks after a reset or a power-up, which forces its multiplexer onto `clk_ref` (R393). -/
def forceLock (s : State) (p : Nat) : State :=
  startLock { s with cpc := { s.cpc with stopped := s.cpc.stopped.filter (fun k => decide (k ≠ p + 6)) } } p

/-- The domain of a leaf PLL. -/
def pllDom (s : State) (p : Nat) : Option Nat := if p < 2 then none else some (GenConfig.domPll s.gen (p - 2))

/-- A leaf PLL without power. -/
def pllOff (s : State) (p : Nat) : Bool :=
  match pllDom s p with
  | some d => decide ((s.dom d).state = .off) || decide ((s.dom d).state = .quiesced)
  | none => false

/-- A write of `CP_PLL<p>_CTRL.GO` (R388, R389). -/
def pllGo (s : State) (p : Nat) : State :=
  if p = 1 ∧ s.pg.valid then s
  else
    let x := s.pll p
    let s := s.setPll p { x with inUse := (x.cfg, x.frac) }
    if pllOff s p then s
    else if muxStuck s p then s.setPll p { s.pll p with busy := true }
    else startLock s p

/-! ## The power sequence of a domain (R397–R406) -/

/-- The command ends with a result (R397). -/
def endCmd (s : State) (result : Nat) : State :=
  { s with cpc := { s.cpc with cmdBusy := false, cmdWaits := false, cmdResult := BitVec.ofNat 3 result } }

/-- The command in progress is domain `d`'s own and is not waiting for another action. -/
def cmdOn (s : State) (d : Nat) : Bool :=
  s.cpc.cmdBusy && !s.cpc.cmdWaits && decide (s.cpc.cmdDom.toNat = d)

/-- The action of a domain ends; a command on it ends with a result. -/
def doneCmd (s : State) (d result : Nat) : State := if cmdOn s d then endCmd s result else s

/-- UP from OFF or RETENTION (R403 step 1). `pw_req` changes only while `pw_ack` equals it: where `pw_ack` stands at 1, its fall is
awaited first (R358). -/
def startUp (s : State) (d : Nat) : State :=
  let x := { s.dom d with state := .powering }
  if x.ack then s.setDom d { x with phase := .ackLow, thenUp := true }
  else s.setDom d { x with req := true, phase := .ackHigh, thenUp := false }

/-- The program source stops as by `TL_CTRL.STOP`, and entries not issued complete with UNIT_OFFLINE (R400). -/
def quiesceCore (s : State) (t : Nat) : State :=
  let x := s.tile t
  let ls := x.inq.flatMap (fun p => p.2.filterMap (fun e => Lost.held e.line (some e.ref)))
  let s := s.setTile t { x with stopping := x.stopping || decide (x.seq = .running), inq := [] }
  completeLost s ls

/-- DOWN or RETAIN begins (R399 step 1). -/
def startDown (s : State) (d : Nat) (ret : Bool) : State :=
  let s := s.setDom d { s.dom d with state := .quiescing, phase := .drain, toRet := ret, thenUp := false }
  match GenConfig.domUnit s.gen d with
  | some (.core t) => quiesceCore s t
  | _ => s

/-- A domain is reset without quiesce (R405); a command that it interrupts waits for its end (R398). -/
def domReset (s : State) (d : Nat) : State :=
  let x := s.dom d
  if x.state = .on ∨ x.state = .quiescing then
    let s := if x.state = .quiescing ∧ cmdOn s d then { s with cpc := { s.cpc with cmdWaits := true } } else s
    let s := s.setDom d { x with state := .reset, phase := .inReset, resets := satInc x.resets }
    let s := unitReset s d
    match GenConfig.domUnit s.gen d with
    | some (.pll l) => forceLock s (2 + l)
    | _ => s
  else s

/-- A reset of leaf pavilion `l`: every domain of its tiles, its router and its leaf PLL (R405). -/
def leafReset (s : State) (l : Nat) : State :=
  let k := GenConfig.perLeaf s.gen
  let ds := (List.range k).flatMap (fun i => [3 * (l * k + i), 3 * (l * k + i) + 1, 3 * (l * k + i) + 2])
  (ds ++ [GenConfig.domRouter s.gen l, GenConfig.domPll s.gen l]).foldl domReset s

/-- The tile of a scratchpad domain. -/
def spadOf (s : State) (d : Nat) : Option Nat :=
  match GenConfig.domUnit s.gen d with
  | some (.spad t) => some t
  | _ => none

/-- The tile of a core or scratchpad domain. -/
def tileOf (s : State) (d : Nat) : Option Nat :=
  match GenConfig.domUnit s.gen d with
  | some (.core t) => some t
  | some (.spad t) => some t
  | _ => none

/-- A scratchpad's supply is given up: the array loses its contents. -/
def dropArray (s : State) (d : Nat) : State :=
  match spadOf s d with
  | some t => { spadErase s t with cpc := { s.cpc with pwRet := s.cpc.pwRet.filter (fun r => decide (r ≠ t)) } }
  | none => s

/-- The clock of a leaf PLL without power. -/
def pllDown (s : State) (d : Nat) : State :=
  match GenConfig.domUnit s.gen d with
  | some (.pll l) => s.setPll (2 + l) { s.pll (2 + l) with busy := false, lock := false, sel := false }
  | _ => s

/-- A domain enters OFF. -/
def enterOff (s : State) (d : Nat) : State :=
  pllDown (dropArray (s.setDom d { s.dom d with state := .off, phase := .idle, thenUp := false }) d) d

/-- The change would break R396: UP with a domain it depends on not ON, DOWN or RETAIN with a dependent that is not
down, RETAIN with the tile's core not OFF. -/
def breaksDeps (s : State) (op d : Nat) : Bool :=
  if op = 0 then !(needsOf s.gen d).all (fun e => s.isOn e)
  else if op = 1 then !(dependents s.gen d).all (fun e => (s.dom e).state.down)
  else if op = 2 then !(dependents s.gen d).all (fun e => decide ((s.dom e).state = .off))
  else false

/-- The tile of a domain holds a parked stream. -/
def hasParked (s : State) (d : Nat) : Bool :=
  match tileOf s d with
  | some t => (s.tile t).streams.any (fun p => p.2.parked.isSome)
  | none => false

def pwOk : Nat := 0
def pwDepend : Nat := 1
def pwParked : Nat := 2
def pwQtimeout : Nat := 3
def pwAcktimeout : Nat := 4
def pwAuth : Nat := 5
def pwInvalid : Nat := 6

/-- The start of a change that R396 and parked streams allow. -/
def guarded (s : State) (op d : Nat) (k : State → State) : State :=
  if breaksDeps s op d then endCmd s pwDepend
  else if (op = 1 ∨ op = 2) ∧ hasParked s d then endCmd s pwParked
  else k s

/-- `pw_ack` has fallen: OFF, RETENTION, or the start of the UP that waited for it. -/
def ackDown (s : State) (d : Nat) : State :=
  let x := s.dom d
  if x.thenUp then startUp (dropArray s d) d
  else
    let s := s.setDom d { x with cycles := satInc x.cycles }
    let s := if x.toRet then s.setDom d { s.dom d with state := .retention, phase := .idle } else enterOff s d
    doneCmd s d pwOk

/-- A domain left in QUIESCED by R404 waits again for `pw_ack` to fall; one whose `pw_ack` has fallen since goes on at once (R398). -/
def awaitFall (s : State) (d : Nat) (up : Bool) : State :=
  let x := { s.dom d with phase := .ackLow, toRet := false, thenUp := up }
  let s := s.setDom d x
  if x.ack then s else ackDown s d

/-- A command is taken from the row of its domain's state (R398). -/
def takeCmd (s : State) : State :=
  let op := s.cpc.cmdOp.toNat
  let d := s.cpc.cmdDom.toNat
  let s := { s with cpc := { s.cpc with cmdWaits := false } }
  match (s.dom d).state with
  | .on =>
    if op = 0 then endCmd s pwOk
    else if op = 1 then guarded s 1 d (fun s => startDown s d false)
    else if op = 2 then guarded s 2 d (fun s => startDown s d true)
    else domReset s d
  | .off =>
    if op = 0 then guarded s 0 d (fun s => startUp s d)
    else if op = 1 then endCmd s pwOk
    else endCmd s pwInvalid
  | .retention =>
    if op = 0 then guarded s 0 d (fun s => startUp s d)
    else if op = 1 then guarded s 1 d (fun s => endCmd (enterOff s d) pwOk)
    else if op = 2 then endCmd s pwOk
    else endCmd s pwInvalid
  | .quiesced =>
    if op = 0 then guarded s 0 d (fun s => awaitFall s d true)
    else if op = 1 then guarded s 1 d (fun s => awaitFall s d false)
    else endCmd s pwInvalid
  | .powering | .quiescing | .reset => { s with cpc := { s.cpc with cmdWaits := true } }

/-- A domain's action has ended: a command that waits for it is taken. -/
def wakeCmd (s : State) (d : Nat) : State :=
  if s.cpc.cmdBusy && s.cpc.cmdWaits && decide (s.cpc.cmdDom.toNat = d) then takeCmd s else s

/-- Any ring has EN = 1. -/
def anyRing (s : State) : Bool := s.gate.rings.any (fun p => p.2.en)

/-- A write of `CP_PWR_CMD` (R397). -/
def pwrWrite (s : State) (v : Word) : State :=
  if s.cpc.cmdBusy then s
  else
    let op := fld v 26 24
    let d := fld v 7 0
    let s := { s with cpc := { s.cpc with cmdOp := BitVec.ofNat 3 op, cmdDom := BitVec.ofNat 8 d } }
    if !bit v 31 then s
    else if GenConfig.domains s.gen ≤ d ∨ 4 ≤ op ∨ (op = 2 ∧ (spadOf s d).isNone) then endCmd s pwInvalid
    else if (op = 1 ∨ op = 3) ∧ d = GenConfig.domFixed s.gen 6 ∧ anyRing s then endCmd s pwInvalid
    else if op = 3 ∧ !bit s.always.rstauth 0 then endCmd s pwAuth
    else takeCmd { s with cpc := { s.cpc with cmdBusy := true } }

/-! ## Drain (R400) -/

/-- A message for a node is on the promenade; an acceptance that has arrived is not any more. -/
def flitsFor (s : State) (n : Node) : Bool := s.prom.net.any (fun m => decide (m.dst = n) && (Msg.acceptance m).isNone)

/-- An access is a message write (R333). -/
def GhAcc.isMsg : GhAcc → Bool
  | .msg _ _ _ => true
  | _ => false

/-- A request at a system port is a message write. -/
def SpReq.isMsg : SpReq → Bool
  | .gh a => a.isMsg
  | _ => false

/-- A message write is outstanding: on the promenade, at a system port, or answered and not yet seen (R400). -/
def msgWriteOut (s : State) : Bool :=
  s.prom.net.any (fun m => match m.body with
    | .gh a => a.isMsg
    | .ghResp a _ _ => a.isMsg
    | _ => false)
  || s.prom.sps.any (fun p => p.2.waiting.any (fun q => q.req.isMsg)
    || p.2.tags.any (fun g => !g.2.timedOut && g.2.req.req.isMsg))

/-- The unit of a domain has drained. -/
def drained (s : State) (d : Nat) : Bool :=
  match GenConfig.domUnit s.gen d with
  | some (.core t) =>
    let x := s.tile t
    decide (x.seq ≠ .running) && (heldEntries x t).isEmpty && x.issued.isEmpty && x.streams.isEmpty && x.pendProg.isEmpty && x.pendRing.isEmpty
      && x.fences.isEmpty && decide (x.prog.hold = .none)
  | some (.bxz t) => (s.tile t).streams.all (fun p => !p.2.srcE.isBlock && !p.2.dstE.isBlock)
  | some (.spad t) => !s.spad.acc.any (fun r => decide (r.t = t))
      && !s.prom.net.any (fun m => decide (m.dst = .tile t) && !m.again && decide (0 < m.done))
  | some (.router p) =>
    ((List.range (GenConfig.domains s.gen)).filter (underRouter s.gen p)).all (fun e =>
        decide ((s.dom e).state = .off) || decide ((s.dom e).state = .retention))
      && !s.prom.net.any (fun m => match m.body with
        | .wp q => decide (q.port = p)
        | .wpResp q _ _ => decide (q.port = p)
        | _ => false)
  | some (.port n) =>
    let x := s.sp n
    x.waiting.isEmpty && x.tags.all (fun p => p.2.timedOut)
  | some (.slice k) =>
    let l := s.lodge
    !l.watches.any (fun p => decide (p.1 / 1024 = k)) && !l.timers.any (fun x => decide (x.slice = k))
  | some .band => s.band.bars.all (fun p => decide (p.2.cnt0 = 0) && decide (p.2.cnt1 = 0))
  | some .gate0 => !anyRing s && !msgWriteOut s
  | some (.pll _) | some .pergola | some .gate1 | none => true

/-- QUIESCE_ACK: the unit has drained (R399 step 2); a system port drops its translation buffer. -/
def quiesceAckStep (s : State) (d : Nat) : State :=
  let x := s.dom d
  if x.phase = .drain ∧ drained s d ∧ clockDead s d = false then
    let s := s.setDom d { x with state := .quiesced, phase := .confirm }
    match GenConfig.domUnit s.gen d with
    | some (.port n) => s.setSp n { s.sp n with tlb := [] }
    | _ => s
  else s

def execQuiesceAck (d : Nat) (s : State) : Out := .next (quiesceAckStep s d)

/-- The attachments of a domain's unit. -/
def nodesOf (s : State) (d : Nat) : List Node :=
  match GenConfig.domUnit s.gen d with
  | some (.core t) => [.tile t]
  | some (.spad t) => [.tile t]
  | some (.router p) => [.winPort p]
  | some (.port n) => [.sysPort n]
  | some (.slice _) => (List.range (GenConfig.T s.gen)).map (fun h => .lodge h)
  | some .band => [.band]
  | some .gate0 => [.gate]
  | _ => []

/-- A message that the unit of a domain would serve is on the promenade. -/
def flitsLeft (s : State) (d : Nat) : Bool :=
  match GenConfig.domUnit s.gen d with
  | some (.slice k) => s.prom.net.any (Msg.toSlice k)
  | some (.spad t) => s.prom.net.any (fun m => decide (m.dst = .tile t) && decide (m.cls = .request))
  | some (.core t) => s.prom.net.any (fun m => decide (m.dst = .tile t) && decide (m.cls ≠ .request))
  | _ => (nodesOf s d).any (flitsFor s)

/-- ROUTER_CONFIRMATION: no flit for the unit remains; isolation, retention and then the power request (R399 steps 3
and 4). -/
def confirmStep (s : State) (d : Nat) : State :=
  let x := s.dom d
  if x.phase = .confirm ∧ !flitsLeft s d then
    let s := s.setDom d { x with iso := true, req := false, phase := .ackLow }
    match x.toRet, spadOf s d with
    | true, some t => { s with cpc := { s.cpc with pwRet := s.cpc.pwRet.filter (fun r => decide (r ≠ t)) ++ [t] } }
    | _, _ => s
  else s

def execRouterConfirmation (d : Nat) (s : State) : Out := .next (confirmStep s d)

/-- QUIESCE_TIMEOUT: the quiesce is abandoned (R401). -/
def quiesceTimeoutStep (s : State) (d : Nat) : State :=
  let x := s.dom d
  if x.phase = .drain then
    let s := s.setDom d { x with state := .on, phase := .idle }
    klog (doneCmd s d pwQtimeout) .reported .pwrTimeout luKeeper { detail := pwQtimeout }
  else s

def execQuiesceTimeout (d : Nat) (s : State) : Out := .next (quiesceTimeoutStep s d)

/-! ## Boot failure (R362) and the image entries of the seal log (R379) -/

/-- The GH_MSG_BASE pair. -/
def msgLo (s : State) : Word := lo32 s.always.msgBase
def msgHi (s : State) : Word := hi32 s.always.msgBase

/-- The registers of a seal group, in ascending order, and the first one's address (R377). -/
def sealGroup (s : State) : Nat → List Word × Nat
  | 0 => ((List.range 4).map (fun i => Tab.get s.always.partTile 0 i) ++ [BitVec.ofNat 32 s.always.partCtrl.toNat]
      ++ (List.range 8).map (fun p => Tab.get s.always.partCnt (partCntInit p) p)
      ++ (List.range 8).map (fun p => Tab.get s.always.partBar (partBarInit p) p), 0x200)
  | 1 => ([BitVec.ofNat 32 s.always.xlateEn.toNat], 0x700014)
  | 2 => ((List.range 8).map (fun l => Tab.get s.always.wpMask 0 l), 0x700100)
  | 3 => ([s.always.expAlloc], 0x570018)
  | 4 => ([BitVec.ofNat 32 s.pg.src.toNat], 0x300000)
  | 5 => ([BitVec.ofNat 32 s.always.rstauth.toNat], 0x300)
  | 6 => ([msgLo s, msgHi s], 0x1008)
  | _ => ([at1 s.always.debug 0], 0x304)

/-- Write the next entry of the change log (R379): `image` for the image's, OLD and NEW with their high halves. -/
def sealEntry (s : State) (image : Bool) (g reg : Nat) (isPair : Bool) (old new oldHi newHi : Word) : State :=
  let w0 : Word := 0x80000000 ||| at1 (!image) 30 ||| atN g 27 ||| at1 isPair 26 ||| atN reg 0
  { s with always := { s.always with sealLog := s.always.sealLog ++
      [[w0, old, new, oldHi, newHi, lo32 s.pg.time, hi32 s.pg.time]] } }

/-- The image entries of all eight groups. -/
def logImage (s : State) : State :=
  (List.range 8).foldl (fun s g =>
    let r := sealGroup s g
    sealEntry s true g r.2 false 0 (crc32c (wordBytes r.1)) 0 0) s

/-- Words that the sequencer takes before it works on them: the header's, or a section's, whose length its second word gives. -/
def feedWant (b : Boot) : Nat :=
  if b.state = 3 then 8
  else match b.feed[1]? with
    | some len => if len.toNat % 4 = 0 ∧ len.toNat ≤ 65520 then 4 + len.toNat / 4 else 4
    | none => 4

/-- The sequencer takes held words of `GH_BOOT_FEED` while it waits for a header or a section (R368). -/
def takeFeed : Nat → Boot → Boot
  | 0, b => b
  | n + 1, b =>
    match b.held with
    | [] => b
    | w :: ws =>
      if (b.state = 3 ∨ b.state = 4) ∧ b.entries = [] ∧ b.feed.length < feedWant b then
        takeFeed n { b with held := ws, feed := b.feed ++ [w] }
      else b

/-- The sequencer goes on, and takes what is held for it. -/
def seqOn (s : State) (b : Boot) : State := { s with boot := takeFeed b.held.length b }

/-- A boot step fails: ERR, SECT and the offset are recorded, and the seal image entries are logged (R362). -/
def bootFail (s : State) (err sect : Nat) (off : Word) : State :=
  let s := logImage s
  { s with boot := { s.boot with state := 6, err := err, sect := sect, offset := off, running := false, entries := [], held := [] } }

/-! ## Power-up of boot (R361 steps 2 and 3, R407) -/

/-- The routers below the root, from the root downward. -/
def routersDown (c : GenConfig) : List Nat :=
  (List.range (GenConfig.root c)).filter (fun p => decide (GenConfig.leaves c ≤ p)) ++ (List.range (GenConfig.root c)).filter (fun p => decide (p < GenConfig.leaves c))

/-- The order in which the domains are powered (R407). -/
def powerOrder (c : GenConfig) : List Nat :=
  [GenConfig.domRouter c (GenConfig.root c), GenConfig.domFixed c 7, GenConfig.domFixed c 6]
  ++ (routersDown c).map (fun p => GenConfig.domRouter c p)
  ++ (List.range (GenConfig.leaves c)).map (fun l => GenConfig.domPll c l)
  ++ (List.range (GenConfig.sysPorts c)).map (fun n => GenConfig.domPort c n)
  ++ (List.range 6).map (fun k => GenConfig.domFixed c k)
  ++ (List.range (GenConfig.T c)).flatMap (fun t => [GenConfig.domSpad c t, GenConfig.domCore c t, GenConfig.domBxz c t])

/-- The next domain of boot's order is requested. -/
def bootNext (s : State) (d : Nat) : State :=
  if booting s ∧ (powerOrder s.gen)[s.boot.powerStep]? = some d then
    let s := { s with boot := { s.boot with powerStep := s.boot.powerStep + 1 } }
    match (powerOrder s.gen)[s.boot.powerStep]? with
    | some e => startUp s e
    | none => s
  else s

/-- Numbers of the PLLs. -/
def pllNums (s : State) : List Nat := List.range (2 + GenConfig.leaves s.gen)

/-- Every domain of boot's order is ON: every PLL starts to lock at its reset settings (R361 step 3). -/
def bootPlls (s : State) : State :=
  if booting s ∧ (List.range (GenConfig.domains s.gen)).all (fun d => s.isOn d) then
    (pllNums s).foldl startLock { s with boot := { s.boot with state := 1 } }
  else s

/-- Every PLL has locked: discovery follows, or the header in host feed. -/
def bootLocked (s : State) : State :=
  if s.boot.running ∧ s.boot.state = 1 ∧ (pllNums s).all (fun p => (s.pll p).lock) then
    seqOn s { s.boot with state := if s.boot.hostfeed then 3 else 2 }
  else s

/-! ## The handshake (R358, R399, R403) -/

/-- `pw_ack` falls while the domain waits for it. -/
def ackFell (s : State) (d : Nat) : State := wakeCmd (ackDown s d) d

/-- `pw_ack` has risen: a leaf PLL locks, outside boot; any other domain waits for its release. -/
def ackRose (s : State) (d : Nat) : State :=
  match GenConfig.domUnit s.gen d, booting s with
  | some (.pll l), false => forceLock (s.setDom d { s.dom d with phase := .lock }) (2 + l)
  | _, _ => bootNext (s.setDom d { s.dom d with phase := .release }) d

/-- PW_ACK: a change of `pw_ack`, seen after synchronisation. Inputs are ignored while `rst_n` is 0 (R337). -/
def pwAckStep (s : State) (d : Nat) (level : Bool) : State :=
  if s.cp.inReset then s
  else
    let s := s.setDom d { s.dom d with ack := level }
    match (s.dom d).phase, level with
    | .ackLow, false => ackFell s d
    | .ackHigh, true => ackRose s d
    | _, _ => s

def execPwAck (d : Nat) (level : Bool) (s : State) : Out := .next (pwAckStep s d level)

/-- ACK_TIMEOUT (R404); at boot the bound of R361 stands in its place. -/
def ackTimeoutStep (s : State) (d : Nat) : State :=
  let x := s.dom d
  if booting s then s
  else
    let late := fun (s : State) =>
      klog (doneCmd s d pwAcktimeout) .reported .pwrTimeout luKeeper { detail := pwAcktimeout }
    match x.phase with
    | .ackHigh => wakeCmd (late (s.setDom d { x with state := .off, req := false, ackerr := true, phase := .idle })) d
    | .ackLow =>
      let left : DomState := if x.state = .powering then .off else .quiesced
      wakeCmd (late (s.setDom d { x with state := left, ackerr := true, phase := .idle, thenUp := false })) d
    | _ => s

def execAckTimeout (d : Nat) (s : State) : Out := .next (ackTimeoutStep s d)

/-- ISOLATION_RELEASE: isolation and reset are released, and the domain enters ON (R403 steps 3 and 4). -/
def releaseStepDom (s : State) (d : Nat) : State :=
  let x := s.dom d
  if x.phase = .release then
    let s := unitReset s d
    let s := match spadOf s d with
      | some t => { s with cpc := { s.cpc with pwRet := s.cpc.pwRet.filter (fun r => decide (r ≠ t)) } }
      | none => s
    let s := s.setDom d { s.dom d with state := .on, iso := false, phase := .idle }
    bootPlls (wakeCmd (doneCmd s d pwOk) d)
  else s

def execIsolationRelease (d : Nat) (s : State) : Out := .next (releaseStepDom s d)

/-- RESET_RELEASE: after 16 cycles of reset the domain returns to ON (R405). -/
def resetReleaseStep (s : State) (d : Nat) : State :=
  let x := s.dom d
  if x.phase = .inReset then
    wakeCmd (doneCmd (s.setDom d { x with state := .on, phase := .idle }) d pwOk) d
  else s

def execResetRelease (d : Nat) (s : State) : Out := .next (resetReleaseStep s d)

/-- Level of `pw_iso[d]` at its pin: 0 while `rst_n` is 0 (R337). -/
def pwIso (s : State) (d : Nat) : Bool := !s.cp.inReset && (s.dom d).iso

/-! ## PLL lock and the clock monitors (R388, R391–R393) -/

/-- PLL_LOCK. -/
def lockStep (s : State) (p : Nat) : State :=
  let x := s.pll p
  if x.busy && !muxStuck s p then
    let s := s.setPll p { x with busy := false, lock := true, sel := true }
    let s := if p = 1 ∧ !s.cpc.stopped.contains 2 then { s with pg := { s.pg with running := true } } else s
    let s := match pllDom s p with
      | some d => if (s.dom d).phase = .lock then s.setDom d { s.dom d with phase := .release } else s
      | none => s
    bootLocked s
  else s

/-- LOCKFAIL: the domain stays on `clk_ref`. -/
def lockfailStep (s : State) (p : Nat) : State :=
  let x := s.pll p
  if x.busy && !muxStuck s p then
    klog (s.setPll p { x with busy := false, lockfail := true, occ := satInc x.occ }) .reported .pllLockfail (luClock p) {}
  else s

def execLockfail (p : Nat) (s : State) : Out := .next (lockfailStep s p)

/-- Limits of monitor `k`. -/
def monRange (s : State) (k : Nat) : Word := Tab.get s.cpc.monRange (monRangeInit k) k

/-- A monitor is suspended: that of hostif while every system-port and window-port domain is quiesced or off, that of a
datapath while its leaf PLL is off. -/
def monSuspended (s : State) (k : Nat) : Bool :=
  if k = 0 then
    (List.range (GenConfig.sysPorts s.gen)).all (fun n => (s.dom (GenConfig.domPort s.gen n)).state.down)
    && (List.range (GenConfig.leaves s.gen)).all (fun l => (s.dom (GenConfig.domRouter s.gen l)).state.down)
  else if 8 ≤ k then pllOff s (k - 6)
  else false

/-- A monitor's report of a window that counted `n`: its bit, a log entry and CLK_FAIL. A window that counts 0 finds the clock
stopped: the promenade's and the lodge's lets no event reach the host, the keeper's writes no entry (R393; DEDUCED, log 114). -/
def monReport (s : State) (k n : Nat) (stop : Bool) : State :=
  let b := if stop then k else 16 + k
  let s := { s with cpc := { s.cpc with monStatus := putBit s.cpc.monStatus b true
                                        stopped := if stop ∧ 2 ≤ k ∧ !s.cpc.stopped.contains k
                                          then s.cpc.stopped ++ [k] else s.cpc.stopped } }
  let s := if n = 0 ∧ k = 5 then s else klog s .reported (if stop then .clkStop else .clkFreq) (luClock k) {}
  if n = 0 ∧ (k = 3 ∨ k = 4) then s else raise s evClkFail 0 0 0 0

/-- What a stopped clock leads to: a pavilion reset, or a counter that stands (R393). -/
def monAction (s : State) (k : Nat) : State :=
  if 8 ≤ k then (if bit s.always.rstauth 1 && keeperRuns s then leafReset s (k - 8) else s)
  else if k = 2 then { s with pg := { s.pg with running := false } }
  else s

/-- MONITOR_WINDOW: a window of monitor `k` ends with a count. A window of a disabled or suspended monitor parts those on its sides
(R392). -/
def monitorStep (s : State) (k count : Nat) : State :=
  let w := monRange s k
  let zs := s.cpc.monZero.filter (fun j => decide (j ≠ k))
  if !bit w 31 || monSuspended s k then { s with cpc := { s.cpc with monZero := zs } }
  else
    let twice := decide (count = 0) && s.cpc.monZero.contains k
    let s := { s with cpc := { s.cpc with monZero := if count = 0 then zs ++ [k] else zs } }
    let s := if count < fld w 7 0 ∨ fld w 15 8 < count then monReport s k count false else s
    if twice then monAction (monReport s k count true) k else s

def execMonitorWindow (k count : Nat) (s : State) : Out := .next (monitorStep s k count)

end Sys2Proof.Machine
end

