-- ==== Sys2Proof/Machine/Keeper.lean ====
section
/-! DEFINITION. The keeper's own steps: lockstep (R413), link retry (R412), scrubbing (R415, R418) and the watchdogs
(R425–R428). -/

namespace Sys2Proof.Machine

/-! ## Lockstep (R413) -/

/-- The streams of a list end with a code. -/
def endStreams (t code : Nat) : List Nat → State → State
  | [], s => s
  | n :: ns, s => endStreams t code ns (killStream s t n code)

/-- Streams of a tile that a mask names and that are allocated. -/
def maskStreams (x : Tile) (m : BitVec 8) : List Nat :=
  (x.streams.map (·.1)).filter (fun n => bit m n)

/-- The ring instruction under issue completes with FAULT_UNRECOVERED. -/
def endUnderIssue (s : State) (t : Nat) (src : Source) : State :=
  match headOf (s.tile t) src with
  | some hd => failIssue (popHead s t src) t hd.entry hd.pc hd.line stUnrecovered
  | none => s

/-- LOCKSTEP_MISMATCH: `recent` names the streams whose issue began at or after the faulty cycle, `under` the source whose
instruction was under issue. The program source stops; `TL_FAULT` captures the end of its instruction under issue or, where
only streams of it end, theirs. Its pending SIG and BAR entries stay until such a stream ends (DEDUCED, log 9). -/
def lockstepStep (s : State) (t : Nat) (recent : BitVec 8) (under : Option Source) : State :=
  if !coreRuns s t || !keeperRuns s then s
  else
    let x := s.tile t
    let pc := if x.fetched.isSome then x.fetchPc else x.pc
    let ns := maskStreams x recent
    let progEnded := x.streams.any (fun p => ns.contains p.1 && !Source.isRing p.2.src)
    let s := klog s .unrecovered .lockstep (luTile t) { code := stUnrecovered }
    let s := endStreams t stUnrecovered ns s
    let s := match under with
      | some (.ring k) => endUnderIssue s t (.ring k)
      | _ => s
    let s := if progEnded && decide (under ≠ some .prog) then stopProgram s t pc else progFault s t 0 pc stUnrecovered false
    s.setTile t { s.tile t with g := [] }

def execLockstepMismatch (t : Nat) (recent : BitVec 8) (under : Option Source) (s : State) : Out :=
  .next (lockstepStep s t recent under)

/-! ## Link retry (R412) -/

/-- The router to which a link belongs; none for a point that is no promenade link. -/
def linkRouter (s : State) : Point → Option Nat
  | .tileOut t => some (GenConfig.leafOf s.gen t)
  | .pavOut p _ => some p
  | .winPort l => some l
  | _ => none

/-- Failed sends of the flit at a link. -/
def failsAt (s : State) (p : Point) : Nat :=
  match s.prom.linkFails.find? (fun f => decide (f.1 = p)) with
  | some f => f.2
  | none => 0

/-- Record the failed sends of the flit at a link. -/
def setFails (s : State) (p : Point) (k : Nat) : State :=
  let fs := s.prom.linkFails.filter (fun f => decide (f.1 ≠ p))
  { s with prom := { s.prom with linkFails := if k = 0 then fs else fs ++ [(p, k)] } }

/-- A link fails: its queued flits are dropped and it carries nothing until its pavilion is reset. -/
def failLink (s : State) (p : Point) (r : Nat) : State :=
  let s := setFails s p 0
  let s := { s with prom := { s.prom with failed := s.prom.failed ++ [p]
                                          net := dropFlits (fun m => decide (m.route.head? = some p)) s.prom.net } }
  klog s .unrecovered .linkfail (luRouter r) { detail := 8 }

/-- LINK_RESEND: a flit that arrived with a bad CRC is resent; `good` says whether it then arrives good. -/
def resendStep (s : State) (p : Point) (good : Bool) : State :=
  match linkRouter s p with
  | none => s
  | some r =>
    if !linkUp s p || !s.prom.net.any (fun m => decide (m.route.head? = some p)) then s
    else
      let k := max 1 (failsAt s p)
      let s := klog s .corrected .linkretry (luRouter r) { detail := k }
      if good then setFails s p 0
      else if 8 ≤ k + 1 then failLink s p r
      else setFails s p (k + 1)

def execLinkResend (p : Point) (good : Bool) (s : State) : Out := .next (resendStep s p good)

/-! ## Scrubbing (R415, R418) -/

/-- The domain in which a scrubbed word lies; none for one that no switched domain holds. -/
def scrubDom (s : State) : ScrubLoc → Option Nat
  | .spad t _ => some (GenConfig.domSpad s.gen t)
  | .staging t _ | .imem t _ | .tdt t _ | .odt t _ | .wpm t _ | .journal t _ => some (GenConfig.domCore s.gen t)
  | .counter c => some (sliceDom s c.toNat)
  | .watch w => some (GenConfig.domFixed s.gen (w.toNat / 1024))
  | .ctx p _ => some (GenConfig.domRouter s.gen p)
  | .tlb n _ => some (GenConfig.domPort s.gen n)
  | .passEnd => none

/-- The unit and location of a scrubbed word in the fault log. -/
def scrubUnit : ScrubLoc → LogUnit × Nat
  | .spad t u => (luTile t, 8 * u)
  | .staging t n => (luTile t, n)
  | .imem t w | .tdt t w | .odt t w | .wpm t w => (luTile t, 4 * w)
  | .journal t n => (luTile t, n)
  | .counter c => (luSlice (c.toNat / 4096), c.toNat)
  | .watch w => (luSlice (w.toNat / 1024), w.toNat)
  | .ctx p i => (luRouter p, i.toNat)
  | .tlb n i => (luSysPort n, i)
  | .passEnd => (luKeeper, 0)

/-- What an uncorrectable error that the scrubber finds does (R415). A word of an instruction memory or table has its
outcome at the read that meets it, whenever that is. -/
def scrubBad (s : State) (l : ScrubLoc) : State :=
  let log := fun (s : State) =>
    klog s .unrecovered .scrubUe (scrubUnit l).1 { addr := BitVec.ofNat 64 (scrubUnit l).2 }
  match l with
  | .spad t u => poisonAt (log s) (t * slotBytes + 8 * u)
  | .staging t n =>
    (match s.stream? t n with
     | some st => if st.live then replay s t n .scrubUe (BitVec.ofNat 64 n) st.firstOpen.1 else log s
     | none => log s)
  | .imem t _ | .tdt t _ | .odt t _ | .wpm t _ =>
    let s := log s
    let x := s.tile t
    s.setTile t { x with badWords := if x.badWords.contains l then x.badWords else x.badWords ++ [l] }
  | .journal t n =>
    (match s.stream? t n with
     | some st => if st.chunks.any (fun c => c.journal) then abortStream (log s) t n stUnrecovered else log s
     | none => log s)
  | .counter c => poisonCnt (log s) c.toNat
  | .watch w => loseWatch (log s) w.toNat
  | .ctx p i => loseCtx (log s) (ctxPlace p i.toNat)
  | .tlb n i =>
    let s := klog s .recovered .scrubUe (scrubUnit l).1 { addr := BitVec.ofNat 64 (scrubUnit l).2 }
    s.setSp n { s.sp n with tlb := (s.sp n).tlb.eraseIdx i }
  | .passEnd => s

/-- The cycle is free for the scrubber: at a scratchpad bank no other requester wants it (R296, R418). -/
def scrubFree (s : State) : ScrubLoc → Bool
  | .spad t u => (pointCands s (bankOf s (t * slotBytes + 8 * u))).isEmpty
  | _ => true

/-- SCRUB_ACCESS. -/
def scrubStep (s : State) (l : ScrubLoc) (ecc : Ecc) : State :=
  let on := match scrubDom s l with
    | some d => s.active d
    | none => true
  if !s.keeper.scrubEn || !on || !keeperRuns s || !scrubFree s l then s
  else if l = .passEnd then { s with keeper := { s.keeper with scrubPasses := satInc s.keeper.scrubPasses } }
  else
    match ecc with
    | .clean => s
    | .corrected => klog s .corrected .scrubCe (scrubUnit l).1 { addr := BitVec.ofNat 64 (scrubUnit l).2 }
    | .bad => scrubBad s l

def execScrubAccess (l : ScrubLoc) (ecc : Ecc) (s : State) : Out := .next (scrubStep s l ecc)

/-- SCRUBLATE. -/
def scrublateStep (s : State) : State :=
  if s.keeper.scrubEn && keeperRuns s then
    { s with keeper := { s.keeper with scrublate := true, occ := satInc s.keeper.occ } }
  else s

def execScrublate (s : State) : Out := .next (scrublateStep s)

/-! ## What a watchdog watches (R72, R425) -/

/-- Watchdog `i`. -/
def State.wd (s : State) (i : Nat) : Wd := Tab.get s.keeper.wds Wd.init i

/-- The state with watchdog `i` replaced. -/
def State.setWd (s : State) (i : Nat) (x : Wd) : State :=
  { s with keeper := { s.keeper with wds := Tab.put s.keeper.wds i x } }

def Wd.en (w : Wd) : Bool := bit w.cfg 31
def Wd.action (w : Wd) : Nat := fld w.cfg 30 29
def Wd.kind (w : Wd) : Nat := fld w.cfg 28 27
def Wd.target (w : Wd) : Nat := fld w.cfg 15 8
def Wd.sub (w : Wd) : Nat := fld w.cfg 3 0

/-- The timeout in µs. -/
def Wd.us (w : Wd) : Nat := max 1 (min 1000000 w.timeout.toNat)

/-- A source by its number: 0 the program, 1 to 8 a ring source. -/
def srcOf (k : Nat) : Source := if k = 0 then .prog else .ring k

/-- The instruction at which a source is held (R72): the earliest of its streams not launched, its FENCEs and what it has issued
without a stream and not launched, the instruction that holds its sequencer, or the head that waits for a stream or queue
place. -/
inductive HeldAt where
  | stream (n : Nat) (st : Stream)
  | fence (f : FenceSt)
  | hold (h : Hold) (ord : Nat)
  | head (hd : Head) (ord : Nat)
  | free

/-- The earlier of two by source order. -/
def earliest {α : Type} (f : α → Nat) : List α → Option α
  | [] => none
  | a :: as =>
    match earliest f as with
    | none => some a
    | some b => if f a ≤ f b then some a else some b

/-- Where a source of a tile is held. -/
def heldAt (x : Tile) (src : Source) : HeldAt :=
  let ss := earliest (fun p => p.2.ord)
    (x.streams.filter (fun p => decide (p.2.src = src) && !p.2.launched && p.2.parked.isNone))
  let fs := earliest (fun f => f.ord) (x.fences.filter (fun f => decide (f.src = src)))
  let is := (nextIssued x src).map (fun i => (i.ord, HeldAt.hold (.instr i.held) i.ord))
  let v := x.source src
  let at3 := [ss.map (fun p => (p.2.ord, HeldAt.stream p.1 p.2)), fs.map (fun f => (f.ord, HeldAt.fence f)), is]
  match earliest (fun p => p.1) (at3.filterMap id) with
  | some p => p.2
  | none =>
    if v.hold ≠ .none then .hold v.hold v.ord
    else
      match headOf x src with
      | some hd => if v.issueWait = 3 then .head hd (v.ord + 1) else .free
      | none => .free

/-- Numbers that tell one place of hold from another: the instruction, and whether it has launched. Issue is no event of R425. -/
def HeldAt.nums : HeldAt → List Nat
  | .stream _ st => [1, st.ord]
  | .fence f => [2, f.ord]
  | .hold h ord =>
    (match h with
     | .none => [0]
     | .instr _ => [1, ord]
     | .wait _ => [2, ord]
     | .bar _ => [2, ord])
  | .head _ ord => [1, ord]
  | .free => [0]

/-- The progress of a watchdog's target: it changes at each progress event of R425. -/
def progressOf (s : State) (w : Wd) : List Nat :=
  match w.kind with
  | 0 =>
    (match s.stream? w.target w.sub with
     | some st => [1, Source.num st.src, st.ord, st.launched.toNat, st.committed]
     | none => [0])
  | 1 =>
    let x := s.tile w.target
    (heldAt x (srcOf w.sub)).nums
  | 2 => [(s.sp w.target).rspFlits]
  | _ => [(s.ring w.target).done.toNat]

/-- The condition in which a watchdog counts. -/
def counts (s : State) (w : Wd) : Bool :=
  match w.kind with
  | 0 =>
    (match s.stream? w.target w.sub with
     | some st => st.parked.isNone
     | none => false)
  | 1 =>
    let x := s.tile w.target
    (match heldAt x (srcOf w.sub) with
     | .free => false
     | _ => !(decide (w.sub = 0) && decide (x.seq = .halted)))
  | 2 => !(s.sp w.target).tags.isEmpty
  | _ => decide ((s.ring w.target).done ≠ (s.ring w.target).prod)

/-- A progress event sets the count to 0 and ends the stall. -/
def Wd.noted (w : Wd) (p : List Nat) : Wd := if w.seen = p then w else { w with count := 0, latched := false, seen := p }

/-- One µs of a watchdog. -/
def Wd.tick (s : State) (w : Wd) : Wd :=
  if !w.en then w
  else
    let w := w.noted (progressOf s w)
    if counts s w && !w.latched then { w with count := w.count + 1 } else w

/-- WATCHDOG_TICK. -/
def tickStep (s : State) : State :=
  if keeperRuns s then
    { s with keeper := { s.keeper with wds := s.keeper.wds.map (fun p => (p.1, p.2.tick s)) } }
  else s

def execWatchdogTick (s : State) : Out := .next (tickStep s)

/-- A write of `KP_WD<i>_CFG` sets the count to 0 (R425); a value of 3 leaves ACTION as it was. -/
def wdCfgWrite (s : State) (i : Nat) (v : Word) : State :=
  let v := v &&& 0xF800FF0F
  let v := if fld v 30 29 = 3 then putFld v 30 29 (s.wd i).action else v
  let w : Wd := { s.wd i with cfg := v, count := 0, latched := false }
  s.setWd i { w with seen := progressOf s w }

/-! ## The diagnostic record (R427) -/

/-- What the record says of the target. -/
structure DiagView where
  waiton : Nat
  pc : Nat := 0
  tag : Nat := 0
  /-- the conditions awaited: express, counter and operand -/
  c0 : Option (Bool × Nat × Word) := none
  c1 : Option (Bool × Nat × Word) := none
  time : Option DWord := none
  barid : Option Nat := none
  committed : Nat := 0
  outstanding : Nat := 0

/-- Condition `i` of a launch record when it is awaited. -/
def awaited (la : LaunchSt) (i : Nat) : Option (Bool × Nat × Word) :=
  match la.conds[i]? with
  | some c => if c.fired then none else some (c.express, c.cid, c.operand)
  | none => none

/-- The record of an instruction that waits for its launch. -/
def launchView (s : State) (la : LaunchSt) (l : Line) (pc : Nat) : DiagView :=
  if !condsHeld la then { waiton := 1, pc := pc, tag := iTag l, c0 := awaited la 0, c1 := awaited la 1 }
  else if !timeHeld s la then { waiton := 3, pc := pc, tag := iTag l, time := some (la.tL.getD 0) }
  else { waiton := 6, pc := pc, tag := iTag l }

/-- A launched stream waits for room in its slice, or for a journal entry. -/
def waitsRoom (s : State) (t n : Nat) (st : Stream) : Bool :=
  st.live && ((match readPlan s t n st 4096, roomPlan s t n st with
      | .req _ _ _ _ _ _ _, .idle => true
      | _, _ => false)
    || (st.chunks.any (fun c => !c.journal) && decide (64 ≤ journalUsed (s.tile t))))

/-- The record of stream `n` of tile `t`. -/
def streamView (s : State) (t n : Nat) (st : Stream) : DiagView :=
  let pc := if st.entry.isSome then 0 else st.pc
  let v := if st.launched then { waiton := if waitsRoom s t n st then 6 else 0, pc := pc, tag := iTag st.line }
    else launchView s st.launch st.line pc
  { v with committed := st.committed, outstanding := st.outstanding.length + st.wrOut.length }

/-- The record of a source. -/
def sourceView (s : State) (t : Nat) (src : Source) : DiagView :=
  match heldAt (s.tile t) src with
  | .stream n st => streamView s t n st
  | .fence f => { waiton := 5, pc := if f.entry.isSome then 0 else f.pc, tag := iTag f.line }
  | .hold (.instr h) _ => launchView s h.launch h.line (if h.entry.isSome then 0 else h.pc)
  | .hold (.wait w) _ =>
    { waiton := 2, pc := if w.entry.isSome then 0 else w.pc, tag := iTag w.line, c0 := some (w.express, w.cid, w.operand) }
  | .hold (.bar b) _ => { waiton := 4, pc := if b.entry.isSome then 0 else b.pc, tag := iTag b.line, barid := some b.bar }
  | .hold .none _ => { waiton := 0 }
  | .head hd _ => { waiton := 6, pc := if hd.entry.isSome then 0 else hd.pc, tag := iTag hd.line }
  | .free => { waiton := 0 }

/-- The record of a watchdog's target. -/
def viewOf (s : State) (w : Wd) : DiagView :=
  match w.kind with
  | 0 =>
    (match s.stream? w.target w.sub with
     | some st => streamView s w.target w.sub st
     | none => { waiton := 0 })
  | 1 => sourceView s w.target (srcOf w.sub)
  | 2 => { waiton := 7, outstanding := (s.sp w.target).tags.length }
  | _ => let r := s.ring w.target; sourceView s r.tile (.ring r.rsrc)

/-- The value of a counter at its home. -/
def homeValue (s : State) (express : Bool) (c : Nat) : Word :=
  if express then Tab.get s.lodge.xval 0 c else cntVal s c

/-- The three words of a condition. -/
def condWords (s : State) : Option (Bool × Nat × Word) → List Word
  | none => [0, 0, 0]
  | some (x, c, o) => [0x80000000 ||| at1 x 30 ||| atN c 0, o, homeValue s x c]

/-- Words W0 to W7 of a diagnostic record. -/
def diagWords (s : State) (v : DiagView) : List Word :=
  let w0 : Word := 0x80000000 ||| atN v.waiton 28 ||| atN (v.pc % 1024) 16 ||| atN v.tag 0
  let first := match v.time, v.barid with
    | some t, _ => [0, lo32 t, hi32 t]
    | none, some b => [atN b 0, 0, 0]
    | none, none => condWords s v.c0
  w0 :: (first ++ condWords s v.c1 ++ [atN (min 65535 v.committed) 16 ||| atN (min 65535 v.outstanding) 0])

/-! ## Actions (R427, R428) -/

/-- The instruction at which a source is held ends with WATCHDOG, and its watches are withdrawn. One that has launched is
judged for lateness (R235); the end of one that has not lets those behind it launch. -/
def abortSource (s : State) (t : Nat) (src : Source) : State :=
  let launched := fun (s : State) (e : Option EntryRef) (pc : Nat) (l : Line) (la : LaunchSt) =>
    finishSimple s t e pc l la stWatchdog
  match heldAt (s.tile t) src with
  | .stream n _ => killStream s t n stWatchdog
  | .fence f =>
    let x := s.tile t
    launched (s.setTile t { orderCleared x src f.ord with fences := x.fences.filter (fun g => decide (g ≠ f)) })
      f.entry f.pc f.line f.launch
  | .hold (.instr h) ord =>
    let s := if ((s.tile t).issued.any (fun i => decide (i.src = src) && decide (i.ord = ord))) then
        s.setTile t (dropIssued (s.tile t) (fun i => decide (i.src = src) && decide (i.ord = ord)))
      else clearHold (withdrawHold s t src) t src
    failIssue s t h.entry h.pc h.line stWatchdog
  | .hold (.wait w) _ => launched (clearHold (withdrawHold s t src) t src) w.entry w.pc w.line w.launch
  | .hold (.bar b) _ => launched (clearHold s t src) b.entry b.pc b.line b.launch
  | .hold .none _ => s
  | .head hd _ => failIssue (popHead s t src) t hd.entry hd.pc hd.line stWatchdog
  | .free => s

/-- The stream that a tag of a system port serves and still waits for: its tile and number. -/
def tagStream (s : State) (g : TagSt) : Option (Nat × Nat) :=
  if g.timedOut then none
  else
    match g.req.req with
    | .rd r =>
      if (ownStream s r.tile r.stream r.src r.ord).any (fun st =>
          (st.outstanding ++ st.oldReads).any (fun q => decide (q.id = r.id))) then some (r.tile, r.stream)
      else none
    | .wr w =>
      if (ownStream s w.tile w.stream w.src w.ord).any (fun st => st.wrOut.any (fun v => decide (v.id = w.id))) then
        some (w.tile, w.stream)
      else none
    | .gh _ => none

/-- A stream no longer waits for what a tag serves. -/
def forgoTag (s : State) (g : TagSt) : State :=
  match g.req.req with
  | .rd r =>
    (match s.stream? r.tile r.stream with
     | some st => s.setStream r.tile r.stream (st.landed r.id)
     | none => s)
  | .wr w =>
    (match s.stream? w.tile w.stream with
     | some st => s.setStream w.tile w.stream ((st.writeBack w).signalLost w)
     | none => s)
  | .gh _ => s

/-- Every stream with an outstanding tag at a port ends with WATCHDOG. The tags stay reserved as R345 says of timed-out ones:
the streams do not wait for them, and a late answer is discarded (DEDUCED, log 98). -/
def abortPort (s : State) (n : Nat) : State :=
  let gs := (s.sp n).tags.filter (fun p => (tagStream s p.2).isSome)
  let s := gs.foldl (fun s p =>
    match tagStream s p.2 with
    | some q => forgoTag (killStream s q.1 q.2 stWatchdog) p.2
    | none => s) s
  s.setSp n { s.sp n with tags := (s.sp n).tags.map (fun p =>
    if gs.any (fun g => decide (g.1 = p.1)) then (p.1, { p.2 with timedOut := true }) else p) }

/-- An entry of ring `q`. -/
def ofRing (q : Nat) (e : Option EntryRef) : Bool :=
  match e with
  | some e => decide (e.ring = q)
  | none => false

/-- The instructions of ring `q` held in source `src` of tile `t`, in the source's order: issued and not launched, launched and at
their FENCE, WAIT or BAR, and those of the input queue. -/
def ringHeld (s : State) (q t : Nat) (src : Source) (k : Nat) : List Lost :=
  let x := s.tile t
  let mine := fun (l : Lost) => decide (l.ref.ring = q)
  let ss := x.streams.filterMap (fun p =>
    if p.2.src = src ∧ !p.2.launched then
      p.2.entry.map (fun e => (p.2.ord, { ref := e, stream := p.1, tag := iTag p.2.line : Lost }))
    else none)
  let is := x.issued.filterMap (fun i => if i.src = src then (Lost.held i.held.line i.held.entry).map (fun l => (i.ord, l)) else none)
  let fs := x.fences.filterMap (fun f =>
    if f.src = src then (Lost.begun t src f.ord f.line f.launch f.entry).map (fun l => (f.ord, l)) else none)
  let hs := (((x.source src).hold.lost t src).map (fun l => ((x.source src).ord, l))).toList
  let inOrder := (ss ++ is ++ fs ++ hs).insertionSort (fun a b => a.1 ≤ b.1)
  (inOrder.map (·.2) ++ (Tab.get x.inq [] k).filterMap (fun e => Lost.held e.line (some e.ref))).filter mine

/-- Ring `q` leaves source `src` of tile `t`: its entries there that have not launched or are held after their launch, with their
watches withdrawn. Those of other rings behind it may then launch. -/
def ringLeaves (s : State) (q t : Nat) (src : Source) (k : Nat) : State :=
  let s := (s.tile t).streams.foldl (fun s p =>
    if p.2.src = src ∧ !p.2.launched ∧ ofRing q p.2.entry then
      let s := (withdrawConds s t (some p.1) src p.2.ord p.2.launch.conds).freeStream t p.1
      s.setTile t (orderCleared (s.tile t) src p.2.ord)
    else s) s
  let s := if ofRing q (((s.tile t).source src).hold.entry?.map (·.1)) then clearHold (withdrawHold s t src) t src else s
  let x := dropIssued (s.tile t) (fun i => decide (i.src = src) && ofRing q i.held.entry)
  let x := (x.fences.filter (fun f => decide (f.src = src) && ofRing q f.entry)).foldl (fun x f => orderCleared x src f.ord) x
  s.setTile t { x with
    fences := x.fences.filter (fun f => !(decide (f.src = src) && ofRing q f.entry))
    inq := Tab.put x.inq k ((Tab.get x.inq [] k).filter (fun e => decide (e.ref.ring ≠ q))) }

/-- Every instruction of a ring held in its ring source ends with WATCHDOG (R427). -/
def abortRing (s : State) (q : Nat) : State :=
  let r := s.ring q
  let t := r.tile
  let src := Source.ring r.rsrc
  let ls := ringHeld s q t src r.rsrc
  completeWith (judgeLost (ringLeaves s q t src r.rsrc) t ls) stWatchdog ls

/-- ABORT on a watchdog's target. -/
def abortTarget (s : State) (w : Wd) : State :=
  match w.kind with
  | 0 =>
    killStream s w.target w.sub stWatchdog
  | 1 => abortSource s w.target (srcOf w.sub)
  | 2 => abortPort s w.target
  | _ => abortRing s w.target

/-- RESET of a watchdog's target: the tile's core and codec lane, or the port's domain. A target that the configuration does
not contain has no domain (R35). -/
def resetTarget (s : State) (w : Wd) : State :=
  let tile := fun (t : Nat) =>
    if t < GenConfig.T s.gen then domReset (domReset s (GenConfig.domCore s.gen t)) (GenConfig.domBxz s.gen t) else s
  match w.kind with
  | 0 | 1 => tile w.target
  | 2 => if w.target < GenConfig.sysPorts s.gen then domReset s (GenConfig.domPort s.gen w.target) else s
  | _ => tile (s.ring w.target).tile

/-- A watchdog fires. -/
def fireWd (s : State) (i : Nat) (w : Wd) : State :=
  let refused := decide (w.action = 2) && !bit s.always.rstauth 2
  let w := { w with fired := true, occ := satInc w.occ, latched := true, authref := w.authref || refused
                    diag := diagWords s (viewOf s w) }
  let s := s.setWd i w
  let code := if w.action = 0 then 0 else if w.action = 2 && !refused then stOffline else stWatchdog
  let s := klog s .reported .watchdog (luWatchdog i)
    { stream := if w.kind = 0 then w.sub % 8 else 0, code := code, detail := if refused then 32768 else 0 }
  let s := raise s evKpWatchdog 0 0 0 i
  if w.action = 0 then s
  else if w.action = 2 && !refused then resetTarget s w
  else abortTarget s w

/-- WATCHDOG: a watchdog whose count has reached its timeout fires, once for each stall. -/
def watchdogStep (s : State) (i : Nat) : State :=
  let w := s.wd i
  if keeperRuns s && w.en && !w.latched && counts s w && decide (w.seen = progressOf s w) && decide (w.us ≤ w.count) then
    fireWd s i w
  else s

def execWatchdog (i : BitVec 6) (s : State) : Out := .next (watchdogStep s i.toNat)

end Sys2Proof.Machine
end

