-- ==== Sys2Proof/Machine/Map.lean ====
section
/-! DEFINITION. The control port's address map (R38, R435, R436): which register an address names, and the value that a read
of it returns. -/

namespace Sys2Proof.Machine

/-- A register or memory word of a tile region (R38). `hi` marks the `_HI` register of a pair. -/
inductive TileReg where
  | ctrl | status | fault | faultCount | g (n : Nat) (hi : Bool) | walkErr | walkErrAddr (hi : Bool) | walkErrCount
  | stgSlice (b : Bool) | stgCtrl | stgStatus | stgActive (b : Bool) | srSeed | calCtrl | calSatThr | calFlushThr
  | calStatus | calSat (n : Nat) | calFlush (n : Nat) | calOcc | scaleErr | scaleErrBlock | scaleErrCount
  | lateCtrl | late | lateCount | lateMax | prio | slack (n : Nat) | admission | refuseCount | jrnl
  | imem (w : Nat) | tdt (w : Nat) | odt (w : Nat) | wpm (w : Nat)
  | bxErr | bxErrEntry (hi : Bool) | bxErrBlock | bxErrCount | bxUnder | bxEsc
  | unlisted
  deriving DecidableEq, Repr

/-- A register of the control port's address space (R435). -/
inductive CpReg where
  -- GH
  | ghId | ghCompat | ghConfig | bootStatus | bootErr | bootFeed | partTile (i : Nat) | partCtrl | partCnt (p : Nat)
  | partBar (p : Nat) | rstauth | debug | sealStatus | sealCount | sealLog (j i : Nat)
  | ghStatus | msgBase (hi : Bool) | evstat | vecAddr (v : Nat) (hi : Bool) | vecData (v : Nat) | vecCtrl (v : Nat)
  | vecCount (v : Nat) | evmap (e : Nat) | evinfo (e : Nat) | evocc (e : Nat)
  | ringBase (q : Nat) (hi : Bool) | ringCfg (q : Nat) | ringCtrl (q : Nat) | ringProd (q : Nat) | ringFetch (q : Nat)
  | ringDone (q : Nat) | ringStatus (q : Nat) | ringShadow (q : Nat) (hi : Bool) | park (k i : Nat)
  -- CP
  | pllCfg (p : Nat) | pllFrac (p : Nat) | pllSs (p : Nat) | pllCtrl (p : Nat) | monRange (k : Nat) | monStatus | pwrCmd
  | pwrTo | dom (d : Nat)
  -- KP
  | kpCtrl | kpStatus | kpLogPtr | kpCorr | kpReplays | kpUnrec | kpScrub | kpScrubPasses | wdTick | wdCfg (i : Nat)
  | wdTimeout (i : Nat) | wdStatus (i : Nat) | wdDiag (i k : Nat) | kpLog (j k : Nat)
  -- PG
  | pgSrc | pgCtrl | pgStatus | pgTime (hi : Bool) | pgLoad (hi : Bool) | pgFrame (hi : Bool) | pgDisc | pgSlewLim | pgErr
  | pgOwed
  -- TS
  | tsCtrl | tsFixed | tsUntimed | tsSysrt | tsStarve | tsStarveCount
  -- LD and BS
  | ldValue (c : Nat) | ldAdd (c : Nat) | ldAtom (c : Nat) | ldCfg (c : Nat) | ldCtx (k : Nat) | ldWatch (w i : Nat)
  | ldXvalue (e : Nat) | ldXadd (e : Nat) | ldStatus | ldErr | ldMm | ldErrCount | ldMmCount | ldFullCount | ldExpAlloc
  | ldHwCounter | ldHwOperand | ldHwAction | ldHwTsig | ldHwOffset | ldHwCmd
  | bsCfg (b : Nat) | bsState (b : Nat) | bsArrive | bsReset | bsErr | bsErrCount
  -- PM
  | pmWindow (hi : Bool) | pmSysmap | pmXlate | pmRspTimeout | wpMask (l : Nat) | spStatus (n : Nat) | spXmiss (n : Nat)
  | spFaddr (n : Nat) (hi : Bool)
  | tile (t : Nat) (r : TileReg)
  /-- an offset of an assigned block that names no register, or an absent instance (R436) -/
  | unlisted
  deriving DecidableEq, Repr

/-- Index and remainder of an offset in an array of `n` elements of `stride` bytes from `base`. -/
def slot (o base stride n : Nat) : Option (Nat × Nat) :=
  if base ≤ o ∧ o < base + stride * n then some ((o - base) / stride, (o - base) % stride) else none

/-! ## Blocks -/

def ghHead : Nat → CpReg
  | 0x0 => .ghId
  | 0x4 => .ghCompat
  | 0x8 => .ghConfig
  | 0x100 => .bootStatus
  | 0x104 => .bootErr
  | 0x108 => .bootFeed
  | 0x210 => .partCtrl
  | 0x300 => .rstauth
  | 0x304 => .debug
  | 0x308 => .sealStatus
  | 0x30C => .sealCount
  | 0x1000 => .ghStatus
  | 0x1008 => .msgBase false
  | 0x100C => .msgBase true
  | 0x1010 => .evstat
  | _ => .unlisted

def vecReg (v : Nat) : Nat → CpReg
  | 0x0 => .vecAddr v false
  | 0x4 => .vecAddr v true
  | 0x8 => .vecData v
  | 0xC => .vecCtrl v
  | 0x10 => .vecCount v
  | _ => .unlisted

def ringReg (q : Nat) : Nat → CpReg
  | 0x0 => .ringBase q false
  | 0x4 => .ringBase q true
  | 0x8 => .ringCfg q
  | 0xC => .ringCtrl q
  | 0x10 => .ringProd q
  | 0x14 => .ringFetch q
  | 0x18 => .ringDone q
  | 0x1C => .ringStatus q
  | 0x20 => .ringShadow q false
  | 0x24 => .ringShadow q true
  | _ => .unlisted

/-- Block GH. `GH_PART_TILE<i>` exists where one of its tiles does. -/
def ghReg (c : GenConfig) (o : Nat) : CpReg :=
  match slot o 0x200 4 4, slot o 0x220 4 8, slot o 0x240 4 8, slot o 0x400 32 32 with
  | some (i, _), _, _, _ => if 8 * i < GenConfig.T c then .partTile i else .unlisted
  | _, some (p, _), _, _ => .partCnt p
  | _, _, some (p, _), _ => .partBar p
  | _, _, _, some (j, r) => .sealLog j (r / 4)
  | _, _, _, _ =>
    match slot o 0x2000 32 64, slot o 0x3000 16 32, slot o 0x10000 64 256, slot o 0x20000 64 256 with
    | some (v, r), _, _, _ => vecReg v r
    | _, some (e, r), _, _ => if r = 0 then .evmap e else if r = 4 then .evinfo e else if r = 8 then .evocc e else .unlisted
    | _, _, some (q, r), _ => ringReg q r
    | _, _, _, some (k, r) => if r / 4 ≤ 10 then .park k (r / 4) else .unlisted
    | _, _, _, _ => ghHead o

/-- Block CP. -/
def cpcReg (c : GenConfig) (o : Nat) : CpReg :=
  match slot o 0 32 (2 + GenConfig.leaves c), slot o 0x400 4 (8 + GenConfig.leaves c), slot o 0x1000 4 (GenConfig.domains c) with
  | some (p, r), _, _ =>
    if r = 0 then .pllCfg p else if r = 4 then .pllFrac p else if r = 8 then .pllSs p else if r = 0xC then .pllCtrl p
    else .unlisted
  | _, some (k, _), _ => if k < 6 ∨ 8 ≤ k then .monRange k else .unlisted
  | _, _, some (d, _) => .dom d
  | _, _, _ => if o = 0x440 then .monStatus else if o = 0x800 then .pwrCmd else if o = 0x804 then .pwrTo else .unlisted

def kpHead : Nat → CpReg
  | 0x0 => .kpCtrl
  | 0x4 => .kpStatus
  | 0x8 => .kpLogPtr
  | 0xC => .kpCorr
  | 0x10 => .kpReplays
  | 0x14 => .kpUnrec
  | 0x20 => .kpScrub
  | 0x24 => .kpScrubPasses
  | 0x30 => .wdTick
  | _ => .unlisted

/-- Block KP. -/
def kpReg (o : Nat) : CpReg :=
  match slot o 0x100 16 64, slot o 0x800 32 64, slot o 0x1000 32 64 with
  | some (i, r), _, _ =>
    if r = 0 then .wdCfg i else if r = 4 then .wdTimeout i else if r = 8 then .wdStatus i else .unlisted
  | _, some (i, r), _ => .wdDiag i (r / 4)
  | _, _, some (j, r) => .kpLog j (r / 4)
  | _, _, _ => kpHead o

/-- Block PG. -/
def pgReg : Nat → CpReg
  | 0x0 => .pgSrc
  | 0x4 => .pgCtrl
  | 0x8 => .pgStatus
  | 0x10 => .pgTime false
  | 0x14 => .pgTime true
  | 0x18 => .pgLoad false
  | 0x1C => .pgLoad true
  | 0x20 => .pgFrame false
  | 0x24 => .pgFrame true
  | 0x28 => .pgDisc
  | 0x2C => .pgSlewLim
  | 0x30 => .pgErr
  | 0x34 => .pgOwed
  | _ => .unlisted

/-- Block TS. -/
def tsReg : Nat → CpReg
  | 0x0 => .tsCtrl
  | 0x4 => .tsFixed
  | 0x8 => .tsUntimed
  | 0xC => .tsSysrt
  | 0x10 => .tsStarve
  | 0x14 => .tsStarveCount
  | _ => .unlisted

def ldTail : Nat → CpReg
  | 0x70000 => .ldStatus
  | 0x70004 => .ldErr
  | 0x70008 => .ldMm
  | 0x7000C => .ldErrCount
  | 0x70010 => .ldMmCount
  | 0x70014 => .ldFullCount
  | 0x70018 => .ldExpAlloc
  | 0x70020 => .ldHwCounter
  | 0x70024 => .ldHwOperand
  | 0x70028 => .ldHwAction
  | 0x7002C => .ldHwTsig
  | 0x70030 => .ldHwOffset
  | 0x70034 => .ldHwCmd
  | _ => .unlisted

/-- Block LD. -/
def ldReg (o : Nat) : CpReg :=
  match slot o 0 16 16384, slot o 0x40000 4 16384, slot o 0x50000 16 4096, slot o 0x60000 16 256 with
  | some (c, r), _, _, _ => if r = 0 then .ldValue c else if r = 4 then .ldAdd c else if r = 8 then .ldAtom c else .ldCfg c
  | _, some (k, _), _, _ => .ldCtx k
  | _, _, some (w, r), _ => .ldWatch w (r / 4)
  | _, _, _, some (e, r) => if r = 0 then .ldXvalue e else if r = 4 then .ldXadd e else .unlisted
  | _, _, _, _ => ldTail o

/-- Block BS. -/
def bsReg (o : Nat) : CpReg :=
  match slot o 0 8 512 with
  | some (b, r) => if r = 0 then .bsCfg b else .bsState b
  | none =>
    if o = 0x1000 then .bsArrive else if o = 0x1004 then .bsReset else if o = 0x1008 then .bsErr
    else if o = 0x100C then .bsErrCount else .unlisted

/-- Block PM. -/
def pmReg (c : GenConfig) (o : Nat) : CpReg :=
  match slot o 0x100 4 (GenConfig.leaves c), slot o 0x200 16 (GenConfig.sysPorts c) with
  | some (l, _), _ => .wpMask l
  | _, some (n, r) =>
    if r = 0 then .spStatus n else if r = 4 then .spXmiss n else .spFaddr n (decide (r = 0xC))
  | _, _ =>
    if o = 0 then .pmWindow false else if o = 4 then .pmWindow true else if o = 0x10 then .pmSysmap
    else if o = 0x14 then .pmXlate else if o = 0x18 then .pmRspTimeout else .unlisted

def tileHead : Nat → TileReg
  | 0x0 => .ctrl
  | 0x4 => .status
  | 0x8 => .fault
  | 0xC => .faultCount
  | 0x200 => .walkErr
  | 0x204 => .walkErrAddr false
  | 0x208 => .walkErrAddr true
  | 0x20C => .walkErrCount
  | 0x300 => .stgSlice false
  | 0x304 => .stgSlice true
  | 0x308 => .stgCtrl
  | 0x30C => .stgStatus
  | 0x310 => .stgActive false
  | 0x314 => .stgActive true
  | 0x400 => .srSeed
  | 0x410 => .calCtrl
  | 0x414 => .calSatThr
  | 0x418 => .calFlushThr
  | 0x41C => .calStatus
  | 0x460 => .calOcc
  | 0x470 => .scaleErr
  | 0x474 => .scaleErrBlock
  | 0x478 => .scaleErrCount
  | 0x500 => .lateCtrl
  | 0x504 => .late
  | 0x508 => .lateCount
  | 0x50C => .lateMax
  | 0x600 => .prio
  | 0x630 => .admission
  | 0x634 => .refuseCount
  | 0x700 => .jrnl
  | 0x40000 => .bxErr
  | 0x40004 => .bxErrEntry false
  | 0x40008 => .bxErrEntry true
  | 0x4000C => .bxErrBlock
  | 0x40010 => .bxErrCount
  | 0x40014 => .bxUnder
  | 0x40018 => .bxEsc
  | _ => .unlisted

/-- A tile region (R38). -/
def tileReg (o : Nat) : TileReg :=
  match slot o 0x10000 4 16384, slot o 0x20000 4 8192, slot o 0x28000 4 2048, slot o 0x30000 4 4096 with
  | some (w, _), _, _, _ => .imem w
  | _, some (w, _), _, _ => .tdt w
  | _, _, some (w, _), _ => .odt w
  | _, _, _, some (w, _) => .wpm w
  | _, _, _, _ =>
    match slot o 0x100 8 32, slot o 0x420 4 8, slot o 0x440 4 8, slot o 0x610 4 8 with
    | some (n, r), _, _, _ => .g n (decide (r = 4))
    | _, some (n, _), _, _ => .calSat n
    | _, _, some (n, _), _ => .calFlush n
    | _, _, _, some (n, _) => .slack n
    | _, _, _, _ => tileHead o

/-- The register at an address, none where R353 answers with `cp_err`. -/
def regAt (c : GenConfig) (a : Nat) : Option CpReg :=
  let o := a % 2 ^ 20
  if a % 4 ≠ 0 then none
  else
    match a / 2 ^ 20 with
    | 0 => some (ghReg c o)
    | 1 => some (cpcReg c o)
    | 2 => some (kpReg o)
    | 3 => some (pgReg o)
    | 4 => some (tsReg o)
    | 5 => some (ldReg o)
    | 6 => some (bsReg o)
    | 7 => some (pmReg c o)
    | b => if 16 ≤ b ∧ b < 16 + GenConfig.T c then some (.tile (b - 16) (tileReg o)) else none

/-! ## Power domains of registers (R353, R395) -/

/-- The domain that an address of block LD or PM needs. -/
def regDom (c : GenConfig) : CpReg → Option Nat
  | .ldValue k | .ldAdd k | .ldAtom k | .ldCfg k => some (GenConfig.domFixed c (k / 4096))
  | .ldWatch w _ => some (GenConfig.domFixed c (w / 1024))
  | .spStatus n | .spXmiss n | .spFaddr n _ => some (GenConfig.domPort c n)
  | _ => none

/-- The switched domain whose state decides whether an access is answered; none for the always-on domain, for an offset of a block
that names no register (R436), and for registers that the specification gives to no switched domain (log 14). -/
def addrDom (c : GenConfig) (a : Nat) (r : CpReg) : Option Nat :=
  match a / 2 ^ 20 with
  | 0 => if a < 0x1000 ∨ r = .unlisted ∨ r = .msgBase false ∨ r = .msgBase true then none else some (GenConfig.domFixed c 6)
  | 1 | 2 | 4 => none
  | 3 => if r = .pgSrc ∨ r = .unlisted then none else some (GenConfig.domFixed c 5)
  | 5 | 7 => regDom c r
  | 6 => if r = .unlisted then none else some (GenConfig.domFixed c 4)
  | b =>
    let o := a % 2 ^ 20
    if 0x40000 ≤ o ∧ o < 0x50000 then some (GenConfig.domBxz c (b - 16)) else some (GenConfig.domCore c (b - 16))

/-- An access is answered: the target unit is neither quiesced, off, nor in reset (R353). A unit that is still quiescing
answers. -/
def reachable (s : State) (a : Nat) (r : CpReg) : Bool :=
  match addrDom s.gen a r with
  | some d => s.active d
  | none => true

/-! ## Reads -/

/-- A half of a 64-bit quantity. -/
def half (hi : Bool) (v : DWord) : Word := if hi then hi32 v else lo32 v

/-- A Boolean in a word of its own. -/
def word1 (b : Bool) : Word := at1 b 0

/-- A bit vector of a narrower register. -/
def wordOf {n : Nat} (v : BitVec n) : Word := BitVec.ofNat 32 v.toNat

/-- `TL_STATUS.STATE`. -/
def SeqState.code : SeqState → Nat
  | .idle => 0
  | .running => 1
  | .halted => 2
  | .faulted => 3

/-- A mask of the streams of a tile with a property. -/
def streamMask (x : Tile) (f : Stream → Bool) : Nat :=
  (x.streams.filter (fun p => f p.2)).foldl (fun m p => m ||| 2 ^ p.1) 0

/-- `TL_SLACK<n>`. -/
def slackWord (s : State) (t n : Nat) : Word :=
  let sl : Nat := match s.stream? t n with
    | some st => wrap 16 (slackOf s st false)
    | none => 0
  atN (min 65535 (Tab.get (s.tile t).waited 0 n)) 16 ||| atN sl 0

/-- A register of a tile. While the program counter stands at 1,024 and the fetch that fails there has not come, `TL_STATUS.PC`, which
has 10 bits, shows 0 (DESIGN CHOICE, log 116). -/
def readTile (s : State) (t : Nat) : TileReg → Word
  | .ctrl => atN (s.tile t).ringStreams.toNat 16 ||| atN (s.tile t).startPc.toNat 0
  | .status =>
    let x := s.tile t
    atN x.seq.code 30 ||| atN (streamMask x (fun _ => true)) 20 ||| atN (streamMask x (fun st => st.parked.isSome)) 12
      ||| atN (x.pc % 1024) 0
  | .fault => (s.tile t).fault
  | .faultCount => (s.tile t).faultCount
  | .g n hi => half hi ((s.tile t).greg n)
  | .walkErr => (s.tile t).walkErr
  | .walkErrAddr hi => half hi (s.tile t).walkErrAddr
  | .walkErrCount => (s.tile t).walkErrCount
  | .stgSlice b => if b then (s.tile t).sliceB else (s.tile t).sliceA
  | .stgCtrl => 0
  | .stgStatus =>
    let x := s.tile t
    at1 x.stgPending.isSome 31 ||| at1 x.stgBadsum 30 ||| atN (64 - (sliceBytes x.activeA ++ sliceBytes x.activeB).sum) 0
  | .stgActive b => if b then (s.tile t).activeB else (s.tile t).activeA
  | .srSeed => wordOf (s.tile t).srSeed
  | .calCtrl => (s.tile t).calCtrl
  | .calSatThr => (s.tile t).calSatThr
  | .calFlushThr => (s.tile t).calFlushThr
  | .calStatus => (s.tile t).calStatus
  | .calSat n => Tab.get (s.tile t).calSat 0 n
  | .calFlush n => Tab.get (s.tile t).calFlush 0 n
  | .calOcc => (s.tile t).calOcc
  | .scaleErr => (s.tile t).scaleErr
  | .scaleErrBlock => (s.tile t).scaleErrBlock
  | .scaleErrCount => (s.tile t).scaleErrCount
  | .lateCtrl => (s.tile t).lateCtrl
  | .late => (s.tile t).late
  | .lateCount => (s.tile t).lateCount
  | .lateMax => (s.tile t).lateMax
  | .prio => (s.tile t).prio
  | .slack n => slackWord s t n
  | .admission => (s.tile t).admitReg
  | .refuseCount => (s.tile t).refuseCount
  | .jrnl => atN (s.tile t).replays 16 ||| atN (journalUsed (s.tile t)) 0
  | .imem w => Tab.get (s.tile t).imem 0 w
  | .tdt w => Tab.get (s.tile t).tdt 0 w
  | .odt w => Tab.get (s.tile t).odt 0 w
  | .wpm w => Tab.get (s.tile t).wpm 0 w
  | .bxErr => (s.tile t).bxErr
  | .bxErrEntry hi => half hi (s.tile t).bxErrEntry
  | .bxErrBlock => (s.tile t).bxErrBlock
  | .bxErrCount => (s.tile t).bxErrCount
  | .bxUnder => (s.tile t).bxUnder
  | .bxEsc => (s.tile t).bxEsc
  | .unlisted => 0

/-- `GH_CONFIG` (R434). -/
def configWord (c : GenConfig) : Word :=
  atN (GenConfig.domains c) 24 ||| atN (GenConfig.levels c) 21 ||| atN (GenConfig.sysPorts c) 16
    ||| atN (GenConfig.pavilions c) 12 ||| atN (GenConfig.leaves c) 8 ||| at1 c.spad4 3 ||| atN (GenConfig.logT c) 0

/-- `GH_BOOT_STATUS`. -/
def bootWord (b : Boot) : Word :=
  atN b.state 28 ||| atN b.err 24 ||| at1 b.hostfeed 23 ||| atN b.mode.toNat 21 ||| at1 b.addr4 20 ||| at1 b.nosfdp 19
    ||| atN b.sect 0

/-- `GH_SEAL_STATUS`. -/
def sealWord (a : Always) : Word :=
  atN a.refused.toNat 24 ||| ((List.range 8).map (fun g => atN (Tab.get a.used 0 g) (2 * g))).foldl (· ||| ·) 0

/-- `GH_VEC<v>_CTRL`. -/
def vecWord (x : Vec) : Word :=
  at1 x.mask 31 ||| at1 x.pend 30 ||| at1 x.mode 29 ||| atN x.wire.toNat 27 ||| atN x.occ.toNat 0

/-- Words of a watch slot (`LD_WATCH<w>`). -/
def watchWord (s : State) (w i : Nat) : Word :=
  match Tab.find s.lodge.watches w with
  | none => 0
  | some x =>
    let who : Nat × Nat × Nat := match x.who with
      | some r => (r.tile, (match r.stream with
        | some n => (0, n)
        | none => (1, Source.num r.src)))
      | none => (0, 0, 0)
    match i with
    | 0 => 0x80000000 ||| atN x.cond 28 ||| atN x.act 26 ||| atN x.scope 24 ||| at1 x.rearm 23 ||| atN x.cid 0
    | 1 => x.operand
    | 2 => atN who.1 27 ||| atN who.2.1 26 ||| atN who.2.2 22 ||| atN x.vec 16
    | _ => atN x.step.toNat 16

/-- `CP_DOM<d>.STATE`. -/
def DomState.code : DomState → Nat
  | .off => 0
  | .powering => 1
  | .on => 2
  | .quiescing => 3
  | .quiesced => 4
  | .retention => 5
  | .reset => 6

/-- The value of a register, without a read's side effects. Write-only registers read 0 (R12). -/
def readReg (s : State) : CpReg → Word
  | .ghId => 0x4C7A3F32
  | .ghCompat => atN s.always.active.toNat 8 ||| atN s.always.profile.toNat 0
  | .ghConfig => configWord s.gen
  | .bootStatus => bootWord s.boot
  | .bootErr => s.boot.offset
  | .bootFeed => 0
  | .partTile i => Tab.get s.always.partTile 0 i
  | .partCtrl => wordOf s.always.partCtrl
  | .partCnt p => Tab.get s.always.partCnt (partCntInit p) p
  | .partBar p => Tab.get s.always.partBar (partBarInit p) p
  | .rstauth => wordOf s.always.rstauth
  | .debug => word1 s.always.debug
  | .sealStatus => sealWord s.always
  | .sealCount => atN s.always.sealLog.length 0
  | .sealLog j i => (((s.always.sealLog[j]?).getD [])[i]?).getD 0
  | .ghStatus => at1 s.gate.cfgerr 31 ||| at1 s.gate.vecerr 30 ||| atN s.gate.occ.toNat 22 ||| atN s.gate.cfgRing.toNat 14
      ||| atN s.gate.vecerrVec.toNat 0
  | .msgBase hi => half hi s.always.msgBase
  | .evstat => s.gate.evstat
  | .vecAddr v hi => half hi (Tab.get s.gate.vecs Vec.init v).addr
  | .vecData v => (Tab.get s.gate.vecs Vec.init v).data
  | .vecCtrl v => vecWord (Tab.get s.gate.vecs Vec.init v)
  | .vecCount v => (Tab.get s.gate.vecs Vec.init v).count
  | .evmap e => Tab.get s.gate.evmap 0 e
  | .evinfo e => Tab.get s.gate.evinfo 0 e
  | .evocc e => wordOf (Tab.get s.gate.evocc 0 e)
  | .ringBase q hi => half hi (s.ring q).base
  | .ringCfg q => (s.ring q).cfg
  | .ringCtrl q => at1 (s.ring q).en 31
  | .ringProd q => (s.ring q).prod
  | .ringFetch q => (s.ring q).fetch
  | .ringDone q => (s.ring q).done
  | .ringStatus q => atN (s.ring q).flags.toNat 28 ||| atN (s.ring q).occ.toNat 0
  | .ringShadow q hi => half hi (s.ring q).shadow
  | .park k i =>
    let p := Tab.get s.gate.park Park.init k
    if i < 8 then (p.prog[i]?).getD 0 else if i = 8 then lo32 p.faddr else if i = 9 then hi32 p.faddr else p.info
  | .pllCfg p => (s.pll p).cfg
  | .pllFrac p => (s.pll p).frac
  | .pllSs p => (s.pll p).ss
  | .pllCtrl p =>
    let x := s.pll p
    at1 x.busy 30 ||| at1 x.lock 29 ||| at1 x.lockfail 28 ||| at1 x.sel 27 ||| atN x.occ.toNat 0
  | .monRange k => monRange s k
  | .monStatus => s.cpc.monStatus
  | .pwrCmd => at1 s.cpc.cmdBusy 30 ||| atN s.cpc.cmdResult.toNat 27 ||| atN s.cpc.cmdOp.toNat 24 ||| atN s.cpc.cmdDom.toNat 0
  | .pwrTo => s.cpc.pwrTo
  | .dom d =>
    let x := s.dom d
    atN x.state.code 29 ||| at1 x.ackerr 28 ||| atN x.resets.toNat 8 ||| atN x.cycles.toNat 0
  | .kpCtrl => at1 s.keeper.logcorr 31
  | .kpStatus => at1 s.keeper.logovf 31 ||| at1 s.keeper.scrublate 30 ||| atN s.keeper.occ.toNat 0
  | .kpLogPtr => atN s.keeper.count 8 ||| atN s.keeper.next 0
  | .kpCorr => s.keeper.corr
  | .kpReplays => s.keeper.replays
  | .kpUnrec => s.keeper.unrec
  | .kpScrub => at1 s.keeper.scrubEn 31 ||| atN s.keeper.scrubPeriod.toNat 0
  | .kpScrubPasses => s.keeper.scrubPasses
  | .wdTick => wordOf s.keeper.wdTick
  | .wdCfg i => (s.wd i).cfg
  | .wdTimeout i => wordOf (s.wd i).timeout
  | .wdStatus i => at1 (s.wd i).fired 31 ||| at1 (s.wd i).authref 30 ||| atN (s.wd i).occ.toNat 0
  | .wdDiag i k => ((s.wd i).diag[k]?).getD 0
  | .kpLog j k => ((Tab.get s.keeper.log LogEntry.init j).ws[k]?).getD 0
  | .pgSrc => wordOf s.pg.src
  | .pgCtrl => at1 s.pg.stepEn 30 ||| at1 s.pg.discEn 29 ||| atN s.pg.mu.toNat 16
  | .pgStatus => at1 s.pg.valid 31 ||| at1 s.pg.fsmiss 30 ||| at1 s.pg.bigerr 29 ||| at1 s.pg.loadign 28
      ||| atN s.pg.steps.toNat 8 ||| atN s.pg.alarmOcc.toNat 0
  | .pgTime hi => half hi s.pg.time
  | .pgLoad hi => half hi s.pg.load
  | .pgFrame hi => half hi s.pg.frameRef
  | .pgDisc => s.pg.disc
  | .pgSlewLim => s.pg.slewLim
  | .pgErr => s.pg.err
  | .pgOwed => s.pg.owed
  | .tsCtrl => at1 s.turn.evEn 31 ||| atN s.turn.starveLimit.toNat 16 ||| atN s.turn.floor.toNat 0
  | .tsFixed => s.turn.fixed
  | .tsUntimed => wordOf s.turn.untimed
  | .tsSysrt => wordOf s.turn.sysrt
  | .tsStarve => s.turn.starve
  | .tsStarveCount => s.turn.starveCount
  | .ldValue c => if s.lodge.poison.contains c then 0 else cntVal s c
  | .ldAdd _ => 0
  | .ldAtom c => if s.lodge.poison.contains c then 0 else cntVal s c
  | .ldCfg c => Tab.get s.lodge.cfg 0 c
  | .ldCtx k => Tab.get s.lodge.ctx 0 (ctxPlace 0 k)
  | .ldWatch w i => watchWord s w i
  | .ldXvalue e => Tab.get s.lodge.xval 0 e
  | .ldXadd _ => 0
  | .ldStatus => atN s.lodge.flags.toNat 28 ||| atN s.lodge.occ.toNat 14 ||| atN s.lodge.lastCid.toNat 0
  | .ldErr => s.lodge.err
  | .ldMm => s.lodge.mm
  | .ldErrCount => s.lodge.errCount
  | .ldMmCount => s.lodge.mmCount
  | .ldFullCount => s.lodge.fullCount
  | .ldExpAlloc => s.always.expAlloc
  | .ldHwCounter => s.lodge.hwCounter
  | .ldHwOperand => s.lodge.hwOperand
  | .ldHwAction => s.lodge.hwAction
  | .ldHwTsig => s.lodge.hwTsig
  | .ldHwOffset => s.lodge.hwOffset
  | .ldHwCmd => atN s.lodge.hwResult.toNat 27 ||| atN s.lodge.hwSlot.toNat 0
  | .bsCfg b => Tab.get s.band.cfg 0 b
  | .bsState b => let x := s.bar b; atN x.gen 30 ||| atN x.cnt1 16 ||| atN x.cnt0 0
  | .bsArrive => 0
  | .bsReset => 0
  | .bsErr => s.band.err
  | .bsErrCount => s.band.errCount
  | .pmWindow hi => half hi s.prom.windowBase
  | .pmSysmap => s.prom.sysmap
  | .pmXlate => word1 s.always.xlateEn
  | .pmRspTimeout => wordOf s.prom.rspTimeout
  | .wpMask l => Tab.get s.always.wpMask 0 l
  | .spStatus n => atN (s.sp n).flags.toNat 28 ||| atN (s.sp n).occ.toNat 20 ||| atN (s.sp n).tag.toNat 0
  | .spXmiss n => (s.sp n).xmiss
  | .spFaddr n hi => half hi (s.sp n).faddr
  | .tile t r => readTile s t r
  | .unlisted => 0

end Sys2Proof.Machine
end

