-- ==== Sys2Proof/Machine/Regs.lean ====
section
/-! DEFINITION. Writes and reads through the control port (R10–R12, R74, R352, R353, R363, R377–R380), and the commands that
are register accesses. -/

namespace Sys2Proof.Machine

/-! ## Access codes (R12) -/

/-- A write-1-to-clear register: bits of `m` written as 1 are cleared. -/
def w1c (old d m : Word) : Word := old &&& ~~~(d &&& m)

/-- Bit 31 of a capture is VALID, write 1 to clear. -/
def clrValid (old d : Word) : Word := w1c old d 0x80000000

/-- A flag cleared by a 1 at bit `i`. -/
def clrBit (f : Bool) (d : Word) (i : Nat) : Bool := f && !bit d i

/-- The four flags of a status word at bits [31:28]. -/
def clrFlags (f : BitVec 4) (d : Word) : BitVec 4 := f &&& ~~~(BitVec.ofNat 4 (fld d 31 28))

/-- The bytes of a word that a strobe selects are replaced. -/
def mergeStrb (old d : Word) (strb : BitVec 4) : Word :=
  let b := fun (i : Nat) => if bit strb i then fld d (8 * i + 7) (8 * i) else fld old (8 * i + 7) (8 * i)
  atN (b 0) 0 ||| atN (b 1) 8 ||| atN (b 2) 16 ||| atN (b 3) 24

/-! ## Tile registers -/

/-- `TL_CTRL`: RUN starts the program at START_PC unless it runs; STOP, which also stands for both, stops issue at the next
boundary (R75, R78). -/
def tileCtrl (x : Tile) (d : Word) : Tile :=
  let x := { x with ringStreams := BitVec.ofNat 4 (fld d 19 16), startPc := BitVec.ofNat 10 (fld d 9 0) }
  if bit d 30 then (if x.seq = .running then { x with stopping := true } else x)
  else if bit d 31 && decide (x.seq ≠ .running) then
    { x with seq := .running, pc := x.startPc.toNat, stopping := false, fetched := none }
  else x

/-- A seed write sets all 128 generators (R154). -/
def seedTile (x : Tile) (d : Word) : Tile :=
  let v := BitVec.ofNat 16 d.toNat
  { x with srSeed := v, lfsr := (List.range 128).map (lfsrSeed v) }

/-- A whole-word write of a tile register that is no half of a pair. -/
def writeTileReg (x : Tile) (r : TileReg) (d : Word) : Tile :=
  match r with
  | .ctrl => tileCtrl x d
  | .fault => { x with fault := clrValid x.fault d }
  | .walkErr => { x with walkErr := clrValid x.walkErr d }
  | .stgSlice b => if b then { x with sliceB := d } else { x with sliceA := d }
  | .stgCtrl => if bit d 31 then stgApply x else x
  | .stgStatus => { x with stgBadsum := clrBit x.stgBadsum d 30 }
  | .srSeed => seedTile x d
  | .calCtrl => { x with calCtrl := d &&& 0xC000001F }
  | .calSatThr => { x with calSatThr := d }
  | .calFlushThr => { x with calFlushThr := d }
  | .calStatus => { x with calStatus := w1c x.calStatus d 0xFFFFFFFF }
  | .calSat n => { x with calSat := Tab.set x.calSat 0 n d }
  | .calFlush n => { x with calFlush := Tab.set x.calFlush 0 n d }
  | .scaleErr => { x with scaleErr := clrValid x.scaleErr d }
  | .lateCtrl => { x with lateCtrl := d &&& 0x8000FFFF }
  | .late => { x with late := clrValid x.late d }
  | .lateMax => { x with lateMax := d &&& 0xFFFF }
  | .prio => { x with prio := d }
  | .admission => { x with admitReg := clrValid x.admitReg d }
  | .bxErr => { x with bxErr := clrValid x.bxErr d }
  | .bxUnder => { x with bxUnder := d }
  | .bxEsc => { x with bxEsc := d }
  | .status | .faultCount | .g _ _ | .walkErrAddr _ | .walkErrCount | .stgActive _ | .calOcc | .scaleErrBlock
  | .scaleErrCount | .lateCount | .slack _ | .refuseCount | .jrnl | .imem _ | .tdt _ | .odt _ | .wpm _ | .bxErrEntry _
  | .bxErrBlock | .bxErrCount | .unlisted => x

/-- The word of a tile's memories that the scrubber's place names. -/
def TileReg.holds (r : TileReg) (p : ScrubLoc) : Bool :=
  match r, p with
  | .imem w, .imem _ v | .tdt w, .tdt _ v | .odt w, .odt _ v | .wpm w, .wpm _ v => decide (w = v)
  | _, _ => false

/-- A write of a word of a tile's memories (R74, R353): the strobed bytes; instruction memory not while the program runs. One of the
whole word removes an error found in it. -/
def writeTileMem (x : Tile) (r : TileReg) (d : Word) (strb : BitVec 4) : Tile :=
  let y := { x with badWords := if strb = 15 then x.badWords.filter (fun p => !r.holds p) else x.badWords }
  match r with
  | .imem w => if x.seq = .running then x else { y with imem := Tab.set x.imem 0 w (mergeStrb (Tab.get x.imem 0 w) d strb) }
  | .tdt w => { y with tdt := Tab.set x.tdt 0 w (mergeStrb (Tab.get x.tdt 0 w) d strb) }
  | .odt w => { y with odt := Tab.set x.odt 0 w (mergeStrb (Tab.get x.odt 0 w) d strb) }
  | .wpm w => { y with wpm := Tab.set x.wpm 0 w (mergeStrb (Tab.get x.wpm 0 w) d strb) }
  | _ => x

/-- A word of a tile memory. -/
def TileReg.isMem : TileReg → Bool
  | .imem _ | .tdt _ | .odt _ | .wpm _ => true
  | _ => false

/-! ## Registers outside the tiles -/

/-- `PG_CTRL` (R216, R226): MU keeps its value under a write of 7; LOAD acts with SRC = HOST only. -/
def pgCtrlWrite (p : Pergola) (d : Word) : Pergola :=
  { p with stepEn := bit d 30, discEn := bit d 29
           mu := if fld d 18 16 = 7 then p.mu else BitVec.ofNat 3 (fld d 18 16)
           loadReq := p.loadReq || (bit d 31 && decide (p.srcIn = 0)) }

/-- `LD_HW_CMD` (R260, R261): SLOT is written; CANCEL governs a write of both. -/
def hwCmdWrite (s : State) (d : Word) : State :=
  let s := { s with lodge := { s.lodge with hwSlot := BitVec.ofNat 12 (fld d 11 0) } }
  if bit d 30 then hwCancel s (fld d 11 0) else if bit d 31 then hwGo s else s

/-- `CP_PLL<p>_CTRL`. -/
def pllCtrlWrite (s : State) (p : Nat) (d : Word) : State :=
  let x := s.pll p
  let s := s.setPll p { x with lockfail := clrBit x.lockfail d 28 }
  if bit d 31 then pllGo s p else s

/-- An image word fed by host software: the write is held until the sequencer takes the word; writes after the start section or after
a failure are ignored (R368). -/
def feedWord (s : State) (d : Word) : State :=
  if s.boot.hostfeed ∧ s.boot.running then seqOn s { s.boot with held := s.boot.held ++ [d] } else s

/-- A write of a ring register that EN = 1 locks sets CFGERR instead (R312). -/
def ringLocked (s : State) (q : Nat) (f : Ring → Ring) : State :=
  if (s.ring q).en then ghCfgErr s q else s.setRing q (f (s.ring q))

/-- Replace a vector. -/
def setVec (s : State) (v : Nat) (f : Vec → Vec) : State :=
  { s with gate := { s.gate with vecs := Tab.put s.gate.vecs v (f (Tab.get s.gate.vecs Vec.init v)) } }

/-- A whole-word write of a register that is neither sealed nor half of a pair, by its access codes (R11, R12). The answer
says whether it is answered with an error. -/
def writeReg (s : State) (r : CpReg) (d : Word) : State × Bool :=
  match r with
  | .ghCompat =>
    (if fld d 3 0 ≤ 2 then { s with always := { s.always with profile := BitVec.ofNat 4 (fld d 3 0) } } else s, false)
  | .sealStatus =>
    ({ s with always := { s.always with refused := s.always.refused &&& ~~~(BitVec.ofNat 8 (fld d 31 24)) } }, false)
  | .bootFeed => (feedWord s d, false)
  | .ghStatus =>
    ({ s with gate := { s.gate with cfgerr := clrBit s.gate.cfgerr d 31, vecerr := clrBit s.gate.vecerr d 30 } }, false)
  | .evstat => ({ s with gate := { s.gate with evstat := w1c s.gate.evstat d 0xFFFFFFFF } }, false)
  | .vecData v => (setVec s v (fun x => { x with data := d }), false)
  | .vecCtrl v =>
    (setVec s v (fun x => { x with mask := bit d 31, pend := clrBit x.pend d 30, mode := bit d 29
                                   wire := BitVec.ofNat 2 (fld d 28 27) }), false)
  | .evmap e => ({ s with gate := { s.gate with evmap := Tab.set s.gate.evmap 0 e (d &&& 0x8000003F) } }, false)
  | .ringCfg q => (ringLocked s q (fun x => { x with cfg := d &&& 0xFFE0FF9F }), false)
  | .ringCtrl q => (if bit d 31 then ringEnableOp s q else s, false)
  | .ringProd q => (prodOp s q d, false)
  | .ringStatus q => (s.setRing q { s.ring q with flags := clrFlags (s.ring q).flags d }, false)
  | .pllCfg p => (if (s.pll p).busy then s else s.setPll p { s.pll p with cfg := d &&& 0xFF00FF00 }, false)
  | .pllFrac p => (if (s.pll p).busy then s else s.setPll p { s.pll p with frac := d &&& 0x00FFFFFF }, false)
  | .pllSs p => (if p ≤ 1 then s else s.setPll p { s.pll p with ss := d &&& 0x801F00FF }, false)
  | .pllCtrl p => (pllCtrlWrite s p d, false)
  | .monRange k =>
    ({ s with cpc := { s.cpc with monRange := Tab.put s.cpc.monRange k (d &&& 0x8000FFFF) } }, false)
  | .monStatus => ({ s with cpc := { s.cpc with monStatus := w1c s.cpc.monStatus d 0xFFFFFFFF } }, false)
  | .pwrCmd => (pwrWrite s d, false)
  | .pwrTo => ({ s with cpc := { s.cpc with pwrTo := d } }, false)
  | .dom k => (s.setDom k { s.dom k with ackerr := clrBit (s.dom k).ackerr d 28 }, false)
  | .kpCtrl => ({ s with keeper := { s.keeper with logcorr := bit d 31 } }, false)
  | .kpStatus =>
    ({ s with keeper := { s.keeper with logovf := clrBit s.keeper.logovf d 31
                                        scrublate := clrBit s.keeper.scrublate d 30 } }, false)
  | .kpScrub =>
    ({ s with keeper := { s.keeper with scrubEn := bit d 31, scrubPeriod := BitVec.ofNat 4 (fld d 3 0) } }, false)
  | .wdTick => ({ s with keeper := { s.keeper with wdTick := BitVec.ofNat 8 (fld d 7 0) } }, false)
  | .wdCfg i => (wdCfgWrite s i d, false)
  | .wdTimeout i => (s.setWd i { s.wd i with timeout := BitVec.ofNat 20 (fld d 19 0) }, false)
  | .wdStatus i =>
    (s.setWd i { s.wd i with fired := clrBit (s.wd i).fired d 31, authref := clrBit (s.wd i).authref d 30 }, false)
  | .pgCtrl => ({ s with pg := pgCtrlWrite s.pg d }, false)
  | .pgStatus =>
    ({ s with pg := { s.pg with fsmiss := clrBit s.pg.fsmiss d 30, bigerr := clrBit s.pg.bigerr d 29
                                loadign := clrBit s.pg.loadign d 28 } }, false)
  | .pgDisc => ({ s with pg := { s.pg with disc := d &&& 0xFFFF00FF } }, false)
  | .pgSlewLim => ({ s with pg := { s.pg with slewLim := d } }, false)
  | .tsCtrl =>
    ({ s with turn := { s.turn with evEn := bit d 31, starveLimit := BitVec.ofNat 15 (fld d 30 16)
                                    floor := BitVec.ofNat 16 (fld d 15 0) } }, false)
  | .tsFixed => ({ s with turn := { s.turn with fixed := d } }, false)
  | .tsUntimed => ({ s with turn := { s.turn with untimed := BitVec.ofNat 16 (fld d 15 0) } }, false)
  | .tsSysrt => ({ s with turn := { s.turn with sysrt := BitVec.ofNat 16 (fld d 15 0) } }, false)
  | .tsStarve => ({ s with turn := { s.turn with starve := clrValid s.turn.starve d } }, false)
  | .ldValue c => (ldValueOp s c d, false)
  | .ldAdd c => let a := ldAddOp s c d; (a.1, decide (a.2 ≠ 0))
  | .ldCfg c => (ldCfgOp s c d, false)
  | .ldCtx k => (ldCtxOp s k d, false)
  | .ldXvalue e => (ldXvalueOp s e d, false)
  | .ldXadd e => (ldXaddOp s e d, false)
  | .ldStatus => ({ s with lodge := { s.lodge with flags := clrFlags s.lodge.flags d } }, false)
  | .ldErr => ({ s with lodge := { s.lodge with err := clrValid s.lodge.err d } }, false)
  | .ldMm => ({ s with lodge := { s.lodge with mm := clrValid s.lodge.mm d } }, false)
  | .ldHwCounter => ({ s with lodge := { s.lodge with hwCounter := d &&& 0x3FFF } }, false)
  | .ldHwOperand => ({ s with lodge := { s.lodge with hwOperand := d } }, false)
  | .ldHwAction => ({ s with lodge := { s.lodge with hwAction := d &&& 0xFC3FFFFF } }, false)
  | .ldHwTsig => ({ s with lodge := { s.lodge with hwTsig := d &&& 0xFFFF3FFF } }, false)
  | .ldHwOffset => ({ s with lodge := { s.lodge with hwOffset := d } }, false)
  | .ldHwCmd => (hwCmdWrite s d, false)
  | .bsCfg b => (bsCfgOp s b d, false)
  | .bsArrive => let a := bsArriveOp s d; (a.1, !a.2)
  | .bsReset => (bsResetOp s d, false)
  | .bsErr => ({ s with band := { s.band with err := clrValid s.band.err d } }, false)
  | .pmSysmap => ({ s with prom := { s.prom with sysmap := d &&& 0x80001F0F } }, false)
  | .pmRspTimeout => ({ s with prom := { s.prom with rspTimeout := BitVec.ofNat 16 (fld d 15 0) } }, false)
  | .spStatus n => (s.setSp n { s.sp n with flags := clrFlags (s.sp n).flags d }, false)
  | .tile t x =>
    let s := s.setTile t (writeTileReg (s.tile t) x d)
    (if x = .calSatThr ∨ x = .calFlushThr then judgeWindows s t else s, false)
  | .ghId | .ghConfig | .bootStatus | .bootErr | .partTile _ | .partCtrl | .partCnt _ | .partBar _ | .rstauth | .debug
  | .sealCount | .sealLog _ _ | .msgBase _ | .vecAddr _ _ | .vecCount _ | .evinfo _ | .evocc _ | .ringBase _ _
  | .ringFetch _ | .ringDone _ | .ringShadow _ _ | .park _ _ | .kpLogPtr | .kpCorr | .kpReplays | .kpUnrec
  | .kpScrubPasses | .wdDiag _ _ | .kpLog _ _ | .pgSrc | .pgTime _ | .pgLoad _ | .pgFrame _ | .pgErr | .pgOwed
  | .tsStarveCount | .ldAtom _ | .ldWatch _ _ | .ldErrCount | .ldMmCount | .ldFullCount | .ldExpAlloc | .bsState _
  | .bsErrCount | .pmWindow _ | .pmXlate | .wpMask _ | .spXmiss _ | .spFaddr _ _ | .unlisted => (s, false)

/-! ## Register pairs (R10) -/

/-- Which half of a writable pair a register is: `some true` for `_HI`. -/
def CpReg.halfOf : CpReg → Option Bool
  | .msgBase hi | .vecAddr _ hi | .ringBase _ hi | .ringShadow _ hi | .pgLoad hi | .pmWindow hi => some hi
  | .tile _ (.g _ hi) => some hi
  | _ => none

/-- The value of the pair that a register is half of. -/
def pairValue (s : State) : CpReg → DWord
  | .msgBase _ => s.always.msgBase
  | .vecAddr v _ => (Tab.get s.gate.vecs Vec.init v).addr
  | .ringBase q _ => (s.ring q).base
  | .ringShadow q _ => (s.ring q).shadow
  | .pgLoad _ => s.pg.load
  | .pmWindow _ => s.prom.windowBase
  | .tile t (.g n _) => (s.tile t).greg n
  | _ => 0

/-- A pair that is not written now: one of an enabled ring, which also sets CFGERR (R312), and a general register of a
running tile (R74). -/
def pairLocked (s : State) : CpReg → Bool
  | .ringBase q _ | .ringShadow q _ => (s.ring q).en
  | .tile t (.g n _) => decide ((s.tile t).seq = .running) || decide (n = 0)
  | _ => false

/-- What a write of a locked pair does. -/
def lockedWrite (s : State) : CpReg → State
  | .ringBase q _ | .ringShadow q _ => ghCfgErr s q
  | _ => s

/-- Apply both halves of a pair that is not sealed. -/
def writePair (s : State) (r : CpReg) (v : DWord) : State :=
  match r with
  | .vecAddr k _ => setVec s k (fun x => { x with addr := v })
  | .ringBase q _ => s.setRing q { s.ring q with base := v }
  | .ringShadow q _ => s.setRing q { s.ring q with shadow := v }
  | .pgLoad _ => { s with pg := { s.pg with load := v } }
  | .pmWindow _ => { s with prom := { s.prom with windowBase := v &&& 0xFFFFFFFFFC000000 } }
  | .tile t (.g n _) => s.setTile t ((s.tile t).setG n v)
  | _ => s

/-- Hold a `_HI` half, by its address. -/
def holdHi (s : State) (a : Nat) (d : Word) : State := { s with cp := { s.cp with heldHi := Tab.put s.cp.heldHi a d } }

/-- Drop a held `_HI` half. -/
def dropHi (s : State) (a : Nat) : State := { s with cp := { s.cp with heldHi := Tab.erase s.cp.heldHi a } }

/-- The pair value that a write of `_LO` at address `a` applies: with the held half, else with the high half as it is. -/
def loValue (s : State) (a : Nat) (r : CpReg) (d : Word) : DWord :=
  pair ((Tab.find s.cp.heldHi (a + 4)).getD (hi32 (pairValue s r))) d

/-- A write of a half of a pair that is not sealed. -/
def pairWrite (s : State) (a : Nat) (r : CpReg) (hi : Bool) (d : Word) : State :=
  if pairLocked s r then lockedWrite s r
  else if hi then holdHi s a d
  else dropHi (writePair s r (loValue s a r d)) (a + 4)

/-! ## Sealed registers (R363, R375, R377–R379) -/

/-- The seal group of a register (R377). -/
def CpReg.sealGroup : CpReg → Option Nat
  | .partTile _ | .partCtrl | .partCnt _ | .partBar _ => some 0
  | .pmXlate => some 1
  | .wpMask _ => some 2
  | .ldExpAlloc => some 3
  | .pgSrc => some 4
  | .rstauth => some 5
  | .msgBase _ => some 6
  | .debug => some 7
  | _ => none

/-- A mask of the tiles from `lo` that the configuration has, in a field of `w` bits each. -/
def tileMask (c : GenConfig) (lo n w m : Nat) : Word :=
  ((List.range n).map (fun k => if lo + k < GenConfig.T c then atN m (w * k) else 0)).foldl (· ||| ·) 0

/-- The bits of a sealed register that a write performs: those of present units (R11, R436). -/
def sealBits (c : GenConfig) : CpReg → Word
  | .partTile i => tileMask c (8 * i) 8 4 7
  | .partCtrl => 0xF
  | .partCnt _ => 0x3FFF3FFF
  | .partBar _ => 0x01FF01FF
  | .pmXlate => 1
  | .wpMask _ => tileMask c 0 32 1 1
  | .ldExpAlloc => 0xFFFFFFFF
  | .pgSrc => 3
  | .rstauth => 7
  | .msgBase _ => 0xFFFFF03F
  | .debug => 1
  | _ => 0

/-- Apply a sealed register's new value: `d` is masked, and `hi` is the high half of the pair. -/
def setSealed (s : State) (r : CpReg) (d hi : Word) : State :=
  let x := s.always
  match r with
  | .partTile i => { s with always := { x with partTile := Tab.set x.partTile 0 i d } }
  | .partCtrl => { s with always := { x with partCtrl := BitVec.ofNat 4 d.toNat } }
  | .partCnt p => { s with always := { x with partCnt := Tab.put x.partCnt p d } }
  | .partBar p => { s with always := { x with partBar := Tab.put x.partBar p d } }
  | .pmXlate => { s with always := { x with xlateEn := bit d 0 } }
  | .wpMask l => { s with always := { x with wpMask := Tab.set x.wpMask 0 l d } }
  | .ldExpAlloc => { s with always := { x with expAlloc := d } }
  | .pgSrc => { s with pg := { s.pg with src := BitVec.ofNat 2 d.toNat } }
  | .rstauth => { s with always := { x with rstauth := BitVec.ofNat 3 d.toNat } }
  | .msgBase _ => { s with always := { x with msgBase := pair hi d } }
  | .debug => { s with always := { x with debug := bit d 0 } }
  | _ => s

/-- Boot has neither ended nor failed (R363). -/
def bootOpen (s : State) : Bool := decide (s.boot.state ≠ 5) && decide (s.boot.state ≠ 6)

/-- A write that the register's own rules ignore: a reserved source of the timebase (R215, R378). -/
def sealIgnored (r : CpReg) (d : Word) : Bool := decide (r = .pgSrc) && decide (2 ≤ fld d 1 0)

/-- A counted change of group `g` by host software, logged under R379. -/
def hostChange (s : State) (a : Nat) (r : CpReg) (g : Nat) (d : Word) : State :=
  let v := d &&& sealBits s.gen r
  match r.halfOf with
  | some _ =>
    let old := pairValue s r
    let new := loValue s a r v
    let s := dropHi (setSealed s r (lo32 new) (hi32 new)) (a + 4)
    let s := { s with always := { s.always with used := Tab.set s.always.used 0 g (Tab.get s.always.used 0 g + 1) } }
    sealEntry s false g a true (lo32 old) (lo32 new) (hi32 old) (hi32 new)
  | none =>
    let old := readReg s r
    let s := setSealed s r v 0
    let s := { s with always := { s.always with used := Tab.set s.always.used 0 g (Tab.get s.always.used 0 g + 1) } }
    sealEntry s false g a false old v 0 0

/-- A change beyond the budget is refused (R378). -/
def refuseChange (s : State) (a g : Nat) (isPair : Bool) : State :=
  let s := if isPair then dropHi s (a + 4) else s
  let s := { s with always := { s.always with refused := putBit s.always.refused g true } }
  raise s evSealBudget 0 0 0 g

/-- A write of a sealed register: the image's are applied and not counted (R375); host software's are refused during boot
(R363), held where they are a `_HI` half, ignored where the register ignores them, and counted otherwise. -/
def sealWrite (s : State) (a : Nat) (r : CpReg) (g : Nat) (d : Word) (image : Bool) : State :=
  if !image && bootOpen s then raise s evSealBudget 0 0 0 (g + 8)
  else if r.halfOf = some true then holdHi s a d
  else if sealIgnored r d then s
  else if image then
    let v := d &&& sealBits s.gen r
    (match r.halfOf with
     | some _ => let n := loValue s a r v; dropHi (setSealed s r (lo32 n) (hi32 n)) (a + 4)
     | none => setSealed s r v 0)
  else if 3 ≤ Tab.get s.always.used 0 g then refuseChange s a g r.halfOf.isSome
  else hostChange s a r g d

/-! ## Accesses (R352, R353) -/

/-- A write of a register as a whole. -/
def wordWrite (s : State) (a : Nat) (r : CpReg) (d : Word) (image : Bool) : State × Bool :=
  match r.sealGroup, r.halfOf with
  | some g, _ => (sealWrite s a r g d image, false)
  | none, some hi => (pairWrite s a r hi d, false)
  | none, none => if image && decide (r = .bootFeed) then (s, false) else writeReg s r d

/-- A write of register `r`, found at an address: strobe 0 does nothing, tile memories take any strobe, registers only
0xF; an unlisted offset ignores every write. -/
def regWrite (s : State) (a : Nat) (r : CpReg) (d : Word) (strb : BitVec 4) (image : Bool) : State × Bool :=
  if strb = 0 then (s, false)
  else
    match r with
    | .unlisted => (s, false)
    | .tile _ .unlisted => (s, false)
    | .tile t x =>
      if x.isMem then (s.setTile t (writeTileMem (s.tile t) x d strb), false)
      else if strb ≠ 15 then (s, true)
      else wordWrite s a r d image
    | _ => if strb ≠ 15 then (s, true) else wordWrite s a r d image

/-- A write access; the answer says whether it is answered with an error. -/
def cpWrite (s : State) (a : Nat) (d : Word) (strb : BitVec 4) (image : Bool) : State × Bool :=
  match regAt s.gen a with
  | none => (s, true)
  | some r => if reachable s a r then regWrite s a r d strb image else (s, true)

/-- The `_LO` register of a pair, writable or not. -/
def CpReg.isLo : CpReg → Option CpReg
  | .msgBase false => some (.msgBase true)
  | .vecAddr v false => some (.vecAddr v true)
  | .ringBase q false => some (.ringBase q true)
  | .ringShadow q false => some (.ringShadow q true)
  | .pgTime false => some (.pgTime true)
  | .pgLoad false => some (.pgLoad true)
  | .pgFrame false => some (.pgFrame true)
  | .pmWindow false => some (.pmWindow true)
  | .spFaddr n false => some (.spFaddr n true)
  | .tile t (.g n false) => some (.tile t (.g n true))
  | .tile t (.walkErrAddr false) => some (.tile t (.walkErrAddr true))
  | .tile t (.bxErrEntry false) => some (.tile t (.bxErrEntry true))
  | _ => none

/-- A fault log entry counts as read once its W0 has been read (R431). -/
def markRead (s : State) (j : Nat) : State :=
  let e := Tab.get s.keeper.log LogEntry.init j
  { s with keeper := { s.keeper with log := Tab.put s.keeper.log j { e with read := true } } }

/-- A read of a register with its side effects: `_LO` captures the shadow, `_HI` returns it once, `LD_ATOM` claims, W0 of a
log entry marks it (R10, R259, R431). -/
def regRead (s : State) (a : Nat) (r : CpReg) : State × Word :=
  match r.isLo with
  | some h => ({ s with cp := { s.cp with shadow := Tab.put s.cp.shadow (a + 4) (readReg s h) } }, readReg s r)
  | none =>
    match Tab.find s.cp.shadow a, r with
    | some v, _ => ({ s with cp := { s.cp with shadow := Tab.erase s.cp.shadow a } }, v)
    | none, .ldAtom c => ldAtomOp s c
    | none, .kpLog j 0 => (markRead s j, readReg s r)
    | none, _ => (s, readReg s r)

/-- A read access: the state after it, the data, and whether it is answered with an error. -/
def cpRead (s : State) (a : Nat) : State × Word × Bool :=
  match regAt s.gen a with
  | none => (s, 0, true)
  | some r => if reachable s a r then let x := regRead s a r; (x.1, x.2, false) else (s, 0, true)

/-- Address of `GH_BOOT_FEED`. -/
def feedAddr : Nat := 0x108

/-- A write by host software: `cp_err` shows its outcome, and `cp_rdata` is 0 with an error. While `rst_n` is 0 every access
is answered with an error (R352). A write of `GH_BOOT_FEED` whose word the sequencer has not taken is not answered yet, and the port
is busy: what comes meanwhile waits (R368). -/
def hostWrite (s : State) (a : Nat) (d : Word) (strb : BitVec 4) : State :=
  if s.cp.busy then { s with cp := { s.cp with waiting := s.cp.waiting ++ [.write a d strb] } }
  else
    let r := if s.cp.inReset then (s, true) else cpWrite s a d strb false
    if a = feedAddr ∧ r.1.boot.held ≠ [] then { r.1 with cp := { r.1.cp with busy := true } }
    else { r.1 with cp := { r.1.cp with err := r.2, rdata := if r.2 then 0 else r.1.cp.rdata } }

/-- A read by host software. -/
def hostRead (s : State) (a : Nat) : State :=
  if s.cp.busy then { s with cp := { s.cp with waiting := s.cp.waiting ++ [.read a] } }
  else
    let r := if s.cp.inReset then (s, 0, true) else cpRead s a
    { r.1 with cp := { r.1.cp with err := r.2.2, rdata := r.2.1 } }

/-- An access that has waited. -/
def hostAccess (s : State) : CpAccess → State
  | .write a d strb => hostWrite s a d strb
  | .read a => hostRead s a

/-- The control port after a step of the sequencer from `old` to `s`: a write of `GH_BOOT_FEED` whose word has been taken, or is
ignored by now, is complete, and the accesses that have waited for it follow (R368). -/
def portOn (old s : State) : State :=
  if old.cp.busy ∧ s.boot.held = [] then
    s.cp.waiting.foldl hostAccess { s with cp := { s.cp with busy := false, err := false, waiting := [] } }
  else s

/-! ## The commands -/

/-- Address of a register of tile `t`. -/
def tileAddr (t o : Nat) : Nat := 0x1000000 + 0x100000 * t + o

/-- A word with a bit set. -/
def withBit (v : Word) (i : Nat) : Word := putBit v i true

/-- A word with a bit clear. -/
def noBit (v : Word) (i : Nat) : Word := putBit v i false

def execRegisterWrite (a : BitVec 26) (d : Word) (strb : BitVec 4) (s : State) : Out := .next (hostWrite s a.toNat d strb)
def execRegisterPairLoRead (a : BitVec 26) (s : State) : Out := .next (hostRead s a.toNat)
def execRegisterPairHiWrite (a : BitVec 26) (d : Word) (s : State) : Out := .next (hostWrite s a.toNat d 15)
def execRegisterPairLoWrite (a : BitVec 26) (d : Word) (s : State) : Out := .next (hostWrite s a.toNat d 15)
def execTileMemoryWrite (a : BitVec 26) (d : Word) (strb : BitVec 4) (s : State) : Out :=
  .next (hostWrite s a.toNat d strb)
def execSealChange (a : BitVec 26) (d : Word) (s : State) : Out := .next (hostWrite s a.toNat d 15)
def execTlSrSeed (t : Nat) (d : Word) (s : State) : Out := .next (hostWrite s (tileAddr t 0x400) d 15)
def execGhCompat (d : Word) (s : State) : Out := .next (hostWrite s 0x4 d 15)
def execGhBootFeed (w : Word) (s : State) : Out := .next (hostWrite s 0x108 w 15)

/-- RUN: a write of `TL_CTRL` with RUN = 1 and STOP = 0. -/
def execRun (t : Nat) (v : Word) (s : State) : Out := .next (hostWrite s (tileAddr t 0) (noBit (withBit v 31) 30) 15)

/-- STOP: a write of `TL_CTRL` with STOP = 1. -/
def execStop (t : Nat) (v : Word) (s : State) : Out := .next (hostWrite s (tileAddr t 0) (withBit v 30) 15)

/-- APPLY: a write of `TL_STG_CTRL` with APPLY = 1. -/
def execApply (t : Nat) (s : State) : Out := .next (hostWrite s (tileAddr t 0x308) 0x80000000 15)

def execLdValue (c : BitVec 14) (v : Word) (s : State) : Out := .next (hostWrite s (0x500000 + 16 * c.toNat) v 15)

/-- An access of host software reaches its register now. -/
def accessServed (s : State) (a : Nat) : Bool :=
  !s.cp.busy && !s.cp.inReset && (match regAt s.gen a with
    | some r => reachable s a r
    | none => false)

/-- LD_ADD, with what the checks of the update find (R409, R415). -/
def execLdAdd (c : Updating (BitVec 14)) (v : Word) (s : State) : Out :=
  let a := 0x500004 + 16 * c.it.toNat
  .next (hostWrite (if accessServed s a then updCheck s c.it.toNat c.check else s) a v 15)

/-- LD_ATOM, with what the check of its counter's word finds (R415). -/
def execLdAtom (c : Checked (BitVec 14)) (s : State) : Out :=
  let a := 0x500008 + 16 * c.it.toNat
  .next (hostRead (if accessServed s a then cntEcc s c.it.toNat c.ecc else s) a)

def execLdCfg (c : BitVec 14) (v : Word) (s : State) : Out := .next (hostWrite s (0x50000C + 16 * c.toNat) v 15)
def execLdCtx (x : BitVec 8) (i : BitVec 6) (v : Word) (s : State) : Out :=
  .next (hostWrite s (0x540000 + 256 * x.toNat + 4 * i.toNat) v 15)
def execLdXvalue (e : BitVec 8) (v : Word) (s : State) : Out := .next (hostWrite s (0x560000 + 16 * e.toNat) v 15)
def execLdXadd (e : BitVec 8) (v : Word) (s : State) : Out := .next (hostWrite s (0x560004 + 16 * e.toNat) v 15)

/-- LD_HW_CMD.GO: a write of `LD_HW_CMD` with GO = 1 and CANCEL = 0. -/
def execLdHwCmdGo (v : Word) (s : State) : Out := .next (hostWrite s 0x570034 (noBit (withBit v 31) 30) 15)

/-- LD_HW_CMD.CANCEL: a write of `LD_HW_CMD` with CANCEL = 1. -/
def execLdHwCmdCancel (v : Word) (s : State) : Out := .next (hostWrite s 0x570034 (withBit v 30) 15)

def execBsCfg (b : BitVec 9) (v : Word) (s : State) : Out := .next (hostWrite s (0x600000 + 8 * b.toNat) v 15)
def execBsArrive (v : Word) (s : State) : Out := .next (hostWrite s 0x601000 v 15)
def execBsReset (v : Word) (s : State) : Out := .next (hostWrite s 0x601004 v 15)

/-- PG_LOAD: a write of `PG_CTRL` with LOAD = 1. -/
def execPgLoad (v : Word) (s : State) : Out := .next (hostWrite s 0x300004 (withBit v 31) 15)

def execRingEnable (q : BitVec 8) (s : State) : Out := .next (hostWrite s (0x1000C + 64 * q.toNat) 0x80000000 15)
def execProd (q : BitVec 8) (v : Word) (s : State) : Out := .next (hostWrite s (0x10010 + 64 * q.toNat) v 15)

/-- GO: a write of `CP_PLL<p>_CTRL` with GO = 1, for a PLL that the configuration has. -/
def execGo (p : Nat) (v : Word) (s : State) : Out :=
  .next (if p < 2 + GenConfig.leaves s.gen then hostWrite s (0x10000C + 32 * p) (withBit v 31) 15 else s)

/-- The word of a power command: GO, OP and DOMAIN. -/
def pwrWord (op : Nat) (d : BitVec 8) : Word := 0x80000000 ||| atN op 24 ||| atN d.toNat 0

def execUp (d : BitVec 8) (s : State) : Out := .next (hostWrite s 0x100800 (pwrWord 0 d) 15)
def execDown (d : BitVec 8) (s : State) : Out := .next (hostWrite s 0x100800 (pwrWord 1 d) 15)
def execRetain (d : BitVec 8) (s : State) : Out := .next (hostWrite s 0x100800 (pwrWord 2 d) 15)
def execReset (d : BitVec 8) (s : State) : Out := .next (hostWrite s 0x100800 (pwrWord 3 d) 15)
def execFaultLogRead (j : BitVec 6) (s : State) : Out := .next (hostRead s (0x201000 + 32 * j.toNat))

end Sys2Proof.Machine
end

