-- ==== Sys2Proof/Machine/Boot.lean ====
section
/-! DEFINITION. Reset, the boot sequencer and the configuration image (R359, R361–R376). The image's words come with the
commands when it is read from flash, and from `GH_BOOT_FEED` in host feed (R368). -/

namespace Sys2Proof.Machine

/-! ## Reset and the first steps (R359, R361) -/

/-- RST_N: every unit and register takes its reset value; `rst_n` stays at 0 until BOOT_START. -/
def rstStep (s : State) : State :=
  let r := State.resetOf s.gen
  { r with pending := s.pending, cp := { r.cp with inReset := true } }

def execRstN (s : State) : Out := .next (rstStep s)

/-- BOOT_START: `rst_n` is released, `cfg_hostfeed` is sampled, and the first domain is powered. -/
def bootStartStep (s : State) (hostfeed : Bool) : State :=
  if !s.boot.running ∧ s.boot.state = 0 then
    let s := { s with cp := { s.cp with inReset := false }
                      boot := { s.boot with hostfeed := hostfeed, running := true, powerStep := 0 } }
    match (powerOrder s.gen)[0]? with
    | some d => startUp s d
    | none => s
  else s

def execBootStart (hostfeed : Bool) (s : State) : Out := .next (bootStartStep s hostfeed)

/-! ## The configuration port (R356, R364–R367, R384) -/

/-- The boot sequencer runs, and gatehouse domain 1, which holds it and the configuration port, serves (R384, R395). -/
def bootOn (s : State) : Bool := s.boot.running && s.active (GenConfig.domFixed s.gen 7)

/-- Levels of the configuration port's outputs. -/
structure CfgPins where
  csN : Bool
  sck : Bool
  oe : BitVec 4
  deriving DecidableEq, Repr

/-- The configuration port between its commands, in host feed, once the sequencer has finished with SPI, while `rst_n` is 0 and while
its domain is isolated (R337, R356). Every command is one step, so these are its levels in every state. -/
def cfgPins (_ : State) : CfgPins := { csN := true, sck := false, oe := 0 }

/-- A way of reading from a half of a word of the Basic Flash Parameter Table: dummy clocks, mode clocks and instruction, from bit
`lo` (PRESUMED, log 118: JESD216). The mode clocks carry 0x00 (R365). -/
def readWay (w : Word) (lo : Nat) : ReadWay :=
  { instr := fld w (lo + 15) (lo + 8), dummy := fld w (lo + 4) lo, modeClocks := fld w (lo + 7) (lo + 5), modeBits := 0x00 }

/-- What the sequencer takes from SFDP (R364, R366): the places of the fields in the Basic Flash Parameter Table are JESD216's
(PRESUMED, log 118). -/
def sfdpOf (sig : Word) (bfpt : List Word) : Sfdp :=
  let w := fun (i : Nat) => (bfpt[i]?).getD 0
  if sig = 0x50444653 then
    { present := true, addr4 := decide (fld (w 0) 18 17 = 2)
      r114 := if bit (w 0) 22 then some (readWay (w 2) 16) else none
      r144 := if bit (w 0) 21 then some (readWay (w 2) 0) else none
      qer := fld (w 14) 22 20 }
  else Sfdp.none

/-- The 1-1-1 read: 0x0B with 8 dummy clocks, or 0x03 where SFDP is absent (R365, R366). -/
def slowWay (f : Sfdp) : ReadWay :=
  if f.present then { instr := 0x0B, dummy := 8, modeClocks := 0, modeBits := 0 }
  else { instr := 0x03, dummy := 0, modeClocks := 0, modeBits := 0 }

/-- The way of reading in a mode. -/
def wayOf (f : Sfdp) (mode : Nat) : ReadWay :=
  match mode with
  | 1 => f.r114.getD (slowWay f)
  | 2 => f.r144.getD (slowWay f)
  | _ => slowWay f

/-- A read command of the image from byte `addr`. -/
def imageRead (b : Boot) (mode addr div : Nat) : SpiCmd :=
  .read (wayOf b.sfdp mode) mode (if b.addr4 then 4 else 3) addr div

/-- Issue a command on the configuration port; in host feed it issues none. -/
def issueSpi (s : State) (c : SpiCmd) : State :=
  if s.boot.hostfeed then s else { s with boot := { s.boot with spi := s.boot.spi ++ [c] } }

/-- DISCOVERY (R364–R366): the flash is reset and SFDP is read; an absent signature sets NOSFDP and leaves 3-byte addresses. -/
def discoveryStep (s : State) (sig : Word) (bfpt : List Word) : State :=
  if bootOn s ∧ s.boot.state = 2 then
    let f := sfdpOf sig bfpt
    let s := [SpiCmd.alone 0x66, SpiCmd.alone 0x99, SpiCmd.read { instr := 0x5A, dummy := 8, modeClocks := 0, modeBits := 0 } 0 3 0 8].foldl issueSpi s
    { s with boot := { s.boot with sfdp := f, nosfdp := !f.present, addr4 := f.addr4, state := 3 } }
  else s

def execDiscovery (words : SfdpWords) (s : State) : Out := .next (discoveryStep s words.sig words.bfpt)

/-! ## Failures -/

def errPwr : Nat := 1
def errMagic : Nat := 2
def errHcrc : Nat := 3
def errHdrfield : Nat := 4
def errScrc : Nat := 5
def errSectfield : Nat := 6
def errEntry : Nat := 7
def errPoll : Nat := 8
def errPll : Nat := 9
def errNostart : Nat := 10
def errSeal : Nat := 11

/-- KIND of a register list entry (R373): 0 WRITE, 1 POLLSET, 2 POLLCLR, 3 DELAY. -/
def BootEntry.kind (e : BootEntry) : Nat := fld e.w0 31 30

/-- ADDR of a register list entry. -/
def BootEntry.addr (e : BootEntry) : Nat := fld e.w0 25 0

/-- A poll is at the head of the register list. -/
def polling (s : State) : Bool :=
  match s.boot.entries with
  | e :: _ => decide (e.kind = 1) || decide (e.kind = 2)
  | [] => false

/-- BOOT_TIMEOUT: the bounds of steps 2 and 3, which are the CPC's, and of a POLL entry. -/
def bootTimeoutStep (s : State) : State :=
  if !s.boot.running then s
  else if s.boot.state = 0 then bootFail s errPwr 0 0
  else if s.boot.state = 1 then bootFail s errPll 0 0
  else
    match s.boot.entries with
    | e :: _ => if bootOn s && polling s then bootFail s errPoll s.boot.sect (BitVec.ofNat 32 e.offset) else s
    | [] => s

def execBootTimeout (s : State) : Out := .next (portOn s (bootTimeoutStep s))

/-! ## The image header (R365, R369) -/

/-- The image words that a step of the sequencer has: those fed in host feed, else those read. -/
def imageWords (s : State) (ws : List Word) : List Word := if s.boot.hostfeed then s.boot.feed else ws

/-- Word `i` of a list of words. -/
def wordAt (ws : List Word) (i : Nat) : Word := (ws[i]?).getD 0

/-- A field of the header breaks its rule. -/
def imageHeaderBad (c : GenConfig) (ws : List Word) : Bool :=
  let w1 := wordAt ws 1
  let w3 := wordAt ws 3
  let total := (wordAt ws 2).toNat
  let tiles := fld w3 31 24
  decide (fld w1 15 0 ≠ 1) || decide (fld w1 31 16 = 0) || decide (total % 4 ≠ 0) || decide (16777216 < total)
  || decide (fld w3 7 0 < 2) || decide (16 < fld w3 7 0) || decide (fld w3 9 8 = 3) || decide (fld w3 15 10 ≠ 0)
  || decide (2 < fld w3 23 16) || (decide (tiles ≠ 0) && decide (tiles ≠ GenConfig.T c))
  || decide (wordAt ws 4 ≠ 0) || decide (wordAt ws 5 ≠ 0) || decide (wordAt ws 6 ≠ 0)

/-- The first check that the header fails, in the order of R369. -/
def headerErr (c : GenConfig) (ws : List Word) : Option Nat :=
  if wordAt ws 0 ≠ 0x49464B41 then some errMagic
  else if wordAt ws 7 ≠ crc32c (wordBytes (ws.take 7)) then some errHcrc
  else if imageHeaderBad c ws then some errHdrfield
  else none

/-- The fastest read mode that the device supports and MODEMAX permits (R365, R366): 0 1-1-1, 1 1-1-4, 2 1-4-4. -/
def readMode (f : Sfdp) (max : Nat) : Nat :=
  if !f.present ∨ 5 < f.qer then 0
  else if f.r144.isSome ∧ 2 ≤ max then 2
  else if f.r114.isSome ∧ 1 ≤ max then 1
  else 0

/-- The commands by which a device of a QER sets quad enable: write enable, then the status register that holds the bit, the other
bits of which are written 0 (R365; PRESUMED, log 118: JESD216). -/
def quadEnable (qer : Nat) : List SpiCmd :=
  match qer with
  | 0 => []
  | 2 => [.alone 0x06, .wrStatus 0x01 [0x40]]
  | 3 => [.alone 0x06, .wrStatus 0x3E [0x80]]
  | _ => [.alone 0x06, .wrStatus 0x01 [0x00, 0x02]]

/-- The header is accepted: the first section follows. Quad enable is set before the first quad read (R365). Without SFDP, DIV and
MODEMAX are ignored (R366). -/
def headerTake (s : State) (ws : List Word) : State :=
  let w3 := wordAt ws 3
  let mode := if s.boot.hostfeed then 0 else readMode s.boot.sfdp (fld w3 9 8)
  let s := if mode = 0 then s else (quadEnable s.boot.sfdp.qer).foldl issueSpi s
  let div := if s.boot.nosfdp then 8 else fld w3 7 0
  seqOn s { s.boot with nsect := fld (wordAt ws 1) 31 16, total := (wordAt ws 2).toNat, div := div, modemax := fld w3 9 8
                        mode := BitVec.ofNat 2 mode, state := 4, next := 32, sect := 0, feed := [] }

/-- HEADER: it is read at `clk_ref` / 8, before MODEMAX is known, in 1-1-1 mode (DESIGN CHOICE, log 118). -/
def headerStep (s : State) (ws : List Word) : State :=
  let ws := imageWords s ws
  if bootOn s ∧ s.boot.state = 3 ∧ ws.length = 8 then
    let s := issueSpi s (imageRead s.boot 0 0 8)
    match headerErr s.gen ws with
    | some e => bootFail s e 0 0
    | none => headerTake s ws
  else s

def execHeader (ws : List Word) (s : State) : Out := .next (portOn s (headerStep s ws))

/-! ## Sections (R370, R372) -/

/-- Section types. -/
def secRegs : Nat := 1
def secProg : Nat := 2
def secDesc : Nat := 3
def secCtx : Nat := 4
def secSeal : Nat := 5
def secStart : Nat := 15

/-- TYPE of a section. -/
def secType (ws : List Word) : Nat := fld (wordAt ws 0) 7 0

/-- TARGET of a section. -/
def secTarget (ws : List Word) : Nat := fld (wordAt ws 0) 15 8

/-- LEN of a section. -/
def secLen (ws : List Word) : Nat := (wordAt ws 1).toNat

/-- A defined section type. -/
def secKnown (ty : Nat) : Bool :=
  decide (ty = secRegs) || decide (ty = secProg) || decide (ty = secDesc) || decide (ty = secCtx)
  || decide (ty = secSeal) || decide (ty = secStart)

/-- LEN is no multiple of 4 or above 65,520, so the payload is not read. -/
def lenBad (ws : List Word) : Bool := decide (secLen ws % 4 ≠ 0) || decide (65520 < secLen ws)

/-- The section has been read completely: its header, and its payload where LEN permits one. -/
def secWhole (ws : List Word) : Bool :=
  decide (ws.length = if lenBad ws then 4 else 4 + secLen ws / 4)

/-- The payload of a section. -/
def secBody (ws : List Word) : List Word := ws.drop 4

/-- SCRC covers bytes 0–11 of the section header and the payload. -/
def scrcBad (ws : List Word) : Bool := decide (wordAt ws 3 ≠ crc32c (wordBytes (ws.take 3 ++ secBody ws)))

/-- A reserved bit of the section header is set. -/
def secResv (ws : List Word) : Bool := decide (fld (wordAt ws 0) 31 16 ≠ 0) || decide (wordAt ws 2 ≠ 0)

/-- TARGET names a tile for PROG and DESC, and is 0 otherwise. -/
def targetBad (c : GenConfig) (ws : List Word) : Bool :=
  if secType ws = secProg ∨ secType ws = secDesc then decide (GenConfig.T c ≤ secTarget ws) else decide (secTarget ws ≠ 0)

/-- The register list entries of words, the first at byte offset `off`. -/
def listEntries : Nat → List Word → List BootEntry
  | off, a :: b :: ws => { w0 := a, value := b, offset := off } :: listEntries (off + 8) ws
  | _, _ => []

/-- A register list entry with a reserved bit set, or a DELAY with an address. -/
def entryResv (e : BootEntry) : Bool :=
  decide (fld e.w0 29 26 ≠ 0) || (decide (e.kind = 3) && decide (e.addr ≠ 0))

/-- A register list breaks its form. -/
def regsBad (body : List Word) : Bool := decide (body.length % 2 ≠ 0) || (listEntries 0 body).any entryResv

/-- `n` entries of a table of `size` from index `first` go beyond it. -/
def beyond (first n size : Nat) : Bool := decide (size ≤ first) || decide (size < first + n)

/-- A PROG payload breaks its form: whole 64 B instructions within the instruction memory. -/
def progBad (body : List Word) : Bool :=
  let w := wordAt body 0
  decide (body = []) || decide (fld w 31 10 ≠ 0) || decide ((body.length - 1) % 16 ≠ 0)
  || beyond (fld w 9 0) ((body.length - 1) / 16) 1024

/-- The tables of a DESC section: words per entry, entries, and the offset in the tile's region (R38, R41). -/
def descTable (k : Nat) : Option (Nat × Nat × Nat) :=
  match k with
  | 0 => some (32, 256, 0x20000)
  | 1 => some (16, 128, 0x28000)
  | 2 => some (1, 4096, 0x30000)
  | _ => none

/-- A DESC payload breaks its form. -/
def descBad (body : List Word) : Bool :=
  let w := wordAt body 0
  decide (body = []) || decide (fld w 31 26 ≠ 0) || decide (fld w 23 12 ≠ 0)
  || (match descTable (fld w 25 24) with
      | none => true
      | some (n, size, _) => decide ((body.length - 1) % n ≠ 0) || beyond (fld w 11 0) ((body.length - 1) / n) size)

/-- A CTX payload breaks its form. -/
def ctxBad (body : List Word) : Bool :=
  decide (body = []) || decide (fld (wordAt body 0) 31 14 ≠ 0) || beyond (fld (wordAt body 0) 13 0) (body.length - 1) 16384

/-- The tiles of RUNMASK, in ascending order. -/
def runTiles (w : Word) : List Nat := (List.range 32).filter (fun t => bit w t)

/-- A START payload breaks its form (R376). -/
def startBad (c : GenConfig) (body : List Word) : Bool :=
  let ts := runTiles (wordAt body 0)
  decide (body.length ≠ 1 + ts.length) || ts.any (fun t => decide (GenConfig.T c ≤ t))
  || (body.drop 1).any (fun w => decide (fld w 31 10 ≠ 0))

/-- The payload's own rule, by the section's type. -/
def payloadBad (c : GenConfig) (ty : Nat) (body : List Word) : Bool :=
  if ty = secRegs ∨ ty = secSeal then regsBad body
  else if ty = secProg then progBad body
  else if ty = secDesc then descBad body
  else if ty = secCtx then ctxBad body
  else startBad c body

/-- The section that is no start section where one must be, or the other way round, or one that does not end the image. -/
def startMisplaced (s : State) (ws : List Word) : Bool :=
  let last := decide (s.boot.sect + 1 = s.boot.nsect)
  let isStart := decide (secType ws = secStart)
  (isStart != last) || (isStart && decide (s.boot.next + 16 + secLen ws ≠ s.boot.total))

/-- The first check that a section fails (R370, R372, R376), in the order LEN, SCRC, placement of the start section,
fields: DESIGN CHOICE, log 15. -/
def sectionErr (s : State) (ws : List Word) : Option Nat :=
  if lenBad ws then some errSectfield
  else if scrcBad ws then some errScrc
  else if startMisplaced s ws then some errNostart
  else if !secKnown (secType ws) || secResv ws || targetBad s.gen ws || payloadBad s.gen (secType ws) (secBody ws) then
    some errSectfield
  else none

/-- The sequencer waits for a section. -/
def sectionDue (s : State) : Bool :=
  bootOn s && decide (s.boot.state = 4) && decide (s.boot.entries = [])

/-- Check a section of type `ty`, or of an undefined type, and apply it with `f`: a section that fails applies nothing. It is read
with one command (R367). -/
def sectionStep (s : State) (ty : Nat) (ws : List Word) (f : State → List Word → State) : State :=
  let ws := imageWords s ws
  if sectionDue s ∧ 4 ≤ ws.length ∧ secWhole ws ∧ (secType ws = ty ∨ !secKnown (secType ws)) then
    let s := issueSpi s (imageRead s.boot s.boot.mode.toNat s.boot.next s.boot.div)
    match sectionErr s ws with
    | some e => bootFail s e s.boot.sect (BitVec.ofNat 32 s.boot.next)
    | none => f { s with boot := { s.boot with feed := [] } } ws
  else s

/-- The section's entries are all applied: the next section follows `len` payload bytes on. -/
def sectionDone (s : State) (len : Nat) : State :=
  seqOn s { s.boot with sect := s.boot.sect + 1, next := s.boot.next + 16 + len }

/-- Writes of consecutive words, as host software would make them (R374). -/
def writeRun (s : State) (a : Nat) : List Word → State
  | [] => s
  | w :: ws => writeRun (cpWrite s a w 15 true).1 (a + 4) ws

/-- Take a section's register list: an empty one is done at once. -/
def takeList (s : State) (ws : List Word) : State :=
  match listEntries (s.boot.next + 16) (secBody ws) with
  | [] => sectionDone s (secLen ws)
  | es => { s with boot := { s.boot with entries := es, next := s.boot.next + 16 + secLen ws } }

/-- REGS. -/
def regsStep (s : State) (ws : List Word) : State := sectionStep s secRegs ws takeList

def execRegs (ws : List Word) (s : State) : Out := .next (portOn s (regsStep s ws))

/-- PROG: instructions from the first index on. -/
def progStep (s : State) (ws : List Word) : State :=
  sectionStep s secProg ws (fun s ws =>
    let body := secBody ws
    sectionDone (writeRun s (tileAddr (secTarget ws) (0x10000 + 64 * fld (wordAt body 0) 9 0)) (body.drop 1)) (secLen ws))

def execProgSection (ws : List Word) (s : State) : Out := .next (portOn s (progStep s ws))

/-- DESC: descriptors or walker program words from the first index on. -/
def descStep (s : State) (ws : List Word) : State :=
  sectionStep s secDesc ws (fun s ws =>
    let body := secBody ws
    let s := match descTable (fld (wordAt body 0) 25 24) with
      | some (n, _, o) =>
        writeRun s (tileAddr (secTarget ws) (o + 4 * n * fld (wordAt body 0) 11 0)) (body.drop 1)
      | none => s
    sectionDone s (secLen ws))

def execDesc (ws : List Word) (s : State) : Out := .next (portOn s (descStep s ws))

/-- CTX: context table entries from the first on. -/
def ctxStep (s : State) (ws : List Word) : State :=
  sectionStep s secCtx ws (fun s ws =>
    let body := secBody ws
    sectionDone (writeRun s (0x540000 + 4 * fld (wordAt body 0) 13 0) (body.drop 1)) (secLen ws))

def execCtx (ws : List Word) (s : State) : Out := .next (portOn s (ctxStep s ws))

/-- An entry that a SEAL section may hold: KIND 0 and the address of an RWL register. -/
def sealEntryOk (c : GenConfig) (e : BootEntry) : Bool :=
  decide (e.kind = 0) && (match regAt c e.addr with
    | some r => r.sealGroup.isSome
    | none => false)

/-- SEAL: a register list of writes of RWL registers only. -/
def sealStep (s : State) (ws : List Word) : State :=
  sectionStep s secSeal ws (fun s ws =>
    match (listEntries (s.boot.next + 16) (secBody ws)).find? (fun e => !sealEntryOk s.gen e) with
    | some e => bootFail s errSeal s.boot.sect (BitVec.ofNat 32 e.offset)
    | none => takeList s ws)

def execSeal (ws : List Word) (s : State) : Out := .next (portOn s (sealStep s ws))

/-- Start the program of a tile of RUNMASK: RING_STREAMS stays. -/
def startTile (s : State) (p : Nat × Word) : State :=
  (cpWrite s (tileAddr p.1 0)
    (0x80000000 ||| atN (s.tile p.1).ringStreams.toNat 16 ||| BitVec.ofNat 32 (fld p.2 9 0)) 15 true).1

/-- START (R376): the profile, the seal image entries, the tile programs, DONE. -/
def startStep (s : State) (ws : List Word) : State :=
  sectionStep s secStart ws (fun s ws =>
    let body := secBody ws
    let s := { s with always := { s.always with active := s.always.profile } }
    let s := logImage s
    let s := ((runTiles (wordAt body 0)).zip (body.drop 1)).foldl startTile s
    { s with boot := { s.boot with state := 5, running := false, held := [] } })

def execStart (ws : List Word) (s : State) : Out := .next (portOn s (startStep s ws))

/-! ## Register list entries (R373) -/

/-- The head entry is done: after the last the next section is due. -/
def popEntry (s : State) : State :=
  match s.boot.entries with
  | [_] => seqOn s { s.boot with entries := [], sect := s.boot.sect + 1 }
  | _ :: es => { s with boot := { s.boot with entries := es } }
  | [] => s

/-- An entry's access is answered with an error. -/
def entryFail (s : State) (e : BootEntry) : State := bootFail s errEntry s.boot.sect (BitVec.ofNat 32 e.offset)

/-- The head entry, if the sequencer applies entries and it is of a kind. -/
def headEntry (s : State) (kind : Nat) : Option BootEntry :=
  match s.boot.entries with
  | e :: _ => if bootOn s ∧ e.kind = kind then some e else none
  | [] => none

/-- WRITE. -/
def writeEntry (s : State) : State :=
  match headEntry s 0 with
  | some e => let r := cpWrite s e.addr e.value 15 true
              if r.2 then entryFail r.1 e else popEntry r.1
  | none => s

def execWrite (s : State) : Out := .next (portOn s (writeEntry s))

/-- One read of a poll: satisfied when the bits of VALUE all read as `want`. A poll of a `_LO` or `_HI` register captures or takes the
shadow that host reads use (DESIGN CHOICE, log 72). -/
def pollEntry (s : State) (kind : Nat) (want : Bool) : State :=
  match headEntry s kind with
  | some e =>
    let r := cpRead s e.addr
    if r.2.2 then entryFail r.1 e
    else if (if want then r.2.1 else ~~~r.2.1) &&& e.value = e.value then popEntry r.1
    else r.1
  | none => s

def execPollset (s : State) : Out := .next (portOn s (pollEntry s 1 true))
def execPollclr (s : State) : Out := .next (portOn s (pollEntry s 2 false))

/-- DELAY: its clocks have passed. -/
def delayEntry (s : State) : State :=
  match headEntry s 3 with
  | some _ => popEntry s
  | none => s

def execDelay (s : State) : Out := .next (portOn s (delayEntry s))

/-! ## The lock of a PLL (R361, R391) -/

/-- PLL_LOCK: the last lock of boot sets the sequencer going. -/
def execPllLock (p : Nat) (s : State) : Out := .next (portOn s (lockStep s p))

end Sys2Proof.Machine
end

