-- ==== Sys2Proof/Machine/Dispatch.lean ====
section
/-! DEFINITION. The meaning of each command, arm by arm. -/

namespace Sys2Proof.Machine

/-- The effect of a command on everything but the queue. -/
def exec (i : Instr) (s : State) : Host.Outcome State Fault Refusal :=
  match i with
  | .instructionFetch t ecc => Sys2Proof.Machine.execInstructionFetch t ecc s
  | .move t src ecc => Sys2Proof.Machine.execMove t src ecc s
  | .walk t src ecc => Sys2Proof.Machine.execWalk t src ecc s
  | .sig t src => Sys2Proof.Machine.execSig t src s
  | .waitGe t src => Sys2Proof.Machine.execWaitGe t src s
  | .waitEq t src => Sys2Proof.Machine.execWaitEq t src s
  | .waitAcquire t src => Sys2Proof.Machine.execWaitAcquire t src s
  | .waitClaim t src => Sys2Proof.Machine.execWaitClaim t src s
  | .fence t src => Sys2Proof.Machine.execFence t src s
  | .fenceComplete t src => Sys2Proof.Machine.execFenceComplete t src s
  | .bar t src => Sys2Proof.Machine.execBar t src s
  | .add t src => Sys2Proof.Machine.execAdd t src s
  | .sub t src => Sys2Proof.Machine.execSub t src s
  | .and t src => Sys2Proof.Machine.execAnd t src s
  | .or t src => Sys2Proof.Machine.execOr t src s
  | .xor t src => Sys2Proof.Machine.execXor t src s
  | .shl t src => Sys2Proof.Machine.execShl t src s
  | .shr t src => Sys2Proof.Machine.execShr t src s
  | .tdw t src => Sys2Proof.Machine.execTdw t src s
  | .odw t src => Sys2Proof.Machine.execOdw t src s
  | .rdtime t src => Sys2Proof.Machine.execRdtime t src s
  | .jmp t src => Sys2Proof.Machine.execJmp t src s
  | .br t src => Sys2Proof.Machine.execBr t src s
  | .halt t src => Sys2Proof.Machine.execHalt t src s
  | .nop t src => Sys2Proof.Machine.execNop t src s
  | .resume t src => Sys2Proof.Machine.execResume t src s
  | .abandon t src => Sys2Proof.Machine.execAbandon t src s
  | .launch t target => Sys2Proof.Machine.execLaunch t target s
  | .retire t n => Sys2Proof.Machine.execRetire t n s
  | .pendingSignal t ring => Sys2Proof.Machine.execPendingSignal t ring s
  | .programHalted t => Sys2Proof.Machine.execProgramHalted t s
  | .run t v => Sys2Proof.Machine.execRun t v s
  | .stop t v => Sys2Proof.Machine.execStop t v s
  | .tileMemoryWrite a d strb => Sys2Proof.Machine.execTileMemoryWrite a d strb s
  | .readRequest t residueOk => Sys2Proof.Machine.execReadRequest t residueOk s
  | .writeRequest t residueOk => Sys2Proof.Machine.execWriteRequest t residueOk s
  | .walkEnd t n side ecc => Sys2Proof.Machine.execWalkEnd t n side ecc s
  | .emit t n side ecc => Sys2Proof.Machine.execEmit t n side ecc s
  | .addi t n side ecc => Sys2Proof.Machine.execAddi t n side ecc s
  | .adda t n side ecc => Sys2Proof.Machine.execAdda t n side ecc s
  | .ldi t n side ecc => Sys2Proof.Machine.execLdi t n side ecc s
  | .cset t n side ecc => Sys2Proof.Machine.execCset t n side ecc s
  | .rep t n side ecc => Sys2Proof.Machine.execRep t n side ecc s
  | .repr t n side ecc => Sys2Proof.Machine.execRepr t n side ecc s
  | .idx t n side ecc => Sys2Proof.Machine.execIdx t n side ecc s
  | .scan t n side ecc => Sys2Proof.Machine.execScan t n side ecc s
  | .apply t => Sys2Proof.Machine.execApply t s
  | .layoutApplied t => Sys2Proof.Machine.execLayoutApplied t s
  | .readResponse k ecc => Sys2Proof.Machine.execReadResponse k ecc s
  | .tileDatapath t => Sys2Proof.Machine.execTileDatapath t s
  | .calibrationWindow t n => Sys2Proof.Machine.execCalibrationWindow t n s
  | .signatureCompare t n agree => Sys2Proof.Machine.execSignatureCompare t n agree s
  | .writeAcknowledgement k => Sys2Proof.Machine.execWriteAcknowledgement k s
  | .lastFlitSend t n check => Sys2Proof.Machine.execLastFlitSend t n check s
  | .bankWrite k => Sys2Proof.Machine.execBankWrite k s
  | .bankRead k ecc => Sys2Proof.Machine.execBankRead k ecc s
  | .accApply k => Sys2Proof.Machine.execAccApply k s
  | .discard k => Sys2Proof.Machine.execDiscard k s
  | .chunkCommit t n => Sys2Proof.Machine.execChunkCommit t n s
  | .signalApply k check => Sys2Proof.Machine.execSignalApply k check s
  | .watchRegistration k => Sys2Proof.Machine.execWatchRegistration k s
  | .watchRegistrationRetry t k => Sys2Proof.Machine.execWatchRegistrationRetry t k s
  | .watchDelivery k => Sys2Proof.Machine.execWatchDelivery k s
  | .watchWithdrawal k => Sys2Proof.Machine.execWatchWithdrawal k s
  | .timedSignal timer => Sys2Proof.Machine.execTimedSignal timer s
  | .timerArm w => Sys2Proof.Machine.execTimerArm w s
  | .expressUpdate => Sys2Proof.Machine.execExpressUpdate s
  | .ldValue c v => Sys2Proof.Machine.execLdValue c v s
  | .ldAdd c v => Sys2Proof.Machine.execLdAdd c v s
  | .ldAtom c => Sys2Proof.Machine.execLdAtom c s
  | .ldCfg c v => Sys2Proof.Machine.execLdCfg c v s
  | .ldCtx x k v => Sys2Proof.Machine.execLdCtx x k v s
  | .ldXvalue e v => Sys2Proof.Machine.execLdXvalue e v s
  | .ldXadd e v => Sys2Proof.Machine.execLdXadd e v s
  | .ldHwCmdGo v => Sys2Proof.Machine.execLdHwCmdGo v s
  | .ldHwCmdCancel v => Sys2Proof.Machine.execLdHwCmdCancel v s
  | .barrierArrival k => Sys2Proof.Machine.execBarrierArrival k s
  | .releaseDelivery k => Sys2Proof.Machine.execReleaseDelivery k s
  | .bsCfg b v => Sys2Proof.Machine.execBsCfg b v s
  | .bsArrive v => Sys2Proof.Machine.execBsArrive v s
  | .bsReset v => Sys2Proof.Machine.execBsReset v s
  | .pgLoad v => Sys2Proof.Machine.execPgLoad v s
  | .timebaseLoad => Sys2Proof.Machine.execTimebaseLoad s
  | .tbTodLoad tod => Sys2Proof.Machine.execTbTodLoad tod s
  | .tbFsync => Sys2Proof.Machine.execTbFsync s
  | .step => Sys2Proof.Machine.execStep s
  | .slewAdjust => Sys2Proof.Machine.execSlewAdjust s
  | .fsmiss => Sys2Proof.Machine.execFsmiss s
  | .tbMismatch => Sys2Proof.Machine.execTbMismatch s
  | .turnstileGrant p => Sys2Proof.Machine.execTurnstileGrant p s
  | .slackDecrement k => Sys2Proof.Machine.execSlackDecrement k s
  | .ringEnable q => Sys2Proof.Machine.execRingEnable q s
  | .prod q v => Sys2Proof.Machine.execProd q v s
  | .ringFetch => Sys2Proof.Machine.execRingFetch s
  | .fetchResponse q => Sys2Proof.Machine.execFetchResponse q s
  | .fetchRetry q => Sys2Proof.Machine.execFetchRetry q s
  | .dispatch q => Sys2Proof.Machine.execDispatch q s
  | .entryReceipt k => Sys2Proof.Machine.execEntryReceipt k s
  | .completion q k => Sys2Proof.Machine.execCompletion q k s
  | .ownWrite q k => Sys2Proof.Machine.execOwnWrite q k s
  | .doneAdvance q => Sys2Proof.Machine.execDoneAdvance q s
  | .gatehouseRetry q => Sys2Proof.Machine.execGatehouseRetry q s
  | .messageWrite v => Sys2Proof.Machine.execMessageWrite v s
  | .systemPortRequest n k => Sys2Proof.Machine.execSystemPortRequest n k s
  | .translationAnswer n id pa size perm fault => Sys2Proof.Machine.execTranslationAnswer n id pa size perm fault s
  | .systemPortResponse n tag idx code data last => Sys2Proof.Machine.execSystemPortResponse n tag idx code data last s
  | .responseTimeout r => Sys2Proof.Machine.execResponseTimeout r s
  | .invalidation n all va part => Sys2Proof.Machine.execInvalidation n all va part s
  | .invalidationComplete n => Sys2Proof.Machine.execInvalidationComplete n s
  | .windowPortRequest l head addr len data => Sys2Proof.Machine.execWindowPortRequest l head addr len data s
  | .registerWrite a d strb => Sys2Proof.Machine.execRegisterWrite a d strb s
  | .registerPairLoRead a => Sys2Proof.Machine.execRegisterPairLoRead a s
  | .registerPairHiWrite a d => Sys2Proof.Machine.execRegisterPairHiWrite a d s
  | .registerPairLoWrite a d => Sys2Proof.Machine.execRegisterPairLoWrite a d s
  | .tlSrSeed t d => Sys2Proof.Machine.execTlSrSeed t d s
  | .ghCompat d => Sys2Proof.Machine.execGhCompat d s
  | .sealChange a d => Sys2Proof.Machine.execSealChange a d s
  | .rstN => Sys2Proof.Machine.execRstN s
  | .bootStart hostfeed => Sys2Proof.Machine.execBootStart hostfeed s
  | .discovery words => Sys2Proof.Machine.execDiscovery words s
  | .header ws => Sys2Proof.Machine.execHeader ws s
  | .bootTimeout => Sys2Proof.Machine.execBootTimeout s
  | .ghBootFeed w => Sys2Proof.Machine.execGhBootFeed w s
  | .regs ws => Sys2Proof.Machine.execRegs ws s
  | .progSection ws => Sys2Proof.Machine.execProgSection ws s
  | .desc ws => Sys2Proof.Machine.execDesc ws s
  | .ctx ws => Sys2Proof.Machine.execCtx ws s
  | .seal ws => Sys2Proof.Machine.execSeal ws s
  | .start ws => Sys2Proof.Machine.execStart ws s
  | .write => Sys2Proof.Machine.execWrite s
  | .pollset => Sys2Proof.Machine.execPollset s
  | .pollclr => Sys2Proof.Machine.execPollclr s
  | .delay => Sys2Proof.Machine.execDelay s
  | .go p v => Sys2Proof.Machine.execGo p v s
  | .pllLock p => Sys2Proof.Machine.execPllLock p s
  | .lockfail p => Sys2Proof.Machine.execLockfail p s
  | .monitorWindow k count => Sys2Proof.Machine.execMonitorWindow k count s
  | .up d => Sys2Proof.Machine.execUp d s
  | .down d => Sys2Proof.Machine.execDown d s
  | .retain d => Sys2Proof.Machine.execRetain d s
  | .reset d => Sys2Proof.Machine.execReset d s
  | .quiesceAck d => Sys2Proof.Machine.execQuiesceAck d s
  | .routerConfirmation d => Sys2Proof.Machine.execRouterConfirmation d s
  | .quiesceTimeout d => Sys2Proof.Machine.execQuiesceTimeout d s
  | .pwAck d level => Sys2Proof.Machine.execPwAck d level s
  | .ackTimeout d => Sys2Proof.Machine.execAckTimeout d s
  | .isolationRelease d => Sys2Proof.Machine.execIsolationRelease d s
  | .resetRelease d => Sys2Proof.Machine.execResetRelease d s
  | .lockstepMismatch t recent under => Sys2Proof.Machine.execLockstepMismatch t recent under s
  | .linkResend p good => Sys2Proof.Machine.execLinkResend p good s
  | .scrubAccess loc ecc => Sys2Proof.Machine.execScrubAccess loc ecc s
  | .scrublate => Sys2Proof.Machine.execScrublate s
  | .watchdogTick => Sys2Proof.Machine.execWatchdogTick s
  | .watchdog k => Sys2Proof.Machine.execWatchdog k s
  | .faultLogRead j => Sys2Proof.Machine.execFaultLogRead j s
  | .tbTick => Sys2Proof.Machine.execTbTick s
  | .signalAcknowledgement k => Sys2Proof.Machine.execSignalAcknowledgement k s
  | .overrunAnswer k => Sys2Proof.Machine.execOverrunAnswer k s
  | .retryLater k => Sys2Proof.Machine.execRetryLater k s

end Sys2Proof.Machine
end

