-- ==== Sys2Proof/Safety.lean ====
section
/-! DEFINITION. What a safe run of the block is, and the observations that the statements are made of: which parts of the
state a step leaves as they were, and when a command finds what it acts on. -/

namespace Sys2Proof

open Sys2Proof.Machine

/-- The outcome of a step. -/
abbrev Outcome := Host.Outcome State Fault Refusal

/-- A step that neither faults nor is refused: the outcome is a next state. -/
def Completes (o : Outcome) : Prop := ∃ t, o = .next t

/-- A step is safe in a state when it completes. -/
def SafeStep (s : State) : Prop := Completes (Machine.step s)

/-- A command's operand, where the checks of what it reads find nothing. -/
abbrev good {α : Type} (x : α) : Checked α := { it := x, ecc := .clean }

/-- An update's operand, where its checks find nothing. -/
abbrev sound {α : Type} (x : α) : Updating α := { it := x, check := { ecc := .clean, lost := [], agree := true } }

/-! ## Frames -/

/-- Nothing but tile `t` differs. -/
def OnlyTile (s u : State) (t : Nat) : Prop :=
  u = { s with tiles := u.tiles } ∧ ∀ j, j ≠ t → u.tile j = s.tile j

/-- Nothing but tile `t` and the messages in flight differ. -/
def OnlyTileNet (s u : State) (t : Nat) : Prop :=
  u = { s with tiles := u.tiles, prom := { s.prom with net := u.prom.net } } ∧ ∀ j, j ≠ t → u.tile j = s.tile j

/-- Nothing but tile `t` differs, and the messages `ms` have left. -/
def OnlyTileSends (s u : State) (t : Nat) (ms : List Msg) : Prop := OnlyTileNet s u t ∧ u.prom.net = s.prom.net ++ ms

/-- Nothing but the messages in flight differs. -/
def OnlyNet (s u : State) : Prop := u = { s with prom := { s.prom with net := u.prom.net } }

/-- Every byte of scratchpad reads as before. -/
def SameBytes (s u : State) : Prop := ∀ o, memByte u.spad.mem o = memByte s.spad.mem o

/-- Every byte of scratchpad reads as before but the `n` bytes from window offset `o`, which read `bs`. -/
def Stored (s u : State) (o : Nat) (bs : List Byte) : Prop :=
  ∀ a, memByte u.spad.mem a = if o ≤ a ∧ a < o + bs.length then bs.getD (a - o) 0 else memByte s.spad.mem a

/-! ## The head of a source -/

/-- Instruction `hd` is next to issue from a source of a running tile, no issue check of it fails, and no staging layout is
pending. -/
def Offered (s : State) (t : Nat) (src : Source) (hd : Head) : Prop :=
  coreRuns s t = true ∧ headOf (s.tile t) src = some hd ∧ (s.tile t).stgPending = none
  ∧ issueCode s t hd.line (Source.isRing src) = none ∧ jobParked s t hd.entry = false

/-- The next instruction of a source launches as it issues: it has DEP = 0 and LAUNCH = 0, and every earlier instruction of the
source has launched (R43, R51). -/
def Unheld (s : State) (t : Nat) (src : Source) (l : Line) : Prop :=
  iDep l = false ∧ iLaunch l = 0
  ∧ (∀ p ∈ (s.tile t).streams, p.2.src = src → p.2.ord ≤ ((s.tile t).source src).ord → p.2.launched = true)
  ∧ ∀ i ∈ (s.tile t).issued, i.src = src → ((s.tile t).source src).ord < i.ord

/-- An instruction that neither DEP nor LAUNCH holds. -/
def Freed (l : Line) : Prop := iDep l = false ∧ iLaunch l = 0

/-- A program instruction of row `r` is next to issue, passes its checks, and neither DEP nor LAUNCH holds it. -/
def ProgReady (s : State) (t : Nat) (hd : Head) (r : Row) : Prop :=
  Offered s t .prog hd ∧ Freed hd.line ∧ rowOf hd.line = r

/-- The messages that leave when a head does: of a ring's entry its acceptance goes to the gatehouse. -/
def Acceptance (hd : Head) (ms : List Msg) : Prop :=
  match hd.entry with
  | none => ms = []
  | some e => ∃ m, ms = [m] ∧ m.cls = .control ∧ m.dst = .gate ∧ m.body = .accepted e

/-- The tile after its program's head has left: the source has issued one instruction more. -/
def issuedProg (x : Tile) : Tile :=
  { x with fetched := none, prog := { ord := x.prog.ord + 1, hold := .none, issueWait := 0 } }

/-- The outcome is a next state in which register `d` holds `v` (g0 keeps reading 0), the head has left, and nothing else has
changed. -/
def SetsReg (s : State) (t d : Nat) (v : DWord) (o : Outcome) : Prop :=
  ∃ u, o = .next u ∧ OnlyTile s u t
    ∧ (∀ n, (u.tile t).greg n = if n = d ∧ n ≠ 0 then v else (s.tile t).greg n)
    ∧ u.tile t = { issuedProg (s.tile t) with g := (u.tile t).g }

/-- The outcome is a next state in which the head has left, the program counter is `pc`, issue is stopping where it was or
where `stop` says so, and nothing else has changed. -/
def MovesPc (s : State) (t pc : Nat) (stop : Bool) (o : Outcome) : Prop :=
  ∃ u, o = .next u ∧ OnlyTile s u t
    ∧ u.tile t = { issuedProg (s.tile t) with pc := pc, stopping := stop || (s.tile t).stopping }

/-! ## Captures, the fault log and events -/

/-- `TL_FAULT` takes a fault of stream `n` with a code at a program counter where its VALID was 0, and keeps an earlier one;
`TL_FAULT_COUNT` goes up to its limit (R76). -/
def FaultCaptured (x y : Tile) (n code pc : Nat) : Prop :=
  y.faultCount = satInc x.faultCount ∧ (bit x.fault 31 = true → y.fault = x.fault)
  ∧ (bit x.fault 31 = false → y.fault = 0x80000000 ||| atN n 27 ||| atN code 10 ||| atN pc 0)

/-- `TL_WALK_ERR` and `TL_WALK_ERR_ADDR` take an error of stream `n` where VALID was 0, and keep an earlier one; it is counted
(R108). -/
def WalkCaptured (x y : Tile) (side : Side) (n cause code wpc : Nat) (addr : DWord) : Prop :=
  y.walkErrCount = satInc x.walkErrCount
  ∧ (bit x.walkErr 31 = true → y.walkErr = x.walkErr ∧ y.walkErrAddr = x.walkErrAddr)
  ∧ (bit x.walkErr 31 = false → y.walkErrAddr = addr
      ∧ y.walkErr = 0x80000000 ||| at1 (decide (side = .write)) 30 ||| atN n 27 ||| atN cause 20 ||| atN code 12 ||| atN wpc 0)

/-- Event `e` is recorded in `GH_EVSTAT`, with what it is about and its count, while the gatehouse and its clock run (R332). -/
def Heard (s u : State) (e t n ring detail : Nat) : Prop :=
  s.active (GenConfig.domFixed s.gen 6) = true → 4 ∉ s.cpc.stopped →
    bit u.gate.evstat e = true ∧ Tab.get u.gate.evinfo 0 e = evInfo t n ring detail
    ∧ Tab.get u.gate.evocc 0 e = satInc (Tab.get s.gate.evocc 0 e)

/-- The next entry of the fault log, not read yet, holds a fault: its class, mechanism, unit and index; stream, code and detail;
address; time; and sequence number (R431). -/
def Logged (s u : State) (cls mech unit index stream code detail : Nat) (addr : DWord) (seq : Word) : Prop :=
  Tab.get u.keeper.log LogEntry.init s.keeper.next = { read := false, ws :=
      [0x80000000 ||| atN cls 29 ||| atN mech 24 ||| atN unit 20 ||| atN index 0,
        atN stream 29 ||| atN code 16 ||| atN detail 0, addr.extractLsb' 0 32, addr.extractLsb' 32 32,
        s.pg.time.extractLsb' 0 32, s.pg.time.extractLsb' 32 32, seq] }
  ∧ u.keeper.next = (s.keeper.next + 1) % 64

/-! ## Bounds -/

/-- What the block counts stays within what it has: the fault log has 64 entries (R431), no seal group has had more than three
changes (R378), and no more than four places of an input queue are taken (R322). -/
def Bounded (s : State) : Prop :=
  s.keeper.next < 64 ∧ s.keeper.count ≤ 64 ∧ (∀ g, Tab.get s.always.used 0 g ≤ 3) ∧ ∀ t k, seatsTaken s t k ≤ 4

/-! ## Walker programs -/

/-- Word `i` is next for the walker program of a side of stream `n`: the stream is launched, neither parked nor ending, the
program has not ended, it is not past a position that an error blocks, and the scrubber has found no error in the word. -/
def WalkerReady (s : State) (t n : Nat) (side : Side) (st : Stream) (i : Word) : Prop :=
  s.stream? t n = some st ∧ coreRuns s t = true ∧ st.live = true ∧ st.usesProg side = true
  ∧ (st.walker side).ended = false ∧ st.walkPast side = false ∧ (st.walker side).pc ≤ 4095
  ∧ Tab.get (s.tile t).wpm 0 (st.walker side).pc = i ∧ ∀ j, ScrubLoc.wpm j (st.walker side).pc ∉ (s.tile t).badWords

/-- Runs of a side that wait for their requests. -/
def runsOf (st : Stream) : Side → List Run
  | .read => st.rdRuns
  | .write => st.wrRuns

/-- The outcome is a next state in which stream `n` has the walker and the further runs that `P` says; no other stream, no
general register and no byte has changed. -/
def WalkerSteps (s : State) (t n : Nat) (side : Side) (st : Stream) (o : Outcome) (P : Walker → List Run → Prop) : Prop :=
  ∃ u st' runs, o = .next u ∧ u.stream? t n = some st' ∧ runsOf st' side = runsOf st side ++ runs
    ∧ P (st'.walker side) runs ∧ (∀ m, m ≠ n → u.stream? t m = s.stream? t m) ∧ (u.tile t).g = (s.tile t).g
    ∧ u.spad = s.spad

/-- Where a walker goes after an instruction that does not loop: to `pc`, or back to the start of a REPEAT body that ends
there with runs left. -/
def GoesTo (w w' : Walker) (pc : Nat) : Prop := (w'.stack, w'.pc) = loopBack w.stack pc

/-- Only the address register `k` of a walker changes, to `v`. -/
def SetsAddr (w w' : Walker) (k : Nat) (v : DWord) : Prop := ∀ j, w'.reg j = if j = k then v else w.reg j

/-- The outcome is a next state in which stream `n` is `st'` as `P` says; no other stream, no general register and no byte has
changed. -/
def StreamBecomes (s : State) (t n : Nat) (o : Outcome) (P : State → Stream → Prop) : Prop :=
  ∃ u st', o = .next u ∧ u.stream? t n = some st' ∧ P u st' ∧ (∀ m, m ≠ n → u.stream? t m = s.stream? t m)
    ∧ (u.tile t).g = (s.tile t).g ∧ u.spad = s.spad

/-! ## The control port -/

/-- An access to address `a` reaches register `r`: `rst_n` is 1, no earlier access is unanswered and the register's unit answers. -/
def Reaches (s : State) (a : Nat) (r : CpReg) : Prop :=
  s.cp.inReset = false ∧ s.cp.busy = false ∧ regAt s.gen a = some r ∧ reachable s a r = true

/-- The state with the answer of a good write on the control port. -/
def answered (s : State) : State := { s with cp := { s.cp with err := false } }

end Sys2Proof
end

