-- ==== Sys2Proof/Certificates/Slice0/Obligations.lean ====
section
/-! DEFINITION. The statements of this model, family by family: what each command does in the states where it has its effect,
and what it leaves as it was. An obligation that covers several rows is the conjunction of the claims it names. -/

open Sys2Proof Sys2Proof.Machine

/-! ## The queue and the whole machine -/

/-- One step takes the command at the front of the queue and runs it on the state with the queue's rest. -/
def Obligations.StepRunsFront : Prop :=
  ∀ (s : State) (c : Instr) (rest : List Instr),
    step { s with pending := c :: rest } = exec c { s with pending := rest }

/-- With no command waiting the block idles: the state stays as it is (DESIGN CHOICE, log 7). -/
def Obligations.EmptyQueueIdles : Prop := ∀ s : State, s.pending = [] → step s = .next s

/-- After reset the scratchpads list nothing, which is the canonical form, and what the block counts is within its bounds. That
a byte not written reads 0 is the model's choice (log 3). -/
def Obligations.ResetMemoryCanonical : Prop :=
  Memory.wf State.reset.spad.mem = true ∧ (∀ o, memByte State.reset.spad.mem o = 0) ∧ Bounded State.reset

/-- Every step keeps the scratchpad memory in its canonical form: offsets strictly rising, and no byte listed that an
unlisted offset reads as. -/
def Obligations.StepKeepsMemoryCanonical : Prop :=
  ∀ s u : State, Memory.wf s.spad.mem = true → step s = .next u → Memory.wf u.spad.mem = true

/-- No command changes the generated configuration, and none puts a command in the queue: a step consumes exactly the
command at the front. -/
def Sys2Proof.Claims.StepKeepsConfig : Prop :=
  ∀ s u : State, step s = .next u → u.gen = s.gen ∧ u.pending = s.pending.tail

/-- Every step keeps what the block counts within its bounds: the fault log within its 64 entries, the counted changes of a seal
group within three, and the queued entries of an input queue within four. -/
def Sys2Proof.Claims.StepKeepsBounds : Prop :=
  ∀ s u : State, Bounded s → step s = .next u → Bounded u

/-- Every step keeps the generated configuration, takes exactly the front command from the queue, and keeps the fault log, the
counted changes of a seal group and the queued entries of an input queue within their bounds (R322, R378, R431). -/
def Obligations.StepKeepsConfigAndQueue : Prop := Sys2Proof.Claims.StepKeepsConfig ∧ Sys2Proof.Claims.StepKeepsBounds

/-! ## Mover instructions: SET, branches, HALT and NOP -/

/-- ADD, SUB, AND, OR, XOR, SHL, SHR and RDTIME write g[D]: op2 is g[B] + IMM modulo 2^64, a shift takes its amount modulo
64, RDTIME the local copy of the timebase; a write to g0 is discarded; nothing else changes. They do so at issue, whatever earlier
instruction of the source has not launched (R61). -/
def Sys2Proof.Claims.SetWritesRegister : Prop :=
  ∀ (s : State) (t : Nat) (hd : Head),
    let l := hd.line
    let x := s.tile t
    let a := x.greg (iSetA l)
    let b := x.greg (iSetB l) + iImm l
    let d := iSetD l
    (ProgReady s t hd .add → SetsReg s t d (a + b) (exec (.add t (good .prog)) s))
    ∧ (ProgReady s t hd .sub → SetsReg s t d (a - b) (exec (.sub t (good .prog)) s))
    ∧ (ProgReady s t hd .and → SetsReg s t d (a &&& b) (exec (.and t (good .prog)) s))
    ∧ (ProgReady s t hd .or → SetsReg s t d (a ||| b) (exec (.or t (good .prog)) s))
    ∧ (ProgReady s t hd .xor → SetsReg s t d (a ^^^ b) (exec (.xor t (good .prog)) s))
    ∧ (ProgReady s t hd .shl → SetsReg s t d (a <<< (b.toNat % 64)) (exec (.shl t (good .prog)) s))
    ∧ (ProgReady s t hd .shr → SetsReg s t d (a >>> (b.toNat % 64)) (exec (.shr t (good .prog)) s))
    ∧ (ProgReady s t hd .rdtime → SetsReg s t d s.pg.time (exec (.rdtime t (good .prog)) s))

/-- TDW and ODW write the two table words that hold 64-bit word WI of entry TI, with g[A] + (g[B] + IMM); no other word of the
tables, no register and nothing else changes. -/
def Sys2Proof.Claims.SetWritesTables : Prop :=
  ∀ (s : State) (t : Nat) (hd : Head),
    let l := hd.line
    let x := s.tile t
    let v := x.greg (iSetA l) + (x.greg (iSetB l) + iImm l)
    (ProgReady s t hd .tdw →
      ∃ u, exec (.tdw t (good .prog)) s = .next u ∧ OnlyTile s u t
        ∧ (∀ k, Tab.get (u.tile t).tdt 0 k =
            if k = 32 * iTi l + 2 * iWi l then v.extractLsb' 0 32
            else if k = 32 * iTi l + 2 * iWi l + 1 then v.extractLsb' 32 32 else Tab.get x.tdt 0 k)
        ∧ u.tile t = { issuedProg x with tdt := (u.tile t).tdt, badWords := (u.tile t).badWords }
        ∧ ∀ b ∈ (u.tile t).badWords, b ∈ x.badWords)
    ∧ (ProgReady s t hd .odw →
      ∃ u, exec (.odw t (good .prog)) s = .next u ∧ OnlyTile s u t
        ∧ (∀ k, Tab.get (u.tile t).odt 0 k =
            if k = 16 * iTi l + 2 * iWi l then v.extractLsb' 0 32
            else if k = 16 * iTi l + 2 * iWi l + 1 then v.extractLsb' 32 32 else Tab.get x.odt 0 k)
        ∧ u.tile t = { issuedProg x with odt := (u.tile t).odt, badWords := (u.tile t).badWords }
        ∧ ∀ b ∈ (u.tile t).badWords, b ∈ x.badWords)

/-- g0 reads 0 in every state; a SET instruction that names it as its destination changes nothing but that it has issued, and a
control-port write of either half of it changes nothing. -/
def Obligations.RegisterZero : Prop :=
  ∀ (s : State) (t : Nat), (s.tile t).greg 0 = 0
    ∧ (∀ hd r c, (r, c) ∈ [(Row.add, Instr.add t (good .prog)), (.sub, .sub t (good .prog)), (.and, .and t (good .prog)), (.or, .or t (good .prog)),
          (.xor, .xor t (good .prog)), (.shl, .shl t (good .prog)), (.shr, .shr t (good .prog)), (.rdtime, .rdtime t (good .prog))] →
        ProgReady s t hd r → iSetD hd.line = 0 →
        ∃ u, exec c s = .next u ∧ OnlyTile s u t ∧ u.tile t = issuedProg (s.tile t))
    ∧ ∀ (a : BitVec 26) (d : Word) (hi : Bool), Reaches s a.toNat (.tile t (.g 0 hi)) →
        exec (.registerWrite a d 15) s = .next (answered s)

/-- Whether a BR of condition `c` is taken on g[A] = `a` and op2 = `b`: 0 equal, 1 not equal, 2 and 3 unsigned less and
not less, 4 and 5 the same signed. -/
def Sys2Proof.brTaken (c : Nat) (a b : DWord) : Prop :=
  (c = 0 ∧ a = b) ∨ (c = 1 ∧ a ≠ b) ∨ (c = 2 ∧ a.toNat < b.toNat) ∨ (c = 3 ∧ b.toNat ≤ a.toNat)
  ∨ (c = 4 ∧ a.toInt < b.toInt) ∨ (c = 5 ∧ b.toInt ≤ a.toInt)

/-- JMP and a taken BR continue at TARGET; a BR not taken and NOP continue with the next instruction; HALT stops issue. None
of them changes anything else. A NOP launches so once every earlier instruction of the source has. -/
def Obligations.BranchesMovePc : Prop :=
  ∀ (s : State) (t : Nat) (hd : Head),
    let l := hd.line
    let x := s.tile t
    let b := x.greg (iBrB l) + iImm l
    (ProgReady s t hd .jmp → MovesPc s t (iTarget l) false (exec (.jmp t (good .prog)) s))
    ∧ (ProgReady s t hd .br → brTaken (iBrCond l) (x.greg (iBrA l)) b →
        MovesPc s t (iTarget l) false (exec (.br t (good .prog)) s))
    ∧ (ProgReady s t hd .br → ¬ brTaken (iBrCond l) (x.greg (iBrA l)) b → MovesPc s t x.pc false (exec (.br t (good .prog)) s))
    ∧ (ProgReady s t hd .nop → Unheld s t .prog l → MovesPc s t x.pc false (exec (.nop t (good .prog)) s))
    ∧ (ProgReady s t hd .halt → MovesPc s t x.pc true (exec (.halt t (good .prog)) s))

/-! ## Mover instructions that hold, queue and fence -/

/-- Row and command of an instruction that issues without a stream. -/
def Sys2Proof.simpleCmd (t : Nat) (src : Source) : Row → Option Instr
  | .sig => some (.sig t (good src)) | .waitGe => some (.waitGe t (good src)) | .waitEq => some (.waitEq t (good src))
  | .waitAcquire => some (.waitAcquire t (good src)) | .waitClaim => some (.waitClaim t (good src)) | .fence => some (.fence t (good src))
  | .bar => some (.bar t (good src)) | .add => some (.add t (good src)) | .sub => some (.sub t (good src)) | .and => some (.and t (good src))
  | .or => some (.or t (good src)) | .xor => some (.xor t (good src)) | .shl => some (.shl t (good src)) | .shr => some (.shr t (good src))
  | .tdw => some (.tdw t (good src)) | .odw => some (.odw t (good src)) | .rdtime => some (.rdtime t (good src)) | .jmp => some (.jmp t (good src))
  | .br => some (.br t (good src)) | .halt => some (.halt t (good src)) | .nop => some (.nop t (good src))
  | _ => none

/-- SIG and BAR that launch as they issue enter the pending-signal queue of their source, behind what is queued, with the
counter, the amount g[VREG] + VALUE and the scope captured then, or with the barrier; while the queue holds four entries the
instruction stays at the head. -/
def Sys2Proof.Claims.SignalsQueue : Prop :=
  ∀ (s : State) (t : Nat) (src : Source) (hd : Head),
    let l := hd.line
    let q := (s.tile t).pend (Source.isRing src)
    Offered s t src hd →
    (Unheld s t src l → rowOf l = .sig → q.length < 4 → ∀ c, cidOf s t l = some c →
      ∃ u p a, exec (.sig t (good src)) s = .next u ∧ Acceptance hd a ∧ OnlyTileSends s u t a ∧ (u.tile t).pend (Source.isRing src) = q ++ [p]
        ∧ p.src = src ∧ p.ord = ((s.tile t).source src).ord + 1 ∧ p.line = l ∧ p.entry = hd.entry ∧ p.isBar = false
        ∧ p.cid = c.2 ∧ p.express = c.1 ∧ p.scope = iScope l ∧ p.sent = false
        ∧ p.value = BitVec.ofNat 32 ((s.tile t).greg (iVreg l)).toNat + BitVec.ofNat 32 (iValue l)
        ∧ ((u.tile t).source src).hold = .none)
    ∧ (Unheld s t src l → rowOf l = .bar → q.length < 4 →
      ∃ u p a, exec (.bar t (good src)) s = .next u ∧ Acceptance hd a ∧ OnlyTileSends s u t a ∧ (u.tile t).pend (Source.isRing src) = q ++ [p]
        ∧ p.src = src ∧ p.ord = ((s.tile t).source src).ord + 1 ∧ p.isBar = true ∧ p.cid = iBarid l ∧ p.scope = iScope l
        ∧ p.wrel = iWrel l ∧ p.sent = false
        ∧ (iWrel l = false → ((u.tile t).source src).hold = .none)
        ∧ (iWrel l = true → ∃ b, ((u.tile t).source src).hold = .bar b ∧ b.bar = iBarid l ∧ b.ord = p.ord))
    ∧ (rowOf l = .sig ∨ rowOf l = .bar → 4 ≤ q.length → ∀ c, simpleCmd t src (rowOf l) = some c →
      ∃ u, exec c s = .next u ∧ OnlyTile s u t ∧ headOf (u.tile t) src = some hd
        ∧ (u.tile t).pend (Source.isRing src) = q ∧ (u.tile t).g = (s.tile t).g)

/-- The counter command of a WAIT row. -/
def Sys2Proof.waitCode : Row → Option Nat
  | .waitGe => some 0
  | .waitEq => some 1
  | .waitAcquire => some 2
  | .waitClaim => some 3
  | _ => none

/-- A SIG or BAR that its source is held at enters the pending-signal queue, behind what is queued, and frees the source at its
launch: its conditions have fired, its launch time is reached, every earlier instruction of the source has launched and the
queue has room. With four entries queued it stays held. -/
def Sys2Proof.Claims.HeldSignalLaunches : Prop :=
  ∀ (s : State) (t : Nat) (src : Source) (h : HeldInstr),
    let q := (s.tile t).pend (Source.isRing src)
    coreRuns s t = true → ((s.tile t).source src).hold = .instr h → rowOf h.line = .sig ∨ rowOf h.line = .bar →
    condsHeld h.launch = true → timeHeld s h.launch = true → jobParked s t h.entry = false →
    (∀ p ∈ (s.tile t).streams, p.2.src = src → p.2.ord < ((s.tile t).source src).ord → p.2.launched = true) →
    (∀ i ∈ (s.tile t).issued, i.src ≠ src) →
    (q.length < 4 → ∃ u p, exec (.launch t (.source src)) s = .next u ∧ OnlyTile s u t
      ∧ (u.tile t).pend (Source.isRing src) = q ++ [p] ∧ p.src = src ∧ p.ord = ((s.tile t).source src).ord
      ∧ p.line = h.line ∧ p.entry = h.entry ∧ p.isBar = decide (rowOf h.line = .bar) ∧ p.sent = false
      ∧ (rowOf h.line = .sig → p.cid = h.cid ∧ p.express = h.express ∧ p.scope = iScope h.line
          ∧ p.value = h.opA.extractLsb' 0 32 + BitVec.ofNat 32 (iValue h.line))
      ∧ (rowOf h.line = .bar → p.cid = iBarid h.line ∧ p.wrel = iWrel h.line)
      ∧ (rowOf h.line = .sig ∨ iWrel h.line = false → ((u.tile t).source src).hold = .none))
    ∧ (4 ≤ q.length → ∃ u h', exec (.launch t (.source src)) s = .next u ∧ OnlyTile s u t
      ∧ ((u.tile t).source src).hold = .instr h' ∧ h'.line = h.line ∧ (u.tile t).pend (Source.isRing src) = q)

/-- A WAIT on a counter that is not express holds its source, and its registration leaves for the counter's home bank: GE,
EQ, ACQUIRE or CLAIM, with the operand g[TREG] + VALUE. Registers and scratchpad stay as they are. -/
def Sys2Proof.Claims.WaitRegistersWatch : Prop :=
  ∀ (s : State) (t : Nat) (src : Source) (hd : Head) (c : Instr) (k cid : Nat),
    let l := hd.line
    Offered s t src hd → Unheld s t src l → waitCode (rowOf l) = some k → simpleCmd t src (rowOf l) = some c →
    cidOf s t l = some (false, cid) →
    ∃ u w m r a, exec c s = .next u ∧ OnlyTileNet s u t ∧ (u.tile t).g = (s.tile t).g ∧ Acceptance hd a
      ∧ ((u.tile t).source src).hold = .wait w ∧ w.ord = ((s.tile t).source src).ord + 1 ∧ w.cid = cid ∧ w.cond = k
      ∧ w.rreg = iRreg l
      ∧ u.prom.net = s.prom.net ++ a ++ [m] ∧ m.cls = .lodge ∧ m.dst = .lodge (homeBank s cid) ∧ m.body = .watchReg r
      ∧ r.cid = cid ∧ r.cond = k ∧ r.scope = iScope l ∧ r.who.tile = t ∧ r.who.src = src ∧ r.who.ord = w.ord
      ∧ r.operand = BitVec.ofNat 32 ((s.tile t).greg (iTreg l)).toNat + BitVec.ofNat 32 (iValue l)

/-- A WAIT on an express counter whose replica does not satisfy it takes one of the tile's 16 watch slots, or is held in the
tile until a slot frees, and holds its source; no message leaves but a ring entry's acceptance. -/
def Sys2Proof.Claims.WaitTakesExpressSlot : Prop :=
  ∀ (s : State) (t : Nat) (src : Source) (hd : Head) (c : Instr) (k cid : Nat),
    let l := hd.line
    let op := BitVec.ofNat 32 ((s.tile t).greg (iTreg l)).toNat + BitVec.ofNat 32 (iValue l)
    Offered s t src hd → Unheld s t src l → (rowOf l = .waitGe ∧ k = 0) ∨ (rowOf l = .waitEq ∧ k = 1) →
    simpleCmd t src (rowOf l) = some c → cidOf s t l = some (true, cid) →
    (k = 0 → ((Tab.get s.lodge.xval 0 cid) - op).toInt < 0) → (k = 1 → Tab.get s.lodge.xval 0 cid ≠ op) →
    ∃ u w r a, exec c s = .next u ∧ Acceptance hd a ∧ OnlyTileSends s u t a ∧ ((u.tile t).source src).hold = .wait w ∧ w.cid = cid
      ∧ r.cid = cid ∧ r.cond = k ∧ r.operand = op ∧ r.who.src = src ∧ r.who.ord = ((s.tile t).source src).ord + 1
      ∧ ((s.tile t).xwatches.length < 16 →
          (u.tile t).xwatches = (s.tile t).xwatches ++ [r] ∧ (u.tile t).xheld = (s.tile t).xheld)
      ∧ (16 ≤ (s.tile t).xwatches.length →
          (u.tile t).xwatches = (s.tile t).xwatches ∧ (u.tile t).xheld = (s.tile t).xheld ++ [r])

/-- FENCE holds no source: it is noted with its scope and its place in the source's order, behind the fences before it. -/
def Sys2Proof.Claims.FenceIssues : Prop :=
  ∀ (s : State) (t : Nat) (src : Source) (hd : Head),
    Offered s t src hd → Unheld s t src hd.line → rowOf hd.line = .fence →
    ∃ u f a, exec (.fence t (good src)) s = .next u ∧ Acceptance hd a ∧ OnlyTileSends s u t a ∧ (u.tile t).fences = (s.tile t).fences ++ [f]
      ∧ f.src = src ∧ f.ord = ((s.tile t).source src).ord + 1 ∧ f.scope = iScope hd.line ∧ f.line = hd.line
      ∧ ((u.tile t).source src).hold = .none ∧ ((u.tile t).source src).ord = f.ord ∧ (u.tile t).g = (s.tile t).g
      ∧ (u.tile t).streams = (s.tile t).streams

/-- The first fence of a source completes when the tile holds no stream of the source issued before it and no write of such
a stream is still in flight or at a port: the fence leaves the tile, and a ring entry gets its completion. -/
def Sys2Proof.Claims.FenceCompletes : Prop :=
  ∀ (s : State) (t : Nat) (src : Source) (f : FenceSt),
    coreRuns s t = true → (s.tile t).fences.find? (fun f => decide (f.src = src)) = some f →
    (∀ p ∈ (s.tile t).streams, p.2.src = src → f.ord ≤ p.2.ord) → strayWrites s t src f = false →
    ∃ u, exec (.fenceComplete t src) s = .next u ∧ SameBytes s u ∧ f ∉ (u.tile t).fences
      ∧ (∀ g ∈ (s.tile t).fences, g ≠ f → g ∈ (u.tile t).fences)
      ∧ (∀ e, f.entry = some e → ∃ c ∈ (u.ring e.ring).comps, c.idx = e.idx ∧ c.flags = e.flags ∧ c.phase = .ready)

/-- An instruction without a stream that has a DEP condition or a launch time does not take effect at issue: it holds its source
with its conditions and its register operands captured, and no register, table, program counter, fence, pending signal or byte
changes. -/
def Sys2Proof.Claims.HeldInstructionWaits : Prop :=
  ∀ (s : State) (t : Nat) (src : Source) (hd : Head) (c : Instr),
    Offered s t src hd → ¬ Freed hd.line → simpleCmd t src (rowOf hd.line) = some c →
    (rowOf hd.line = .sig ∨ rowOf hd.line = .bar → ((s.tile t).pend (Source.isRing src)).length < 4) →
    ∃ u h, exec c s = .next u ∧ ((u.tile t).source src).hold = .instr h ∧ h.line = hd.line ∧ h.entry = hd.entry
      ∧ ((u.tile t).source src).ord = ((s.tile t).source src).ord + 1 ∧ h.launch.kind = iLaunch hd.line
      ∧ h.launch.conds.map (fun c => (c.cid, c.express, c.operand, c.scope))
          = (captureConds s t hd.line).map (fun c => (c.cid, c.express, c.operand, c.scope))
      ∧ (iLaunch hd.line = 1 → h.launch.tL = some (iLtime hd.line + (s.tile t).greg (iLreg hd.line)))
      ∧ h.opA = operandA (s.tile t) hd.line (rowOf hd.line) ∧ h.opB = operandB (s.tile t) hd.line (rowOf hd.line)
      ∧ (u.tile t).g = (s.tile t).g ∧ (u.tile t).pc = (s.tile t).pc ∧ (u.tile t).tdt = (s.tile t).tdt
      ∧ (u.tile t).odt = (s.tile t).odt ∧ (u.tile t).fences = (s.tile t).fences
      ∧ (u.tile t).pend (Source.isRing src) = (s.tile t).pend (Source.isRing src) ∧ u.spad = s.spad

/-- SIG, FENCE, NOP and a BAR with WREL = 0 that neither DEP nor LAUNCH holds, behind an instruction of their source that has not
launched, wait for their launch with their operands captured and leave the source free to issue (R43, R58, R59); a WAIT and a BAR
with WREL = 1 hold it. Neither takes effect. -/
def Sys2Proof.Claims.InstructionAwaitsTurn : Prop :=
  ∀ (s : State) (t : Nat) (src : Source) (hd : Head) (c : Instr),
    let x := s.tile t
    let holds := (waitCode (rowOf hd.line)).isSome = true ∨ (rowOf hd.line = .bar ∧ iWrel hd.line = true)
    Offered s t src hd → Freed hd.line → ¬ Unheld s t src hd.line →
    rowOf hd.line ∈ [Row.sig, .bar, .fence, .nop, .waitGe, .waitEq, .waitAcquire, .waitClaim] →
    simpleCmd t src (rowOf hd.line) = some c →
    (rowOf hd.line = .sig ∨ rowOf hd.line = .bar → (x.pend (Source.isRing src)).length < 4) →
    ∃ u h, exec c s = .next u ∧ h.line = hd.line ∧ h.entry = hd.entry
      ∧ h.opA = operandA x hd.line (rowOf hd.line) ∧ h.opB = operandB x hd.line (rowOf hd.line)
      ∧ (holds → ((u.tile t).source src).hold = .instr h ∧ (u.tile t).issued = x.issued)
      ∧ (¬ holds → ((u.tile t).source src).hold = .none
          ∧ (u.tile t).issued = x.issued ++ [{ src := src, ord := (x.source src).ord + 1, held := h }])
      ∧ ((u.tile t).source src).ord = (x.source src).ord + 1
      ∧ (u.tile t).g = x.g ∧ (u.tile t).pc = x.pc ∧ (u.tile t).fences = x.fences
      ∧ (u.tile t).pend (Source.isRing src) = x.pend (Source.isRing src) ∧ u.spad = s.spad

/-- The value that a SET of a row writes to its register: from g[A], op2 = g[B] + IMM and the local time. -/
def Sys2Proof.setOf (a b now : DWord) : Row → Option DWord
  | .add => some (a + b) | .sub => some (a - b) | .and => some (a &&& b) | .or => some (a ||| b) | .xor => some (a ^^^ b)
  | .shl => some (a <<< (b.toNat % 64)) | .shr => some (a >>> (b.toNat % 64)) | .rdtime => some now
  | _ => none

/-- LAUNCH of a held SET, JMP, BR or HALT of the program: every condition has fired and the launch time is reached on a valid,
running timebase. It takes effect on the operands that issue captured, whatever earlier instruction of the source has not launched
(R61; DEDUCED, log 18), and the source is free again. Until then LAUNCH changes nothing. Nothing that was issued before it is
ready to launch. -/
def Sys2Proof.Claims.HeldSetLaunches : Prop :=
  ∀ (s : State) (t : Nat) (h : HeldInstr),
    let x := s.tile t
    let l := h.line
    let op2 := h.opB + iImm l
    let runs := fun (P : Tile → Prop) => ∃ u, exec (.launch t (.source .prog)) s = .next u ∧ (u.tile t).prog.hold = .none ∧ SameBytes s u
      ∧ P (u.tile t)
    coreRuns s t = true → x.prog.hold = .instr h → h.entry = none →
    (∀ i, nextIssued x .prog = some i → issuedReady s t i = false) →
    ((∀ c ∈ h.launch.conds, c.fired = true) →
      (h.launch.kind = 0 ∨ (s.pg.valid = true ∧ s.pg.frozen = false ∧ ∃ tL, h.launch.tL = some tL ∧ tL ≤ s.pg.time)) →
      (∀ v, setOf h.opA op2 s.pg.time (rowOf l) = some v → runs (fun y =>
        (∀ n, y.greg n = if n = iSetD l ∧ n ≠ 0 then v else x.greg n) ∧ y.pc = x.pc ∧ y.tdt = x.tdt ∧ y.odt = x.odt))
      ∧ (rowOf l = .tdw → runs (fun y => y.g = x.g ∧ y.odt = x.odt ∧ ∀ k, Tab.get y.tdt 0 k =
          if k = 32 * iTi l + 2 * iWi l then (h.opA + op2).extractLsb' 0 32
          else if k = 32 * iTi l + 2 * iWi l + 1 then (h.opA + op2).extractLsb' 32 32 else Tab.get x.tdt 0 k))
      ∧ (rowOf l = .odw → runs (fun y => y.g = x.g ∧ y.tdt = x.tdt ∧ ∀ k, Tab.get y.odt 0 k =
          if k = 16 * iTi l + 2 * iWi l then (h.opA + op2).extractLsb' 0 32
          else if k = 16 * iTi l + 2 * iWi l + 1 then (h.opA + op2).extractLsb' 32 32 else Tab.get x.odt 0 k))
      ∧ (rowOf l = .jmp → runs (fun y => y.g = x.g ∧ y.pc = iTarget l))
      ∧ (rowOf l = .br → brTaken (iBrCond l) h.opA op2 → runs (fun y => y.g = x.g ∧ y.pc = iTarget l))
      ∧ (rowOf l = .br → ¬ brTaken (iBrCond l) h.opA op2 → iBrCond l < 6 → runs (fun y => y.g = x.g ∧ y.pc = x.pc))
      ∧ (rowOf l = .halt → runs (fun y => y.g = x.g ∧ y.stopping = true)))
    ∧ ((∃ c ∈ h.launch.conds, c.fired = false) → exec (.launch t (.source .prog)) s = .next s)
    ∧ (h.launch.kind ≠ 0 → s.pg.valid = false → exec (.launch t (.source .prog)) s = .next s)

/-- LAUNCH of a held WAIT, FENCE or NOP whose conditions hold and whose turn has come, or of one that has waited for its turn
behind the source: a WAIT on a counter that is not express registers its watch and holds the source, a FENCE joins the fences, a
NOP ends; the rest of the tile's registers stay. A SIG or BAR that has waited for its turn enters its queue where that has room. -/
def Sys2Proof.Claims.HeldOthersLaunch : Prop :=
  ∀ (s : State) (t : Nat) (src : Source) (h : HeldInstr) (ord : Nat),
    let x := s.tile t
    let l := h.line
    coreRuns s t = true → condsHeld h.launch = true → timeHeld s h.launch = true → turnCome s t src ord h.entry = true →
    ((nextIssued x src = none ∧ (x.source src).hold = .instr h ∧ (x.source src).ord = ord)
      ∨ (nextIssued x src = some { src := src, ord := ord, held := h } ∧ (x.source src).hold = .none)) →
    ∃ u, exec (.launch t (.source src)) s = .next u ∧ SameBytes s u ∧ (rowOf l ∈ [Row.fence, .nop, .waitGe, .waitEq, .waitAcquire,
        .waitClaim, .sig, .bar] → (u.tile t).g = x.g ∧ (u.tile t).pc = x.pc)
      ∧ (rowOf l = .fence → ∃ f, (u.tile t).fences = x.fences ++ [f] ∧ f.src = src ∧ f.ord = ord ∧ f.scope = iScope l
          ∧ ((u.tile t).source src).hold = .none)
      ∧ (rowOf l = .nop → ((u.tile t).source src).hold = .none ∧ ∀ i ∈ (u.tile t).issued, i.src = src → i.ord ≠ ord)
      ∧ (∀ k, waitCode (rowOf l) = some k → h.express = false → ∃ w m r, ((u.tile t).source src).hold = .wait w ∧ w.ord = ord
          ∧ u.prom.net = s.prom.net ++ [m] ∧ m.dst = .lodge (homeBank s h.cid) ∧ m.body = .watchReg r ∧ r.cid = h.cid
          ∧ r.cond = iCond l ∧ r.operand = h.opA.extractLsb' 0 32 + BitVec.ofNat 32 (iValue l) ∧ r.who.ord = ord)
      ∧ (rowOf l = .sig ∨ rowOf l = .bar → (x.pend (Source.isRing src)).length < 4 →
          ∃ p, (u.tile t).pend (Source.isRing src) = x.pend (Source.isRing src) ++ [p] ∧ p.ord = ord ∧ p.line = l ∧ p.sent = false
            ∧ p.isBar = decide (rowOf l = .bar))

/-- A word of a program that breaks an issue check launches nothing: its code is captured in `TL_FAULT` while VALID is 0,
`TL_FAULT_COUNT` goes up to its limit, and the program stops FAULTED; its pending signals stay. -/
def Sys2Proof.Claims.ProgramCheckFaults : Prop :=
  ∀ (s : State) (t : Nat) (hd : Head) (r : Row) (c : Instr) (code : Nat),
    coreRuns s t = true → headOf (s.tile t) .prog = some hd → (s.tile t).stgPending = none →
    issueCode s t hd.line false = some code →
    rowOf hd.line = r ∨ rowOf hd.line = .bad → simpleCmd t .prog r = some c →
    ∃ u, exec c s = .next u ∧ OnlyTile s u t ∧ (u.tile t).seq = .faulted
      ∧ (u.tile t).pendProg = (s.tile t).pendProg ∧ (u.tile t).faultCount = satInc (s.tile t).faultCount ∧ (u.tile t).g = (s.tile t).g
      ∧ (bit (s.tile t).fault 31 = true → (u.tile t).fault = (s.tile t).fault)
      ∧ (bit (s.tile t).fault 31 = false →
          (u.tile t).fault = 0x80000000 ||| BitVec.ofNat 32 (code * 1024) ||| BitVec.ofNat 32 hd.pc)

/-- A MOVE, WALK, RESUME or ABANDON, and any instruction of a ring, that breaks an issue check launches nothing: of the program it
ends FAULTED with its code captured; a ring entry completes with the code, with T_LAUNCH 0, and the program goes on. -/
def Sys2Proof.Claims.FailedIssueEnds : Prop :=
  ∀ (s : State) (t : Nat) (src : Source) (hd : Head) (c : Instr) (code : Nat),
    let x := s.tile t
    let l := hd.line
    let ring := Source.isRing src
    coreRuns s t = true → headOf x src = some hd →
    ((rowOf l = .move ∧ c = .move t (good src) .clean ∨ rowOf l = .walk ∧ c = .walk t (good src) .clean) ∧ x.stgPending = none
        ∧ x.badWords.any (issueReads x l) = false ∧ streamCode s t l ring (issueCtx x l ring) = some code
      ∨ (rowOf l = .resume ∧ c = .resume t src ∨ rowOf l = .abandon ∧ c = .abandon t src) ∧ issueCode s t l ring = some code
      ∨ simpleCmd t src (rowOf l) = some c ∧ x.stgPending = none ∧ issueCode s t l ring = some code) →
    ∃ u, exec c s = .next u ∧ SameBytes s u
      ∧ (hd.entry = none → OnlyTile s u t ∧ (u.tile t).seq = .faulted ∧ (u.tile t).streams = x.streams
          ∧ (u.tile t).faultCount = satInc x.faultCount
          ∧ (bit x.fault 31 = false → (u.tile t).fault = 0x80000000 ||| BitVec.ofNat 32 (code * 1024) ||| BitVec.ofNat 32 hd.pc))
      ∧ (∀ e, hd.entry = some e → (u.tile t).seq = x.seq
          ∧ ∃ k ∈ (u.ring e.ring).comps, k.idx = e.idx ∧ k.flags = e.flags ∧ k.phase = .ready ∧ k.w72.toNat % 256 = code ∧ k.tLaunch = 0)

/-- A double-bit error in the context copy of the tile's leaf router, met at issue by an instruction that names local sync IDs,
unmaps the entry and is logged, and the instruction fails with PERMISSION where no worse check fails (R415). -/
def Sys2Proof.Claims.ContextErrorFails : Prop :=
  ∀ (s : State) (t : Nat) (hd : Head) (k : Nat),
    let l := hd.line
    coreRuns s t = true → headOf (s.tile t) .prog = some hd → (s.tile t).stgPending = none → rowOf l = .nop → (ctxReads s t l).head? = some k →
    wordBad l false = false → expressBad (loseCtx s k) t l .nop = false → keeperRuns s = true →
    ∃ u, exec (.nop t { it := .prog, ecc := .bad }) s = .next u ∧ k ∈ u.lodge.ctxBad ∧ (u.tile t).seq = .faulted
      ∧ u.keeper.unrec = satInc s.keeper.unrec ∧ SameBytes s u
      ∧ (bit (s.tile t).fault 31 = false →
          (u.tile t).fault = 0x80000000 ||| BitVec.ofNat 32 (0x19 * 1024) ||| BitVec.ofNat 32 hd.pc)

/-! ## Streams: issue, launch, retirement -/

/-- What issue allocates: a stream that holds the instruction and its descriptors as captured, not launched; the rest of the
pool, the registers and the scratchpads stay as they are. -/
def Sys2Proof.Allocates (s u : State) (t n : Nat) (src : Source) (hd : Head) (st : Stream) : Prop :=
  u.stream? t n = some st ∧ st.src = src ∧ st.entry = hd.entry ∧ st.line = hd.line
  ∧ st.ord = ((s.tile t).source src).ord + 1 ∧ st.launched = false ∧ st.parked = none ∧ st.chunks = []
  ∧ st.srcTd = (s.tile t).td (iSrcTd hd.line) ∧ st.dstTd = (s.tile t).td (iDstTd hd.line)
  ∧ st.od = (s.tile t).od (iOpd hd.line) ∧ prioOf (u.tile t) n = iPrio hd.line
  ∧ (∀ m, m ≠ n → u.stream? t m = s.stream? t m) ∧ (u.tile t).g = (s.tile t).g ∧ u.spad = s.spad

/-- MOVE and WALK that pass their checks, and whose descriptors show no error, take the lowest free stream of their source's pool.
A MOVE captures BASE + g[BREG] of each side; a WALK takes BASE alone and starts each program of its sides at RPC or WPC with a0
loaded. -/
def Obligations.IssueAllocatesStream : Prop :=
  ∀ (s : State) (t : Nat) (src : Source) (hd : Head) (n : Nat),
    let l := hd.line
    let x := s.tile t
    coreRuns s t = true → headOf x src = some hd → x.stgPending = none → x.badWords.any (issueReads x l) = false →
    streamCode s t l (Source.isRing src) (issueCtx x l (Source.isRing src)) = none →
    freeOf x (Source.isRing src) = some n →
    (rowOf l = .move → ∃ u st, exec (.move t (good src) .clean) s = .next u ∧ Allocates s u t n src hd st
        ∧ st.rdBase = tdBase st.srcTd + x.greg (iSrcBreg l) ∧ st.wrBase = tdBase st.dstTd + x.greg (iDstBreg l))
    ∧ (rowOf l = .walk → ∃ u st, exec (.walk t (good src) .clean) s = .next u ∧ Allocates s u t n src hd st
        ∧ st.rdBase = tdBase st.srcTd ∧ st.wrBase = tdBase st.dstTd
        ∧ (iRuse l = true → st.rd.pc = iRpc l ∧ st.rd.reg 0 = x.greg (iRareg l) ∧ st.rd.ended = false)
        ∧ (iWuse l = true → st.wr.pc = iWpc l ∧ st.wr.reg 0 = x.greg (iWareg l) ∧ st.wr.ended = false))

/-- LAUNCH of an issued stream: its DEP conditions have fired, its launch time is reached on a valid and running timebase, and
every earlier instruction of its source has launched. It then runs, its launch time is recorded and its calibration window
starts again; while a condition has not fired it stays as it is. -/
def Sys2Proof.Claims.StreamLaunches : Prop :=
  ∀ (s : State) (t n : Nat) (st : Stream),
    coreRuns s t = true → s.stream? t n = some st → st.launched = false → st.abort = none →
    ((∀ c ∈ st.launch.conds, c.fired = true) →
      (st.launch.kind = 0 ∨ (s.pg.valid = true ∧ s.pg.frozen = false ∧ ∃ tL, st.launch.tL = some tL ∧ tL ≤ s.pg.time)) →
      orderHeld (s.tile t) st.src st.ord = true → jobParked s t st.entry = false → oRefuse st.od = false →
      ∃ u st', exec (.launch t (.stream n)) s = .next u ∧ OnlyTile s u t ∧ u.stream? t n = some st'
        ∧ st' = { st with launched := true, launch := st'.launch } ∧ st'.launch.tl = s.pg.time
        ∧ Tab.get (u.tile t).windows Window.init n = Window.init ∧ (u.tile t).g = (s.tile t).g)
    ∧ ((∃ c ∈ st.launch.conds, c.fired = false) → exec (.launch t (.stream n)) s = .next s)

/-- A launch that REFUSE governs is refused when the estimated lateness exceeds LBUDGET: the stream is freed without any
write, and the refusal is counted; one of the program is captured in `TL_ADMIT` while VALID is 0, and a ring's completes with
REFUSED_ADMISSION and the estimate (R308, R309). -/
def Sys2Proof.Claims.LateLaunchRefused : Prop :=
  ∀ (s : State) (t n : Nat) (st : Stream),
    coreRuns s t = true → s.stream? t n = some st → st.launched = false → st.abort = none →
    condsHeld st.launch = true → timeHeld s st.launch = true → orderHeld (s.tile t) st.src st.ord = true →
    jobParked s t st.entry = false → oRefuse st.od = true →
    let el := estimate s t n st (atLaunch s st.launch).ll
    oLbudget st.od < el →
    ∃ u, exec (.launch t (.stream n)) s = .next u ∧ u.stream? t n = none ∧ u.spad = s.spad
      ∧ (u.tile t).refuseCount = satInc (s.tile t).refuseCount
      ∧ (bit (s.tile t).admitReg 31 = true ∨ st.entry.isSome = true → (u.tile t).admitReg = (s.tile t).admitReg)
      ∧ (bit (s.tile t).admitReg 31 = false → st.entry = none → (u.tile t).seq = (s.tile t).seq
          ∧ (u.tile t).admitReg = 0x80000000 ||| atN n 28 ||| atN st.pc 16 ||| atN (min 65535 el) 0)
      ∧ ∀ e, st.entry = some e → ∃ c ∈ (u.ring e.ring).comps, c.idx = e.idx ∧ c.flags = e.flags ∧ fld c.w72 7 0 = 0x08
          ∧ fld c.w72 31 16 = min 65535 el ∧ c.tLaunch = 0

/-- RETIRE of a stream that has done all its work frees it and leaves the others; a ring entry gets a completion with the first code
below 0x08 that applies: DONE_LATE, DONE_REPLAYED, DONE_UNDERSIZE, DONE_SATURATED, DONE (R430). A stream that has not finished stays
allocated. -/
def Sys2Proof.Claims.FinishedStreamRetires : Prop :=
  ∀ (s : State) (t n : Nat) (st : Stream),
    coreRuns s t = true → s.stream? t n = some st → st.parked = none → st.abort = none → st.stop = none →
    st.launched = true → st.resumer = none →
    let late := (lateOf st.launch st.launch.ll (finishLate st s.pg.time)).1
    let code := if fld (s.tile t).lateCtrl 15 0 < late then 1 else if st.replayed then 3 else if st.undersize then 4
      else if st.hasSat then 2 else 0
    (st.finished = true →
      ∃ u, exec (.retire t n) s = .next u ∧ u.stream? t n = none ∧ (∀ m, m ≠ n → u.stream? t m = s.stream? t m)
        ∧ u.spad = s.spad ∧ (u.tile t).g = (s.tile t).g
        ∧ (∀ e, st.entry = some e →
            ∃ c ∈ (u.ring e.ring).comps, c.idx = e.idx ∧ c.flags = e.flags ∧ c.phase = .ready ∧ fld c.w72 7 0 = code)
        ∧ (st.entry = none → (u.tile t).seq = (s.tile t).seq ∧ u.gate.rings = s.gate.rings))
    ∧ (st.finished = false → exec (.retire t n) s = .next s)

/-- A stream that ends late is recorded: L, its cause, stream and source in `TL_LATE` while VALID is 0, a count, and the largest L
seen; TIME_LATE is raised where it is enabled. With L of at most TOL_NS nothing is recorded (R233–R235). -/
def Sys2Proof.Claims.LatenessRecorded : Prop :=
  ∀ (s : State) (t n : Nat) (st : Stream),
    let x := s.tile t
    let lc := lateOf st.launch st.launch.ll (finishLate st s.pg.time)
    coreRuns s t = true → s.stream? t n = some st → st.parked = none → st.abort = none → st.stop = none →
    st.launched = true → st.resumer = none → st.finished = true →
    (fld x.lateCtrl 15 0 < lc.1 → ∃ u, exec (.retire t n) s = .next u ∧ (u.tile t).lateCount = satInc x.lateCount
      ∧ (bit x.late 31 = true → (u.tile t).late = x.late)
      ∧ (bit x.late 31 = false → (u.tile t).late =
          0x80000000 ||| atN lc.2 28 ||| atN n 25 ||| at1 st.entry.isSome 24 ||| atN lc.1 0)
      ∧ (u.tile t).lateMax.toNat = max x.lateMax.toNat lc.1 ∧ (bit x.lateCtrl 31 = true → Heard s u 2 t n 0 0))
    ∧ (lc.1 ≤ fld x.lateCtrl 15 0 → ∃ u, exec (.retire t n) s = .next u ∧ (u.tile t).lateCount = x.lateCount
      ∧ (u.tile t).late = x.late ∧ (u.tile t).lateMax = x.lateMax)

/-- RETIRE of a stream that an error has stopped, or that a rule has ended. With nothing of it in flight, and every chunk before the
error committed, it ends with the code: a ring's entry completes with it; the program is captured in `TL_FAULT`, ends FAULTED and
loses its pending signals (R76, R107). A translation fault parks it: the park table entry is written, STREAM_PARKED raised, a ring's
entry completes with the progress record, and the program goes on (R66, R329, R330). Before that nothing changes. -/
def Sys2Proof.Claims.StoppedStreamEnds : Prop :=
  ∀ (s : State) (t n : Nat) (st : Stream),
    let x := s.tile t
    let ends := fun (code : Nat) => ∃ u, exec (.retire t n) s = .next u ∧ u.stream? t n = none ∧ u.spad = s.spad
      ∧ (∀ e, st.entry = some e → (u.tile t).seq = x.seq
          ∧ ∃ c ∈ (u.ring e.ring).comps, c.idx = e.idx ∧ c.flags = e.flags ∧ c.phase = .ready ∧ fld c.w72 7 0 = code)
      ∧ (st.entry = none → (u.tile t).seq = .faulted ∧ FaultCaptured x (u.tile t) n code st.pc ∧ (u.tile t).pendProg = [])
    coreRuns s t = true → s.stream? t n = some st → st.parked = none → st.launched = true → st.resumer = none →
    (∀ code, st.abort = some code →
      (st.drained = true → 8 < code → code < 256 → code ≠ 0x18 → ends code)
      ∧ (st.drained = false → exec (.retire t n) s = .next s))
    ∧ (∀ e, st.abort = none → st.stop = some e →
      (Stream.quiet s t n st = true → 8 < e.code → e.code < 256 → e.code ≠ 0x18 → ends e.code)
      ∧ (Stream.quiet s t n st = true → e.code = 0x18 → ∃ u p, exec (.retire t n) s = .next u
        ∧ u.stream? t n = some { st with parked := some x.parkCtr } ∧ (∀ m, m ≠ n → u.stream? t m = s.stream? t m)
        ∧ u.spad = s.spad ∧ (u.tile t).seq = x.seq ∧ (u.tile t).fault = x.fault
        ∧ (u.tile t).parkCtr = (if x.parkCtr = 0xFFFFFFFF then 1 else x.parkCtr + 1)
        ∧ Tab.get u.gate.park Park.init (8 * t + n) = p ∧ p.faddr = e.addr ∧ bit p.info 31 = true
        ∧ p.prog[0]? = some x.parkCtr ∧ p.prog[1]? = some (BitVec.ofNat 32 st.committed)
        ∧ bit p.info 30 = st.entry.isSome ∧ Heard s u 8 t n 0 0
        ∧ ∀ r, st.entry = some r → ∃ c ∈ (u.ring r.ring).comps, c.idx = r.idx ∧ c.flags = r.flags ∧ c.phase = .ready
            ∧ fld c.w72 7 0 = 0x18 ∧ c.prog = p.prog)
      ∧ (Stream.quiet s t n st = false → exec (.retire t n) s = .next s))

/-- PENDING_SIGNAL sends the head of a queue once no earlier stream of its source is allocated and no earlier fence is
incomplete: a SIG as an update to its counter's home bank or on the express wires, a BAR as an arrival at the bandstand in the
tile's next generation. The entry stays at the head, marked as sent. -/
def Sys2Proof.Claims.PendingSignalSends : Prop :=
  ∀ (s : State) (t : Nat) (ring : Bool) (p : PendSig) (ps : List PendSig),
    coreRuns s t = true → (s.tile t).pend ring = p :: ps → p.sent = false → Source.isRing p.src = ring →
    (∀ q ∈ (s.tile t).streams, q.2.src = p.src → p.ord ≤ q.2.ord) →
    (∀ f ∈ (s.tile t).fences, f.src = p.src → p.ord ≤ f.ord) →
    ∃ u, exec (.pendingSignal t ring) s = .next u ∧ (u.tile t).pend ring = { p with sent := true } :: ps
      ∧ u.spad = s.spad ∧ (u.tile t).g = (s.tile t).g
      ∧ (p.isBar = false → p.express = false → ∃ m v, u.prom.net = s.prom.net ++ [m] ∧ m.cls = .lodge
          ∧ m.dst = .lodge (homeBank s p.cid) ∧ m.body = .upd v ∧ v.cid = p.cid ∧ v.value = p.value ∧ v.scope = p.scope
          ∧ v.tile = t ∧ v.kind = 1)
      ∧ (p.isBar = false → p.express = true → ∃ v, u.prom.net = s.prom.net ∧ u.lodge.xupds = s.lodge.xupds ++ [v]
          ∧ v.cid = p.cid ∧ v.value = p.value ∧ v.wire = t)
      ∧ (p.isBar = true → ∃ m a, u.prom.net = s.prom.net ++ [m] ∧ m.dst = .band ∧ m.body = .arrive a ∧ a.bar = p.cid
          ∧ a.a = arrivalOf (s.tile t) p.cid ring ∧ a.scope = p.scope ∧ a.host = false
          ∧ arrivalOf (u.tile t) p.cid ring = (a.a + 1) % 4)

/-! ## The program of a tile -/

/-- INSTRUCTION_FETCH reads the 16 words of the instruction at the program counter and steps the counter; past instruction
1,023 the program ends FAULTED with MALFORMED at PC 0x3FF, and at a word with an uncorrectable error, found now or by the scrubber
before, with FAULT_UNRECOVERED (R63, R415). -/
def Sys2Proof.Claims.FetchReadsInstruction : Prop :=
  ∀ (s : State) (t : Nat),
    let x := s.tile t
    coreRuns s t = true → x.seq = .running → x.stopping = false → x.fetched = none → x.prog.hold = .none →
    (x.pc ≤ 1023 → (∀ j w, ScrubLoc.imem j w ∈ x.badWords → w / 16 ≠ x.pc) → ∃ u l, exec (.instructionFetch t .clean) s = .next u ∧ OnlyTile s u t
      ∧ u.tile t = { x with fetched := some l, fetchPc := x.pc, pc := x.pc + 1 }
      ∧ ∀ k, k < 16 → fld l (32 * k + 31) (32 * k) = (Tab.get x.imem 0 (16 * x.pc + k)).toNat)
    ∧ (1023 < x.pc → ∃ u, exec (.instructionFetch t .clean) s = .next u ∧ OnlyTile s u t ∧ (u.tile t).seq = .faulted
      ∧ (bit x.fault 31 = false → (u.tile t).fault = 0x800043FF) ∧ (u.tile t).g = x.g ∧ (u.tile t).pendProg = x.pendProg)
    ∧ (x.pc ≤ 1023 → ∀ ecc, ecc = .bad ∨ (∃ j w, ScrubLoc.imem j w ∈ x.badWords ∧ w / 16 = x.pc) →
      ∃ u, exec (.instructionFetch t ecc) s = .next u ∧ (u.tile t).seq = .faulted ∧ (u.tile t).g = x.g ∧ SameBytes s u
        ∧ (bit x.fault 31 = false → (u.tile t).fault = 0x80000000 ||| BitVec.ofNat 32 (0x38 * 1024) ||| BitVec.ofNat 32 x.pc))

/-- RUN starts a program that does not run, at START_PC, which the same write sets with RING_STREAMS; STOP stops issue at the
next instruction boundary of a program that runs. Neither changes a register of the program. -/
def Obligations.RunAndStop : Prop :=
  ∀ (s : State) (t : Nat) (v : Word),
    let x := s.tile t
    let y := { x with ringStreams := v.extractLsb' 16 4, startPc := v.extractLsb' 0 10 }
    Reaches s (tileAddr t 0) (.tile t .ctrl) →
    (∃ u, exec (.run t v) s = .next u ∧ OnlyTile (answered s) u t
      ∧ u.tile t = if x.seq = .running then y
          else { y with seq := .running, pc := (v.extractLsb' 0 10).toNat, stopping := false, fetched := none })
    ∧ (∃ u, exec (.stop t v) s = .next u ∧ OnlyTile (answered s) u t
      ∧ u.tile t = if x.seq = .running then { y with stopping := true } else y)

/-- PROGRAM_HALTED: issue has stopped, nothing is fetched or held, every stream of the program is parked, and each signal of it
that is pending and each instruction that waits for its launch stands behind a parked one; the program becomes HALTED. While a stream of the program runs, it does not. -/
def Sys2Proof.Claims.ProgramHalts : Prop :=
  ∀ (s : State) (t : Nat),
    let x := s.tile t
    coreRuns s t = true → x.seq = .running → x.stopping = true → x.prog.hold = .none → x.fetched = none →
    ((∀ p ∈ x.streams, p.2.src = .prog → p.2.parked.isSome = true) →
      (∀ p ∈ x.pendProg, ∃ q ∈ x.streams, q.2.src = .prog ∧ q.2.parked.isSome = true ∧ q.2.ord < p.ord) →
      (∀ i ∈ x.issued, i.src = .prog → ∃ q ∈ x.streams, q.2.src = .prog ∧ q.2.parked.isSome = true ∧ q.2.ord < i.ord) →
      ∃ u, exec (.programHalted t) s = .next u ∧ OnlyTile s u t ∧ u.tile t = { x with seq := .halted, stopping := false })
    ∧ ((∃ p ∈ x.streams, p.2.src = .prog ∧ p.2.parked = none) → exec (.programHalted t) s = .next s)

/-- Word `w` of a memory takes the bytes of `d` that the strobe selects; no other word changes. -/
def Sys2Proof.WordWritten (old new : Tab Word) (w : Nat) (d : Word) (strb : BitVec 4) : Prop :=
  (∀ k, k ≠ w → Tab.get new 0 k = Tab.get old 0 k)
    ∧ ∀ b, b < 4 → fld (Tab.get new 0 w) (8 * b + 7) (8 * b) =
        if bit strb b then fld d (8 * b + 7) (8 * b) else fld (Tab.get old 0 w) (8 * b + 7) (8 * b)

/-- TILE_MEMORY_WRITE writes the bytes of one word that its strobe selects: in the descriptor tables and the walker memory at
any time, in instruction memory while the program does not run; while it runs, the write of an instruction word is ignored. A
write of a general register is performed while the program does not run, and ignored while it does. Nothing else changes,
TL_FAULT included. -/
def Obligations.TileMemoryWrites : Prop :=
  ∀ (s : State) (t w : Nat) (a : BitVec 26) (d : Word) (strb : BitVec 4),
    let x := s.tile t
    let wrote := fun (P : Tile → Prop) => ∃ u, exec (.tileMemoryWrite a d strb) s = .next u ∧ OnlyTile (answered s) u t
      ∧ P (u.tile t) ∧ ∀ b ∈ (u.tile t).badWords, b ∈ x.badWords
    strb ≠ 0 →
    (Reaches s a.toNat (.tile t (.imem w)) →
      (x.seq ≠ .running → wrote (fun y => y = { x with imem := y.imem, badWords := y.badWords } ∧ WordWritten x.imem y.imem w d strb))
      ∧ (x.seq = .running → wrote (fun y => y = x)))
    ∧ (Reaches s a.toNat (.tile t (.tdt w)) → wrote (fun y => y = { x with tdt := y.tdt, badWords := y.badWords } ∧ WordWritten x.tdt y.tdt w d strb))
    ∧ (Reaches s a.toNat (.tile t (.odt w)) → wrote (fun y => y = { x with odt := y.odt, badWords := y.badWords } ∧ WordWritten x.odt y.odt w d strb))
    ∧ (Reaches s a.toNat (.tile t (.wpm w)) → wrote (fun y => y = { x with wpm := y.wpm, badWords := y.badWords } ∧ WordWritten x.wpm y.wpm w d strb))
    ∧ (∀ n, Reaches s a.toNat (.tile t (.g n false)) →
      (x.seq = .running → exec (.registerPairLoWrite a d) s = .next (answered s))
      ∧ (x.seq ≠ .running → n ≠ 0 → Tab.find s.cp.heldHi (a.toNat + 4) = none → ∃ u, exec (.registerPairLoWrite a d) s = .next u
        ∧ (∀ k, (u.tile t).greg k = if k = n then pair ((x.greg n).extractLsb' 32 32) d else x.greg k)
        ∧ u.tile t = { x with g := (u.tile t).g } ∧ ∀ j, j ≠ t → u.tile j = s.tile j))

/-- RESUME of a parked stream whose PARKID matches clears the park and restarts the stream at its first chunk not committed,
with nothing outstanding; ABANDON frees it without a write, and the ABANDON's own entry completes with DONE and RSTATUS
TRANSLATION_FAULT; an instruction of the program so abandoned is captured and counted with TRANSLATION_FAULT, and the program goes on
(the model's reading, log 125). A staging layout that is pending keeps neither from issuing (the model's reading, log 97). Neither
changes a byte. -/
def Sys2Proof.Claims.ParkedStreamEnds : Prop :=
  ∀ (s : State) (t k : Nat) (hd : Head) (e : EntryRef) (st : Stream),
    let l := hd.line
    let n := iStream l
    coreRuns s t = true → headOf (s.tile t) (.ring k) = some hd → issueCode s t l true = none → hd.entry = some e →
    s.stream? t n = some st → st.parked = some (iParkid l) →
    (∀ p ∈ (s.tile t).streams, p.2.src = .ring k → p.2.ord ≤ ((s.tile t).source (.ring k)).ord → p.2.launched = true) →
    (∀ i ∈ (s.tile t).issued, i.src = .ring k → ((s.tile t).source (.ring k)).ord < i.ord) → jobParked s t hd.entry = false →
    (rowOf l = .resume → ∃ u st', exec (.resume t (.ring k)) s = .next u ∧ u.stream? t n = some st' ∧ st'.parked = none
      ∧ st'.stop = none ∧ st'.outstanding = [] ∧ st'.epoch = st.epoch + 1 ∧ st'.committed = st.committed
      ∧ st'.resumer = some (e, iTag l, s.pg.time) ∧ u.spad = s.spad)
    ∧ (rowOf l = .abandon → ∃ u c, exec (.abandon t (.ring k)) s = .next u ∧ u.stream? t n = none ∧ u.spad = s.spad
      ∧ c ∈ (u.ring e.ring).comps ∧ c.idx = e.idx ∧ c.w72 = 0 ∧ fld c.w76 31 24 = 0x18
      ∧ (st.entry = none → (u.tile t).seq = (s.tile t).seq ∧ FaultCaptured (s.tile t) (u.tile t) n 0x18 st.pc))

/-! ## Walker programs -/

/-- ADDI and ADDA add a signed amount to a[AN]: modulo 2^64, or, with CE = 1 and a circular pair of nonzero length, within the
pair's buffer. A pair of length 0 stops the stream with MALFORMED. -/
def Sys2Proof.Claims.WalkerAdds : Prop :=
  ∀ (s : State) (t n : Nat) (side : Side) (st : Stream) (i : Word) (d : Int) (c : Instr),
    let w := st.walker side
    let k := fld i 26 23
    let base := Tab.get w.cBase 0 (fld i 21 20)
    let len := (Tab.get w.cLen 0 (fld i 21 20)).toNat
    WalkerReady s t n side st i →
    (wopOf i = .addi ∧ c = .addi t n side .clean ∧ d = (BitVec.ofNat 20 (fld i 19 0)).toInt)
      ∨ (wopOf i = .adda ∧ c = .adda t n side .clean ∧ d = (w.reg (fld i 19 16)).toInt) →
    (bit i 22 = false → WalkerSteps s t n side st (exec c s) (fun w' rs =>
        rs = [] ∧ GoesTo w w' (w.pc + 1) ∧ SetsAddr w w' k (w.reg k + BitVec.ofInt 64 d)))
    ∧ (bit i 22 = true → 0 < len → WalkerSteps s t n side st (exec c s) (fun w' rs =>
        rs = [] ∧ GoesTo w w' (w.pc + 1)
        ∧ SetsAddr w w' k (base + BitVec.ofInt 64 ((w.reg k - base + BitVec.ofInt 64 d).toInt % (len : Int)))))
    ∧ (bit i 22 = true → len = 0 → st.stop = none → StreamBecomes s t n (exec c s) (fun _ st' =>
        st'.walker side = w ∧ ∃ x, st'.stop = some x ∧ x.code = 0x10 ∧ x.bounds = [(side, w.count)]))

/-- LDI loads the signed 20-bit immediate, shifted by 20 × SH, alone or added to a[AN]; CSET loads the base and the length of a
circular pair. -/
def Sys2Proof.Claims.WalkerLoads : Prop :=
  ∀ (s : State) (t n : Nat) (side : Side) (st : Stream) (i : Word),
    let w := st.walker side
    let k := fld i 26 23
    let v := (BitVec.ofNat 20 (fld i 19 0)).toInt * 2 ^ (20 * fld i 22 21)
    WalkerReady s t n side st i →
    (wopOf i = .ldi → WalkerSteps s t n side st (exec (.ldi t n side .clean) s) (fun w' rs =>
        rs = [] ∧ GoesTo w w' (w.pc + 1)
        ∧ SetsAddr w w' k ((if bit i 20 then w.reg k else 0) + BitVec.ofInt 64 v)))
    ∧ (wopOf i = .cset → WalkerSteps s t n side st (exec (.cset t n side .clean) s) (fun w' rs =>
        rs = [] ∧ GoesTo w w' (w.pc + 1) ∧ w'.a = w.a
        ∧ ∀ j, Tab.get w'.cBase 0 j = (if j = fld i 26 25 then w.reg (fld i 24 21) else Tab.get w.cBase 0 j)
          ∧ Tab.get w'.cLen 0 j = (if j = fld i 26 25 then w.reg (fld i 20 17) else Tab.get w.cLen 0 j)))

/-- REPEAT and REPEATR begin a body of LEN instructions that runs COUNT + 1 times, or a[AN] modulo 2^32 times; a count of 0
goes past the body. A body that is empty, that ends past instruction 4,095 or outside the body around it, or a ninth nesting
level stops the stream, also where the count is 0 (the model's choice, log 105). -/
def Obligations.WalkerRepeats : Prop :=
  ∀ (s : State) (t n : Nat) (side : Side) (st : Stream) (i : Word) (c : Instr) (count : Nat),
    let w := st.walker side
    let stop := w.pc + 1 + fld i 11 0
    let inside := ∀ l ls, w.stack = l :: ls → stop ≤ l.stop
    WalkerReady s t n side st i →
    (wopOf i = .rep ∧ c = .rep t n side .clean ∧ count = fld i 26 12 + 1)
      ∨ (wopOf i = .repr ∧ c = .repr t n side .clean ∧ count = (w.reg (fld i 26 23)).toNat % 2 ^ 32) →
    (0 < fld i 11 0 → stop ≤ 4096 → inside → w.stack.length < 8 → 0 < count →
      WalkerSteps s t n side st (exec c s) (fun w' rs => rs = [] ∧ w'.pc = w.pc + 1 ∧ w'.a = w.a
        ∧ w'.stack = { first := w.pc + 1, stop := stop, left := count - 1 } :: w.stack))
    ∧ (0 < fld i 11 0 → stop ≤ 4096 → inside → w.stack.length < 8 → count = 0 →
      WalkerSteps s t n side st (exec c s) (fun w' rs => rs = [] ∧ GoesTo w w' stop ∧ w'.a = w.a))
    ∧ (fld i 11 0 = 0 ∨ 4096 < stop ∨ ¬ inside ∨ 8 ≤ w.stack.length → st.stop = none →
      StreamBecomes s t n (exec c s) (fun _ st' => ∃ x, st'.stop = some x ∧ x.code = 0x10 ∧ x.side = side
        ∧ x.bounds = [(side, w.count)]))

/-- EMIT adds runs that together hold the elements it counts, numbered on from those already emitted; without CE it is one run
from BASE + a[AN], after which POST advances a[AN] past it. A count that is no whole number of PRBs, or of bytes of packed elements,
is an error with CAUSE 1 (on a fronthaul side the model's reading, log 11); whether a run is marked as behind a circular wrap follows
log 121. END ends the side's program. -/
def Sys2Proof.Claims.WalkerEmits : Prop :=
  ∀ (s : State) (t n : Nat) (side : Side) (st : Stream) (i : Word),
    let w := st.walker side
    let k := fld i 26 23
    let e := st.elemOf side
    let u := runUnit e
    let cnt := fld i 18 0 + 1
    let units := cnt / u.2
    let a := st.baseOf side + w.reg k
    let len := (Tab.get w.cLen 0 (fld i 20 19)).toNat
    let segs := (circSegs len u.1 (2 * units + 2) (w.reg k - Tab.get w.cBase 0 (fld i 20 19)).toInt units false).map
      (fun g => (addI (Tab.get w.cBase 0 (fld i 20 19)) g.1, g.2))
    WalkerReady s t n side st i →
    (wopOf i = .emit → cnt % u.2 = 0 → bit i 21 = false →
      runErr s t e side a (units * u.1) = none →
      WalkerSteps s t n side st (exec (.emit t n side .clean) s) (fun w' rs =>
        rs = [{ addr := a, n := units * u.2, first := w.count, wrap := w.wrapped, wpc := w.pc, base := s.genNow }]
        ∧ w'.count = w.count + units * u.2 ∧ GoesTo w w' (w.pc + 1)
        ∧ SetsAddr w w' k (if bit i 22 then w.reg k + BitVec.ofNat 64 (units * u.1) else w.reg k)))
    ∧ (wopOf i = .emit → cnt % u.2 ≠ 0 → st.stop = none → StreamBecomes s t n (exec (.emit t n side .clean) s) (fun u' st' =>
        st'.walker side = w ∧ (∃ x, st'.stop = some x ∧ x.code = 0x10 ∧ x.bounds = [(side, w.count)])
        ∧ WalkCaptured (s.tile t) (u'.tile t) side n 1 0x10 w.pc a))
    ∧ (wopOf i = .emit → cnt % u.2 = 0 → bit i 21 = true → 0 < len → 0 < u.1 →
      (∃ x, emitRuns s t st side w segs = .ok x) →
      WalkerSteps s t n side st (exec (.emit t n side .clean) s) (fun w' rs =>
        (rs.map (·.n)).sum = units * u.2 ∧ w'.count = w.count + units * u.2 ∧ GoesTo w w' (w.pc + 1)))
    ∧ (wopOf i = .wend → WalkerSteps s t n side st (exec (.walkEnd t n side .clean) s) (fun w' rs =>
        rs = [] ∧ w' = { w with ended := true }))

/-- IDX reads one index, 2 or 4 bytes by SEL, from the tile's own scratchpad at a[AX] once its bank has granted the access, adds
it shifted to a[AB] into a[AN] and advances a[AX] past it (where registers coincide the model's order, log 12); an index outside the scratchpad or not aligned stops the stream with
PERMISSION. SCAN emits 12 elements for each bit of the bitmap that has the polarity, at a[AN] plus the bit's number times a[AX].
Without the grant neither does anything. -/
def Sys2Proof.Claims.WalkerIndexes : Prop :=
  ∀ (s : State) (t n : Nat) (side : Side) (st : Stream) (i : Word),
    let w := st.walker side
    let ax := fld i 18 15
    let p := w.reg ax
    let len := if fld i 14 13 = 0 then 2 else 4
    let v := ofBytes (memRead s.spad.mem (t * slotBytes + p.toNat) len)
    let x : Int := if fld i 14 13 = 2 then (BitVec.ofNat 32 v).toInt else v
    let ab := w.reg (fld i 22 19)
    let nb := (fld i 8 0 + 7) / 8
    let bits := ofBytes (memRead s.spad.mem (t * slotBytes + ab.toNat) nb)
    let sel := (List.range (fld i 8 0)).filter (fun p => bits.testBit p != bit i 9)
    let u := runUnit (st.elemOf side)
    let at_ := fun (p : Nat) => st.baseOf side + (w.reg (fld i 26 23) + BitVec.ofNat 64 p * w.reg ax)
    WalkerReady s t n side st i →
    (wopOf i = .idx → fld i 14 13 ≠ 3 → p.toNat + len ≤ GenConfig.spadBytes s.gen → p.toNat % len = 0 →
      poisoned s.spad.poison (t * slotBytes + p.toNat) len = false →
      indexGiven s n side (banksOf s (t * slotBytes + p.toNat) len) = true →
      WalkerSteps s t n side st (exec (.idx t n side ⟨.clean, .clean⟩) s) (fun w' rs =>
        rs = [] ∧ GoesTo w w' (w.pc + 1)
        ∧ ∀ j, w'.reg j = if j = fld i 26 23 then w.reg (fld i 22 19) + BitVec.ofInt 64 (x * 2 ^ fld i 12 9)
            else if j = ax then p + BitVec.ofNat 64 len else w.reg j))
    ∧ (wopOf i = .idx → fld i 14 13 ≠ 3 → GenConfig.spadBytes s.gen < p.toNat + len ∨ p.toNat % len ≠ 0 → st.stop = none →
      StreamBecomes s t n (exec (.idx t n side ⟨.clean, .clean⟩) s) (fun u st' =>
        (∃ x, st'.stop = some x ∧ x.code = 0x19) ∧ WalkCaptured (s.tile t) (u.tile t) side n 9 0x19 w.pc p))
    ∧ (wopOf i = .scan → ab.toNat + nb ≤ GenConfig.spadBytes s.gen →
      poisoned s.spad.poison (t * slotBytes + ab.toNat) nb = false →
      indexGiven s n side (banksOf s (t * slotBytes + ab.toNat) nb) = true →
      (∀ p ∈ sel, runErr s t (st.elemOf side) side (at_ p) (12 / u.2 * u.1) = none) →
      WalkerSteps s t n side st (exec (.scan t n side ⟨.clean, .clean⟩) s) (fun w' rs =>
        rs.map (fun r => (r.addr, r.n)) = sel.map (fun p => (at_ p, 12 / u.2 * u.2))
        ∧ w'.count = w.count + sel.length * (12 / u.2 * u.2) ∧ GoesTo w w' (w.pc + 1) ∧ w'.a = w.a))
    ∧ (∀ o m c, walkerReads s t st side = some (o, m) → indexGiven s n side (banksOf s o m) = false →
      (wopOf i = .idx ∧ c = .idx t n side ⟨.clean, .clean⟩) ∨ (wopOf i = .scan ∧ c = .scan t n side ⟨.clean, .clean⟩) →
      exec c s = .next s)

/-- A word of no walker instruction, under whatever command it is offered, and a program counter past 4,095 stop the stream with
MALFORMED at the element that the program would emit next, and are captured with CAUSE 2 and 4 (R88, R106–R108; the 12 bits that
`TL_WALK_ERR` has for 4,096 are 0, log 106). -/
def Sys2Proof.Claims.WalkerWordFails : Prop :=
  ∀ (s : State) (t n : Nat) (side : Side) (st : Stream) (i : Word) (c : Instr),
    let w := st.walker side
    c ∈ [Instr.walkEnd t n side .clean, .emit t n side .clean, .addi t n side .clean, .adda t n side .clean, .ldi t n side .clean,
      .cset t n side .clean, .rep t n side .clean, .repr t n side .clean, .idx t n side ⟨.clean, .clean⟩,
      .scan t n side ⟨.clean, .clean⟩] → st.stop = none →
    (WalkerReady s t n side st i → wopOf i = .bad → StreamBecomes s t n (exec c s) (fun u st' => st'.walker side = w
      ∧ st'.stop = some { bounds := [(side, w.count)], code := 0x10, side := side, addr := 0 }
      ∧ WalkCaptured (s.tile t) (u.tile t) side n 2 0x10 w.pc 0))
    ∧ (s.stream? t n = some st → coreRuns s t = true → st.live = true → st.usesProg side = true → w.ended = false →
      4095 < w.pc → w.pc ≤ 4096 → StreamBecomes s t n (exec c s) (fun u st' => st'.walker side = w
      ∧ st'.stop = some { bounds := [(side, w.count)], code := 0x10, side := side, addr := 0 }
      ∧ WalkCaptured (s.tile t) (u.tile t) side n 4 0x10 0 0))

/-! ## Requests, staging, datapath and commit -/

/-- READ_REQUEST: the stream that the turnstile grants issues the request that its read walker plans: one message to the bank
or port of its address, noted as outstanding, with the walker moved past it. No byte of scratchpad changes. -/
def Sys2Proof.Claims.ReadRequestLeaves : Prop :=
  ∀ (s s1 : State) (t n : Nat) (st : Stream) (addr : DWord) (len : Nat) (what : ReadWhat) (side : Side) (pos next skip : Nat),
    coreRuns s t = true →
    takePoint s (.readIssue t) (streamCands s t true (fun n st => wantsRead s t n st)) = (s1, some n) →
    s1.stream? t n = some st → roomPlan s1 t n st = .req addr len what side pos next skip →
    ∃ u st' m r, exec (.readRequest t true) s = .next u ∧ u.stream? t n = some st'
      ∧ u.prom.net = s.prom.net ++ [m] ∧ m.body = .rd r ∧ m.cls = .request ∧ m.src = .tile t ∧ m.dst = (dataRoute s1 t addr r.off).1
      ∧ r.off = windowOff (s1.atBase (st.reqBase s1 what pos)) addr
      ∧ r.addr = addr ∧ r.len = len ∧ r.what = what ∧ r.tile = t ∧ r.stream = n ∧ r.src = st.src ∧ r.epoch = st.epoch
      ∧ st'.outstanding = st.outstanding ++ [r] ∧ st'.rdPos = next ∧ st'.firstSent = true
      ∧ (∀ m, m ≠ n → u.stream? t m = s.stream? t m) ∧ (u.tile t).g = (s.tile t).g ∧ u.spad = s.spad

/-- WRITE_REQUEST: with the write walkers' bookkeeping done, the stream that the turnstile grants sends the next piece of its current
chunk to the piece's address, flit by flit, and waits for its acknowledgement. The bytes of scratchpad change only when the write
reaches its bank group. -/
def Sys2Proof.Claims.WriteRequestLeaves : Prop :=
  ∀ (s : State) (t n : Nat) (st : Stream) (c : Chunk) (q : Piece) (extra : Bool),
    let s1 := placeTile s t
    coreRuns s t = true → takerOf s1 (.writeIssue t) (writeCands s1 t) = some n → s1.stream? t n = some st →
    nextWrite s1 t st = some (c, q, extra) →
    ∃ u st' m w, exec (.writeRequest t true) s = .next u ∧ u.stream? t n = some st'
      ∧ u.prom.net = s.prom.net ++ Msg.split m ∧ m.body = .wr w ∧ m.cls = .request ∧ m.src = .tile t
      ∧ m.dst = (dataRoute s1 t q.addr w.off).1 ∧ m.flits = flitsOf q.addr q.data.length
      ∧ w.addr = q.addr ∧ w.data = q.data ∧ w.idx = c.idx ∧ w.tile = t ∧ w.stream = n ∧ w.signal = none
      ∧ w.kind = (if oAcc st.od && !extra then .addend else .data) ∧ st'.wrOut = st.wrOut ++ [w]
      ∧ (u.tile t).g = (s.tile t).g ∧ ∀ o, memByte u.spad.mem o = memByte s.spad.mem o

/-- LAST_FLIT_SEND, with the write walkers' bookkeeping done, by the stream that has the write walker's grant, with the running signatures agreeing and the residue of the
address right, sends what is left of a chunk whose every earlier byte has been acknowledged, or its apply command, with the
chunk's signal where it has one; otherwise it starts a replay. -/
def Sys2Proof.Claims.LastFlitCarriesSignal : Prop :=
  ∀ (s : State) (t n : Nat) (st : Stream) (c : Chunk) (agree residueOk : Bool),
    let s1 := placeTile s t
    let s2 := (takePoint s1 (.writeIssue t) (writeCands s1 t)).1
    coreRuns s t = true → s1.stream? t n = some st → st.live = true → lastReady s1 t st = some c →
    takerOf s1 (.writeIssue t) (writeCands s1 t) = some n →
    StreamBecomes s1 t n (exec (.lastFlitSend t n ⟨true, true⟩) s) (fun u st' => ∃ m w,
      u.prom.net = s.prom.net ++ Msg.split m ∧ m.body = .wr w ∧ m.cls = .request ∧ m.src = .tile t
      ∧ (∀ p, c.last = some p → w.addr = p.addr ∧ w.data = p.data ∧ w.kind = .data)
      ∧ (c.last = none → w.addr = c.addr ∧ w.data = [] ∧ w.kind = .apply ∧ w.endpoint = c.endpoint)
      ∧ st'.wrOut = st.wrOut ++ [w] ∧ (∀ d ∈ st'.chunks, d.idx = c.idx → d.lastSent = true)
      ∧ (c.wantSignal = false → w.signal = none)
      ∧ (c.wantSignal = true → ∃ v, w.signal = some v ∧ v.cid = st.sigCid ∧ v.express = st.sigX ∧ v.seq = c.seq
          ∧ v.value = BitVec.ofNat 32 (iSiginc st.line) ∧ v.scope = iScope st.line))
    ∧ ((agree = false ∨ residueOk = false) → st.readOnce (chunkStart s2 t st c.mark.k0) = false → st.replays < 2 →
      st.lostApply = false → (∀ d ∈ st.chunks, d.lostApply = false) →
      StreamBecomes s1 t n (exec (.lastFlitSend t n ⟨agree, residueOk⟩) s) (fun u st' => st'.replays = st.replays + 1
        ∧ st'.replayed = true ∧ st'.epoch = st.epoch + 1 ∧ st'.chunks = [] ∧ st'.wrOut = st.wrOut
        ∧ u.keeper.replays = satInc s.keeper.replays))

/-- READ_RESPONSE with OKAY: the request is no longer outstanding and each element that it fetched stands in staging with the
bits at its place in the data, all in one command (the model's choice, log 30); a response of an earlier run of the stream is no longer
waited for and changes nothing else. -/
def Sys2Proof.Claims.ReadResponseStages : Prop :=
  ∀ (s : State) (i : Nat) (m : Msg) (r : ReadReq) (data : List Byte),
    arrived s i = some m → m.body = .rdResp r .okay data → m.dst = .tile r.tile → coreRuns s r.tile = true →
    (∀ (st : Stream) (es : List (Nat × Int)), s.stream? r.tile r.stream = some st →
      st.src = r.src → st.ord = r.ord → st.abort = none → r ∈ st.outstanding → r.what = .elems es →
      (es.map (·.1)).Nodup → (∀ e ∈ es, Tab.find st.staged e.1 = none ∧ 0 ≤ e.2) →
      StreamBecomes s r.tile r.stream (exec (.readResponse i .clean) s) (fun u st' =>
        r ∉ st'.outstanding ∧ u.prom.net = s.prom.net.eraseIdx i
        ∧ ∀ e ∈ es, Tab.find st'.staged e.1 =
            some (BitVec.ofNat 32 ((ofBytes data >>> e.2.toNat) % 2 ^ st.srcE.width))))
    ∧ (∀ st, s.stream? r.tile r.stream = some st → st.src = r.src → st.ord = r.ord → r ∈ st.oldReads →
        (∀ q ∈ st.outstanding, q.id ≠ r.id) →
        StreamBecomes s r.tile r.stream (exec (.readResponse i .clean) s) (fun u st' =>
          st' = { st with oldReads := st'.oldReads } ∧ r ∉ st'.oldReads ∧ u.prom.net = s.prom.net.eraseIdx i
          ∧ u.keeper = s.keeper))

/-- A read answered DENIED or with a translation fault stops its stream at the first element that the request serves with
PERMISSION or TRANSLATION_FAULT, and is captured in `TL_WALK_ERR`; one whose unit is off, or whose data is poisoned, ends it with
UNIT_OFFLINE or FAULT_UNRECOVERED. A stream that an error has stopped keeps its first code: a later error only adds its position, and
a rule that ends it gives that code, but for a translation fault's (R430). -/
def Sys2Proof.Claims.ReadErrorsStop : Prop :=
  ∀ (s : State) (i : Nat) (m : Msg) (r : ReadReq) (a : Answer) (data : List Byte) (st : Stream),
    arrived s i = some m → m.body = .rdResp r a data → m.dst = .tile r.tile → coreRuns s r.tile = true →
    s.stream? r.tile r.stream = some st → st.src = r.src → st.ord = r.ord →
    r ∈ st.outstanding → st.abort = none →
    (∀ x, st.stop = some x →
      (a = .denied → StreamBecomes s r.tile r.stream (exec (.readResponse i .clean) s) (fun _ st' =>
        st'.stop = some { x with bounds := x.bounds ++ [r.bound] } ∧ st'.abort = none))
      ∧ (a = .offline ∨ a = .poison → StreamBecomes s r.tile r.stream (exec (.readResponse i .clean) s) (fun _ st' =>
        st'.stop = some x ∧ (x.code ≠ 0x18 → st'.abort = some x.code)
        ∧ (x.code = 0x18 → st'.abort = some (if a = .offline then 0x30 else 0x38)))))
    ∧ (st.stop = none →
    (a = .denied → StreamBecomes s r.tile r.stream (exec (.readResponse i .clean) s) (fun u st' =>
        (∃ x, st'.stop = some x ∧ x.code = 0x19 ∧ x.bounds = [r.bound] ∧ x.addr = r.addr)
        ∧ WalkCaptured (s.tile r.tile) (u.tile r.tile) r.side r.stream 0xB 0x19 0 r.addr))
    ∧ (a = .xfault → StreamBecomes s r.tile r.stream (exec (.readResponse i .clean) s) (fun u st' =>
        (∃ x, st'.stop = some x ∧ x.code = 0x18 ∧ x.bounds = [r.bound] ∧ x.addr = r.addr)
        ∧ (st.usesProg r.side = false →
            WalkCaptured (s.tile r.tile) (u.tile r.tile) r.side r.stream 0xA 0x18 0 r.addr)))
    ∧ (a = .offline → StreamBecomes s r.tile r.stream (exec (.readResponse i .clean) s) (fun _ st' =>
        st'.abort = some 0x30))
    ∧ (a = .poison → StreamBecomes s r.tile r.stream (exec (.readResponse i .clean) s) (fun _ st' =>
        st'.abort = some 0x38)))

/-- TILE_DATAPATH: the stream that has the grant passes its next group of elements, whose data, records and index entry are
present: its output position moves by at least that group, or, where a block or record fails its check, an error stops the
stream, or a landed block is decoded; no byte of scratchpad and no message changes. Where neither a block is decoded, a record
checked nor a BXZ block encoded, the group passes, there is no such error, and the units that the lanes make of it wait for the write
walker. A record whose sequence number is not the one due stops the stream with SCALE_SEQ before its first element, and is captured
in `TL_SCALE_ERR` (R166, R167). A stream whose BXZ lane is off ends with UNIT_OFFLINE; one whose lane is in reset waits for it and is
granted no row (the model's choice, log 41). -/
def Sys2Proof.Claims.DatapathAdvances : Prop :=
  ∀ (s s1 : State) (t n : Nat) (st : Stream),
    coreRuns s t = true →
    takePoint s (.datapath t) (streamCands s t false (fun n st => wantsRow s t n st)) = (s1, some n) →
    s1.stream? t n = some st → windowFull (s1.tile t) n = false → st.groupReady st.outPos = true →
    (laneOff s1 t st = false → ∃ u st', exec (.tileDatapath t) s = .next u ∧ u.stream? t n = some st'
      ∧ (st.outPos + (st.groupAt st.outPos).length ≤ st'.outPos ∨ st'.stop ≠ none ∨ st'.blocks.length < st.blocks.length)
      ∧ (st.srcE.isBlock = false → st.blocks = [] → st.dstE ≠ .bxz → st.readsScale = false →
          st.outPos + (st.groupAt st.outPos).length ≤ st'.outPos ∧ st'.stop = st.stop
          ∧ ∃ qs, st'.outQ = st.outQ ++ (st.laneRun (st.groupAt st.outPos)
              (drawStates st.od (s1.tile t).lfsr (st.groupAt st.outPos)).2).units ++ qs)
      ∧ (∀ r seq, st.srcE.isBlock = false → st.blocks = [] → st.stop = none → st.group = 1 → st.readsScale = true →
          oSgran st.od = 3 → r = st.recordOf st.outPos → st.groupAt st.outPos = [st.outPos] → st.badRecord r = some (seq, true) →
          st'.outPos = st.outPos ∧ st'.stop = some { bounds := [(.write, r * oBlkN st.od)], code := 0x20, side := .write, addr := 0 }
          ∧ (u.tile t).scaleErrCount = satInc (s.tile t).scaleErrCount
          ∧ (bit (s.tile t).scaleErr 31 = true → (u.tile t).scaleErr = (s.tile t).scaleErr)
          ∧ (bit (s.tile t).scaleErr 31 = false → (u.tile t).scaleErrBlock = BitVec.ofNat 32 r
              ∧ (u.tile t).scaleErr = 0x80000000 ||| atN n 27 ||| atN (seq % 65536) 0))
      ∧ u.spad = s.spad ∧ u.prom.net = s.prom.net ∧ (u.tile t).g = (s.tile t).g
      ∧ ∀ m, m ≠ n → u.stream? t m = s.stream? t m)
    ∧ (laneOff s1 t st = true → st.stop = none → st.abort = none →
      ∃ u st', exec (.tileDatapath t) s = .next u ∧ u.stream? t n = some st' ∧ st'.abort = some 0x30 ∧ u.spad = s.spad)

/-- What the lanes make of consecutive output elements of 8 bits or more that need neither a block, an AUTO choice nor an escape: of each
element one unit, with the bytes of its converted code, least significant first (R27, R82). -/
def Sys2Proof.Claims.LaneMakesUnits : Prop :=
  ∀ (st : Stream) (ks rs : List Nat),
    st.dstE.isBlock = false → oAuto st.od = false → oEsc st.od = false → 8 ≤ st.dstE.width → ks.length = rs.length →
    (∀ k ∈ ks, st.outFrom ≤ k) →
    (st.laneRun ks rs).units.map (fun u => (u.k, u.n, u.data)) = (ks.zip rs).map (fun p =>
      (p.1, 1, toBytes (st.dstE.width / 8) ((convOne st.laneCtx p.1 (st.valueAt p.1) p.2).code % 2 ^ st.dstE.width)))

/-- Conversion of one element. With equal formats and no option its code passes unchanged. An integer that fits the destination's
range keeps its value; one that does not takes the nearest limit and counts as a saturation, or is a candidate for escape, for which
the escape code is kept out of the range (R151, R155, R173). -/
def Sys2Proof.Claims.LaneConverts : Prop :=
  ∀ (c : LaneCtx) (k x r : Nat),
    (c.pass = true → convOne c k x r = { code := x, sat := 0, flush := 0, cand := none })
    ∧ ∀ (sg dg : Bool) (w wo : Nat), c.pass = false → oReq c.od = false → c.mxSrc = false → c.i = .int sg w → c.d = .int dg wo →
      let v := if sg then sext w x else ((x % 2 ^ w : Nat) : Int)
      let out := (oEsc c.od).toNat
      let lo : Int := if dg then -(2 : Int) ^ (wo - 1) + out else 0
      let hi : Int := if dg then (2 : Int) ^ (wo - 1) - 1 else (2 : Int) ^ wo - 1 - out
      (lo ≤ v → v ≤ hi → convOne c k x r = { code := wrap wo v, sat := 0, flush := 0, cand := none })
      ∧ (v < lo → convOne c k x r = { code := wrap wo lo, sat := 1, flush := 0, cand := if oEsc c.od then some v else none })
      ∧ (lo ≤ v → hi < v →
          convOne c k x r = { code := wrap wo hi, sat := 1, flush := 0, cand := if oEsc c.od then some v else none })

/-- The requantiser: the product (x − ZI) × M over 2^S, rounded by RND, plus ZO. RNE and RNA are within half a unit, and a tie goes to
the even number or away from zero; RTZ drops the fraction; SR adds the generator's 16 bits below the unit. A product that is not 0
and rounds to 0 is a flush, whatever ZO is (R150, R153, R159, R161). -/
def Sys2Proof.Claims.RequantRounds : Prop :=
  ∀ (x zi zo m : Int) (s rnd r : Nat),
    let p := (x - zi) * m
    let q := (requant x zi zo m s rnd r).1 - zo
    let off := (p - q * 2 ^ s).natAbs
    ((requant x zi zo m s rnd r).2 = true ↔ p ≠ 0 ∧ q = 0)
    ∧ (rnd ≤ 1 → 2 * off ≤ 2 ^ s)
    ∧ (rnd = 0 → 2 * off = 2 ^ s → q % 2 = 0)
    ∧ (rnd = 1 → 2 * off = 2 ^ s → p.natAbs < (q * 2 ^ s).natAbs)
    ∧ (rnd = 2 → q = p.tdiv (2 ^ s))
    ∧ (rnd = 3 → r < 65536 → q = p.sign * ((p.natAbs * 65536 / 2 ^ s + r) / 65536 : Nat))

/-- Floating-point codes. A normal value of F16, BF16 or F32 casts to its own code under every RND; a NaN casts to the format's NaN with
its sign, an infinity to infinity; a magnitude that lies beyond F32's range casts to the largest finite code and counts as a
saturation (R131, R132, R151, R152). -/
def Sys2Proof.Claims.FloatCasts : Prop :=
  (∀ (f : FFmt) (c rnd r : Nat), f ∈ [fF16, fBF16, fF32] → c < 2 ^ (1 + f.ebits + f.mbits) →
    let ex := c / 2 ^ f.mbits % 2 ^ f.ebits
    0 < ex → ex < 2 ^ f.ebits - 1 → castFlt f (f.val c) rnd r = ⟨c, 0, 0⟩)
  ∧ (∀ (neg : Bool) (rnd r : Nat), let sign := if neg then 2 ^ 31 else 0
    castFlt fF32 (.nan neg) rnd r = ⟨sign + 0x7FC00000, 0, 0⟩ ∧ castFlt fF32 (.inf neg) rnd r = ⟨sign + 0x7F800000, 0, 0⟩
    ∧ ∀ (m : Nat) (e : Int), 0 < m → 128 ≤ e → castFlt fF32 (.fin neg m e) rnd r = ⟨sign + 0x7F7FFFFF, 1, 0⟩)

/-- The shared scale that AUTO gives a microscaling block: 0xFF where a value is a NaN or an infinity; 0 where every value is zero; else
⌊log2⌋ of the largest magnitude less the format's emax, plus 127, between 0 and 254. Scale code 0xFF makes every element NaN with
its own sign, and any other multiplies by 2^(X − 127) (R138, R140). -/
def Sys2Proof.Claims.MicroscalingScales : Prop :=
  (∀ (e : Elem) (vs : List Val), (∃ v ∈ vs, v.special = true) → mxAuto e vs = 255)
  ∧ (∀ (e : Elem) (vs : List Val), (∀ v ∈ vs, v.isZero = true) → mxAuto e vs = 0)
  ∧ (∀ (e : Elem) (vs : List Val) (neg : Bool) (m : Nat) (x : Int), (∀ v ∈ vs, v.special = false) → .fin neg m x ∈ vs → 0 < m →
    (∀ n k y, Val.fin n k y ∈ vs → 0 < k → (Nat.log2 k : Int) + y ≤ (Nat.log2 m : Int) + x) →
    mxAuto e vs = (max 0 (min 254 ((Nat.log2 m : Int) + x - mxEmax e + 127))).toNat)
  ∧ ∀ (e : Elem) (x c : Nat), mxVal e 255 c = .nan (decide (c / 2 ^ (e.width - 1) % 2 = 1))
    ∧ ∀ n m y, x ≠ 255 → e.val c = .fin n m y → mxVal e x c = .fin n m (y + ((x : Int) - 127))

/-- An outlier, element `k` of value `v`, escapes while its block of 64 has taken fewer than ESCMAX and the side list keeps a place for
its terminator: the element takes the escape code, and the list the entry of its index and its value, limited to 32 bits. Else it
keeps its clamped code, and an outlier that only the list had no room for is counted for SIDEFULL (R172–R175). -/
def Sys2Proof.Claims.OutliersEscape : Prop :=
  ∀ (c : LaneCtx) (p : EscPos) (k : Nat) (e : ConvE) (v : Int), e.cand = some v →
    let used := if k % 64 = 0 then 0 else p.used
    let out := stage7 c p k e
    (used < oEscmax c.od → p.side + 1 < c.sideCap →
      out.1 = (if c.d.intShape.1 then 2 ^ (c.d.intShape.2 - 1) else 2 ^ c.d.intShape.2 - 1)
      ∧ out.2.2.1 = 0 ∧ out.2.2.2.2.used = used + 1 ∧ out.2.2.2.2.side = p.side + 1
      ∧ out.2.2.2.1 = [(c.sideBase + BitVec.ofNat 64 (8 * p.side),
          BitVec.ofInt 32 (max (-(2 : Int) ^ 31) (min ((2 : Int) ^ 31 - 1) v)) ++ BitVec.ofNat 32 k)])
    ∧ (oEscmax c.od ≤ used ∨ c.sideCap ≤ p.side + 1 →
      out.1 = e.code ∧ out.2.1 = e.sat ∧ out.2.2.2.1 = [] ∧ out.2.2.2.2.used = used ∧ out.2.2.2.2.side = p.side
      ∧ out.2.2.1 = if used < oEscmax c.od then 1 else 0)

/-- A PRB decodes to twelve complex elements, each of two components in the order of the block's bits: of ORB the field as a signed
number times 2^exponent, of ORS the field times 2^(16 − w) times the scaler over 128, rounded to nearest even; both limited to 16
bits, and counted where they are (R141, R144). -/
def Sys2Proof.Claims.PrbDecodes : Prop :=
  ∀ (e : Elem) (bs : List Byte),
    let par := ofBytes (bs.take 1)
    let comp := fun (j : Nat) => prbComp e par (prbField e.compW (ofBytesBe (bs.drop 1)) j)
    (prbDecode e bs).1.length = 12
    ∧ (∀ i, i < 12 → (prbDecode e bs).1[i]? = some (BitVec.ofNat 32 (wrap 16 (comp (2 * i)).1 + 65536 * wrap 16 (comp (2 * i + 1)).1))
        ∧ (prbDecode e bs).2[i]? = some ((comp (2 * i)).2, (comp (2 * i + 1)).2))
    ∧ ∀ (w c p : Nat), p < 16 →
      let v := sext w c * 2 ^ p
      (prbComp (.orb w) p c).1 = max (-32768) (min 32767 v)
      ∧ ((prbComp (.orb w) p c).2 = if v < -32768 ∨ 32767 < v then 1 else 0)

/-- BXZ blocks. The header that an encode writes reads back with its fields and its checksum. Of a good block an element that the
side list names takes the list's value, a zero block gives 0 and a NaN block NaN, and any other element is its field, as a signed
number, times 2^(EXP − 32) (R192–R195, R203, R207). -/
def Sys2Proof.Claims.BxzBlocks : Prop :=
  (∀ (rate exp mode escn j sloff : Nat) (rest : List Byte),
    rate < 16 → exp < 64 → mode < 4 → escn < 8 → j < 65536 → sloff < 65536 →
    let h := bxHeader rate exp mode escn j sloff
    h.length = 8 ∧ bxHdr (h ++ rest) =
      { crc := crc8 (h.take 7), sloff := sloff, bidx := j, resv := 0, escn := escn, mode := mode, exp := exp, rate := rate })
  ∧ ∀ (bs : List Byte) (j k : Nat) (ents : List DWord),
    let h := bxHdr bs
    let r := (rateBits h.rate).getD 0
    let m := sext r (ofBytes (bs.drop 8) / 2 ^ (r * k) % 2 ^ r)
    (h.mode = 1 → bxElem bs j ents k = 0) ∧ (h.mode = 2 → bxElem bs j ents k = 0x7FC00000)
    ∧ (h.mode = 0 → (∀ d ∈ ents, fld d 31 0 ≠ 64 * j + k) → (bxElem bs j ents k).toNat % 2 ^ 32 =
        (castFlt fF32 (.fin (decide (m < 0)) m.natAbs ((h.exp : Int) - 32)) 0 0).code % 2 ^ 32)
    ∧ ∀ d rest, h.mode = 0 → ents = d :: rest → fld d 31 0 = 64 * j + k → bxElem bs j ents k = d.extractLsb' 32 32

/-- READ_RESPONSE with a segment index entry that R191 does not allow: the stream stops with MALFORMED at the row's first element, and
`BX_ERR` captures the entry's address with CAUSE 9 while VALID is 0 (R191, R208, R209). -/
def Sys2Proof.Claims.IndexEntryRejected : Prop :=
  ∀ (s : State) (i row : Nat) (m : Msg) (r : ReadReq) (data : List Byte) (st : Stream),
    let g := segEntry (BitVec.ofNat 64 (ofBytes (data.take 8))) (BitVec.ofNat 64 (ofBytes (data.drop 8)))
    let x := s.tile r.tile
    let side := st.bxSide.2.2
    arrived s i = some m → m.body = .rdResp r .okay data → m.dst = .tile r.tile → coreRuns s r.tile = true →
    s.stream? r.tile r.stream = some st → st.src = r.src → st.ord = r.ord → r ∈ st.outstanding → st.stop = none →
    st.abort = none → r.what = .entry row → data.length = 16 → g.ok (st.entryAddr row) (tdCount st.bxSide.1 0) = false →
    StreamBecomes s r.tile r.stream (exec (.readResponse i .clean) s) (fun u st' =>
      (∃ e, st'.stop = some e ∧ e.code = 0x10 ∧ e.bounds = [(side, row * tdCount st.bxSide.1 0)])
      ∧ (u.tile r.tile).bxErrCount = satInc x.bxErrCount
      ∧ (bit x.bxErr 31 = true → (u.tile r.tile).bxErr = x.bxErr ∧ (u.tile r.tile).bxErrEntry = x.bxErrEntry)
      ∧ (bit x.bxErr 31 = false → (u.tile r.tile).bxErrEntry = st.entryAddr row ∧ (u.tile r.tile).bxErr =
          0x80000000 ||| at1 (decide (side = .write)) 30 ||| atN r.stream 27 ||| atN 9 16 ||| atN 0x10 8))

/-- A chunk check that disagrees replays the stream from its first uncommitted chunk, is counted and logged as RECOVERED
with mechanism CHUNKCHK (while the keeper's clock runs), and writes nothing; a chunk redone twice already ends the stream with FAULT_UNRECOVERED, and one that needs a NONIDEM read again, or whose
apply a reset may have lost, with NOT_REPLAYABLE. Signatures that agree change nothing. -/
def Sys2Proof.Claims.CompareReplays : Prop :=
  ∀ (s : State) (t n : Nat) (st : Stream),
    let k := chunkStart s t st ((st.current.map (fun c => c.mark.k0)).getD st.firstOpen.1)
    let stuck := st.readOnce k = true ∨ st.lostApply = true ∨ ∃ c ∈ st.chunks, c.lostApply = true
    let logs := fun (u : State) (cls mech code : Nat) => keeperRuns s = true →
      Logged s u cls mech 0 (t % 65536) n code 0 0 (firstSeq s t n st)
    coreRuns s t = true → s.stream? t n = some st → st.live = true →
    (exec (.signatureCompare t n true) s = .next s)
    ∧ (¬ stuck → st.replays < 2 →
        StreamBecomes s t n (exec (.signatureCompare t n false) s) (fun u st' => st'.replays = st.replays + 1
          ∧ st'.replayed = true ∧ st'.epoch = st.epoch + 1 ∧ st'.chunks = [] ∧ st'.outstanding = []
          ∧ st'.committed = st.committed ∧ u.keeper.replays = satInc s.keeper.replays ∧ logs u 1 2 0))
    ∧ (¬ stuck → 2 ≤ st.replays → st.stop = none → 5 ∉ s.cpc.stopped →
        StreamBecomes s t n (exec (.signatureCompare t n false) s) (fun u st' => st'.abort = some 0x38
          ∧ u.keeper.unrec = satInc s.keeper.unrec ∧ logs u 2 0x12 0x38))
    ∧ (stuck → st.stop = none → 5 ∉ s.cpc.stopped →
        StreamBecomes s t n (exec (.signatureCompare t n false) s) (fun u st' => st'.abort = some 0x39
          ∧ u.keeper.unrec = satInc s.keeper.unrec ∧ logs u 2 2 0x39))

/-- WRITE_ACKNOWLEDGEMENT of a write of the present run: the write is no longer waited for, and its chunk waits for one
acknowledgement less. -/
def Sys2Proof.Claims.AcknowledgementCounts : Prop :=
  ∀ (s : State) (i : Nat) (m : Msg) (w : WriteReq) (st : Stream),
    arrived s i = some m → m.body = .wrAck w .okay 0 → m.dst = .tile w.tile → coreRuns s w.tile = true →
    s.stream? w.tile w.stream = some st → st.src = w.src → st.ord = w.ord → w.epoch = st.epoch → w ∈ st.wrOut →
    st.abort = none →
    StreamBecomes s w.tile w.stream (exec (.writeAcknowledgement i) s) (fun u st' =>
      w ∉ st'.wrOut ∧ u.prom.net = s.prom.net.eraseIdx i
      ∧ st'.chunks = st.chunks.map (fun c => if c.idx = w.idx then { c with unacked := c.unacked - 1 } else c))

/-- CHUNK_COMMIT: the first chunk of a stream commits once its last flit has left, every byte of it is acknowledged and its
signal, if it has one, is applied; the next chunk starts with no replays. Until then nothing changes. -/
def Sys2Proof.Claims.ChunkCommits : Prop :=
  ∀ (s : State) (t n : Nat) (st : Stream) (c : Chunk) (cs : List Chunk),
    coreRuns s t = true → s.stream? t n = some st → st.chunks = c :: cs → st.abort = none → signalAnswer s t n = none →
    (c.lastSent = true → c.unacked = 0 → (c.wantSignal = true → c.acked = true) →
      StreamBecomes s t n (exec (.chunkCommit t ⟨n, .clean⟩) s) (fun _ st' =>
        st' = { st with chunks := cs, committed := st.committed + 1, replays := 0 }))
    ∧ (c.lastSent = false ∨ 0 < c.unacked ∨ (c.wantSignal = true ∧ c.acked = false) →
      exec (.chunkCommit t ⟨n, .clean⟩) s = .next s)

/-- APPLY makes a staging layout pending when each slice has 1 to 64 pages and they total at most 64, and sets BADSUM
otherwise; LAYOUT_APPLIED puts it in force once the tile holds no stream, and not before. -/
def Sys2Proof.Claims.StagingLayout : Prop :=
  ∀ (s : State) (t : Nat),
    let x := s.tile t
    let pages := (List.range 4).map (fun k => fld x.sliceA (8 * k + 7) (8 * k))
      ++ (List.range 4).map (fun k => fld x.sliceB (8 * k + 7) (8 * k))
    (Reaches s (tileAddr t 0x308) (.tile t .stgCtrl) →
      ∃ u, exec (.apply t) s = .next u ∧ OnlyTile (answered s) u t
        ∧ u.tile t = if (∀ v ∈ pages, 1 ≤ v ∧ v ≤ 64) ∧ pages.sum ≤ 64 then { x with stgPending := some (x.sliceA, x.sliceB) }
            else { x with stgBadsum := true })
    ∧ (∀ p, coreRuns s t = true → x.stgPending = some p →
        (x.streams = [] → ∃ u, exec (.layoutApplied t) s = .next u ∧ OnlyTile s u t
          ∧ u.tile t = { x with activeA := p.1, activeB := p.2, stgPending := none })
        ∧ (x.streams ≠ [] → exec (.layoutApplied t) s = .next s))

/-- CALIBRATION_WINDOW: a window that is full ends and the next begins, with the counts of the elements that are in it already;
one that is not full stays. -/
def Sys2Proof.Claims.CalibrationWindowRestarts : Prop :=
  ∀ (s : State) (t n : Nat), coreRuns s t = true →
    let w := Tab.get (s.tile t).windows Window.init n
    (windowFull (s.tile t) n = true → ∃ u, exec (.calibrationWindow t n) s = .next u
      ∧ (Tab.get (u.tile t).windows Window.init n).elems = w.elems - calWin (s.tile t)
      ∧ (Tab.get (u.tile t).windows Window.init n).sats = w.nextSats
      ∧ (Tab.get (u.tile t).windows Window.init n).flushes = w.nextFlushes
      ∧ (∀ m, m ≠ n → Tab.get (u.tile t).windows Window.init m = Tab.get (s.tile t).windows Window.init m)
      ∧ (u.tile t).streams = (s.tile t).streams ∧ (∀ j, j ≠ t → u.tile j = s.tile j) ∧ u.spad = s.spad
      ∧ (w.nextSats = 0 → w.nextFlushes = 0 → OnlyTile s u t ∧ u.tile t = { s.tile t with windows := (u.tile t).windows })
      ∧ (bit (s.tile t).calCtrl 31 = true → (s.tile t).calSatThr.toNat < w.nextSats → n < 8 →
          bit (u.tile t).calStatus (24 + n) = true ∧ Heard s u 0 t n 0 0)
      ∧ (bit (s.tile t).calCtrl 30 = true → (s.tile t).calFlushThr.toNat < w.nextFlushes → n < 8 →
          bit (u.tile t).calStatus (16 + n) = true ∧ Heard s u 1 t n 0 0))
    ∧ (windowFull (s.tile t) n = false → exec (.calibrationWindow t n) s = .next s)

/-- A write of TL_CAL_SAT_THR or TL_CAL_FLUSH_THR that takes the threshold below a running stream's window count raises CALIB_SAT or
CALIB_FLUSH for that window, once: the count exceeds the threshold then for the first time. -/
def Sys2Proof.Claims.ThresholdsJudge : Prop :=
  ∀ (s : State) (a : BitVec 26) (d : Word) (t n : Nat) (st : Stream),
    let w := Tab.get (s.tile t).windows Window.init n
    (s.tile t).streams = [(n, st)] → st.launched = true → n < 8 →
    (Reaches s a.toNat (.tile t .calSatThr) → bit (s.tile t).calCtrl 31 = true → (s.tile t).calFlushThr.toNat ≥ w.flushes →
      ∃ u, exec (.registerWrite a d 15) s = .next u ∧ (u.tile t).calSatThr = d
        ∧ (d.toNat < w.sats → w.satUp = false → bit (u.tile t).calStatus (24 + n) = true ∧ Heard s u 0 t n 0 0
            ∧ (Tab.get (u.tile t).windows Window.init n).satUp = true)
        ∧ (w.sats ≤ d.toNat ∨ w.satUp = true → (u.tile t).calStatus = (s.tile t).calStatus ∧ u.gate = s.gate))
    ∧ (Reaches s a.toNat (.tile t .calFlushThr) → bit (s.tile t).calCtrl 30 = true → (s.tile t).calSatThr.toNat ≥ w.sats →
      ∃ u, exec (.registerWrite a d 15) s = .next u ∧ (u.tile t).calFlushThr = d
        ∧ (d.toNat < w.flushes → w.flushUp = false → bit (u.tile t).calStatus (16 + n) = true ∧ Heard s u 1 t n 0 0
            ∧ (Tab.get (u.tile t).windows Window.init n).flushUp = true)
        ∧ (w.flushes ≤ d.toNat ∨ w.flushUp = true → (u.tile t).calStatus = (s.tile t).calStatus ∧ u.gate = s.gate))

/-! ## Bank groups -/

/-- The bytes of a write at window offset `o` that its `k`th 128 B access brings, with their window offset. -/
def Sys2Proof.pieceAt (o : Nat) (data : List Byte) (k : Nat) : Nat × List Byte :=
  let g := granule o data.length k
  (g.1, (data.drop (g.1 - o)).take g.2)

/-- What a write that is performed sends: its acknowledgement, and the signal that its flit carries, on to its home. -/
def Sys2Proof.WriteDone (s v : State) (i u : Nat) (w : WriteReq) (sats : Nat) : Prop :=
  ∃ k, k.body = .wrAck w .okay sats ∧ k.dst = .tile w.tile ∧ k.cls = .response
    ∧ (w.signal = none → v.prom.net = s.prom.net.eraseIdx i ++ [k] ∧ v.lodge.xupds = s.lodge.xupds)
    ∧ (∀ g, w.signal = some g → g.express = false → ∃ q, v.prom.net = s.prom.net.eraseIdx i ++ [q, k]
        ∧ q.dst = .lodge (homeBank s g.cid) ∧ q.body = .upd { g with wire := u } ∧ v.lodge.xupds = s.lodge.xupds)
    ∧ (∀ g, w.signal = some g → g.express = true → v.prom.net = s.prom.net.eraseIdx i ++ [k]
        ∧ v.lodge.xupds = s.lodge.xupds ++ [{ g with wire := u }])

/-- BANK_WRITE of data at a bank group that serves: one access writes exactly the bytes of one 128 B granule, and after the last
the write is acknowledged and a signal that its flit carries goes on to the counter's home. An access that covers part of a
poisoned unit writes nothing, and the write is answered so (the model's choice for an access that writes none of the unit's bytes,
log 8). An addend is staged in element order and changes no byte. That one command performs the whole access is the model's
choice (log 30). -/
def Sys2Proof.Claims.BankWriteStores : Prop :=
  ∀ (s : State) (i u o : Nat) (m : Msg) (w : WriteReq),
    arrived s i = some m → m.body = .wr w → m.dst = .tile u → availOf s (spadDom s u) = .on →
    let p := pieceAt o w.data m.done
    (w.kind = .data → w.off = some o → poisoned s.spad.poison p.1 p.2.length = false →
      ∃ v, exec (.bankWrite ⟨i, .clean⟩) s = .next v ∧ Stored s v p.1 p.2 ∧ v.tiles = s.tiles
        ∧ v.spad.poison = s.spad.poison ∧ v.spad.acc = s.spad.acc
        ∧ (∀ o', accessAt o w.data.length (m.done + 1) = some o' → v.lodge = s.lodge
            ∧ v.prom.net = s.prom.net.set i { m with done := m.done + 1, route := [bankOf s o'] })
        ∧ (accessAt o w.data.length (m.done + 1) = none → m.bad = false → WriteDone s v i u w 0))
    ∧ (w.kind = .data → w.off = some o →
      ∀ b ∈ unitsOf p.1 p.2.length, s.spad.poison.contains b = true → coversUnit p.1 p.2.length b = false →
      ∃ v, exec (.bankWrite ⟨i, .clean⟩) s = .next v ∧ v.spad = s.spad
        ∧ (accessAt o w.data.length (m.done + 1) = none → ∃ k, k.body = .wrAck w .poison 0
            ∧ v.prom.net = s.prom.net.eraseIdx i ++ [k] ∧ v.lodge = s.lodge))
    ∧ (w.kind = .addend → ∃ v k, exec (.bankWrite ⟨i, .clean⟩) s = .next v ∧ v.spad.mem = s.spad.mem
      ∧ v.spad.acc = s.spad.acc.map (fun r => if accOf w r then { r with pieces := insertAddend w r.pieces } else r)
      ∧ k.body = .wrAck w .okay 0 ∧ v.prom.net = s.prom.net.eraseIdx i ++ [k])

/-- BANK_READ at a bank group that serves: one access takes the bytes of one 128 B granule of the request's range as they stand,
and changes none of them; after the last the read is answered with all that its accesses took. A poisoned unit in the range is
answered as such, and a double-bit error that the access finds poisons its unit: the model's choice takes the first unit of the
granule (log 32), logs it as unrecovered (log 111) and performs the whole access in one command (log 30). An answer with data has
one flit for each granule. -/
def Obligations.BankReadReturnsBytes : Prop :=
  ∀ (s : State) (i u o : Nat) (m : Msg) (r : ReadReq),
    arrived s i = some m → m.body = .rd r → m.dst = .tile u → availOf s (spadDom s u) = .on → r.off = some o →
    let g := granule o r.len m.done
    let bs := (List.range g.2).map (fun j => memByte s.spad.mem (g.1 + j))
    (∀ o', accessAt o r.len (m.done + 1) = some o' →
      ∃ v, exec (.bankRead i .clean) s = .next v ∧ OnlyNet s v
        ∧ v.prom.net = s.prom.net.set i { m with
            done := m.done + 1, got := m.got ++ bs, bad := m.bad || poisoned s.spad.poison g.1 g.2
            route := [bankOf s o'] })
    ∧ (accessAt o r.len (m.done + 1) = none →
      ∃ v k, exec (.bankRead i .clean) s = .next v ∧ OnlyNet s v ∧ v.prom.net = s.prom.net.eraseIdx i ++ Msg.split k
        ∧ k.dst = .tile r.tile ∧ k.cls = .response ∧ k.slack = m.stamp
        ∧ (m.bad = false → poisoned s.spad.poison g.1 g.2 = false → k.body = .rdResp r .okay (m.got ++ bs)
            ∧ k.flits = flitsOf r.addr r.len)
        ∧ (m.bad = true ∨ poisoned s.spad.poison g.1 g.2 = true → k.body = .rdResp r .poison [] ∧ k.flits = 1))
    ∧ (accessAt o r.len (m.done + 1) = none → 0 < g.2 → 5 ∉ s.cpc.stopped →
      ∃ v k, exec (.bankRead i .bad) s = .next v ∧ v.spad.mem = s.spad.mem ∧ g.1 / 8 ∈ v.spad.poison
        ∧ v.prom.net = s.prom.net.eraseIdx i ++ [k] ∧ k.body = .rdResp r .poison []
        ∧ v.keeper.unrec = satInc s.keeper.unrec)

/-- A request at a bank group that is off is answered UNIT_OFFLINE by its router; one at a group that is quiescing goes back
to its requester unless its accesses have begun; one at a group in reset, or without its clock, gets no answer. None of them
reads or writes a byte. -/
def Sys2Proof.Claims.UnavailableBankGroup : Prop :=
  (∀ (s : State) (i u : Nat) (m : Msg) (w : WriteReq),
    arrived s i = some m → m.body = .wr w → m.dst = .tile u → w.kind = .data →
    (availOf s (spadDom s u) = .off → ∃ v k, exec (.bankWrite ⟨i, .clean⟩) s = .next v ∧ v.spad = s.spad
      ∧ v.prom.net = s.prom.net.eraseIdx i ++ [k] ∧ k.body = .wrAck w .offline 0 ∧ k.dst = .tile w.tile)
    ∧ (availOf s (spadDom s u) = .later → m.done = 0 → ∃ v k, exec (.bankWrite ⟨i, .clean⟩) s = .next v ∧ v.spad = s.spad
      ∧ v.prom.net = s.prom.net.eraseIdx i ++ [k] ∧ k.body = .wr w ∧ k.again = true ∧ k.src = m.dst ∧ k.dst = m.src)
    ∧ (availOf s (spadDom s u) = .dead → exec (.bankWrite ⟨i, .clean⟩) s = .next (dropMsg s i)))
  ∧ ∀ (s : State) (i u : Nat) (m : Msg) (r : ReadReq),
    arrived s i = some m → m.body = .rd r → m.dst = .tile u →
    (availOf s (spadDom s u) = .off → ∃ v k, exec (.bankRead i .clean) s = .next v ∧ v.spad = s.spad
      ∧ v.prom.net = s.prom.net.eraseIdx i ++ [k] ∧ k.body = .rdResp r .offline [] ∧ k.dst = .tile r.tile)
    ∧ (availOf s (spadDom s u) = .later → m.done = 0 → ∃ v k, exec (.bankRead i .clean) s = .next v ∧ v.spad = s.spad
      ∧ v.prom.net = s.prom.net.eraseIdx i ++ [k] ∧ k.body = .rd r ∧ k.again = true ∧ k.src = m.dst ∧ k.dst = m.src)
    ∧ (availOf s (spadDom s u) = .dead → exec (.bankRead i .clean) s = .next (dropMsg s i))

/-- ACC_APPLY performs the staged addends of a chunk once, in their element order, one granule in two bank cycles: the first reads
it and changes nothing; the second replaces each element of the granule's addends by its sum (`AddendsSum`), keeps the saturations
counted, and after the last granule frees the reservation, records the chunk's number, forwards the signal and acknowledges, or
answers that a unit was poisoned. For one unsigned 8-bit addend the stored byte becomes the sum, clamped to 255. A chunk whose
number is at or before the recorded one changes no byte and is acknowledged all the same. -/
def Sys2Proof.Claims.ApplyAddsOnce : Prop :=
  ∀ (s : State) (i u g : Nat) (m : Msg) (w : WriteReq),
    arrived s i = some m → m.body = .wr w → m.dst = .tile u → w.kind = .apply → w.endpoint = .group u g →
    availOf s (spadDom s u) = .on →
    (∀ (r : AccRes) (a : WriteReq) (b : Byte) (o : Nat), m.done = 1 → m.sats = 0 → m.bad = false → w.fmt = 3 →
      s.spad.acc.find? (fun r => accOf w r) = some r → r.pieces = [a] → a.data = [b] → a.off = some o →
      poisoned s.spad.poison o 1 = false →
      seqOld s.lodge.applied (.group u g) w.tile w.stream w.seq = false →
      ∃ v, exec (.accApply ⟨i, .clean⟩) s = .next v
        ∧ Stored s v o [BitVec.ofNat 8 (min 255 ((memByte s.spad.mem o).toNat + b.toNat))]
        ∧ (∀ q ∈ v.spad.acc, accOf w q = false) ∧ seqAt v.lodge.applied (.group u g) w.tile w.stream = some w.seq
        ∧ WriteDone s v i u w (if 255 < (memByte s.spad.mem o).toNat + b.toNat then 1 else 0))
    ∧ (seqOld s.lodge.applied (.group u g) w.tile w.stream w.seq = true → m.sats = 0 → m.bad = false →
      ∃ v, exec (.accApply ⟨i, .clean⟩) s = .next v ∧ v.spad.mem = s.spad.mem ∧ v.lodge.applied = s.lodge.applied
        ∧ WriteDone s v i u w 0)
    ∧ ∀ o add, (applyWork s u w)[m.done / 2]? = some (o, add) →
      (m.done % 2 = 0 → ∃ v, exec (.accApply ⟨i, .clean⟩) s = .next v ∧ OnlyNet s v
        ∧ v.prom.net = s.prom.net.set i { m with done := m.done + 1, route := [bankOf s o] })
      ∧ (m.done % 2 = 1 →
        let e := (fmtOf w.fmt).getD (.int false 8)
        let a := applyBytes e w.rnd (max 1 (e.width / 8)) add.length o add { spad := s.spad, sats := m.sats, bad := m.bad }
        (∀ o' add', (applyWork s u w)[(m.done + 1) / 2]? = some (o', add') →
          ∃ v, exec (.accApply ⟨i, .clean⟩) s = .next v ∧ v.spad = a.spad ∧ v.lodge = s.lodge ∧ v.tiles = s.tiles
            ∧ v.prom.net = s.prom.net.set i
                { m with done := m.done + 1, sats := a.sats, bad := a.bad, route := [bankOf s o'] })
        ∧ ((applyWork s u w)[(m.done + 1) / 2]? = none →
          ∃ v, exec (.accApply ⟨i, .clean⟩) s = .next v ∧ v.spad.mem = a.spad.mem ∧ v.tiles = s.tiles
            ∧ v.spad.acc = s.spad.acc.filter (fun r => !accOf w r)
            ∧ seqAt v.lodge.applied (.group u g) w.tile w.stream = some w.seq
            ∧ (a.bad = false → WriteDone s v i u w a.sats)
            ∧ (a.bad = true → ∃ k, v.prom.net = s.prom.net.eraseIdx i ++ [k] ∧ k.body = .wrAck w .poison a.sats)))

/-- The sum of a stored element and its addend: integers are added and clamped to the format's range, which counts one saturation;
floats are the exact sum cast once, a NaN on either side or opposite infinities give NaN, and SR is performed as RNE; a complex
element is summed per component. A run of addends replaces element after element by its sum and leaves every other byte. -/
def Sys2Proof.Claims.AddendsSum : Prop :=
  (∀ (w stored add rnd : Nat), 0 < w → stored < 2 ^ w → add < 2 ^ w →
    accElem (.int false w) stored add rnd = (min (2 ^ w - 1) (stored + add), if 2 ^ w ≤ stored + add then 1 else 0)
    ∧ (let v := (BitVec.ofNat w stored).toInt + (BitVec.ofNat w add).toInt
       let c := max (-(2 ^ (w - 1))) (min (2 ^ (w - 1) - 1) v)
       accElem (.int true w) stored add rnd = ((BitVec.ofInt w c).toNat, if v = c then 0 else 1)))
  ∧ (∀ (f : FFmt) (stored add rnd : Nat),
    let r := if rnd = 3 then 0 else rnd
    (∀ n1 m1 e1 n2 m2 e2, f.val stored = .fin n1 m1 e1 → f.val add = .fin n2 m2 e2 →
      ∃ (n : Bool) (m : ℕ) (e : ℤ), (if n then -1 else 1 : ℚ) * m * 2 ^ e
          = (if n1 then -1 else 1) * m1 * 2 ^ e1 + (if n2 then -1 else 1) * m2 * 2 ^ e2
        ∧ (m = 0 → n = (n1 && n2 && decide (m1 = 0) && decide (m2 = 0)))
        ∧ accElem (.flt f) stored add rnd = ((castFlt f (Val.fin n m e) r 0).code, (castFlt f (Val.fin n m e) r 0).sat))
    ∧ ((∃ n, f.val stored = .nan n ∨ f.val add = .nan n) ∨ (∃ n, f.val stored = .inf n ∧ f.val add = .inf !n) →
      ∃ n, accElem (.flt f) stored add rnd = ((castFlt f (.nan n) r 0).code, (castFlt f (.nan n) r 0).sat)))
  ∧ (∀ (e c : Elem) (a b x y rnd : Nat), e.component = some c → c.component = none → a < 2 ^ c.width → x < 2 ^ c.width →
    accElem e (a + b * 2 ^ c.width) (x + y * 2 ^ c.width) rnd
      = ((accElem c a x rnd).1 + (accElem c b y rnd).1 * 2 ^ c.width, (accElem c a x rnd).2 + (accElem c b y rnd).2))
  ∧ ∀ (e : Elem) (rnd wb o n : Nat) (add : List Byte) (a : AccRun), 0 < wb → add.length = n * wb →
    poisoned a.spad.poison o add.length = false →
    let r := applyBytes e rnd wb add.length o add a
    let sum := fun k => accElem e (ofBytes ((List.range wb).map (fun j => memByte a.spad.mem (o + k * wb + j))))
      (ofBytes ((add.drop (k * wb)).take wb)) rnd
    r.bad = a.bad ∧ r.spad.poison = a.spad.poison ∧ r.sats = a.sats + ((List.range n).map (fun k => (sum k).2)).sum
    ∧ (∀ k j, k < n → j < wb → memByte r.spad.mem (o + k * wb + j) = (toBytes wb (sum k).1).getD j 0)
    ∧ ∀ x, x < o ∨ o + n * wb ≤ x → memByte r.spad.mem x = memByte a.spad.mem x

/-- DISCARD frees the staged addends of one chunk of one stream, and no others; no byte changes. -/
def Sys2Proof.Claims.DiscardFreesAddends : Prop :=
  ∀ (s : State) (i u t n ep : Nat) (m : Msg) (q : Word) (e : Endpoint) (a : DWord) (off : Option Nat),
    arrived s i = some m → m.body = .discardCmd t n q e ep a off → m.dst = .tile u → availOf s (spadDom s u) = .on →
    ∃ v, exec (.discard i) s = .next v ∧ v.spad.mem = s.spad.mem ∧ v.spad.poison = s.spad.poison
      ∧ v.prom.net = s.prom.net.eraseIdx i
      ∧ v.spad.acc = s.spad.acc.filter
          (fun r => !(decide (r.tile = t ∧ r.stream = n ∧ r.seq = q) && decide (r.epoch ≤ ep)))

/-! ## Lodge counters -/

/-- What an update by `amt` makes of a counter's value, by its class: SEQUENCE adds modulo 2^32 and overruns where the
distance to its partner exceeds a nonzero DEPTH; CREDIT adds a signed amount, underflows below 0 and is clamped to its
capacity; TALLY adds and stays at 2^32 − 1. The code is 0 where the update is applied. -/
def Sys2Proof.updated (cls : Nat) (v amt : Word) (depth : Nat) (partner : Word) : Word × Nat :=
  if cls = 0 then
    if depth ≠ 0 ∧ (depth : Int) < (v + amt - partner).toInt then (v, 0x29) else (v + amt, 0)
  else if cls = 1 then
    let cap : Int := if depth = 0 then 2 ^ 31 - 1 else depth
    let n : Int := v.toNat + amt.toInt
    if n < 0 then (v, 0x28) else (BitVec.ofInt 32 (min cap n), 0)
  else (BitVec.ofNat 32 (min (2 ^ 32 - 1) (v.toNat + amt.toNat)), 0)

/-- The value of an unpoisoned counter after an update, and the update's code. -/
def Sys2Proof.updatedCnt (s : State) (c : Nat) (amt : Word) : Word × Nat :=
  updated (cntClass s c) (cntVal s c) amt (cntDepth s c) (cntVal s (cntPartner s c))

/-- Neither a counter nor the partner that its class compares it with is poisoned. -/
def Sys2Proof.CounterGood (s : State) (c : Nat) : Prop :=
  c ∉ s.lodge.poison ∧ (cntClass s c = 0 → cntDepth s c ≠ 0 → cntPartner s c ∉ s.lodge.poison)

/-- Every counter but `c` has the value it had. -/
def Sys2Proof.OtherCounters (s u : State) (c : Nat) : Prop := ∀ k, k ≠ c → cntVal u k = cntVal s k

/-- A failed update is captured in LD_ERR where VALID was 0, counted, and raises LODGE_ERR (R251). -/
def Sys2Proof.ErrCaptured (s u : State) (host : Bool) (t n code cid : Nat) : Prop :=
  u.lodge.errCount = satInc s.lodge.errCount ∧ (bit s.lodge.err 31 = true → u.lodge.err = s.lodge.err)
  ∧ (bit s.lodge.err 31 = false →
      u.lodge.err = 0x80000000 ||| at1 host 30 ||| atN t 25 ||| atN n 22 ||| atN code 14 ||| atN cid 0)
  ∧ Heard s u 5 t n 0 0

/-- SIGNAL_APPLY at a home bank that serves, for a counter that no watch is on: the counter takes the value of its class's
update, or keeps it where the update fails, which is captured; no other counter changes; a data signal or SIG is acknowledged with
the code. That ACQUIRE and CLAIM subtract modulo 2^32 and compare by serial number is the model's reading (log 44), as is a CREDIT
operand of 2^31 or more (log 45). A
data signal whose number is at or before the one recorded for its stream is acknowledged and changes nothing. -/
def Sys2Proof.Claims.SignalUpdatesCounter : Prop :=
  ∀ (s : State) (i h : Nat) (m : Msg) (v : Upd),
    arrived s i = some m → m.body = .upd v → m.dst = .lodge h → availOf s (sliceDom s v.cid) = .on → v.kind ≤ 1 →
    CounterGood s v.cid → slotsOn s v.cid = [] →
    (¬ (v.kind = 0 ∧ seqOld s.lodge.applied (.bank (sliceOf v.cid) (homeBank s v.cid)) v.tile v.stream v.seq = true) →
      ∃ u k, exec (.signalApply i ⟨.clean, [], true⟩) s = .next u ∧ cntVal u v.cid = (updatedCnt s v.cid v.value).1
        ∧ OtherCounters s u v.cid ∧ u.tiles = s.tiles ∧ u.spad = s.spad ∧ u.lodge.watches = s.lodge.watches
        ∧ u.prom.net = s.prom.net.eraseIdx i ++ [k] ∧ k.dst = .tile v.tile
        ∧ k.body = .updAck v (updatedCnt s v.cid v.value).2
        ∧ ((updatedCnt s v.cid v.value).2 ≠ 0 → ErrCaptured s u false v.tile (if v.kind = 0 then v.stream else 0)
            (updatedCnt s v.cid v.value).2 v.cid))
    ∧ (v.kind = 0 → seqOld s.lodge.applied (.bank (sliceOf v.cid) (homeBank s v.cid)) v.tile v.stream v.seq = true →
      ∃ u k, exec (.signalApply i ⟨.clean, [], true⟩) s = .next u ∧ u.lodge = s.lodge ∧ u.tiles = s.tiles ∧ u.spad = s.spad
        ∧ u.prom.net = s.prom.net.eraseIdx i ++ [k] ∧ k.body = .updAck v 0)

/-- A SIGNAL_APPLY that brings a counter to the operand of the one watch on it delivers the watch and frees its slot: a GE or
EQ watch leaves the value, an ACQUIRE takes its operand, a CLAIM takes it and reports 1. A release below the watch's scope, or
one of scope 0 from another tile, is captured in LD_SCOPE_MM and raises SCOPE_MISMATCH. A GE watch whose operand is not
reached stays. -/
def Sys2Proof.Claims.UpdateFiresWatch : Prop :=
  ∀ (s : State) (i h w : Nat) (m : Msg) (v : Upd) (x : Watch) (who : Waiter),
    let n := (updatedCnt s v.cid v.value).1
    arrived s i = some m → m.body = .upd v → m.dst = .lodge h → availOf s (sliceDom s v.cid) = .on → v.kind = 1 →
    CounterGood s v.cid → (updatedCnt s v.cid v.value).2 = 0 → s.lodge.watches = [(w, x)] → x.cid = v.cid →
    x.who = some who → x.cond ≤ 3 →
    (classHolds (cntClass s v.cid) n x.operand x.cond = true →
      ∃ u k a, exec (.signalApply i ⟨.clean, [], true⟩) s = .next u ∧ u.lodge.watches = []
        ∧ cntVal u v.cid = (if 2 ≤ x.cond then n - x.operand else n) ∧ OtherCounters s u v.cid
        ∧ u.prom.net = s.prom.net.eraseIdx i ++ [k, a] ∧ k.dst = .tile who.tile
        ∧ k.body = .wake (x.reg who) (if x.cond = 3 then 1 else 0) false
        ∧ a.body = .updAck v 0 ∧ u.spad = s.spad
        ∧ (v.scope < x.scope ∨ (v.scope = 0 ∧ v.tile ≠ who.tile) → u.lodge.mmCount = satInc s.lodge.mmCount
            ∧ Heard s u 6 who.tile (who.stream.getD 0) 0 0
            ∧ u.lodge.mm = if bit s.lodge.mm 31 then s.lodge.mm else
                0x80000000 ||| atN who.tile 25 ||| atN (who.stream.getD 0) 22 ||| atN v.scope 20 ||| atN x.scope 18 ||| atN v.cid 0)
        ∧ (x.scope ≤ v.scope → v.scope ≠ 0 ∨ v.tile = who.tile →
            u.lodge.mm = s.lodge.mm ∧ u.lodge.mmCount = s.lodge.mmCount))
    ∧ (classHolds (cntClass s v.cid) n x.operand x.cond = false →
      ∃ u a, exec (.signalApply i ⟨.clean, [], true⟩) s = .next u ∧ u.lodge.watches = [(w, x)] ∧ cntVal u v.cid = n
        ∧ u.prom.net = s.prom.net.eraseIdx i ++ [a] ∧ a.body = .updAck v 0)

/-- SIGNAL_APPLY of an update that fails leaves every counter and fires no watch; a CREDIT update past the capacity sets the
counter to it and OVERCREDIT, a TALLY update whose result is 2^32 − 1 sets TALLYSAT (the model's reading takes one that starts there
too, log 47), and both raise LODGE_ERR and are acknowledged as applied. -/
def Obligations.FailedAndClampedUpdates : Prop :=
  ∀ (s : State) (i h : Nat) (m : Msg) (v : Upd),
    let c := v.cid
    let cap := if cntDepth s c = 0 then 2 ^ 31 - 1 else cntDepth s c
    arrived s i = some m → m.body = .upd v → m.dst = .lodge h → availOf s (sliceDom s c) = .on → v.kind = 1 →
    CounterGood s c →
    (∀ code, newValue s c v.value = .fail code →
      ∃ u k, exec (.signalApply i ⟨.clean, [], true⟩) s = .next u ∧ u.lodge.val = s.lodge.val ∧ u.lodge.watches = s.lodge.watches
        ∧ u.prom.net = s.prom.net.eraseIdx i ++ [k] ∧ k.body = .updAck v code)
    ∧ (cntClass s c = 1 → slotsOn s c = [] → (cap : Int) < (cntVal s c).toNat + v.value.toInt →
      ∃ u k, exec (.signalApply i ⟨.clean, [], true⟩) s = .next u ∧ (cntVal u c).toNat = cap ∧ bit u.lodge.flags 2 = true
        ∧ Heard s u 5 0 0 0 0
        ∧ u.prom.net = s.prom.net.eraseIdx i ++ [k] ∧ k.body = .updAck v 0)
    ∧ (2 ≤ cntClass s c → slotsOn s c = [] → 2 ^ 32 - 1 ≤ (cntVal s c).toNat + v.value.toNat →
      ∃ u k, exec (.signalApply i ⟨.clean, [], true⟩) s = .next u ∧ cntVal u c = 0xFFFFFFFF ∧ bit u.lodge.flags 1 = true
        ∧ Heard s u 5 0 0 0 0
        ∧ u.prom.net = s.prom.net.eraseIdx i ++ [k] ∧ k.body = .updAck v 0)

/-- A poisoned counter fails every update with FAULT_UNRECOVERED, whoever makes it, and keeps its value; a registration of a
watch on it is answered with a fault delivery; LD_VALUE and LD_ATOM read 0; a write of LD_VALUE clears the poison. -/
def Obligations.PoisonedCounter : Prop :=
  ∀ (s : State) (c : Nat), c ∈ s.lodge.poison →
    (∀ v : Upd, v.cid = c → applyUpd s v = (failUpd s v 0x38, 0x38) ∧ (failUpd s v 0x38).lodge.val = s.lodge.val
      ∧ (failUpd s v 0x38).lodge.watches = s.lodge.watches)
    ∧ (∀ i h m v, arrived s i = some m → m.body = .upd v → m.dst = .lodge h → availOf s (sliceDom s c) = .on → v.cid = c →
      v.kind = 1 → ∃ u k, exec (.signalApply i ⟨.clean, [], true⟩) s = .next u ∧ u.lodge.val = s.lodge.val
        ∧ u.prom.net = s.prom.net.eraseIdx i ++ [k] ∧ k.body = .updAck v 0x38)
    ∧ (∀ i h m r, arrived s i = some m → m.body = .watchReg r → m.dst = .lodge h → availOf s (sliceDom s c) = .on →
      r.cid = c → ∃ u k, exec (.watchRegistration (sound i)) s = .next u ∧ u.lodge = s.lodge
        ∧ u.prom.net = s.prom.net.eraseIdx i ++ [k] ∧ k.dst = .tile r.who.tile ∧ k.body = .wake r 0x38 true)
    ∧ (∀ a : BitVec 26, Reaches s a.toNat (.ldValue c) → Tab.find s.cp.shadow a.toNat = none →
      ∃ u, exec (.registerPairLoRead a) s = .next u ∧ u.cp.rdata = 0 ∧ u.cp.err = false)
    ∧ ∀ b : BitVec 14, b.toNat = c →
      (Reaches s (0x500008 + 16 * c) (.ldAtom c) → Tab.find s.cp.shadow (0x500008 + 16 * c) = none →
        ∃ u, exec (.ldAtom (good b)) s = .next u ∧ u.cp.rdata = 0 ∧ u.lodge = s.lodge)
      ∧ (∀ v, Reaches s (0x500004 + 16 * c) (.ldAdd c) →
        ∃ u, exec (.ldAdd (sound b) v) s = .next u ∧ u.cp.err = true ∧ u.lodge.val = s.lodge.val)
      ∧ ∀ v, Reaches s (0x500000 + 16 * c) (.ldValue c) → ∃ u, exec (.ldValue b v) s = .next u ∧ c ∉ u.lodge.poison

/-- When a counter satisfies a condition: EQ exactly; GE, ACQUIRE and CLAIM by serial-number comparison for a SEQUENCE counter
and unsigned for the others; a CREDIT counter never reaches an operand of 2^31 or more. -/
def Sys2Proof.Claims.CounterComparison : Prop :=
  ∀ (cls : Nat) (v x : Word) (cond : Nat),
    (cond = 1 → cls ≠ 1 → (classHolds cls v x cond = true ↔ v = x))
    ∧ (cond ≠ 1 → cls = 0 → (classHolds cls v x cond = true ↔ (v.toNat + 2 ^ 32 - x.toNat) % 2 ^ 32 < 2 ^ 31))
    ∧ (cond ≠ 1 → 2 ≤ cls → (classHolds cls v x cond = true ↔ x.toNat ≤ v.toNat))
    ∧ (cls = 1 → (classHolds cls v x cond = true ↔ x.toNat < 2 ^ 31 ∧ (if cond = 1 then v = x else x.toNat ≤ v.toNat)))

/-- WATCH_REGISTRATION at a bank that serves: a condition that holds is delivered at once; one that does not takes the bank's
lowest free slot (the model's choice, log 43); with none free the registration is answered FULL, and counted so. -/
def Sys2Proof.Claims.RegistrationWatches : Prop :=
  ∀ (s : State) (i h : Nat) (m : Msg) (r : Reg),
    arrived s i = some m → m.body = .watchReg r → m.dst = .lodge h → availOf s (sliceDom s r.cid) = .on →
    r.cid ∉ s.lodge.poison → slotsOn s r.cid = [] →
    (cntHolds s r.cid (cntVal s r.cid) r.operand r.cond = true →
      ∃ u k, exec (.watchRegistration (sound i)) s = .next u ∧ u.prom.net = s.prom.net.eraseIdx i ++ [k]
        ∧ k.dst = .tile r.who.tile ∧ k.body = .wake r (if r.cond = 3 then 1 else 0) false
        ∧ cntVal u r.cid = (if 2 ≤ r.cond then cntVal s r.cid - r.operand else cntVal s r.cid)
        ∧ OtherCounters s u r.cid ∧ u.lodge.watches = s.lodge.watches)
    ∧ (∀ w, cntHolds s r.cid (cntVal s r.cid) r.operand r.cond = false → freeSlot s r.cid = some w →
      ∃ u x, exec (.watchRegistration (sound i)) s = .next u ∧ u.prom.net = s.prom.net.eraseIdx i
        ∧ u.lodge.watches = Tab.put s.lodge.watches w x ∧ x.cid = r.cid ∧ x.cond = r.cond ∧ x.operand = r.operand
        ∧ x.scope = r.scope ∧ x.who = some r.who ∧ x.act = 0 ∧ u.lodge.val = s.lodge.val)
    ∧ (cntHolds s r.cid (cntVal s r.cid) r.operand r.cond = false → freeSlot s r.cid = none →
      ∃ u k, exec (.watchRegistration (sound i)) s = .next u ∧ u.lodge = { s.lodge with fullCount := satInc s.lodge.fullCount }
        ∧ u.tiles = s.tiles ∧ u.prom.net = s.prom.net.eraseIdx i ++ [k] ∧ k.dst = .tile r.who.tile ∧ k.body = .regFull r)

/-- A slice that is off answers an update, which its counter does not take, and a registration with UNIT_OFFLINE; one that quiesces
turns both back; one in reset or without its clock drops them. -/
def Sys2Proof.Claims.UnavailableSlice : Prop :=
  ∀ (s : State) (i h c : Nat) (m : Msg) (cmd : Instr), arrived s i = some m → m.dst = .lodge h →
    (∃ v : Upd, m.body = .upd v ∧ v.kind ≤ 1 ∧ v.cid = c ∧ cmd = .signalApply i ⟨.clean, [], true⟩)
      ∨ (∃ r : Reg, m.body = .watchReg r ∧ r.cid = c ∧ cmd = .watchRegistration (sound i)) →
    (availOf s (sliceDom s c) = .off → ∃ u k, exec cmd s = .next u ∧ u.lodge.val = s.lodge.val
      ∧ u.lodge.watches = s.lodge.watches ∧ u.tiles = s.tiles ∧ u.prom.net = s.prom.net.eraseIdx i ++ [k]
      ∧ (∀ v, m.body = .upd v → k.dst = .tile v.tile ∧ k.body = .updAck v 0x30)
      ∧ ∀ r, m.body = .watchReg r → k.dst = .tile r.who.tile ∧ k.body = .wake r 0x30 true)
    ∧ (availOf s (sliceDom s c) = .later → ∃ u k, exec cmd s = .next u ∧ OnlyNet s u
      ∧ u.prom.net = s.prom.net.eraseIdx i ++ [k] ∧ k.body = m.body ∧ k.again = true ∧ k.src = m.dst ∧ k.dst = m.src)
    ∧ (availOf s (sliceDom s c) = .dead → exec cmd s = .next (dropMsg s i))

/-- WATCH_REGISTRATION_RETRY sends a registration that was answered FULL to its counter's home once more. -/
def Sys2Proof.Claims.RegistrationRetried : Prop :=
  ∀ (s : State) (t k : Nat) (r : Reg), coreRuns s t = true → (s.tile t).fullRegs[k]? = some r →
    ∃ u m, exec (.watchRegistrationRetry t k) s = .next u ∧ OnlyTileNet s u t
      ∧ u.tile t = { s.tile t with fullRegs := (s.tile t).fullRegs.eraseIdx k } ∧ u.prom.net = s.prom.net ++ [m]
      ∧ m.dst = .lodge (homeBank s r.cid) ∧ m.body = .watchReg r

/-- WATCH_DELIVERY to a stream that has not launched marks the condition as fired, and only that; to a source held by an
instruction that has not launched, it marks that one's; to a source held at the WAIT it is for, it ends the WAIT, a CLAIM writing
its result to RREG; where the waiter is gone, the operand that an ACQUIRE or a successful CLAIM took goes back to the counter. A
fault delivery ends the waiting instruction of a stream with its code, and the answer FULL leaves the registration with the tile
while its waiter waits. -/
def Sys2Proof.Claims.DeliveryReachesWaiter : Prop :=
  (∀ (s : State) (i t : Nat) (m : Msg) (r : Reg),
    arrived s i = some m → m.body = .regFull r → m.dst = .tile t → coreRuns s t = true →
    (stillWaits s r.who = true → ∃ u, exec (.watchDelivery i) s = .next u ∧ OnlyTileNet s u t
      ∧ u.tile t = { s.tile t with fullRegs := (s.tile t).fullRegs ++ [r] } ∧ u.prom.net = s.prom.net.eraseIdx i)
    ∧ (stillWaits s r.who = false → exec (.watchDelivery i) s = .next (dropMsg s i)))
  ∧ (∀ (s : State) (i t n code : Nat) (m : Msg) (r : Reg) (st : Stream),
    arrived s i = some m → m.body = .wake r code true → m.dst = .tile t → r.who.tile = t → coreRuns s t = true →
    r.who.stream = some n → s.stream? t n = some st → st.src = r.who.src → st.ord = r.who.ord → st.launched = false →
    code < 256 → ∃ u, exec (.watchDelivery i) s = .next u ∧ u.stream? t n = none ∧ u.spad = s.spad
      ∧ ((s.tile t).xheld = [] → (u.tile t).g = (s.tile t).g)
      ∧ ∀ e, st.entry = some e → ∃ c ∈ (u.ring e.ring).comps, c.idx = e.idx ∧ fld c.w72 7 0 = code)
  ∧ ∀ (s : State) (i t : Nat) (m : Msg) (r : Reg) (res : Nat),
    arrived s i = some m → m.body = .wake r res false → m.dst = .tile t → r.who.tile = t → coreRuns s t = true →
    (∀ n st, r.who.stream = some n → s.stream? t n = some st → st.src = r.who.src → st.ord = r.who.ord →
      st.launched = false → StreamBecomes s t n (exec (.watchDelivery i) s) (fun u st' =>
        st' = { st with launch := st'.launch } ∧ u.prom.net = s.prom.net.eraseIdx i
        ∧ st'.launch.conds.map (·.fired) =
            st.launch.conds.zipIdx.map (fun p => p.1.fired || decide (p.2 = r.who.cond))))
    ∧ (∀ h, r.who.stream = none → ((s.tile t).source r.who.src).hold = .instr h →
      ((s.tile t).source r.who.src).ord = r.who.ord →
      ∃ u k, exec (.watchDelivery i) s = .next u ∧ OnlyTileNet s u t ∧ u.prom.net = s.prom.net.eraseIdx i
        ∧ u.tile t = (s.tile t).setSource r.who.src
            { (s.tile t).source r.who.src with hold := .instr { h with launch := k } }
        ∧ k.conds.map (·.fired) = h.launch.conds.zipIdx.map (fun p => p.1.fired || decide (p.2 = r.who.cond)))
    ∧ (∀ w, r.who.stream = none → r.who.cond = 2 → ((s.tile t).source r.who.src).hold = .wait w → w.ord = r.who.ord →
      ∃ u, exec (.watchDelivery i) s = .next u ∧ ((u.tile t).source r.who.src).hold = .none ∧ u.spad = s.spad
        ∧ ∀ n, (u.tile t).greg n =
            if w.cond = 3 ∧ n = w.rreg ∧ n ≠ 0 then BitVec.ofNat 64 res else (s.tile t).greg n)
    ∧ (∀ n, r.who.stream = some n → s.stream? t n = none → r.cond = 2 ∨ (r.cond = 3 ∧ res = 1) →
      ∃ u k v, exec (.watchDelivery i) s = .next u ∧ u.tiles = s.tiles ∧ u.prom.net = s.prom.net.eraseIdx i ++ [k]
        ∧ k.dst = .lodge (homeBank s r.cid) ∧ k.body = .upd v ∧ v.cid = r.cid ∧ v.value = r.operand)

/-- WATCH_WITHDRAWAL removes the watch of one waiter on one counter, and no other watch, at a slice that serves or quiesces (that it
is taken while the slice quiesces is the model's choice, log 56, as is that it travels as a message, log 55); at one that does not
serve, nothing is there to remove. -/
def Sys2Proof.Claims.WithdrawalRemovesWatch : Prop :=
  ∀ (s : State) (i h : Nat) (m : Msg) (r : Reg),
    arrived s i = some m → m.body = .withdraw r → m.dst = .lodge h →
    (availOf s (sliceDom s r.cid) = .on ∨ availOf s (sliceDom s r.cid) = .later →
      ∃ u, exec (.watchWithdrawal i) s = .next u ∧ u.prom.net = s.prom.net.eraseIdx i ∧ u.tiles = s.tiles ∧ u.spad = s.spad
        ∧ u.lodge = { s.lodge with watches := u.lodge.watches }
        ∧ ∀ p, p ∈ u.lodge.watches ↔ p ∈ s.lodge.watches ∧ ¬ (p.2.who = some r.who ∧ p.2.cid = r.cid))
    ∧ (availOf s (sliceDom s r.cid) = .off ∨ availOf s (sliceDom s r.cid) = .dead →
      exec (.watchWithdrawal i) s = .next (dropMsg s i))

/-- TIMED_SIGNAL: a timer whose deadline the local time has reached adds its increment to its counter and is gone; before that
it stays. TIMER_ARM: a host watch that waits for a timer arms one of its bank once fewer than 16 are armed there, and where it
does not rearm it frees its slot. -/
def Sys2Proof.Claims.TimersSignal : Prop :=
  (∀ (s : State) (k : Nat) (x : Timer),
    s.lodge.timers[k]? = some x → s.active (GenConfig.domFixed s.gen x.slice) = true →
    (x.deadline ≤ s.pg.time → s.active (sliceDom s x.tcid) = true → CounterGood s x.tcid → slotsOn s x.tcid = [] →
      ∃ u, exec (.timedSignal (sound k)) s = .next u ∧ u.lodge.timers = s.lodge.timers.eraseIdx k ∧ u.tiles = s.tiles
        ∧ cntVal u x.tcid = (updatedCnt s x.tcid (x.inc.zeroExtend 32)).1 ∧ OtherCounters s u x.tcid
        ∧ u.prom.net = s.prom.net)
    ∧ (s.pg.time < x.deadline → exec (.timedSignal (sound k)) s = .next s))
  ∧ ∀ (s : State) (w : BitVec 12) (x : Watch) (d : DWord),
    Tab.find s.lodge.watches w.toNat = some x → x.due = some d → s.active (sliceDom s x.cid) = true →
    (timersIn s x.cid < 16 → s.pg.time < d → x.rearm = false →
      ∃ u y, exec (.timerArm (sound w)) s = .next u ∧ u.lodge = { s.lodge with
          timers := s.lodge.timers ++ [y], watches := Tab.erase s.lodge.watches w.toNat }
        ∧ y.deadline = d ∧ y.tcid = x.tsig.tcid ∧ y.inc = x.tsig.inc ∧ (y.slice, y.bank) = bankOfCnt s x.cid
        ∧ u = { s with lodge := u.lodge })
    ∧ (16 ≤ timersIn s x.cid → exec (.timerArm (sound w)) s = .next s)

/-- EXPRESS_UPDATE: the updates that wait first on each wire are summed in one cycle: each express counter takes the sum modulo
2^32 of those for it, no other counter changes, and each update is acknowledged to the tile it came from. A second update on a wire
waits for the next cycle. A data signal that has been added already is acknowledged and adds nothing. With no update waiting nothing
changes. -/
def Sys2Proof.Claims.ExpressAdds : Prop :=
  (∀ (s : State) (vs : List Upd), s.lodge.xupds = vs → (vs.map (·.wire)).Nodup → (∀ t, (s.tile t).xwatches = []) →
    (∀ v ∈ vs, v.kind ≤ 1 ∧ (v.kind = 0 → seqOld s.lodge.applied .combiner v.tile v.stream v.seq = false)) →
    ∃ u ks, exec .expressUpdate s = .next u ∧ u.lodge.xupds = []
      ∧ (∀ e, Tab.get u.lodge.xval 0 e =
          (vs.filter (fun v => decide (v.cid = e))).foldl (fun a v => a + v.value) (Tab.get s.lodge.xval 0 e))
      ∧ u.lodge.val = s.lodge.val ∧ u.prom.net = s.prom.net ++ ks
      ∧ ks.map (fun k => (k.dst, k.body)) = vs.map (fun v => (Node.tile v.tile, Body.updAck v 0))
      ∧ ∀ t n, (u.tile t).greg n = (s.tile t).greg n)
  ∧ (∀ (s : State) (a b : Upd), s.lodge.xupds = [a, b] → a.wire = b.wire → a.kind = 1 → (∀ t, (s.tile t).xwatches = []) →
    ∃ u k, exec .expressUpdate s = .next u ∧ u.lodge.xupds = [b] ∧ u.prom.net = s.prom.net ++ [k] ∧ k.body = .updAck a 0
      ∧ ∀ e, Tab.get u.lodge.xval 0 e =
          if e = a.cid then Tab.get s.lodge.xval 0 e + a.value else Tab.get s.lodge.xval 0 e)
  ∧ (∀ (s : State) (v : Upd), s.lodge.xupds = [v] → v.kind = 0 →
    seqOld s.lodge.applied .combiner v.tile v.stream v.seq = true →
    ∃ u k, exec .expressUpdate s = .next u ∧ u.lodge = { s.lodge with xupds := [] } ∧ u.tiles = s.tiles
      ∧ u.prom.net = s.prom.net ++ [k] ∧ k.dst = .tile v.tile ∧ k.body = .updAck v 0)
  ∧ ∀ s : State, s.lodge.xupds = [] → exec .expressUpdate s = .next s

/-- Host accesses to counters that no watch is on: a write of LD_VALUE sets the counter and clears its poison, LD_ADD updates
it by its class and is answered with an error where the update fails, which is captured as the host's, and LD_CFG sets its configuration unless the write is one
that is ignored. -/
def Obligations.HostCounterAccess : Prop :=
  ∀ (s : State) (c : BitVec 14) (v : Word), slotsOn s c.toNat = [] →
    (Reaches s (0x500000 + 16 * c.toNat) (.ldValue c.toNat) →
      ∃ u, exec (.ldValue c v) s = .next u ∧ cntVal u c.toNat = v ∧ OtherCounters s u c.toNat
        ∧ c.toNat ∉ u.lodge.poison ∧ u.cp.err = false ∧ u.tiles = s.tiles ∧ u.prom = s.prom)
    ∧ (Reaches s (0x500004 + 16 * c.toNat) (.ldAdd c.toNat) → CounterGood s c.toNat →
      ∃ u, exec (.ldAdd (sound c) v) s = .next u ∧ cntVal u c.toNat = (updatedCnt s c.toNat v).1 ∧ OtherCounters s u c.toNat
        ∧ u.cp.err = decide ((updatedCnt s c.toNat v).2 ≠ 0) ∧ u.tiles = s.tiles ∧ u.prom = s.prom
        ∧ ((updatedCnt s c.toNat v).2 ≠ 0 → ErrCaptured s u true 0 0 (updatedCnt s c.toNat v).2 c.toNat))
    ∧ (Reaches s (0x50000C + 16 * c.toNat) (.ldCfg c.toNat) →
      (ldCfgBad s c.toNat v = false → ∃ u, exec (.ldCfg c v) s = .next u ∧ Tab.get u.lodge.cfg 0 c.toNat = v
        ∧ (∀ k, k ≠ c.toNat → Tab.get u.lodge.cfg 0 k = Tab.get s.lodge.cfg 0 k) ∧ u.lodge.val = s.lodge.val)
      ∧ (ldCfgBad s c.toNat v = true → ∃ u, exec (.ldCfg c v) s = .next u ∧ u.lodge.cfg = s.lodge.cfg
        ∧ u.lodge.val = s.lodge.val ∧ bit u.lodge.flags 3 = true))

/-- A read of LD_ATOM of a counter that is not poisoned returns its value, and takes 1 from a CREDIT counter of at least 1; no
other counter, and no counter of another class, changes. That a claim evaluates no watch is the model's choice (log 48). -/
def Obligations.AtomClaims : Prop :=
  ∀ (s : State) (c : BitVec 14), Reaches s (0x500008 + 16 * c.toNat) (.ldAtom c.toNat) →
    Tab.find s.cp.shadow (0x500008 + 16 * c.toNat) = none → c.toNat ∉ s.lodge.poison →
    ∃ u, exec (.ldAtom (good c)) s = .next u ∧ u.cp.rdata = cntVal s c.toNat ∧ u.cp.err = false
      ∧ (∀ k, cntVal u k = if k = c.toNat ∧ cntClass s k = 1 ∧ cntVal s k ≠ 0 then cntVal s k - 1 else cntVal s k)
      ∧ u.lodge.watches = s.lodge.watches ∧ u.tiles = s.tiles ∧ u.prom = s.prom

/-- LD_CTX sets one context entry, whose reserved bits stay 0, in the copy of every leaf router; LD_XVALUE sets one express counter; LD_XADD puts an update on
the root's wire. No other entry or counter changes. -/
def Sys2Proof.Claims.HostContextAccess : Prop :=
  ∀ (s : State) (v : Word),
    (∀ (x : BitVec 8) (i : BitVec 6),
      Reaches s (0x540000 + 256 * x.toNat + 4 * i.toNat) (.ldCtx (64 * x.toNat + i.toNat)) →
      let mine := fun (k : Nat) => ∃ p, p < GenConfig.leaves s.gen ∧ k = ctxPlace p (64 * x.toNat + i.toNat)
      ∃ u, exec (.ldCtx x i v) s = .next u ∧ (∀ k, mine k → Tab.get u.lodge.ctx 0 k = v &&& 0xC0003FFF)
        ∧ (∀ k, ¬ mine k → Tab.get u.lodge.ctx 0 k = Tab.get s.lodge.ctx 0 k)
        ∧ u.lodge.val = s.lodge.val ∧ u.tiles = s.tiles ∧ u.prom = s.prom)
    ∧ ∀ e : BitVec 8,
      (Reaches s (0x560000 + 16 * e.toNat) (.ldXvalue e.toNat) → (∀ t, (s.tile t).xwatches = []) →
        ∃ u, exec (.ldXvalue e v) s = .next u ∧ u.lodge.val = s.lodge.val
          ∧ ∀ k, Tab.get u.lodge.xval 0 k = if k = e.toNat then v else Tab.get s.lodge.xval 0 k)
      ∧ (Reaches s (0x560004 + 16 * e.toNat) (.ldXadd e.toNat) →
        ∃ u a, exec (.ldXadd e v) s = .next u ∧ u.lodge = { s.lodge with xupds := s.lodge.xupds ++ [a] }
          ∧ a.cid = e.toNat ∧ a.value = v ∧ a.wire = 128 ∧ a.kind = 2 ∧ u.tiles = s.tiles)

/-- LD_HW_CMD.GO with registers that describe an allowed watch whose condition does not hold takes the bank's lowest free
slot (log 43), with RESULT 0 and its number in SLOT, or answers RESULT 2 where none is free (log 54; both the model's choice); CANCEL frees a host watch and its unexpired
timers. -/
def Sys2Proof.Claims.HostWatches : Prop :=
  ∀ (s : State) (v : Word),
    let x := hostWatch s.lodge
    (Reaches s 0x570034 .ldHwCmd → x.act ≠ 4 → x.scope ≠ 3 → cpCnt s x.cid = true → x.cid ∉ s.lodge.poison →
      s.active (sliceDom s x.cid) = true → slotsOn s x.cid = [] →
      cntHolds s x.cid (cntVal s x.cid) x.operand x.cond = false →
      (∀ w, freeSlot s x.cid = some w → ∃ u, exec (.ldHwCmdGo v) s = .next u ∧ u.lodge.hwResult = 0
        ∧ u.lodge.hwSlot = BitVec.ofNat 12 w ∧ u.lodge.watches = Tab.put s.lodge.watches w x
        ∧ u.lodge.val = s.lodge.val ∧ u.lodge.timers = s.lodge.timers)
      ∧ (freeSlot s x.cid = none → ∃ u, exec (.ldHwCmdGo v) s = .next u ∧ u.lodge.hwResult = 2
        ∧ u.lodge.watches = s.lodge.watches ∧ u.lodge.val = s.lodge.val))
    ∧ ∀ y, Reaches s 0x570034 .ldHwCmd → Tab.find s.lodge.watches (fld v 11 0) = some y → y.who = none →
      ∃ u, exec (.ldHwCmdCancel v) s = .next u ∧ Tab.find u.lodge.watches (fld v 11 0) = none
        ∧ (∀ w, w ≠ fld v 11 0 → Tab.find u.lodge.watches w = Tab.find s.lodge.watches w)
        ∧ (∀ k, k ∈ u.lodge.timers ↔ k ∈ s.lodge.timers ∧ k.slot ≠ fld v 11 0) ∧ u.lodge.val = s.lodge.val

/-- SIGNAL_ACKNOWLEDGEMENT takes the SIG that was sent out of its pending-signal queue and completes its ring entry with the
code, be it DONE or the code of a failed update; OVERRUN_ANSWER does so for a BAR with BARRIER_OVERRUN; RETRY_LATER sends a
turned-back registration, or a read whose stream still runs, again, and drops a read whose run has ended. -/
def Obligations.AnswersReachTile : Prop :=
  (∀ (s : State) (i t code : Nat) (m : Msg) (v : Upd) (p : PendSig) (e : EntryRef),
    arrived s i = some m → m.body = .updAck v code → m.dst = .tile t → v.kind = 1 → coreRuns s t = true →
    pendSent (s.tile t) v.src v.ord = some p → p.entry = some e → code < 256 → (code = 0 → p.launch.kind = 0) →
    ∃ u c, exec (.signalAcknowledgement i) s = .next u ∧ p ∉ (u.tile t).pend (Source.isRing p.src)
      ∧ c ∈ (u.ring e.ring).comps ∧ c.idx = e.idx ∧ fld c.w72 7 0 = code ∧ u.spad = s.spad
      ∧ (code = 0 → u.prom.net = s.prom.net.eraseIdx i ∧ (u.tile t).pend (Source.isRing p.src) =
          ((s.tile t).pend (Source.isRing p.src)).filter (fun q => decide (q ≠ p))))
  ∧ (∀ (s : State) (i t : Nat) (m : Msg) (a : Arrival) (p : PendSig) (e : EntryRef),
    arrived s i = some m → m.body = .overrun a → m.dst = .tile t → a.tile = t → coreRuns s t = true →
    pendSent (s.tile t) a.src a.ord = some p → p.entry = some e → p.wrel = false →
    ∃ u c, exec (.overrunAnswer i) s = .next u ∧ p ∉ (u.tile t).pend (Source.isRing p.src)
      ∧ c ∈ (u.ring e.ring).comps ∧ c.idx = e.idx ∧ fld c.w72 7 0 = 0x2A)
  ∧ (∀ (s : State) (i : Nat) (m : Msg) (r : Reg),
    s.prom.net[i]? = some m → m.again = true → m.route = [] → m.body = .watchReg r → r.express = false →
    ∃ u k, exec (.retryLater i) s = .next u ∧ OnlyNet s u ∧ u.prom.net = s.prom.net.eraseIdx i ++ [k]
      ∧ k.body = .watchReg r ∧ k.src = .tile r.who.tile ∧ k.dst = .lodge (homeBank s r.cid) ∧ k.again = false
      ∧ k.cls = .lodge)
  ∧ ∀ (s : State) (i : Nat) (m : Msg) (r : ReadReq),
    s.prom.net[i]? = some m → m.again = true → m.route = [] → m.body = .rd r →
    (∀ st, matchStream s r.tile r.stream r.src r.ord r.epoch = some st →
      ∃ u k, exec (.retryLater i) s = .next u ∧ OnlyNet s u ∧ u.prom.net = s.prom.net.eraseIdx i ++ Msg.split k ∧ k.flits = 1
        ∧ k.body = .rd r ∧ k.src = .tile r.tile ∧ k.again = false ∧ k.cls = .request ∧ k.slack = slackOf s st true)
    ∧ (matchStream s r.tile r.stream r.src r.ord r.epoch = none → exec (.retryLater i) s = .next (dropMsg s i))

/-! ## Barriers -/

/-- BARRIER_ARRIVAL in the present generation, with fewer than N arrivals before it: the arrival is counted with the lowest
scope so far; the N-th releases the generation to every tile, the next generation's counts move up, and with SIGEN the barrier's
signal of 1 goes to its counter, with MSGEN its vector becomes pending. The arrival that was sent leaves its pending-signal queue: a
BAR with WREL = 0 completes as its arrival is accepted (the model's choice, log 27). -/
def Sys2Proof.Claims.ArrivalCounts : Prop :=
  ∀ (s : State) (i : Nat) (m : Msg) (a : Arrival),
    let x := s.bar a.bar
    let w := barCfg s a.bar
    arrived s i = some m → m.body = .arrive a → m.dst = .band → availOf s (bandDom s) = .on →
    (a.a + 4 - x.gen) % 4 = 0 → x.cnt0 < barN s a.bar → x.cnt1 < barN s a.bar →
    (∀ p, pendSent (s.tile a.tile) a.src a.ord = some p → ∃ u, exec (.barrierArrival i) s = .next u
      ∧ p ∉ (u.tile a.tile).pend (Source.isRing p.src) ∧ ∀ e, p.wrel = false → p.entry = some e → p.launch.kind = 0 →
        ∃ c ∈ (u.ring e.ring).comps, c.idx = e.idx ∧ fld c.w72 7 0 = 0)
    ∧ (pendSent (s.tile a.tile) a.src a.ord = none → ∃ u, exec (.barrierArrival i) s = .next u ∧ u.tiles = s.tiles)
    ∧ (x.cnt0 + 1 < barN s a.bar → ∃ u, exec (.barrierArrival i) s = .next u
      ∧ u.bar a.bar = { x with cnt0 := x.cnt0 + 1, scope0 := min x.scope0 a.scope }
      ∧ (∀ b, b ≠ a.bar → u.bar b = s.bar b) ∧ u.prom.net = s.prom.net.eraseIdx i ∧ u.spad = s.spad)
    ∧ (x.cnt0 + 1 = barN s a.bar → ∃ u ks gs, exec (.barrierArrival i) s = .next u
      ∧ u.bar a.bar = { gen := (x.gen + 1) % 4, cnt0 := x.cnt1, cnt1 := 0, scope0 := x.scope1, scope1 := 2 }
      ∧ (∀ b, b ≠ a.bar → u.bar b = s.bar b) ∧ u.prom.net = s.prom.net.eraseIdx i ++ ks ++ gs
      ∧ ks.length = GenConfig.T s.gen
      ∧ (∀ t, t < GenConfig.T s.gen → ∃ k ∈ ks, k.dst = .tile t
          ∧ k.body = .release a.bar x.gen (min x.scope0 a.scope) false t)
      ∧ (bit w 24 = false → gs = [])
      ∧ (bit w 24 = true → ∃ g v, gs = [g] ∧ g.dst = .lodge (homeBank s (fld w 23 10)) ∧ g.cls = .lodge ∧ g.body = .upd v
          ∧ v.cid = fld w 23 10 ∧ v.value = 1 ∧ v.scope = min x.scope0 a.scope ∧ v.kind = 3)
      ∧ (bit w 31 = true → (Tab.get u.gate.vecs Vec.init (fld w 30 25)).pend = true)
      ∧ (pendSent (s.tile a.tile) a.src a.ord = none → u.gate.vecs =
          if bit w 31 then Tab.put s.gate.vecs (fld w 30 25) { Tab.get s.gate.vecs Vec.init (fld w 30 25) with
            pend := true, occ := satInc (Tab.get s.gate.vecs Vec.init (fld w 30 25)).occ } else s.gate.vecs))

/-- BARRIER_ARRIVAL of the next generation, with fewer than N arrivals to it before: it is counted in CNT1 with the lowest scope so
far, and releases nothing. Where CNT1 has reached N, the arrival that completes the present generation releases both in turn. -/
def Sys2Proof.Claims.ArrivalsAhead : Prop :=
  ∀ (s : State) (i : Nat) (m : Msg) (a : Arrival),
    let x := s.bar a.bar
    arrived s i = some m → m.body = .arrive a → m.dst = .band → availOf s (bandDom s) = .on → x.cnt0 < barN s a.bar →
    ((a.a + 4 - x.gen) % 4 = 1 → x.cnt1 < barN s a.bar → ∃ u, exec (.barrierArrival i) s = .next u
      ∧ u.bar a.bar = { x with cnt1 := x.cnt1 + 1, scope1 := min x.scope1 a.scope }
      ∧ (∀ b, b ≠ a.bar → u.bar b = s.bar b) ∧ u.prom.net = s.prom.net.eraseIdx i ∧ u.spad = s.spad
      ∧ ∀ p, pendSent (s.tile a.tile) a.src a.ord = some p → p ∉ (u.tile a.tile).pend (Source.isRing p.src))
    ∧ ((a.a + 4 - x.gen) % 4 = 0 → x.cnt0 + 1 = barN s a.bar → x.cnt1 = barN s a.bar → bit (barCfg s a.bar) 24 = false →
      ∃ u ks, exec (.barrierArrival i) s = .next u
        ∧ u.bar a.bar = { gen := (x.gen + 2) % 4, cnt0 := 0, cnt1 := 0, scope0 := 2, scope1 := 2 }
        ∧ u.prom.net = s.prom.net.eraseIdx i ++ ks ∧ ks.length = 2 * GenConfig.T s.gen
        ∧ ∀ t, t < GenConfig.T s.gen → (∃ k ∈ ks, k.dst = .tile t
            ∧ k.body = .release a.bar x.gen (min x.scope0 a.scope) false t)
          ∧ ∃ k ∈ ks, k.dst = .tile t ∧ k.body = .release a.bar ((x.gen + 1) % 4) x.scope1 false t)

/-- An arrival two or three generations ahead, or beyond N, is an overrun: it is not counted, it is captured in BS_ERR while
VALID is 0 and counted there, and its tile is told. -/
def Sys2Proof.Claims.OverrunNotCounted : Prop :=
  ∀ (s : State) (i : Nat) (m : Msg) (a : Arrival),
    arrived s i = some m → m.body = .arrive a → m.dst = .band → availOf s (bandDom s) = .on →
    2 ≤ (a.a + 4 - (s.bar a.bar).gen) % 4 ∨ ((a.a + 4 - (s.bar a.bar).gen) % 4 = 0 ∧ barN s a.bar ≤ (s.bar a.bar).cnt0)
      ∨ ((a.a + 4 - (s.bar a.bar).gen) % 4 = 1 ∧ barN s a.bar ≤ (s.bar a.bar).cnt1) →
    ∃ u k, exec (.barrierArrival i) s = .next u ∧ u.band.bars = s.band.bars ∧ u.band.errCount = satInc s.band.errCount
      ∧ bit u.band.err 31 = true ∧ (bit s.band.err 31 = true → u.band.err = s.band.err)
      ∧ u.prom.net = s.prom.net.eraseIdx i ++ [k] ∧ k.dst = .tile a.tile ∧ k.body = .overrun a ∧ u.tiles = s.tiles

/-- RELEASE_DELIVERY ends the BAR of a source that waits for that barrier and generation, and with it the hold of its source: a
ring's with DONE. The release of a barrier that was reset ends it whatever its generation. A BAR of another barrier goes on
waiting. -/
def Sys2Proof.Claims.ReleaseEndsBar : Prop :=
  ∀ (s : State) (i t bar gen sc : Nat) (failed : Bool) (src : Source) (m : Msg) (b : BarSt),
    arrived s i = some m → m.body = .release bar gen sc failed t → m.dst = .tile t → coreRuns s t = true →
    src ∈ sources → ((s.tile t).source src).hold = .bar b →
    (b.bar = bar → b.gen < 4 → failed = true ∨ b.gen = gen → ∃ u, exec (.releaseDelivery i) s = .next u
      ∧ ((u.tile t).source src).hold = .none ∧ (failed = false ∨ (s.tile t).xheld = [] → (u.tile t).g = (s.tile t).g)
      ∧ u.spad = s.spad
      ∧ ∀ e, failed = false → b.entry = some e → b.launch.kind = 0 →
          ∃ c ∈ (u.ring e.ring).comps, c.idx = e.idx ∧ fld c.w72 7 0 = 0)
    ∧ (b.bar ≠ bar → failed = false → ∃ u, exec (.releaseDelivery i) s = .next u ∧ ((u.tile t).source src).hold = .bar b)

/-- BS_CFG sets a barrier's configuration, and releases what is complete under it; BS_ARRIVE counts a host arrival, or is
answered with an error where it overruns; BS_RESET puts one barrier back to its reset state and tells every tile. -/
def Sys2Proof.Claims.HostBarrierAccess : Prop :=
  ∀ (s : State) (v : Word),
    (∀ b : BitVec 9, Reaches s (0x600000 + 8 * b.toNat) (.bsCfg b.toNat) → (s.bar b.toNat).cnt0 ≤ fld v 9 0 →
      ∃ u, exec (.bsCfg b v) s = .next u ∧ (∀ k, barCfg u k = if k = b.toNat then v else barCfg s k)
        ∧ u.band.bars = s.band.bars ∧ u.prom = s.prom ∧ u.tiles = s.tiles)
    ∧ (∀ b : BitVec 9, Reaches s (0x600000 + 8 * b.toNat) (.bsCfg b.toNat) →
      let x := s.bar b.toNat
      fld v 9 0 < x.cnt0 → x.cnt1 ≤ fld v 9 0 → bit v 24 = false →
      ∃ u ks, exec (.bsCfg b v) s = .next u ∧ barCfg u b.toNat = v ∧ u.prom.net = s.prom.net ++ ks
        ∧ u.bar b.toNat = { gen := (x.gen + 1) % 4, cnt0 := x.cnt1, cnt1 := 0, scope0 := x.scope1, scope1 := 2 }
        ∧ ks.length = GenConfig.T s.gen ∧ u.tiles = s.tiles)
    ∧ (Reaches s 0x601000 .bsArrive → (s.bar (fld v 8 0)).cnt0 + 1 < barN s (fld v 8 0) →
      fld v 17 16 = (s.bar (fld v 8 0)).gen →
      ∃ u, exec (.bsArrive v) s = .next u ∧ u.cp.err = false ∧ (u.bar (fld v 8 0)).cnt0 = (s.bar (fld v 8 0)).cnt0 + 1
        ∧ (∀ b, b ≠ fld v 8 0 → u.bar b = s.bar b) ∧ u.tiles = s.tiles)
    ∧ (Reaches s 0x601000 .bsArrive → 2 ≤ (fld v 17 16 + 4 - (s.bar (fld v 8 0)).gen) % 4 →
      ∃ u, exec (.bsArrive v) s = .next u ∧ u.cp.err = true ∧ u.band.bars = s.band.bars
        ∧ u.band.errCount = satInc s.band.errCount)
    ∧ (Reaches s 0x601004 .bsReset →
      ∃ u ks, exec (.bsReset v) s = .next u ∧ u.bar (fld v 8 0) = Barrier.init
        ∧ (∀ b, b ≠ fld v 8 0 → u.bar b = s.bar b) ∧ u.prom.net = s.prom.net ++ ks ∧ ks.length = GenConfig.T s.gen
        ∧ (∀ t, t < GenConfig.T s.gen → ∃ k ∈ ks, k.dst = .tile t ∧ k.body = .release (fld v 8 0) 0 2 true t)
        ∧ ∀ t n, (u.tile t).greg n = (s.tile t).greg n)

/-! ## Timebase -/

/-- During a slew, one tick in every SLEW_INT is a SLEW_ADJUST, of 5 Tc where the owed amount is positive and 3 Tc where it is
negative, which takes it 1 Tc towards 0; every other one is a TB_TICK of 4 Tc. At either a new source takes effect. PG_OWED shows the
amount. -/
def Obligations.SlewAdjusts : Prop :=
  ∀ s : State, pgTicks s = true → s.pg.owed ≠ 0 → s.pg.loadReq = false → s.pg.todDue = none → s.pg.stepDue = none →
    readReg s .pgOwed = s.pg.owed
    ∧ (s.pg.slewCnt + 1 < fld s.pg.disc 31 16 → exec .slewAdjust s = .next s ∧ ∃ u, exec .tbTick s = .next u
      ∧ u.pg = { s.pg with time := s.pg.time + 4, slewCnt := s.pg.slewCnt + 1, srcIn := s.pg.src } ∧ u.spad = s.spad ∧ u.prom = s.prom)
    ∧ (fld s.pg.disc 31 16 ≤ s.pg.slewCnt + 1 → exec .tbTick s = .next s
      ∧ (0 < s.pg.owed.toInt → ∃ u, exec .slewAdjust s = .next u
        ∧ u.pg = { s.pg with time := s.pg.time + 5, owed := s.pg.owed - 1, slewCnt := 0, srcIn := s.pg.src } ∧ u.spad = s.spad)
      ∧ (s.pg.owed.toInt < 0 → ∃ u, exec .slewAdjust s = .next u
        ∧ u.pg = { s.pg with time := s.pg.time + 3, owed := s.pg.owed + 1, slewCnt := 0, srcIn := s.pg.src } ∧ u.spad = s.spad))

/-- With nothing owed and nothing due, TB_TICK adds 4 Tc. A STEP of Δ sets the counter to the value that the tick would have
produced plus Δ, at once in the local copies, and leaves PG_FRAME_REF; it and every later load that is applied count in STEPS
and raise TB_STEP. That the local copies follow at once is the model's choice, which has no skew (log 5), and so is that a tick
happens on the command that is due and on no other (log 6). -/
def Obligations.TicksAndSteps : Prop :=
  ∀ s : State, pgTicks s = true →
    let heard := fun (u : State) => s.active (GenConfig.domFixed s.gen 6) = true → 4 ∉ s.cpc.stopped →
      bit u.gate.evstat 3 = true
    (tickKind s = .plain → ∃ u, exec .tbTick s = .next u ∧ u.pg.time = s.pg.time + 4 ∧ u.pg.owed = s.pg.owed
      ∧ u.spad = s.spad ∧ u.prom = s.prom ∧ u.lodge = s.lodge)
    ∧ (∀ d, tickKind s = .step → s.pg.stepDue = some d → ∃ u, exec .step s = .next u
      ∧ u.pg.time = s.pg.time + 4 + d.signExtend 64 ∧ localTime u = u.pg.time ∧ u.pg.stepDue = none
      ∧ u.pg.frameRef = s.pg.frameRef ∧ u.pg.steps = satInc s.pg.steps ∧ heard u ∧ u.spad = s.spad ∧ u.prom = s.prom)
    ∧ (tickKind s = .load → s.pg.valid = true → s.pg.stepEn = true → ∃ u, exec .timebaseLoad s = .next u
      ∧ u.pg.steps = satInc s.pg.steps ∧ heard u ∧ u.spad = s.spad)
    ∧ (∀ c k, (c, k) ∈ [(Instr.tbTick, TickKind.plain), (.slewAdjust, .adjust), (.step, .step), (.timebaseLoad, .load)] →
        tickKind s ≠ k → exec c s = .next s)

/-- TIMEBASE_LOAD: the first load makes the timebase valid with the loaded value as time and frame reference, and is no step;
a later one is a step with STEP_EN, and is ignored with LOADIGN without it, which is counted and raises TB_ALARM. -/
def Sys2Proof.Claims.LoadSetsTime : Prop :=
  ∀ s : State, pgOn s = true → s.pg.running = true → tickKind s = .load →
    let v := s.pg.todDue.getD s.pg.load
    (s.pg.frozen = false → s.pg.valid = false → ∃ u, exec .timebaseLoad s = .next u ∧ u.pg.time = v ∧ u.pg.frameRef = v
      ∧ u.pg.valid = true ∧ u.pg.loadReq = false ∧ u.pg.todDue = none ∧ u.pg.steps = s.pg.steps ∧ u.spad = s.spad)
    ∧ (s.pg.frozen = true ∨ (s.pg.valid = true ∧ s.pg.stepEn = true) → ∃ u, exec .timebaseLoad s = .next u
      ∧ u.pg.time = v ∧ u.pg.frameRef = v ∧ u.pg.valid = true ∧ u.pg.frozen = false ∧ u.pg.steps = satInc s.pg.steps)
    ∧ (s.pg.frozen = false → s.pg.valid = true → s.pg.stepEn = false → ∃ u, exec .timebaseLoad s = .next u
      ∧ u.pg.time = s.pg.time ∧ u.pg.loadign = true ∧ u.pg.loadReq = false ∧ u.pg.todDue = none
      ∧ u.pg.alarmOcc = satInc s.pg.alarmOcc ∧ Heard s u 4 0 0 0 0)

/-- The timebase port with SRC = 1: TB_TOD_LOAD captures a time of day, which the next edge of TB_FSYNC makes due; an edge of a
valid timebase with no time captured measures the error to the nearest frame boundary, also while the counter is frozen (the model's
choice, log 60), and chooses no correction within DEADBAND, a slew within PG_SLEW_LIM or without STEP_EN, with BIGERR where the error is
above it, and else a step. LOAD asks for a load with SRC = 0 alone. FSMISS sets its alarm once no edge has come for 11 ms since the last,
or since the load where none has come (log 135); each alarm is counted and raises TB_ALARM. TB_MISMATCH freezes the counter and is
logged; a tick of a frozen counter gives a change of source its effect. -/
def Sys2Proof.Claims.TimebasePort : Prop :=
  ∀ s : State,
    (∀ tod, pgOn s = true → s.pg.srcIn = 1 → exec (.tbTodLoad tod) s = .next { s with pg := { s.pg with tod := some tod } })
    ∧ (∀ tod, s.pg.srcIn ≠ 1 → exec (.tbTodLoad tod) s = .next s)
    ∧ (∀ v, pgOn s = true → s.pg.srcIn = 1 → s.pg.tod = some v → ∃ u, exec .tbFsync s = .next u ∧ u.pg.tod = none
      ∧ u.pg.todDue = some v ∧ u.pg.time = s.pg.time ∧ u.tiles = s.tiles)
    ∧ (pgOn s = true → s.pg.srcIn = 1 → s.pg.tod = none → s.pg.valid = true → s.pg.discEn = true →
      ∃ u, exec .tbFsync s = .next u ∧ u.pg.err = BitVec.ofInt 32 (frameErr s) ∧ u.pg.time = s.pg.time
        ∧ (∃ k : Int, (s.pg.time - s.pg.frameRef).toInt = 19660800 * k + frameErr s)
        ∧ -9830400 ≤ frameErr s ∧ frameErr s < 9830400
        ∧ ((frameErr s).natAbs ≤ fld s.pg.disc 7 0 → u.pg.owed = 0 ∧ u.pg.stepDue = none)
        ∧ (fld s.pg.disc 7 0 < (frameErr s).natAbs → (frameErr s).natAbs ≤ s.pg.slewLim.toNat →
            u.pg.owed = BitVec.ofInt 32 (-(frameErr s)) ∧ u.pg.stepDue = none ∧ u.pg.alarmOcc = s.pg.alarmOcc)
        ∧ (fld s.pg.disc 7 0 < (frameErr s).natAbs → s.pg.slewLim.toNat < (frameErr s).natAbs → s.pg.stepEn = false →
            u.pg.owed = BitVec.ofInt 32 (-(frameErr s)) ∧ u.pg.stepDue = none ∧ u.pg.bigerr = true
            ∧ u.pg.alarmOcc = satInc s.pg.alarmOcc ∧ Heard s u 4 0 0 0 0)
        ∧ (fld s.pg.disc 7 0 < (frameErr s).natAbs → s.pg.slewLim.toNat < (frameErr s).natAbs → s.pg.stepEn = true →
            u.pg.owed = 0 ∧ u.pg.stepDue = some (BitVec.ofInt 32 (-(frameErr s)))))
    ∧ (pgOn s = true → s.pg.running = true → s.pg.frozen = true → tickKind s ≠ .load →
      exec .tbTick s = .next { s with pg := { s.pg with srcIn := s.pg.src } })
    ∧ (∀ v, Reaches s 0x300004 .pgCtrl → ∃ u, exec (.pgLoad v) s = .next u ∧ u.pg.time = s.pg.time
      ∧ u.pg.loadReq = (s.pg.loadReq || decide (s.pg.srcIn = 0)) ∧ u.pg.stepEn = bit v 30 ∧ u.pg.discEn = bit v 29
      ∧ u.tiles = s.tiles)
    ∧ (pgOn s = true → s.pg.srcIn = 1 → s.pg.valid = true → s.pg.missed = false →
      21626880 ≤ (s.pg.time - s.pg.lastFsync).toInt → ∃ u, exec .fsmiss s = .next u ∧ u.pg.fsmiss = true
        ∧ u.pg.alarmOcc = satInc s.pg.alarmOcc ∧ u.pg.time = s.pg.time ∧ Heard s u 4 0 0 0 0)
    ∧ (pgTicks s = true → ∃ u, exec .tbMismatch s = .next u ∧ u.pg.frozen = true ∧ u.pg.time = s.pg.time
      ∧ (5 ∉ s.cpc.stopped → u.keeper.unrec = satInc s.keeper.unrec ∧ Logged s u 2 10 6 0 0 0 0 0 0
        ∧ Heard s u 11 0 0 0 (s.keeper.next + 10 * 256)) ∧ u.tiles = s.tiles)

/-! ## Turnstiles -/

/-- The requester that a turnstile chooses is one of those that ask; none has a lower slack; of those with the same slack none
has a higher priority; and of those with the same slack and priority none comes before it in round robin after the last
winner. Where any asks, one is chosen. -/
def Sys2Proof.Claims.TurnstileOrder : Prop :=
  ∀ (last : Nat) (cs : List Cand),
    (cs ≠ [] → ∃ w, bestCand last cs = some w)
    ∧ ∀ w, bestCand last cs = some w → w ∈ cs ∧ ∀ c ∈ cs, w.slack ≤ c.slack
        ∧ (w.slack = c.slack → c.prio ≤ w.prio)
        ∧ (w.slack = c.slack → w.prio = c.prio →
            (w.id + candMod - last - 1) % candMod ≤ (c.id + candMod - last - 1) % candMod)

/-- TURNSTILE_GRANT at a point of the promenade or a bank where one flit waits: with no decision made, one is made for it, and
it stays; with the decision made for it, it is granted its access at a bank, and elsewhere it goes on to the end of the queue of its
next point, or at its unit waits for the message's last flit, which completes it. SLACK_DECREMENT takes 1 off the slack of a waiting
message above the floor, and leaves one at the floor. Neither changes a byte. -/
def Sys2Proof.Claims.GrantMovesFlit : Prop :=
  (∀ (s : State) (p : Point) (m : Msg) (rest : List Point),
    s.prom.net = [m] → m.route = p :: rest → linkUp s p = true → flitReady s p (0, m) = true →
    (∀ t, p ≠ .readIssue t ∧ p ≠ .writeIssue t ∧ p ≠ .datapath t) →
    ((pointSt s p).granted = [] → ∃ u, exec (.turnstileGrant p) s = .next u ∧ u.prom = s.prom ∧ u.spad = s.spad
      ∧ u.tiles = s.tiles ∧ (indexCands s p = [] → (pointSt u p).granted = [m.queue]))
    ∧ ((pointSt s p).granted = [m.queue] → startsOf s p ≠ 0 → ∃ u, exec (.turnstileGrant p) s = .next u ∧ u.spad = s.spad
      ∧ (∀ t, u.tile t = { s.tile t with waited := (u.tile t).waited }) ∧ (pointSt u p).last = m.queue
      ∧ (Point.isBank p = true → u.prom.net = [{ m with route := [] }])
      ∧ (Point.isBank p = false → (∀ ws, m.body ≠ .wakes ws) → rest.all Point.isBank = true → m.index + 1 < m.flits →
          u.prom.net = [])
      ∧ (Point.isBank p = false → (∀ ws, m.body ≠ .wakes ws) → rest.all Point.isBank = false ∨ m.flits ≤ m.index + 1 →
          u.prom.net = [{ m with route := rest, inp := Point.inpNum p }])))
  ∧ ∀ (s : State) (i : Nat) (m : Msg), s.prom.net[i]? = some m → m.route ≠ [] →
    (slackFloor s < m.slack → ∃ u, exec (.slackDecrement i) s = .next u ∧ OnlyNet s u
      ∧ u.prom.net = s.prom.net.set i { m with slack := m.slack - 1 })
    ∧ (m.slack ≤ slackFloor s → exec (.slackDecrement i) s = .next s)

/-- A grant that goes to another, used or not, counts for each requester that waits; past TS_CTRL.STARVE_LIMIT the point raises
starvation once for that wait: TS_STARVE takes the point and the requester where VALID is 0, the count goes up, and with EV_EN the
event TS_STARVE is raised. The requester that waits is stream `n` of tile `t` with a read request. -/
def Sys2Proof.Claims.StarvationCaptured : Prop :=
  ∀ (s : State) (p : Point) (m : Msg) (r : ReadReq) (w : Nat),
    s.prom.net = [m] → m.route.head? = some p → linkUp s p = true → flitReady s p (0, m) = true → indexCands s p = [] →
    (∀ t, p ≠ .readIssue t ∧ p ≠ .writeIssue t ∧ p ≠ .datapath t) → m.body = .rd r → w ≠ m.queue →
    (pointSt s p).granted = [w] →
    let past := Tab.get (pointSt s p).lost 0 m.queue + 1
    ∃ u, exec (.turnstileGrant p) s = .next u ∧ u.prom.net = s.prom.net ∧ u.spad = s.spad
      ∧ Tab.get (pointSt u p).lost 0 m.queue = past
      ∧ (s.turn.starveLimit = 0 ∨ past ≤ s.turn.starveLimit.toNat ∨ m.queue ∈ (pointSt s p).raised → u.turn.starve = s.turn.starve
          ∧ u.turn.starveCount = s.turn.starveCount)
      ∧ (0 < s.turn.starveLimit.toNat → s.turn.starveLimit.toNat < past → m.queue ∉ (pointSt s p).raised →
          m.queue ∈ (pointSt u p).raised ∧ u.turn.starveCount = satInc s.turn.starveCount
          ∧ (bit s.turn.starve 31 = false → u.turn.starve = putFld (0x80000000 ||| atN (pointCode p).1 28
              ||| atN (pointCode p).2.1 22 ||| atN (r.tile % 32) 15 ||| atN r.stream 12 ||| atN (pointCode p).2.2 8) 7 0
              (min 255 (fld s.turn.starve 7 0 + 1)))
          ∧ (bit s.turn.starve 31 = true → u.turn.starve = putFld s.turn.starve 7 0 (min 255 (fld s.turn.starve 7 0 + 1)))
          ∧ (s.turn.evEn = true → Heard s u 7 r.tile r.stream 0 0))

/-! ## Rings -/

/-- RING_ENABLE enables a ring that passes its checks, and otherwise sets CFGERR and leaves it disabled; a PROD write that lies
between FETCH and DONE + 2^SIZE moves PROD, and one that does not sets OVERFILL, raises RING_ERR and leaves it. -/
def Sys2Proof.Claims.RingDoorbell : Prop :=
  ∀ (s : State) (q : BitVec 8),
    let r := s.ring q.toNat
    (Reaches s (0x1000C + 64 * q.toNat) (.ringCtrl q.toNat) → r.en = false →
      (enableOk s q.toNat = true → ∃ u, exec (.ringEnable q) s = .next u ∧ u.ring q.toNat = { r with en := true }
        ∧ (∀ k, k ≠ q.toNat → u.ring k = s.ring k) ∧ u.gate.cfgerr = s.gate.cfgerr ∧ u.prom = s.prom)
      ∧ (enableOk s q.toNat = false → ∃ u, exec (.ringEnable q) s = .next u ∧ u.gate.rings = s.gate.rings
        ∧ u.gate.cfgerr = true ∧ u.gate.cfgRing = q ∧ u.prom = s.prom))
    ∧ ∀ v, Reaches s (0x10010 + 64 * q.toNat) (.ringProd q.toNat) → r.held = [] → r.heldX = [] → r.notown = false →
      ((v - r.done).toInt ≤ ((2 ^ Ring.size r : Nat) : Int) → 0 ≤ (v - r.fetch).toInt →
        ∃ u, exec (.prod q v) s = .next u ∧ u.ring q.toNat = { r with prod := v }
          ∧ (∀ k, k ≠ q.toNat → u.ring k = s.ring k) ∧ u.prom = s.prom)
      ∧ (((2 ^ Ring.size r : Nat) : Int) < (v - r.done).toInt ∨ (v - r.fetch).toInt < 0 →
        ∃ u, exec (.prod q v) s = .next u ∧ (u.ring q.toNat).prod = r.prod ∧ bit (u.ring q.toNat).flags 3 = true
          ∧ Heard s u 9 0 0 q.toNat 0
          ∧ (∀ k, k ≠ q.toNat → u.ring k = s.ring k) ∧ u.prom = s.prom)

/-- The first and the last byte of a gatehouse access lie outside the scratchpad window. -/
def Sys2Proof.Outside (s : State) (a : GhAcc) : Prop :=
  let x := ghAccess s a
  windowOff s x.1 = none ∧ windowOff s (x.1 + BitVec.ofNat 64 (x.2.1 - 1)) = none

/-- RING_FETCH sends one fetch of the first ring in round robin that has fetchable entries and room, at the entry's address; one
whose bytes reach into the scratchpad window reaches no port and is held as a failed attempt (the model's choice, log 101). Before
the 17th entry of an open job is fetched, the 16 in the buffer end with BAD_CHAIN (the model's reading, log 64).
FETCH_RETRY fetches again from an entry that was found with OWN = 0, where PROD still leaves it to be fetched. -/
def Sys2Proof.Claims.RingsFetch : Prop :=
  (∀ (s : State) (q i n : Nat), gateOn s = true → nextRing s = some (q, i, n) → Outside s (.fetch q i n) →
    (s.ring q).openJob.length < 16 → ∃ u m, exec .ringFetch s = .next u ∧ u.gate.rr = q
      ∧ (u.ring q).fetching = (s.ring q).fetching ++ [(i, n)] ∧ (∀ k, k ≠ q → u.ring k = s.ring k)
      ∧ u.prom.net = s.prom.net ++ [m] ∧ m.src = .gate ∧ m.body = .gh (.fetch q i n)
      ∧ (ghAccess s (.fetch q i n)).1 = (s.ring q).base + BitVec.ofNat 64 (128 * (i % 2 ^ Ring.size (s.ring q)))
      ∧ u.tiles = s.tiles ∧ u.spad = s.spad)
  ∧ (∀ (s : State) (q i n : Nat), gateOn s = true → nextRing s = some (q, i, n) → Outside s (.fetch q i n) →
    (s.ring q).openJob.length = 16 → (∀ e ∈ (s.ring q).openJob, e.ref.ring = q ∧ fld e.ref.flags 26 0 = 0) →
    ∃ u m cs, exec .ringFetch s = .next u ∧ (u.ring q).openJob = [] ∧ (u.ring q).overrun = true
      ∧ (u.ring q).comps = (s.ring q).comps ++ cs ∧ cs.map (·.idx) = (s.ring q).openJob.map (fun e => e.ref.idx)
      ∧ (∀ c ∈ cs, fld c.w72 7 0 = 0x12) ∧ u.prom.net = s.prom.net ++ [m] ∧ m.body = .gh (.fetch q i n))
  ∧ (∀ (s : State) (q i n : Nat), gateOn s = true → nextRing s = some (q, i, n) → ¬ Outside s (.fetch q i n) →
    (s.ring q).openJob.length < 16 → ∃ u, exec .ringFetch s = .next u ∧ u.prom.net = s.prom.net ∧ GhAcc.fetch q i n ∈ (u.ring q).held
      ∧ bit (u.ring q).flags 0 = true ∧ (∀ k, k ≠ q → u.ring k = s.ring k) ∧ u.tiles = s.tiles ∧ u.spad = s.spad)
  ∧ (∀ s : State, gateOn s = true → nextRing s = none → exec .ringFetch s = .next s)
  ∧ ∀ (s : State) (q : BitVec 8), gateOn s = true →
    let r := s.ring q.toNat
    let i := r.fetch.toNat
    (r.notown = true → 0 < r.room → r.fetch ≠ r.prod → fld r.base 11 0 = 0 → (∀ n, n ≤ 16 → Outside s (.fetch q.toNat i n)) →
      (∀ f ∈ r.fetching ++ r.heldFetches, 0 < idxDist i f.1) → (∀ a ∈ r.arrived, 0 < idxDist i a.1) →
      ∃ u m n, exec (.fetchRetry q) s = .next u ∧ (u.ring q.toNat).notown = false ∧ 0 < n
        ∧ (u.ring q.toNat).fetching = r.fetching ++ [(i, n)]
        ∧ u.prom.net = s.prom.net ++ [m] ∧ m.body = .gh (.fetch q.toNat i n))
    ∧ (r.notown = false ∨ r.fetch = r.prod ∨ r.room = 0 → exec (.fetchRetry q) s = .next s)

/-- FETCH_RESPONSE of one entry in ring order: an entry with OWN = 1 is captured and FETCH moves past it; a job of one entry with
FIRST, LAST and no CHAIN is handed on, and one whose chain flags contradict each other, or that is its job's 17th, completes with
BAD_CHAIN; an entry with OWN = 0 sets NOTOWN, raises RING_ERR and FETCH stays. An uncorrectable error of the fetch buffer fetches the
entry again. -/
def Sys2Proof.Claims.FetchedEntriesJobs : Prop :=
  ∀ (s : State) (q : BitVec 8) (data : List Byte),
    let r := s.ring q.toNat
    let w : Word := BitVec.ofNat 32 (ofBytes ((data.drop 64).take 4))
    gateOn s = true → r.notown = false → r.openJob = [] → r.arrived = [(r.fetch.toNat, data)] → data.length = 128 →
    (bit w 31 = true → r.overrun = true → fld w 26 0 = 0 →
      ∃ u c, exec (.fetchResponse ⟨q, .clean⟩) s = .next u ∧ (u.ring q.toNat).fetch = r.fetch + 1
        ∧ (u.ring q.toNat).ready = r.ready ∧ (u.ring q.toNat).openJob = [] ∧ (u.ring q.toNat).overrun = false
        ∧ (u.ring q.toNat).comps = r.comps ++ [c] ∧ c.idx = r.fetch.toNat ∧ fld c.w72 7 0 = 0x12)
    ∧ (bit w 31 = true → r.overrun = false → bit w 30 = true → bit w 29 = true → bit w 28 = false → fld w 26 0 = 0 →
      ∃ u e, exec (.fetchResponse ⟨q, .clean⟩) s = .next u ∧ (u.ring q.toNat).fetch = r.fetch + 1
        ∧ (u.ring q.toNat).ready = r.ready ++ [e] ∧ (u.ring q.toNat).openJob = [] ∧ e.ref.idx = r.fetch.toNat
        ∧ e.ref.ring = q.toNat ∧ e.ref.flags = w ∧ e.line = BitVec.ofNat 512 (ofBytes (data.take 64))
        ∧ (u.ring q.toNat).comps = r.comps ∧ u.prom = s.prom)
    ∧ (bit w 31 = true → bit w 30 = true → bit w 29 = true → bit w 28 = true → fld w 26 0 = 0 →
      ∃ u c, exec (.fetchResponse ⟨q, .clean⟩) s = .next u ∧ (u.ring q.toNat).fetch = r.fetch + 1
        ∧ (u.ring q.toNat).ready = r.ready ∧ (u.ring q.toNat).openJob = []
        ∧ (u.ring q.toNat).comps = r.comps ++ [c] ∧ c.idx = r.fetch.toNat ∧ fld c.w72 7 0 = 0x12)
    ∧ (bit w 31 = false →
      ∃ u, exec (.fetchResponse ⟨q, .clean⟩) s = .next u ∧ (u.ring q.toNat).fetch = r.fetch ∧ (u.ring q.toNat).notown = true
        ∧ bit (u.ring q.toNat).flags 2 = true ∧ (u.ring q.toNat).ready = r.ready ∧ Heard s u 9 0 0 q.toNat 0)
    ∧ (Outside s (.fetch q.toNat r.fetch.toNat 1) →
      ∃ u m, exec (.fetchResponse ⟨q, .bad⟩) s = .next u ∧ (u.ring q.toNat).fetch = r.fetch ∧ (u.ring q.toNat).arrived = []
        ∧ (u.ring q.toNat).fetching = r.fetching ++ [(r.fetch.toNat, 1)] ∧ (u.ring q.toNat).ready = r.ready
        ∧ u.prom.net = s.prom.net ++ [m] ∧ m.body = .gh (.fetch q.toNat r.fetch.toNat 1))

/-- DISPATCH takes the acceptances that have come back, and sends the oldest entry handed on to its ring source while fewer than
four places of it are taken, of entries queued there or under way; an entry behind one that has broken their job completes with
BAD_CHAIN, here or where it arrives. ENTRY_RECEIPT puts an entry at the end of that source's queue, or completes it with UNIT_OFFLINE
where the tile's core is off. -/
def Sys2Proof.Claims.EntriesDispatch : Prop :=
  (∀ (s : State) (q : BitVec 8) (e : QEntry) (es : List QEntry),
    let r := s.ring q.toNat
    let n := seatsTaken s (Ring.tile r) (Ring.rsrc r)
    gateOn s = true → r.ready = e :: es → (∀ m ∈ s.prom.net, m.acceptance = none) →
    (n < 4 → (∀ b ∈ r.broken, inBroken b e.ref = false) →
      ∃ u m, exec (.dispatch q) s = .next u ∧ (u.ring q.toNat).ready = es ∧ u.prom.net = s.prom.net ++ [m]
        ∧ m.dst = .tile (Ring.tile r) ∧ m.body = .entry (Ring.tile r) (Ring.rsrc r) e ∧ m.cls = .control ∧ u.tiles = s.tiles
        ∧ seatsTaken u (Ring.tile r) (Ring.rsrc r) = n + 1)
    ∧ (4 ≤ n → (∀ b ∈ r.broken, inBroken b e.ref = false) → exec (.dispatch q) s = .next s)
    ∧ ((∃ b ∈ r.broken, inBroken b e.ref = true) → e.ref.ring = q.toNat →
      ∃ u c, exec (.dispatch q) s = .next u ∧ (u.ring q.toNat).ready = es ∧ (u.ring q.toNat).comps = r.comps ++ [c]
        ∧ c.idx = e.ref.idx ∧ fld c.w72 7 0 = 0x12 ∧ u.prom = s.prom ∧ u.tiles = s.tiles))
  ∧ (∀ (s : State) (q : BitVec 8) (i : Nat) (m : Msg) (e : EntryRef), gateOn s = true → s.prom.net[i]? = some m →
    m.body = .accepted e → m.route = [] → (s.ring q.toNat).ready = [] →
    ∃ u, exec (.dispatch q) s = .next u ∧ (∀ p ∈ u.gate.placed, p.ref ≠ e) ∧ m ∉ u.prom.net
      ∧ ∀ p ∈ s.gate.placed, (∀ k ∈ s.prom.net, k.acceptance ≠ some p.ref) → p ∈ u.gate.placed)
  ∧ ∀ (s : State) (i t k : Nat) (m : Msg) (e : QEntry), arrived s i = some m → m.body = .entry t k e →
    (s.isOn (GenConfig.domCore s.gen t) = true → (∀ b ∈ (s.tile t).broken, inBroken b e.ref = false) →
      ∃ u, exec (.entryReceipt i) s = .next u ∧ OnlyTileNet s u t
        ∧ Tab.get (u.tile t).inq [] k = Tab.get (s.tile t).inq [] k ++ [e] ∧ (u.tile t).g = (s.tile t).g
        ∧ u.prom.net = s.prom.net.eraseIdx i)
    ∧ (s.isOn (GenConfig.domCore s.gen t) = true → (∃ b ∈ (s.tile t).broken, inBroken b e.ref = true) →
      ∃ u c, exec (.entryReceipt i) s = .next u ∧ u.tiles = s.tiles
        ∧ c ∈ (u.ring e.ref.ring).comps ∧ c.idx = e.ref.idx ∧ fld c.w72 7 0 = 0x12)
    ∧ (s.isOn (GenConfig.domCore s.gen t) = false → ∃ u c, exec (.entryReceipt i) s = .next u
      ∧ c ∈ (u.ring e.ref.ring).comps ∧ c.idx = e.ref.idx ∧ fld c.w72 7 0 = 0x30)

/-- A completion is written in order: COMPLETION sends bytes 72–127 of a ready one whose instruction has no write and no signal on
its way, OWN_WRITE bytes 64–67 once those have
landed, which WRITE_ACKNOWLEDGEMENT notes, and DONE_ADVANCE, once that has landed, moves DONE over every entry in turn whose completion is done and drops them. -/
def Sys2Proof.Claims.CompletionsWritten : Prop :=
  ∀ (s : State) (q : BitVec 8), gateOn s = true →
    (∀ (k : Nat) (c : Comp), (s.ring q.toNat).comps[k]? = some c →
      (c.phase = .ready → c.who.any (stillOut s) = false → Outside s (.comp q.toNat c.idx) →
        ∃ u m, exec (.completion q k) s = .next u ∧ u.prom.net = s.prom.net ++ Msg.split m ∧ m.body = .gh (.comp q.toNat c.idx) ∧ (u.ring q.toNat).done = (s.ring q.toNat).done
        ∧ ∀ d ∈ (u.ring q.toNat).comps, d.idx = c.idx → d.phase = .sent)
      ∧ (c.phase = .ready → c.who.any (stillOut s) = true → exec (.completion q k) s = .next s)
      ∧ (c.phase = .landed → Outside s (.own q.toNat c.idx) →
        ∃ u m, exec (.ownWrite q k) s = .next u ∧ u.prom.net = s.prom.net ++ Msg.split m ∧ m.body = .gh (.own q.toNat c.idx) ∧ (u.ring q.toNat).done = (s.ring q.toNat).done
        ∧ ∀ d ∈ (u.ring q.toNat).comps, d.idx = c.idx → d.phase = .ownSent)
      ∧ (c.phase ≠ .landed → exec (.ownWrite q k) s = .next s)
      ∧ (∀ i m data, arrived s i = some m → m.dst = .gate → c.phase = .sent → m.body = .ghResp (.comp q.toNat c.idx) .okay data →
        GhAcc.comp q.toNat c.idx ∉ (s.ring q.toNat).held ++ (s.ring q.toNat).heldX →
        ∃ u, exec (.writeAcknowledgement i) s = .next u ∧ u.prom.net = s.prom.net.eraseIdx i
          ∧ ∀ d ∈ (u.ring q.toNat).comps, d.idx = c.idx → d.phase = .landed)
      ∧ (∀ i m data, arrived s i = some m → m.dst = .gate → c.phase = .ownSent → m.body = .ghResp (.own q.toNat c.idx) .okay data →
        GhAcc.own q.toNat c.idx ∉ (s.ring q.toNat).held ++ (s.ring q.toNat).heldX →
        ∃ u, exec (.writeAcknowledgement i) s = .next u ∧ u.prom.net = s.prom.net.eraseIdx i
          ∧ ∀ d ∈ (u.ring q.toNat).comps, d.idx = c.idx → d.phase = .ownLanded))
    ∧ (∀ c, (s.ring q.toNat).comps = [c] → c.phase = .ownLanded → Ring.shen (s.ring q.toNat) = false →
      (c.idx = (s.ring q.toNat).done.toNat → ∃ u, exec (.doneAdvance q) s = .next u
        ∧ (u.ring q.toNat).done = (s.ring q.toNat).done + 1 ∧ (u.ring q.toNat).comps = [] ∧ u.prom = s.prom)
      ∧ (c.idx ≠ (s.ring q.toNat).done.toNat → ∃ u, exec (.doneAdvance q) s = .next u
        ∧ (u.ring q.toNat).done = (s.ring q.toNat).done ∧ (u.ring q.toNat).comps = [{ c with phase := .done }]))

/-- DONE_ADVANCE of one completion makes the ring's vector pending for every entry with CMODE 1, for one with CEV or a STATUS of
0x08 or above with CMODE 2, for one with such a STATUS with CMODE 3, and for none with CMODE 0. -/
def Obligations.CompletionVectors : Prop :=
  ∀ (s : State) (q : BitVec 8) (c : Comp),
    let r := s.ring q.toNat
    let v := Ring.cvec r
    let x := Tab.get s.gate.vecs Vec.init v
    let bad := 8 ≤ fld c.w72 7 0
    gateOn s = true → r.comps = [c] → c.phase = .ownLanded → (Ring.shen r = true → Outside s (.shadow q.toNat 0)) →
    ∃ u, exec (.doneAdvance q) s = .next u ∧ (∀ k, k ≠ v → Tab.get u.gate.vecs Vec.init k = Tab.get s.gate.vecs Vec.init k)
      ∧ (Ring.cmode r = 0 → Tab.get u.gate.vecs Vec.init v = x)
      ∧ (Ring.cmode r = 1 → Tab.get u.gate.vecs Vec.init v = { x with pend := true, occ := satInc x.occ })
      ∧ (Ring.cmode r = 2 → Tab.get u.gate.vecs Vec.init v =
          if bit c.flags 27 = true ∨ bad then { x with pend := true, occ := satInc x.occ } else x)
      ∧ (Ring.cmode r = 3 → Tab.get u.gate.vecs Vec.init v =
          if bad then { x with pend := true, occ := satInc x.occ } else x)

/-- GATEHOUSE_RETRY sends the first access held after a failed attempt again; MESSAGE_WRITE of a pending, unmasked message
vector sends its message where its address is aligned and inside the message window, and otherwise sets VECERR; either way the
vector is no longer pending. -/
def Sys2Proof.Claims.GatehouseSends : Prop :=
  (∀ (s : State) (q : BitVec 8) (k : Nat) (rest : List GhAcc), gateOn s = true →
    (s.ring q.toNat).held = .comp q.toNat k :: rest → Outside s (.comp q.toNat k) →
    ∃ u m, exec (.gatehouseRetry q) s = .next u ∧ (u.ring q.toNat).held = rest ∧ u.prom.net = s.prom.net ++ Msg.split m
      ∧ m.body = .gh (.comp q.toNat k))
  ∧ ∀ (s : State) (v : BitVec 6),
    let x := Tab.get s.gate.vecs Vec.init v.toNat
    gateOn s = true → x.pend = true → x.mask = false → x.mode = false → Outside s (.msg v.toNat x.addr x.data) →
    (x.addr.toNat % 4 = 0 → inMsgWindow s x.addr = true → ∃ u m, exec (.messageWrite v) s = .next u
      ∧ Tab.get u.gate.vecs Vec.init v.toNat = { x with pend := false, count := satInc x.count }
      ∧ u.prom.net = s.prom.net ++ Msg.split m ∧ m.body = .gh (.msg v.toNat x.addr x.data) ∧ u.gate.vecerr = s.gate.vecerr)
    ∧ (x.addr.toNat % 4 ≠ 0 ∨ inMsgWindow s x.addr = false → ∃ u, exec (.messageWrite v) s = .next u
      ∧ Tab.get u.gate.vecs Vec.init v.toNat = { x with pend := false } ∧ u.prom = s.prom ∧ u.gate.vecerr = true
      ∧ u.gate.vecerrVec = v)

/-! ## System ports and window ports -/

/-- SYSTEM_PORT_REQUEST at a port that serves, with no request waiting there: untranslated, or with a buffer entry that permits
it, the request takes the lowest free tag with its physical address; with an entry that does not permit it, a read is answered
with a translation fault; with no entry, it waits on a query for its page, under the lowest free number. That tags and queries go by
the lowest free number is the model's choice (log 43). -/
def Sys2Proof.Claims.RequestsTranslated : Prop :=
  ∀ (s : State) (n i : Nat) (m : Msg) (q : PortReq),
    let x := s.sp n
    let a := reqAccess s q.req
    arrived s i = some m → portReq m = some q → m.dst = .sysPort n → availOf s (portDom s n) = .on → portRoom x = true →
    x.waiting = [] →
    (∀ k, freeTag x = some k → s.always.xlateEn = false →
      ∃ u g, exec (.systemPortRequest n ⟨i, .clean⟩) s = .next u ∧ u.sp n = { x with tags := Tab.put x.tags k g } ∧ g.req = q
        ∧ g.pa = a.1 ∧ g.got = [] ∧ g.timedOut = false ∧ (∀ j, j ≠ n → u.sp j = s.sp j)
        ∧ u.prom.net = s.prom.net.eraseIdx i ∧ u.tiles = s.tiles ∧ u.spad = s.spad)
    ∧ (∀ e, s.always.xlateEn = true → x.tlb.find? (fun e => e.hits (reqPart s q.req) (pageOf a.1)) = some e →
      (∀ k, freeTag x = some k → permits e.perm a.2.2 = true →
        ∃ u g, exec (.systemPortRequest n ⟨i, .clean⟩) s = .next u ∧ (u.sp n).tags = Tab.put x.tags k g ∧ g.req = q
          ∧ g.pa = e.phys a.1 ∧ (u.sp n).tlb = touch x.tlb e ∧ u.prom.net = s.prom.net.eraseIdx i ∧ u.spad = s.spad)
      ∧ (∀ r, permits e.perm a.2.2 = false → q.req = .rd r →
        ∃ u k, exec (.systemPortRequest n ⟨i, .clean⟩) s = .next u ∧ (u.sp n).tags = x.tags ∧ (u.sp n).faddr = a.1
          ∧ bit (u.sp n).flags 1 = true ∧ u.prom.net = s.prom.net.eraseIdx i ++ [k] ∧ k.dst = .tile r.tile
          ∧ k.body = .rdResp r .xfault [] ∧ u.spad = s.spad))
    ∧ (∀ k, s.always.xlateEn = true → x.tlb.find? (fun e => e.hits (reqPart s q.req) (pageOf a.1)) = none →
      queryFor s n q.req = none → freeQuery x = some k →
      ∃ u, exec (.systemPortRequest n ⟨i, .clean⟩) s = .next u
        ∧ u.sp n = { x with
            waiting := [q], xmiss := satInc x.xmiss
            queries := Tab.put x.queries k { part := reqPart s q.req, va := pageOf a.1, wr := a.2.2, invals := [] } }
        ∧ u.prom.net = s.prom.net.eraseIdx i ∧ u.tiles = s.tiles)

/-- TRANSLATION_ANSWER without a fault puts a translation at the front of the buffer of 256 and ends its query; the request
that waited for it takes a tag with the address that the page gives. An answer with a fault ends the read that waited. An
answer whose page was invalidated since the query went out is dropped, and the query goes out again. -/
def Sys2Proof.Claims.TranslationAnswered : Prop :=
  ∀ (s : State) (n id : Nat) (pa : BitVec 52) (size perm : BitVec 2) (q : Query),
    let x := s.sp n
    portActive s n = true → Tab.find x.queries id = some q →
    (q.invals = [] → x.inval = none → permits perm q.wr = true → x.waiting = [] →
      ∃ u, exec (.translationAnswer n id pa size perm false) s = .next u
        ∧ u.sp n = { x with queries := Tab.erase x.queries id, tlb :=
            ({ part := q.part, va := q.va, pa := pa, size := size, perm := perm : TlbEnt } :: x.tlb).take 256 }
        ∧ (∀ j, j ≠ n → u.sp j = s.sp j) ∧ u.prom.net = s.prom.net ∧ u.tiles = s.tiles)
    ∧ (∀ w k r, q.invals = [] → x.inval = none → permits perm q.wr = true → x.waiting = [w] → w.req = .rd r →
      r.part = q.part → pageOf r.addr = q.va → q.wr = false → s.always.xlateEn = true → freeTag x = some k →
      ∃ u g, exec (.translationAnswer n id pa size perm false) s = .next u ∧ (u.sp n).waiting = []
        ∧ (u.sp n).tags = Tab.put x.tags k g ∧ g.req = w
        ∧ g.pa = TlbEnt.phys { part := q.part, va := q.va, pa := pa, size := size, perm := perm } r.addr
        ∧ u.prom.net = s.prom.net ∧ u.tiles = s.tiles)
    ∧ (∀ w r, q.invals = [] → x.inval = none → x.waiting = [w] → w.req = .rd r → r.part = q.part →
      pageOf r.addr = q.va → ∃ u k, exec (.translationAnswer n id pa size perm true) s = .next u
        ∧ (u.sp n).waiting = [] ∧ (u.sp n).tags = x.tags ∧ (u.sp n).tlb = x.tlb ∧ (u.sp n).faddr = r.addr
        ∧ bit (u.sp n).flags 1 = true ∧ u.prom.net = s.prom.net ++ [k] ∧ k.body = .rdResp r .xfault []
        ∧ u.tiles = s.tiles)
    ∧ (∀ fault, (q.invals ++ x.inval.toList).any (fun v => v.hits q.part q.va size) = true →
      ∃ u, exec (.translationAnswer n id pa size perm fault) s = .next u
        ∧ u.sp n = { x with xmiss := satInc x.xmiss, queries := Tab.put x.queries id { q with invals := [] } }
        ∧ u.prom.net = s.prom.net ∧ u.tiles = s.tiles)

/-- SYSTEM_PORT_RESPONSE: the last flit of a read of one granule frees the tag and answers the read with its bytes of the flit;
an acknowledged write frees the tag and is acknowledged; DENIED and ERROR free it and answer so; a late answer to a tag that
has timed out frees it and sets LATE; an answer to a tag that is not outstanding sets BADRSP and changes no tag. -/
def Sys2Proof.Claims.PortResponses : Prop :=
  ∀ (s : State) (n tag : Nat), portActive s n = true →
    (∀ g, Tab.find (s.sp n).tags tag = some g → g.timedOut = false →
      (∀ r data, g.req.req = .rd r → g.got = [] → flitsOf r.addr r.len = 1 →
        ∃ u k, exec (.systemPortResponse n tag 0 0 data true) s = .next u ∧ (u.sp n).tags = Tab.erase (s.sp n).tags tag
          ∧ u.prom.net = s.prom.net ++ [k] ∧ k.dst = .tile r.tile ∧ k.slack = g.req.slack
          ∧ k.body = .rdResp r .okay ((List.range r.len).map (fun j => data.getD (r.addr.toNat % 128 + j) 0))
          ∧ u.tiles = s.tiles ∧ u.spad = s.spad)
      ∧ (∀ w data, g.req.req = .wr w → w.signal = none →
        ∃ u k, exec (.systemPortResponse n tag 0 0 data true) s = .next u ∧ (u.sp n).tags = Tab.erase (s.sp n).tags tag
          ∧ u.prom.net = s.prom.net ++ [k] ∧ k.dst = .tile w.tile ∧ k.body = .wrAck w .okay 0 ∧ u.tiles = s.tiles)
      ∧ (∀ r data, g.req.req = .rd r →
        ∃ u k, exec (.systemPortResponse n tag 0 1 data true) s = .next u ∧ (u.sp n).tags = Tab.erase (s.sp n).tags tag
          ∧ u.prom.net = s.prom.net ++ [k] ∧ k.body = .rdResp r .denied [] ∧ bit (u.sp n).flags 3 = true)
      ∧ (∀ r data, g.req.req = .rd r →
        ∃ u k, exec (.systemPortResponse n tag 0 2 data true) s = .next u ∧ (u.sp n).tags = Tab.erase (s.sp n).tags tag
          ∧ u.prom.net = s.prom.net ++ [k] ∧ k.body = .rdResp r .error [] ∧ bit (u.sp n).flags 3 = true))
    ∧ (∀ g code data, Tab.find (s.sp n).tags tag = some g → g.timedOut = true →
      ∃ u, exec (.systemPortResponse n tag 0 code data true) s = .next u ∧ (u.sp n).tags = Tab.erase (s.sp n).tags tag
        ∧ bit (u.sp n).flags 2 = true ∧ u.prom.net = s.prom.net ∧ u.tiles = s.tiles)
    ∧ (∀ idx code data last, Tab.find (s.sp n).tags tag = none →
      ∃ u, exec (.systemPortResponse n tag idx code data last) s = .next u ∧ (u.sp n).tags = (s.sp n).tags
        ∧ bit (u.sp n).flags 0 = true ∧ u.prom.net = s.prom.net ∧ u.tiles = s.tiles)

/-- RESPONSE_TIMEOUT of a tag tells its requester and keeps the tag reserved; a second one changes nothing. -/
def Sys2Proof.Claims.TagTimesOut : Prop :=
  ∀ (s : State) (n k : Nat) (g : TagSt), portActive s n = true → Tab.find (s.sp n).tags k = some g →
    (∀ r, g.timedOut = false → g.req.req = .rd r →
      ∃ u a, exec (.responseTimeout (.tag n k)) s = .next u
        ∧ u.sp n = { s.sp n with tags := Tab.put (s.sp n).tags k { g with timedOut := true } }
        ∧ u.prom.net = s.prom.net ++ [a] ∧ a.dst = .tile r.tile ∧ a.body = .rdResp r .timeout [] ∧ u.tiles = s.tiles
        ∧ u.spad = s.spad)
    ∧ (g.timedOut = true → exec (.responseTimeout (.tag n k)) s = .next s)

/-- INVALIDATION takes the matching translations out of the port's buffer, and no other; INVALIDATION_COMPLETE ends it once no
request that used one is outstanding, and the queries sent before it remember it. -/
def Sys2Proof.Claims.InvalidationsDropPages : Prop :=
  ∀ (s : State) (n : Nat), portActive s n = true →
    (∀ all va (part : BitVec 3), (s.sp n).inval = none →
      let v : Inval := { all := all, va := va, part := part.toNat }
      ∃ u, exec (.invalidation n all va part) s = .next u ∧ (u.sp n).inval = some v
        ∧ (∀ e, e ∈ (u.sp n).tlb ↔ e ∈ (s.sp n).tlb ∧ v.hits e.part e.va e.size = false)
        ∧ (u.sp n).queries = (s.sp n).queries ∧ (u.sp n).waiting = (s.sp n).waiting
        ∧ (∀ j, j ≠ n → u.sp j = s.sp j) ∧ u.prom.net = s.prom.net ∧ u.tiles = s.tiles)
    ∧ (∀ v, (s.sp n).inval = some v →
      ((∀ p ∈ (s.sp n).tags, p.2.blocks = true → p.2.timedOut = true) →
        ∃ u, exec (.invalidationComplete n) s = .next u ∧ u.sp n = { s.sp n with
            inval := none, queries := (s.sp n).queries.map (fun p => (p.1, { p.2 with invals := p.2.invals ++ [v] })) }
          ∧ (∀ j, j ≠ n → u.sp j = s.sp j) ∧ u.prom.net = s.prom.net ∧ u.tiles = s.tiles)
      ∧ ((∃ p ∈ (s.sp n).tags, p.2.blocks = true ∧ p.2.timedOut = false) →
        exec (.invalidationComplete n) s = .next s))

/-- WINDOW_PORT_REQUEST at a leaf router that serves: a request that is allowed leaves in one part for each bank group that its
bytes lie in, each to the tile of its offset, with one flit for each granule that it writes; one that is not allowed is answered
DENIED at once. A leaf router that quiesces answers RETRY. Nothing else changes. The parts, their combined answer and that a message
carries each to its bank group are the model's (logs 70, 112, 123). -/
def Sys2Proof.Claims.WindowPortRequested : Prop :=
  ∀ (s : State) (l : Nat) (tag : BitVec 10) (op : BitVec 4) (addr : DWord) (len : BitVec 12) (data : List Byte),
    let n := len.toNat + 1
    let answers := fun (code : Nat) => ∃ u, exec (.windowPortRequest l ⟨tag, op⟩ addr len data) s = .next u ∧ u.spad = s.spad
      ∧ u.tiles = s.tiles ∧ u.prom.net = s.prom.net
      ∧ Tab.find u.prom.wpResp l = some { tag := tag.toNat, code := code, data := [] }
    wpBusy s l tag.toNat = false →
    (availOf s (GenConfig.domRouter s.gen l) = .on → wpTarget s l op.toNat addr n = none → answers 1)
    ∧ (availOf s (GenConfig.domRouter s.gen l) = .later → answers 3)
    ∧ (∀ o, availOf s (GenConfig.domRouter s.gen l) = .on → wpTarget s l op.toNat addr n = some o →
      ∃ (u : State) (ms : List Msg), exec (.windowPortRequest l ⟨tag, op⟩ addr len data) s = .next u
        ∧ u.prom.net = s.prom.net ++ ms.flatMap Msg.split
        ∧ ms.length = (wpParts s o n).length ∧ u.spad = s.spad ∧ u.tiles = s.tiles ∧ u.prom.wpResp = s.prom.wpResp
        ∧ ∀ k p, (wpParts s o n)[k]? = some p → ∃ (m : Msg) (q : WpReq), ms[k]? = some m ∧ m.body = .wp q
          ∧ m.dst = .tile (p.1 / slotBytes) ∧ m.cls = .request ∧ q.port = l ∧ q.tag = tag.toNat ∧ q.op = op.toNat
          ∧ q.part = k ∧ q.off = p.1 ∧ q.len = p.2
          ∧ m.flits = (if op = 1 then flitsOf (BitVec.ofNat 64 p.1) p.2 else 1)
          ∧ (op = 1 → q.data = (data.drop (p.1 - o)).take p.2) ∧ (op ≠ 1 → q.data = data.take 16))

/-- A window port's part at a bank group that serves: BANK_WRITE of a WR writes the bytes of one granule at each access; of an
atomic the value of its operation, and it answers the previous one; BANK_READ of a RD takes the bytes of one granule at each
access and answers all of them with the last. A bank group that is off answers OFFLINE, one that quiesces RETRY. That the commands of
the promenade perform and answer a window port's parts is the model's choice (log 123). -/
def Sys2Proof.Claims.WindowPortPerformed : Prop :=
  ∀ (s : State) (i t : Nat) (m : Msg) (q : WpReq),
    let answers := fun (v : State) (code : Nat) (data : List Byte) => ∃ k, v.prom.net = s.prom.net.eraseIdx i ++ Msg.split k
      ∧ k.dst = .winPort q.port ∧ k.cls = .response ∧ k.body = .wpResp q code data
    let p := pieceAt q.off q.data m.done
    let g := granule q.off q.len m.done
    let bs := (List.range g.2).map (fun j => memByte s.spad.mem (g.1 + j))
    arrived s i = some m → m.body = .wp q → m.dst = .tile t →
    (availOf s (spadDom s t) = .on → q.op = 1 → poisoned s.spad.poison p.1 p.2.length = false →
      ∃ v, exec (.bankWrite ⟨i, .clean⟩) s = .next v ∧ Stored s v p.1 p.2 ∧ v.tiles = s.tiles
        ∧ (∀ o', accessAt q.off q.data.length (m.done + 1) = some o' →
            v.prom.net = s.prom.net.set i { m with done := m.done + 1, route := [bankOf s o'] })
        ∧ (accessAt q.off q.data.length (m.done + 1) = none → m.bad = false → answers v 0 []))
    ∧ (availOf s (spadDom s t) = .on → q.op = 0 →
      (∀ o', accessAt q.off q.len (m.done + 1) = some o' → ∃ v, exec (.bankRead i .clean) s = .next v ∧ OnlyNet s v
        ∧ v.prom.net = s.prom.net.set i { m with
            done := m.done + 1, got := m.got ++ bs, bad := m.bad || poisoned s.spad.poison g.1 g.2
            route := [bankOf s o'] })
      ∧ (accessAt q.off q.len (m.done + 1) = none → ∃ v, exec (.bankRead i .clean) s = .next v ∧ OnlyNet s v
        ∧ (m.bad = false → poisoned s.spad.poison g.1 g.2 = false → answers v 0 (m.got ++ bs))
        ∧ (m.bad = true ∨ poisoned s.spad.poison g.1 g.2 = true → answers v 2 [])))
    ∧ (availOf s (spadDom s t) = .on → 4 ≤ q.op → q.op ≤ 8 → poisoned s.spad.poison q.off q.len = false →
      let old := ofBytes ((List.range q.len).map (fun k => memByte s.spad.mem (q.off + k)))
      let x := ofBytes ((q.data.take 8).take q.len) % 2 ^ (8 * q.len)
      let cmp := ofBytes ((q.data.drop 8).take q.len) % 2 ^ (8 * q.len)
      ∃ u v, exec (.bankWrite ⟨i, .clean⟩) s = .next u ∧ Stored s u q.off (toBytes q.len v) ∧ answers u 0 (toBytes 8 old)
        ∧ u.tiles = s.tiles ∧ (q.op = 4 → v = (old + x) % 2 ^ (8 * q.len)) ∧ (q.op = 5 → v = x)
        ∧ (q.op = 6 → v = if old = cmp then x else old) ∧ (q.op = 7 → v = old ||| x) ∧ (q.op = 8 → v = old &&& x))
    ∧ (∀ c, c = (if q.op = 0 then Instr.bankRead i .clean else .bankWrite ⟨i, .clean⟩) →
      (availOf s (spadDom s t) = .off → ∃ v, exec c s = .next v ∧ OnlyNet s v ∧ answers v 4 [])
      ∧ (availOf s (spadDom s t) = .later → m.done = 0 → ∃ v, exec c s = .next v ∧ OnlyNet s v ∧ answers v 3 []))

/-- The answer to the one part of a window port's request is the request's answer, with the tag it came under: a read or an atomic
by READ_RESPONSE with its data where the code is OKAY, a write by WRITE_ACKNOWLEDGEMENT. With two parts it waits for the other (logs
112, 123: the model's choice). -/
def Sys2Proof.Claims.WindowPortAnswered : Prop :=
  ∀ (s : State) (i code : Nat) (m : Msg) (q : WpReq) (data : List Byte),
    let c := if q.op = 1 then Instr.writeAcknowledgement i else .readResponse i .clean
    let key := wpKey q.port q.tag
    arrived s i = some m → m.body = .wpResp q code data → m.dst = .winPort q.port →
    (q.part = 0 → Tab.find s.prom.wpOut key = some [none] →
      ∃ u, exec c s = .next u ∧ u.prom.net = s.prom.net.eraseIdx i ∧ u.prom.wpOut = Tab.erase s.prom.wpOut key
        ∧ Tab.find u.prom.wpResp q.port = some { tag := q.tag, code := code, data := if code = 0 then data else [] }
        ∧ (∀ l, l ≠ q.port → Tab.find u.prom.wpResp l = Tab.find s.prom.wpResp l) ∧ u.spad = s.spad ∧ u.tiles = s.tiles)
    ∧ (q.part < 2 → Tab.find s.prom.wpOut key = some [none, none] →
      ∃ u, exec c s = .next u ∧ u.prom.net = s.prom.net.eraseIdx i ∧ u.prom.wpResp = s.prom.wpResp
        ∧ Tab.find u.prom.wpOut key = some ([none, none].set q.part (some (code, data))) ∧ u.spad = s.spad)

/-- Window ports: requests leave in parts or are answered at once, bank groups perform the parts, and the answers come back. -/
def Obligations.WindowPortAccess : Prop :=
  Claims.WindowPortRequested ∧ Claims.WindowPortPerformed ∧ Claims.WindowPortAnswered

/-! ## Registers -/

/-- Registers of code RW with all 32 bits, for tile `t` and vector `v`. -/
def Sys2Proof.plainRw (t v : Nat) : List CpReg :=
  [.tile t .prio, .tile t (.stgSlice false), .tile t (.stgSlice true), .tsFixed,
    .pgSlewLim, .pwrTo, .vecData v, .ldHwOperand, .ldHwOffset]

/-- REGISTER_WRITE with all strobes: a plain RW register then reads as the word written and every other register as before; a
read-only register and an unlisted offset ignore the write. A strobe of 0 does nothing; any other strobe is answered with an error
and changes nothing, except at an unlisted offset, which ignores it (the model's choice, logs 73, 74); so is an access that `rst_n`,
the address or the target's power state turns away. -/
def Sys2Proof.Claims.RegisterWrites : Prop :=
  ∀ (s : State) (a : BitVec 26) (d : Word), s.cp.busy = false → (a.toNat = 0x108 → s.boot.held = []) →
    (∀ t r, r ∈ [TileReg.calSatThr, .calFlushThr] → Reaches s a.toNat (.tile t r) → (s.tile t).streams = [] →
      ∃ u, exec (.registerWrite a d 15) s = .next u ∧ readReg u (.tile t r) = d
        ∧ (∀ q, q ≠ .tile t r → readReg u q = readReg s q) ∧ u.cp.err = false ∧ u.spad = s.spad ∧ u.prom = s.prom)
    ∧ (∀ t v r, r ∈ plainRw t v → Reaches s a.toNat r →
      ∃ u, exec (.registerWrite a d 15) s = .next u ∧ readReg u r = d ∧ (∀ q, q ≠ r → readReg u q = readReg s q)
        ∧ u.cp.err = false ∧ u.spad = s.spad ∧ u.prom = s.prom)
    ∧ (∀ t r, r ∈ [CpReg.ghId, .ghConfig, .kpCorr, .kpUnrec, .pgErr, .tsStarveCount, .tile t .status, .tile t .faultCount] →
      Reaches s a.toNat r → ∃ u, exec (.registerWrite a d 15) s = .next u ∧ (∀ q, readReg u q = readReg s q)
        ∧ u.cp.err = false ∧ u.spad = s.spad ∧ u.prom = s.prom)
    ∧ (∀ r, Reaches s a.toNat r → exec (.registerWrite a d 0) s = .next (answered s))
    ∧ (∀ strb r, Reaches s a.toNat r → strb ≠ 0 → strb ≠ 15 → r ≠ .unlisted → (∀ t x, r ≠ .tile t x) →
      exec (.registerWrite a d strb) s = .next { s with cp := { s.cp with err := true, rdata := 0 } })
    ∧ (∀ strb t x, Reaches s a.toNat (.tile t x) → strb ≠ 0 → strb ≠ 15 → x ≠ .unlisted → x.isMem = false →
      exec (.registerWrite a d strb) s = .next { s with cp := { s.cp with err := true, rdata := 0 } })
    ∧ (∀ strb r, r = .unlisted ∨ (∃ t, r = .tile t .unlisted) → Reaches s a.toNat r →
      exec (.registerWrite a d strb) s = .next (answered s))
    ∧ (∀ strb, s.cp.inReset = true ∨ regAt s.gen a.toNat = none
        ∨ (∃ r, regAt s.gen a.toNat = some r ∧ reachable s a.toNat r = false) →
      exec (.registerWrite a d strb) s = .next { s with cp := { s.cp with err := true, rdata := 0 } })

/-- Register pairs: a read of `_LO` answers it and captures the `_HI` half, which the next read of `_HI` answers once; a write
of `_HI` is held and changes no register; a write of `_LO` applies both halves, the high one as held or else as it was. -/
def Sys2Proof.Claims.RegisterPairs : Prop :=
  ∀ (s : State) (a : BitVec 26) (d : Word) (r : CpReg), Reaches s a.toNat r →
    (∀ h, r.isLo = some h → exec (.registerPairLoRead a) s = .next { s with cp := { s.cp with
      rdata := readReg s r, err := false, shadow := Tab.put s.cp.shadow (a.toNat + 4) (readReg s h) } })
    ∧ (∀ v, r.isLo = none → Tab.find s.cp.shadow a.toNat = some v →
      exec (.registerPairLoRead a) s = .next { s with cp := { s.cp with
        rdata := v, err := false, shadow := Tab.erase s.cp.shadow a.toNat } })
    ∧ (r.halfOf = some true → r.sealGroup = none → pairLocked s r = false →
      exec (.registerPairHiWrite a d) s = .next { s with cp := { s.cp with
        err := false, heldHi := Tab.put s.cp.heldHi a.toNat d } })
    ∧ (∀ v t n, r ∈ [CpReg.vecAddr v false, .ringBase v false, .ringShadow v false, .pgLoad false, .tile t (.g n false)] →
      pairLocked s r = false →
      ∃ u, exec (.registerPairLoWrite a d) s = .next u
        ∧ pairValue u r = pair ((Tab.find s.cp.heldHi (a.toNat + 4)).getD (hi32 (pairValue s r))) d
        ∧ Tab.find u.cp.heldHi (a.toNat + 4) = none ∧ u.cp.err = false
        ∧ (∀ j k, CpReg.tile j (.g k false) ≠ r → (u.tile j).greg k = (s.tile j).greg k)
        ∧ u.spad = s.spad ∧ u.prom = s.prom)

/-- A write to TL_SR_SEED sets generator p of the 128 to SEED xor p × 0x0101, or to 1 where that is 0; `rst_n` seeds them from
the reset value of the register, 1. -/
def Obligations.SeedSetsGenerators : Prop :=
  let gen := fun (seed : BitVec 16) (p : Nat) =>
    if seed ^^^ BitVec.ofNat 16 (p * 0x0101) = 0 then (1 : BitVec 16) else seed ^^^ BitVec.ofNat 16 (p * 0x0101)
  (∀ (s : State) (t : Nat) (d : Word), Reaches s (tileAddr t 0x400) (.tile t .srSeed) →
    ∃ u, exec (.tlSrSeed t d) s = .next u ∧ OnlyTile (answered s) u t
      ∧ u.tile t = { s.tile t with srSeed := d.extractLsb' 0 16, lfsr := (List.range 128).map (gen (d.extractLsb' 0 16)) })
  ∧ ∀ (s : State) (t : Nat), ∃ u, exec .rstN s = .next u ∧ (u.tile t).srSeed = 1
      ∧ (u.tile t).lfsr = (List.range 128).map (gen 1)

/-- GH_COMPAT takes a PROFILE of 0 to 2, and ignores any other; the profile in effect stays until the start section. -/
def Sys2Proof.Claims.CompatWritten : Prop :=
  ∀ (s : State) (d : Word), Reaches s 4 .ghCompat →
    exec (.ghCompat d) s = .next { answered s with always := { s.always with
      profile := if fld d 3 0 ≤ 2 then BitVec.ofNat 4 (fld d 3 0) else s.always.profile } }

/-- SEAL_CHANGE of a register that is no half of a pair, after boot: one of a group's first three changes is performed, counted
and logged with the values before and after; a further one is refused, sets OVER of the group and raises SEAL_BUDGET. During boot it is
ignored, raises that event and uses none of the budget. -/
def Sys2Proof.Claims.SealChangesCounted : Prop :=
  ∀ (s : State) (a : BitVec 26) (d : Word) (r : CpReg) (g : Nat),
    Reaches s a.toNat r → r.sealGroup = some g → r.halfOf = none →
    (s.boot.state = 5 ∨ s.boot.state = 6 → sealIgnored r d = false →
      (Tab.get s.always.used 0 g < 3 → ∃ u w0, exec (.sealChange a d) s = .next u
        ∧ readReg u r = d &&& sealBits s.gen r ∧ Tab.get u.always.used 0 g = Tab.get s.always.used 0 g + 1
        ∧ u.always.sealLog = s.always.sealLog ++
            [[w0, readReg s r, d &&& sealBits s.gen r, 0, 0, s.pg.time.extractLsb' 0 32, s.pg.time.extractLsb' 32 32]]
        ∧ fld w0 29 27 = g ∧ fld w0 25 0 = a.toNat ∧ bit w0 30 = true ∧ u.tiles = s.tiles ∧ u.spad = s.spad)
      ∧ (3 ≤ Tab.get s.always.used 0 g → ∃ u, exec (.sealChange a d) s = .next u ∧ readReg u r = readReg s r
        ∧ bit u.always.refused g = true ∧ u.always.sealLog = s.always.sealLog ∧ u.always.used = s.always.used
        ∧ Heard s u 10 0 0 0 g
        ∧ u.tiles = s.tiles))
    ∧ (s.boot.state < 5 → ∃ u, exec (.sealChange a d) s = .next u ∧ u.always = s.always ∧ u.pg = s.pg
      ∧ u.cp.err = false ∧ u.tiles = s.tiles ∧ Heard s u 10 0 0 0 (g + 8))

/-! ## Reset and boot -/

/-- RST_N puts every register to its reset value, for the generated configuration and with the queue as it is, and holds the
control port in reset; BOOT_START ends that, samples `cfg_hostfeed` and requests the power of the root router's domain first. The
values of registers to which the spec gives no reset value are the model's (logs 1 to 3). -/
def Sys2Proof.Claims.ResetAndBootStart : Prop :=
  (∀ s : State, exec .rstN s = .next { State.resetOf s.gen with
      pending := s.pending, cp := { CtlPort.init with inReset := true } })
  ∧ ∀ (s : State) (hostfeed : Bool), s.boot.running = false → s.boot.state = 0 →
    let d := GenConfig.domRouter s.gen (GenConfig.root s.gen)
    (s.dom d).ack = false →
    ∃ u, exec (.bootStart hostfeed) s = .next u ∧ u.cp = { s.cp with inReset := false }
      ∧ u.boot = { s.boot with hostfeed := hostfeed, running := true, powerStep := 0 }
      ∧ u.dom d = { s.dom d with state := .powering, req := true, phase := .ackHigh, thenUp := false }
      ∧ (∀ e, e ≠ d → u.dom e = s.dom e) ∧ u.tiles = s.tiles ∧ u.spad = s.spad

/-- DISCOVERY resets the flash, reads SFDP and records what it offers, with NOSFDP where the signature is another; where the Basic
Flash Parameter Table holds each field is JESD216's (PRESUMED, log 118), and mode clocks carry 0x00. HEADER of eight
words fails with MAGIC, HCRC or HDRFIELD, checked in that order, and is otherwise accepted, the first section being next, quad enable
being set before a quad mode is used; BOOT_TIMEOUT fails the power and lock steps and a poll. -/
def Sys2Proof.Claims.DiscoveryAndHeader : Prop :=
  ∀ s : State,
    (∀ sig bfpt, bootOn s = true → s.boot.state = 2 → s.boot.hostfeed = false →
      let f := sfdpOf sig bfpt
      let cmds := [SpiCmd.alone 0x66, .alone 0x99, .read { instr := 0x5A, dummy := 8, modeClocks := 0, modeBits := 0 } 0 3 0 8]
      exec (.discovery ⟨sig, bfpt⟩) s = .next { s with boot := { s.boot with
          sfdp := f, nosfdp := !f.present, addr4 := f.addr4, state := 3, spi := s.boot.spi ++ cmds } }
        ∧ f.present = decide (sig = 0x50444653) ∧ (f.present = false → f.addr4 = false)
        ∧ ∀ r, f.r144 = some r → r.modeBits = 0)
    ∧ (∀ ws : List Word, s.cp.busy = false → bootOn s = true → s.boot.state = 3 → s.boot.hostfeed = false → ws.length = 8 →
      let failed := fun (err : Nat) => ∃ u, exec (.header ws) s = .next u ∧ u.boot.state = 6 ∧ u.boot.err = err
        ∧ u.boot.running = false ∧ u.tiles = s.tiles ∧ u.spad = s.spad
      (wordAt ws 0 ≠ 0x49464B41 → failed 2)
      ∧ (wordAt ws 0 = 0x49464B41 → wordAt ws 7 ≠ crc32c (wordBytes (ws.take 7)) → failed 3)
      ∧ (wordAt ws 0 = 0x49464B41 → wordAt ws 7 = crc32c (wordBytes (ws.take 7)) → imageHeaderBad s.gen ws = true → failed 4)
      ∧ (wordAt ws 0 = 0x49464B41 → wordAt ws 7 = crc32c (wordBytes (ws.take 7)) → imageHeaderBad s.gen ws = false →
        ∃ u, exec (.header ws) s = .next u ∧ u = { s with boot := u.boot } ∧ u.boot.state = 4 ∧ u.boot.sect = 0
          ∧ u.boot.next = 32 ∧ u.boot.nsect = fld (wordAt ws 1) 31 16 ∧ u.boot.total = (wordAt ws 2).toNat
          ∧ (s.boot.nosfdp = false → u.boot.div = fld (wordAt ws 3) 7 0) ∧ u.boot.running = true
          ∧ u.boot.mode = BitVec.ofNat 2 (readMode s.boot.sfdp (fld (wordAt ws 3) 9 8))
          ∧ u.boot.spi = s.boot.spi ++ [imageRead s.boot 0 0 8]
              ++ (if readMode s.boot.sfdp (fld (wordAt ws 3) 9 8) = 0 then [] else quadEnable s.boot.sfdp.qer)))
    ∧ (s.boot.running = true → s.cp.busy = false →
      (s.boot.state = 0 → ∃ u, exec .bootTimeout s = .next u ∧ u.boot.state = 6 ∧ u.boot.err = 1 ∧ u.boot.running = false)
      ∧ (s.boot.state = 1 → ∃ u, exec .bootTimeout s = .next u ∧ u.boot.state = 6 ∧ u.boot.err = 9
        ∧ u.boot.running = false))
    ∧ (s.boot.running = false → s.cp.busy = false → exec .bootTimeout s = .next s)

/-- Host feed: a word written to GH_BOOT_FEED is taken at once while the header is awaited; while the sequencer is busy the write is
not answered, and holds the accesses that come after it, until the sequencer takes the word (that the port is busy meanwhile is the
model's reading, log 117); without host feed, or once boot has ended, it is ignored. -/
def Sys2Proof.Claims.FeedHolds : Prop :=
  ∀ s : State,
    (∀ w, Reaches s 0x108 .bootFeed →
      (s.boot.hostfeed = true → s.boot.running = true → s.boot.state = 3 → s.boot.entries = [] → s.boot.feed.length < 8 →
        s.boot.held = [] →
        exec (.ghBootFeed w) s = .next { answered s with boot := { s.boot with feed := s.boot.feed ++ [w] } })
      ∧ (s.boot.hostfeed = true → s.boot.running = true → (s.boot.state ≠ 3 ∧ s.boot.state ≠ 4) ∨ s.boot.entries ≠ [] →
        exec (.ghBootFeed w) s = .next { s with
          boot := { s.boot with held := s.boot.held ++ [w] }, cp := { s.cp with busy := true } })
      ∧ (s.boot.hostfeed = false ∨ s.boot.running = false → s.boot.held = [] →
        exec (.ghBootFeed w) s = .next (answered s)))
    ∧ (s.cp.busy = true → ∀ (a : BitVec 26) (d : Word) (strb : BitVec 4),
      exec (.registerWrite a d strb) s = .next { s with cp := { s.cp with waiting := s.cp.waiting ++ [.write a.toNat d strb] } }
      ∧ exec (.registerPairLoRead a) s = .next { s with cp := { s.cp with waiting := s.cp.waiting ++ [.read a.toNat] } })
    ∧ ∀ (e : BootEntry) (w : Word), bootOn s = true → s.boot.state = 4 → s.boot.entries = [e] → e.kind = 3 → s.boot.feed = [] →
      s.cp.busy = true → s.boot.held = [w] → s.cp.waiting = [] →
      exec .delay s = .next { s with
        boot := { s.boot with entries := [], sect := s.boot.sect + 1, feed := [w], held := [] }
        cp := { s.cp with busy := false, err := false } }

/-- Section words that the sequencer takes from flash, whole, and whose checks all pass. -/
def Sys2Proof.SectionGood (s : State) (ws : List Word) : Prop :=
  s.cp.busy = false ∧ sectionDue s = true ∧ s.boot.hostfeed = false ∧ s.boot.held = [] ∧ 4 ≤ ws.length ∧ secWhole ws = true
    ∧ sectionErr s ws = none

/-- The section has been read with one command, and is done: the next one is due, 16 bytes and the payload further on. -/
def Sys2Proof.SectionDone (s u : State) (ws : List Word) : Prop :=
  u.boot = { s.boot with
    feed := [], sect := s.boot.sect + 1, next := s.boot.next + 16 + secLen ws
    spi := s.boot.spi ++ [imageRead s.boot s.boot.mode.toNat s.boot.next s.boot.div] }

/-- A section that passes its checks: REGS and SEAL leave their entries for the entry commands, in order, those of SEAL once each is
found to be a write of an RWL register (that they are checked first is the model's choice, log 84); PROG, DESC and CTX
write the instruction memory, a table of the tile, and the context table from the index they name on; START puts the profile
into effect, starts the programs of its tiles and ends boot with DONE. -/
def Sys2Proof.Claims.SectionsApplied : Prop :=
  ∀ (s : State) (ws : List Word), SectionGood s ws →
    let body := secBody ws
    let t := secTarget ws
    let es := listEntries (s.boot.next + 16) body
    (secType ws = 1 → es ≠ [] → ∃ u, exec (.regs ws) s = .next u ∧ u = { s with boot := u.boot } ∧ u.boot.entries = es
      ∧ u.boot.sect = s.boot.sect ∧ u.boot.state = 4)
    ∧ (secType ws = 5 → es ≠ [] → (∀ e ∈ es, sealEntryOk s.gen e = true) →
      ∃ u, exec (.seal ws) s = .next u ∧ u = { s with boot := u.boot } ∧ u.boot.entries = es ∧ u.boot.state = 4)
    ∧ (secType ws = 5 → (∃ e ∈ es, sealEntryOk s.gen e = false) →
      ∃ u, exec (.seal ws) s = .next u ∧ u.boot.state = 6 ∧ u.boot.err = 11 ∧ u.tiles = s.tiles)
    ∧ (secType ws = 2 → coreRuns s t = true → (s.tile t).seq ≠ .running →
      ∃ u, exec (.progSection ws) s = .next u ∧ SectionDone s u ws ∧ (∀ j, j ≠ t → u.tile j = s.tile j)
        ∧ u.tile t = { s.tile t with imem := (u.tile t).imem, badWords := (u.tile t).badWords } ∧ u.spad = s.spad
        ∧ ∀ k, Tab.get (u.tile t).imem 0 k =
            if 16 * fld (wordAt body 0) 9 0 ≤ k ∧ k < 16 * fld (wordAt body 0) 9 0 + (body.length - 1) then
              wordAt body (k - 16 * fld (wordAt body 0) 9 0 + 1)
            else Tab.get (s.tile t).imem 0 k)
    ∧ (∀ (n : Nat) (mem : Tile → Tab Word), secType ws = 3 → coreRuns s t = true →
      (fld (wordAt body 0) 25 24 = 0 ∧ n = 32 ∧ mem = Tile.tdt) ∨ (fld (wordAt body 0) 25 24 = 1 ∧ n = 16 ∧ mem = Tile.odt)
        ∨ (fld (wordAt body 0) 25 24 = 2 ∧ n = 1 ∧ mem = Tile.wpm) →
      ∃ u, exec (.desc ws) s = .next u ∧ SectionDone s u ws ∧ (∀ j, j ≠ t → u.tile j = s.tile j)
        ∧ u.tile t = { s.tile t with
            tdt := (u.tile t).tdt, odt := (u.tile t).odt, wpm := (u.tile t).wpm, badWords := (u.tile t).badWords }
        ∧ u.spad = s.spad
        ∧ (n ≠ 32 → (u.tile t).tdt = (s.tile t).tdt) ∧ (n ≠ 16 → (u.tile t).odt = (s.tile t).odt)
        ∧ (n ≠ 1 → (u.tile t).wpm = (s.tile t).wpm)
        ∧ ∀ k, Tab.get (mem (u.tile t)) 0 k =
            if n * fld (wordAt body 0) 11 0 ≤ k ∧ k < n * fld (wordAt body 0) 11 0 + (body.length - 1) then
              wordAt body (k - n * fld (wordAt body 0) 11 0 + 1)
            else Tab.get (mem (s.tile t)) 0 k)
    ∧ (secType ws = 4 →
      ∃ u, exec (.ctx ws) s = .next u ∧ SectionDone s u ws ∧ u.tiles = s.tiles ∧ u.spad = s.spad
        ∧ ∀ p k, p < GenConfig.leaves s.gen → k < 16384 → Tab.get u.lodge.ctx 0 (ctxPlace p k) =
            if fld (wordAt body 0) 13 0 ≤ k ∧ k < fld (wordAt body 0) 13 0 + (body.length - 1) then
              wordAt body (k - fld (wordAt body 0) 13 0 + 1) &&& 0xC0003FFF
            else Tab.get s.lodge.ctx 0 (ctxPlace p k))
    ∧ (secType ws = 15 →
      ∃ u, exec (.start ws) s = .next u ∧ u.always.active = s.always.profile ∧ u.boot.state = 5 ∧ u.boot.running = false
        ∧ u.always.sealLog.length = s.always.sealLog.length + 8 ∧ u.spad = s.spad
        ∧ (∀ j, bit (wordAt body 0) j = false → u.tile j = s.tile j)
        ∧ ∀ k j, (runTiles (wordAt body 0))[k]? = some j → coreRuns s j = true → (s.tile j).seq ≠ .running →
            (u.tile j).seq = .running ∧ (u.tile j).pc = fld (wordAt body (k + 1)) 9 0)

/-- A section whose checksum is wrong fails boot with SCRC and applies nothing. That SCRC is checked before the fields other than LEN is
the model's choice (log 15). -/
def Sys2Proof.Claims.BadSectionFails : Prop :=
  ∀ (s : State) (ws : List Word) (c : Instr),
    (secType ws, c) ∈ [(1, Instr.regs ws), (2, .progSection ws), (3, .desc ws), (4, .ctx ws), (5, .seal ws), (15, .start ws)] →
    s.cp.busy = false → sectionDue s = true → s.boot.hostfeed = false → 4 ≤ ws.length → secWhole ws = true → lenBad ws = false →
    scrcBad ws = true →
    ∃ u, exec c s = .next u ∧ u.boot.state = 6 ∧ u.boot.err = 5 ∧ u.boot.sect = s.boot.sect ∧ u.tiles = s.tiles
      ∧ u.lodge = s.lodge ∧ u.spad = s.spad

/-- Entry `e` stands at the head of the list, with further entries behind it. -/
def Sys2Proof.EntryDue (s : State) (kind : Nat) (e : BootEntry) (rest : List BootEntry) : Prop :=
  s.cp.busy = false ∧ bootOn s = true ∧ s.boot.entries = e :: rest ∧ e.kind = kind ∧ rest ≠ []

/-- The register list: WRITE makes its write and goes on, where that is no reset of the sequencer's own domain, or fails boot with
ENTRY where no register stands at its address; POLLSET goes on when every bit of its value reads 1 and POLLCLR when every one reads
0, and else they stay; a DELAY ends. A poll that runs out of time fails boot with POLL. -/
def Sys2Proof.Claims.EntriesApplied : Prop :=
  ∀ (s : State) (e : BootEntry) (rest : List BootEntry),
    (EntryDue s 0 e rest →
      (let r := cpWrite s e.addr e.value 15 true
       r.2 = false → r.1.boot = s.boot → exec .write s = .next { r.1 with boot := { s.boot with entries := rest } })
      ∧ (regAt s.gen e.addr = none → ∃ u, exec .write s = .next u ∧ u.boot.state = 6 ∧ u.boot.err = 7
        ∧ u.boot.offset = BitVec.ofNat 32 e.offset ∧ u.tiles = s.tiles ∧ u.spad = s.spad))
    ∧ (∀ kind c, (kind, c) ∈ [(1, Instr.pollset), (2, .pollclr)] → EntryDue s kind e rest →
      let r := cpRead s e.addr
      let held := if kind = 1 then r.2.1 &&& e.value = e.value else r.2.1 &&& e.value = 0
      (r.2.2 = false → held → exec c s = .next { r.1 with boot := { r.1.boot with entries := rest } })
      ∧ (r.2.2 = false → ¬ held → exec c s = .next r.1)
      ∧ (1 < s.boot.state → ∃ u, exec .bootTimeout s = .next u ∧ u.boot.state = 6 ∧ u.boot.err = 8
        ∧ u.tiles = s.tiles))
    ∧ (EntryDue s 3 e rest → exec .delay s = .next { s with boot := { s.boot with entries := rest } })
    ∧ (∀ kind c, (kind, c) ∈ [(0, Instr.write), (1, .pollset), (2, .pollclr), (3, .delay)] → e.kind ≠ kind →
      s.cp.busy = false → s.boot.entries = e :: rest → exec c s = .next s)

/-! ## Clocks -/

/-- GO applies a PLL's settings: it is busy and not locked, its domain runs from `clk_ref`, and PLL 1 stops the timebase; PLL 1
of a valid timebase and a leaf PLL without power do not start. PLL_LOCK and LOCKFAIL end the wait: locked, or with LOCKFAIL set.
Neither changes a byte or the time. Where the clock to switch from has stopped, the wait does not end. -/
def Sys2Proof.Claims.PllsLock : Prop :=
  ∀ (s : State) (p : Nat),
    let x := s.pll p
    (∀ v, Reaches s (0x10000C + 32 * p) (.pllCtrl p) → p < 2 + GenConfig.leaves s.gen →
      (¬ (p = 1 ∧ s.pg.valid = true) → pllOff s p = false → muxStuck s p = false → ∃ u, exec (.go p v) s = .next u
        ∧ u.pll p = { x with
            lockfail := clrBit x.lockfail v 28, inUse := (x.cfg, x.frac), busy := true, lock := false, sel := decide (p = 1) }
        ∧ (∀ q, q ≠ p → u.pll q = s.pll q) ∧ u.pg = { s.pg with running := s.pg.running && decide (p ≠ 1) }
        ∧ u.tiles = s.tiles ∧ u.spad = s.spad)
      ∧ (muxStuck s p = true → pllOff s p = false → ∃ u, exec (.go p v) s = .next u
        ∧ u.pll p = { x with lockfail := clrBit x.lockfail v 28, inUse := (x.cfg, x.frac), busy := true } ∧ u.pg = s.pg)
      ∧ (p = 1 → s.pg.valid = true → ∃ u, exec (.go p v) s = .next u
        ∧ u.pll p = { x with lockfail := clrBit x.lockfail v 28 } ∧ u.pg = s.pg)
      ∧ (p ≠ 1 → pllOff s p = true → ∃ u, exec (.go p v) s = .next u
        ∧ u.pll p = { x with lockfail := clrBit x.lockfail v 28, inUse := (x.cfg, x.frac) } ∧ u.pg = s.pg))
    ∧ (x.busy = true → s.cp.busy = false → muxStuck s p = false → ∃ u, exec (.pllLock p) s = .next u ∧ u.pll p = { x with busy := false, lock := true, sel := true }
      ∧ (∀ q, q ≠ p → u.pll q = s.pll q) ∧ u.pg.time = s.pg.time ∧ u.tiles = s.tiles ∧ u.spad = s.spad)
    ∧ (x.busy = true → muxStuck s p = false → ∃ u, exec (.lockfail p) s = .next u
      ∧ u.pll p = { x with busy := false, lockfail := true, occ := satInc x.occ }
      ∧ (∀ q, q ≠ p → u.pll q = s.pll q) ∧ u.pg = s.pg ∧ u.tiles = s.tiles ∧ u.spad = s.spad)
    ∧ (x.busy = false ∨ muxStuck s p = true → (s.cp.busy = false → exec (.pllLock p) s = .next s)
      ∧ exec (.lockfail p) s = .next s)

/-- MONITOR_WINDOW of an enabled monitor: a count within its limits reports nothing; one outside them sets the monitor's FREQ
bit; a second window of zero in a row sets its STOP bit, and of the timebase's clock it leaves the counter standing. A monitor that
is disabled or suspended reports nothing and counts no window as one in a row. -/
def Sys2Proof.Claims.MonitorsReport : Prop :=
  ∀ (s : State) (k count : Nat), k < 16 →
    let w := monRange s k
    (bit w 31 = true → monSuspended s k = false →
      (fld w 7 0 ≤ count → count ≤ fld w 15 8 → count ≠ 0 → ∃ u, exec (.monitorWindow k count) s = .next u
        ∧ u = { s with cpc := { s.cpc with monZero := u.cpc.monZero } } ∧ k ∉ u.cpc.monZero)
      ∧ (count < fld w 7 0 ∨ fld w 15 8 < count → ∃ u, exec (.monitorWindow k count) s = .next u
        ∧ bit u.cpc.monStatus (16 + k) = true)
      ∧ (count = 0 → k ∈ s.cpc.monZero → ∃ u, exec (.monitorWindow k count) s = .next u
        ∧ bit u.cpc.monStatus k = true ∧ (k = 2 → u.pg.running = false)))
    ∧ (bit w 31 = false ∨ monSuspended s k = true → exec (.monitorWindow k count) s =
        .next { s with cpc := { s.cpc with monZero := s.cpc.monZero.filter (fun j => decide (j ≠ k)) } })

/-! ## Power domains -/

/-- The power commands, when none is in progress. UP of a domain that is OFF requests power, once `pw_ack` is 0, and is turned away with DEPEND
while a domain it depends on is not ON; DOWN, and RETAIN of a scratchpad, of a domain that is ON begin its quiesce, with
DEPEND while a dependent is up; RESET holds a domain that is ON in reset where host resets are allowed, with AUTH where not, and is
never answered DEPEND (the model's reading, log 79). A command while one is in progress is ignored. -/
def Sys2Proof.Claims.PowerCommandsTaken : Prop :=
  ∀ (s : State) (d : BitVec 8), Reaches s 0x100800 .pwrCmd → d.toNat < GenConfig.domains s.gen →
    let n := d.toNat
    let x := s.dom n
    let gate0 := GenConfig.domFixed s.gen 6
    let refused := fun (c : Instr) (result : BitVec 3) => ∃ u, exec c s = .next u ∧ u.cpc.cmdResult = result
      ∧ u.cpc.cmdBusy = false ∧ (∀ e, u.dom e = s.dom e) ∧ u.tiles = s.tiles ∧ u.spad = s.spad
    let begins := fun (c : Instr) (y : Dom) => ∃ u, exec c s = .next u ∧ u.dom n = y ∧ (∀ e, e ≠ n → u.dom e = s.dom e)
      ∧ u.cpc.cmdBusy = true ∧ u.cpc.cmdDom = d
    (s.cpc.cmdBusy = false →
      (x.state = .off → (∀ e ∈ needsOf s.gen n, s.isOn e = true) → x.ack = true →
        begins (.up d) { x with state := .powering, phase := .ackLow, thenUp := true })
      ∧ (x.state = .off → (∀ e ∈ needsOf s.gen n, s.isOn e = true) → x.ack = false →
        begins (.up d) { x with state := .powering, req := true, phase := .ackHigh, thenUp := false })
      ∧ (x.state = .off → (∃ e ∈ needsOf s.gen n, s.isOn e = false) → refused (.up d) 1)
      ∧ (x.state = .on → n ≠ gate0 → (∀ e ∈ dependents s.gen n, (s.dom e).state.down = true) → hasParked s n = false →
        begins (.down d) { x with state := .quiescing, phase := .drain, toRet := false, thenUp := false })
      ∧ (x.state = .on → n ≠ gate0 → (∃ e ∈ dependents s.gen n, (s.dom e).state.down = false) → refused (.down d) 1)
      ∧ (∀ t, x.state = .on → spadOf s n = some t → (∀ e ∈ dependents s.gen n, (s.dom e).state = .off) →
        hasParked s n = false →
        begins (.retain d) { x with state := .quiescing, phase := .drain, toRet := true, thenUp := false })
      ∧ (spadOf s n = none → refused (.retain d) 6)
      ∧ (x.state = .on → n ≠ gate0 → bit s.always.rstauth 0 = true →
        begins (.reset d) { x with state := .reset, phase := .inReset, resets := satInc x.resets })
      ∧ (x.state = .on → n ≠ gate0 → bit s.always.rstauth 0 = false → refused (.reset d) 5))
    ∧ (s.cpc.cmdBusy = true → ∀ c, c ∈ [Instr.up d, .down d, .retain d, .reset d] → exec c s = .next (answered s))

/-- Taking a domain down: QUIESCE_ACK once its unit has drained, ROUTER_CONFIRMATION once no flit for it remains, then the fall
of `pw_ack`: the domain is OFF and a scratchpad's bytes are lost, or in RETENTION with its bytes. That ROUTER_CONFIRMATION isolates,
retains and takes the request away in one step is the model's choice (log 80). A quiesce that takes too long is abandoned with
QTIMEOUT. -/
def Sys2Proof.Claims.DomainsGoDown : Prop :=
  ∀ (s : State) (d : Nat),
    let x := s.dom d
    (x.phase = .drain →
      (drained s d = true → clockDead s d = false → ∃ u, exec (.quiesceAck d) s = .next u
        ∧ u.dom d = { x with state := .quiesced, phase := .confirm } ∧ (∀ e, e ≠ d → u.dom e = s.dom e)
        ∧ u.tiles = s.tiles ∧ u.spad = s.spad)
      ∧ (drained s d = false ∨ clockDead s d = true → exec (.quiesceAck d) s = .next s)
      ∧ ∃ u, exec (.quiesceTimeout d) s = .next u ∧ u.dom d = { x with state := .on, phase := .idle }
        ∧ (∀ e, e ≠ d → u.dom e = s.dom e) ∧ u.tiles = s.tiles ∧ u.spad = s.spad
        ∧ (s.cpc.cmdBusy = true → s.cpc.cmdWaits = false → s.cpc.cmdDom.toNat = d →
            u.cpc.cmdBusy = false ∧ u.cpc.cmdResult = 3))
    ∧ (x.phase = .confirm →
      (flitsLeft s d = false → ∃ u, exec (.routerConfirmation d) s = .next u
        ∧ u.dom d = { x with iso := true, req := false, phase := .ackLow } ∧ (∀ e, e ≠ d → u.dom e = s.dom e)
        ∧ u.tiles = s.tiles ∧ u.spad = s.spad
        ∧ ∀ t, x.toRet = true → spadOf s d = some t → t ∈ u.cpc.pwRet)
      ∧ (flitsLeft s d = true → exec (.routerConfirmation d) s = .next s))
    ∧ (x.phase = .ackLow → x.thenUp = false → s.cpc.cmdWaits = false → s.cp.inReset = false →
      (x.toRet = false → ∃ u, exec (.pwAck d false) s = .next u
        ∧ u.dom d = { x with ack := false, state := .off, phase := .idle, cycles := satInc x.cycles }
        ∧ (∀ e, e ≠ d → u.dom e = s.dom e) ∧ u.tiles = s.tiles
        ∧ ∀ o, memByte u.spad.mem o = if spadOf s d = some (o / slotBytes) then 0 else memByte s.spad.mem o)
      ∧ (x.toRet = true → ∃ u, exec (.pwAck d false) s = .next u
        ∧ u.dom d = { x with ack := false, state := .retention, phase := .idle, cycles := satInc x.cycles }
        ∧ (∀ e, e ≠ d → u.dom e = s.dom e) ∧ u.spad = s.spad))

/-- Bringing a domain up, outside boot: the rise of `pw_ack` is followed by the release, or by lock for a leaf PLL;
ISOLATION_RELEASE and RESET_RELEASE put the domain ON and end its command with OK. A `pw_ack` that does not come leaves an UP
in OFF and a DOWN in QUIESCED, with ACKTIMEOUT; one that does not fall before an UP leaves that in OFF. -/
def Sys2Proof.Claims.DomainsComeUp : Prop :=
  ∀ (s : State) (d : Nat), s.boot.running = false → s.cpc.cmdWaits = false → s.cp.inReset = false →
    let x := s.dom d
    let mine := s.cpc.cmdBusy = true ∧ s.cpc.cmdDom.toNat = d
    (x.phase = .ackHigh →
      ((∀ l, GenConfig.domUnit s.gen d ≠ some (.pll l)) → ∃ u, exec (.pwAck d true) s = .next u
        ∧ u.dom d = { x with ack := true, phase := .release } ∧ (∀ e, e ≠ d → u.dom e = s.dom e) ∧ u.tiles = s.tiles)
      ∧ (∀ l, GenConfig.domUnit s.gen d = some (.pll l) → ∃ u, exec (.pwAck d true) s = .next u
        ∧ u.dom d = { x with ack := true, phase := .lock }
        ∧ u.pll (2 + l) = { s.pll (2 + l) with busy := true, lock := false, sel := false } ∧ u.tiles = s.tiles)
      ∧ ∃ u, exec (.ackTimeout d) s = .next u
        ∧ u.dom d = { x with state := .off, req := false, ackerr := true, phase := .idle }
        ∧ (∀ e, e ≠ d → u.dom e = s.dom e) ∧ u.tiles = s.tiles ∧ u.spad = s.spad
        ∧ (mine → u.cpc.cmdBusy = false ∧ u.cpc.cmdResult = 4))
    ∧ (x.phase = .ackLow → ∃ u, exec (.ackTimeout d) s = .next u
      ∧ u.dom d = { x with
          state := if x.state = .powering then .off else .quiesced, ackerr := true, phase := .idle, thenUp := false }
      ∧ u.tiles = s.tiles ∧ u.spad = s.spad ∧ (mine → u.cpc.cmdBusy = false ∧ u.cpc.cmdResult = 4))
    ∧ (x.phase = .release → ∃ u, exec (.isolationRelease d) s = .next u
      ∧ u.dom d = { x with state := .on, iso := false, phase := .idle } ∧ (∀ e, e ≠ d → u.dom e = s.dom e)
      ∧ (∀ o, memByte u.spad.mem o = memByte s.spad.mem o) ∧ (mine → u.cpc.cmdBusy = false ∧ u.cpc.cmdResult = 0))
    ∧ (x.phase = .inReset → ∃ u, exec (.resetRelease d) s = .next u
      ∧ u.dom d = { x with state := .on, phase := .idle } ∧ (∀ e, e ≠ d → u.dom e = s.dom e)
      ∧ u.tiles = s.tiles ∧ u.spad = s.spad ∧ (mine → u.cpc.cmdBusy = false ∧ u.cpc.cmdResult = 0))
    ∧ (∀ c, c ∈ [Instr.isolationRelease d, .resetRelease d] → x.phase = .idle → exec c s = .next s)

/-! ## The keeper -/

/-- LOCKSTEP_MISMATCH with no recent stream: the program ends FAULTED, the general registers read 0, the fault is logged as
unrecovered and raises KP_FAULT, and no byte changes; where the tile holds no registration back, the streams stay and no other tile changes. -/
def Sys2Proof.Claims.LockstepFaults : Prop :=
  ∀ (s : State) (t : Nat), coreRuns s t = true → keeperRuns s = true →
    ∃ u, exec (.lockstepMismatch t 0 none) s = .next u ∧ (u.tile t).seq = .faulted ∧ (∀ n, (u.tile t).greg n = 0)
      ∧ u.keeper.unrec = satInc s.keeper.unrec ∧ u.spad = s.spad
      ∧ ((s.tile t).xheld = [] → (u.tile t).streams = (s.tile t).streams
          ∧ (u.tile t).faultCount = satInc (s.tile t).faultCount ∧ (∀ j, j ≠ t → u.tile j = s.tile j)
          ∧ Logged s u 2 0 0 (t % 65536) 0 0x38 0 0 0 ∧ Heard s u 11 t 0 0 s.keeper.next)

/-- LINK_RESEND of a waiting flit counts a corrected error: a good resend ends the count of failed sends, a bad one raises it, the
first send having failed before it (the model's reading, log 83), and the eighth fails the link, which is logged, drops what waits at
it and carries nothing. -/
def Sys2Proof.Claims.LinksResend : Prop :=
  ∀ (s : State) (p : Point) (r : Nat), linkRouter s p = some r → linkUp s p = true → keeperRuns s = true →
    (∃ m ∈ s.prom.net, m.route.head? = some p) →
    (∃ u, exec (.linkResend p true) s = .next u ∧ failsAt u p = 0 ∧ u.prom.net = s.prom.net
      ∧ u.prom.failed = s.prom.failed ∧ u.keeper.corr = satInc s.keeper.corr ∧ u.tiles = s.tiles ∧ u.spad = s.spad)
    ∧ (failsAt s p < 7 → ∃ u, exec (.linkResend p false) s = .next u ∧ failsAt u p = max 1 (failsAt s p) + 1
      ∧ u.prom.net = s.prom.net ∧ u.prom.failed = s.prom.failed ∧ u.tiles = s.tiles ∧ u.spad = s.spad)
    ∧ (7 ≤ failsAt s p → ∃ u, exec (.linkResend p false) s = .next u ∧ u.prom.failed = s.prom.failed ++ [p]
      ∧ u.prom.net.map (fun m => (m.route, m.body, m.src, m.dst, m.index))
          = (s.prom.net.filter (fun m => decide (m.route.head? ≠ some p))).map (fun m => (m.route, m.body, m.src, m.dst, m.index))
      ∧ linkUp u p = false ∧ u.keeper.unrec = satInc s.keeper.unrec ∧ u.tiles = s.tiles ∧ u.spad = s.spad
      ∧ (s.keeper.logcorr = false → Logged s u 2 4 1 r 0 0 8 0 0 ∧ Heard s u 11 0 0 0 (s.keeper.next + 4 * 256)))

/-- SCRUB_ACCESS of a word in a unit that serves: a clean word changes nothing; an uncorrectable one poisons a lodge counter or
a scratchpad unit whose bank no other requester wants, without changing a value, and is logged as unrecovered; one of a tile's
memories has its effect at the read that meets it, and stays until the word is written (the model's reading, log 131); the end of a
pass is counted. SCRUBLATE sets its flag. -/
def Sys2Proof.Claims.ScrubberFinds : Prop :=
  ∀ s : State, s.keeper.scrubEn = true → keeperRuns s = true →
    (∀ l, l ≠ .passEnd → exec (.scrubAccess l .clean) s = .next s)
    ∧ (∀ ecc, exec (.scrubAccess .passEnd ecc) s =
        .next { s with keeper := { s.keeper with scrubPasses := satInc s.keeper.scrubPasses } })
    ∧ (∀ c : BitVec 14, s.active (sliceDom s c.toNat) = true →
      ∃ u, exec (.scrubAccess (.counter c) .bad) s = .next u ∧ (∀ k, k ∈ u.lodge.poison ↔ k ∈ s.lodge.poison ∨ k = c.toNat)
        ∧ u.lodge.val = s.lodge.val ∧ u.keeper.unrec = satInc s.keeper.unrec ∧ u.tiles = s.tiles ∧ u.spad = s.spad
        ∧ Logged s u 2 8 4 (c.toNat / 4096) 0 0 0 (BitVec.ofNat 64 c.toNat) 0)
    ∧ (∀ t w l, s.active (GenConfig.domCore s.gen t) = true →
      l ∈ [ScrubLoc.imem t w, .tdt t w, .odt t w, .wpm t w] → ∃ u, exec (.scrubAccess l .bad) s = .next u
        ∧ (∀ b, b ∈ (u.tile t).badWords ↔ b ∈ (s.tile t).badWords ∨ b = l) ∧ u.keeper.unrec = satInc s.keeper.unrec
        ∧ (∀ j, j ≠ t → u.tile j = s.tile j) ∧ u.tile t = { s.tile t with badWords := (u.tile t).badWords } ∧ u.spad = s.spad)
    ∧ (∀ t k, pointCands s (bankOf s (t * slotBytes + 8 * k)) ≠ [] → exec (.scrubAccess (.spad t k) .bad) s = .next s)
    ∧ (∀ t k, s.active (GenConfig.domSpad s.gen t) = true → pointCands s (bankOf s (t * slotBytes + 8 * k)) = [] →
      ∃ u, exec (.scrubAccess (.spad t k) .bad) s = .next u ∧ u.spad.mem = s.spad.mem
        ∧ (∀ x, x ∈ u.spad.poison ↔ x ∈ s.spad.poison ∨ x = t * (slotBytes / 8) + k)
        ∧ u.keeper.unrec = satInc s.keeper.unrec ∧ u.tiles = s.tiles)
    ∧ (∃ u, exec .scrublate s = .next u ∧ u = { s with keeper := { s.keeper with
        scrublate := true, occ := satInc s.keeper.occ } })

/-- WATCHDOG_TICK counts one more µs for an enabled watchdog whose target is in the condition and has made no progress, and
starts afresh on progress; what counts as progress is the model's reading (log 13). WATCHDOG fires one whose count has reached its
timeout, once for a stall: it sets FIRED and the diagnosis words, counts, logs the fault, raises KP_WATCHDOG and, with ACTION 0,
changes nothing else; before that it does nothing. RESET of a port's watchdog resets the port where keeper resets are allowed. -/
def Sys2Proof.Claims.WatchdogsFire : Prop :=
  ∀ (s : State) (i : BitVec 6),
    let w := s.wd i.toNat
    keeperRuns s = true →
    (w.en = true → w.latched = false → w.seen = progressOf s w → counts s w = true →
      ∃ u, exec .watchdogTick s = .next u ∧ u.wd i.toNat = { w with count := w.count + 1 } ∧ u.tiles = s.tiles)
    ∧ (w.en = true → w.seen ≠ progressOf s w →
      ∃ u, exec .watchdogTick s = .next u ∧ (u.wd i.toNat).count ≤ 1 ∧ (u.wd i.toNat).latched = false)
    ∧ (w.en = false → ∃ u, exec .watchdogTick s = .next u ∧ u.wd i.toNat = w)
    ∧ (w.en = true → w.latched = false → counts s w = true → w.seen = progressOf s w → w.us ≤ w.count →
      (w.action = 0 → ∃ u, exec (.watchdog i) s = .next u ∧ (u.wd i.toNat).fired = true
        ∧ (u.wd i.toNat).latched = true ∧ (u.wd i.toNat).occ = satInc w.occ ∧ u.tiles = s.tiles ∧ u.spad = s.spad
        ∧ u.prom = s.prom ∧ u.lodge = s.lodge ∧ (u.wd i.toNat).diag = diagWords s (viewOf s w)
        ∧ Logged s u 3 13 10 i.toNat (if w.kind = 0 then w.sub % 8 else 0) 0 0 0 0 ∧ Heard s u 12 0 0 0 i.toNat)
      ∧ (w.action = 2 → w.kind = 2 → bit s.always.rstauth 2 = true → w.target < GenConfig.sysPorts s.gen →
        (s.dom (GenConfig.domPort s.gen w.target)).state = .on →
        ∃ u, exec (.watchdog i) s = .next u ∧ (u.dom (GenConfig.domPort s.gen w.target)).state = .reset
          ∧ (u.wd i.toNat).fired = true ∧ u.spad = s.spad))
    ∧ (w.count < w.us → exec (.watchdog i) s = .next s)

/-- FAULT_LOG_READ answers word W0 of a log entry and marks the entry, and no other, as read. -/
def Sys2Proof.Claims.FaultLogReads : Prop :=
  ∀ (s : State) (j : BitVec 6), Reaches s (0x201000 + 32 * j.toNat) (.kpLog j.toNat 0) →
    Tab.find s.cp.shadow (0x201000 + 32 * j.toNat) = none →
    ∃ u, exec (.faultLogRead j) s = .next u ∧ u.cp.rdata = readReg s (.kpLog j.toNat 0) ∧ u.cp.err = false
      ∧ (∀ k, Tab.get u.keeper.log LogEntry.init k = if k = j.toNat then
          { Tab.get s.keeper.log LogEntry.init k with read := true } else Tab.get s.keeper.log LogEntry.init k)
      ∧ u.keeper.count = s.keeper.count ∧ u.tiles = s.tiles ∧ u.spad = s.spad

/-! ## The obligations that join claims -/

/-- A failed issue check ends the instruction with its code, whatever its form and its source. -/
def Obligations.IssueCheckFaults : Prop :=
  Claims.ProgramCheckFaults ∧ Claims.FailedIssueEnds ∧ Claims.ContextErrorFails

/-- TILE_DATAPATH: the position moves, and the values that it makes. -/
def Obligations.DatapathAdvances : Prop :=
  Claims.DatapathAdvances ∧ Claims.LaneMakesUnits ∧ Claims.LaneConverts ∧ Claims.RequantRounds ∧ Claims.FloatCasts
    ∧ Claims.MicroscalingScales ∧ Claims.OutliersEscape ∧ Claims.PrbDecodes ∧ Claims.BxzBlocks

/-- SET instructions of the program. -/
def Obligations.SetWrites : Prop :=
  Claims.SetWritesRegister ∧ Claims.SetWritesTables

/-- SIG, BAR, their launch when held, and PENDING_SIGNAL. -/
def Obligations.SignalsQueue : Prop :=
  Claims.SignalsQueue ∧ Claims.HeldSignalLaunches ∧ Claims.PendingSignalSends

/-- WAIT. -/
def Obligations.WaitsHold : Prop :=
  Claims.WaitRegistersWatch ∧ Claims.WaitTakesExpressSlot

/-- FENCE and FENCE_COMPLETE. -/
def Obligations.FencesComplete : Prop :=
  Claims.FenceIssues ∧ Claims.FenceCompletes

/-- Instructions held by DEP or LAUNCH. -/
def Obligations.HeldInstructions : Prop :=
  Claims.HeldInstructionWaits ∧ Claims.InstructionAwaitsTurn ∧ Claims.HeldSetLaunches ∧ Claims.HeldOthersLaunch

/-- LAUNCH of a stream. -/
def Obligations.StreamsLaunch : Prop :=
  Claims.StreamLaunches ∧ Claims.LateLaunchRefused

/-- RETIRE, RESUME and ABANDON. -/
def Obligations.StreamsEnd : Prop :=
  Claims.FinishedStreamRetires ∧ Claims.LatenessRecorded ∧ Claims.StoppedStreamEnds ∧ Claims.ParkedStreamEnds

/-- INSTRUCTION_FETCH and PROGRAM_HALTED. -/
def Obligations.FetchAndHalt : Prop :=
  Claims.FetchReadsInstruction ∧ Claims.ProgramHalts

/-- ADDI, ADDA, LDI and CSET. -/
def Obligations.WalkersAddAndLoad : Prop :=
  Claims.WalkerAdds ∧ Claims.WalkerLoads ∧ Claims.WalkerWordFails

/-- EMIT, IDX and SCAN. -/
def Obligations.WalkersEmit : Prop :=
  Claims.WalkerEmits ∧ Claims.WalkerIndexes

/-- READ_REQUEST and WRITE_REQUEST. -/
def Obligations.RequestsLeave : Prop :=
  Claims.ReadRequestLeaves ∧ Claims.WriteRequestLeaves

/-- LAST_FLIT_SEND and SIGNATURE_COMPARE. -/
def Obligations.FlitsCompared : Prop :=
  Claims.LastFlitCarriesSignal ∧ Claims.CompareReplays

/-- READ_RESPONSE. -/
def Obligations.ReadsReturn : Prop :=
  Claims.ReadResponseStages ∧ Claims.ReadErrorsStop ∧ Claims.IndexEntryRejected

/-- WRITE_ACKNOWLEDGEMENT and CHUNK_COMMIT. -/
def Obligations.ChunksCommit : Prop :=
  Claims.AcknowledgementCounts ∧ Claims.ChunkCommits

/-- APPLY, LAYOUT_APPLIED and CALIBRATION_WINDOW. -/
def Obligations.StagingAndWindows : Prop :=
  Claims.StagingLayout ∧ Claims.CalibrationWindowRestarts ∧ Claims.ThresholdsJudge

/-- BANK_WRITE and unavailable bank groups. -/
def Obligations.BankGroupWrites : Prop :=
  Claims.BankWriteStores ∧ Claims.UnavailableBankGroup

/-- ACC_APPLY and DISCARD. -/
def Obligations.AddendsApplied : Prop :=
  Claims.ApplyAddsOnce ∧ Claims.AddendsSum ∧ Claims.DiscardFreesAddends

/-- SIGNAL_APPLY: counters and watches. -/
def Obligations.CountersUpdate : Prop :=
  Claims.SignalUpdatesCounter ∧ Claims.UpdateFiresWatch ∧ Claims.CounterComparison

/-- WATCH_REGISTRATION and its retry, and slices that do not serve. -/
def Obligations.Registrations : Prop :=
  Claims.RegistrationWatches ∧ Claims.RegistrationRetried ∧ Claims.UnavailableSlice

/-- WATCH_DELIVERY and WATCH_WITHDRAWAL. -/
def Obligations.WatchMessages : Prop :=
  Claims.DeliveryReachesWaiter ∧ Claims.WithdrawalRemovesWatch

/-- Timed signals and host watches. -/
def Obligations.TimersAndHostWatches : Prop :=
  Claims.TimersSignal ∧ Claims.HostWatches

/-- Express counters and context entries. -/
def Obligations.ExpressAndContext : Prop :=
  Claims.ExpressAdds ∧ Claims.HostContextAccess

/-- BARRIER_ARRIVAL counts, releases or overruns. -/
def Obligations.BarrierArrivals : Prop :=
  Claims.ArrivalCounts ∧ Claims.ArrivalsAhead ∧ Claims.OverrunNotCounted

/-- RELEASE_DELIVERY and the host's barrier registers. -/
def Obligations.BarrierReleases : Prop :=
  Claims.ReleaseEndsBar ∧ Claims.HostBarrierAccess

/-- TIMEBASE_LOAD and the timebase port. -/
def Obligations.TimebaseLoads : Prop :=
  Claims.LoadSetsTime ∧ Claims.TimebasePort

/-- Turnstiles grant by slack, priority and round robin. -/
def Obligations.TurnstilesGrant : Prop :=
  Claims.TurnstileOrder ∧ Claims.GrantMovesFlit ∧ Claims.StarvationCaptured

/-- RING_ENABLE, PROD, RING_FETCH and FETCH_RETRY. -/
def Obligations.RingsRun : Prop :=
  Claims.RingDoorbell ∧ Claims.RingsFetch

/-- FETCH_RESPONSE, DISPATCH and ENTRY_RECEIPT. -/
def Obligations.EntriesRun : Prop :=
  Claims.FetchedEntriesJobs ∧ Claims.EntriesDispatch

/-- COMPLETION, OWN_WRITE, DONE_ADVANCE, GATEHOUSE_RETRY and MESSAGE_WRITE. -/
def Obligations.CompletionsWritten : Prop :=
  Claims.CompletionsWritten ∧ Claims.GatehouseSends

/-- SYSTEM_PORT_REQUEST and TRANSLATION_ANSWER. -/
def Obligations.PortRequests : Prop :=
  Claims.RequestsTranslated ∧ Claims.TranslationAnswered

/-- SYSTEM_PORT_RESPONSE, RESPONSE_TIMEOUT and invalidations. -/
def Obligations.PortAnswers : Prop :=
  Claims.PortResponses ∧ Claims.TagTimesOut ∧ Claims.InvalidationsDropPages

/-- Register writes, register pairs, GH_COMPAT and sealed registers. -/
def Obligations.RegisterAccess : Prop :=
  Claims.RegisterWrites ∧ Claims.RegisterPairs ∧ Claims.CompatWritten ∧ Claims.SealChangesCounted

/-- Reset and boot: RST_N to START. -/
def Obligations.BootProceeds : Prop :=
  Claims.ResetAndBootStart ∧ Claims.DiscoveryAndHeader ∧ Claims.FeedHolds ∧ Claims.SectionsApplied ∧ Claims.BadSectionFails ∧ Claims.EntriesApplied

/-- GO, PLL_LOCK, LOCKFAIL and MONITOR_WINDOW. -/
def Obligations.ClocksRun : Prop :=
  Claims.PllsLock ∧ Claims.MonitorsReport

/-- Power commands and the steps of a domain. -/
def Obligations.DomainsChange : Prop :=
  Claims.PowerCommandsTaken ∧ Claims.DomainsGoDown ∧ Claims.DomainsComeUp

/-- Lockstep, link retry, scrubbing, watchdogs and the fault log. -/
def Obligations.KeeperActs : Prop :=
  Claims.LockstepFaults ∧ Claims.LinksResend ∧ Claims.ScrubberFinds ∧ Claims.WatchdogsFire ∧ Claims.FaultLogReads
end

