-- ==== Sys2Proof/Laws/Sparse.lean ====
section
/-! SUPPORT. What a read of a sparse table gives after each of its updates, and that the updates keep the canonical form. -/

namespace Sys2Proof.Machine

variable {α : Type}

@[simp] theorem Tab.find_nil (i : Nat) : Tab.find ([] : Tab α) i = none := rfl

@[simp] theorem Tab.get_nil (d : α) (i : Nat) : Tab.get [] d i = d := rfl

/-- A read after `put` finds the value put there, and every other index as before. -/
theorem Tab.find_put (t : Tab α) (i j : Nat) (v : α) :
    Tab.find (Tab.put t i v) j = if j = i then some v else Tab.find t j := by
  induction t with
  | nil => simp only [Tab.put, Tab.find]; split <;> split <;> simp_all
  | cons p t ih =>
    obtain ⟨k, w⟩ := p
    simp only [Tab.put]
    by_cases h1 : i < k
    · simp only [h1, if_true, Tab.find]
      by_cases h : j = i
      · subst h; simp
      · simp [h, Ne.symm h]
    · by_cases h2 : i = k
      · subst h2
        simp only [lt_irrefl, if_false, if_true, Tab.find]
        by_cases h : j = i
        · subst h; simp
        · simp [h, Ne.symm h]
      · simp only [h1, h2, if_false, Tab.find, ih]
        by_cases h : k = j
        · subst h; simp [Ne.symm h2]
        · simp [h]

@[simp] theorem Tab.find_put_self (t : Tab α) (i : Nat) (v : α) : Tab.find (Tab.put t i v) i = some v := by
  simp [Tab.find_put]

theorem Tab.find_put_of_ne (t : Tab α) {i j : Nat} (v : α) (h : j ≠ i) :
    Tab.find (Tab.put t i v) j = Tab.find t j := by
  simp [Tab.find_put, h]

theorem Tab.get_put (t : Tab α) (d : α) (i j : Nat) (v : α) :
    Tab.get (Tab.put t i v) d j = if j = i then v else Tab.get t d j := by
  unfold Tab.get; rw [Tab.find_put]; split <;> rfl

@[simp] theorem Tab.get_put_self (t : Tab α) (d : α) (i : Nat) (v : α) : Tab.get (Tab.put t i v) d i = v := by
  simp [Tab.get_put]

theorem Tab.get_put_of_ne (t : Tab α) (d : α) {i j : Nat} (v : α) (h : j ≠ i) :
    Tab.get (Tab.put t i v) d j = Tab.get t d j := by
  simp [Tab.get_put, h]

/-- A read of a table cut down to the entries whose index has a property. -/
theorem Tab.find_filter (f : Nat → Bool) (t : Tab α) (j : Nat) :
    Tab.find (t.filter (fun p => f p.1)) j = if f j then Tab.find t j else none := by
  induction t with
  | nil => simp
  | cons p t ih =>
    obtain ⟨k, w⟩ := p
    by_cases hk : f k = true
    · simp only [List.filter_cons, hk, if_true, Tab.find, ih]
      by_cases h : k = j
      · subst h; simp [hk]
      · simp [h]
    · have hk' : f k = false := by simpa using hk
      simp only [List.filter_cons, hk', Bool.false_eq_true, if_false, Tab.find, ih]
      by_cases h : k = j
      · subst h; simp [hk']
      · simp [h]

theorem Tab.find_erase (t : Tab α) (i j : Nat) :
    Tab.find (Tab.erase t i) j = if j = i then none else Tab.find t j := by
  have := Tab.find_filter (fun k => decide (k ≠ i)) t j
  simp only [Tab.erase] at this ⊢
  rw [this]
  by_cases h : j = i <;> simp [h]

theorem Tab.get_erase (t : Tab α) (d : α) (i j : Nat) :
    Tab.get (Tab.erase t i) d j = if j = i then d else Tab.get t d j := by
  unfold Tab.get; rw [Tab.find_erase]; split <;> rfl

/-- A read after `set` gives the value set there, and every other index as before. -/
theorem Tab.get_set [DecidableEq α] (t : Tab α) (d : α) (i j : Nat) (v : α) :
    Tab.get (Tab.set t d i v) d j = if j = i then v else Tab.get t d j := by
  unfold Tab.set
  split
  · next h => subst h; rw [Tab.get_erase]
  · rw [Tab.get_put]

@[simp] theorem Tab.get_set_self [DecidableEq α] (t : Tab α) (d : α) (i : Nat) (v : α) :
    Tab.get (Tab.set t d i v) d i = v := by
  simp [Tab.get_set]

theorem Tab.get_set_of_ne [DecidableEq α] (t : Tab α) (d : α) {i j : Nat} (v : α) (h : j ≠ i) :
    Tab.get (Tab.set t d i v) d j = Tab.get t d j := by
  simp [Tab.get_set, h]

/-- A read of a table whose values a function that keeps the default has changed. -/
theorem Tab.find_map {β : Type} (f : Nat → α → β) (t : Tab α) (i : Nat) :
    Tab.find (t.map (fun p => (p.1, f p.1 p.2))) i = (Tab.find t i).map (f i) := by
  induction t with
  | nil => rfl
  | cons p t ih =>
    obtain ⟨k, w⟩ := p
    simp only [List.map_cons, Tab.find, ih]
    by_cases h : k = i
    · subst h; simp
    · simp [h]

/-! ## The canonical form -/

theorem Tab.sortedFrom_mono : ∀ {t : Tab α} {a b : Nat}, a ≤ b → Tab.sortedFrom b t = true → Tab.sortedFrom a t = true
  | [], _, _, _, _ => rfl
  | (k, v) :: t, a, b, h, hs => by
    simp only [Tab.sortedFrom, Bool.and_eq_true, decide_eq_true_eq] at hs ⊢
    exact ⟨le_trans h hs.1, hs.2⟩

theorem Tab.sortedFrom_put : ∀ {t : Tab α} {lo i : Nat} {v : α},
    lo ≤ i → Tab.sortedFrom lo t = true → Tab.sortedFrom lo (Tab.put t i v) = true
  | [], lo, i, v, h, _ => by simp [Tab.put, Tab.sortedFrom, h]
  | (k, w) :: t, lo, i, v, h, hs => by
    simp only [Tab.sortedFrom, Bool.and_eq_true, decide_eq_true_eq] at hs
    simp only [Tab.put]
    split
    · simp only [Tab.sortedFrom, Bool.and_eq_true, decide_eq_true_eq]; exact ⟨h, by omega, hs.2⟩
    · split
      · next h2 => subst h2; simp only [Tab.sortedFrom, Bool.and_eq_true, decide_eq_true_eq]; exact ⟨h, hs.2⟩
      · simp only [Tab.sortedFrom, Bool.and_eq_true, decide_eq_true_eq]
        exact ⟨hs.1, Tab.sortedFrom_put (by omega) hs.2⟩

theorem Tab.sortedFrom_filter (f : Nat × α → Bool) : ∀ {t : Tab α} {lo : Nat},
    Tab.sortedFrom lo t = true → Tab.sortedFrom lo (t.filter f) = true
  | [], _, _ => rfl
  | (k, w) :: t, lo, hs => by
    simp only [Tab.sortedFrom, Bool.and_eq_true, decide_eq_true_eq] at hs
    simp only [List.filter_cons]
    split
    · simp only [Tab.sortedFrom, Bool.and_eq_true, decide_eq_true_eq]
      exact ⟨hs.1, Tab.sortedFrom_filter f hs.2⟩
    · exact Tab.sortedFrom_filter f (Tab.sortedFrom_mono (by omega) hs.2)

theorem Tab.mem_put {t : Tab α} {i : Nat} {v : α} {p : Nat × α} (h : p ∈ Tab.put t i v) : p = (i, v) ∨ p ∈ t := by
  induction t with
  | nil => simpa [Tab.put] using h
  | cons q t ih =>
    obtain ⟨k, w⟩ := q
    simp only [Tab.put] at h
    split at h
    · simpa using h
    · split at h
      · simp only [List.mem_cons] at h ⊢; tauto
      · simp only [List.mem_cons] at h ⊢
        rcases h with h | h
        · tauto
        · have := ih h; tauto

theorem Tab.wf_filter [DecidableEq α] {d : α} {t : Tab α} (f : Nat × α → Bool) (h : Tab.wf d t = true) :
    Tab.wf d (t.filter f) = true := by
  simp only [Tab.wf, Bool.and_eq_true, List.all_eq_true] at h ⊢
  exact ⟨Tab.sortedFrom_filter f h.1, fun p hp => h.2 p (List.mem_filter.1 hp).1⟩

/-- `set` keeps the canonical form. -/
theorem Tab.wf_set [DecidableEq α] {d : α} {t : Tab α} (i : Nat) (v : α) (h : Tab.wf d t = true) :
    Tab.wf d (Tab.set t d i v) = true := by
  unfold Tab.set
  split
  · exact Tab.wf_filter _ h
  · next hv =>
    simp only [Tab.wf, Bool.and_eq_true, List.all_eq_true] at h ⊢
    refine ⟨Tab.sortedFrom_put (Nat.zero_le _) h.1, fun p hp => ?_⟩
    rcases Tab.mem_put hp with rfl | hp
    · simpa using hv
    · exact h.2 p hp

end Sys2Proof.Machine
end

