-- ==== Sys2Proof/Laws/Memory.lean ====
section
/-! SUPPORT. Reads of scratchpad bytes after writes, and that every memory operation keeps the canonical form. -/

namespace Sys2Proof.Machine

/-- A byte after a write of bytes from an offset: the byte written there, or the one before. -/
theorem memByte_memWrite (bs : List Byte) : ∀ (m : List Host.Cell) (o a : Nat),
    memByte (memWrite m o bs) a = if o ≤ a ∧ a < o + bs.length then bs.getD (a - o) 0 else memByte m a := by
  induction bs with
  | nil => intro m o a; simp [memWrite]
  | cons b bs ih =>
    intro m o a
    simp only [memWrite, ih]
    by_cases h : a = o
    · subst h
      simp only [memByte, Tab.get_set, List.length_cons]
      have h2 : a ≤ a ∧ a < a + (bs.length + 1) := by omega
      simp [h2]
    · have e : memByte (Tab.set m 0 o b) a = memByte m a := by simp [memByte, Tab.get_set, h]
      rw [e]
      by_cases hr : o + 1 ≤ a ∧ a < o + 1 + bs.length
      · have h2 : o ≤ a ∧ a < o + (b :: bs).length := by simp only [List.length_cons]; omega
        rw [if_pos hr, if_pos h2]
        obtain ⟨k, hk⟩ : ∃ k, a - o = k + 1 := ⟨a - o - 1, by omega⟩
        rw [hk, show a - (o + 1) = k by omega]; simp
      · have h2 : ¬ (o ≤ a ∧ a < o + (b :: bs).length) := by simp only [List.length_cons]; omega
        rw [if_neg hr, if_neg h2]

theorem memRead_eq (m : List Host.Cell) (n : Nat) : ∀ o, memRead m o n = (List.range n).map (fun k => memByte m (o + k)) := by
  induction n with
  | zero => intro o; rfl
  | succ n ih =>
    intro o
    simp only [memRead, ih, List.range_succ_eq_map, List.map_cons, List.map_map, Nat.add_zero]
    congr 1
    apply List.map_congr_left
    intro k _
    simp [Function.comp, Nat.succ_eq_add_one, Nat.add_assoc, Nat.add_comm 1 k]

/-- Writing bytes keeps the canonical form. -/
theorem memWrite_wf (bs : List Byte) : ∀ (m : List Host.Cell) (o : Nat), Memory.wf m = true → Memory.wf (memWrite m o bs) = true := by
  induction bs with
  | nil => intro m o h; exact h
  | cons b bs ih => intro m o h; exact ih _ _ (Tab.wf_set (d := (0 : Byte)) o b h)

/-- A write under the rule of poisoned units keeps the canonical form. -/
theorem spadWrite_wf (sp : Spad) (o : Nat) (bs : List Byte) (h : Memory.wf sp.mem = true) :
    Memory.wf (spadWrite sp o bs).1.mem = true := by
  unfold spadWrite
  dsimp only
  split
  · exact h
  · exact memWrite_wf bs _ _ h

/-- A scratchpad write that is performed stores exactly its bytes; one that is not changes no byte. -/
theorem spadWrite_bytes (sp : Spad) (o : Nat) (bs : List Byte) (a : Nat) :
    memByte (spadWrite sp o bs).1.mem a =
      if (spadWrite sp o bs).2 = true ∧ o ≤ a ∧ a < o + bs.length then bs.getD (a - o) 0 else memByte sp.mem a := by
  unfold spadWrite
  dsimp only
  split
  · simp
  · simp [memByte_memWrite]

/-- Giving up an array keeps the canonical form. -/
theorem filter_wf (m : List Host.Cell) (f : Host.Cell → Bool) (h : Memory.wf m = true) : Memory.wf (m.filter f) = true :=
  Tab.wf_filter (d := (0 : Byte)) f h

end Sys2Proof.Machine
end

