-- ==== Sys2Proof/Laws/Keeps.lean ====
section
/-! SUPPORT. What the shared operations leave alone: the generated configuration, the queue, the canonical form of the
scratchpad memory, and the bounds of what the block counts. One lemma for each operation; a proof about a longer one applies them in the order of its body. -/

namespace Sys2Proof.Laws

open Sys2Proof Sys2Proof.Machine

set_option Elab.async false
set_option linter.unreachableTactic false
set_option linter.unusedTactic false

/-- `u` has the configuration and the queue of `s`, a canonical scratchpad memory where `s` has one, and is within the bounds where
`s` is. -/
def Keeps (s u : State) : Prop :=
  u.gen = s.gen ∧ u.pending = s.pending ∧ (Memory.wf s.spad.mem = true → Memory.wf u.spad.mem = true) ∧ (Bounded s → Bounded u)

/-- What the bounds speak of. -/
def bounds (s : State) : Nat × Nat × Tab Nat × List Seat := (s.keeper.next, s.keeper.count, s.always.used, s.gate.placed)

theorem bounded_congr {s u : State} (hb : bounds u = bounds s) (h : Bounded s) : Bounded u := by
  simp only [bounds, Prod.mk.injEq] at hb
  obtain ⟨a, b, c, d⟩ := hb
  simpa only [Bounded, seatsTaken, a, b, c, d] using h

theorem Keeps.refl (s : State) : Keeps s s := ⟨rfl, rfl, id, id⟩

theorem Keeps.upd {s0 s u : State} (h : Keeps s0 s) (hg : u.gen = s.gen) (hp : u.pending = s.pending)
    (hm : u.spad.mem = s.spad.mem) (hb : bounds u = bounds s) : Keeps s0 u := by
  obtain ⟨a, b, c, d⟩ := h
  exact ⟨hg.trans a, hp.trans b, fun w => hm ▸ c w, fun w => bounded_congr hb (d w)⟩

theorem Keeps.trans {s0 s u : State} (h : Keeps s0 s) (g : Keeps s u) : Keeps s0 u :=
  ⟨g.1.trans h.1, g.2.1.trans h.2.1, fun w => g.2.2.1 (h.2.2.1 w), fun w => g.2.2.2 (h.2.2.2 w)⟩

theorem Keeps.ite {s0 a b : State} {c : Prop} [Decidable c] (ha : Keeps s0 a) (hb : Keeps s0 b) :
    Keeps s0 (if c then a else b) := by
  split
  · exact ha
  · exact hb

theorem Keeps.ite_fst {α : Type} {s0 : State} {a b : State × α} {c : Prop} [Decidable c] (ha : Keeps s0 a.1)
    (hb : Keeps s0 b.1) : Keeps s0 (if c then a else b).1 := by
  split
  · exact ha
  · exact hb

theorem Keeps.foldl {α : Type} {s0 s : State} {f : State → α → State} {l : List α} (h : Keeps s0 s)
    (hf : ∀ u a, Keeps s0 u → Keeps s0 (f u a)) : Keeps s0 (l.foldl f s) := by
  induction l generalizing s with
  | nil => exact h
  | cons a l ih => exact ih (hf s a h)

theorem Keeps.foldl_fst {α β : Type} {s0 : State} {f : State × β → α → State × β} {l : List α} {p : State × β}
    (h : Keeps s0 p.1) (hf : ∀ q a, Keeps s0 q.1 → Keeps s0 (f q a).1) : Keeps s0 (l.foldl f p).1 := by
  induction l generalizing p with
  | nil => exact h
  | cons a l ih => exact ih (hf p a h)

theorem Keeps.mk {s0 s : State} {always : Always} {boot : Boot} {cp : CtlPort} {gate : Gate} {cpc : Cpc} {keeper : Keeper}
    {pg : Pergola} {turn : Turn} {lodge : Lodge} {band : Band} {prom : Prom} {tiles : Tab Tile} {spad : Spad}
    (h : Keeps s0 s) (hm : spad.mem = s.spad.mem)
    (hb : (keeper.next, keeper.count, always.used, gate.placed) = bounds s) :
    Keeps s0 { gen := s.gen, always := always, boot := boot, cp := cp, gate := gate, cpc := cpc, keeper := keeper, pg := pg
               turn := turn, lodge := lodge, band := band, prom := prom, tiles := tiles, spad := spad, pending := s.pending } :=
  Keeps.upd h rfl rfl hm hb

theorem Keeps.spad {s0 s : State} {sp : Spad} (h : Keeps s0 s) (hm : Memory.wf s.spad.mem = true → Memory.wf sp.mem = true) :
    Keeps s0 { s with spad := sp } :=
  h.trans ⟨rfl, rfl, hm, id⟩

/-! ## Ops -/

theorem setTile_keeps {s0 s : State} (h : Keeps s0 s) (t : Nat) (x : Tile) : Keeps s0 (State.setTile s t x) := by
  unfold State.setTile
  try dsimp only
  repeat (first
    | with_reducible assumption
    | fail_if_no_progress (with_reducible refine Keeps.mk ?_ rfl rfl)
    | dsimp only)

theorem setStream_keeps {s0 s : State} (h : Keeps s0 s) (t n : Nat) (x : Stream) : Keeps s0 (State.setStream s t n x) := by
  unfold State.setStream
  try dsimp only
  repeat (first
    | with_reducible assumption
    | with_reducible apply setTile_keeps
    | fail_if_no_progress (with_reducible refine Keeps.mk ?_ rfl rfl)
    | dsimp only)

theorem freeStream_keeps {s0 s : State} (h : Keeps s0 s) (t n : Nat) : Keeps s0 (State.freeStream s t n) := by
  unfold State.freeStream
  try dsimp only
  repeat (first
    | with_reducible assumption
    | with_reducible apply setTile_keeps
    | fail_if_no_progress (with_reducible refine Keeps.mk ?_ rfl rfl)
    | dsimp only)

theorem setDom_keeps {s0 s : State} (h : Keeps s0 s) (d : Nat) (x : Dom) : Keeps s0 (State.setDom s d x) := by
  unfold State.setDom
  try dsimp only
  repeat (first
    | with_reducible assumption
    | fail_if_no_progress (with_reducible refine Keeps.mk ?_ rfl rfl)
    | dsimp only)

theorem atBase_keeps {s0 s : State} (h : Keeps s0 s) (b : GenAt) : Keeps s0 (State.atBase s b) := by
  unfold State.atBase
  try dsimp only
  repeat (first
    | with_reducible assumption
    | fail_if_no_progress (with_reducible refine Keeps.mk ?_ rfl rfl)
    | dsimp only)

theorem pendVec_keeps {s0 s : State} (h : Keeps s0 s) (v : Nat) : Keeps s0 (pendVec s v) := by
  unfold pendVec
  try dsimp only
  repeat (first
    | with_reducible assumption
    | fail_if_no_progress (with_reducible refine Keeps.mk ?_ rfl rfl)
    | dsimp only)

theorem raise_keeps {s0 s : State} (h : Keeps s0 s) (e t n ring detail : Nat) : Keeps s0 (raise s e t n ring detail) := by
  unfold raise
  try dsimp only
  repeat (first
    | with_reducible assumption
    | with_reducible apply pendVec_keeps
    | with_reducible apply Keeps.ite
    | fail_if_no_progress (with_reducible refine Keeps.mk ?_ rfl rfl)
    | dsimp only
    | split)

theorem logEntry_keeps {s0 s : State} (h : Keeps s0 s) (c : FClass) (m : Mech) (u : LogUnit) (i : LogInfo) :
    Keeps s0 (logEntry s c m u i) :=
  h.trans ⟨rfl, rfl, id, fun ⟨_, _, b, d⟩ => ⟨Nat.mod_lt _ (by decide), Nat.min_le_left _ _, b, d⟩⟩

theorem raiseFault_keeps {s0 s : State} (h : Keeps s0 s) (next : Nat) (m : Mech) (u : LogUnit) (i : LogInfo) : Keeps s0 (raiseFault s next m u i) := by
  unfold raiseFault
  try dsimp only
  repeat (first
    | with_reducible assumption
    | with_reducible apply raise_keeps
    | with_reducible apply Keeps.ite
    | dsimp only
    | split)

theorem klog_keeps {s0 s : State} (h : Keeps s0 s) (c : FClass) (m : Mech) (u : LogUnit) (i : LogInfo) : Keeps s0 (klog s c m u i) := by
  unfold klog
  try dsimp only
  repeat (first
    | with_reducible assumption
    | with_reducible apply logEntry_keeps
    | with_reducible apply raiseFault_keeps
    | with_reducible apply Keeps.ite
    | fail_if_no_progress (with_reducible refine Keeps.mk ?_ rfl rfl)
    | dsimp only
    | split)

theorem ringFlag_keeps {s0 s : State} (h : Keeps s0 s) (q b : Nat) : Keeps s0 (ringFlag s q b) := by
  unfold ringFlag
  try dsimp only
  repeat (first
    | with_reducible assumption
    | with_reducible apply raise_keeps
    | fail_if_no_progress (with_reducible refine Keeps.mk ?_ rfl rfl)
    | dsimp only)

theorem setRing_keeps {s0 s : State} (h : Keeps s0 s) (q : Nat) (r : Ring) : Keeps s0 (State.setRing s q r) := by
  unfold State.setRing
  try dsimp only
  repeat (first
    | with_reducible assumption
    | fail_if_no_progress (with_reducible refine Keeps.mk ?_ rfl rfl)
    | dsimp only)

theorem post_keeps {s0 s : State} (h : Keeps s0 s) (cls : Cls) (src dst : Node) (tail : List Point) (slack : Int) (prio flits : Nat) (body : Body) : Keeps s0 (post s cls src dst tail slack prio flits body) := by
  unfold post
  try dsimp only
  repeat (first
    | with_reducible assumption
    | fail_if_no_progress (with_reducible refine Keeps.mk ?_ rfl rfl)
    | dsimp only)

theorem postSmall_keeps {s0 s : State} (h : Keeps s0 s) (cls : Cls) (src dst : Node) (body : Body) : Keeps s0 (postSmall s cls src dst body) := by
  unfold postSmall
  try dsimp only
  repeat (first
    | with_reducible assumption
    | with_reducible apply post_keeps
    | dsimp only)

theorem joinWakes_keeps {s0 s : State} (h : Keeps s0 s) (old : State) : Keeps s0 (joinWakes old s) := by
  unfold joinWakes
  dsimp only
  split
  · exact h.upd rfl rfl rfl rfl
  · exact h

theorem dropMsg_keeps {s0 s : State} (h : Keeps s0 s) (i : Nat) : Keeps s0 (dropMsg s i) := by
  unfold dropMsg
  try dsimp only
  repeat (first
    | with_reducible assumption
    | fail_if_no_progress (with_reducible refine Keeps.mk ?_ rfl rfl)
    | dsimp only)

theorem sendUpd_keeps {s0 s : State} (h : Keeps s0 s) (src : Node) (u : Upd) : Keeps s0 (sendUpd s src u) := by
  unfold sendUpd
  try dsimp only
  repeat (first
    | with_reducible assumption
    | with_reducible apply postSmall_keeps
    | with_reducible apply Keeps.ite
    | fail_if_no_progress (with_reducible refine Keeps.mk ?_ rfl rfl)
    | dsimp only
    | split)

/-! ## Flags -/

theorem countWindow_keeps {s0 s : State} (h : Keeps s0 s) (t n sats flushes : Nat) : Keeps s0 (countWindow s t n sats flushes) := by
  unfold countWindow
  try dsimp only
  repeat (first
    | with_reducible assumption
    | with_reducible apply setTile_keeps
    | with_reducible apply raise_keeps
    | with_reducible apply Keeps.ite
    | fail_if_no_progress (with_reducible refine Keeps.mk ?_ rfl rfl)
    | dsimp only
    | split)

theorem countEvents_keeps {s0 s : State} (h : Keeps s0 s) (t n sats flushes : Nat) : Keeps s0 (countEvents s t n sats flushes) := by
  unfold countEvents
  try dsimp only
  repeat (first
    | with_reducible assumption
    | with_reducible apply setTile_keeps
    | with_reducible apply countWindow_keeps
    | dsimp only)

theorem countElems_keeps {s0 s : State} (h : Keeps s0 s) (t n counted : Nat) (es : List (Nat × Nat)) : Keeps s0 (countElems s t n counted es) := by
  unfold countElems
  try dsimp only
  repeat (first
    | with_reducible assumption
    | with_reducible apply setTile_keeps
    | with_reducible apply countWindow_keeps
    | fail_if_no_progress (with_reducible refine Keeps.mk ?_ rfl rfl)
    | dsimp only)

theorem judgeWindows_keeps {s0 s : State} (h : Keeps s0 s) (t : Nat) : Keeps s0 (judgeWindows s t) := by
  unfold judgeWindows
  try dsimp only
  repeat (first
    | with_reducible assumption
    | with_reducible apply countWindow_keeps
    | with_reducible apply Keeps.ite
    | with_reducible apply Keeps.ite_fst
    | with_reducible refine Keeps.foldl ?_ (fun u a hu => ?_)
    | with_reducible refine Keeps.foldl_fst ?_ (fun q a hq => ?_)
    | dsimp only
    | split)

theorem nextWindow_keeps {s0 s : State} (h : Keeps s0 s) (t n : Nat) : Keeps s0 (nextWindow s t n) := by
  unfold nextWindow
  try dsimp only
  repeat (first
    | with_reducible assumption
    | with_reducible apply setTile_keeps
    | with_reducible apply countWindow_keeps
    | fail_if_no_progress (with_reducible refine Keeps.mk ?_ rfl rfl)
    | dsimp only)

theorem lodgeFlag_keeps {s0 s : State} (h : Keeps s0 s) (b cid : Nat) : Keeps s0 (lodgeFlag s b cid) := by
  unfold lodgeFlag
  try dsimp only
  repeat (first
    | with_reducible assumption
    | with_reducible apply raise_keeps
    | fail_if_no_progress (with_reducible refine Keeps.mk ?_ rfl rfl)
    | dsimp only)

theorem lodgeErr_keeps {s0 s : State} (h : Keeps s0 s) (host : Bool) (t n code cid : Nat) : Keeps s0 (lodgeErr s host t n code cid) := by
  unfold lodgeErr
  try dsimp only
  repeat (first
    | with_reducible assumption
    | with_reducible apply raise_keeps
    | with_reducible apply Keeps.ite
    | fail_if_no_progress (with_reducible refine Keeps.mk ?_ rfl rfl)
    | dsimp only
    | split)

theorem scopeMm_keeps {s0 s : State} (h : Keeps s0 s) (isBar : Bool) (t n rel acq cid : Nat) : Keeps s0 (scopeMm s isBar t n rel acq cid) := by
  unfold scopeMm
  try dsimp only
  repeat (first
    | with_reducible assumption
    | with_reducible apply raise_keeps
    | with_reducible apply Keeps.ite
    | fail_if_no_progress (with_reducible refine Keeps.mk ?_ rfl rfl)
    | dsimp only
    | split)

theorem barErr_keeps {s0 s : State} (h : Keeps s0 s) (host : Bool) (t srcNum d gen bar : Nat) : Keeps s0 (barErr s host t srcNum d gen bar) := by
  unfold barErr
  try dsimp only
  repeat (first
    | with_reducible assumption
    | with_reducible apply Keeps.ite
    | fail_if_no_progress (with_reducible refine Keeps.mk ?_ rfl rfl)
    | dsimp only
    | split)

theorem pgAlarm_keeps {s0 s : State} (h : Keeps s0 s) (a : Alarm) : Keeps s0 (pgAlarm s a) := by
  unfold pgAlarm
  try dsimp only
  repeat (first
    | with_reducible assumption
    | with_reducible apply raise_keeps
    | fail_if_no_progress (with_reducible refine Keeps.mk ?_ rfl rfl)
    | dsimp only
    | split)

theorem setSp_keeps {s0 s : State} (h : Keeps s0 s) (n : Nat) (x : SysPort) : Keeps s0 (State.setSp s n x) := by
  unfold State.setSp
  try dsimp only
  repeat (first
    | with_reducible assumption
    | fail_if_no_progress (with_reducible refine Keeps.mk ?_ rfl rfl)
    | dsimp only)

theorem spFlag_keeps {s0 s : State} (h : Keeps s0 s) (n b tag : Nat) : Keeps s0 (spFlag s n b tag) := by
  unfold spFlag
  try dsimp only
  repeat (first
    | with_reducible assumption
    | with_reducible apply setSp_keeps
    | fail_if_no_progress (with_reducible refine Keeps.mk ?_ rfl rfl)
    | dsimp only)

theorem ghCfgErr_keeps {s0 s : State} (h : Keeps s0 s) (q : Nat) : Keeps s0 (ghCfgErr s q) := by
  unfold ghCfgErr
  try dsimp only
  repeat (first
    | with_reducible assumption
    | fail_if_no_progress (with_reducible refine Keeps.mk ?_ rfl rfl)
    | dsimp only)

theorem ghVecErr_keeps {s0 s : State} (h : Keeps s0 s) (v : Nat) : Keeps s0 (ghVecErr s v) := by
  unfold ghVecErr
  try dsimp only
  repeat (first
    | with_reducible assumption
    | fail_if_no_progress (with_reducible refine Keeps.mk ?_ rfl rfl)
    | dsimp only)

/-! ## Ending -/

/-- Dropping places takes none. -/
theorem bounded_filter {s u : State} (f : Seat → Bool) (hn : u.keeper.next = s.keeper.next) (hc : u.keeper.count = s.keeper.count)
    (hu : u.always.used = s.always.used) (hp : u.gate.placed = s.gate.placed.filter f) (h : Bounded s) : Bounded u := by
  obtain ⟨a, b, c, d⟩ := h
  refine ⟨hn ▸ a, hc ▸ b, hu ▸ c, fun t k => le_trans ?_ (d t k)⟩
  simp only [seatsTaken, hp]
  exact (List.filter_sublist.filter _).length_le

theorem addComp_keeps {s0 s : State} (h : Keeps s0 s) (e : EntryRef) (c : CompArgs) : Keeps s0 (addComp s e c) :=
  h.trans ⟨rfl, rfl, id, bounded_filter _ rfl rfl rfl rfl⟩

theorem judgeLate_keeps {s0 s : State} (h : Keeps s0 s) (t n : Nat) (ring : Bool) (l cause : Nat) : Keeps s0 (judgeLate s t n ring l cause) := by
  unfold judgeLate
  try dsimp only
  repeat (first
    | with_reducible assumption
    | with_reducible apply setTile_keeps
    | with_reducible apply raise_keeps
    | with_reducible apply Keeps.ite
    | fail_if_no_progress (with_reducible refine Keeps.mk ?_ rfl rfl)
    | dsimp only
    | split)

theorem clearHold_keeps {s0 s : State} (h : Keeps s0 s) (t : Nat) (src : Source) : Keeps s0 (clearHold s t src) := by
  unfold clearHold
  try dsimp only
  repeat (first
    | with_reducible assumption
    | with_reducible apply setTile_keeps
    | fail_if_no_progress (with_reducible refine Keeps.mk ?_ rfl rfl)
    | dsimp only)

theorem noteWait_keeps {s0 s : State} (h : Keeps s0 s) (t : Nat) (src : Source) (c : Nat) : Keeps s0 (noteWait s t src c) := by
  unfold noteWait
  try dsimp only
  repeat (first
    | with_reducible assumption
    | with_reducible apply setTile_keeps
    | fail_if_no_progress (with_reducible refine Keeps.mk ?_ rfl rfl)
    | dsimp only)

theorem compareScope_keeps {s0 s : State} (h : Keeps s0 s) (rel : Option Rel) (acq : Nat) (w : Waiter) (cid : Nat) : Keeps s0 (compareScope s rel acq w cid) := by
  unfold compareScope
  try dsimp only
  repeat (first
    | with_reducible assumption
    | with_reducible apply scopeMm_keeps
    | with_reducible apply Keeps.ite
    | fail_if_no_progress (with_reducible refine Keeps.mk ?_ rfl rfl)
    | dsimp only
    | split)

theorem finishDone_keeps {s0 s : State} (h : Keeps s0 s) (t : Nat) (entry : Option EntryRef) (l : Line) (la : LaunchSt) (claimed : Bool) : Keeps s0 (finishDone s t entry l la claimed) := by
  unfold finishDone
  try dsimp only
  repeat (first
    | with_reducible assumption
    | with_reducible apply addComp_keeps
    | with_reducible apply judgeLate_keeps
    | with_reducible apply Keeps.ite
    | with_reducible apply Keeps.ite_fst
    | fail_if_no_progress (with_reducible refine Keeps.mk ?_ rfl rfl)
    | dsimp only
    | split)

theorem completeWait_keeps {s0 s : State} (h : Keeps s0 s) (t : Nat) (src : Source) (w : WaitSt) (result : Nat) : Keeps s0 (completeWait s t src w result) := by
  unfold completeWait
  try dsimp only
  repeat (first
    | with_reducible assumption
    | with_reducible apply setTile_keeps
    | with_reducible apply clearHold_keeps
    | with_reducible apply noteWait_keeps
    | with_reducible apply finishDone_keeps
    | with_reducible apply Keeps.ite
    | dsimp only
    | split)

theorem wake_keeps {s0 s : State} (h : Keeps s0 s) (r : Reg) (result : Nat) : Keeps s0 (wake s r result).1 := by
  unfold wake
  try dsimp only
  repeat (first
    | with_reducible assumption
    | with_reducible apply setTile_keeps
    | with_reducible apply setStream_keeps
    | with_reducible apply completeWait_keeps
    | with_reducible apply Keeps.ite
    | with_reducible apply Keeps.ite_fst
    | fail_if_no_progress (with_reducible refine Keeps.mk ?_ rfl rfl)
    | dsimp only
    | split)

theorem registerX_keeps {s0 s : State} (h : Keeps s0 s) (r : Reg) : Keeps s0 (registerX s r) := by
  unfold registerX
  try dsimp only
  repeat (first
    | with_reducible assumption
    | with_reducible apply setTile_keeps
    | with_reducible apply compareScope_keeps
    | with_reducible apply wake_keeps
    | with_reducible apply Keeps.ite
    | with_reducible apply Keeps.ite_fst
    | fail_if_no_progress (with_reducible refine Keeps.mk ?_ rfl rfl)
    | dsimp only
    | split)

theorem takeHeld_keeps {s0 s : State} (h : Keeps s0 s) (t : Nat) : Keeps s0 (takeHeld s t) := by
  unfold takeHeld
  try dsimp only
  repeat (first
    | with_reducible assumption
    | with_reducible apply setTile_keeps
    | with_reducible apply registerX_keeps
    | with_reducible refine Keeps.foldl ?_ (fun u a hu => ?_)
    | fail_if_no_progress (with_reducible refine Keeps.mk ?_ rfl rfl)
    | dsimp only)

theorem withdrawReg_keeps {s0 s : State} (h : Keeps s0 s) (r : Reg) : Keeps s0 (withdrawReg s r) := by
  unfold withdrawReg
  try dsimp only
  repeat (first
    | with_reducible assumption
    | with_reducible apply setTile_keeps
    | with_reducible apply post_keeps
    | with_reducible apply takeHeld_keeps
    | with_reducible apply Keeps.ite
    | with_reducible apply Keeps.ite_fst
    | fail_if_no_progress (with_reducible refine Keeps.mk ?_ rfl rfl)
    | dsimp only
    | split)

theorem withdrawConds_keeps {s0 s : State} (h : Keeps s0 s) (t : Nat) (stream : Option Nat) (src : Source) (ord : Nat) (cs : List Cond) : Keeps s0 (withdrawConds s t stream src ord cs) := by
  unfold withdrawConds
  try dsimp only
  repeat (first
    | with_reducible assumption
    | with_reducible apply withdrawReg_keeps
    | with_reducible apply Keeps.ite
    | with_reducible apply Keeps.ite_fst
    | with_reducible refine Keeps.foldl ?_ (fun u a hu => ?_)
    | with_reducible refine Keeps.foldl_fst ?_ (fun q a hq => ?_)
    | fail_if_no_progress (with_reducible refine Keeps.mk ?_ rfl rfl)
    | dsimp only
    | split)

theorem withdrawHold_keeps {s0 s : State} (h : Keeps s0 s) (t : Nat) (src : Source) : Keeps s0 (withdrawHold s t src) := by
  unfold withdrawHold
  try dsimp only
  repeat (first
    | with_reducible assumption
    | with_reducible apply withdrawReg_keeps
    | with_reducible apply withdrawConds_keeps
    | fail_if_no_progress (with_reducible refine Keeps.mk ?_ rfl rfl)
    | dsimp only
    | split)

theorem badChain_keeps {s0 s : State} (h : Keeps s0 s) (e : EntryRef) (tag : Nat) : Keeps s0 (badChain s e tag) := by
  unfold badChain
  try dsimp only
  repeat (first
    | with_reducible assumption
    | with_reducible apply addComp_keeps
    | dsimp only)

theorem noteBroken_keeps {s0 s : State} (h : Keeps s0 s) (b : EntryRef) : Keeps s0 (noteBroken s b) := by
  unfold noteBroken
  try dsimp only
  repeat (first
    | with_reducible assumption
    | with_reducible apply setTile_keeps
    | with_reducible apply setRing_keeps
    | fail_if_no_progress (with_reducible refine Keeps.mk ?_ rfl rfl)
    | dsimp only)

theorem sweepTile_keeps {s0 s : State} (h : Keeps s0 s) (b : EntryRef) : Keeps s0 (sweepTile s b) := by
  unfold sweepTile
  try dsimp only
  repeat (first
    | with_reducible assumption
    | with_reducible apply setTile_keeps
    | with_reducible apply clearHold_keeps
    | with_reducible apply withdrawHold_keeps
    | with_reducible apply badChain_keeps
    | with_reducible apply Keeps.ite
    | with_reducible refine Keeps.foldl ?_ (fun u a hu => ?_)
    | fail_if_no_progress (with_reducible refine Keeps.mk ?_ rfl rfl)
    | dsimp only
    | split)

theorem sweepStreams_keeps {s0 s : State} (h : Keeps s0 s) (b : EntryRef) : Keeps s0 (sweepStreams s b) := by
  unfold sweepStreams
  try dsimp only
  repeat (first
    | with_reducible assumption
    | with_reducible apply setTile_keeps
    | with_reducible apply freeStream_keeps
    | with_reducible apply withdrawConds_keeps
    | with_reducible apply badChain_keeps
    | with_reducible apply Keeps.ite
    | with_reducible refine Keeps.foldl ?_ (fun u a hu => ?_)
    | fail_if_no_progress (with_reducible refine Keeps.mk ?_ rfl rfl)
    | dsimp only
    | split)

theorem breakJob_keeps {s0 s : State} (h : Keeps s0 s) (b : EntryRef) : Keeps s0 (breakJob s b) := by
  unfold breakJob
  try dsimp only
  repeat (first
    | with_reducible assumption
    | with_reducible apply noteBroken_keeps
    | with_reducible apply sweepTile_keeps
    | with_reducible apply sweepStreams_keeps
    | dsimp only)

theorem stopProgram_keeps {s0 s : State} (h : Keeps s0 s) (t pc : Nat) : Keeps s0 (stopProgram s t pc) := by
  unfold stopProgram
  try dsimp only
  repeat (first
    | with_reducible assumption
    | with_reducible apply setTile_keeps
    | with_reducible apply clearHold_keeps
    | with_reducible apply withdrawHold_keeps
    | fail_if_no_progress (with_reducible refine Keeps.mk ?_ rfl rfl)
    | dsimp only)

theorem progFault_keeps {s0 s : State} (h : Keeps s0 s) (t stream pc code : Nat) (launched : Bool) : Keeps s0 (progFault s t stream pc code launched) := by
  unfold progFault
  try dsimp only
  repeat (first
    | with_reducible assumption
    | with_reducible apply setTile_keeps
    | with_reducible apply stopProgram_keeps
    | with_reducible apply Keeps.ite
    | fail_if_no_progress (with_reducible refine Keeps.mk ?_ rfl rfl)
    | dsimp only
    | split)

theorem endInstr_keeps {s0 s : State} (h : Keeps s0 s) (t : Nat) (entry : Option EntryRef) (pc : Nat) (c : CompArgs) : Keeps s0 (endInstr s t entry pc c) := by
  unfold endInstr
  try dsimp only
  repeat (first
    | with_reducible assumption
    | with_reducible apply addComp_keeps
    | with_reducible apply breakJob_keeps
    | with_reducible apply progFault_keeps
    | with_reducible apply Keeps.ite
    | fail_if_no_progress (with_reducible refine Keeps.mk ?_ rfl rfl)
    | dsimp only
    | split)

theorem failIssue_keeps {s0 s : State} (h : Keeps s0 s) (t : Nat) (entry : Option EntryRef) (pc : Nat) (l : Line) (code : Nat) : Keeps s0 (failIssue s t entry pc l code) := by
  unfold failIssue
  try dsimp only
  repeat (first
    | with_reducible assumption
    | with_reducible apply endInstr_keeps
    | dsimp only)

theorem finishSimple_keeps {s0 s : State} (h : Keeps s0 s) (t : Nat) (entry : Option EntryRef) (pc : Nat) (l : Line) (la : LaunchSt) (code : Nat) : Keeps s0 (finishSimple s t entry pc l la code) := by
  unfold finishSimple
  try dsimp only
  repeat (first
    | with_reducible assumption
    | with_reducible apply judgeLate_keeps
    | with_reducible apply finishDone_keeps
    | with_reducible apply endInstr_keeps
    | with_reducible apply Keeps.ite
    | with_reducible apply Keeps.ite_fst
    | dsimp only
    | split)

/-! ## Issue -/

theorem loseCtx_keeps {s0 s : State} (h : Keeps s0 s) (k : Nat) : Keeps s0 (loseCtx s k) := by
  unfold loseCtx
  try dsimp only
  repeat (first
    | with_reducible assumption
    | with_reducible apply Keeps.ite
    | fail_if_no_progress (with_reducible refine Keeps.mk ?_ rfl rfl)
    | dsimp only
    | split)

theorem ctxEcc_keeps {s0 s : State} (h : Keeps s0 s) (t : Nat) (l : Line) (ecc : Ecc) : Keeps s0 (ctxEcc s t l ecc) := by
  unfold ctxEcc
  try dsimp only
  repeat (first
    | with_reducible assumption
    | with_reducible apply klog_keeps
    | with_reducible apply loseCtx_keeps
    | fail_if_no_progress (with_reducible refine Keeps.mk ?_ rfl rfl)
    | dsimp only
    | split)

/-! ## Launch -/

theorem popHead_keeps {s0 s : State} (h : Keeps s0 s) (t : Nat) (src : Source) : Keeps s0 (popHead s t src) := by
  unfold popHead
  try dsimp only
  repeat (first
    | with_reducible assumption
    | with_reducible apply setTile_keeps
    | with_reducible apply postSmall_keeps
    | fail_if_no_progress (with_reducible refine Keeps.mk ?_ rfl rfl)
    | dsimp only
    | split)

theorem deliver_keeps {s0 s : State} (h : Keeps s0 s) (r : Reg) (result : Nat) (bad : Bool) : Keeps s0 (deliver s r result bad).1 := by
  unfold deliver
  try dsimp only
  repeat (first
    | with_reducible assumption
    | with_reducible apply setTile_keeps
    | with_reducible apply freeStream_keeps
    | with_reducible apply clearHold_keeps
    | with_reducible apply wake_keeps
    | with_reducible apply withdrawConds_keeps
    | with_reducible apply withdrawHold_keeps
    | with_reducible apply endInstr_keeps
    | with_reducible apply finishSimple_keeps
    | with_reducible apply Keeps.ite
    | with_reducible apply Keeps.ite_fst
    | fail_if_no_progress (with_reducible refine Keeps.mk ?_ rfl rfl)
    | dsimp only
    | split)

theorem register_keeps {s0 s : State} (h : Keeps s0 s) (r : Reg) : Keeps s0 (register s r) := by
  unfold register
  try dsimp only
  repeat (first
    | with_reducible assumption
    | with_reducible apply post_keeps
    | with_reducible apply registerX_keeps
    | with_reducible apply Keeps.ite
    | with_reducible apply Keeps.ite_fst
    | dsimp only
    | split)

theorem registerConds_keeps {s0 s : State} (h : Keeps s0 s) (t : Nat) (stream : Option Nat) (src : Source) (ord : Nat) (cs : List Cond) : Keeps s0 (registerConds s t stream src ord cs) := by
  unfold registerConds
  try dsimp only
  repeat (first
    | with_reducible assumption
    | with_reducible apply register_keeps
    | with_reducible refine Keeps.foldl ?_ (fun u a hu => ?_)
    | with_reducible refine Keeps.foldl_fst ?_ (fun q a hq => ?_)
    | dsimp only)

theorem enqueueSig_keeps {s0 s : State} (h : Keeps s0 s) (t : Nat) (src : Source) (ord : Nat) (h : HeldInstr) (isBar : Bool) : Keeps s0 (enqueueSig s t src ord h isBar) := by
  unfold enqueueSig
  try dsimp only
  repeat (first
    | with_reducible assumption
    | with_reducible apply setTile_keeps
    | with_reducible apply Keeps.ite
    | fail_if_no_progress (with_reducible refine Keeps.mk ?_ rfl rfl)
    | dsimp only
    | split)

theorem startWait_keeps {s0 s : State} (h : Keeps s0 s) (t : Nat) (src : Source) (ord : Nat) (h : HeldInstr) : Keeps s0 (startWait s t src ord h) := by
  unfold startWait
  try dsimp only
  repeat (first
    | with_reducible assumption
    | with_reducible apply setTile_keeps
    | with_reducible apply register_keeps
    | fail_if_no_progress (with_reducible refine Keeps.mk ?_ rfl rfl)
    | dsimp only)

theorem simpleEffect_keeps {s0 s : State} (h : Keeps s0 s) (t : Nat) (src : Source) (ord : Nat) (h : HeldInstr) : Keeps s0 (simpleEffect s t src ord h) := by
  unfold simpleEffect
  try dsimp only
  repeat (first
    | with_reducible assumption
    | with_reducible apply setTile_keeps
    | with_reducible apply finishDone_keeps
    | with_reducible apply enqueueSig_keeps
    | with_reducible apply startWait_keeps
    | with_reducible apply Keeps.ite
    | fail_if_no_progress (with_reducible refine Keeps.mk ?_ rfl rfl)
    | dsimp only
    | split)

theorem holdAt_keeps {s0 s : State} (h : Keeps s0 s) (t : Nat) (src : Source) (h : HeldInstr) : Keeps s0 (holdAt s t src h) := by
  unfold holdAt
  try dsimp only
  repeat (first
    | with_reducible assumption
    | with_reducible apply setTile_keeps
    | fail_if_no_progress (with_reducible refine Keeps.mk ?_ rfl rfl)
    | dsimp only)

theorem goOn_keeps {s0 s : State} (h : Keeps s0 s) (t : Nat) (src : Source) (ord : Nat) (h : HeldInstr) : Keeps s0 (goOn s t src ord h) := by
  unfold goOn
  try dsimp only
  repeat (first
    | with_reducible assumption
    | with_reducible apply setTile_keeps
    | with_reducible apply simpleEffect_keeps
    | with_reducible apply holdAt_keeps
    | with_reducible apply Keeps.ite
    | fail_if_no_progress (with_reducible refine Keeps.mk ?_ rfl rfl)
    | dsimp only
    | split)

theorem issueSimple_keeps {s0 s : State} (h : Keeps s0 s) (t : Nat) (src : Source) (want : Row) (ctx : Ecc) : Keeps s0 (issueSimple s t src want ctx) := by
  unfold issueSimple
  try dsimp only
  repeat (first
    | with_reducible assumption
    | with_reducible apply noteWait_keeps
    | with_reducible apply failIssue_keeps
    | with_reducible apply ctxEcc_keeps
    | with_reducible apply popHead_keeps
    | with_reducible apply registerConds_keeps
    | with_reducible apply holdAt_keeps
    | with_reducible apply goOn_keeps
    | with_reducible apply Keeps.ite
    | fail_if_no_progress (with_reducible refine Keeps.mk ?_ rfl rfl)
    | dsimp only
    | split)

theorem launchHeld_keeps {s0 s : State} (h : Keeps s0 s) (t : Nat) (src : Source) : Keeps s0 (launchHeld s t src) := by
  unfold launchHeld
  try dsimp only
  repeat (first
    | with_reducible assumption
    | with_reducible apply clearHold_keeps
    | with_reducible apply noteWait_keeps
    | with_reducible apply holdAt_keeps
    | with_reducible apply goOn_keeps
    | with_reducible apply Keeps.ite
    | fail_if_no_progress (with_reducible refine Keeps.mk ?_ rfl rfl)
    | dsimp only
    | split)

theorem takeIssued_keeps {s0 s : State} (h : Keeps s0 s) (t : Nat) (i : IssuedInstr) : Keeps s0 (takeIssued s t i) := by
  unfold takeIssued
  try dsimp only
  repeat (first
    | with_reducible assumption
    | with_reducible apply setTile_keeps
    | dsimp only)

theorem launchIssued_keeps {s0 s : State} (h : Keeps s0 s) (t : Nat) (i : IssuedInstr) : Keeps s0 (launchIssued s t i) := by
  unfold launchIssued
  try dsimp only
  repeat (first
    | with_reducible assumption
    | with_reducible apply setTile_keeps
    | with_reducible apply simpleEffect_keeps
    | with_reducible apply takeIssued_keeps
    | with_reducible apply Keeps.ite
    | fail_if_no_progress (with_reducible refine Keeps.mk ?_ rfl rfl)
    | dsimp only
    | split)

/-! ## Walk -/

theorem walkErrorAt_keeps {s0 s : State} (h : Keeps s0 s) (t n : Nat) (side : Side) (bound : Side × Nat) (cause code : Nat) (addr : DWord) (wpc : Nat) : Keeps s0 (walkErrorAt s t n side bound cause code addr wpc) := by
  unfold walkErrorAt
  try dsimp only
  repeat (first
    | with_reducible assumption
    | with_reducible apply setTile_keeps
    | with_reducible apply setStream_keeps
    | fail_if_no_progress (with_reducible refine Keeps.mk ?_ rfl rfl)
    | dsimp only
    | split)

theorem walkError_keeps {s0 s : State} (h : Keeps s0 s) (t n : Nat) (side : Side) (pos cause code : Nat) (addr : DWord) (wpc : Nat) : Keeps s0 (walkError s t n side pos cause code addr wpc) := by
  unfold walkError
  try dsimp only
  repeat (first
    | with_reducible assumption
    | with_reducible apply walkErrorAt_keeps
    | dsimp only)

theorem abortStream_keeps {s0 s : State} (h : Keeps s0 s) (t n code : Nat) : Keeps s0 (abortStream s t n code) := by
  unfold abortStream
  try dsimp only
  repeat (first
    | with_reducible assumption
    | with_reducible apply setStream_keeps
    | with_reducible apply Keeps.ite
    | fail_if_no_progress (with_reducible refine Keeps.mk ?_ rfl rfl)
    | dsimp only
    | split)

theorem checkCounts_keeps {s0 s : State} (h : Keeps s0 s) (t n : Nat) : Keeps s0 (checkCounts s t n) := by
  unfold checkCounts
  try dsimp only
  repeat (first
    | with_reducible assumption
    | with_reducible apply walkErrorAt_keeps
    | with_reducible apply walkError_keeps
    | with_reducible apply Keeps.ite
    | fail_if_no_progress (with_reducible refine Keeps.mk ?_ rfl rfl)
    | dsimp only
    | split)

theorem setPoint_keeps {s0 s : State} (h : Keeps s0 s) (p : Point) (v : PointSt) : Keeps s0 (setPoint s p v) := by
  unfold setPoint
  try dsimp only
  repeat (first
    | with_reducible assumption
    | fail_if_no_progress (with_reducible refine Keeps.mk ?_ rfl rfl)
    | dsimp only)

theorem takeGiven_keeps {s0 s : State} (h : Keeps s0 s) (n : Nat) (side : Side) (ps : List Point) : Keeps s0 (takeGiven s n side ps) := by
  unfold takeGiven
  try dsimp only
  repeat (first
    | with_reducible assumption
    | with_reducible apply setPoint_keeps
    | with_reducible refine Keeps.foldl ?_ (fun u a hu => ?_)
    | fail_if_no_progress (with_reducible refine Keeps.mk ?_ rfl rfl)
    | dsimp only)

theorem poisonAt_keeps {s0 s : State} (h : Keeps s0 s) (o : Nat) : Keeps s0 (poisonAt s o) := by
  unfold poisonAt
  try dsimp only
  repeat (first
    | with_reducible assumption
    | with_reducible apply Keeps.ite
    | fail_if_no_progress (with_reducible refine Keeps.mk ?_ rfl rfl)
    | dsimp only
    | split)

theorem spadEcc_keeps {s0 s : State} (h : Keeps s0 s) (u o : Nat) (ecc : Ecc) : Keeps s0 (spadEcc s u o ecc) := by
  unfold spadEcc
  try dsimp only
  repeat (first
    | with_reducible assumption
    | with_reducible apply klog_keeps
    | with_reducible apply poisonAt_keeps
    | fail_if_no_progress (with_reducible refine Keeps.mk ?_ rfl rfl)
    | dsimp only
    | split)

theorem walkerExec_keeps {s0 s : State} (h : Keeps s0 s) (t n : Nat) (st : Stream) (side : Side) : Keeps s0 (walkerExec s t n st side) := by
  unfold walkerExec
  try dsimp only
  repeat (first
    | with_reducible assumption
    | with_reducible apply setStream_keeps
    | with_reducible apply walkError_keeps
    | with_reducible apply abortStream_keeps
    | with_reducible apply checkCounts_keeps
    | with_reducible apply Keeps.ite
    | fail_if_no_progress (with_reducible refine Keeps.mk ?_ rfl rfl)
    | dsimp only
    | split)

theorem walkerStep_keeps {s0 s : State} (h : Keeps s0 s) (t n : Nat) (side : Side) (want : WOp) (ecc data : Ecc) : Keeps s0 (walkerStep s t n side want ecc data) := by
  unfold walkerStep
  try dsimp only
  repeat (first
    | with_reducible assumption
    | with_reducible apply klog_keeps
    | with_reducible apply abortStream_keeps
    | with_reducible apply takeGiven_keeps
    | with_reducible apply spadEcc_keeps
    | with_reducible apply walkerExec_keeps
    | with_reducible apply Keeps.ite
    | with_reducible apply Keeps.ite_fst
    | fail_if_no_progress (with_reducible refine Keeps.mk ?_ rfl rfl)
    | dsimp only
    | split)

/-! ## Arb -/

theorem starve_keeps {s0 s : State} (h : Keeps s0 s) (p : Point) (c : Cand) : Keeps s0 (starve s p c) := by
  unfold starve
  try dsimp only
  repeat (first
    | with_reducible assumption
    | with_reducible apply raise_keeps
    | with_reducible apply Keeps.ite
    | with_reducible apply Keeps.ite_fst
    | fail_if_no_progress (with_reducible refine Keeps.mk ?_ rfl rfl)
    | dsimp only
    | split)

theorem noteWaits_keeps {s0 s : State} (h : Keeps s0 s) (p : Point) (w : Nat) (cs : List Cand) : Keeps s0 (noteWaits s p w cs) := by
  unfold noteWaits
  try dsimp only
  repeat (first
    | with_reducible assumption
    | with_reducible apply setTile_keeps
    | fail_if_no_progress (with_reducible refine Keeps.mk ?_ rfl rfl)
    | dsimp only
    | split)

theorem accountGrant_keeps {s0 s : State} (h : Keeps s0 s) (p : Point) (w : Nat) (cs : List Cand) : Keeps s0 (accountGrant s p w cs) := by
  unfold accountGrant
  try dsimp only
  repeat (first
    | with_reducible assumption
    | with_reducible apply setPoint_keeps
    | with_reducible apply starve_keeps
    | with_reducible apply noteWaits_keeps
    | with_reducible refine Keeps.foldl ?_ (fun u a hu => ?_)
    | fail_if_no_progress (with_reducible refine Keeps.mk ?_ rfl rfl)
    | dsimp only
    | assumption)

theorem takePoint_keeps {s0 s : State} (h : Keeps s0 s) (p : Point) (cs : List Cand) : Keeps s0 (takePoint s p cs).1 := by
  unfold takePoint
  try dsimp only
  repeat (first
    | with_reducible assumption
    | with_reducible apply setPoint_keeps
    | with_reducible apply accountGrant_keeps
    | fail_if_no_progress (with_reducible refine Keeps.mk ?_ rfl rfl)
    | dsimp only
    | split)

theorem decideNext_keeps {s0 s : State} (h : Keeps s0 s) (p : Point) (cs : List Cand) : Keeps s0 (decideNext s p cs) := by
  unfold decideNext
  try dsimp only
  repeat (first
    | with_reducible assumption
    | with_reducible apply setPoint_keeps
    | with_reducible apply accountGrant_keeps
    | fail_if_no_progress (with_reducible refine Keeps.mk ?_ rfl rfl)
    | dsimp only
    | split
    | assumption)

/-! ## Reads -/

theorem sendRead_keeps {s0 s : State} (h : Keeps s0 s) (t n : Nat) (st : Stream) (addr : DWord) (len : Nat) (what : ReadWhat) (side : Side) (pos next skip : Nat) : Keeps s0 (sendRead s t n st addr len what side pos next skip) := by
  unfold sendRead
  try dsimp only
  repeat (first
    | with_reducible assumption
    | with_reducible apply setStream_keeps
    | with_reducible apply atBase_keeps
    | with_reducible apply post_keeps
    | with_reducible apply Keeps.ite
    | with_reducible apply Keeps.ite_fst
    | fail_if_no_progress (with_reducible refine Keeps.mk ?_ rfl rfl)
    | dsimp only
    | split
    | assumption)

/-! ## Datapath -/

theorem decodePrb_keeps {s0 s : State} (h : Keeps s0 s) (t n : Nat) (st : Stream) (b : Nat) (bs : List Byte) : Keeps s0 (decodePrb s t n st b bs) := by
  unfold decodePrb
  try dsimp only
  repeat (first
    | with_reducible assumption
    | with_reducible apply setTile_keeps
    | with_reducible apply setStream_keeps
    | with_reducible apply countEvents_keeps
    | with_reducible apply Keeps.ite
    | with_reducible apply Keeps.ite_fst
    | fail_if_no_progress (with_reducible refine Keeps.mk ?_ rfl rfl)
    | dsimp only
    | split)

theorem decodeBxz_keeps {s0 s : State} (h : Keeps s0 s) (t n : Nat) (st : Stream) (b : Nat) (bs : List Byte) : Keeps s0 (decodeBxz s t n st b bs) := by
  unfold decodeBxz
  try dsimp only
  repeat (first
    | with_reducible assumption
    | with_reducible apply setTile_keeps
    | with_reducible apply setStream_keeps
    | with_reducible apply Keeps.ite
    | with_reducible apply Keeps.ite_fst
    | fail_if_no_progress (with_reducible refine Keeps.mk ?_ rfl rfl)
    | dsimp only
    | split)

theorem decodeFor_keeps {s0 s : State} (h : Keeps s0 s) (t n v : Nat) : Keeps s0 (decodeFor s t n v) := by
  unfold decodeFor
  try dsimp only
  repeat (first
    | with_reducible assumption
    | with_reducible apply decodePrb_keeps
    | with_reducible apply decodeBxz_keeps
    | with_reducible apply Keeps.ite
    | with_reducible apply Keeps.ite_fst
    | fail_if_no_progress (with_reducible refine Keeps.mk ?_ rfl rfl)
    | dsimp only
    | split)

theorem checkRecords_keeps {s0 s : State} (h : Keeps s0 s) (t n : Nat) (st : Stream) (ks : List Nat) : Keeps s0 (checkRecords s t n st ks) := by
  unfold checkRecords
  try dsimp only
  repeat (first
    | with_reducible assumption
    | with_reducible apply setTile_keeps
    | with_reducible apply setStream_keeps
    | with_reducible apply Keeps.ite
    | fail_if_no_progress (with_reducible refine Keeps.mk ?_ rfl rfl)
    | dsimp only
    | split)

theorem checkRate_keeps {s0 s : State} (h : Keeps s0 s) (t n : Nat) (st : Stream) (k : Nat) : Keeps s0 (checkRate s t n st k) := by
  unfold checkRate
  try dsimp only
  repeat (first
    | with_reducible assumption
    | with_reducible apply setTile_keeps
    | with_reducible apply setStream_keeps
    | with_reducible apply Keeps.ite
    | fail_if_no_progress (with_reducible refine Keeps.mk ?_ rfl rfl)
    | dsimp only
    | split)

theorem runGroup_keeps {s0 s : State} (h : Keeps s0 s) (t n : Nat) (st : Stream) (ks : List Nat) : Keeps s0 (runGroup s t n st ks) := by
  unfold runGroup
  try dsimp only
  repeat (first
    | with_reducible assumption
    | with_reducible apply setTile_keeps
    | with_reducible apply setStream_keeps
    | with_reducible apply countElems_keeps
    | fail_if_no_progress (with_reducible refine Keeps.mk ?_ rfl rfl)
    | dsimp only)

theorem stepGroup_keeps {s0 s : State} (h : Keeps s0 s) (t n : Nat) : Keeps s0 (stepGroup s t n).1 := by
  unfold stepGroup
  try dsimp only
  repeat (first
    | with_reducible assumption
    | with_reducible apply decodeFor_keeps
    | with_reducible apply checkRecords_keeps
    | with_reducible apply checkRate_keeps
    | with_reducible apply runGroup_keeps
    | with_reducible apply Keeps.ite
    | with_reducible apply Keeps.ite_fst
    | with_reducible refine Keeps.foldl ?_ (fun u a hu => ?_)
    | with_reducible refine Keeps.foldl_fst ?_ (fun q a hq => ?_)
    | fail_if_no_progress (with_reducible refine Keeps.mk ?_ rfl rfl)
    | dsimp only
    | split)

theorem stepRow_keeps {s0 : State} (t n : Nat) : ∀ (k : Nat) {s : State}, Keeps s0 s → Keeps s0 (stepRow s t n k)
  | 0, _, h => h
  | k + 1, s, h => by
    unfold stepRow
    dsimp only
    split
    · exact stepRow_keeps t n k (stepGroup_keeps h t n)
    · exact stepGroup_keeps h t n

/-! ## Writes -/

theorem sendWrite_keeps {s0 s : State} (h : Keeps s0 s) (t n : Nat) (st : Stream) (c : Chunk) (p : Piece) (kind : WriteKind) (data : Bool) (sg : Option Upd) (f : Chunk → Chunk) : Keeps s0 (sendWrite s t n st c p kind data sg f) := by
  unfold sendWrite
  try dsimp only
  repeat (first
    | with_reducible assumption
    | with_reducible apply setStream_keeps
    | with_reducible apply post_keeps
    | with_reducible apply Keeps.ite
    | with_reducible apply Keeps.ite_fst
    | fail_if_no_progress (with_reducible refine Keeps.mk ?_ rfl rfl)
    | dsimp only
    | split)

theorem reserveAcc_keeps {s0 s : State} (h : Keeps s0 s) (t n : Nat) (st : Stream) (c : Chunk) : Keeps s0 (reserveAcc s t n st c) := by
  unfold reserveAcc
  try dsimp only
  repeat (first
    | with_reducible assumption
    | with_reducible apply Keeps.ite
    | fail_if_no_progress (with_reducible refine Keeps.mk ?_ rfl rfl)
    | dsimp only
    | split)

theorem sendNext_keeps {s0 s : State} (h : Keeps s0 s) (t n : Nat) (st : Stream) (c : Chunk) (p : Piece) (extra : Bool) : Keeps s0 (sendNext s t n st c p extra) := by
  unfold sendNext
  try dsimp only
  repeat (first
    | with_reducible assumption
    | with_reducible apply sendWrite_keeps
    | with_reducible apply reserveAcc_keeps
    | with_reducible apply Keeps.ite
    | fail_if_no_progress (with_reducible refine Keeps.mk ?_ rfl rfl)
    | dsimp only
    | split)

theorem sendLast_keeps {s0 s : State} (h : Keeps s0 s) (t n : Nat) (st : Stream) (c : Chunk) : Keeps s0 (sendLast s t n st c) := by
  unfold sendLast
  try dsimp only
  repeat (first
    | with_reducible assumption
    | with_reducible apply sendWrite_keeps
    | fail_if_no_progress (with_reducible refine Keeps.mk ?_ rfl rfl)
    | dsimp only
    | split)

/-! ## Streams -/

theorem sendDiscards_keeps {s0 s : State} (h : Keeps s0 s) (t n : Nat) (st : Stream) : Keeps s0 (sendDiscards s t n st) := by
  unfold sendDiscards
  try dsimp only
  repeat (first
    | with_reducible assumption
    | with_reducible apply atBase_keeps
    | with_reducible apply post_keeps
    | with_reducible apply Keeps.ite
    | with_reducible apply Keeps.ite_fst
    | with_reducible refine Keeps.foldl ?_ (fun u a hu => ?_)
    | with_reducible refine Keeps.foldl_fst ?_ (fun q a hq => ?_)
    | fail_if_no_progress (with_reducible refine Keeps.mk ?_ rfl rfl)
    | dsimp only
    | split)

theorem restartStream_keeps {s0 s : State} (h : Keeps s0 s) (t n : Nat) (st : Stream) : Keeps s0 (restartStream s t n st) := by
  unfold restartStream
  try dsimp only
  repeat (first
    | with_reducible assumption
    | with_reducible apply setTile_keeps
    | with_reducible apply setStream_keeps
    | with_reducible apply sendDiscards_keeps
    | fail_if_no_progress (with_reducible refine Keeps.mk ?_ rfl rfl)
    | dsimp only)

theorem endUnredone_keeps {s0 s : State} (h : Keeps s0 s) (t n : Nat) (st : Stream) (m : Mech) (addr : DWord) : Keeps s0 (endUnredone s t n st m addr) := by
  unfold endUnredone
  try dsimp only
  repeat (first
    | with_reducible assumption
    | with_reducible apply klog_keeps
    | with_reducible apply abortStream_keeps
    | dsimp only)

theorem lostRedo_keeps {s0 s : State} (h : Keeps s0 s) (t n : Nat) (addr : DWord) : Keeps s0 (lostRedo s t n addr) := by
  unfold lostRedo
  try dsimp only
  repeat (first
    | with_reducible assumption
    | with_reducible apply endUnredone_keeps
    | with_reducible apply Keeps.ite
    | fail_if_no_progress (with_reducible refine Keeps.mk ?_ rfl rfl)
    | dsimp only
    | split)

theorem replay_keeps {s0 s : State} (h : Keeps s0 s) (t n : Nat) (m : Mech) (addr : DWord) (k : Nat) : Keeps s0 (replay s t n m addr k) := by
  unfold replay
  try dsimp only
  repeat (first
    | with_reducible assumption
    | with_reducible apply setTile_keeps
    | with_reducible apply klog_keeps
    | with_reducible apply abortStream_keeps
    | with_reducible apply restartStream_keeps
    | with_reducible apply endUnredone_keeps
    | with_reducible apply Keeps.ite
    | fail_if_no_progress (with_reducible refine Keeps.mk ?_ rfl rfl)
    | dsimp only
    | split)

theorem commitFirst_keeps {s0 s : State} (h : Keeps s0 s) (t n : Nat) : Keeps s0 (commitFirst s t n) := by
  unfold commitFirst
  try dsimp only
  repeat (first
    | with_reducible assumption
    | with_reducible apply setStream_keeps
    | with_reducible apply Keeps.ite
    | fail_if_no_progress (with_reducible refine Keeps.mk ?_ rfl rfl)
    | dsimp only
    | split)

theorem chunkAnswer_keeps {s0 s : State} (h : Keeps s0 s) (t n : Nat) (u : Upd) (code : Nat) : Keeps s0 (chunkAnswer s t n u code) := by
  unfold chunkAnswer
  try dsimp only
  repeat (first
    | with_reducible assumption
    | with_reducible apply setStream_keeps
    | with_reducible apply abortStream_keeps
    | with_reducible apply Keeps.ite
    | fail_if_no_progress (with_reducible refine Keeps.mk ?_ rfl rfl)
    | dsimp only
    | split)

theorem clearPark_keeps {s0 s : State} (h : Keeps s0 s) (t n : Nat) : Keeps s0 (clearPark s t n) := by
  unfold clearPark
  try dsimp only
  repeat (first
    | with_reducible assumption
    | fail_if_no_progress (with_reducible refine Keeps.mk ?_ rfl rfl)
    | dsimp only)

theorem reportEnd_keeps {s0 s : State} (h : Keeps s0 s) (t n : Nat) (st : Stream) (c : CompArgs) : Keeps s0 (reportEnd s t n st c) := by
  unfold reportEnd
  try dsimp only
  repeat (first
    | with_reducible assumption
    | with_reducible apply addComp_keeps
    | with_reducible apply breakJob_keeps
    | with_reducible apply progFault_keeps
    | with_reducible apply endInstr_keeps
    | with_reducible apply Keeps.ite
    | fail_if_no_progress (with_reducible refine Keeps.mk ?_ rfl rfl)
    | dsimp only
    | split)

theorem endStream_keeps {s0 s : State} (h : Keeps s0 s) (t n : Nat) (st : Stream) (code : Nat) : Keeps s0 (endStream s t n st code) := by
  unfold endStream
  try dsimp only
  repeat (first
    | with_reducible assumption
    | with_reducible apply setTile_keeps
    | with_reducible apply freeStream_keeps
    | with_reducible apply judgeLate_keeps
    | with_reducible apply withdrawConds_keeps
    | with_reducible apply sendDiscards_keeps
    | with_reducible apply clearPark_keeps
    | with_reducible apply reportEnd_keeps
    | with_reducible apply Keeps.ite
    | with_reducible apply Keeps.ite_fst
    | fail_if_no_progress (with_reducible refine Keeps.mk ?_ rfl rfl)
    | dsimp only
    | split)

theorem endParked_keeps {s0 s : State} (h : Keeps s0 s) (t n : Nat) (st : Stream) (code : Nat) : Keeps s0 (endParked s t n st code) := by
  unfold endParked
  try dsimp only
  repeat (first
    | with_reducible assumption
    | with_reducible apply freeStream_keeps
    | with_reducible apply breakJob_keeps
    | with_reducible apply progFault_keeps
    | with_reducible apply clearPark_keeps
    | fail_if_no_progress (with_reducible refine Keeps.mk ?_ rfl rfl)
    | dsimp only
    | split)

theorem killStream_keeps {s0 s : State} (h : Keeps s0 s) (t n code : Nat) : Keeps s0 (killStream s t n code) := by
  unfold killStream
  try dsimp only
  repeat (first
    | with_reducible assumption
    | with_reducible apply abortStream_keeps
    | with_reducible apply endStream_keeps
    | with_reducible apply endParked_keeps
    | with_reducible apply Keeps.ite
    | fail_if_no_progress (with_reducible refine Keeps.mk ?_ rfl rfl)
    | dsimp only
    | split)

theorem parkStream_keeps {s0 s : State} (h : Keeps s0 s) (t n : Nat) (st : Stream) (addr : DWord) : Keeps s0 (parkStream s t n st addr) := by
  unfold parkStream
  try dsimp only
  repeat (first
    | with_reducible assumption
    | with_reducible apply setTile_keeps
    | with_reducible apply setStream_keeps
    | with_reducible apply raise_keeps
    | with_reducible apply reportEnd_keeps
    | with_reducible apply Keeps.ite
    | with_reducible apply Keeps.ite_fst
    | fail_if_no_progress (with_reducible refine Keeps.mk ?_ rfl rfl)
    | dsimp only
    | split
    | assumption)

theorem retireStream_keeps {s0 s : State} (h : Keeps s0 s) (t n : Nat) : Keeps s0 (retireStream s t n) := by
  unfold retireStream
  try dsimp only
  repeat (first
    | with_reducible assumption
    | with_reducible apply endStream_keeps
    | with_reducible apply parkStream_keeps
    | with_reducible apply Keeps.ite
    | fail_if_no_progress (with_reducible refine Keeps.mk ?_ rfl rfl)
    | dsimp only
    | split)

theorem resumeStream_keeps {s0 s : State} (h : Keeps s0 s) (t : Nat) (l : Line) (e : EntryRef) (st : Stream) : Keeps s0 (resumeStream s t l e st) := by
  unfold resumeStream
  try dsimp only
  repeat (first
    | with_reducible assumption
    | with_reducible apply restartStream_keeps
    | fail_if_no_progress (with_reducible refine Keeps.mk ?_ rfl rfl)
    | dsimp only)

theorem abandonStream_keeps {s0 s : State} (h : Keeps s0 s) (t : Nat) (l : Line) (e : EntryRef) (st : Stream) : Keeps s0 (abandonStream s t l e st) := by
  unfold abandonStream
  try dsimp only
  repeat (first
    | with_reducible assumption
    | with_reducible apply setTile_keeps
    | with_reducible apply freeStream_keeps
    | with_reducible apply addComp_keeps
    | with_reducible apply breakJob_keeps
    | with_reducible apply sendDiscards_keeps
    | with_reducible apply clearPark_keeps
    | fail_if_no_progress (with_reducible refine Keeps.mk ?_ rfl rfl)
    | dsimp only
    | split)

end Sys2Proof.Laws
end

