-- ==== Sys2Proof/Laws/KeepsUnits.lean ====
section
/-! SUPPORT. What the steps of the mover, bank groups, lodge, bandstand, pergola, turnstiles and gatehouse leave alone (`Keeps`). -/

namespace Sys2Proof.Laws

open Sys2Proof Sys2Proof.Machine

set_option Elab.async false
set_option linter.unreachableTactic false
set_option linter.unusedTactic false

/-! ## Mover -/

theorem fetchStep_keeps {s0 s : State} (h : Keeps s0 s) (t : Nat) (ecc : Ecc) : Keeps s0 (fetchStep s t ecc) := by
  unfold fetchStep
  try dsimp only
  repeat (first
    | with_reducible assumption
    | with_reducible apply setTile_keeps
    | with_reducible apply klog_keeps
    | with_reducible apply progFault_keeps
    | with_reducible apply Keeps.ite
    | fail_if_no_progress (with_reducible refine Keeps.mk ?_ rfl rfl)
    | dsimp only
    | split)

theorem allocate_keeps {s0 s : State} (h : Keeps s0 s) (t n : Nat) (hd : Head) (src : Source) (c : IssueCtx) (e d : Elem) : Keeps s0 (allocate s t n hd src c e d) := by
  unfold allocate
  try dsimp only
  repeat (first
    | with_reducible assumption
    | with_reducible apply setTile_keeps
    | with_reducible apply setStream_keeps
    | with_reducible apply popHead_keeps
    | with_reducible apply registerConds_keeps
    | fail_if_no_progress (with_reducible refine Keeps.mk ?_ rfl rfl)
    | dsimp only)

theorem issueStream_keeps {s0 s : State} (h : Keeps s0 s) (t : Nat) (src : Source) (want : Row) (ctx ecc : Ecc) : Keeps s0 (issueStream s t src want ctx ecc) := by
  unfold issueStream
  try dsimp only
  repeat (first
    | with_reducible assumption
    | with_reducible apply klog_keeps
    | with_reducible apply noteWait_keeps
    | with_reducible apply failIssue_keeps
    | with_reducible apply ctxEcc_keeps
    | with_reducible apply popHead_keeps
    | with_reducible apply allocate_keeps
    | with_reducible apply Keeps.ite
    | fail_if_no_progress (with_reducible refine Keeps.mk ?_ rfl rfl)
    | dsimp only
    | split)

theorem resumeEffect_keeps {s0 s : State} (h : Keeps s0 s) (t : Nat) (h : HeldInstr) : Keeps s0 (resumeEffect s t h) := by
  unfold resumeEffect
  try dsimp only
  repeat (first
    | with_reducible assumption
    | with_reducible apply failIssue_keeps
    | with_reducible apply resumeStream_keeps
    | with_reducible apply abandonStream_keeps
    | with_reducible apply Keeps.ite
    | fail_if_no_progress (with_reducible refine Keeps.mk ?_ rfl rfl)
    | dsimp only
    | split)

theorem issueResume_keeps {s0 s : State} (h : Keeps s0 s) (t : Nat) (src : Source) (want : Row) : Keeps s0 (issueResume s t src want) := by
  unfold issueResume
  try dsimp only
  repeat (first
    | with_reducible assumption
    | with_reducible apply setTile_keeps
    | with_reducible apply noteWait_keeps
    | with_reducible apply failIssue_keeps
    | with_reducible apply popHead_keeps
    | with_reducible apply resumeEffect_keeps
    | with_reducible apply Keeps.ite
    | fail_if_no_progress (with_reducible refine Keeps.mk ?_ rfl rfl)
    | dsimp only
    | split)

theorem refuseLaunch_keeps {s0 s : State} (h : Keeps s0 s) (t n : Nat) (st : Stream) (el : Nat) : Keeps s0 (refuseLaunch s t n st el) := by
  unfold refuseLaunch
  try dsimp only
  repeat (first
    | with_reducible assumption
    | with_reducible apply setTile_keeps
    | with_reducible apply freeStream_keeps
    | with_reducible apply endInstr_keeps
    | dsimp only)

theorem launchStream_keeps {s0 s : State} (h : Keeps s0 s) (t n : Nat) : Keeps s0 (launchStream s t n) := by
  unfold launchStream
  try dsimp only
  repeat (first
    | with_reducible assumption
    | with_reducible apply setTile_keeps
    | with_reducible apply setStream_keeps
    | with_reducible apply refuseLaunch_keeps
    | with_reducible apply Keeps.ite
    | fail_if_no_progress (with_reducible refine Keeps.mk ?_ rfl rfl)
    | dsimp only
    | split)

theorem launchSource_keeps {s0 s : State} (h : Keeps s0 s) (t : Nat) (src : Source) : Keeps s0 (launchSource s t src) := by
  unfold launchSource
  try dsimp only
  repeat (first
    | with_reducible assumption
    | with_reducible apply launchHeld_keeps
    | with_reducible apply takeIssued_keeps
    | with_reducible apply launchIssued_keeps
    | with_reducible apply resumeEffect_keeps
    | with_reducible apply Keeps.ite
    | fail_if_no_progress (with_reducible refine Keeps.mk ?_ rfl rfl)
    | dsimp only
    | split)

theorem launchStep_keeps {s0 s : State} (h : Keeps s0 s) (t : Nat) (target : LaunchTarget) : Keeps s0 (launchStep s t target) := by
  unfold launchStep
  try dsimp only
  repeat (first
    | with_reducible assumption
    | with_reducible apply launchStream_keeps
    | with_reducible apply launchSource_keeps
    | with_reducible apply Keeps.ite
    | fail_if_no_progress (with_reducible refine Keeps.mk ?_ rfl rfl)
    | dsimp only
    | split)

theorem haltStep_keeps {s0 s : State} (h : Keeps s0 s) (t : Nat) : Keeps s0 (haltStep s t) := by
  unfold haltStep
  try dsimp only
  repeat (first
    | with_reducible assumption
    | with_reducible apply setTile_keeps
    | with_reducible apply Keeps.ite
    | fail_if_no_progress (with_reducible refine Keeps.mk ?_ rfl rfl)
    | dsimp only
    | split)

theorem fenceStep_keeps {s0 s : State} (h : Keeps s0 s) (t : Nat) (src : Source) : Keeps s0 (fenceStep s t src) := by
  unfold fenceStep
  try dsimp only
  repeat (first
    | with_reducible assumption
    | with_reducible apply setTile_keeps
    | with_reducible apply finishDone_keeps
    | with_reducible apply Keeps.ite
    | fail_if_no_progress (with_reducible refine Keeps.mk ?_ rfl rfl)
    | dsimp only
    | split)

theorem pendStep_keeps {s0 s : State} (h : Keeps s0 s) (t : Nat) (ring : Bool) : Keeps s0 (pendStep s t ring) := by
  unfold pendStep
  try dsimp only
  repeat (first
    | with_reducible assumption
    | with_reducible apply setTile_keeps
    | with_reducible apply postSmall_keeps
    | with_reducible apply sendUpd_keeps
    | with_reducible apply Keeps.ite
    | fail_if_no_progress (with_reducible refine Keeps.mk ?_ rfl rfl)
    | dsimp only
    | split)

theorem pendDone_keeps {s0 s : State} (h : Keeps s0 s) (t : Nat) (p : PendSig) (code : Nat) : Keeps s0 (pendDone s t p code) := by
  unfold pendDone
  try dsimp only
  repeat (first
    | with_reducible assumption
    | with_reducible apply setTile_keeps
    | with_reducible apply finishSimple_keeps
    | dsimp only)

/-! ## Flow -/

theorem turnBack_keeps {s0 s : State} (h : Keeps s0 s) (i : Nat) (m : Msg) : Keeps s0 (turnBack s i m) := by
  unfold turnBack
  try dsimp only
  repeat (first
    | with_reducible assumption
    | with_reducible apply dropMsg_keeps
    | with_reducible apply Keeps.ite
    | fail_if_no_progress (with_reducible refine Keeps.mk ?_ rfl rfl)
    | dsimp only
    | split)

theorem serveOr_keeps {s0 s : State} (h : Keeps s0 s) (i d : Nat) (a : Bool) {off later k : State → State}
    (ho : ∀ u, Keeps s0 u → Keeps s0 (off u)) (hl : ∀ u, Keeps s0 u → Keeps s0 (later u))
    (hk : ∀ u, Keeps s0 u → Keeps s0 (k u)) : Keeps s0 (serveOr s i d a off later k) := by
  unfold serveOr
  split
  · exact hk _ h
  · split
    · exact hk _ h
    · exact hl _ h
  · exact ho _ (dropMsg_keeps h i)
  · exact dropMsg_keeps h i

theorem serve_keeps {s0 s : State} (h : Keeps s0 s) (i : Nat) (m : Msg) (d : Nat) (a : Bool) {off k : State → State}
    (ho : ∀ u, Keeps s0 u → Keeps s0 (off u)) (hk : ∀ u, Keeps s0 u → Keeps s0 (k u)) : Keeps s0 (serve s i m d a off k) :=
  serveOr_keeps h i d a ho (fun _ hu => turnBack_keeps hu i m) (fun _ hu => hk _ (dropMsg_keeps hu i))

theorem answerRead_keeps {s0 s : State} (h : Keeps s0 s) (src : Node) (m : Msg) (r : ReadReq) (a : Answer) (data : List Byte) : Keeps s0 (answerRead s src m r a data) := by
  unfold answerRead
  try dsimp only
  repeat (first
    | with_reducible assumption
    | with_reducible apply post_keeps
    | with_reducible apply Keeps.ite
    | dsimp only
    | split)

theorem answerWrite_keeps {s0 s : State} (h : Keeps s0 s) (src : Node) (m : Msg) (w : WriteReq) (a : Answer) (sats : Nat) : Keeps s0 (answerWrite s src m w a sats) := by
  unfold answerWrite
  try dsimp only
  repeat (first
    | with_reducible assumption
    | with_reducible apply post_keeps
    | dsimp only)

theorem forward_keeps {s0 s : State} (h : Keeps s0 s) (src : Node) (wire : Nat) (w : WriteReq) : Keeps s0 (forward s src wire w) := by
  unfold forward
  try dsimp only
  repeat (first
    | with_reducible assumption
    | with_reducible apply sendUpd_keeps
    | fail_if_no_progress (with_reducible refine Keeps.mk ?_ rfl rfl)
    | dsimp only
    | split)

theorem readStep_keeps {s0 s : State} (h : Keeps s0 s) (t : Nat) (ok : Bool) : Keeps s0 (readStep s t ok) := by
  unfold readStep
  try dsimp only
  repeat (first
    | with_reducible assumption
    | with_reducible apply walkErrorAt_keeps
    | with_reducible apply takePoint_keeps
    | with_reducible apply sendRead_keeps
    | with_reducible apply replay_keeps
    | with_reducible apply Keeps.ite
    | with_reducible apply Keeps.ite_fst
    | fail_if_no_progress (with_reducible refine Keeps.mk ?_ rfl rfl)
    | dsimp only
    | split)

theorem checkEntry_keeps {s0 s : State} (h : Keeps s0 s) (t n : Nat) (st : Stream) (r : ReadReq) : Keeps s0 (checkEntry s t n st r) := by
  unfold checkEntry
  try dsimp only
  repeat (first
    | with_reducible assumption
    | with_reducible apply setTile_keeps
    | with_reducible apply setStream_keeps
    | with_reducible apply Keeps.ite
    | with_reducible apply Keeps.ite_fst
    | fail_if_no_progress (with_reducible refine Keeps.mk ?_ rfl rfl)
    | dsimp only
    | split)

theorem landResponse_keeps {s0 s : State} (h : Keeps s0 s) (t n : Nat) (st : Stream) (r : ReadReq) (data : List Byte) (ecc : Ecc) : Keeps s0 (landResponse s t n st r data ecc) := by
  unfold landResponse
  try dsimp only
  repeat (first
    | with_reducible assumption
    | with_reducible apply setStream_keeps
    | with_reducible apply klog_keeps
    | with_reducible apply replay_keeps
    | with_reducible apply checkEntry_keeps
    | with_reducible apply Keeps.ite
    | fail_if_no_progress (with_reducible refine Keeps.mk ?_ rfl rfl)
    | dsimp only
    | split)

theorem readAnswer_keeps {s0 s : State} (h : Keeps s0 s) (r : ReadReq) (a : Answer) (data : List Byte) (ecc : Ecc) : Keeps s0 (readAnswer s r a data ecc) := by
  unfold readAnswer
  try dsimp only
  repeat (first
    | with_reducible assumption
    | with_reducible apply setStream_keeps
    | with_reducible apply walkErrorAt_keeps
    | with_reducible apply abortStream_keeps
    | with_reducible apply replay_keeps
    | with_reducible apply landResponse_keeps
    | with_reducible apply Keeps.ite
    | fail_if_no_progress (with_reducible refine Keeps.mk ?_ rfl rfl)
    | dsimp only
    | split
    | assumption)

theorem rowStep_keeps {s0 s : State} (h : Keeps s0 s) (t : Nat) : Keeps s0 (rowStep s t) := by
  unfold rowStep
  try dsimp only
  repeat (first
    | with_reducible assumption
    | with_reducible apply abortStream_keeps
    | with_reducible apply takePoint_keeps
    | with_reducible apply stepRow_keeps
    | with_reducible apply Keeps.ite
    | with_reducible apply Keeps.ite_fst
    | fail_if_no_progress (with_reducible refine Keeps.mk ?_ rfl rfl)
    | dsimp only
    | split)

theorem windowStep_keeps {s0 s : State} (h : Keeps s0 s) (t n : Nat) : Keeps s0 (windowStep s t n) := by
  unfold windowStep
  try dsimp only
  repeat (first
    | with_reducible assumption
    | with_reducible apply nextWindow_keeps
    | with_reducible apply Keeps.ite
    | dsimp only
    | split)

theorem compareStep_keeps {s0 s : State} (h : Keeps s0 s) (t n : Nat) (agree : Bool) : Keeps s0 (compareStep s t n agree) := by
  unfold compareStep
  try dsimp only
  repeat (first
    | with_reducible assumption
    | with_reducible apply replay_keeps
    | with_reducible apply Keeps.ite
    | with_reducible apply Keeps.ite_fst
    | fail_if_no_progress (with_reducible refine Keeps.mk ?_ rfl rfl)
    | dsimp only
    | split)

theorem keepPlaced_keeps {s0 s : State} (h : Keeps s0 s) (t n : Nat) (p : Placed) : Keeps s0 (keepPlaced s t n p) := by
  unfold keepPlaced
  try dsimp only
  repeat (first
    | with_reducible assumption
    | with_reducible apply setTile_keeps
    | with_reducible apply setStream_keeps
    | fail_if_no_progress (with_reducible refine Keeps.mk ?_ rfl rfl)
    | dsimp only)

theorem placeStream_keeps {s0 s : State} (h : Keeps s0 s) (t n : Nat) : Keeps s0 (placeStream s t n) := by
  unfold placeStream
  try dsimp only
  repeat (first
    | with_reducible assumption
    | with_reducible apply walkError_keeps
    | with_reducible apply keepPlaced_keeps
    | with_reducible apply Keeps.ite
    | with_reducible apply Keeps.ite_fst
    | fail_if_no_progress (with_reducible refine Keeps.mk ?_ rfl rfl)
    | dsimp only
    | split)

theorem placeTile_keeps {s0 s : State} (h : Keeps s0 s) (t : Nat) : Keeps s0 (placeTile s t) := by
  unfold placeTile
  try dsimp only
  repeat (first
    | with_reducible assumption
    | with_reducible apply placeStream_keeps
    | with_reducible refine Keeps.foldl ?_ (fun u a hu => ?_)
    | with_reducible refine Keeps.foldl_fst ?_ (fun q a hq => ?_)
    | dsimp only)

theorem writeStep_keeps {s0 s : State} (h : Keeps s0 s) (t : Nat) (ok : Bool) : Keeps s0 (writeStep s t ok) := by
  unfold writeStep
  try dsimp only
  repeat (first
    | with_reducible assumption
    | with_reducible apply takePoint_keeps
    | with_reducible apply sendNext_keeps
    | with_reducible apply replay_keeps
    | with_reducible apply placeTile_keeps
    | with_reducible apply Keeps.ite
    | with_reducible apply Keeps.ite_fst
    | fail_if_no_progress (with_reducible refine Keeps.mk ?_ rfl rfl)
    | dsimp only
    | split)

theorem lastStep_keeps {s0 s : State} (h : Keeps s0 s) (t n : Nat) (agree residueOk : Bool) : Keeps s0 (lastStep s t n agree residueOk) := by
  unfold lastStep
  try dsimp only
  repeat (first
    | with_reducible assumption
    | with_reducible apply takePoint_keeps
    | with_reducible apply sendLast_keeps
    | with_reducible apply replay_keeps
    | with_reducible apply placeTile_keeps
    | with_reducible apply Keeps.ite
    | with_reducible apply Keeps.ite_fst
    | fail_if_no_progress (with_reducible refine Keeps.mk ?_ rfl rfl)
    | dsimp only
    | split)

theorem writeAnswer_keeps {s0 s : State} (h : Keeps s0 s) (w : WriteReq) (a : Answer) (sats : Nat) : Keeps s0 (writeAnswer s w a sats) := by
  unfold writeAnswer
  try dsimp only
  repeat (first
    | with_reducible assumption
    | with_reducible apply setStream_keeps
    | with_reducible apply countEvents_keeps
    | with_reducible apply walkError_keeps
    | with_reducible apply abortStream_keeps
    | with_reducible apply lostRedo_keeps
    | with_reducible apply replay_keeps
    | with_reducible apply Keeps.ite
    | fail_if_no_progress (with_reducible refine Keeps.mk ?_ rfl rfl)
    | dsimp only
    | split
    | assumption)

theorem journalEcc_keeps {s0 s : State} (h : Keeps s0 s) (t n : Nat) (ecc : Ecc) : Keeps s0 (journalEcc s t n ecc) := by
  unfold journalEcc
  try dsimp only
  repeat (first
    | with_reducible assumption
    | with_reducible apply klog_keeps
    | with_reducible apply abortStream_keeps
    | with_reducible apply Keeps.ite
    | fail_if_no_progress (with_reducible refine Keeps.mk ?_ rfl rfl)
    | dsimp only
    | split)

theorem commitStep_keeps {s0 s : State} (h : Keeps s0 s) (t n : Nat) (ecc : Ecc) : Keeps s0 (commitStep s t n ecc) := by
  unfold commitStep
  try dsimp only
  repeat (first
    | with_reducible assumption
    | with_reducible apply dropMsg_keeps
    | with_reducible apply commitFirst_keeps
    | with_reducible apply chunkAnswer_keeps
    | with_reducible apply journalEcc_keeps
    | with_reducible apply Keeps.ite
    | fail_if_no_progress (with_reducible refine Keeps.mk ?_ rfl rfl)
    | dsimp only
    | split)

theorem nextAccess_keeps {s0 s : State} (h : Keeps s0 s) (i : Nat) (m : Msg) (o : Option Nat) {fin : State → State}
    (hf : ∀ u, Keeps s0 u → Keeps s0 (fin u)) : Keeps s0 (nextAccess s i m o fin) := by
  unfold nextAccess
  split
  · exact h.upd rfl rfl rfl rfl
  · exact hf _ (dropMsg_keeps h i)

theorem readAccess_keeps {s0 s : State} (h : Keeps s0 s) (u i : Nat) (m : Msg) (o n : Nat) (ecc : Ecc)
    {fin : State → Msg → State} (hf : ∀ v m, Keeps s0 v → Keeps s0 (fin v m)) :
    Keeps s0 (readAccess s u i m o n ecc fin) := by
  unfold readAccess
  exact nextAccess_keeps (spadEcc_keeps h u _ ecc) i _ _ (fun v hv => hf v _ hv)

theorem answerWp_keeps {s0 s : State} (h : Keeps s0 s) (u : Nat) (m : Msg) (q : WpReq) (code : Nat) (data : List Byte) : Keeps s0 (answerWp s u m q code data) := by
  unfold answerWp
  try dsimp only
  repeat (first
    | with_reducible assumption
    | with_reducible apply post_keeps
    | with_reducible apply Keeps.ite
    | dsimp only
    | split)

theorem bankReadStep_keeps {s0 s : State} (h : Keeps s0 s) (i : Nat) (ecc : Ecc) : Keeps s0 (bankReadStep s i ecc) := by
  unfold bankReadStep
  try dsimp only
  repeat (first
    | with_reducible assumption
    | with_reducible apply dropMsg_keeps
    | with_reducible apply turnBack_keeps
    | with_reducible apply serveOr_keeps
    | with_reducible apply answerRead_keeps
    | with_reducible apply readAccess_keeps
    | with_reducible apply answerWp_keeps
    | with_reducible apply Keeps.ite
    | fail_if_no_progress (with_reducible refine Keeps.mk ?_ rfl rfl)
    | dsimp only
    | split
    | fail_if_no_progress intros)

theorem stageAddend_keeps {s0 s : State} (h : Keeps s0 s) (w : WriteReq) : Keeps s0 (stageAddend s w) := by
  unfold stageAddend
  try dsimp only
  repeat (first
    | with_reducible assumption
    | with_reducible apply Keeps.ite
    | fail_if_no_progress (with_reducible refine Keeps.mk ?_ rfl rfl)
    | dsimp only
    | split)

theorem partEcc_keeps {s0 s : State} (h : Keeps s0 s) (u o n : Nat) (ecc : Ecc) : Keeps s0 (partEcc s u o n ecc) := by
  unfold partEcc
  try dsimp only
  repeat (first
    | with_reducible assumption
    | with_reducible apply spadEcc_keeps
    | fail_if_no_progress (with_reducible refine Keeps.mk ?_ rfl rfl)
    | dsimp only
    | split)

theorem writeAccess_keeps {s0 s : State} (h : Keeps s0 s) (u i : Nat) (m : Msg) (o : Nat) (data : List Byte) (ecc : Ecc)
    {fin : State → Msg → State} (hf : ∀ v m, Keeps s0 v → Keeps s0 (fin v m)) :
    Keeps s0 (writeAccess s u i m o data ecc fin) := by
  unfold writeAccess
  exact nextAccess_keeps ((partEcc_keeps h u _ _ ecc).spad (spadWrite_wf _ _ _)) i _ _ (fun v hv => hf v _ hv)

theorem atomicAccess_keeps {s0 s : State} (h : Keeps s0 s) (u : Nat) (m : Msg) (q : WpReq) (ecc : Ecc) :
    Keeps s0 (atomicAccess s u m q ecc) := by
  unfold atomicAccess
  have hs := spadEcc_keeps h u q.off ecc
  refine Keeps.ite (answerWp_keeps hs u m q 2 []) ?_
  exact answerWp_keeps (hs.spad (spadWrite_wf _ _ _)) u m q 0 _

theorem bankWriteStep_keeps {s0 s : State} (h : Keeps s0 s) (i : Nat) (ecc : Ecc) : Keeps s0 (bankWriteStep s i ecc) := by
  unfold bankWriteStep
  try dsimp only
  repeat (first
    | with_reducible assumption
    | with_reducible apply dropMsg_keeps
    | with_reducible apply turnBack_keeps
    | with_reducible apply serveOr_keeps
    | with_reducible apply answerWrite_keeps
    | with_reducible apply forward_keeps
    | with_reducible apply answerWp_keeps
    | with_reducible apply stageAddend_keeps
    | with_reducible apply writeAccess_keeps
    | with_reducible apply atomicAccess_keeps
    | with_reducible apply Keeps.ite
    | fail_if_no_progress (with_reducible refine Keeps.mk ?_ rfl rfl)
    | dsimp only
    | split
    | fail_if_no_progress intros)

theorem applyEnd_keeps {s0 s : State} (h : Keeps s0 s) (u : Nat) (m : Msg) (w : WriteReq) : Keeps s0 (applyEnd s u m w) := by
  unfold applyEnd
  try dsimp only
  repeat (first
    | with_reducible assumption
    | with_reducible apply answerWrite_keeps
    | with_reducible apply forward_keeps
    | with_reducible apply Keeps.ite
    | fail_if_no_progress (with_reducible refine Keeps.mk ?_ rfl rfl)
    | dsimp only
    | split)

theorem applyElem_wf (e : Elem) (rnd o : Nat) (bs : List Byte) (a : AccRun) (h : Memory.wf a.spad.mem = true) :
    Memory.wf (applyElem e rnd o bs a).spad.mem = true := by
  unfold applyElem
  dsimp only
  split
  · exact h
  · exact spadWrite_wf _ _ _ h

theorem applyBytes_wf (e : Elem) (rnd wb : Nat) : ∀ (k o : Nat) (bs : List Byte) (a : AccRun),
    Memory.wf a.spad.mem = true → Memory.wf (applyBytes e rnd wb k o bs a).spad.mem = true
  | 0, _, _, _, h => h
  | k + 1, o, bs, a, h => by
    unfold applyBytes
    split
    · exact h
    · exact applyBytes_wf e rnd wb k _ _ _ (applyElem_wf e rnd o _ a h)

theorem applyAccess_keeps {s0 s : State} (h : Keeps s0 s) (u i : Nat) (m : Msg) (w : WriteReq) (ecc : Ecc) :
    Keeps s0 (applyAccess s u i m w ecc) := by
  unfold applyAccess
  dsimp only
  split
  · exact applyEnd_keeps (dropMsg_keeps h i) u m w
  · rename_i o add _
    split
    · exact nextAccess_keeps (spadEcc_keeps h u o ecc) i _ _ (fun _ hv => hv)
    · exact nextAccess_keeps (h.spad (fun hm => applyBytes_wf _ _ _ _ _ _ _ hm)) i _ _
        (fun v hv => applyEnd_keeps hv u _ w)

theorem applyStep_keeps {s0 s : State} (h : Keeps s0 s) (i : Nat) (ecc : Ecc) : Keeps s0 (applyStep s i ecc) := by
  unfold applyStep
  try dsimp only
  repeat (first
    | with_reducible assumption
    | with_reducible apply turnBack_keeps
    | with_reducible apply serveOr_keeps
    | with_reducible apply answerWrite_keeps
    | with_reducible apply applyAccess_keeps
    | with_reducible apply Keeps.ite
    | fail_if_no_progress (with_reducible refine Keeps.mk ?_ rfl rfl)
    | dsimp only
    | split
    | fail_if_no_progress intros)

theorem discardStep_keeps {s0 s : State} (h : Keeps s0 s) (i : Nat) : Keeps s0 (discardStep s i) := by
  unfold discardStep
  try dsimp only
  repeat (first
    | with_reducible assumption
    | with_reducible apply serve_keeps
    | fail_if_no_progress (with_reducible refine Keeps.mk ?_ rfl rfl)
    | dsimp only
    | split
    | fail_if_no_progress intros
    | assumption)

theorem layoutStep_keeps {s0 s : State} (h : Keeps s0 s) (t : Nat) : Keeps s0 (layoutStep s t) := by
  unfold layoutStep
  try dsimp only
  repeat (first
    | with_reducible assumption
    | with_reducible apply setTile_keeps
    | with_reducible apply Keeps.ite
    | with_reducible apply Keeps.ite_fst
    | fail_if_no_progress (with_reducible refine Keeps.mk ?_ rfl rfl)
    | dsimp only
    | split)

/-! ## Lodge -/

theorem setCnt_keeps {s0 s : State} (h : Keeps s0 s) (c : Nat) (v : Word) : Keeps s0 (setCnt s c v) := by
  unfold setCnt
  try dsimp only
  repeat (first
    | with_reducible assumption
    | fail_if_no_progress (with_reducible refine Keeps.mk ?_ rfl rfl)
    | dsimp only)

theorem hostScope_keeps {s0 s : State} (h : Keeps s0 s) (rel : Option Rel) (acq cid : Nat) : Keeps s0 (hostScope s rel acq cid) := by
  unfold hostScope
  try dsimp only
  repeat (first
    | with_reducible assumption
    | with_reducible apply scopeMm_keeps
    | with_reducible apply Keeps.ite
    | fail_if_no_progress (with_reducible refine Keeps.mk ?_ rfl rfl)
    | dsimp only
    | split)

theorem sendWake_keeps {s0 s : State} (h : Keeps s0 s) (r : Reg) (result : Nat) (bad : Bool) : Keeps s0 (sendWake s r result bad) := by
  unfold sendWake
  try dsimp only
  repeat (first
    | with_reducible assumption
    | with_reducible apply postSmall_keeps
    | with_reducible apply wake_keeps
    | dsimp only)

theorem putWatch_keeps {s0 s : State} (h : Keeps s0 s) (w : Nat) (x : Watch) : Keeps s0 (putWatch s w x) := by
  unfold putWatch
  try dsimp only
  repeat (first
    | with_reducible assumption
    | fail_if_no_progress (with_reducible refine Keeps.mk ?_ rfl rfl)
    | dsimp only)

theorem freeWatch_keeps {s0 s : State} (h : Keeps s0 s) (w : Nat) : Keeps s0 (freeWatch s w) := by
  unfold freeWatch
  try dsimp only
  repeat (first
    | with_reducible assumption
    | fail_if_no_progress (with_reducible refine Keeps.mk ?_ rfl rfl)
    | dsimp only)

theorem armTimer_keeps {s0 s : State} (h : Keeps s0 s) (slot : Nat) (x : Watch) (deadline : DWord) : Keeps s0 (armTimer s slot x deadline) := by
  unfold armTimer
  try dsimp only
  repeat (first
    | with_reducible assumption
    | fail_if_no_progress (with_reducible refine Keeps.mk ?_ rfl rfl)
    | dsimp only)

theorem fireHost_keeps {s0 s : State} (h : Keeps s0 s) (slot : Nat) (x : Watch) (rel : Option Rel) : Keeps s0 (fireHost s slot x rel).1 := by
  unfold fireHost
  try dsimp only
  repeat (first
    | with_reducible assumption
    | with_reducible apply pendVec_keeps
    | with_reducible apply hostScope_keeps
    | with_reducible apply armTimer_keeps
    | with_reducible apply Keeps.ite
    | with_reducible apply Keeps.ite_fst
    | dsimp only
    | split)

theorem rearmRun_keeps {s0 : State} (rel : Option Rel) (slot : Nat) :
    ∀ (k : Nat) {s : State}, Keeps s0 s → Keeps s0 (rearmRun rel slot k s)
  | 0, _, h => h
  | k + 1, s, h => by
    unfold rearmRun
    split
    · exact h
    · split
      · exact h
      · dsimp only
        split
        · with_reducible apply putWatch_keeps
          with_reducible apply fireHost_keeps
          exact h
        · split
          · with_reducible apply fireHost_keeps
            exact h
          · apply rearmRun_keeps rel slot k
            with_reducible apply putWatch_keeps
            with_reducible apply fireHost_keeps
            exact h

theorem evalSlot_keeps {s0 s : State} (h : Keeps s0 s) (rel : Option Rel) (start : Word) (slot : Nat) : Keeps s0 (evalSlot rel start s slot) := by
  unfold evalSlot
  try dsimp only
  repeat (first
    | with_reducible assumption
    | with_reducible apply compareScope_keeps
    | with_reducible apply setCnt_keeps
    | with_reducible apply sendWake_keeps
    | with_reducible apply putWatch_keeps
    | with_reducible apply freeWatch_keeps
    | with_reducible apply fireHost_keeps
    | with_reducible apply rearmRun_keeps
    | with_reducible apply Keeps.ite
    | with_reducible apply Keeps.ite_fst
    | fail_if_no_progress (with_reducible refine Keeps.mk ?_ rfl rfl)
    | dsimp only
    | split)

theorem evaluate_keeps {s0 s : State} (h : Keeps s0 s) (c : Nat) (rel : Option Rel) : Keeps s0 (evaluate s c rel) := by
  unfold evaluate
  try dsimp only
  repeat (first
    | with_reducible assumption
    | with_reducible apply joinWakes_keeps
    | with_reducible apply evalSlot_keeps
    | with_reducible apply Keeps.ite
    | with_reducible refine Keeps.foldl ?_ (fun u a hu => ?_)
    | dsimp only
    | split)

theorem failUpd_keeps {s0 s : State} (h : Keeps s0 s) (u : Upd) (code : Nat) : Keeps s0 (failUpd s u code) := by
  unfold failUpd
  try dsimp only
  repeat (first
    | with_reducible assumption
    | with_reducible apply lodgeErr_keeps
    | with_reducible apply Keeps.ite
    | dsimp only
    | split)

theorem applyUpd_keeps {s0 s : State} (h : Keeps s0 s) (u : Upd) : Keeps s0 (applyUpd s u).1 := by
  unfold applyUpd
  try dsimp only
  repeat (first
    | with_reducible assumption
    | with_reducible apply lodgeFlag_keeps
    | with_reducible apply setCnt_keeps
    | with_reducible apply evaluate_keeps
    | with_reducible apply failUpd_keeps
    | fail_if_no_progress (with_reducible refine Keeps.mk ?_ rfl rfl)
    | dsimp only
    | split)

theorem ackUpd_keeps {s0 s : State} (h : Keeps s0 s) (src : Node) (u : Upd) (code : Nat) : Keeps s0 (ackUpd s src u code) := by
  unfold ackUpd
  try dsimp only
  repeat (first
    | with_reducible assumption
    | with_reducible apply postSmall_keeps
    | with_reducible apply Keeps.ite
    | dsimp only
    | split)

theorem loseWatch_keeps {s0 s : State} (h : Keeps s0 s) (w : Nat) : Keeps s0 (loseWatch s w) := by
  unfold loseWatch
  try dsimp only
  repeat (first
    | with_reducible assumption
    | with_reducible apply sendWake_keeps
    | with_reducible apply freeWatch_keeps
    | fail_if_no_progress (with_reducible refine Keeps.mk ?_ rfl rfl)
    | dsimp only
    | split)

theorem poisonCnt_keeps {s0 s : State} (h : Keeps s0 s) (c : Nat) : Keeps s0 (poisonCnt s c) := by
  unfold poisonCnt
  try dsimp only
  repeat (first
    | with_reducible assumption
    | with_reducible apply joinWakes_keeps
    | with_reducible apply loseWatch_keeps
    | with_reducible apply Keeps.ite
    | with_reducible apply Keeps.ite_fst
    | with_reducible refine Keeps.foldl ?_ (fun u a hu => ?_)
    | with_reducible refine Keeps.foldl_fst ?_ (fun q a hq => ?_)
    | fail_if_no_progress (with_reducible refine Keeps.mk ?_ rfl rfl)
    | dsimp only
    | split)

theorem cntEcc_keeps {s0 s : State} (h : Keeps s0 s) (c : Nat) (ecc : Ecc) : Keeps s0 (cntEcc s c ecc) := by
  unfold cntEcc
  try dsimp only
  repeat (first
    | with_reducible assumption
    | with_reducible apply klog_keeps
    | with_reducible apply poisonCnt_keeps
    | fail_if_no_progress (with_reducible refine Keeps.mk ?_ rfl rfl)
    | dsimp only
    | split)

theorem watchEcc_keeps {s0 s : State} (h : Keeps s0 s) (c : Nat) (lost : List (BitVec 12)) : Keeps s0 (watchEcc s c lost) := by
  unfold watchEcc
  try dsimp only
  repeat (first
    | with_reducible assumption
    | with_reducible apply klog_keeps
    | with_reducible apply loseWatch_keeps
    | with_reducible refine Keeps.foldl ?_ (fun u a hu => ?_)
    | dsimp only)

theorem dupCheck_keeps {s0 s : State} (h : Keeps s0 s) (c : Nat) (agree : Bool) : Keeps s0 (dupCheck s c agree) := by
  unfold dupCheck
  try dsimp only
  repeat (first
    | with_reducible assumption
    | with_reducible apply klog_keeps
    | with_reducible apply Keeps.ite
    | dsimp only
    | split)

theorem updCheck_keeps {s0 s : State} (h : Keeps s0 s) (c : Nat) (k : UpdCheck) : Keeps s0 (updCheck s c k) := by
  unfold updCheck
  try dsimp only
  repeat (first
    | with_reducible assumption
    | with_reducible apply cntEcc_keeps
    | with_reducible apply watchEcc_keeps
    | with_reducible apply dupCheck_keeps
    | dsimp only)

theorem homeSignal_keeps {s0 s : State} (h : Keeps s0 s) (u : Upd) (k : UpdCheck) : Keeps s0 (homeSignal s u k) := by
  unfold homeSignal
  try dsimp only
  repeat (first
    | with_reducible assumption
    | with_reducible apply applyUpd_keeps
    | with_reducible apply ackUpd_keeps
    | with_reducible apply updCheck_keeps
    | with_reducible apply Keeps.ite
    | with_reducible apply Keeps.ite_fst
    | fail_if_no_progress (with_reducible refine Keeps.mk ?_ rfl rfl)
    | dsimp only
    | split)

theorem signalStep_keeps {s0 s : State} (h : Keeps s0 s) (i : Nat) (k : UpdCheck) : Keeps s0 (signalStep s i k) := by
  unfold signalStep
  try dsimp only
  repeat (first
    | with_reducible assumption
    | with_reducible apply serve_keeps
    | with_reducible apply failUpd_keeps
    | with_reducible apply ackUpd_keeps
    | with_reducible apply homeSignal_keeps
    | fail_if_no_progress (with_reducible refine Keeps.mk ?_ rfl rfl)
    | dsimp only
    | split
    | fail_if_no_progress intros)

theorem answerFull_keeps {s0 s : State} (h : Keeps s0 s) (r : Reg) : Keeps s0 (answerFull s r) := by
  unfold answerFull
  try dsimp only
  repeat (first
    | with_reducible assumption
    | with_reducible apply postSmall_keeps
    | fail_if_no_progress (with_reducible refine Keeps.mk ?_ rfl rfl)
    | dsimp only)

theorem homeRegister_keeps {s0 s : State} (h : Keeps s0 s) (r : Reg) (k : UpdCheck) : Keeps s0 (homeRegister s r k) := by
  unfold homeRegister
  try dsimp only
  repeat (first
    | with_reducible assumption
    | with_reducible apply joinWakes_keeps
    | with_reducible apply compareScope_keeps
    | with_reducible apply setCnt_keeps
    | with_reducible apply sendWake_keeps
    | with_reducible apply putWatch_keeps
    | with_reducible apply evalSlot_keeps
    | with_reducible apply evaluate_keeps
    | with_reducible apply cntEcc_keeps
    | with_reducible apply watchEcc_keeps
    | with_reducible apply answerFull_keeps
    | with_reducible apply Keeps.ite
    | with_reducible refine Keeps.foldl ?_ (fun u a hu => ?_)
    | fail_if_no_progress (with_reducible refine Keeps.mk ?_ rfl rfl)
    | dsimp only
    | split)

theorem registrationStep_keeps {s0 s : State} (h : Keeps s0 s) (i : Nat) (k : UpdCheck) : Keeps s0 (registrationStep s i k) := by
  unfold registrationStep
  try dsimp only
  repeat (first
    | with_reducible assumption
    | with_reducible apply serve_keeps
    | with_reducible apply sendWake_keeps
    | with_reducible apply homeRegister_keeps
    | fail_if_no_progress (with_reducible refine Keeps.mk ?_ rfl rfl)
    | dsimp only
    | split
    | fail_if_no_progress intros)

theorem regRetryStep_keeps {s0 s : State} (h : Keeps s0 s) (t k : Nat) : Keeps s0 (regRetryStep s t k) := by
  unfold regRetryStep
  try dsimp only
  repeat (first
    | with_reducible assumption
    | with_reducible apply setTile_keeps
    | with_reducible apply postSmall_keeps
    | with_reducible apply Keeps.ite
    | fail_if_no_progress (with_reducible refine Keeps.mk ?_ rfl rfl)
    | dsimp only
    | split)

theorem giveBack_keeps {s0 s : State} (h : Keeps s0 s) (r : Reg) (result : Nat) : Keeps s0 (giveBack s r result) := by
  unfold giveBack
  try dsimp only
  repeat (first
    | with_reducible assumption
    | with_reducible apply sendUpd_keeps
    | with_reducible apply Keeps.ite
    | dsimp only
    | split)

theorem deliveryStep_keeps {s0 s : State} (h : Keeps s0 s) (i : Nat) : Keeps s0 (deliveryStep s i) := by
  unfold deliveryStep
  try dsimp only
  repeat (first
    | with_reducible assumption
    | with_reducible apply setTile_keeps
    | with_reducible apply dropMsg_keeps
    | with_reducible apply wake_keeps
    | with_reducible apply deliver_keeps
    | with_reducible apply giveBack_keeps
    | with_reducible apply Keeps.ite
    | with_reducible apply Keeps.ite_fst
    | fail_if_no_progress (with_reducible refine Keeps.mk ?_ rfl rfl)
    | dsimp only
    | split)

theorem withdrawalStep_keeps {s0 s : State} (h : Keeps s0 s) (i : Nat) : Keeps s0 (withdrawalStep s i) := by
  unfold withdrawalStep
  try dsimp only
  repeat (first
    | with_reducible assumption
    | with_reducible apply serve_keeps
    | fail_if_no_progress (with_reducible refine Keeps.mk ?_ rfl rfl)
    | dsimp only
    | split
    | fail_if_no_progress intros
    | assumption)

theorem timedApply_keeps {s0 s : State} (h : Keeps s0 s) (tcid : Nat) (inc : BitVec 16) (k : UpdCheck) : Keeps s0 (timedApply s tcid inc k) := by
  unfold timedApply
  try dsimp only
  repeat (first
    | with_reducible assumption
    | with_reducible apply failUpd_keeps
    | with_reducible apply applyUpd_keeps
    | with_reducible apply updCheck_keeps
    | with_reducible apply Keeps.ite
    | with_reducible apply Keeps.ite_fst
    | dsimp only
    | split)

theorem timedStep_keeps {s0 s : State} (h : Keeps s0 s) (k : Nat) (check : UpdCheck) : Keeps s0 (timedStep s k check) := by
  unfold timedStep
  try dsimp only
  repeat (first
    | with_reducible assumption
    | with_reducible apply timedApply_keeps
    | with_reducible apply Keeps.ite
    | fail_if_no_progress (with_reducible refine Keeps.mk ?_ rfl rfl)
    | dsimp only
    | split)

theorem afterArm_keeps {s0 s : State} (h : Keeps s0 s) (slot : Nat) (x : Watch) : Keeps s0 (afterArm s slot x) := by
  unfold afterArm
  try dsimp only
  repeat (first
    | with_reducible assumption
    | with_reducible apply putWatch_keeps
    | with_reducible apply freeWatch_keeps
    | with_reducible apply rearmRun_keeps
    | with_reducible apply Keeps.ite
    | fail_if_no_progress (with_reducible refine Keeps.mk ?_ rfl rfl)
    | dsimp only
    | split)

theorem timerArmStep_keeps {s0 s : State} (h : Keeps s0 s) (slot : Nat) (check : UpdCheck) : Keeps s0 (timerArmStep s slot check) := by
  unfold timerArmStep
  try dsimp only
  repeat (first
    | with_reducible assumption
    | with_reducible apply lodgeFlag_keeps
    | with_reducible apply armTimer_keeps
    | with_reducible apply timedApply_keeps
    | with_reducible apply afterArm_keeps
    | with_reducible apply Keeps.ite
    | fail_if_no_progress (with_reducible refine Keeps.mk ?_ rfl rfl)
    | dsimp only
    | split)

theorem ldValueOp_keeps {s0 s : State} (h : Keeps s0 s) (c : Nat) (v : Word) : Keeps s0 (ldValueOp s c v) := by
  unfold ldValueOp
  try dsimp only
  repeat (first
    | with_reducible assumption
    | with_reducible apply setCnt_keeps
    | with_reducible apply evaluate_keeps
    | fail_if_no_progress (with_reducible refine Keeps.mk ?_ rfl rfl)
    | dsimp only)

theorem ldAddOp_keeps {s0 s : State} (h : Keeps s0 s) (c : Nat) (v : Word) : Keeps s0 (ldAddOp s c v).1 := by
  unfold ldAddOp
  try dsimp only
  repeat (first
    | with_reducible assumption
    | with_reducible apply applyUpd_keeps
    | dsimp only)

theorem ldAtomOp_keeps {s0 s : State} (h : Keeps s0 s) (c : Nat) : Keeps s0 (ldAtomOp s c).1 := by
  unfold ldAtomOp
  try dsimp only
  repeat (first
    | with_reducible assumption
    | with_reducible apply setCnt_keeps
    | with_reducible apply Keeps.ite
    | with_reducible apply Keeps.ite_fst
    | dsimp only
    | split)

theorem ldCfgOp_keeps {s0 s : State} (h : Keeps s0 s) (c : Nat) (v : Word) : Keeps s0 (ldCfgOp s c v) := by
  unfold ldCfgOp
  try dsimp only
  repeat (first
    | with_reducible assumption
    | with_reducible apply lodgeFlag_keeps
    | with_reducible apply evaluate_keeps
    | with_reducible apply Keeps.ite
    | fail_if_no_progress (with_reducible refine Keeps.mk ?_ rfl rfl)
    | dsimp only
    | split)

theorem ldCtxOp_keeps {s0 s : State} (h : Keeps s0 s) (k : Nat) (v : Word) : Keeps s0 (ldCtxOp s k v) := by
  unfold ldCtxOp
  try dsimp only
  repeat (first
    | with_reducible assumption
    | with_reducible refine Keeps.foldl ?_ (fun u a hu => ?_)
    | fail_if_no_progress (with_reducible refine Keeps.mk ?_ rfl rfl)
    | dsimp only)

theorem hwDone_keeps {s0 s : State} (h : Keeps s0 s) (result : Nat) (slot : Option Nat) : Keeps s0 (hwDone s result slot) := by
  unfold hwDone
  try dsimp only
  repeat (first
    | with_reducible assumption
    | fail_if_no_progress (with_reducible refine Keeps.mk ?_ rfl rfl)
    | dsimp only)

theorem hwGo_keeps {s0 s : State} (h : Keeps s0 s)  : Keeps s0 (hwGo s) := by
  unfold hwGo
  try dsimp only
  repeat (first
    | with_reducible assumption
    | with_reducible apply joinWakes_keeps
    | with_reducible apply putWatch_keeps
    | with_reducible apply fireHost_keeps
    | with_reducible apply evalSlot_keeps
    | with_reducible apply hwDone_keeps
    | with_reducible apply Keeps.ite
    | with_reducible apply Keeps.ite_fst
    | with_reducible refine Keeps.foldl ?_ (fun u a hu => ?_)
    | with_reducible refine Keeps.foldl_fst ?_ (fun q a hq => ?_)
    | fail_if_no_progress (with_reducible refine Keeps.mk ?_ rfl rfl)
    | dsimp only
    | split)

theorem hwCancel_keeps {s0 s : State} (h : Keeps s0 s) (slot : Nat) : Keeps s0 (hwCancel s slot) := by
  unfold hwCancel
  try dsimp only
  repeat (first
    | with_reducible assumption
    | with_reducible apply freeWatch_keeps
    | with_reducible apply Keeps.ite
    | fail_if_no_progress (with_reducible refine Keeps.mk ?_ rfl rfl)
    | dsimp only
    | split)

theorem xFireTile_keeps {s0 s : State} (h : Keeps s0 s) (e : Nat) (t : Nat) : Keeps s0 (xFireTile e s t) := by
  unfold xFireTile
  try dsimp only
  repeat (first
    | with_reducible assumption
    | with_reducible apply setTile_keeps
    | with_reducible apply compareScope_keeps
    | with_reducible apply takeHeld_keeps
    | with_reducible apply deliver_keeps
    | with_reducible apply Keeps.ite
    | with_reducible apply Keeps.ite_fst
    | with_reducible refine Keeps.foldl ?_ (fun u a hu => ?_)
    | with_reducible refine Keeps.foldl_fst ?_ (fun q a hq => ?_)
    | fail_if_no_progress (with_reducible refine Keeps.mk ?_ rfl rfl)
    | dsimp only
    | split)

theorem xBroadcast_keeps {s0 s : State} (h : Keeps s0 s) (e : Nat) : Keeps s0 (xBroadcast s e) := by
  unfold xBroadcast
  try dsimp only
  repeat (first
    | with_reducible assumption
    | with_reducible apply xFireTile_keeps
    | with_reducible refine Keeps.foldl ?_ (fun u a hu => ?_)
    | dsimp only)

theorem xSet_keeps {s0 s : State} (h : Keeps s0 s) (e : Nat) (v : Word) (r : Rel) : Keeps s0 (xSet s e v r) := by
  unfold xSet
  try dsimp only
  repeat (first
    | with_reducible assumption
    | with_reducible apply xBroadcast_keeps
    | fail_if_no_progress (with_reducible refine Keeps.mk ?_ rfl rfl)
    | dsimp only)

theorem xRecord_keeps {s0 s : State} (h : Keeps s0 s) (us : List Upd) : Keeps s0 (xRecord s us) := by
  unfold xRecord
  try dsimp only
  repeat (first
    | with_reducible assumption
    | with_reducible apply Keeps.ite
    | with_reducible refine Keeps.foldl ?_ (fun u a hu => ?_)
    | fail_if_no_progress (with_reducible refine Keeps.mk ?_ rfl rfl)
    | dsimp only
    | split)

theorem expressStep_keeps {s0 s : State} (h : Keeps s0 s)  : Keeps s0 (expressStep s) := by
  unfold expressStep
  try dsimp only
  repeat (first
    | with_reducible assumption
    | with_reducible apply ackUpd_keeps
    | with_reducible apply xSet_keeps
    | with_reducible apply xRecord_keeps
    | with_reducible refine Keeps.foldl ?_ (fun u a hu => ?_)
    | with_reducible refine Keeps.foldl_fst ?_ (fun q a hq => ?_)
    | fail_if_no_progress (with_reducible refine Keeps.mk ?_ rfl rfl)
    | dsimp only)

theorem ldXvalueOp_keeps {s0 s : State} (h : Keeps s0 s) (e : Nat) (v : Word) : Keeps s0 (ldXvalueOp s e v) := by
  unfold ldXvalueOp
  try dsimp only
  repeat (first
    | with_reducible assumption
    | with_reducible apply xSet_keeps
    | dsimp only)

theorem ldXaddOp_keeps {s0 s : State} (h : Keeps s0 s) (e : Nat) (v : Word) : Keeps s0 (ldXaddOp s e v) := by
  unfold ldXaddOp
  try dsimp only
  repeat (first
    | with_reducible assumption
    | with_reducible apply sendUpd_keeps
    | dsimp only)

theorem signalAckStep_keeps {s0 s : State} (h : Keeps s0 s) (i : Nat) : Keeps s0 (signalAckStep s i) := by
  unfold signalAckStep
  try dsimp only
  repeat (first
    | with_reducible assumption
    | with_reducible apply dropMsg_keeps
    | with_reducible apply pendDone_keeps
    | with_reducible apply Keeps.ite
    | fail_if_no_progress (with_reducible refine Keeps.mk ?_ rfl rfl)
    | dsimp only
    | split)

/-! ## Bandstand -/

theorem setBar_keeps {s0 s : State} (h : Keeps s0 s) (b : Nat) (x : Barrier) : Keeps s0 (State.setBar s b x) := by
  unfold State.setBar
  try dsimp only
  repeat (first
    | with_reducible assumption
    | fail_if_no_progress (with_reducible refine Keeps.mk ?_ rfl rfl)
    | dsimp only)

theorem endBarHold_keeps {s0 s : State} (h : Keeps s0 s) (t : Nat) (src : Source) (b : BarSt) (code : Nat) : Keeps s0 (endBarHold s t src b code) := by
  unfold endBarHold
  try dsimp only
  repeat (first
    | with_reducible assumption
    | with_reducible apply clearHold_keeps
    | with_reducible apply noteWait_keeps
    | with_reducible apply finishSimple_keeps
    | dsimp only)

theorem arrivalDone_keeps {s0 s : State} (h : Keeps s0 s) (a : Arrival) (code : Nat) : Keeps s0 (arrivalDone s a code) := by
  unfold arrivalDone
  try dsimp only
  repeat (first
    | with_reducible assumption
    | with_reducible apply setTile_keeps
    | with_reducible apply pendDone_keeps
    | with_reducible apply endBarHold_keeps
    | with_reducible apply Keeps.ite
    | fail_if_no_progress (with_reducible refine Keeps.mk ?_ rfl rfl)
    | dsimp only
    | split)

theorem sendRelease_keeps {s0 s : State} (h : Keeps s0 s) (b gen scope : Nat) (failed : Bool) : Keeps s0 (sendRelease s b gen scope failed) := by
  unfold sendRelease
  try dsimp only
  repeat (first
    | with_reducible assumption
    | with_reducible apply postSmall_keeps
    | with_reducible refine Keeps.foldl ?_ (fun u a hu => ?_)
    | dsimp only)

theorem releaseOne_keeps {s0 s : State} (h : Keeps s0 s) (b : Nat) : Keeps s0 (releaseOne s b) := by
  unfold releaseOne
  try dsimp only
  repeat (first
    | with_reducible assumption
    | with_reducible apply pendVec_keeps
    | with_reducible apply sendUpd_keeps
    | with_reducible apply setBar_keeps
    | with_reducible apply sendRelease_keeps
    | with_reducible apply Keeps.ite
    | dsimp only
    | split)

theorem releaseLoop_keeps {s0 : State} : ∀ (k : Nat) {s : State} (b : Nat), Keeps s0 s → Keeps s0 (releaseLoop k s b)
  | 0, _, _, h => h
  | k + 1, s, b, h => by
    unfold releaseLoop
    split
    · exact releaseLoop_keeps k b (releaseOne_keeps h b)
    · exact h

theorem countArrival_keeps {s0 s : State} (h : Keeps s0 s) (a : Arrival) : Keeps s0 (countArrival s a) := by
  unfold countArrival
  try dsimp only
  repeat (first
    | with_reducible assumption
    | with_reducible apply setBar_keeps
    | with_reducible apply releaseLoop_keeps
    | with_reducible apply Keeps.ite
    | fail_if_no_progress (with_reducible refine Keeps.mk ?_ rfl rfl)
    | dsimp only
    | split)

theorem noteOverrun_keeps {s0 s : State} (h : Keeps s0 s) (a : Arrival) : Keeps s0 (noteOverrun s a) := by
  unfold noteOverrun
  try dsimp only
  repeat (first
    | with_reducible assumption
    | with_reducible apply barErr_keeps
    | dsimp only)

theorem bandArrival_keeps {s0 s : State} (h : Keeps s0 s) (a : Arrival) : Keeps s0 (bandArrival s a) := by
  unfold bandArrival
  try dsimp only
  repeat (first
    | with_reducible assumption
    | with_reducible apply postSmall_keeps
    | with_reducible apply arrivalDone_keeps
    | with_reducible apply countArrival_keeps
    | with_reducible apply noteOverrun_keeps
    | with_reducible apply Keeps.ite
    | dsimp only
    | split)

theorem arrivalStep_keeps {s0 s : State} (h : Keeps s0 s) (i : Nat) : Keeps s0 (arrivalStep s i) := by
  unfold arrivalStep
  try dsimp only
  repeat (first
    | with_reducible assumption
    | with_reducible apply serve_keeps
    | with_reducible apply arrivalDone_keeps
    | with_reducible apply bandArrival_keeps
    | fail_if_no_progress (with_reducible refine Keeps.mk ?_ rfl rfl)
    | dsimp only
    | split
    | fail_if_no_progress intros)

theorem overrunStep_keeps {s0 s : State} (h : Keeps s0 s) (i : Nat) : Keeps s0 (overrunStep s i) := by
  unfold overrunStep
  try dsimp only
  repeat (first
    | with_reducible assumption
    | with_reducible apply dropMsg_keeps
    | with_reducible apply arrivalDone_keeps
    | with_reducible apply Keeps.ite
    | fail_if_no_progress (with_reducible refine Keeps.mk ?_ rfl rfl)
    | dsimp only
    | split)

theorem releaseSource_keeps {s0 s : State} (h : Keeps s0 s) (bar gen scope : Nat) (failed : Bool) (t : Nat) (src : Source) : Keeps s0 (releaseSource bar gen scope failed t s src) := by
  unfold releaseSource
  try dsimp only
  repeat (first
    | with_reducible assumption
    | with_reducible apply scopeMm_keeps
    | with_reducible apply endBarHold_keeps
    | with_reducible apply Keeps.ite
    | fail_if_no_progress (with_reducible refine Keeps.mk ?_ rfl rfl)
    | dsimp only
    | split)

theorem releaseStep_keeps {s0 s : State} (h : Keeps s0 s) (i : Nat) : Keeps s0 (releaseStep s i) := by
  unfold releaseStep
  try dsimp only
  repeat (first
    | with_reducible assumption
    | with_reducible apply dropMsg_keeps
    | with_reducible apply releaseSource_keeps
    | with_reducible apply Keeps.ite
    | with_reducible refine Keeps.foldl ?_ (fun u a hu => ?_)
    | fail_if_no_progress (with_reducible refine Keeps.mk ?_ rfl rfl)
    | dsimp only
    | split)

theorem bsCfgOp_keeps {s0 s : State} (h : Keeps s0 s) (b : Nat) (v : Word) : Keeps s0 (bsCfgOp s b v) := by
  unfold bsCfgOp
  try dsimp only
  repeat (first
    | with_reducible assumption
    | with_reducible apply releaseLoop_keeps
    | fail_if_no_progress (with_reducible refine Keeps.mk ?_ rfl rfl)
    | dsimp only)

theorem bsArriveOp_keeps {s0 s : State} (h : Keeps s0 s) (v : Word) : Keeps s0 (bsArriveOp s v).1 := by
  unfold bsArriveOp
  try dsimp only
  repeat (first
    | with_reducible assumption
    | with_reducible apply countArrival_keeps
    | with_reducible apply noteOverrun_keeps
    | with_reducible apply Keeps.ite
    | with_reducible apply Keeps.ite_fst
    | dsimp only
    | split)

theorem bsResetOp_keeps {s0 s : State} (h : Keeps s0 s) (v : Word) : Keeps s0 (bsResetOp s v) := by
  unfold bsResetOp
  try dsimp only
  repeat (first
    | with_reducible assumption
    | with_reducible apply setTile_keeps
    | with_reducible apply setBar_keeps
    | with_reducible apply sendRelease_keeps
    | with_reducible refine Keeps.foldl ?_ (fun u a hu => ?_)
    | with_reducible refine Keeps.foldl_fst ?_ (fun q a hq => ?_)
    | fail_if_no_progress (with_reducible refine Keeps.mk ?_ rfl rfl)
    | dsimp only)

/-! ## Pergola -/

theorem mapLaunches_keeps {s0 s : State} (h : Keeps s0 s) (g : Bool → LaunchSt → LaunchSt) : Keeps s0 (mapLaunches s g) := by
  unfold mapLaunches
  try dsimp only
  repeat (first
    | with_reducible assumption
    | fail_if_no_progress (with_reducible refine Keeps.mk ?_ rfl rfl)
    | dsimp only)

theorem moveTime_keeps {s0 s : State} (h : Keeps s0 s) (v : DWord) : Keeps s0 (moveTime s v) := by
  unfold moveTime
  try dsimp only
  repeat (first
    | with_reducible assumption
    | with_reducible apply mapLaunches_keeps
    | with_reducible apply Keeps.ite
    | fail_if_no_progress (with_reducible refine Keeps.mk ?_ rfl rfl)
    | dsimp only
    | split)

theorem plainTick_keeps {s0 s : State} (h : Keeps s0 s)  : Keeps s0 (plainTick s) := by
  unfold plainTick
  try dsimp only
  repeat (first
    | with_reducible assumption
    | with_reducible apply moveTime_keeps
    | with_reducible apply Keeps.ite
    | fail_if_no_progress (with_reducible refine Keeps.mk ?_ rfl rfl)
    | dsimp only
    | split)

theorem adjustTick_keeps {s0 s : State} (h : Keeps s0 s)  : Keeps s0 (adjustTick s) := by
  unfold adjustTick
  try dsimp only
  repeat (first
    | with_reducible assumption
    | with_reducible apply moveTime_keeps
    | with_reducible apply Keeps.ite
    | fail_if_no_progress (with_reducible refine Keeps.mk ?_ rfl rfl)
    | dsimp only
    | split)

theorem countStep_keeps {s0 s : State} (h : Keeps s0 s)  : Keeps s0 (countStep s) := by
  unfold countStep
  try dsimp only
  repeat (first
    | with_reducible assumption
    | with_reducible apply raise_keeps
    | fail_if_no_progress (with_reducible refine Keeps.mk ?_ rfl rfl)
    | dsimp only)

theorem stepTick_keeps {s0 s : State} (h : Keeps s0 s)  : Keeps s0 (stepTick s) := by
  unfold stepTick
  try dsimp only
  repeat (first
    | with_reducible assumption
    | with_reducible apply mapLaunches_keeps
    | with_reducible apply countStep_keeps
    | with_reducible apply Keeps.ite
    | fail_if_no_progress (with_reducible refine Keeps.mk ?_ rfl rfl)
    | dsimp only
    | split)

theorem loadTick_keeps {s0 s : State} (h : Keeps s0 s)  : Keeps s0 (loadTick s) := by
  unfold loadTick
  try dsimp only
  repeat (first
    | with_reducible assumption
    | with_reducible apply pgAlarm_keeps
    | with_reducible apply mapLaunches_keeps
    | with_reducible apply countStep_keeps
    | with_reducible apply Keeps.ite
    | with_reducible apply Keeps.ite_fst
    | fail_if_no_progress (with_reducible refine Keeps.mk ?_ rfl rfl)
    | dsimp only
    | split)

theorem todStep_keeps {s0 s : State} (h : Keeps s0 s) (tod : DWord) : Keeps s0 (todStep s tod) := by
  unfold todStep
  try dsimp only
  repeat (first
    | with_reducible assumption
    | with_reducible apply Keeps.ite
    | fail_if_no_progress (with_reducible refine Keeps.mk ?_ rfl rfl)
    | dsimp only
    | split)

theorem correct_keeps {s0 s : State} (h : Keeps s0 s) (e : Int) : Keeps s0 (correct s e) := by
  unfold correct
  try dsimp only
  repeat (first
    | with_reducible assumption
    | with_reducible apply pgAlarm_keeps
    | with_reducible apply Keeps.ite
    | fail_if_no_progress (with_reducible refine Keeps.mk ?_ rfl rfl)
    | dsimp only
    | split)

theorem fsyncStep_keeps {s0 s : State} (h : Keeps s0 s)  : Keeps s0 (fsyncStep s) := by
  unfold fsyncStep
  try dsimp only
  repeat (first
    | with_reducible assumption
    | with_reducible apply correct_keeps
    | with_reducible apply Keeps.ite
    | fail_if_no_progress (with_reducible refine Keeps.mk ?_ rfl rfl)
    | dsimp only
    | split)

theorem fsmissStep_keeps {s0 s : State} (h : Keeps s0 s)  : Keeps s0 (fsmissStep s) := by
  unfold fsmissStep
  try dsimp only
  repeat (first
    | with_reducible assumption
    | with_reducible apply pgAlarm_keeps
    | with_reducible apply Keeps.ite
    | fail_if_no_progress (with_reducible refine Keeps.mk ?_ rfl rfl)
    | dsimp only
    | split)

theorem mismatchStep_keeps {s0 s : State} (h : Keeps s0 s)  : Keeps s0 (mismatchStep s) := by
  unfold mismatchStep
  try dsimp only
  repeat (first
    | with_reducible assumption
    | with_reducible apply klog_keeps
    | with_reducible apply Keeps.ite
    | fail_if_no_progress (with_reducible refine Keeps.mk ?_ rfl rfl)
    | dsimp only
    | split)

/-! ## Turnstile -/

theorem startOne_keeps {s0 s : State} (h : Keeps s0 s) (p : Point) (k : Nat) : Keeps s0 (startOne s p k) := by
  unfold startOne
  try dsimp only
  repeat (first
    | with_reducible assumption
    | with_reducible apply setPoint_keeps
    | fail_if_no_progress (with_reducible refine Keeps.mk ?_ rfl rfl)
    | dsimp only
    | split)

theorem sendStarts_keeps {s0 : State} (p : Point) : ∀ (n : Nat) (ks took : List Nat) {s : State}, Keeps s0 s →
    Keeps s0 (sendStarts p n ks took s).1
  | 0, _, _, _, h => by unfold sendStarts; exact h
  | _ + 1, [], _, _, h => by unfold sendStarts; exact h
  | n + 1, k :: ks, took, _, h => by
    unfold sendStarts
    dsimp only
    split
    · exact sendStarts_keeps p n ks _ (startOne_keeps (accountGrant_keeps h p k _) p k)
    · exact sendStarts_keeps p (n + 1) ks took h

theorem pointStep_keeps {s0 s : State} (h : Keeps s0 s) (p : Point) : Keeps s0 (pointStep s p) := by
  unfold pointStep
  try dsimp only
  repeat (first
    | with_reducible assumption
    | with_reducible apply setPoint_keeps
    | with_reducible apply accountGrant_keeps
    | with_reducible apply sendStarts_keeps
    | with_reducible apply Keeps.ite
    | with_reducible apply Keeps.ite_fst
    | fail_if_no_progress (with_reducible refine Keeps.mk ?_ rfl rfl)
    | dsimp only
    | split)

theorem grantStep_keeps {s0 s : State} (h : Keeps s0 s) (p : Point) : Keeps s0 (grantStep s p) := by
  unfold grantStep
  try dsimp only
  repeat (first
    | with_reducible assumption
    | with_reducible apply decideNext_keeps
    | with_reducible apply pointStep_keeps
    | with_reducible apply Keeps.ite
    | fail_if_no_progress (with_reducible refine Keeps.mk ?_ rfl rfl)
    | dsimp only
    | split)

theorem slackStep_keeps {s0 s : State} (h : Keeps s0 s) (i : Nat) : Keeps s0 (slackStep s i) := by
  unfold slackStep
  try dsimp only
  repeat (first
    | with_reducible assumption
    | with_reducible apply Keeps.ite
    | fail_if_no_progress (with_reducible refine Keeps.mk ?_ rfl rfl)
    | dsimp only
    | split)

/-! ## Gatehouse -/

theorem setComp_keeps {s0 s : State} (h : Keeps s0 s) (q i : Nat) (f : Comp → Comp) : Keeps s0 (setComp s q i f) := by
  unfold setComp
  try dsimp only
  repeat (first
    | with_reducible assumption
    | with_reducible apply setRing_keeps
    | with_reducible apply Keeps.ite
    | fail_if_no_progress (with_reducible refine Keeps.mk ?_ rfl rfl)
    | dsimp only
    | split)

theorem holdAccess_keeps {s0 s : State} (h : Keeps s0 s) (q : Nat) (a : GhAcc) (x : Bool) : Keeps s0 (holdAccess s q a x) := by
  unfold holdAccess
  try dsimp only
  repeat (first
    | with_reducible assumption
    | with_reducible apply ringFlag_keeps
    | with_reducible apply setRing_keeps
    | with_reducible apply Keeps.ite
    | fail_if_no_progress (with_reducible refine Keeps.mk ?_ rfl rfl)
    | dsimp only
    | split)

theorem ringOkay_keeps {s0 s : State} (h : Keeps s0 s) (q : Nat) (a : GhAcc) (data : List Byte) : Keeps s0 (ringOkay s q a data) := by
  unfold ringOkay
  try dsimp only
  repeat (first
    | with_reducible assumption
    | with_reducible apply setRing_keeps
    | with_reducible apply setComp_keeps
    | fail_if_no_progress (with_reducible refine Keeps.mk ?_ rfl rfl)
    | dsimp only
    | split)

theorem ghAnswer_keeps {s0 s : State} (h : Keeps s0 s) (a : GhAcc) (ans : Answer) (data : List Byte) : Keeps s0 (ghAnswer s a ans data) := by
  unfold ghAnswer
  try dsimp only
  repeat (first
    | with_reducible assumption
    | with_reducible apply setRing_keeps
    | with_reducible apply holdAccess_keeps
    | with_reducible apply ringOkay_keeps
    | with_reducible apply Keeps.ite
    | fail_if_no_progress (with_reducible refine Keeps.mk ?_ rfl rfl)
    | dsimp only
    | split)

theorem ghPost_keeps {s0 s : State} (h : Keeps s0 s) (a : GhAcc) : Keeps s0 (ghPost s a) := by
  unfold ghPost
  try dsimp only
  repeat (first
    | with_reducible assumption
    | with_reducible apply post_keeps
    | with_reducible apply ghAnswer_keeps
    | with_reducible apply Keeps.ite
    | with_reducible apply Keeps.ite_fst
    | dsimp only
    | split)

theorem sendShadow_keeps {s0 s : State} (h : Keeps s0 s) (q : Nat) (v : Word) : Keeps s0 (sendShadow s q v) := by
  unfold sendShadow
  try dsimp only
  repeat (first
    | with_reducible assumption
    | with_reducible apply setRing_keeps
    | with_reducible apply ghPost_keeps
    | fail_if_no_progress (with_reducible refine Keeps.mk ?_ rfl rfl)
    | dsimp only)

theorem ringEnableOp_keeps {s0 s : State} (h : Keeps s0 s) (q : Nat) : Keeps s0 (ringEnableOp s q) := by
  unfold ringEnableOp
  try dsimp only
  repeat (first
    | with_reducible assumption
    | with_reducible apply setRing_keeps
    | with_reducible apply ghCfgErr_keeps
    | with_reducible apply Keeps.ite
    | fail_if_no_progress (with_reducible refine Keeps.mk ?_ rfl rfl)
    | dsimp only
    | split)

theorem sendFetch_keeps {s0 s : State} (h : Keeps s0 s) (q i n : Nat) : Keeps s0 (sendFetch s q i n) := by
  unfold sendFetch
  try dsimp only
  repeat (first
    | with_reducible assumption
    | with_reducible apply setRing_keeps
    | with_reducible apply ghPost_keeps
    | fail_if_no_progress (with_reducible refine Keeps.mk ?_ rfl rfl)
    | dsimp only)

theorem refetch_keeps {s0 s : State} (h : Keeps s0 s) (q : Nat) : Keeps s0 (refetch s q) := by
  unfold refetch
  try dsimp only
  repeat (first
    | with_reducible assumption
    | with_reducible apply setRing_keeps
    | with_reducible apply sendFetch_keeps
    | with_reducible apply Keeps.ite
    | with_reducible apply Keeps.ite_fst
    | with_reducible refine Keeps.foldl ?_ (fun u a hu => ?_)
    | with_reducible refine Keeps.foldl_fst ?_ (fun q a hq => ?_)
    | fail_if_no_progress (with_reducible refine Keeps.mk ?_ rfl rfl)
    | dsimp only
    | split)

theorem reissueHeld_keeps {s0 s : State} (h : Keeps s0 s) (q : Nat) (a : GhAcc) : Keeps s0 (reissueHeld s q a) := by
  unfold reissueHeld
  try dsimp only
  repeat (first
    | with_reducible assumption
    | with_reducible apply ghPost_keeps
    | with_reducible apply sendShadow_keeps
    | with_reducible apply sendFetch_keeps
    | fail_if_no_progress (with_reducible refine Keeps.mk ?_ rfl rfl)
    | dsimp only
    | split)

theorem retryAll_keeps {s0 s : State} (h : Keeps s0 s) (q : Nat) : Keeps s0 (retryAll s q) := by
  unfold retryAll
  try dsimp only
  repeat (first
    | with_reducible assumption
    | with_reducible apply setRing_keeps
    | with_reducible apply refetch_keeps
    | with_reducible apply reissueHeld_keeps
    | with_reducible refine Keeps.foldl ?_ (fun u a hu => ?_)
    | fail_if_no_progress (with_reducible refine Keeps.mk ?_ rfl rfl)
    | dsimp only)

theorem prodOp_keeps {s0 s : State} (h : Keeps s0 s) (q : Nat) (v : Word) : Keeps s0 (prodOp s q v) := by
  unfold prodOp
  try dsimp only
  repeat (first
    | with_reducible assumption
    | with_reducible apply ringFlag_keeps
    | with_reducible apply setRing_keeps
    | with_reducible apply retryAll_keeps
    | with_reducible apply Keeps.ite
    | fail_if_no_progress (with_reducible refine Keeps.mk ?_ rfl rfl)
    | dsimp only
    | split)

theorem fetchRetryStep_keeps {s0 s : State} (h : Keeps s0 s) (q : Nat) : Keeps s0 (fetchRetryStep s q) := by
  unfold fetchRetryStep
  try dsimp only
  repeat (first
    | with_reducible assumption
    | with_reducible apply refetch_keeps
    | with_reducible apply Keeps.ite
    | dsimp only
    | split)

theorem failJob_keeps {s0 s : State} (h : Keeps s0 s) (q : Nat) : Keeps s0 (failJob s q) := by
  unfold failJob
  try dsimp only
  repeat (first
    | with_reducible assumption
    | with_reducible apply setRing_keeps
    | with_reducible apply addComp_keeps
    | with_reducible apply Keeps.ite
    | with_reducible refine Keeps.foldl ?_ (fun u a hu => ?_)
    | fail_if_no_progress (with_reducible refine Keeps.mk ?_ rfl rfl)
    | dsimp only
    | split)

theorem endFullJob_keeps {s0 s : State} (h : Keeps s0 s) (q : Nat) : Keeps s0 (endFullJob s q) := by
  unfold endFullJob
  try dsimp only
  repeat (first
    | with_reducible assumption
    | with_reducible apply setRing_keeps
    | with_reducible apply failJob_keeps
    | with_reducible apply Keeps.ite
    | fail_if_no_progress (with_reducible refine Keeps.mk ?_ rfl rfl)
    | dsimp only
    | split)

theorem ringFetchStep_keeps {s0 s : State} (h : Keeps s0 s)  : Keeps s0 (ringFetchStep s) := by
  unfold ringFetchStep
  try dsimp only
  repeat (first
    | with_reducible assumption
    | with_reducible apply sendFetch_keeps
    | with_reducible apply endFullJob_keeps
    | with_reducible apply Keeps.ite
    | fail_if_no_progress (with_reducible refine Keeps.mk ?_ rfl rfl)
    | dsimp only
    | split)

theorem captureEntry_keeps {s0 s : State} (h : Keeps s0 s) (q : Nat) (data : List Byte) : Keeps s0 (captureEntry s q data) := by
  unfold captureEntry
  try dsimp only
  repeat (first
    | with_reducible assumption
    | with_reducible apply setRing_keeps
    | with_reducible apply failJob_keeps
    | with_reducible apply Keeps.ite
    | fail_if_no_progress (with_reducible refine Keeps.mk ?_ rfl rfl)
    | dsimp only
    | split)

theorem captureAll_keeps {s0 : State} (q : Nat) :
    ∀ (k : Nat) (data : List Byte) {s : State}, Keeps s0 s → Keeps s0 (captureAll q k data s)
  | 0, _, _, h => h
  | k + 1, data, s, h => by
    unfold captureAll
    split
    · exact h
    · split
      · exact captureAll_keeps q k _ (captureEntry_keeps h q _)
      · exact setRing_keeps (ringFlag_keeps h q 2) q _

theorem fetchResponseStep_keeps {s0 s : State} (h : Keeps s0 s) (q : Nat) (ecc : Ecc) : Keeps s0 (fetchResponseStep s q ecc) := by
  unfold fetchResponseStep
  try dsimp only
  repeat (first
    | with_reducible assumption
    | with_reducible apply klog_keeps
    | with_reducible apply setRing_keeps
    | with_reducible apply sendFetch_keeps
    | with_reducible apply captureAll_keeps
    | with_reducible apply Keeps.ite
    | with_reducible apply Keeps.ite_fst
    | fail_if_no_progress (with_reducible refine Keeps.mk ?_ rfl rfl)
    | dsimp only
    | split)

theorem takeAccepted_keeps {s0 s : State} (h : Keeps s0 s) : Keeps s0 (takeAccepted s) :=
  h.trans ⟨rfl, rfl, id, bounded_filter _ rfl rfl rfl rfl⟩

/-- One more place is taken of an input queue with room. -/
theorem bounded_place {s u : State} (p : Seat) (hn : u.keeper.next = s.keeper.next) (hc : u.keeper.count = s.keeper.count)
    (hu : u.always.used = s.always.used) (hp : u.gate.placed = s.gate.placed ++ [p]) (hr : seatsTaken s p.tile p.src < 4)
    (h : Bounded s) : Bounded u := by
  obtain ⟨a, b, c, d⟩ := h
  refine ⟨hn ▸ a, hc ▸ b, hu ▸ c, fun t k => ?_⟩
  have := d t k
  simp only [seatsTaken, hp, List.filter_append, List.length_append, List.filter_cons, List.filter_nil] at this hr ⊢
  split
  · rename_i e
    simp only [Bool.and_eq_true, decide_eq_true_eq] at e
    obtain ⟨rfl, rfl⟩ := e
    simpa using hr
  · simpa using this

theorem dispatchStep_keeps {s0 s : State} (h : Keeps s0 s) (q : Nat) : Keeps s0 (dispatchStep s q) := by
  unfold dispatchStep
  split
  · exact h
  · have h1 := takeAccepted_keeps h
    dsimp only
    split
    · exact h1
    · rename_i e es _
      refine Keeps.ite (badChain_keeps (setRing_keeps h1 _ _) _ _) ?_
      split
      · rename_i hr
        refine postSmall_keeps ?_ _ _ _ _
        exact (setRing_keeps h1 q _).trans ⟨rfl, rfl, id, bounded_place _ rfl rfl rfl rfl hr⟩
      · exact h1

theorem receiptStep_keeps {s0 s : State} (h : Keeps s0 s) (i : Nat) : Keeps s0 (receiptStep s i) := by
  unfold receiptStep
  try dsimp only
  repeat (first
    | with_reducible assumption
    | with_reducible apply setTile_keeps
    | with_reducible apply dropMsg_keeps
    | with_reducible apply badChain_keeps
    | with_reducible apply endInstr_keeps
    | with_reducible apply Keeps.ite
    | fail_if_no_progress (with_reducible refine Keeps.mk ?_ rfl rfl)
    | dsimp only
    | split)

theorem completionStep_keeps {s0 s : State} (h : Keeps s0 s) (q k : Nat) : Keeps s0 (completionStep s q k) := by
  unfold completionStep
  try dsimp only
  repeat (first
    | with_reducible assumption
    | with_reducible apply setComp_keeps
    | with_reducible apply ghPost_keeps
    | with_reducible apply Keeps.ite
    | fail_if_no_progress (with_reducible refine Keeps.mk ?_ rfl rfl)
    | dsimp only
    | split)

theorem ownStep_keeps {s0 s : State} (h : Keeps s0 s) (q k : Nat) : Keeps s0 (ownStep s q k) := by
  unfold ownStep
  try dsimp only
  repeat (first
    | with_reducible assumption
    | with_reducible apply setComp_keeps
    | with_reducible apply ghPost_keeps
    | with_reducible apply Keeps.ite
    | fail_if_no_progress (with_reducible refine Keeps.mk ?_ rfl rfl)
    | dsimp only
    | split)

theorem doneStep_keeps {s0 s : State} (h : Keeps s0 s) (q : Nat) : Keeps s0 (doneStep s q) := by
  unfold doneStep
  try dsimp only
  repeat (first
    | with_reducible assumption
    | with_reducible apply pendVec_keeps
    | with_reducible apply setRing_keeps
    | with_reducible apply sendShadow_keeps
    | with_reducible apply Keeps.ite
    | with_reducible refine Keeps.foldl ?_ (fun u a hu => ?_)
    | fail_if_no_progress (with_reducible refine Keeps.mk ?_ rfl rfl)
    | dsimp only
    | split)

theorem gateRetryStep_keeps {s0 s : State} (h : Keeps s0 s) (q : Nat) : Keeps s0 (gateRetryStep s q) := by
  unfold gateRetryStep
  try dsimp only
  repeat (first
    | with_reducible assumption
    | with_reducible apply setRing_keeps
    | with_reducible apply reissueHeld_keeps
    | with_reducible apply Keeps.ite
    | fail_if_no_progress (with_reducible refine Keeps.mk ?_ rfl rfl)
    | dsimp only
    | split)

theorem messageStep_keeps {s0 s : State} (h : Keeps s0 s) (v : Nat) : Keeps s0 (messageStep s v) := by
  unfold messageStep
  try dsimp only
  repeat (first
    | with_reducible assumption
    | with_reducible apply ghVecErr_keeps
    | with_reducible apply ghPost_keeps
    | with_reducible apply Keeps.ite
    | fail_if_no_progress (with_reducible refine Keeps.mk ?_ rfl rfl)
    | dsimp only
    | split)

end Sys2Proof.Laws
end

