-- ==== Sys2Proof/Laws/KeepsPorts.lean ====
section
/-! SUPPORT. What the ports, the power controller, the keeper, the control port and the boot sequencer leave alone (`Keeps`). -/

namespace Sys2Proof.Laws

open Sys2Proof Sys2Proof.Machine

set_option Elab.async false
set_option linter.unreachableTactic false
set_option linter.unusedTactic false

/-! ## Ports -/

theorem answerReq_keeps {s0 s : State} (h : Keeps s0 s) (n : Nat) (q : PortReq) (a : Answer) (data : List Byte) : Keeps s0 (answerReq s n q a data) := by
  unfold answerReq
  try dsimp only
  repeat (first
    | with_reducible assumption
    | with_reducible apply post_keeps
    | with_reducible apply Keeps.ite
    | with_reducible apply Keeps.ite_fst
    | fail_if_no_progress (with_reducible refine Keeps.mk ?_ rfl rfl)
    | dsimp only
    | split)

theorem present_keeps {s0 s : State} (h : Keeps s0 s) (n : Nat) (q : PortReq) (pa : DWord) (ent : Option TlbEnt) : Keeps s0 (present s n q pa ent) := by
  unfold present
  try dsimp only
  repeat (first
    | with_reducible assumption
    | with_reducible apply setSp_keeps
    | fail_if_no_progress (with_reducible refine Keeps.mk ?_ rfl rfl)
    | dsimp only
    | split)

theorem faultReq_keeps {s0 s : State} (h : Keeps s0 s) (n : Nat) (q : PortReq) : Keeps s0 (faultReq s n q) := by
  unfold faultReq
  try dsimp only
  repeat (first
    | with_reducible assumption
    | with_reducible apply setSp_keeps
    | with_reducible apply spFlag_keeps
    | with_reducible apply answerReq_keeps
    | fail_if_no_progress (with_reducible refine Keeps.mk ?_ rfl rfl)
    | dsimp only)

theorem sendQuery_keeps {s0 s d : State} (h : Keeps s0 s) (hd : Keeps s0 d) (n : Nat) (q : SpReq) :
    Keeps s0 ((sendQuery s n q).getD d) := by
  unfold sendQuery
  split
  · exact h
  · dsimp only
    cases freeQuery (s.sp n) with
    | none => exact hd
    | some k => exact setSp_keeps h n _

theorem drain_keeps {s0 : State} (n : Nat) : ∀ (qs : List PortReq) (srcs : List Nat) (kept : List PortReq) {s : State},
    Keeps s0 s → Keeps s0 (drain n qs srcs kept s)
  | [], _, _, _, h => setSp_keeps h n _
  | q :: qs, srcs, kept, s, h => by
    unfold drain
    dsimp only
    split
    · exact drain_keeps n qs _ _ h
    · split
      · exact drain_keeps n qs _ _ (present_keeps h n q _ _)
      · exact drain_keeps n qs _ _ (faultReq_keeps h n q)
      · exact drain_keeps n qs _ _ (sendQuery_keeps h h n q.req)

theorem acceptReq_keeps {s0 s d : State} (h : Keeps s0 s) (hd : Keeps s0 d) (n : Nat) (q : PortReq) :
    Keeps s0 ((acceptReq s n q).getD d) := by
  unfold acceptReq
  dsimp only
  split
  · rw [Option.getD_some]
    with_reducible apply setSp_keeps
    exact h
  · split
    · rw [Option.getD_some]
      with_reducible apply present_keeps
      exact h
    · rw [Option.getD_some]
      with_reducible apply faultReq_keeps
      exact h
    · have k := sendQuery_keeps h hd n q.req
      cases e : sendQuery s n q.req with
      | none => exact hd
      | some v =>
        rw [e, Option.getD_some] at k
        rw [Option.map_some, Option.getD_some]
        with_reducible apply setSp_keeps
        exact k

theorem tlbEcc_keeps {s0 s : State} (h : Keeps s0 s) (n : Nat) (q : SpReq) (ecc : Ecc) : Keeps s0 (tlbEcc s n q ecc) := by
  unfold tlbEcc
  try dsimp only
  repeat (first
    | with_reducible assumption
    | with_reducible apply klog_keeps
    | with_reducible apply setSp_keeps
    | fail_if_no_progress (with_reducible refine Keeps.mk ?_ rfl rfl)
    | dsimp only
    | split)

theorem portRequestStep_keeps {s0 s : State} (h : Keeps s0 s) (n i : Nat) (ecc : Ecc) : Keeps s0 (portRequestStep s n i ecc) := by
  unfold portRequestStep
  try dsimp only
  repeat (first
    | with_reducible assumption
    | with_reducible apply dropMsg_keeps
    | with_reducible apply turnBack_keeps
    | with_reducible apply answerReq_keeps
    | with_reducible apply acceptReq_keeps
    | with_reducible apply tlbEcc_keeps
    | with_reducible apply Keeps.ite
    | fail_if_no_progress (with_reducible refine Keeps.mk ?_ rfl rfl)
    | dsimp only
    | split)

theorem endFaulted_keeps {s0 : State} (n : Nat) (q : Query) (all : Bool) (perm : BitVec 2) :
    ∀ (rs : List PortReq) (srcs : List Nat) (kept : List PortReq) {s : State},
    Keeps s0 s → Keeps s0 (endFaulted n q all perm rs srcs kept s)
  | [], _, _, _, h => setSp_keeps h n _
  | r :: rs, srcs, kept, s, h => by
    unfold endFaulted
    dsimp only
    split
    · exact endFaulted_keeps n q all perm rs _ _ (faultReq_keeps h n r)
    · exact endFaulted_keeps n q all perm rs _ _ h

theorem xlateAnswerStep_keeps {s0 s : State} (h : Keeps s0 s) (n id : Nat) (pa : BitVec 52) (size perm : BitVec 2) (fault : Bool) : Keeps s0 (xlateAnswerStep s n id pa size perm fault) := by
  unfold xlateAnswerStep
  try dsimp only
  repeat (first
    | with_reducible assumption
    | with_reducible apply setSp_keeps
    | with_reducible apply drain_keeps
    | with_reducible apply endFaulted_keeps
    | with_reducible apply Keeps.ite
    | fail_if_no_progress (with_reducible refine Keeps.mk ?_ rfl rfl)
    | dsimp only
    | split
    | assumption)

theorem freeTagOf_keeps {s0 s : State} (h : Keeps s0 s) (n tag : Nat) : Keeps s0 (freeTagOf s n tag) := by
  unfold freeTagOf
  try dsimp only
  repeat (first
    | with_reducible assumption
    | with_reducible apply setSp_keeps
    | fail_if_no_progress (with_reducible refine Keeps.mk ?_ rfl rfl)
    | dsimp only)

theorem finishTag_keeps {s0 s : State} (h : Keeps s0 s) (n tag : Nat) (g : TagSt) : Keeps s0 (finishTag s n tag g) := by
  unfold finishTag
  try dsimp only
  repeat (first
    | with_reducible assumption
    | with_reducible apply forward_keeps
    | with_reducible apply answerReq_keeps
    | with_reducible apply freeTagOf_keeps
    | with_reducible apply Keeps.ite
    | with_reducible apply Keeps.ite_fst
    | fail_if_no_progress (with_reducible refine Keeps.mk ?_ rfl rfl)
    | dsimp only
    | split)

theorem failTag_keeps {s0 s : State} (h : Keeps s0 s) (n tag code : Nat) (g : TagSt) : Keeps s0 (failTag s n tag code g) := by
  unfold failTag
  try dsimp only
  repeat (first
    | with_reducible assumption
    | with_reducible apply klog_keeps
    | with_reducible apply spFlag_keeps
    | with_reducible apply answerReq_keeps
    | with_reducible apply freeTagOf_keeps
    | with_reducible apply Keeps.ite
    | with_reducible apply Keeps.ite_fst
    | dsimp only
    | split)

theorem portResponseStep_keeps {s0 s : State} (h : Keeps s0 s) (n tag idx : Nat) (code : BitVec 3) (data : List Byte) (last : Bool) : Keeps s0 (portResponseStep s n tag idx code data last) := by
  unfold portResponseStep
  try dsimp only
  repeat (first
    | with_reducible assumption
    | with_reducible apply setSp_keeps
    | with_reducible apply spFlag_keeps
    | with_reducible apply freeTagOf_keeps
    | with_reducible apply finishTag_keeps
    | with_reducible apply failTag_keeps
    | with_reducible apply Keeps.ite
    | with_reducible apply Keeps.ite_fst
    | fail_if_no_progress (with_reducible refine Keeps.mk ?_ rfl rfl)
    | dsimp only
    | split)

theorem tagTimeout_keeps {s0 s : State} (h : Keeps s0 s) (n k : Nat) : Keeps s0 (tagTimeout s n k) := by
  unfold tagTimeout
  try dsimp only
  repeat (first
    | with_reducible assumption
    | with_reducible apply klog_keeps
    | with_reducible apply setSp_keeps
    | with_reducible apply answerReq_keeps
    | with_reducible apply Keeps.ite
    | with_reducible apply Keeps.ite_fst
    | fail_if_no_progress (with_reducible refine Keeps.mk ?_ rfl rfl)
    | dsimp only
    | split)

theorem lateReport_keeps {s0 s : State} (h : Keeps s0 s) (t n : Nat) (addr : DWord) : Keeps s0 (lateReport s t n addr) := by
  unfold lateReport
  try dsimp only
  repeat (first
    | with_reducible assumption
    | with_reducible apply klog_keeps
    | dsimp only)

theorem lateRequest_keeps {s0 s : State} (h : Keeps s0 s) (t n : Nat) (dom : Nat) (addr : DWord) (k : Nat) : Keeps s0 (lateRequest s t n dom addr k) := by
  unfold lateRequest
  try dsimp only
  repeat (first
    | with_reducible assumption
    | with_reducible apply abortStream_keeps
    | with_reducible apply replay_keeps
    | with_reducible apply lateReport_keeps
    | with_reducible apply Keeps.ite
    | fail_if_no_progress (with_reducible refine Keeps.mk ?_ rfl rfl)
    | dsimp only
    | split)

theorem requestTimeout_keeps {s0 s : State} (h : Keeps s0 s) (t n id : Nat) : Keeps s0 (requestTimeout s t n id) := by
  unfold requestTimeout
  try dsimp only
  repeat (first
    | with_reducible assumption
    | with_reducible apply setStream_keeps
    | with_reducible apply lostRedo_keeps
    | with_reducible apply lateReport_keeps
    | with_reducible apply lateRequest_keeps
    | with_reducible apply Keeps.ite
    | fail_if_no_progress (with_reducible refine Keeps.mk ?_ rfl rfl)
    | dsimp only
    | split
    | assumption)

theorem signalTimeout_keeps {s0 s : State} (h : Keeps s0 s) (t n : Nat) : Keeps s0 (signalTimeout s t n) := by
  unfold signalTimeout
  try dsimp only
  repeat (first
    | with_reducible assumption
    | with_reducible apply setStream_keeps
    | with_reducible apply lateReport_keeps
    | with_reducible apply lateRequest_keeps
    | with_reducible apply Keeps.ite
    | fail_if_no_progress (with_reducible refine Keeps.mk ?_ rfl rfl)
    | dsimp only
    | split)

theorem gateTimeout_keeps {s0 s : State} (h : Keeps s0 s) (q k : Nat) : Keeps s0 (gateTimeout s q k) := by
  unfold gateTimeout
  try dsimp only
  repeat (first
    | with_reducible assumption
    | with_reducible apply klog_keeps
    | with_reducible apply ghAnswer_keeps
    | with_reducible apply Keeps.ite
    | with_reducible apply Keeps.ite_fst
    | fail_if_no_progress (with_reducible refine Keeps.mk ?_ rfl rfl)
    | dsimp only
    | split)

theorem timeoutStep_keeps {s0 s : State} (h : Keeps s0 s) (r : LateReq) : Keeps s0 (timeoutStep s r) := by
  unfold timeoutStep
  try dsimp only
  repeat (first
    | with_reducible assumption
    | with_reducible apply tagTimeout_keeps
    | with_reducible apply requestTimeout_keeps
    | with_reducible apply signalTimeout_keeps
    | with_reducible apply gateTimeout_keeps
    | fail_if_no_progress (with_reducible refine Keeps.mk ?_ rfl rfl)
    | dsimp only
    | split
    | assumption)

theorem invalStep_keeps {s0 s : State} (h : Keeps s0 s) (n : Nat) (v : Inval) : Keeps s0 (invalStep s n v) := by
  unfold invalStep
  try dsimp only
  repeat (first
    | with_reducible assumption
    | with_reducible apply setSp_keeps
    | with_reducible apply Keeps.ite
    | with_reducible apply Keeps.ite_fst
    | fail_if_no_progress (with_reducible refine Keeps.mk ?_ rfl rfl)
    | dsimp only
    | split)

theorem invalDoneStep_keeps {s0 s : State} (h : Keeps s0 s) (n : Nat) : Keeps s0 (invalDoneStep s n) := by
  unfold invalDoneStep
  try dsimp only
  repeat (first
    | with_reducible assumption
    | with_reducible apply setSp_keeps
    | with_reducible apply Keeps.ite
    | with_reducible apply Keeps.ite_fst
    | fail_if_no_progress (with_reducible refine Keeps.mk ?_ rfl rfl)
    | dsimp only
    | split)

theorem wpAnswer_keeps {s0 s : State} (h : Keeps s0 s) (l tag code : Nat) (data : List Byte) : Keeps s0 (wpAnswer s l tag code data) := by
  unfold wpAnswer
  try dsimp only
  repeat (first
    | with_reducible assumption
    | fail_if_no_progress (with_reducible refine Keeps.mk ?_ rfl rfl)
    | dsimp only)

theorem wpSend_keeps {s0 s : State} (h : Keeps s0 s) (l tag op o n : Nat) (data : List Byte) : Keeps s0 (wpSend s l tag op o n data) := by
  unfold wpSend
  try dsimp only
  repeat (first
    | with_reducible assumption
    | with_reducible apply post_keeps
    | with_reducible apply Keeps.ite
    | with_reducible apply Keeps.ite_fst
    | with_reducible refine Keeps.foldl ?_ (fun u a hu => ?_)
    | with_reducible refine Keeps.foldl_fst ?_ (fun q a hq => ?_)
    | fail_if_no_progress (with_reducible refine Keeps.mk ?_ rfl rfl)
    | dsimp only
    | split)

theorem windowStepPort_keeps {s0 s : State} (h : Keeps s0 s) (l tag op : Nat) (a : DWord) (n : Nat) (data : List Byte) : Keeps s0 (windowStepPort s l tag op a n data) := by
  unfold windowStepPort
  try dsimp only
  repeat (first
    | with_reducible assumption
    | with_reducible apply wpAnswer_keeps
    | with_reducible apply wpSend_keeps
    | with_reducible apply Keeps.ite
    | fail_if_no_progress (with_reducible refine Keeps.mk ?_ rfl rfl)
    | dsimp only
    | split)

theorem wpLand_keeps {s0 s : State} (h : Keeps s0 s) (q : WpReq) (code : Nat) (data : List Byte) : Keeps s0 (wpLand s q code data) := by
  unfold wpLand
  try dsimp only
  repeat (first
    | with_reducible assumption
    | with_reducible apply wpAnswer_keeps
    | with_reducible apply Keeps.ite
    | with_reducible apply Keeps.ite_fst
    | fail_if_no_progress (with_reducible refine Keeps.mk ?_ rfl rfl)
    | dsimp only
    | split
    | assumption)

theorem responseStep_keeps {s0 s : State} (h : Keeps s0 s) (i : Nat) (ecc : Ecc) : Keeps s0 (responseStep s i ecc) := by
  unfold responseStep
  try dsimp only
  repeat (first
    | with_reducible assumption
    | with_reducible apply dropMsg_keeps
    | with_reducible apply readAnswer_keeps
    | with_reducible apply ghAnswer_keeps
    | with_reducible apply wpLand_keeps
    | with_reducible apply Keeps.ite
    | fail_if_no_progress (with_reducible refine Keeps.mk ?_ rfl rfl)
    | dsimp only
    | split)

theorem ackStep_keeps {s0 s : State} (h : Keeps s0 s) (i : Nat) : Keeps s0 (ackStep s i) := by
  unfold ackStep
  try dsimp only
  repeat (first
    | with_reducible assumption
    | with_reducible apply dropMsg_keeps
    | with_reducible apply writeAnswer_keeps
    | with_reducible apply ghAnswer_keeps
    | with_reducible apply wpLand_keeps
    | with_reducible apply Keeps.ite
    | fail_if_no_progress (with_reducible refine Keeps.mk ?_ rfl rfl)
    | dsimp only
    | split)

theorem reissue_keeps {s0 s : State} (h : Keeps s0 s) (m : Msg) : Keeps s0 (reissue s m) := by
  unfold reissue
  try dsimp only
  repeat (first
    | with_reducible assumption
    | with_reducible apply post_keeps
    | with_reducible apply postSmall_keeps
    | with_reducible apply register_keeps
    | with_reducible apply ghPost_keeps
    | fail_if_no_progress (with_reducible refine Keeps.mk ?_ rfl rfl)
    | dsimp only
    | split)

theorem retryLaterStep_keeps {s0 s : State} (h : Keeps s0 s) (i : Nat) : Keeps s0 (retryLaterStep s i) := by
  unfold retryLaterStep
  try dsimp only
  repeat (first
    | with_reducible assumption
    | with_reducible apply dropMsg_keeps
    | with_reducible apply reissue_keeps
    | with_reducible apply Keeps.ite
    | fail_if_no_progress (with_reducible refine Keeps.mk ?_ rfl rfl)
    | dsimp only
    | split)

/-! ## Power -/

theorem judgeLost_keeps {s0 s : State} (h : Keeps s0 s) (t : Nat) (ls : List Lost) : Keeps s0 (judgeLost s t ls) := by
  unfold judgeLost
  try dsimp only
  repeat (first
    | with_reducible assumption
    | with_reducible apply judgeLate_keeps
    | with_reducible refine Keeps.foldl ?_ (fun u a hu => ?_)
    | dsimp only)

theorem completeWith_keeps {s0 s : State} (h : Keeps s0 s) (code : Nat) (ls : List Lost) : Keeps s0 (completeWith s code ls) := by
  unfold completeWith
  try dsimp only
  repeat (first
    | with_reducible assumption
    | with_reducible apply addComp_keeps
    | with_reducible apply breakJob_keeps
    | with_reducible refine Keeps.foldl ?_ (fun u a hu => ?_)
    | dsimp only)

theorem completeLost_keeps {s0 s : State} (h : Keeps s0 s) (ls : List Lost) : Keeps s0 (completeLost s ls) := by
  unfold completeLost
  try dsimp only
  repeat (first
    | with_reducible assumption
    | with_reducible apply completeWith_keeps
    | dsimp only)

theorem completeResumers_keeps {s0 s : State} (h : Keeps s0 s) (x : Tile) : Keeps s0 (completeResumers s x) := by
  unfold completeResumers
  try dsimp only
  repeat (first
    | with_reducible assumption
    | with_reducible apply addComp_keeps
    | with_reducible apply breakJob_keeps
    | with_reducible refine Keeps.foldl ?_ (fun u a hu => ?_)
    | with_reducible refine Keeps.foldl_fst ?_ (fun q a hq => ?_)
    | fail_if_no_progress (with_reducible refine Keeps.mk ?_ rfl rfl)
    | dsimp only
    | split)

theorem forgetTile_keeps {s0 s : State} (h : Keeps s0 s) (t : Nat) : Keeps s0 (forgetTile s t) := by
  unfold forgetTile
  try dsimp only
  repeat (first
    | with_reducible assumption
    | fail_if_no_progress (with_reducible refine Keeps.mk ?_ rfl rfl)
    | dsimp only)

theorem breakParked_keeps {s0 s : State} (h : Keeps s0 s) (x : Tile) : Keeps s0 (breakParked s x) := by
  unfold breakParked
  try dsimp only
  repeat (first
    | with_reducible assumption
    | with_reducible apply breakJob_keeps
    | with_reducible refine Keeps.foldl ?_ (fun u a hu => ?_)
    | fail_if_no_progress (with_reducible refine Keeps.mk ?_ rfl rfl)
    | dsimp only
    | split)

theorem coreReset_keeps {s0 s : State} (h : Keeps s0 s) (t : Nat) : Keeps s0 (coreReset s t) := by
  unfold coreReset
  try dsimp only
  repeat (first
    | with_reducible assumption
    | with_reducible apply setTile_keeps
    | with_reducible apply clearPark_keeps
    | with_reducible apply judgeLost_keeps
    | with_reducible apply completeLost_keeps
    | with_reducible apply completeResumers_keeps
    | with_reducible apply forgetTile_keeps
    | with_reducible apply breakParked_keeps
    | with_reducible apply Keeps.ite
    | with_reducible apply Keeps.ite_fst
    | with_reducible refine Keeps.foldl ?_ (fun u a hu => ?_)
    | with_reducible refine Keeps.foldl_fst ?_ (fun q a hq => ?_)
    | fail_if_no_progress (with_reducible refine Keeps.mk ?_ rfl rfl)
    | dsimp only
    | split)

theorem dropReqs_keeps {s0 s : State} (h : Keeps s0 s) (f : Msg → Bool) : Keeps s0 (dropReqs s f) := by
  unfold dropReqs
  try dsimp only
  repeat (first
    | with_reducible assumption
    | fail_if_no_progress (with_reducible refine Keeps.mk ?_ rfl rfl)
    | dsimp only)

theorem spadReset_keeps {s0 s : State} (h : Keeps s0 s) (t : Nat) : Keeps s0 (spadReset s t) := by
  unfold spadReset
  try dsimp only
  repeat (first
    | with_reducible assumption
    | with_reducible apply dropReqs_keeps
    | fail_if_no_progress (with_reducible refine Keeps.mk ?_ rfl rfl)
    | dsimp only
    | split)

theorem spadErase_keeps {s0 s : State} (h : Keeps s0 s) (t : Nat) : Keeps s0 (spadErase s t) :=
  h.trans ⟨rfl, rfl, filter_wf _ _, id⟩

theorem ctxReset_keeps {s0 s : State} (h : Keeps s0 s) (p : Nat) : Keeps s0 (ctxReset s p) := by
  unfold ctxReset
  try dsimp only
  repeat (first
    | with_reducible assumption
    | fail_if_no_progress (with_reducible refine Keeps.mk ?_ rfl rfl)
    | dsimp only)

theorem routerReset_keeps {s0 s : State} (h : Keeps s0 s) (p : Nat) : Keeps s0 (routerReset s p) := by
  unfold routerReset
  try dsimp only
  repeat (first
    | with_reducible assumption
    | with_reducible apply ctxReset_keeps
    | fail_if_no_progress (with_reducible refine Keeps.mk ?_ rfl rfl)
    | dsimp only)

theorem portReset_keeps {s0 s : State} (h : Keeps s0 s) (n : Nat) : Keeps s0 (portReset s n) := by
  unfold portReset
  try dsimp only
  repeat (first
    | with_reducible assumption
    | with_reducible apply setSp_keeps
    | with_reducible apply dropReqs_keeps
    | dsimp only)

theorem sliceReset_keeps {s0 s : State} (h : Keeps s0 s) (k : Nat) : Keeps s0 (sliceReset s k) := by
  unfold sliceReset
  try dsimp only
  repeat (first
    | with_reducible assumption
    | with_reducible apply dropReqs_keeps
    | fail_if_no_progress (with_reducible refine Keeps.mk ?_ rfl rfl)
    | dsimp only
    | split)

theorem bandReset_keeps {s0 s : State} (h : Keeps s0 s)  : Keeps s0 (bandReset s) := by
  unfold bandReset
  try dsimp only
  repeat (first
    | with_reducible assumption
    | with_reducible apply dropReqs_keeps
    | fail_if_no_progress (with_reducible refine Keeps.mk ?_ rfl rfl)
    | dsimp only)

theorem gateReset_keeps {s0 s : State} (h : Keeps s0 s) : Keeps s0 (gateReset s) :=
  (dropReqs_keeps h (fun m => decide (m.dst = .gate))).trans ⟨rfl, rfl, id, bounded_filter (fun _ => false) rfl rfl rfl (List.filter_false _).symm⟩

theorem seqReset_keeps {s0 s : State} (h : Keeps s0 s)  : Keeps s0 (seqReset s) := by
  unfold seqReset
  try dsimp only
  repeat (first
    | with_reducible assumption
    | with_reducible apply Keeps.ite
    | fail_if_no_progress (with_reducible refine Keeps.mk ?_ rfl rfl)
    | dsimp only
    | split)

theorem pergolaReset_keeps {s0 s : State} (h : Keeps s0 s)  : Keeps s0 (pergolaReset s) := by
  unfold pergolaReset
  try dsimp only
  repeat (first
    | with_reducible assumption
    | fail_if_no_progress (with_reducible refine Keeps.mk ?_ rfl rfl)
    | dsimp only)

theorem unitReset_keeps {s0 s : State} (h : Keeps s0 s) (d : Nat) : Keeps s0 (unitReset s d) := by
  unfold unitReset
  try dsimp only
  repeat (first
    | with_reducible assumption
    | with_reducible apply setTile_keeps
    | with_reducible apply coreReset_keeps
    | with_reducible apply spadReset_keeps
    | with_reducible apply routerReset_keeps
    | with_reducible apply portReset_keeps
    | with_reducible apply sliceReset_keeps
    | with_reducible apply bandReset_keeps
    | with_reducible apply gateReset_keeps
    | with_reducible apply seqReset_keeps
    | with_reducible apply pergolaReset_keeps
    | fail_if_no_progress (with_reducible refine Keeps.mk ?_ rfl rfl)
    | dsimp only
    | split)

theorem setPll_keeps {s0 s : State} (h : Keeps s0 s) (p : Nat) (x : Pll) : Keeps s0 (State.setPll s p x) := by
  unfold State.setPll
  try dsimp only
  repeat (first
    | with_reducible assumption
    | fail_if_no_progress (with_reducible refine Keeps.mk ?_ rfl rfl)
    | dsimp only)

theorem startLock_keeps {s0 s : State} (h : Keeps s0 s) (p : Nat) : Keeps s0 (startLock s p) := by
  unfold startLock
  try dsimp only
  repeat (first
    | with_reducible assumption
    | with_reducible apply setPll_keeps
    | with_reducible apply Keeps.ite
    | fail_if_no_progress (with_reducible refine Keeps.mk ?_ rfl rfl)
    | dsimp only
    | split)

theorem forceLock_keeps {s0 s : State} (h : Keeps s0 s) (p : Nat) : Keeps s0 (forceLock s p) := by
  unfold forceLock
  try dsimp only
  repeat (first
    | with_reducible assumption
    | with_reducible apply startLock_keeps
    | fail_if_no_progress (with_reducible refine Keeps.mk ?_ rfl rfl)
    | dsimp only)

theorem pllGo_keeps {s0 s : State} (h : Keeps s0 s) (p : Nat) : Keeps s0 (pllGo s p) := by
  unfold pllGo
  try dsimp only
  repeat (first
    | with_reducible assumption
    | with_reducible apply setPll_keeps
    | with_reducible apply startLock_keeps
    | with_reducible apply Keeps.ite
    | fail_if_no_progress (with_reducible refine Keeps.mk ?_ rfl rfl)
    | dsimp only
    | split)

theorem endCmd_keeps {s0 s : State} (h : Keeps s0 s) (result : Nat) : Keeps s0 (endCmd s result) := by
  unfold endCmd
  try dsimp only
  repeat (first
    | with_reducible assumption
    | fail_if_no_progress (with_reducible refine Keeps.mk ?_ rfl rfl)
    | dsimp only)

theorem doneCmd_keeps {s0 s : State} (h : Keeps s0 s) (d result : Nat) : Keeps s0 (doneCmd s d result) := by
  unfold doneCmd
  try dsimp only
  repeat (first
    | with_reducible assumption
    | with_reducible apply endCmd_keeps
    | with_reducible apply Keeps.ite
    | dsimp only
    | split)

theorem startUp_keeps {s0 s : State} (h : Keeps s0 s) (d : Nat) : Keeps s0 (startUp s d) := by
  unfold startUp
  try dsimp only
  repeat (first
    | with_reducible assumption
    | with_reducible apply setDom_keeps
    | with_reducible apply Keeps.ite
    | fail_if_no_progress (with_reducible refine Keeps.mk ?_ rfl rfl)
    | dsimp only
    | split)

theorem quiesceCore_keeps {s0 s : State} (h : Keeps s0 s) (t : Nat) : Keeps s0 (quiesceCore s t) := by
  unfold quiesceCore
  try dsimp only
  repeat (first
    | with_reducible assumption
    | with_reducible apply setTile_keeps
    | with_reducible apply completeLost_keeps
    | fail_if_no_progress (with_reducible refine Keeps.mk ?_ rfl rfl)
    | dsimp only)

theorem startDown_keeps {s0 s : State} (h : Keeps s0 s) (d : Nat) (ret : Bool) : Keeps s0 (startDown s d ret) := by
  unfold startDown
  try dsimp only
  repeat (first
    | with_reducible assumption
    | with_reducible apply setDom_keeps
    | with_reducible apply drain_keeps
    | with_reducible apply quiesceCore_keeps
    | fail_if_no_progress (with_reducible refine Keeps.mk ?_ rfl rfl)
    | dsimp only
    | split)

theorem domReset_keeps {s0 s : State} (h : Keeps s0 s) (d : Nat) : Keeps s0 (domReset s d) := by
  unfold domReset
  try dsimp only
  repeat (first
    | with_reducible assumption
    | with_reducible apply setDom_keeps
    | with_reducible apply unitReset_keeps
    | with_reducible apply forceLock_keeps
    | with_reducible apply Keeps.ite
    | fail_if_no_progress (with_reducible refine Keeps.mk ?_ rfl rfl)
    | dsimp only
    | split)

theorem leafReset_keeps {s0 s : State} (h : Keeps s0 s) (l : Nat) : Keeps s0 (leafReset s l) := by
  unfold leafReset
  try dsimp only
  repeat (first
    | with_reducible assumption
    | with_reducible apply domReset_keeps
    | with_reducible refine Keeps.foldl ?_ (fun u a hu => ?_)
    | dsimp only)

theorem dropArray_keeps {s0 s : State} (h : Keeps s0 s) (d : Nat) : Keeps s0 (dropArray s d) := by
  unfold dropArray
  try dsimp only
  repeat (first
    | with_reducible assumption
    | with_reducible apply spadErase_keeps
    | fail_if_no_progress (with_reducible refine Keeps.mk ?_ rfl rfl)
    | dsimp only
    | split)

theorem pllDown_keeps {s0 s : State} (h : Keeps s0 s) (d : Nat) : Keeps s0 (pllDown s d) := by
  unfold pllDown
  try dsimp only
  repeat (first
    | with_reducible assumption
    | with_reducible apply setPll_keeps
    | fail_if_no_progress (with_reducible refine Keeps.mk ?_ rfl rfl)
    | dsimp only
    | split)

theorem enterOff_keeps {s0 s : State} (h : Keeps s0 s) (d : Nat) : Keeps s0 (enterOff s d) := by
  unfold enterOff
  try dsimp only
  repeat (first
    | with_reducible assumption
    | with_reducible apply setDom_keeps
    | with_reducible apply dropArray_keeps
    | with_reducible apply pllDown_keeps
    | fail_if_no_progress (with_reducible refine Keeps.mk ?_ rfl rfl)
    | dsimp only)

theorem guarded_keeps {s0 s : State} (h : Keeps s0 s) (op d : Nat) {k : State → State}
    (hk : ∀ u, Keeps s0 u → Keeps s0 (k u)) : Keeps s0 (guarded s op d k) := by
  unfold guarded
  split
  · exact endCmd_keeps h _
  · split
    · exact endCmd_keeps h _
    · exact hk s h

theorem ackDown_keeps {s0 s : State} (h : Keeps s0 s) (d : Nat) : Keeps s0 (ackDown s d) := by
  unfold ackDown
  try dsimp only
  repeat (first
    | with_reducible assumption
    | with_reducible apply setDom_keeps
    | with_reducible apply doneCmd_keeps
    | with_reducible apply startUp_keeps
    | with_reducible apply dropArray_keeps
    | with_reducible apply enterOff_keeps
    | with_reducible apply Keeps.ite
    | fail_if_no_progress (with_reducible refine Keeps.mk ?_ rfl rfl)
    | dsimp only
    | split)

theorem awaitFall_keeps {s0 s : State} (h : Keeps s0 s) (d : Nat) (up : Bool) : Keeps s0 (awaitFall s d up) := by
  unfold awaitFall
  try dsimp only
  repeat (first
    | with_reducible assumption
    | with_reducible apply setDom_keeps
    | with_reducible apply ackDown_keeps
    | with_reducible apply Keeps.ite
    | fail_if_no_progress (with_reducible refine Keeps.mk ?_ rfl rfl)
    | dsimp only
    | split)

theorem takeCmd_keeps {s0 s : State} (h : Keeps s0 s)  : Keeps s0 (takeCmd s) := by
  unfold takeCmd
  try dsimp only
  repeat (first
    | with_reducible assumption
    | with_reducible apply endCmd_keeps
    | with_reducible apply startUp_keeps
    | with_reducible apply startDown_keeps
    | with_reducible apply domReset_keeps
    | with_reducible apply enterOff_keeps
    | with_reducible apply guarded_keeps
    | with_reducible apply awaitFall_keeps
    | with_reducible apply Keeps.ite
    | fail_if_no_progress (with_reducible refine Keeps.mk ?_ rfl rfl)
    | dsimp only
    | split
    | fail_if_no_progress intros)

theorem wakeCmd_keeps {s0 s : State} (h : Keeps s0 s) (d : Nat) : Keeps s0 (wakeCmd s d) := by
  unfold wakeCmd
  try dsimp only
  repeat (first
    | with_reducible assumption
    | with_reducible apply takeCmd_keeps
    | with_reducible apply Keeps.ite
    | dsimp only
    | split)

theorem pwrWrite_keeps {s0 s : State} (h : Keeps s0 s) (v : Word) : Keeps s0 (pwrWrite s v) := by
  unfold pwrWrite
  try dsimp only
  repeat (first
    | with_reducible assumption
    | with_reducible apply endCmd_keeps
    | with_reducible apply takeCmd_keeps
    | with_reducible apply Keeps.ite
    | fail_if_no_progress (with_reducible refine Keeps.mk ?_ rfl rfl)
    | dsimp only
    | split)

theorem quiesceAckStep_keeps {s0 s : State} (h : Keeps s0 s) (d : Nat) : Keeps s0 (quiesceAckStep s d) := by
  unfold quiesceAckStep
  try dsimp only
  repeat (first
    | with_reducible assumption
    | with_reducible apply setDom_keeps
    | with_reducible apply setSp_keeps
    | with_reducible apply drain_keeps
    | with_reducible apply Keeps.ite
    | fail_if_no_progress (with_reducible refine Keeps.mk ?_ rfl rfl)
    | dsimp only
    | split)

theorem confirmStep_keeps {s0 s : State} (h : Keeps s0 s) (d : Nat) : Keeps s0 (confirmStep s d) := by
  unfold confirmStep
  try dsimp only
  repeat (first
    | with_reducible assumption
    | with_reducible apply setDom_keeps
    | with_reducible apply Keeps.ite
    | fail_if_no_progress (with_reducible refine Keeps.mk ?_ rfl rfl)
    | dsimp only
    | split)

theorem quiesceTimeoutStep_keeps {s0 s : State} (h : Keeps s0 s) (d : Nat) : Keeps s0 (quiesceTimeoutStep s d) := by
  unfold quiesceTimeoutStep
  try dsimp only
  repeat (first
    | with_reducible assumption
    | with_reducible apply setDom_keeps
    | with_reducible apply klog_keeps
    | with_reducible apply drain_keeps
    | with_reducible apply doneCmd_keeps
    | with_reducible apply Keeps.ite
    | fail_if_no_progress (with_reducible refine Keeps.mk ?_ rfl rfl)
    | dsimp only
    | split)

theorem sealEntry_keeps {s0 s : State} (h : Keeps s0 s) (image : Bool) (g reg : Nat) (isPair : Bool) (old new oldHi newHi : Word) : Keeps s0 (sealEntry s image g reg isPair old new oldHi newHi) := by
  unfold sealEntry
  try dsimp only
  repeat (first
    | with_reducible assumption
    | fail_if_no_progress (with_reducible refine Keeps.mk ?_ rfl rfl)
    | dsimp only)

theorem logImage_keeps {s0 s : State} (h : Keeps s0 s)  : Keeps s0 (logImage s) := by
  unfold logImage
  try dsimp only
  repeat (first
    | with_reducible assumption
    | with_reducible apply sealEntry_keeps
    | with_reducible refine Keeps.foldl ?_ (fun u a hu => ?_)
    | with_reducible refine Keeps.foldl_fst ?_ (fun q a hq => ?_)
    | dsimp only)

theorem seqOn_keeps {s0 s : State} (h : Keeps s0 s) (b : Boot) : Keeps s0 (seqOn s b) := by
  unfold seqOn
  try dsimp only
  repeat (first
    | with_reducible assumption
    | fail_if_no_progress (with_reducible refine Keeps.mk ?_ rfl rfl)
    | dsimp only)

theorem bootFail_keeps {s0 s : State} (h : Keeps s0 s) (err sect : Nat) (off : Word) : Keeps s0 (bootFail s err sect off) := by
  unfold bootFail
  try dsimp only
  repeat (first
    | with_reducible assumption
    | with_reducible apply logImage_keeps
    | fail_if_no_progress (with_reducible refine Keeps.mk ?_ rfl rfl)
    | dsimp only)

theorem bootNext_keeps {s0 s : State} (h : Keeps s0 s) (d : Nat) : Keeps s0 (bootNext s d) := by
  unfold bootNext
  try dsimp only
  repeat (first
    | with_reducible assumption
    | with_reducible apply startUp_keeps
    | with_reducible apply Keeps.ite
    | fail_if_no_progress (with_reducible refine Keeps.mk ?_ rfl rfl)
    | dsimp only
    | split)

theorem bootPlls_keeps {s0 s : State} (h : Keeps s0 s)  : Keeps s0 (bootPlls s) := by
  unfold bootPlls
  try dsimp only
  repeat (first
    | with_reducible assumption
    | with_reducible apply startLock_keeps
    | with_reducible apply Keeps.ite
    | with_reducible refine Keeps.foldl ?_ (fun u a hu => ?_)
    | fail_if_no_progress (with_reducible refine Keeps.mk ?_ rfl rfl)
    | dsimp only
    | split)

theorem bootLocked_keeps {s0 s : State} (h : Keeps s0 s)  : Keeps s0 (bootLocked s) := by
  unfold bootLocked
  try dsimp only
  repeat (first
    | with_reducible assumption
    | with_reducible apply seqOn_keeps
    | with_reducible apply Keeps.ite
    | fail_if_no_progress (with_reducible refine Keeps.mk ?_ rfl rfl)
    | dsimp only
    | split)

theorem ackFell_keeps {s0 s : State} (h : Keeps s0 s) (d : Nat) : Keeps s0 (ackFell s d) := by
  unfold ackFell
  try dsimp only
  repeat (first
    | with_reducible assumption
    | with_reducible apply ackDown_keeps
    | with_reducible apply wakeCmd_keeps
    | dsimp only)

theorem ackRose_keeps {s0 s : State} (h : Keeps s0 s) (d : Nat) : Keeps s0 (ackRose s d) := by
  unfold ackRose
  try dsimp only
  repeat (first
    | with_reducible assumption
    | with_reducible apply setDom_keeps
    | with_reducible apply forceLock_keeps
    | with_reducible apply bootNext_keeps
    | fail_if_no_progress (with_reducible refine Keeps.mk ?_ rfl rfl)
    | dsimp only
    | split)

theorem pwAckStep_keeps {s0 s : State} (h : Keeps s0 s) (d : Nat) (level : Bool) : Keeps s0 (pwAckStep s d level) := by
  unfold pwAckStep
  try dsimp only
  repeat (first
    | with_reducible assumption
    | with_reducible apply setDom_keeps
    | with_reducible apply ackFell_keeps
    | with_reducible apply ackRose_keeps
    | with_reducible apply Keeps.ite
    | fail_if_no_progress (with_reducible refine Keeps.mk ?_ rfl rfl)
    | dsimp only
    | split)

theorem ackTimeoutStep_keeps {s0 s : State} (h : Keeps s0 s) (d : Nat) : Keeps s0 (ackTimeoutStep s d) := by
  unfold ackTimeoutStep
  try dsimp only
  repeat (first
    | with_reducible assumption
    | with_reducible apply setDom_keeps
    | with_reducible apply klog_keeps
    | with_reducible apply doneCmd_keeps
    | with_reducible apply wakeCmd_keeps
    | with_reducible apply Keeps.ite
    | fail_if_no_progress (with_reducible refine Keeps.mk ?_ rfl rfl)
    | dsimp only
    | split)

theorem releaseStepDom_keeps {s0 s : State} (h : Keeps s0 s) (d : Nat) : Keeps s0 (releaseStepDom s d) := by
  unfold releaseStepDom
  try dsimp only
  repeat (first
    | with_reducible assumption
    | with_reducible apply setDom_keeps
    | with_reducible apply unitReset_keeps
    | with_reducible apply doneCmd_keeps
    | with_reducible apply wakeCmd_keeps
    | with_reducible apply bootPlls_keeps
    | with_reducible apply Keeps.ite
    | fail_if_no_progress (with_reducible refine Keeps.mk ?_ rfl rfl)
    | dsimp only
    | split)

theorem resetReleaseStep_keeps {s0 s : State} (h : Keeps s0 s) (d : Nat) : Keeps s0 (resetReleaseStep s d) := by
  unfold resetReleaseStep
  try dsimp only
  repeat (first
    | with_reducible assumption
    | with_reducible apply setDom_keeps
    | with_reducible apply doneCmd_keeps
    | with_reducible apply wakeCmd_keeps
    | with_reducible apply Keeps.ite
    | fail_if_no_progress (with_reducible refine Keeps.mk ?_ rfl rfl)
    | dsimp only
    | split)

theorem lockStep_keeps {s0 s : State} (h : Keeps s0 s) (p : Nat) : Keeps s0 (lockStep s p) := by
  unfold lockStep
  try dsimp only
  repeat (first
    | with_reducible assumption
    | with_reducible apply setDom_keeps
    | with_reducible apply setPll_keeps
    | with_reducible apply bootLocked_keeps
    | with_reducible apply Keeps.ite
    | fail_if_no_progress (with_reducible refine Keeps.mk ?_ rfl rfl)
    | dsimp only
    | split)

theorem lockfailStep_keeps {s0 s : State} (h : Keeps s0 s) (p : Nat) : Keeps s0 (lockfailStep s p) := by
  unfold lockfailStep
  try dsimp only
  repeat (first
    | with_reducible assumption
    | with_reducible apply klog_keeps
    | with_reducible apply setPll_keeps
    | with_reducible apply Keeps.ite
    | fail_if_no_progress (with_reducible refine Keeps.mk ?_ rfl rfl)
    | dsimp only
    | split)

theorem monReport_keeps {s0 s : State} (h : Keeps s0 s) (k n : Nat) (stop : Bool) : Keeps s0 (monReport s k n stop) := by
  unfold monReport
  try dsimp only
  repeat (first
    | with_reducible assumption
    | with_reducible apply raise_keeps
    | with_reducible apply klog_keeps
    | with_reducible apply Keeps.ite
    | fail_if_no_progress (with_reducible refine Keeps.mk ?_ rfl rfl)
    | dsimp only
    | split)

theorem monAction_keeps {s0 s : State} (h : Keeps s0 s) (k : Nat) : Keeps s0 (monAction s k) := by
  unfold monAction
  try dsimp only
  repeat (first
    | with_reducible assumption
    | with_reducible apply leafReset_keeps
    | with_reducible apply Keeps.ite
    | fail_if_no_progress (with_reducible refine Keeps.mk ?_ rfl rfl)
    | dsimp only
    | split)

theorem monitorStep_keeps {s0 s : State} (h : Keeps s0 s) (k count : Nat) : Keeps s0 (monitorStep s k count) := by
  unfold monitorStep
  try dsimp only
  repeat (first
    | with_reducible assumption
    | with_reducible apply monReport_keeps
    | with_reducible apply monAction_keeps
    | with_reducible apply Keeps.ite
    | fail_if_no_progress (with_reducible refine Keeps.mk ?_ rfl rfl)
    | dsimp only
    | split)

/-! ## Keeper -/

theorem endStreams_keeps {s0 : State} (t code : Nat) : ∀ (ns : List Nat) {s : State}, Keeps s0 s →
    Keeps s0 (endStreams t code ns s)
  | [], _, h => h
  | n :: ns, _, h => endStreams_keeps t code ns (killStream_keeps h t n code)

theorem endUnderIssue_keeps {s0 s : State} (h : Keeps s0 s) (t : Nat) (src : Source) : Keeps s0 (endUnderIssue s t src) := by
  unfold endUnderIssue
  try dsimp only
  repeat (first
    | with_reducible assumption
    | with_reducible apply failIssue_keeps
    | with_reducible apply popHead_keeps
    | fail_if_no_progress (with_reducible refine Keeps.mk ?_ rfl rfl)
    | dsimp only
    | split)

theorem lockstepStep_keeps {s0 s : State} (h : Keeps s0 s) (t : Nat) (recent : BitVec 8) (under : Option Source) : Keeps s0 (lockstepStep s t recent under) := by
  unfold lockstepStep
  try dsimp only
  repeat (first
    | with_reducible assumption
    | with_reducible apply setTile_keeps
    | with_reducible apply klog_keeps
    | with_reducible apply stopProgram_keeps
    | with_reducible apply progFault_keeps
    | with_reducible apply endStreams_keeps
    | with_reducible apply endUnderIssue_keeps
    | with_reducible apply Keeps.ite
    | with_reducible apply Keeps.ite_fst
    | fail_if_no_progress (with_reducible refine Keeps.mk ?_ rfl rfl)
    | dsimp only
    | split)

theorem setFails_keeps {s0 s : State} (h : Keeps s0 s) (p : Point) (k : Nat) : Keeps s0 (setFails s p k) := by
  unfold setFails
  try dsimp only
  repeat (first
    | with_reducible assumption
    | with_reducible apply Keeps.ite
    | with_reducible apply Keeps.ite_fst
    | fail_if_no_progress (with_reducible refine Keeps.mk ?_ rfl rfl)
    | dsimp only
    | split)

theorem failLink_keeps {s0 s : State} (h : Keeps s0 s) (p : Point) (r : Nat) : Keeps s0 (failLink s p r) := by
  unfold failLink
  try dsimp only
  repeat (first
    | with_reducible assumption
    | with_reducible apply klog_keeps
    | with_reducible apply setFails_keeps
    | fail_if_no_progress (with_reducible refine Keeps.mk ?_ rfl rfl)
    | dsimp only)

theorem resendStep_keeps {s0 s : State} (h : Keeps s0 s) (p : Point) (good : Bool) : Keeps s0 (resendStep s p good) := by
  unfold resendStep
  try dsimp only
  repeat (first
    | with_reducible assumption
    | with_reducible apply klog_keeps
    | with_reducible apply setFails_keeps
    | with_reducible apply failLink_keeps
    | with_reducible apply Keeps.ite
    | fail_if_no_progress (with_reducible refine Keeps.mk ?_ rfl rfl)
    | dsimp only
    | split)

theorem scrubBad_keeps {s0 s : State} (h : Keeps s0 s) (l : ScrubLoc) : Keeps s0 (scrubBad s l) := by
  unfold scrubBad
  try dsimp only
  repeat (first
    | with_reducible assumption
    | with_reducible apply setTile_keeps
    | with_reducible apply klog_keeps
    | with_reducible apply setSp_keeps
    | with_reducible apply loseCtx_keeps
    | with_reducible apply abortStream_keeps
    | with_reducible apply poisonAt_keeps
    | with_reducible apply replay_keeps
    | with_reducible apply loseWatch_keeps
    | with_reducible apply poisonCnt_keeps
    | with_reducible apply Keeps.ite
    | with_reducible apply Keeps.ite_fst
    | fail_if_no_progress (with_reducible refine Keeps.mk ?_ rfl rfl)
    | dsimp only
    | split)

theorem scrubStep_keeps {s0 s : State} (h : Keeps s0 s) (l : ScrubLoc) (ecc : Ecc) : Keeps s0 (scrubStep s l ecc) := by
  unfold scrubStep
  try dsimp only
  repeat (first
    | with_reducible assumption
    | with_reducible apply klog_keeps
    | with_reducible apply scrubBad_keeps
    | with_reducible apply Keeps.ite
    | with_reducible apply Keeps.ite_fst
    | fail_if_no_progress (with_reducible refine Keeps.mk ?_ rfl rfl)
    | dsimp only
    | split)

theorem scrublateStep_keeps {s0 s : State} (h : Keeps s0 s)  : Keeps s0 (scrublateStep s) := by
  unfold scrublateStep
  try dsimp only
  repeat (first
    | with_reducible assumption
    | with_reducible apply Keeps.ite
    | fail_if_no_progress (with_reducible refine Keeps.mk ?_ rfl rfl)
    | dsimp only
    | split)

theorem setWd_keeps {s0 s : State} (h : Keeps s0 s) (i : Nat) (x : Wd) : Keeps s0 (State.setWd s i x) := by
  unfold State.setWd
  try dsimp only
  repeat (first
    | with_reducible assumption
    | fail_if_no_progress (with_reducible refine Keeps.mk ?_ rfl rfl)
    | dsimp only)

theorem tickStep_keeps {s0 s : State} (h : Keeps s0 s)  : Keeps s0 (tickStep s) := by
  unfold tickStep
  try dsimp only
  repeat (first
    | with_reducible assumption
    | with_reducible apply Keeps.ite
    | with_reducible apply Keeps.ite_fst
    | fail_if_no_progress (with_reducible refine Keeps.mk ?_ rfl rfl)
    | dsimp only
    | split)

theorem wdCfgWrite_keeps {s0 s : State} (h : Keeps s0 s) (i : Nat) (v : Word) : Keeps s0 (wdCfgWrite s i v) := by
  unfold wdCfgWrite
  try dsimp only
  repeat (first
    | with_reducible assumption
    | with_reducible apply setWd_keeps
    | with_reducible apply Keeps.ite
    | fail_if_no_progress (with_reducible refine Keeps.mk ?_ rfl rfl)
    | dsimp only
    | split)

theorem abortSource_keeps {s0 s : State} (h : Keeps s0 s) (t : Nat) (src : Source) : Keeps s0 (abortSource s t src) := by
  unfold abortSource
  try dsimp only
  repeat (first
    | with_reducible assumption
    | with_reducible apply setTile_keeps
    | with_reducible apply clearHold_keeps
    | with_reducible apply withdrawHold_keeps
    | with_reducible apply failIssue_keeps
    | with_reducible apply finishSimple_keeps
    | with_reducible apply popHead_keeps
    | with_reducible apply killStream_keeps
    | with_reducible apply Keeps.ite
    | fail_if_no_progress (with_reducible refine Keeps.mk ?_ rfl rfl)
    | dsimp only
    | split)

theorem forgoTag_keeps {s0 s : State} (h : Keeps s0 s) (g : TagSt) : Keeps s0 (forgoTag s g) := by
  unfold forgoTag
  try dsimp only
  repeat (first
    | with_reducible assumption
    | with_reducible apply setStream_keeps
    | fail_if_no_progress (with_reducible refine Keeps.mk ?_ rfl rfl)
    | dsimp only
    | split
    | assumption)

theorem abortPort_keeps {s0 s : State} (h : Keeps s0 s) (n : Nat) : Keeps s0 (abortPort s n) := by
  unfold abortPort
  try dsimp only
  repeat (first
    | with_reducible assumption
    | with_reducible apply setSp_keeps
    | with_reducible apply killStream_keeps
    | with_reducible apply forgoTag_keeps
    | with_reducible apply Keeps.ite
    | with_reducible apply Keeps.ite_fst
    | with_reducible refine Keeps.foldl ?_ (fun u a hu => ?_)
    | with_reducible refine Keeps.foldl_fst ?_ (fun q a hq => ?_)
    | fail_if_no_progress (with_reducible refine Keeps.mk ?_ rfl rfl)
    | dsimp only
    | split)

theorem ringLeaves_keeps {s0 s : State} (h : Keeps s0 s) (q t : Nat) (src : Source) (k : Nat) : Keeps s0 (ringLeaves s q t src k) := by
  unfold ringLeaves
  try dsimp only
  repeat (first
    | with_reducible assumption
    | with_reducible apply setTile_keeps
    | with_reducible apply freeStream_keeps
    | with_reducible apply clearHold_keeps
    | with_reducible apply withdrawConds_keeps
    | with_reducible apply withdrawHold_keeps
    | with_reducible apply Keeps.ite
    | with_reducible apply Keeps.ite_fst
    | with_reducible refine Keeps.foldl ?_ (fun u a hu => ?_)
    | with_reducible refine Keeps.foldl_fst ?_ (fun q a hq => ?_)
    | fail_if_no_progress (with_reducible refine Keeps.mk ?_ rfl rfl)
    | dsimp only
    | split)

theorem abortRing_keeps {s0 s : State} (h : Keeps s0 s) (q : Nat) : Keeps s0 (abortRing s q) := by
  unfold abortRing
  try dsimp only
  repeat (first
    | with_reducible assumption
    | with_reducible apply judgeLost_keeps
    | with_reducible apply completeWith_keeps
    | with_reducible apply ringLeaves_keeps
    | dsimp only)

theorem abortTarget_keeps {s0 s : State} (h : Keeps s0 s) (w : Wd) : Keeps s0 (abortTarget s w) := by
  unfold abortTarget
  try dsimp only
  repeat (first
    | with_reducible assumption
    | with_reducible apply killStream_keeps
    | with_reducible apply abortSource_keeps
    | with_reducible apply abortPort_keeps
    | with_reducible apply abortRing_keeps
    | fail_if_no_progress (with_reducible refine Keeps.mk ?_ rfl rfl)
    | dsimp only
    | split)

theorem resetTarget_keeps {s0 s : State} (h : Keeps s0 s) (w : Wd) : Keeps s0 (resetTarget s w) := by
  unfold resetTarget
  try dsimp only
  repeat (first
    | with_reducible assumption
    | with_reducible apply domReset_keeps
    | with_reducible apply Keeps.ite
    | fail_if_no_progress (with_reducible refine Keeps.mk ?_ rfl rfl)
    | dsimp only
    | split)

theorem fireWd_keeps {s0 s : State} (h : Keeps s0 s) (i : Nat) (w : Wd) : Keeps s0 (fireWd s i w) := by
  unfold fireWd
  try dsimp only
  repeat (first
    | with_reducible assumption
    | with_reducible apply raise_keeps
    | with_reducible apply klog_keeps
    | with_reducible apply setWd_keeps
    | with_reducible apply abortTarget_keeps
    | with_reducible apply resetTarget_keeps
    | with_reducible apply Keeps.ite
    | fail_if_no_progress (with_reducible refine Keeps.mk ?_ rfl rfl)
    | dsimp only
    | split)

theorem watchdogStep_keeps {s0 s : State} (h : Keeps s0 s) (i : Nat) : Keeps s0 (watchdogStep s i) := by
  unfold watchdogStep
  try dsimp only
  repeat (first
    | with_reducible assumption
    | with_reducible apply fireWd_keeps
    | with_reducible apply Keeps.ite
    | dsimp only
    | split)

/-! ## Regs -/

theorem hwCmdWrite_keeps {s0 s : State} (h : Keeps s0 s) (d : Word) : Keeps s0 (hwCmdWrite s d) := by
  unfold hwCmdWrite
  try dsimp only
  repeat (first
    | with_reducible assumption
    | with_reducible apply hwGo_keeps
    | with_reducible apply hwCancel_keeps
    | with_reducible apply Keeps.ite
    | fail_if_no_progress (with_reducible refine Keeps.mk ?_ rfl rfl)
    | dsimp only
    | split)

theorem pllCtrlWrite_keeps {s0 s : State} (h : Keeps s0 s) (p : Nat) (d : Word) : Keeps s0 (pllCtrlWrite s p d) := by
  unfold pllCtrlWrite
  try dsimp only
  repeat (first
    | with_reducible assumption
    | with_reducible apply setPll_keeps
    | with_reducible apply pllGo_keeps
    | with_reducible apply Keeps.ite
    | fail_if_no_progress (with_reducible refine Keeps.mk ?_ rfl rfl)
    | dsimp only
    | split)

theorem feedWord_keeps {s0 s : State} (h : Keeps s0 s) (d : Word) : Keeps s0 (feedWord s d) := by
  unfold feedWord
  try dsimp only
  repeat (first
    | with_reducible assumption
    | with_reducible apply seqOn_keeps
    | with_reducible apply Keeps.ite
    | fail_if_no_progress (with_reducible refine Keeps.mk ?_ rfl rfl)
    | dsimp only
    | split)

theorem ringLocked_keeps {s0 s : State} (h : Keeps s0 s) (q : Nat) (f : Ring → Ring) : Keeps s0 (ringLocked s q f) := by
  unfold ringLocked
  try dsimp only
  repeat (first
    | with_reducible assumption
    | with_reducible apply setRing_keeps
    | with_reducible apply ghCfgErr_keeps
    | with_reducible apply Keeps.ite
    | dsimp only
    | split)

theorem setVec_keeps {s0 s : State} (h : Keeps s0 s) (v : Nat) (f : Vec → Vec) : Keeps s0 (setVec s v f) := by
  unfold setVec
  try dsimp only
  repeat (first
    | with_reducible assumption
    | fail_if_no_progress (with_reducible refine Keeps.mk ?_ rfl rfl)
    | dsimp only)

theorem writeReg_keeps {s0 s : State} (h : Keeps s0 s) (r : CpReg) (d : Word) : Keeps s0 (writeReg s r d).1 := by
  unfold writeReg
  try dsimp only
  repeat (first
    | with_reducible assumption
    | with_reducible apply setTile_keeps
    | with_reducible apply setDom_keeps
    | with_reducible apply setRing_keeps
    | with_reducible apply judgeWindows_keeps
    | with_reducible apply setSp_keeps
    | with_reducible apply starve_keeps
    | with_reducible apply ldValueOp_keeps
    | with_reducible apply ldAddOp_keeps
    | with_reducible apply ldCfgOp_keeps
    | with_reducible apply ldCtxOp_keeps
    | with_reducible apply ldXvalueOp_keeps
    | with_reducible apply ldXaddOp_keeps
    | with_reducible apply bsCfgOp_keeps
    | with_reducible apply bsArriveOp_keeps
    | with_reducible apply bsResetOp_keeps
    | with_reducible apply ringEnableOp_keeps
    | with_reducible apply prodOp_keeps
    | with_reducible apply setPll_keeps
    | with_reducible apply pwrWrite_keeps
    | with_reducible apply setWd_keeps
    | with_reducible apply wdCfgWrite_keeps
    | with_reducible apply hwCmdWrite_keeps
    | with_reducible apply pllCtrlWrite_keeps
    | with_reducible apply feedWord_keeps
    | with_reducible apply ringLocked_keeps
    | with_reducible apply setVec_keeps
    | with_reducible apply Keeps.ite
    | with_reducible apply Keeps.ite_fst
    | fail_if_no_progress (with_reducible refine Keeps.mk ?_ rfl rfl)
    | dsimp only
    | split)

theorem lockedWrite_keeps {s0 s : State} (h : Keeps s0 s) (r : CpReg) : Keeps s0 (lockedWrite s r) := by
  unfold lockedWrite
  split
  · exact ghCfgErr_keeps h _
  · exact ghCfgErr_keeps h _
  · exact h

theorem writePair_keeps {s0 s : State} (h : Keeps s0 s) (r : CpReg) (v : DWord) : Keeps s0 (writePair s r v) := by
  unfold writePair
  try dsimp only
  repeat (first
    | with_reducible assumption
    | with_reducible apply setTile_keeps
    | with_reducible apply setRing_keeps
    | with_reducible apply setVec_keeps
    | fail_if_no_progress (with_reducible refine Keeps.mk ?_ rfl rfl)
    | dsimp only
    | split)

theorem holdHi_keeps {s0 s : State} (h : Keeps s0 s) (a : Nat) (d : Word) : Keeps s0 (holdHi s a d) := by
  unfold holdHi
  try dsimp only
  repeat (first
    | with_reducible assumption
    | fail_if_no_progress (with_reducible refine Keeps.mk ?_ rfl rfl)
    | dsimp only)

theorem dropHi_keeps {s0 s : State} (h : Keeps s0 s) (a : Nat) : Keeps s0 (dropHi s a) := by
  unfold dropHi
  try dsimp only
  repeat (first
    | with_reducible assumption
    | fail_if_no_progress (with_reducible refine Keeps.mk ?_ rfl rfl)
    | dsimp only)

theorem pairWrite_keeps {s0 s : State} (h : Keeps s0 s) (a : Nat) (r : CpReg) (hi : Bool) (d : Word) : Keeps s0 (pairWrite s a r hi d) := by
  unfold pairWrite
  try dsimp only
  repeat (first
    | with_reducible assumption
    | with_reducible apply lockedWrite_keeps
    | with_reducible apply writePair_keeps
    | with_reducible apply holdHi_keeps
    | with_reducible apply dropHi_keeps
    | with_reducible apply Keeps.ite
    | dsimp only
    | split)

theorem setSealed_keeps {s0 s : State} (h : Keeps s0 s) (r : CpReg) (d hi : Word) : Keeps s0 (setSealed s r d hi) := by
  unfold setSealed
  try dsimp only
  repeat (first
    | with_reducible assumption
    | fail_if_no_progress (with_reducible refine Keeps.mk ?_ rfl rfl)
    | dsimp only
    | split)

/-- What setting a sealed register can do: it writes the always-on registers, but not their counts, and the pergola. -/
theorem setSealed_cases (s : State) (r : CpReg) (d hi : Word) (P : State → Prop)
    (h : ∀ x p, x.used = s.always.used → P { s with always := x, pg := p }) : P (setSealed s r d hi) := by
  unfold setSealed
  dsimp only
  split
  all_goals exact h _ _ rfl

@[simp] theorem setSealed_used (s : State) (r : CpReg) (d hi : Word) : (setSealed s r d hi).always.used = s.always.used :=
  setSealed_cases s r d hi (fun u => u.always.used = s.always.used) fun _ _ e => e

/-- One more change of a group that has had fewer than three. -/
theorem bounded_change {s u : State} (g : Nat) (hn : u.keeper.next = s.keeper.next) (hc : u.keeper.count = s.keeper.count)
    (hu : u.always.used = Tab.set s.always.used 0 g (Tab.get s.always.used 0 g + 1)) (hp : u.gate.placed = s.gate.placed)
    (hr : Tab.get s.always.used 0 g < 3) (h : Bounded s) : Bounded u := by
  obtain ⟨a, b, c, d⟩ := h
  refine ⟨hn ▸ a, hc ▸ b, fun k => ?_, fun t k => ?_⟩
  · rw [hu, Tab.get_set]
    split
    · omega
    · exact c k
  · simpa only [seatsTaken, hp] using d t k

theorem hostChange_keeps {s0 s : State} (h : Keeps s0 s) (a : Nat) (r : CpReg) (g : Nat) (d : Word)
    (hr : Tab.get s.always.used 0 g < 3) : Keeps s0 (hostChange s a r g d) := by
  unfold hostChange
  dsimp only
  split
  · refine sealEntry_keeps ?_ _ _ _ _ _ _ _ _
    refine (dropHi_keeps (setSealed_keeps h r _ _) _).trans ⟨rfl, rfl, id, bounded_change g rfl rfl rfl rfl ?_⟩
    simpa [dropHi] using hr
  · refine sealEntry_keeps ?_ _ _ _ _ _ _ _ _
    refine (setSealed_keeps h r _ _).trans ⟨rfl, rfl, id, bounded_change g rfl rfl rfl rfl ?_⟩
    simpa using hr

theorem refuseChange_keeps {s0 s : State} (h : Keeps s0 s) (a g : Nat) (isPair : Bool) : Keeps s0 (refuseChange s a g isPair) := by
  unfold refuseChange
  try dsimp only
  repeat (first
    | with_reducible assumption
    | with_reducible apply raise_keeps
    | with_reducible apply dropHi_keeps
    | with_reducible apply Keeps.ite
    | fail_if_no_progress (with_reducible refine Keeps.mk ?_ rfl rfl)
    | dsimp only
    | split)

theorem sealWrite_keeps {s0 s : State} (h : Keeps s0 s) (a : Nat) (r : CpReg) (g : Nat) (d : Word) (image : Bool) :
    Keeps s0 (sealWrite s a r g d image) := by
  unfold sealWrite
  refine Keeps.ite (raise_keeps h _ _ _ _ _) (Keeps.ite (holdHi_keeps h a d) (Keeps.ite h (Keeps.ite ?_ ?_)))
  · dsimp only
    split
    · exact dropHi_keeps (setSealed_keeps h r _ _) _
    · exact setSealed_keeps h r _ _
  · split
    · exact refuseChange_keeps h a g _
    · rename_i hr
      exact hostChange_keeps h a r g d (by omega)

theorem wordWrite_keeps {s0 s : State} (h : Keeps s0 s) (a : Nat) (r : CpReg) (d : Word) (image : Bool) : Keeps s0 (wordWrite s a r d image).1 := by
  unfold wordWrite
  try dsimp only
  repeat (first
    | with_reducible assumption
    | with_reducible apply writeReg_keeps
    | with_reducible apply pairWrite_keeps
    | with_reducible apply sealWrite_keeps
    | with_reducible apply Keeps.ite
    | with_reducible apply Keeps.ite_fst
    | fail_if_no_progress (with_reducible refine Keeps.mk ?_ rfl rfl)
    | dsimp only
    | split)

theorem regWrite_keeps {s0 s : State} (h : Keeps s0 s) (a : Nat) (r : CpReg) (d : Word) (strb : BitVec 4) (image : Bool) : Keeps s0 (regWrite s a r d strb image).1 := by
  unfold regWrite
  try dsimp only
  repeat (first
    | with_reducible assumption
    | with_reducible apply setTile_keeps
    | with_reducible apply wordWrite_keeps
    | with_reducible apply Keeps.ite
    | with_reducible apply Keeps.ite_fst
    | fail_if_no_progress (with_reducible refine Keeps.mk ?_ rfl rfl)
    | dsimp only
    | split)

theorem cpWrite_keeps {s0 s : State} (h : Keeps s0 s) (a : Nat) (d : Word) (strb : BitVec 4) (image : Bool) : Keeps s0 (cpWrite s a d strb image).1 := by
  unfold cpWrite
  try dsimp only
  repeat (first
    | with_reducible assumption
    | with_reducible apply regWrite_keeps
    | with_reducible apply Keeps.ite
    | with_reducible apply Keeps.ite_fst
    | fail_if_no_progress (with_reducible refine Keeps.mk ?_ rfl rfl)
    | dsimp only
    | split)

theorem markRead_keeps {s0 s : State} (h : Keeps s0 s) (j : Nat) : Keeps s0 (markRead s j) := by
  unfold markRead
  try dsimp only
  repeat (first
    | with_reducible assumption
    | fail_if_no_progress (with_reducible refine Keeps.mk ?_ rfl rfl)
    | dsimp only)

theorem regRead_keeps {s0 s : State} (h : Keeps s0 s) (a : Nat) (r : CpReg) : Keeps s0 (regRead s a r).1 := by
  unfold regRead
  try dsimp only
  repeat (first
    | with_reducible assumption
    | with_reducible apply ldAtomOp_keeps
    | with_reducible apply markRead_keeps
    | fail_if_no_progress (with_reducible refine Keeps.mk ?_ rfl rfl)
    | dsimp only
    | split)

theorem cpRead_keeps {s0 s : State} (h : Keeps s0 s) (a : Nat) : Keeps s0 (cpRead s a).1 := by
  unfold cpRead
  try dsimp only
  repeat (first
    | with_reducible assumption
    | with_reducible apply regRead_keeps
    | with_reducible apply Keeps.ite
    | with_reducible apply Keeps.ite_fst
    | fail_if_no_progress (with_reducible refine Keeps.mk ?_ rfl rfl)
    | dsimp only
    | split)

theorem hostWrite_keeps {s0 s : State} (h : Keeps s0 s) (a : Nat) (d : Word) (strb : BitVec 4) : Keeps s0 (hostWrite s a d strb) := by
  unfold hostWrite
  try dsimp only
  repeat (first
    | with_reducible assumption
    | with_reducible apply cpWrite_keeps
    | with_reducible apply Keeps.ite
    | with_reducible apply Keeps.ite_fst
    | fail_if_no_progress (with_reducible refine Keeps.mk ?_ rfl rfl)
    | dsimp only
    | split)

theorem hostRead_keeps {s0 s : State} (h : Keeps s0 s) (a : Nat) : Keeps s0 (hostRead s a) := by
  unfold hostRead
  try dsimp only
  repeat (first
    | with_reducible assumption
    | with_reducible apply cpRead_keeps
    | with_reducible apply Keeps.ite
    | with_reducible apply Keeps.ite_fst
    | fail_if_no_progress (with_reducible refine Keeps.mk ?_ rfl rfl)
    | dsimp only
    | split)

theorem hostAccess_keeps {s0 s : State} (h : Keeps s0 s) (a : CpAccess) : Keeps s0 (hostAccess s a) := by
  cases a
  · exact hostWrite_keeps h _ _ _
  · exact hostRead_keeps h _

theorem portOn_keeps {s0 s : State} (old : State) (h : Keeps s0 s) : Keeps s0 (portOn old s) := by
  unfold portOn
  split
  · exact Keeps.foldl (h.upd rfl rfl rfl rfl) (fun _ a hu => hostAccess_keeps hu a)
  · exact h

/-! ## Boot -/

theorem bounded_resetOf (g : GenConfig) (p : List Instr) (c : CtlPort) :
    Bounded { State.resetOf g with pending := p, cp := c } := by
  exact ⟨Nat.zero_lt_succ 63, Nat.zero_le 64, fun _ => Nat.zero_le 3, fun _ _ => Nat.zero_le 4⟩

theorem rstStep_keeps {s0 s : State} (h : Keeps s0 s) : Keeps s0 (rstStep s) :=
  h.trans ⟨rfl, rfl, fun _ => rfl, fun _ => bounded_resetOf s.gen s.pending _⟩

theorem bootStartStep_keeps {s0 s : State} (h : Keeps s0 s) (hostfeed : Bool) : Keeps s0 (bootStartStep s hostfeed) := by
  unfold bootStartStep
  try dsimp only
  repeat (first
    | with_reducible assumption
    | with_reducible apply startUp_keeps
    | with_reducible apply Keeps.ite
    | fail_if_no_progress (with_reducible refine Keeps.mk ?_ rfl rfl)
    | dsimp only
    | split)

theorem issueSpi_keeps {s0 s : State} (h : Keeps s0 s) (c : SpiCmd) : Keeps s0 (issueSpi s c) := by
  unfold issueSpi
  try dsimp only
  repeat (first
    | with_reducible assumption
    | with_reducible apply Keeps.ite
    | fail_if_no_progress (with_reducible refine Keeps.mk ?_ rfl rfl)
    | dsimp only
    | split)

theorem discoveryStep_keeps {s0 s : State} (h : Keeps s0 s) (sig : Word) (bfpt : List Word) : Keeps s0 (discoveryStep s sig bfpt) := by
  unfold discoveryStep
  try dsimp only
  repeat (first
    | with_reducible assumption
    | with_reducible apply present_keeps
    | with_reducible apply issueSpi_keeps
    | with_reducible apply Keeps.ite
    | with_reducible refine Keeps.foldl ?_ (fun u a hu => ?_)
    | fail_if_no_progress (with_reducible refine Keeps.mk ?_ rfl rfl)
    | dsimp only
    | split)

theorem bootTimeoutStep_keeps {s0 s : State} (h : Keeps s0 s)  : Keeps s0 (bootTimeoutStep s) := by
  unfold bootTimeoutStep
  try dsimp only
  repeat (first
    | with_reducible assumption
    | with_reducible apply bootFail_keeps
    | with_reducible apply Keeps.ite
    | fail_if_no_progress (with_reducible refine Keeps.mk ?_ rfl rfl)
    | dsimp only
    | split)

theorem headerTake_keeps {s0 s : State} (h : Keeps s0 s) (ws : List Word) : Keeps s0 (headerTake s ws) := by
  unfold headerTake
  try dsimp only
  repeat (first
    | with_reducible assumption
    | with_reducible apply seqOn_keeps
    | with_reducible apply issueSpi_keeps
    | with_reducible apply Keeps.ite
    | with_reducible refine Keeps.foldl ?_ (fun u a hu => ?_)
    | fail_if_no_progress (with_reducible refine Keeps.mk ?_ rfl rfl)
    | dsimp only
    | split)

theorem headerStep_keeps {s0 s : State} (h : Keeps s0 s) (ws : List Word) : Keeps s0 (headerStep s ws) := by
  unfold headerStep
  try dsimp only
  repeat (first
    | with_reducible assumption
    | with_reducible apply bootFail_keeps
    | with_reducible apply issueSpi_keeps
    | with_reducible apply headerTake_keeps
    | with_reducible apply Keeps.ite
    | fail_if_no_progress (with_reducible refine Keeps.mk ?_ rfl rfl)
    | dsimp only
    | split)

theorem sectionStep_keeps {s0 s : State} (h : Keeps s0 s) (ty : Nat) (ws : List Word)
    {f : State → List Word → State} (hf : ∀ u l, Keeps s0 u → Keeps s0 (f u l)) : Keeps s0 (sectionStep s ty ws f) := by
  unfold sectionStep
  dsimp only
  split
  · split
    · exact bootFail_keeps (issueSpi_keeps h _) _ _ _
    · exact hf _ _ ((issueSpi_keeps h _).upd rfl rfl rfl rfl)
  · exact h

theorem sectionDone_keeps {s0 s : State} (h : Keeps s0 s) (len : Nat) : Keeps s0 (sectionDone s len) := by
  unfold sectionDone
  try dsimp only
  repeat (first
    | with_reducible assumption
    | with_reducible apply seqOn_keeps
    | fail_if_no_progress (with_reducible refine Keeps.mk ?_ rfl rfl)
    | dsimp only)

theorem writeRun_keeps {s0 : State} : ∀ (ws : List Word) {s : State} (a : Nat), Keeps s0 s → Keeps s0 (writeRun s a ws)
  | [], _, _, h => h
  | w :: ws, _, a, h => writeRun_keeps ws (a + 4) (cpWrite_keeps h a w 15 true)

theorem takeList_keeps {s0 s : State} (h : Keeps s0 s) (ws : List Word) : Keeps s0 (takeList s ws) := by
  unfold takeList
  try dsimp only
  repeat (first
    | with_reducible assumption
    | with_reducible apply sectionDone_keeps
    | fail_if_no_progress (with_reducible refine Keeps.mk ?_ rfl rfl)
    | dsimp only
    | split)

theorem regsStep_keeps {s0 s : State} (h : Keeps s0 s) (ws : List Word) : Keeps s0 (regsStep s ws) := by
  unfold regsStep
  try dsimp only
  repeat (first
    | with_reducible assumption
    | with_reducible apply sectionStep_keeps
    | with_reducible apply takeList_keeps
    | dsimp only
    | fail_if_no_progress intros)

theorem progStep_keeps {s0 s : State} (h : Keeps s0 s) (ws : List Word) : Keeps s0 (progStep s ws) := by
  unfold progStep
  try dsimp only
  repeat (first
    | with_reducible assumption
    | with_reducible apply sectionStep_keeps
    | with_reducible apply sectionDone_keeps
    | with_reducible apply writeRun_keeps
    | dsimp only
    | fail_if_no_progress intros)

theorem descStep_keeps {s0 s : State} (h : Keeps s0 s) (ws : List Word) : Keeps s0 (descStep s ws) := by
  unfold descStep
  try dsimp only
  repeat (first
    | with_reducible assumption
    | with_reducible apply sectionStep_keeps
    | with_reducible apply sectionDone_keeps
    | with_reducible apply writeRun_keeps
    | fail_if_no_progress (with_reducible refine Keeps.mk ?_ rfl rfl)
    | dsimp only
    | split
    | fail_if_no_progress intros)

theorem ctxStep_keeps {s0 s : State} (h : Keeps s0 s) (ws : List Word) : Keeps s0 (ctxStep s ws) := by
  unfold ctxStep
  try dsimp only
  repeat (first
    | with_reducible assumption
    | with_reducible apply sectionStep_keeps
    | with_reducible apply sectionDone_keeps
    | with_reducible apply writeRun_keeps
    | dsimp only
    | fail_if_no_progress intros)

theorem sealStep_keeps {s0 s : State} (h : Keeps s0 s) (ws : List Word) : Keeps s0 (sealStep s ws) := by
  unfold sealStep
  try dsimp only
  repeat (first
    | with_reducible assumption
    | with_reducible apply bootFail_keeps
    | with_reducible apply sectionStep_keeps
    | with_reducible apply takeList_keeps
    | fail_if_no_progress (with_reducible refine Keeps.mk ?_ rfl rfl)
    | dsimp only
    | split
    | fail_if_no_progress intros)

theorem startTile_keeps {s0 s : State} (h : Keeps s0 s) (p : Nat × Word) : Keeps s0 (startTile s p) := by
  unfold startTile
  try dsimp only
  repeat (first
    | with_reducible assumption
    | with_reducible apply cpWrite_keeps
    | dsimp only)

theorem startStep_keeps {s0 s : State} (h : Keeps s0 s) (ws : List Word) : Keeps s0 (startStep s ws) := by
  unfold startStep
  try dsimp only
  repeat (first
    | with_reducible assumption
    | with_reducible apply logImage_keeps
    | with_reducible apply sectionStep_keeps
    | with_reducible apply startTile_keeps
    | with_reducible refine Keeps.foldl ?_ (fun u a hu => ?_)
    | fail_if_no_progress (with_reducible refine Keeps.mk ?_ rfl rfl)
    | dsimp only
    | fail_if_no_progress intros)

theorem popEntry_keeps {s0 s : State} (h : Keeps s0 s)  : Keeps s0 (popEntry s) := by
  unfold popEntry
  try dsimp only
  repeat (first
    | with_reducible assumption
    | with_reducible apply seqOn_keeps
    | fail_if_no_progress (with_reducible refine Keeps.mk ?_ rfl rfl)
    | dsimp only
    | split)

theorem entryFail_keeps {s0 s : State} (h : Keeps s0 s) (e : BootEntry) : Keeps s0 (entryFail s e) := by
  unfold entryFail
  try dsimp only
  repeat (first
    | with_reducible assumption
    | with_reducible apply bootFail_keeps
    | dsimp only)

theorem writeEntry_keeps {s0 s : State} (h : Keeps s0 s)  : Keeps s0 (writeEntry s) := by
  unfold writeEntry
  try dsimp only
  repeat (first
    | with_reducible assumption
    | with_reducible apply cpWrite_keeps
    | with_reducible apply popEntry_keeps
    | with_reducible apply entryFail_keeps
    | with_reducible apply Keeps.ite
    | with_reducible apply Keeps.ite_fst
    | fail_if_no_progress (with_reducible refine Keeps.mk ?_ rfl rfl)
    | dsimp only
    | split)

theorem pollEntry_keeps {s0 s : State} (h : Keeps s0 s) (kind : Nat) (want : Bool) : Keeps s0 (pollEntry s kind want) := by
  unfold pollEntry
  try dsimp only
  repeat (first
    | with_reducible assumption
    | with_reducible apply cpRead_keeps
    | with_reducible apply popEntry_keeps
    | with_reducible apply entryFail_keeps
    | with_reducible apply Keeps.ite
    | with_reducible apply Keeps.ite_fst
    | fail_if_no_progress (with_reducible refine Keeps.mk ?_ rfl rfl)
    | dsimp only
    | split)

theorem delayEntry_keeps {s0 s : State} (h : Keeps s0 s)  : Keeps s0 (delayEntry s) := by
  unfold delayEntry
  try dsimp only
  repeat (first
    | with_reducible assumption
    | with_reducible apply popEntry_keeps
    | fail_if_no_progress (with_reducible refine Keeps.mk ?_ rfl rfl)
    | dsimp only
    | split)

end Sys2Proof.Laws
end

