-- ==== Sys2Proof/WellFormed.lean ====
section
/-! DEFINITION. Which commands name units that the generated configuration has. -/

namespace Sys2Proof

open Sys2Proof.Machine

/-- A source exists: the program, or ring source 1 to 8 (R310). -/
def Source.ok : Source → Bool
  | .prog => true
  | .ring k => decide (1 ≤ k) && decide (k ≤ 8)

/-- A tile number is below T (R16). -/
def tileOk (c : GenConfig) (t : Nat) : Bool := decide (t < GenConfig.T c)

/-- A stream number is 0 to 7 (R39). -/
def streamOk (n : Nat) : Bool := decide (n < 8)

/-- A router output that the pavilion has. -/
def Hop.ok (c : GenConfig) : Hop → Bool
  | .up => true
  | .tile t => tileOk c t
  | .pav p => decide (p < GenConfig.pavilions c)
  | .sysPort n => decide (n < GenConfig.sysPorts c)
  | .winPort l => decide (l < GenConfig.leaves c)
  | .root => true

/-- A contention point of the configuration (R293). -/
def Point.ok (c : GenConfig) : Point → Bool
  | .readIssue t => tileOk c t
  | .writeIssue t => tileOk c t
  | .datapath t => tileOk c t
  | .tileOut t => tileOk c t
  | .pavOut p o => decide (p < GenConfig.pavilions c) && Hop.ok c o
  | .bank t b => tileOk c t && decide (b < 16)
  | .sysPort n => decide (n < GenConfig.sysPorts c)
  | .winPort l => decide (l < GenConfig.leaves c)

/-- A word that the scrubber can visit (R418). -/
def ScrubLoc.ok (c : GenConfig) : ScrubLoc → Bool
  | .spad t u => tileOk c t && decide (8 * u < GenConfig.spadBytes c)
  | .staging t n => tileOk c t && streamOk n
  | .imem t w => tileOk c t && decide (w < 16384)
  | .tdt t w => tileOk c t && decide (w < 8192)
  | .odt t w => tileOk c t && decide (w < 2048)
  | .wpm t w => tileOk c t && decide (w < 4096)
  | .journal t n => tileOk c t && streamOk n
  | .counter _ => true
  | .watch _ => true
  | .ctx p _ => decide (p < GenConfig.leaves c)
  | .tlb n i => decide (n < GenConfig.sysPorts c) && decide (i < 256)
  | .passEnd => true

/-- The target of a LAUNCH exists. -/
def LaunchTarget.ok : LaunchTarget → Bool
  | .stream n => streamOk n
  | .source s => Source.ok s

/-- A late request names a port and tag, a tile and stream, or a ring, that exist. -/
def LateReq.ok (c : GenConfig) : LateReq → Bool
  | .tag n k => decide (n < GenConfig.sysPorts c) && decide (k < 1024)
  | .request t n _ => tileOk c t && streamOk n
  | .signal t n => tileOk c t && streamOk n
  | .gate q _ => decide (q < 256)

/-- The units a command names all exist in the configuration. Numbers of messages in flight, of accesses and of
completions are places in lists of the state and are not bounded here. -/
def Instr.wellFormed (c : GenConfig) : Instr → Bool
  | .instructionFetch t _ => tileOk c t
  | .move t s _ | .walk t s _ => tileOk c t && Source.ok s.it
  | .sig t s | .waitGe t s | .waitEq t s | .waitAcquire t s | .waitClaim t s | .fence t s | .bar t s
  | .add t s | .sub t s | .and t s | .or t s | .xor t s | .shl t s | .shr t s | .tdw t s | .odw t s
  | .rdtime t s | .jmp t s | .br t s | .halt t s | .nop t s => tileOk c t && Source.ok s.it
  | .fenceComplete t s | .resume t s | .abandon t s => tileOk c t && Source.ok s
  | .launch t g => tileOk c t && LaunchTarget.ok g
  | .retire t n => tileOk c t && streamOk n
  | .pendingSignal t _ => tileOk c t
  | .programHalted t | .run t _ | .stop t _ => tileOk c t
  | .tileMemoryWrite _ _ _ => true
  | .readRequest t _ | .writeRequest t _ => tileOk c t
  | .walkEnd t n _ _ | .emit t n _ _ | .addi t n _ _ | .adda t n _ _ | .ldi t n _ _ | .cset t n _ _ | .rep t n _ _
  | .repr t n _ _ | .idx t n _ _ | .scan t n _ _ => tileOk c t && streamOk n
  | .apply t | .layoutApplied t | .tileDatapath t => tileOk c t
  | .readResponse _ _ => true
  | .calibrationWindow t n | .signatureCompare t n _ | .lastFlitSend t n _ | .chunkCommit t ⟨n, _⟩ =>
    tileOk c t && streamOk n
  | .writeAcknowledgement _ | .bankWrite _ | .bankRead _ _ | .accApply _ | .discard _ => true
  | .signalApply _ _ | .watchRegistration _ | .watchDelivery _ | .watchWithdrawal _ => true
  | .watchRegistrationRetry t _ => tileOk c t
  | .timedSignal _ | .timerArm _ | .expressUpdate | .ldValue _ _ | .ldAdd _ _ | .ldAtom _ | .ldCfg _ _
  | .ldCtx _ _ _ | .ldXvalue _ _ | .ldXadd _ _ | .ldHwCmdGo _ | .ldHwCmdCancel _ => true
  | .barrierArrival _ | .releaseDelivery _ | .bsCfg _ _ | .bsArrive _ | .bsReset _ => true
  | .pgLoad _ | .timebaseLoad | .tbTodLoad _ | .tbFsync | .step | .slewAdjust | .fsmiss | .tbMismatch => true
  | .turnstileGrant p => Point.ok c p
  | .slackDecrement _ => true
  | .ringEnable _ | .prod _ _ | .ringFetch | .fetchResponse _ | .fetchRetry _ | .dispatch _
  | .entryReceipt _ | .completion _ _ | .ownWrite _ _ | .doneAdvance _ | .gatehouseRetry _
  | .messageWrite _ => true
  | .systemPortRequest n _ => decide (n < GenConfig.sysPorts c)
  | .translationAnswer n id _ _ _ _ => decide (n < GenConfig.sysPorts c) && decide (id < 64)
  | .systemPortResponse n tag _ _ data _ =>
    decide (n < GenConfig.sysPorts c) && decide (tag < 1024) && decide (data.length ≤ 128)
  | .responseTimeout r => LateReq.ok c r
  | .invalidation n _ _ _ | .invalidationComplete n => decide (n < GenConfig.sysPorts c)
  | .windowPortRequest l _ _ _ data => decide (l < GenConfig.leaves c) && decide (data.length ≤ 4096)
  | .registerWrite _ _ _ | .registerPairLoRead _ | .registerPairHiWrite _ _ | .registerPairLoWrite _ _ => true
  | .tlSrSeed t _ => tileOk c t
  | .ghCompat _ | .sealChange _ _ => true
  | .rstN | .bootStart _ | .discovery _ | .header _ | .bootTimeout | .ghBootFeed _ | .regs _
  | .progSection _ | .desc _ | .ctx _ | .seal _ | .start _ | .write | .pollset | .pollclr | .delay => true
  | .go p _ | .pllLock p | .lockfail p => decide (p < 2 + GenConfig.leaves c)
  | .monitorWindow k _ => decide (k < 6) || (decide (8 ≤ k) && decide (k < 8 + GenConfig.leaves c))
  | .up _ | .down _ | .retain _ | .reset _ => true
  | .quiesceAck d | .routerConfirmation d | .quiesceTimeout d | .pwAck d _ | .ackTimeout d
  | .isolationRelease d | .resetRelease d => decide (d < GenConfig.domains c)
  | .lockstepMismatch t _ u =>
    tileOk c t && (match u with | none => true | some s => Source.ok s)
  | .linkResend p _ => Point.ok c p
  | .scrubAccess l _ => ScrubLoc.ok c l
  | .scrublate | .watchdogTick | .watchdog _ | .faultLogRead _ | .tbTick => true
  | .signalAcknowledgement _ | .overrunAnswer _ | .retryLater _ => true

end Sys2Proof
end

