-- ==== Sys2Proof/Laws/PerInstr.lean ====
section
/-! SUPPORT. Statements made command by command: a command that names units of one configuration names units of every
configuration that has no fewer of each. -/

namespace Sys2Proof.Laws

open Sys2Proof Sys2Proof.Machine

/-- Configuration `d` has no fewer units of any kind than `c`. -/
structure Grows (c d : GenConfig) : Prop where
  tiles : GenConfig.T c ≤ GenConfig.T d
  pavs : GenConfig.pavilions c ≤ GenConfig.pavilions d
  leaves : GenConfig.leaves c ≤ GenConfig.leaves d
  ports : GenConfig.sysPorts c ≤ GenConfig.sysPorts d
  doms : GenConfig.domains c ≤ GenConfig.domains d
  bytes : GenConfig.spadBytes c ≤ GenConfig.spadBytes d

/-- More tiles of no smaller scratchpad bring no fewer units of any kind (R16, R32). -/
theorem grows_of_tiles (c d : GenConfig) (ht : GenConfig.T c ≤ GenConfig.T d)
    (hb : GenConfig.spadBytes c ≤ GenConfig.spadBytes d) : Grows c d := by
  have e : GenConfig.pavilions c ≤ GenConfig.pavilions d ∧ GenConfig.leaves c ≤ GenConfig.leaves d := by
    revert ht
    unfold GenConfig.pavilions GenConfig.leaves GenConfig.perLeaf GenConfig.T GenConfig.logT
    cases c.tiles <;> cases d.tiles <;> decide
  have p : GenConfig.sysPorts c ≤ GenConfig.sysPorts d := Nat.div_le_div_right ht
  exact ⟨ht, e.1, e.2, p, by unfold GenConfig.domains; omega, hb⟩

theorem tileOk_grows {c d : GenConfig} (h : Grows c d) {t : Nat} (a : tileOk c t = true) : tileOk d t = true := by
  have := h.tiles
  simp only [tileOk, decide_eq_true_eq] at *
  omega

theorem hopOk_grows {c d : GenConfig} (h : Grows c d) {o : Hop} (a : Hop.ok c o = true) : Hop.ok d o = true := by
  obtain ⟨h1, h2, h3, h4, _, _⟩ := h
  cases o <;> simp only [Hop.ok, tileOk, decide_eq_true_eq] at * <;> omega

theorem pointOk_grows {c d : GenConfig} (h : Grows c d) {p : Point} (a : Point.ok c p = true) : Point.ok d p = true := by
  have k := fun o => @hopOk_grows c d h o
  obtain ⟨h1, h2, h3, h4, _, _⟩ := h
  cases p <;> simp only [Point.ok, tileOk, Bool.and_eq_true, decide_eq_true_eq] at * <;>
    first | omega | exact ⟨by omega, k _ a.2⟩

theorem scrubOk_grows {c d : GenConfig} (h : Grows c d) {l : ScrubLoc} (a : ScrubLoc.ok c l = true) :
    ScrubLoc.ok d l = true := by
  obtain ⟨h1, _, _, h4, _, h6⟩ := h
  cases l <;> simp only [ScrubLoc.ok, tileOk, streamOk, Bool.and_eq_true, decide_eq_true_eq] at * <;> omega

theorem lateOk_grows {c d : GenConfig} (h : Grows c d) {r : LateReq} (a : LateReq.ok c r = true) :
    LateReq.ok d r = true := by
  obtain ⟨h1, _, _, h4, _, _⟩ := h
  cases r <;> simp only [LateReq.ok, tileOk, streamOk, Bool.and_eq_true, decide_eq_true_eq] at * <;> omega

/-- A command well formed in a configuration is well formed in every one that has no fewer units. -/
def Growth.Statement (i : Instr) : Prop :=
  ∀ c d : GenConfig, Grows c d → i.wellFormed c = true → i.wellFormed d = true

/-- A conjunction whose first part carries to a larger configuration carries with it. -/
theorem and_grows {p p' q : Bool} (f : p = true → p' = true) (a : (p && q) = true) : (p' && q) = true := by
  cases p <;> simp_all

theorem lt_grows {n a b : Nat} (h : a ≤ b) (x : decide (n < a) = true) : decide (n < b) = true := by
  simp only [decide_eq_true_eq] at *
  omega

theorem Growth.instructionFetch (t : Nat) (ecc : Ecc) : Growth.Statement (.instructionFetch t ecc) := fun _ _ h a => tileOk_grows h a

theorem Growth.move (t : Nat) (src : Checked Source) (ecc : Ecc) : Growth.Statement (.move t src ecc) := fun _ _ h a => and_grows (tileOk_grows h) a

theorem Growth.walk (t : Nat) (src : Checked Source) (ecc : Ecc) : Growth.Statement (.walk t src ecc) := fun _ _ h a => and_grows (tileOk_grows h) a

theorem Growth.sig (t : Nat) (src : Checked Source) : Growth.Statement (.sig t src) := fun _ _ h a => and_grows (tileOk_grows h) a

theorem Growth.waitGe (t : Nat) (src : Checked Source) : Growth.Statement (.waitGe t src) := fun _ _ h a => and_grows (tileOk_grows h) a

theorem Growth.waitEq (t : Nat) (src : Checked Source) : Growth.Statement (.waitEq t src) := fun _ _ h a => and_grows (tileOk_grows h) a

theorem Growth.waitAcquire (t : Nat) (src : Checked Source) : Growth.Statement (.waitAcquire t src) := fun _ _ h a => and_grows (tileOk_grows h) a

theorem Growth.waitClaim (t : Nat) (src : Checked Source) : Growth.Statement (.waitClaim t src) := fun _ _ h a => and_grows (tileOk_grows h) a

theorem Growth.fence (t : Nat) (src : Checked Source) : Growth.Statement (.fence t src) := fun _ _ h a => and_grows (tileOk_grows h) a

theorem Growth.fenceComplete (t : Nat) (src : Source) : Growth.Statement (.fenceComplete t src) := fun _ _ h a => and_grows (tileOk_grows h) a

theorem Growth.bar (t : Nat) (src : Checked Source) : Growth.Statement (.bar t src) := fun _ _ h a => and_grows (tileOk_grows h) a

theorem Growth.add (t : Nat) (src : Checked Source) : Growth.Statement (.add t src) := fun _ _ h a => and_grows (tileOk_grows h) a

theorem Growth.sub (t : Nat) (src : Checked Source) : Growth.Statement (.sub t src) := fun _ _ h a => and_grows (tileOk_grows h) a

theorem Growth.and (t : Nat) (src : Checked Source) : Growth.Statement (.and t src) := fun _ _ h a => and_grows (tileOk_grows h) a

theorem Growth.or (t : Nat) (src : Checked Source) : Growth.Statement (.or t src) := fun _ _ h a => and_grows (tileOk_grows h) a

theorem Growth.xor (t : Nat) (src : Checked Source) : Growth.Statement (.xor t src) := fun _ _ h a => and_grows (tileOk_grows h) a

theorem Growth.shl (t : Nat) (src : Checked Source) : Growth.Statement (.shl t src) := fun _ _ h a => and_grows (tileOk_grows h) a

theorem Growth.shr (t : Nat) (src : Checked Source) : Growth.Statement (.shr t src) := fun _ _ h a => and_grows (tileOk_grows h) a

theorem Growth.tdw (t : Nat) (src : Checked Source) : Growth.Statement (.tdw t src) := fun _ _ h a => and_grows (tileOk_grows h) a

theorem Growth.odw (t : Nat) (src : Checked Source) : Growth.Statement (.odw t src) := fun _ _ h a => and_grows (tileOk_grows h) a

theorem Growth.rdtime (t : Nat) (src : Checked Source) : Growth.Statement (.rdtime t src) := fun _ _ h a => and_grows (tileOk_grows h) a

theorem Growth.jmp (t : Nat) (src : Checked Source) : Growth.Statement (.jmp t src) := fun _ _ h a => and_grows (tileOk_grows h) a

theorem Growth.br (t : Nat) (src : Checked Source) : Growth.Statement (.br t src) := fun _ _ h a => and_grows (tileOk_grows h) a

theorem Growth.halt (t : Nat) (src : Checked Source) : Growth.Statement (.halt t src) := fun _ _ h a => and_grows (tileOk_grows h) a

theorem Growth.nop (t : Nat) (src : Checked Source) : Growth.Statement (.nop t src) := fun _ _ h a => and_grows (tileOk_grows h) a

theorem Growth.resume (t : Nat) (src : Source) : Growth.Statement (.resume t src) := fun _ _ h a => and_grows (tileOk_grows h) a

theorem Growth.abandon (t : Nat) (src : Source) : Growth.Statement (.abandon t src) := fun _ _ h a => and_grows (tileOk_grows h) a

theorem Growth.launch (t : Nat) (target : LaunchTarget) : Growth.Statement (.launch t target) := fun _ _ h a => and_grows (tileOk_grows h) a

theorem Growth.retire (t n : Nat) : Growth.Statement (.retire t n) := fun _ _ h a => and_grows (tileOk_grows h) a

theorem Growth.pendingSignal (t : Nat) (ring : Bool) : Growth.Statement (.pendingSignal t ring) := fun _ _ h a => tileOk_grows h a

theorem Growth.programHalted (t : Nat) : Growth.Statement (.programHalted t) := fun _ _ h a => tileOk_grows h a

theorem Growth.run (t : Nat) (v : Word) : Growth.Statement (.run t v) := fun _ _ h a => tileOk_grows h a

theorem Growth.stop (t : Nat) (v : Word) : Growth.Statement (.stop t v) := fun _ _ h a => tileOk_grows h a

theorem Growth.tileMemoryWrite (a : BitVec 26) (d : Word) (strb : BitVec 4) : Growth.Statement (.tileMemoryWrite a d strb) := fun _ _ _ _ => rfl

theorem Growth.readRequest (t : Nat) (residueOk : Bool) : Growth.Statement (.readRequest t residueOk) := fun _ _ h a => tileOk_grows h a

theorem Growth.writeRequest (t : Nat) (residueOk : Bool) : Growth.Statement (.writeRequest t residueOk) := fun _ _ h a => tileOk_grows h a

theorem Growth.walkEnd (t n : Nat) (side : Side) (ecc : Ecc) : Growth.Statement (.walkEnd t n side ecc) := fun _ _ h a => and_grows (tileOk_grows h) a

theorem Growth.emit (t n : Nat) (side : Side) (ecc : Ecc) : Growth.Statement (.emit t n side ecc) := fun _ _ h a => and_grows (tileOk_grows h) a

theorem Growth.addi (t n : Nat) (side : Side) (ecc : Ecc) : Growth.Statement (.addi t n side ecc) := fun _ _ h a => and_grows (tileOk_grows h) a

theorem Growth.adda (t n : Nat) (side : Side) (ecc : Ecc) : Growth.Statement (.adda t n side ecc) := fun _ _ h a => and_grows (tileOk_grows h) a

theorem Growth.ldi (t n : Nat) (side : Side) (ecc : Ecc) : Growth.Statement (.ldi t n side ecc) := fun _ _ h a => and_grows (tileOk_grows h) a

theorem Growth.cset (t n : Nat) (side : Side) (ecc : Ecc) : Growth.Statement (.cset t n side ecc) := fun _ _ h a => and_grows (tileOk_grows h) a

theorem Growth.rep (t n : Nat) (side : Side) (ecc : Ecc) : Growth.Statement (.rep t n side ecc) := fun _ _ h a => and_grows (tileOk_grows h) a

theorem Growth.repr (t n : Nat) (side : Side) (ecc : Ecc) : Growth.Statement (.repr t n side ecc) := fun _ _ h a => and_grows (tileOk_grows h) a

theorem Growth.idx (t n : Nat) (side : Side) (ecc : WalkEcc) : Growth.Statement (.idx t n side ecc) := fun _ _ h a => and_grows (tileOk_grows h) a

theorem Growth.scan (t n : Nat) (side : Side) (ecc : WalkEcc) : Growth.Statement (.scan t n side ecc) := fun _ _ h a => and_grows (tileOk_grows h) a

theorem Growth.apply (t : Nat) : Growth.Statement (.apply t) := fun _ _ h a => tileOk_grows h a

theorem Growth.layoutApplied (t : Nat) : Growth.Statement (.layoutApplied t) := fun _ _ h a => tileOk_grows h a

theorem Growth.readResponse (i : Nat) (ecc : Ecc) : Growth.Statement (.readResponse i ecc) := fun _ _ _ _ => rfl

theorem Growth.tileDatapath (t : Nat) : Growth.Statement (.tileDatapath t) := fun _ _ h a => tileOk_grows h a

theorem Growth.calibrationWindow (t n : Nat) : Growth.Statement (.calibrationWindow t n) := fun _ _ h a => and_grows (tileOk_grows h) a

theorem Growth.signatureCompare (t n : Nat) (agree : Bool) : Growth.Statement (.signatureCompare t n agree) := fun _ _ h a => and_grows (tileOk_grows h) a

theorem Growth.writeAcknowledgement (i : Nat) : Growth.Statement (.writeAcknowledgement i) := fun _ _ _ _ => rfl

theorem Growth.lastFlitSend (t n : Nat) (check : FlitCheck) : Growth.Statement (.lastFlitSend t n check) := fun _ _ h a => and_grows (tileOk_grows h) a

theorem Growth.bankWrite (i : Checked Nat) : Growth.Statement (.bankWrite i) := fun _ _ _ _ => rfl

theorem Growth.bankRead (i : Nat) (ecc : Ecc) : Growth.Statement (.bankRead i ecc) := fun _ _ _ _ => rfl

theorem Growth.accApply (i : Checked Nat) : Growth.Statement (.accApply i) := fun _ _ _ _ => rfl

theorem Growth.discard (i : Nat) : Growth.Statement (.discard i) := fun _ _ _ _ => rfl

theorem Growth.chunkCommit (t : Nat) (n : Checked Nat) : Growth.Statement (.chunkCommit t n) := fun _ _ h a => and_grows (tileOk_grows h) a

theorem Growth.signalApply (i : Nat) (check : UpdCheck) : Growth.Statement (.signalApply i check) := fun _ _ _ _ => rfl

theorem Growth.watchRegistration (i : Updating Nat) : Growth.Statement (.watchRegistration i) := fun _ _ _ _ => rfl

theorem Growth.watchRegistrationRetry (t k : Nat) : Growth.Statement (.watchRegistrationRetry t k) := fun _ _ h a => tileOk_grows h a

theorem Growth.watchDelivery (i : Nat) : Growth.Statement (.watchDelivery i) := fun _ _ _ _ => rfl

theorem Growth.watchWithdrawal (i : Nat) : Growth.Statement (.watchWithdrawal i) := fun _ _ _ _ => rfl

theorem Growth.timedSignal (timer : Updating Nat) : Growth.Statement (.timedSignal timer) := fun _ _ _ _ => rfl

theorem Growth.timerArm (w : Updating (BitVec 12)) : Growth.Statement (.timerArm w) := fun _ _ _ _ => rfl

theorem Growth.expressUpdate : Growth.Statement (.expressUpdate) := fun _ _ _ _ => rfl

theorem Growth.ldValue (c : BitVec 14) (v : Word) : Growth.Statement (.ldValue c v) := fun _ _ _ _ => rfl

theorem Growth.ldAdd (c : Updating (BitVec 14)) (v : Word) : Growth.Statement (.ldAdd c v) := fun _ _ _ _ => rfl

theorem Growth.ldAtom (c : Checked (BitVec 14)) : Growth.Statement (.ldAtom c) := fun _ _ _ _ => rfl

theorem Growth.ldCfg (c : BitVec 14) (v : Word) : Growth.Statement (.ldCfg c v) := fun _ _ _ _ => rfl

theorem Growth.ldCtx (x : BitVec 8) (i : BitVec 6) (v : Word) : Growth.Statement (.ldCtx x i v) := fun _ _ _ _ => rfl

theorem Growth.ldXvalue (e : BitVec 8) (v : Word) : Growth.Statement (.ldXvalue e v) := fun _ _ _ _ => rfl

theorem Growth.ldXadd (e : BitVec 8) (v : Word) : Growth.Statement (.ldXadd e v) := fun _ _ _ _ => rfl

theorem Growth.ldHwCmdGo (v : Word) : Growth.Statement (.ldHwCmdGo v) := fun _ _ _ _ => rfl

theorem Growth.ldHwCmdCancel (v : Word) : Growth.Statement (.ldHwCmdCancel v) := fun _ _ _ _ => rfl

theorem Growth.barrierArrival (i : Nat) : Growth.Statement (.barrierArrival i) := fun _ _ _ _ => rfl

theorem Growth.releaseDelivery (i : Nat) : Growth.Statement (.releaseDelivery i) := fun _ _ _ _ => rfl

theorem Growth.bsCfg (b : BitVec 9) (v : Word) : Growth.Statement (.bsCfg b v) := fun _ _ _ _ => rfl

theorem Growth.bsArrive (v : Word) : Growth.Statement (.bsArrive v) := fun _ _ _ _ => rfl

theorem Growth.bsReset (v : Word) : Growth.Statement (.bsReset v) := fun _ _ _ _ => rfl

theorem Growth.pgLoad (v : Word) : Growth.Statement (.pgLoad v) := fun _ _ _ _ => rfl

theorem Growth.timebaseLoad : Growth.Statement (.timebaseLoad) := fun _ _ _ _ => rfl

theorem Growth.tbTodLoad (tod : DWord) : Growth.Statement (.tbTodLoad tod) := fun _ _ _ _ => rfl

theorem Growth.tbFsync : Growth.Statement (.tbFsync) := fun _ _ _ _ => rfl

theorem Growth.step : Growth.Statement (.step) := fun _ _ _ _ => rfl

theorem Growth.slewAdjust : Growth.Statement (.slewAdjust) := fun _ _ _ _ => rfl

theorem Growth.fsmiss : Growth.Statement (.fsmiss) := fun _ _ _ _ => rfl

theorem Growth.tbMismatch : Growth.Statement (.tbMismatch) := fun _ _ _ _ => rfl

theorem Growth.turnstileGrant (p : Point) : Growth.Statement (.turnstileGrant p) := fun _ _ h a => pointOk_grows h a

theorem Growth.slackDecrement (i : Nat) : Growth.Statement (.slackDecrement i) := fun _ _ _ _ => rfl

theorem Growth.ringEnable (q : BitVec 8) : Growth.Statement (.ringEnable q) := fun _ _ _ _ => rfl

theorem Growth.prod (q : BitVec 8) (v : Word) : Growth.Statement (.prod q v) := fun _ _ _ _ => rfl

theorem Growth.ringFetch : Growth.Statement (.ringFetch) := fun _ _ _ _ => rfl

theorem Growth.fetchResponse (q : Checked (BitVec 8)) : Growth.Statement (.fetchResponse q) := fun _ _ _ _ => rfl

theorem Growth.fetchRetry (q : BitVec 8) : Growth.Statement (.fetchRetry q) := fun _ _ _ _ => rfl

theorem Growth.dispatch (q : BitVec 8) : Growth.Statement (.dispatch q) := fun _ _ _ _ => rfl

theorem Growth.entryReceipt (i : Nat) : Growth.Statement (.entryReceipt i) := fun _ _ _ _ => rfl

theorem Growth.completion (q : BitVec 8) (k : Nat) : Growth.Statement (.completion q k) := fun _ _ _ _ => rfl

theorem Growth.ownWrite (q : BitVec 8) (k : Nat) : Growth.Statement (.ownWrite q k) := fun _ _ _ _ => rfl

theorem Growth.doneAdvance (q : BitVec 8) : Growth.Statement (.doneAdvance q) := fun _ _ _ _ => rfl

theorem Growth.gatehouseRetry (q : BitVec 8) : Growth.Statement (.gatehouseRetry q) := fun _ _ _ _ => rfl

theorem Growth.messageWrite (v : BitVec 6) : Growth.Statement (.messageWrite v) := fun _ _ _ _ => rfl

theorem Growth.systemPortRequest (n : Nat) (i : Checked Nat) : Growth.Statement (.systemPortRequest n i) := fun _ _ h a => lt_grows h.ports a

theorem Growth.translationAnswer (n id : Nat) (pa : BitVec 52) (size : BitVec 2) (perm : BitVec 2) (fault : Bool) : Growth.Statement (.translationAnswer n id pa size perm fault) := fun _ _ h a => and_grows (lt_grows h.ports) a

theorem Growth.systemPortResponse (n tag idx : Nat) (code : BitVec 3) (data : List Byte) (last : Bool) : Growth.Statement (.systemPortResponse n tag idx code data last) := fun _ _ h a => and_grows (and_grows (lt_grows h.ports)) a

theorem Growth.responseTimeout (r : LateReq) : Growth.Statement (.responseTimeout r) := fun _ _ h a => lateOk_grows h a

theorem Growth.invalidation (n : Nat) (all : Bool) (va : BitVec 52) (part : BitVec 3) : Growth.Statement (.invalidation n all va part) := fun _ _ h a => lt_grows h.ports a

theorem Growth.invalidationComplete (n : Nat) : Growth.Statement (.invalidationComplete n) := fun _ _ h a => lt_grows h.ports a

theorem Growth.windowPortRequest (l : Nat) (head : WpHead) (addr : DWord) (len : BitVec 12) (data : List Byte) : Growth.Statement (.windowPortRequest l head addr len data) := fun _ _ h a => and_grows (lt_grows h.leaves) a

theorem Growth.registerWrite (a : BitVec 26) (d : Word) (strb : BitVec 4) : Growth.Statement (.registerWrite a d strb) := fun _ _ _ _ => rfl

theorem Growth.registerPairLoRead (a : BitVec 26) : Growth.Statement (.registerPairLoRead a) := fun _ _ _ _ => rfl

theorem Growth.registerPairHiWrite (a : BitVec 26) (d : Word) : Growth.Statement (.registerPairHiWrite a d) := fun _ _ _ _ => rfl

theorem Growth.registerPairLoWrite (a : BitVec 26) (d : Word) : Growth.Statement (.registerPairLoWrite a d) := fun _ _ _ _ => rfl

theorem Growth.tlSrSeed (t : Nat) (d : Word) : Growth.Statement (.tlSrSeed t d) := fun _ _ h a => tileOk_grows h a

theorem Growth.ghCompat (d : Word) : Growth.Statement (.ghCompat d) := fun _ _ _ _ => rfl

theorem Growth.sealChange (a : BitVec 26) (d : Word) : Growth.Statement (.sealChange a d) := fun _ _ _ _ => rfl

theorem Growth.rstN : Growth.Statement (.rstN) := fun _ _ _ _ => rfl

theorem Growth.bootStart (hostfeed : Bool) : Growth.Statement (.bootStart hostfeed) := fun _ _ _ _ => rfl

theorem Growth.discovery (words : SfdpWords) : Growth.Statement (.discovery words) := fun _ _ _ _ => rfl

theorem Growth.header (ws : List Word) : Growth.Statement (.header ws) := fun _ _ _ _ => rfl

theorem Growth.bootTimeout : Growth.Statement (.bootTimeout) := fun _ _ _ _ => rfl

theorem Growth.ghBootFeed (w : Word) : Growth.Statement (.ghBootFeed w) := fun _ _ _ _ => rfl

theorem Growth.regs (ws : List Word) : Growth.Statement (.regs ws) := fun _ _ _ _ => rfl

theorem Growth.progSection (ws : List Word) : Growth.Statement (.progSection ws) := fun _ _ _ _ => rfl

theorem Growth.desc (ws : List Word) : Growth.Statement (.desc ws) := fun _ _ _ _ => rfl

theorem Growth.ctx (ws : List Word) : Growth.Statement (.ctx ws) := fun _ _ _ _ => rfl

theorem Growth.seal (ws : List Word) : Growth.Statement (.seal ws) := fun _ _ _ _ => rfl

theorem Growth.start (ws : List Word) : Growth.Statement (.start ws) := fun _ _ _ _ => rfl

theorem Growth.write : Growth.Statement (.write) := fun _ _ _ _ => rfl

theorem Growth.pollset : Growth.Statement (.pollset) := fun _ _ _ _ => rfl

theorem Growth.pollclr : Growth.Statement (.pollclr) := fun _ _ _ _ => rfl

theorem Growth.delay : Growth.Statement (.delay) := fun _ _ _ _ => rfl

theorem Growth.go (p : Nat) (v : Word) : Growth.Statement (.go p v) := fun _ _ h a => lt_grows (Nat.add_le_add_left h.leaves 2) a

theorem Growth.pllLock (p : Nat) : Growth.Statement (.pllLock p) := fun _ _ h a => lt_grows (Nat.add_le_add_left h.leaves 2) a

theorem Growth.lockfail (p : Nat) : Growth.Statement (.lockfail p) := fun _ _ h a => lt_grows (Nat.add_le_add_left h.leaves 2) a

theorem Growth.monitorWindow (k count : Nat) : Growth.Statement (.monitorWindow k count) := fun c d h (a : (decide (k < 6) || _) = true) => by
  have := h.leaves
  show (decide (k < 6) || (decide (8 ≤ k) && decide (k < 8 + GenConfig.leaves d))) = true
  simp only [Bool.or_eq_true, Bool.and_eq_true, decide_eq_true_eq] at *
  omega

theorem Growth.up (d : BitVec 8) : Growth.Statement (.up d) := fun _ _ _ _ => rfl

theorem Growth.down (d : BitVec 8) : Growth.Statement (.down d) := fun _ _ _ _ => rfl

theorem Growth.retain (d : BitVec 8) : Growth.Statement (.retain d) := fun _ _ _ _ => rfl

theorem Growth.reset (d : BitVec 8) : Growth.Statement (.reset d) := fun _ _ _ _ => rfl

theorem Growth.quiesceAck (d : Nat) : Growth.Statement (.quiesceAck d) := fun _ _ h a => lt_grows h.doms a

theorem Growth.routerConfirmation (d : Nat) : Growth.Statement (.routerConfirmation d) := fun _ _ h a => lt_grows h.doms a

theorem Growth.quiesceTimeout (d : Nat) : Growth.Statement (.quiesceTimeout d) := fun _ _ h a => lt_grows h.doms a

theorem Growth.pwAck (d : Nat) (level : Bool) : Growth.Statement (.pwAck d level) := fun _ _ h a => lt_grows h.doms a

theorem Growth.ackTimeout (d : Nat) : Growth.Statement (.ackTimeout d) := fun _ _ h a => lt_grows h.doms a

theorem Growth.isolationRelease (d : Nat) : Growth.Statement (.isolationRelease d) := fun _ _ h a => lt_grows h.doms a

theorem Growth.resetRelease (d : Nat) : Growth.Statement (.resetRelease d) := fun _ _ h a => lt_grows h.doms a

theorem Growth.lockstepMismatch (t : Nat) (recent : BitVec 8) (under : Option Source) : Growth.Statement (.lockstepMismatch t recent under) := fun _ _ h a => and_grows (tileOk_grows h) a

theorem Growth.linkResend (p : Point) (good : Bool) : Growth.Statement (.linkResend p good) := fun _ _ h a => pointOk_grows h a

theorem Growth.scrubAccess (loc : ScrubLoc) (ecc : Ecc) : Growth.Statement (.scrubAccess loc ecc) := fun _ _ h a => scrubOk_grows h a

theorem Growth.scrublate : Growth.Statement (.scrublate) := fun _ _ _ _ => rfl

theorem Growth.watchdogTick : Growth.Statement (.watchdogTick) := fun _ _ _ _ => rfl

theorem Growth.watchdog (i : BitVec 6) : Growth.Statement (.watchdog i) := fun _ _ _ _ => rfl

theorem Growth.faultLogRead (j : BitVec 6) : Growth.Statement (.faultLogRead j) := fun _ _ _ _ => rfl

theorem Growth.tbTick : Growth.Statement (.tbTick) := fun _ _ _ _ => rfl

theorem Growth.signalAcknowledgement (i : Nat) : Growth.Statement (.signalAcknowledgement i) := fun _ _ _ _ => rfl

theorem Growth.overrunAnswer (i : Nat) : Growth.Statement (.overrunAnswer i) := fun _ _ _ _ => rfl

theorem Growth.retryLater (i : Nat) : Growth.Statement (.retryLater i) := fun _ _ _ _ => rfl

end Sys2Proof.Laws
end

