-- ==== Sys2Proof/Laws/State.lean ====
section
/-! SUPPORT. What each field of the state is after each of its updates. -/

namespace Sys2Proof.Machine

/-! ## The fields that an update leaves -/

@[simp] theorem setTile_gen (s : State) (t : Nat) (x : Tile) : (s.setTile t x).gen = s.gen := rfl
@[simp] theorem setTile_always (s : State) (t : Nat) (x : Tile) : (s.setTile t x).always = s.always := rfl
@[simp] theorem setTile_boot (s : State) (t : Nat) (x : Tile) : (s.setTile t x).boot = s.boot := rfl
@[simp] theorem setTile_cp (s : State) (t : Nat) (x : Tile) : (s.setTile t x).cp = s.cp := rfl
@[simp] theorem setTile_gate (s : State) (t : Nat) (x : Tile) : (s.setTile t x).gate = s.gate := rfl
@[simp] theorem setTile_cpc (s : State) (t : Nat) (x : Tile) : (s.setTile t x).cpc = s.cpc := rfl
@[simp] theorem setTile_keeper (s : State) (t : Nat) (x : Tile) : (s.setTile t x).keeper = s.keeper := rfl
@[simp] theorem setTile_pg (s : State) (t : Nat) (x : Tile) : (s.setTile t x).pg = s.pg := rfl
@[simp] theorem setTile_turn (s : State) (t : Nat) (x : Tile) : (s.setTile t x).turn = s.turn := rfl
@[simp] theorem setTile_lodge (s : State) (t : Nat) (x : Tile) : (s.setTile t x).lodge = s.lodge := rfl
@[simp] theorem setTile_band (s : State) (t : Nat) (x : Tile) : (s.setTile t x).band = s.band := rfl
@[simp] theorem setTile_prom (s : State) (t : Nat) (x : Tile) : (s.setTile t x).prom = s.prom := rfl
@[simp] theorem setTile_spad (s : State) (t : Nat) (x : Tile) : (s.setTile t x).spad = s.spad := rfl
@[simp] theorem setTile_pending (s : State) (t : Nat) (x : Tile) : (s.setTile t x).pending = s.pending := rfl

@[simp] theorem setStream_gen (s : State) (t n : Nat) (x : Stream) : (s.setStream t n x).gen = s.gen := rfl
@[simp] theorem setStream_always (s : State) (t n : Nat) (x : Stream) : (s.setStream t n x).always = s.always := rfl
@[simp] theorem setStream_boot (s : State) (t n : Nat) (x : Stream) : (s.setStream t n x).boot = s.boot := rfl
@[simp] theorem setStream_cp (s : State) (t n : Nat) (x : Stream) : (s.setStream t n x).cp = s.cp := rfl
@[simp] theorem setStream_gate (s : State) (t n : Nat) (x : Stream) : (s.setStream t n x).gate = s.gate := rfl
@[simp] theorem setStream_cpc (s : State) (t n : Nat) (x : Stream) : (s.setStream t n x).cpc = s.cpc := rfl
@[simp] theorem setStream_keeper (s : State) (t n : Nat) (x : Stream) : (s.setStream t n x).keeper = s.keeper := rfl
@[simp] theorem setStream_pg (s : State) (t n : Nat) (x : Stream) : (s.setStream t n x).pg = s.pg := rfl
@[simp] theorem setStream_turn (s : State) (t n : Nat) (x : Stream) : (s.setStream t n x).turn = s.turn := rfl
@[simp] theorem setStream_lodge (s : State) (t n : Nat) (x : Stream) : (s.setStream t n x).lodge = s.lodge := rfl
@[simp] theorem setStream_band (s : State) (t n : Nat) (x : Stream) : (s.setStream t n x).band = s.band := rfl
@[simp] theorem setStream_prom (s : State) (t n : Nat) (x : Stream) : (s.setStream t n x).prom = s.prom := rfl
@[simp] theorem setStream_spad (s : State) (t n : Nat) (x : Stream) : (s.setStream t n x).spad = s.spad := rfl
@[simp] theorem setStream_pending (s : State) (t n : Nat) (x : Stream) :
    (s.setStream t n x).pending = s.pending := rfl

@[simp] theorem freeStream_gen (s : State) (t n : Nat) : (s.freeStream t n).gen = s.gen := rfl
@[simp] theorem freeStream_always (s : State) (t n : Nat) : (s.freeStream t n).always = s.always := rfl
@[simp] theorem freeStream_boot (s : State) (t n : Nat) : (s.freeStream t n).boot = s.boot := rfl
@[simp] theorem freeStream_cp (s : State) (t n : Nat) : (s.freeStream t n).cp = s.cp := rfl
@[simp] theorem freeStream_gate (s : State) (t n : Nat) : (s.freeStream t n).gate = s.gate := rfl
@[simp] theorem freeStream_cpc (s : State) (t n : Nat) : (s.freeStream t n).cpc = s.cpc := rfl
@[simp] theorem freeStream_keeper (s : State) (t n : Nat) : (s.freeStream t n).keeper = s.keeper := rfl
@[simp] theorem freeStream_pg (s : State) (t n : Nat) : (s.freeStream t n).pg = s.pg := rfl
@[simp] theorem freeStream_turn (s : State) (t n : Nat) : (s.freeStream t n).turn = s.turn := rfl
@[simp] theorem freeStream_lodge (s : State) (t n : Nat) : (s.freeStream t n).lodge = s.lodge := rfl
@[simp] theorem freeStream_band (s : State) (t n : Nat) : (s.freeStream t n).band = s.band := rfl
@[simp] theorem freeStream_prom (s : State) (t n : Nat) : (s.freeStream t n).prom = s.prom := rfl
@[simp] theorem freeStream_spad (s : State) (t n : Nat) : (s.freeStream t n).spad = s.spad := rfl
@[simp] theorem freeStream_pending (s : State) (t n : Nat) : (s.freeStream t n).pending = s.pending := rfl

@[simp] theorem setDom_gen (s : State) (d : Nat) (x : Dom) : (s.setDom d x).gen = s.gen := rfl
@[simp] theorem setDom_always (s : State) (d : Nat) (x : Dom) : (s.setDom d x).always = s.always := rfl
@[simp] theorem setDom_boot (s : State) (d : Nat) (x : Dom) : (s.setDom d x).boot = s.boot := rfl
@[simp] theorem setDom_cp (s : State) (d : Nat) (x : Dom) : (s.setDom d x).cp = s.cp := rfl
@[simp] theorem setDom_gate (s : State) (d : Nat) (x : Dom) : (s.setDom d x).gate = s.gate := rfl
@[simp] theorem setDom_keeper (s : State) (d : Nat) (x : Dom) : (s.setDom d x).keeper = s.keeper := rfl
@[simp] theorem setDom_pg (s : State) (d : Nat) (x : Dom) : (s.setDom d x).pg = s.pg := rfl
@[simp] theorem setDom_turn (s : State) (d : Nat) (x : Dom) : (s.setDom d x).turn = s.turn := rfl
@[simp] theorem setDom_lodge (s : State) (d : Nat) (x : Dom) : (s.setDom d x).lodge = s.lodge := rfl
@[simp] theorem setDom_band (s : State) (d : Nat) (x : Dom) : (s.setDom d x).band = s.band := rfl
@[simp] theorem setDom_prom (s : State) (d : Nat) (x : Dom) : (s.setDom d x).prom = s.prom := rfl
@[simp] theorem setDom_tiles (s : State) (d : Nat) (x : Dom) : (s.setDom d x).tiles = s.tiles := rfl
@[simp] theorem setDom_spad (s : State) (d : Nat) (x : Dom) : (s.setDom d x).spad = s.spad := rfl
@[simp] theorem setDom_pending (s : State) (d : Nat) (x : Dom) : (s.setDom d x).pending = s.pending := rfl

@[simp] theorem setRing_gen (s : State) (q : Nat) (r : Ring) : (s.setRing q r).gen = s.gen := rfl
@[simp] theorem setRing_always (s : State) (q : Nat) (r : Ring) : (s.setRing q r).always = s.always := rfl
@[simp] theorem setRing_boot (s : State) (q : Nat) (r : Ring) : (s.setRing q r).boot = s.boot := rfl
@[simp] theorem setRing_cp (s : State) (q : Nat) (r : Ring) : (s.setRing q r).cp = s.cp := rfl
@[simp] theorem setRing_cpc (s : State) (q : Nat) (r : Ring) : (s.setRing q r).cpc = s.cpc := rfl
@[simp] theorem setRing_keeper (s : State) (q : Nat) (r : Ring) : (s.setRing q r).keeper = s.keeper := rfl
@[simp] theorem setRing_pg (s : State) (q : Nat) (r : Ring) : (s.setRing q r).pg = s.pg := rfl
@[simp] theorem setRing_turn (s : State) (q : Nat) (r : Ring) : (s.setRing q r).turn = s.turn := rfl
@[simp] theorem setRing_lodge (s : State) (q : Nat) (r : Ring) : (s.setRing q r).lodge = s.lodge := rfl
@[simp] theorem setRing_band (s : State) (q : Nat) (r : Ring) : (s.setRing q r).band = s.band := rfl
@[simp] theorem setRing_prom (s : State) (q : Nat) (r : Ring) : (s.setRing q r).prom = s.prom := rfl
@[simp] theorem setRing_tiles (s : State) (q : Nat) (r : Ring) : (s.setRing q r).tiles = s.tiles := rfl
@[simp] theorem setRing_spad (s : State) (q : Nat) (r : Ring) : (s.setRing q r).spad = s.spad := rfl
@[simp] theorem setRing_pending (s : State) (q : Nat) (r : Ring) : (s.setRing q r).pending = s.pending := rfl

@[simp] theorem setPll_gen (s : State) (p : Nat) (x : Pll) : (s.setPll p x).gen = s.gen := rfl
@[simp] theorem setPll_always (s : State) (p : Nat) (x : Pll) : (s.setPll p x).always = s.always := rfl
@[simp] theorem setPll_boot (s : State) (p : Nat) (x : Pll) : (s.setPll p x).boot = s.boot := rfl
@[simp] theorem setPll_cp (s : State) (p : Nat) (x : Pll) : (s.setPll p x).cp = s.cp := rfl
@[simp] theorem setPll_gate (s : State) (p : Nat) (x : Pll) : (s.setPll p x).gate = s.gate := rfl
@[simp] theorem setPll_keeper (s : State) (p : Nat) (x : Pll) : (s.setPll p x).keeper = s.keeper := rfl
@[simp] theorem setPll_pg (s : State) (p : Nat) (x : Pll) : (s.setPll p x).pg = s.pg := rfl
@[simp] theorem setPll_turn (s : State) (p : Nat) (x : Pll) : (s.setPll p x).turn = s.turn := rfl
@[simp] theorem setPll_lodge (s : State) (p : Nat) (x : Pll) : (s.setPll p x).lodge = s.lodge := rfl
@[simp] theorem setPll_band (s : State) (p : Nat) (x : Pll) : (s.setPll p x).band = s.band := rfl
@[simp] theorem setPll_prom (s : State) (p : Nat) (x : Pll) : (s.setPll p x).prom = s.prom := rfl
@[simp] theorem setPll_tiles (s : State) (p : Nat) (x : Pll) : (s.setPll p x).tiles = s.tiles := rfl
@[simp] theorem setPll_spad (s : State) (p : Nat) (x : Pll) : (s.setPll p x).spad = s.spad := rfl
@[simp] theorem setPll_pending (s : State) (p : Nat) (x : Pll) : (s.setPll p x).pending = s.pending := rfl

@[simp] theorem setSp_gen (s : State) (n : Nat) (x : SysPort) : (s.setSp n x).gen = s.gen := rfl
@[simp] theorem setSp_always (s : State) (n : Nat) (x : SysPort) : (s.setSp n x).always = s.always := rfl
@[simp] theorem setSp_boot (s : State) (n : Nat) (x : SysPort) : (s.setSp n x).boot = s.boot := rfl
@[simp] theorem setSp_cp (s : State) (n : Nat) (x : SysPort) : (s.setSp n x).cp = s.cp := rfl
@[simp] theorem setSp_gate (s : State) (n : Nat) (x : SysPort) : (s.setSp n x).gate = s.gate := rfl
@[simp] theorem setSp_cpc (s : State) (n : Nat) (x : SysPort) : (s.setSp n x).cpc = s.cpc := rfl
@[simp] theorem setSp_keeper (s : State) (n : Nat) (x : SysPort) : (s.setSp n x).keeper = s.keeper := rfl
@[simp] theorem setSp_pg (s : State) (n : Nat) (x : SysPort) : (s.setSp n x).pg = s.pg := rfl
@[simp] theorem setSp_turn (s : State) (n : Nat) (x : SysPort) : (s.setSp n x).turn = s.turn := rfl
@[simp] theorem setSp_lodge (s : State) (n : Nat) (x : SysPort) : (s.setSp n x).lodge = s.lodge := rfl
@[simp] theorem setSp_band (s : State) (n : Nat) (x : SysPort) : (s.setSp n x).band = s.band := rfl
@[simp] theorem setSp_tiles (s : State) (n : Nat) (x : SysPort) : (s.setSp n x).tiles = s.tiles := rfl
@[simp] theorem setSp_spad (s : State) (n : Nat) (x : SysPort) : (s.setSp n x).spad = s.spad := rfl
@[simp] theorem setSp_pending (s : State) (n : Nat) (x : SysPort) : (s.setSp n x).pending = s.pending := rfl

@[simp] theorem setBar_gen (s : State) (b : Nat) (x : Barrier) : (s.setBar b x).gen = s.gen := rfl
@[simp] theorem setBar_always (s : State) (b : Nat) (x : Barrier) : (s.setBar b x).always = s.always := rfl
@[simp] theorem setBar_boot (s : State) (b : Nat) (x : Barrier) : (s.setBar b x).boot = s.boot := rfl
@[simp] theorem setBar_cp (s : State) (b : Nat) (x : Barrier) : (s.setBar b x).cp = s.cp := rfl
@[simp] theorem setBar_gate (s : State) (b : Nat) (x : Barrier) : (s.setBar b x).gate = s.gate := rfl
@[simp] theorem setBar_cpc (s : State) (b : Nat) (x : Barrier) : (s.setBar b x).cpc = s.cpc := rfl
@[simp] theorem setBar_keeper (s : State) (b : Nat) (x : Barrier) : (s.setBar b x).keeper = s.keeper := rfl
@[simp] theorem setBar_pg (s : State) (b : Nat) (x : Barrier) : (s.setBar b x).pg = s.pg := rfl
@[simp] theorem setBar_turn (s : State) (b : Nat) (x : Barrier) : (s.setBar b x).turn = s.turn := rfl
@[simp] theorem setBar_lodge (s : State) (b : Nat) (x : Barrier) : (s.setBar b x).lodge = s.lodge := rfl
@[simp] theorem setBar_prom (s : State) (b : Nat) (x : Barrier) : (s.setBar b x).prom = s.prom := rfl
@[simp] theorem setBar_tiles (s : State) (b : Nat) (x : Barrier) : (s.setBar b x).tiles = s.tiles := rfl
@[simp] theorem setBar_spad (s : State) (b : Nat) (x : Barrier) : (s.setBar b x).spad = s.spad := rfl
@[simp] theorem setBar_pending (s : State) (b : Nat) (x : Barrier) : (s.setBar b x).pending = s.pending := rfl

@[simp] theorem setWd_gen (s : State) (i : Nat) (x : Wd) : (s.setWd i x).gen = s.gen := rfl
@[simp] theorem setWd_always (s : State) (i : Nat) (x : Wd) : (s.setWd i x).always = s.always := rfl
@[simp] theorem setWd_boot (s : State) (i : Nat) (x : Wd) : (s.setWd i x).boot = s.boot := rfl
@[simp] theorem setWd_cp (s : State) (i : Nat) (x : Wd) : (s.setWd i x).cp = s.cp := rfl
@[simp] theorem setWd_gate (s : State) (i : Nat) (x : Wd) : (s.setWd i x).gate = s.gate := rfl
@[simp] theorem setWd_cpc (s : State) (i : Nat) (x : Wd) : (s.setWd i x).cpc = s.cpc := rfl
@[simp] theorem setWd_pg (s : State) (i : Nat) (x : Wd) : (s.setWd i x).pg = s.pg := rfl
@[simp] theorem setWd_turn (s : State) (i : Nat) (x : Wd) : (s.setWd i x).turn = s.turn := rfl
@[simp] theorem setWd_lodge (s : State) (i : Nat) (x : Wd) : (s.setWd i x).lodge = s.lodge := rfl
@[simp] theorem setWd_band (s : State) (i : Nat) (x : Wd) : (s.setWd i x).band = s.band := rfl
@[simp] theorem setWd_prom (s : State) (i : Nat) (x : Wd) : (s.setWd i x).prom = s.prom := rfl
@[simp] theorem setWd_tiles (s : State) (i : Nat) (x : Wd) : (s.setWd i x).tiles = s.tiles := rfl
@[simp] theorem setWd_spad (s : State) (i : Nat) (x : Wd) : (s.setWd i x).spad = s.spad := rfl
@[simp] theorem setWd_pending (s : State) (i : Nat) (x : Wd) : (s.setWd i x).pending = s.pending := rfl

@[simp] theorem setCnt_gen (s : State) (c : Nat) (v : Word) : (setCnt s c v).gen = s.gen := rfl
@[simp] theorem setCnt_always (s : State) (c : Nat) (v : Word) : (setCnt s c v).always = s.always := rfl
@[simp] theorem setCnt_boot (s : State) (c : Nat) (v : Word) : (setCnt s c v).boot = s.boot := rfl
@[simp] theorem setCnt_cp (s : State) (c : Nat) (v : Word) : (setCnt s c v).cp = s.cp := rfl
@[simp] theorem setCnt_gate (s : State) (c : Nat) (v : Word) : (setCnt s c v).gate = s.gate := rfl
@[simp] theorem setCnt_cpc (s : State) (c : Nat) (v : Word) : (setCnt s c v).cpc = s.cpc := rfl
@[simp] theorem setCnt_keeper (s : State) (c : Nat) (v : Word) : (setCnt s c v).keeper = s.keeper := rfl
@[simp] theorem setCnt_pg (s : State) (c : Nat) (v : Word) : (setCnt s c v).pg = s.pg := rfl
@[simp] theorem setCnt_turn (s : State) (c : Nat) (v : Word) : (setCnt s c v).turn = s.turn := rfl
@[simp] theorem setCnt_band (s : State) (c : Nat) (v : Word) : (setCnt s c v).band = s.band := rfl
@[simp] theorem setCnt_prom (s : State) (c : Nat) (v : Word) : (setCnt s c v).prom = s.prom := rfl
@[simp] theorem setCnt_tiles (s : State) (c : Nat) (v : Word) : (setCnt s c v).tiles = s.tiles := rfl
@[simp] theorem setCnt_spad (s : State) (c : Nat) (v : Word) : (setCnt s c v).spad = s.spad := rfl
@[simp] theorem setCnt_pending (s : State) (c : Nat) (v : Word) : (setCnt s c v).pending = s.pending := rfl

@[simp] theorem putWatch_gen (s : State) (w : Nat) (x : Watch) : (putWatch s w x).gen = s.gen := rfl
@[simp] theorem putWatch_always (s : State) (w : Nat) (x : Watch) : (putWatch s w x).always = s.always := rfl
@[simp] theorem putWatch_boot (s : State) (w : Nat) (x : Watch) : (putWatch s w x).boot = s.boot := rfl
@[simp] theorem putWatch_cp (s : State) (w : Nat) (x : Watch) : (putWatch s w x).cp = s.cp := rfl
@[simp] theorem putWatch_gate (s : State) (w : Nat) (x : Watch) : (putWatch s w x).gate = s.gate := rfl
@[simp] theorem putWatch_cpc (s : State) (w : Nat) (x : Watch) : (putWatch s w x).cpc = s.cpc := rfl
@[simp] theorem putWatch_keeper (s : State) (w : Nat) (x : Watch) : (putWatch s w x).keeper = s.keeper := rfl
@[simp] theorem putWatch_pg (s : State) (w : Nat) (x : Watch) : (putWatch s w x).pg = s.pg := rfl
@[simp] theorem putWatch_turn (s : State) (w : Nat) (x : Watch) : (putWatch s w x).turn = s.turn := rfl
@[simp] theorem putWatch_band (s : State) (w : Nat) (x : Watch) : (putWatch s w x).band = s.band := rfl
@[simp] theorem putWatch_prom (s : State) (w : Nat) (x : Watch) : (putWatch s w x).prom = s.prom := rfl
@[simp] theorem putWatch_tiles (s : State) (w : Nat) (x : Watch) : (putWatch s w x).tiles = s.tiles := rfl
@[simp] theorem putWatch_spad (s : State) (w : Nat) (x : Watch) : (putWatch s w x).spad = s.spad := rfl
@[simp] theorem putWatch_pending (s : State) (w : Nat) (x : Watch) : (putWatch s w x).pending = s.pending := rfl

@[simp] theorem freeWatch_gen (s : State) (w : Nat) : (freeWatch s w).gen = s.gen := rfl
@[simp] theorem freeWatch_always (s : State) (w : Nat) : (freeWatch s w).always = s.always := rfl
@[simp] theorem freeWatch_boot (s : State) (w : Nat) : (freeWatch s w).boot = s.boot := rfl
@[simp] theorem freeWatch_cp (s : State) (w : Nat) : (freeWatch s w).cp = s.cp := rfl
@[simp] theorem freeWatch_gate (s : State) (w : Nat) : (freeWatch s w).gate = s.gate := rfl
@[simp] theorem freeWatch_cpc (s : State) (w : Nat) : (freeWatch s w).cpc = s.cpc := rfl
@[simp] theorem freeWatch_keeper (s : State) (w : Nat) : (freeWatch s w).keeper = s.keeper := rfl
@[simp] theorem freeWatch_pg (s : State) (w : Nat) : (freeWatch s w).pg = s.pg := rfl
@[simp] theorem freeWatch_turn (s : State) (w : Nat) : (freeWatch s w).turn = s.turn := rfl
@[simp] theorem freeWatch_band (s : State) (w : Nat) : (freeWatch s w).band = s.band := rfl
@[simp] theorem freeWatch_prom (s : State) (w : Nat) : (freeWatch s w).prom = s.prom := rfl
@[simp] theorem freeWatch_tiles (s : State) (w : Nat) : (freeWatch s w).tiles = s.tiles := rfl
@[simp] theorem freeWatch_spad (s : State) (w : Nat) : (freeWatch s w).spad = s.spad := rfl
@[simp] theorem freeWatch_pending (s : State) (w : Nat) : (freeWatch s w).pending = s.pending := rfl

@[simp] theorem pendVec_gen (s : State) (v : Nat) : (pendVec s v).gen = s.gen := rfl
@[simp] theorem pendVec_always (s : State) (v : Nat) : (pendVec s v).always = s.always := rfl
@[simp] theorem pendVec_boot (s : State) (v : Nat) : (pendVec s v).boot = s.boot := rfl
@[simp] theorem pendVec_cp (s : State) (v : Nat) : (pendVec s v).cp = s.cp := rfl
@[simp] theorem pendVec_cpc (s : State) (v : Nat) : (pendVec s v).cpc = s.cpc := rfl
@[simp] theorem pendVec_keeper (s : State) (v : Nat) : (pendVec s v).keeper = s.keeper := rfl
@[simp] theorem pendVec_pg (s : State) (v : Nat) : (pendVec s v).pg = s.pg := rfl
@[simp] theorem pendVec_turn (s : State) (v : Nat) : (pendVec s v).turn = s.turn := rfl
@[simp] theorem pendVec_lodge (s : State) (v : Nat) : (pendVec s v).lodge = s.lodge := rfl
@[simp] theorem pendVec_band (s : State) (v : Nat) : (pendVec s v).band = s.band := rfl
@[simp] theorem pendVec_prom (s : State) (v : Nat) : (pendVec s v).prom = s.prom := rfl
@[simp] theorem pendVec_tiles (s : State) (v : Nat) : (pendVec s v).tiles = s.tiles := rfl
@[simp] theorem pendVec_spad (s : State) (v : Nat) : (pendVec s v).spad = s.spad := rfl
@[simp] theorem pendVec_pending (s : State) (v : Nat) : (pendVec s v).pending = s.pending := rfl

@[simp] theorem dropMsg_gen (s : State) (i : Nat) : (dropMsg s i).gen = s.gen := rfl
@[simp] theorem dropMsg_always (s : State) (i : Nat) : (dropMsg s i).always = s.always := rfl
@[simp] theorem dropMsg_boot (s : State) (i : Nat) : (dropMsg s i).boot = s.boot := rfl
@[simp] theorem dropMsg_cp (s : State) (i : Nat) : (dropMsg s i).cp = s.cp := rfl
@[simp] theorem dropMsg_gate (s : State) (i : Nat) : (dropMsg s i).gate = s.gate := rfl
@[simp] theorem dropMsg_cpc (s : State) (i : Nat) : (dropMsg s i).cpc = s.cpc := rfl
@[simp] theorem dropMsg_keeper (s : State) (i : Nat) : (dropMsg s i).keeper = s.keeper := rfl
@[simp] theorem dropMsg_pg (s : State) (i : Nat) : (dropMsg s i).pg = s.pg := rfl
@[simp] theorem dropMsg_turn (s : State) (i : Nat) : (dropMsg s i).turn = s.turn := rfl
@[simp] theorem dropMsg_lodge (s : State) (i : Nat) : (dropMsg s i).lodge = s.lodge := rfl
@[simp] theorem dropMsg_band (s : State) (i : Nat) : (dropMsg s i).band = s.band := rfl
@[simp] theorem dropMsg_tiles (s : State) (i : Nat) : (dropMsg s i).tiles = s.tiles := rfl
@[simp] theorem dropMsg_spad (s : State) (i : Nat) : (dropMsg s i).spad = s.spad := rfl
@[simp] theorem dropMsg_pending (s : State) (i : Nat) : (dropMsg s i).pending = s.pending := rfl

@[simp] theorem post_gen (s : State) (cls : Cls) (src dst : Node) (tail : List Point) (slack : Int) (prio flits : Nat) (body : Body) :
    (post s cls src dst tail slack prio flits body).gen = s.gen := rfl
@[simp] theorem post_always (s : State) (cls : Cls) (src dst : Node) (tail : List Point) (slack : Int) (prio flits : Nat) (body : Body) :
    (post s cls src dst tail slack prio flits body).always = s.always := rfl
@[simp] theorem post_boot (s : State) (cls : Cls) (src dst : Node) (tail : List Point) (slack : Int) (prio flits : Nat) (body : Body) :
    (post s cls src dst tail slack prio flits body).boot = s.boot := rfl
@[simp] theorem post_cp (s : State) (cls : Cls) (src dst : Node) (tail : List Point) (slack : Int) (prio flits : Nat) (body : Body) :
    (post s cls src dst tail slack prio flits body).cp = s.cp := rfl
@[simp] theorem post_gate (s : State) (cls : Cls) (src dst : Node) (tail : List Point) (slack : Int) (prio flits : Nat) (body : Body) :
    (post s cls src dst tail slack prio flits body).gate = s.gate := rfl
@[simp] theorem post_cpc (s : State) (cls : Cls) (src dst : Node) (tail : List Point) (slack : Int) (prio flits : Nat) (body : Body) :
    (post s cls src dst tail slack prio flits body).cpc = s.cpc := rfl
@[simp] theorem post_keeper (s : State) (cls : Cls) (src dst : Node) (tail : List Point) (slack : Int) (prio flits : Nat) (body : Body) :
    (post s cls src dst tail slack prio flits body).keeper = s.keeper := rfl
@[simp] theorem post_pg (s : State) (cls : Cls) (src dst : Node) (tail : List Point) (slack : Int) (prio flits : Nat) (body : Body) :
    (post s cls src dst tail slack prio flits body).pg = s.pg := rfl
@[simp] theorem post_turn (s : State) (cls : Cls) (src dst : Node) (tail : List Point) (slack : Int) (prio flits : Nat) (body : Body) :
    (post s cls src dst tail slack prio flits body).turn = s.turn := rfl
@[simp] theorem post_lodge (s : State) (cls : Cls) (src dst : Node) (tail : List Point) (slack : Int) (prio flits : Nat) (body : Body) :
    (post s cls src dst tail slack prio flits body).lodge = s.lodge := rfl
@[simp] theorem post_band (s : State) (cls : Cls) (src dst : Node) (tail : List Point) (slack : Int) (prio flits : Nat) (body : Body) :
    (post s cls src dst tail slack prio flits body).band = s.band := rfl
@[simp] theorem post_tiles (s : State) (cls : Cls) (src dst : Node) (tail : List Point) (slack : Int) (prio flits : Nat) (body : Body) :
    (post s cls src dst tail slack prio flits body).tiles = s.tiles := rfl
@[simp] theorem post_spad (s : State) (cls : Cls) (src dst : Node) (tail : List Point) (slack : Int) (prio flits : Nat) (body : Body) :
    (post s cls src dst tail slack prio flits body).spad = s.spad := rfl
@[simp] theorem post_pending (s : State) (cls : Cls) (src dst : Node) (tail : List Point) (slack : Int) (prio flits : Nat) (body : Body) :
    (post s cls src dst tail slack prio flits body).pending = s.pending := rfl

@[simp] theorem postSmall_gen (s : State) (cls : Cls) (src dst : Node) (body : Body) :
    (postSmall s cls src dst body).gen = s.gen := rfl
@[simp] theorem postSmall_always (s : State) (cls : Cls) (src dst : Node) (body : Body) :
    (postSmall s cls src dst body).always = s.always := rfl
@[simp] theorem postSmall_boot (s : State) (cls : Cls) (src dst : Node) (body : Body) :
    (postSmall s cls src dst body).boot = s.boot := rfl
@[simp] theorem postSmall_cp (s : State) (cls : Cls) (src dst : Node) (body : Body) :
    (postSmall s cls src dst body).cp = s.cp := rfl
@[simp] theorem postSmall_gate (s : State) (cls : Cls) (src dst : Node) (body : Body) :
    (postSmall s cls src dst body).gate = s.gate := rfl
@[simp] theorem postSmall_cpc (s : State) (cls : Cls) (src dst : Node) (body : Body) :
    (postSmall s cls src dst body).cpc = s.cpc := rfl
@[simp] theorem postSmall_keeper (s : State) (cls : Cls) (src dst : Node) (body : Body) :
    (postSmall s cls src dst body).keeper = s.keeper := rfl
@[simp] theorem postSmall_pg (s : State) (cls : Cls) (src dst : Node) (body : Body) :
    (postSmall s cls src dst body).pg = s.pg := rfl
@[simp] theorem postSmall_turn (s : State) (cls : Cls) (src dst : Node) (body : Body) :
    (postSmall s cls src dst body).turn = s.turn := rfl
@[simp] theorem postSmall_lodge (s : State) (cls : Cls) (src dst : Node) (body : Body) :
    (postSmall s cls src dst body).lodge = s.lodge := rfl
@[simp] theorem postSmall_band (s : State) (cls : Cls) (src dst : Node) (body : Body) :
    (postSmall s cls src dst body).band = s.band := rfl
@[simp] theorem postSmall_tiles (s : State) (cls : Cls) (src dst : Node) (body : Body) :
    (postSmall s cls src dst body).tiles = s.tiles := rfl
@[simp] theorem postSmall_spad (s : State) (cls : Cls) (src dst : Node) (body : Body) :
    (postSmall s cls src dst body).spad = s.spad := rfl
@[simp] theorem postSmall_pending (s : State) (cls : Cls) (src dst : Node) (body : Body) :
    (postSmall s cls src dst body).pending = s.pending := rfl

@[simp] theorem logEntry_gen (s : State) (c : FClass) (m : Mech) (u : LogUnit) (i : LogInfo) :
    (logEntry s c m u i).gen = s.gen := rfl
@[simp] theorem logEntry_always (s : State) (c : FClass) (m : Mech) (u : LogUnit) (i : LogInfo) :
    (logEntry s c m u i).always = s.always := rfl
@[simp] theorem logEntry_boot (s : State) (c : FClass) (m : Mech) (u : LogUnit) (i : LogInfo) :
    (logEntry s c m u i).boot = s.boot := rfl
@[simp] theorem logEntry_cp (s : State) (c : FClass) (m : Mech) (u : LogUnit) (i : LogInfo) :
    (logEntry s c m u i).cp = s.cp := rfl
@[simp] theorem logEntry_gate (s : State) (c : FClass) (m : Mech) (u : LogUnit) (i : LogInfo) :
    (logEntry s c m u i).gate = s.gate := rfl
@[simp] theorem logEntry_cpc (s : State) (c : FClass) (m : Mech) (u : LogUnit) (i : LogInfo) :
    (logEntry s c m u i).cpc = s.cpc := rfl
@[simp] theorem logEntry_pg (s : State) (c : FClass) (m : Mech) (u : LogUnit) (i : LogInfo) :
    (logEntry s c m u i).pg = s.pg := rfl
@[simp] theorem logEntry_turn (s : State) (c : FClass) (m : Mech) (u : LogUnit) (i : LogInfo) :
    (logEntry s c m u i).turn = s.turn := rfl
@[simp] theorem logEntry_lodge (s : State) (c : FClass) (m : Mech) (u : LogUnit) (i : LogInfo) :
    (logEntry s c m u i).lodge = s.lodge := rfl
@[simp] theorem logEntry_band (s : State) (c : FClass) (m : Mech) (u : LogUnit) (i : LogInfo) :
    (logEntry s c m u i).band = s.band := rfl
@[simp] theorem logEntry_prom (s : State) (c : FClass) (m : Mech) (u : LogUnit) (i : LogInfo) :
    (logEntry s c m u i).prom = s.prom := rfl
@[simp] theorem logEntry_tiles (s : State) (c : FClass) (m : Mech) (u : LogUnit) (i : LogInfo) :
    (logEntry s c m u i).tiles = s.tiles := rfl
@[simp] theorem logEntry_spad (s : State) (c : FClass) (m : Mech) (u : LogUnit) (i : LogInfo) :
    (logEntry s c m u i).spad = s.spad := rfl
@[simp] theorem logEntry_pending (s : State) (c : FClass) (m : Mech) (u : LogUnit) (i : LogInfo) :
    (logEntry s c m u i).pending = s.pending := rfl

@[simp] theorem ghCfgErr_gen (s : State) (q : Nat) : (ghCfgErr s q).gen = s.gen := rfl
@[simp] theorem ghCfgErr_always (s : State) (q : Nat) : (ghCfgErr s q).always = s.always := rfl
@[simp] theorem ghCfgErr_boot (s : State) (q : Nat) : (ghCfgErr s q).boot = s.boot := rfl
@[simp] theorem ghCfgErr_cp (s : State) (q : Nat) : (ghCfgErr s q).cp = s.cp := rfl
@[simp] theorem ghCfgErr_cpc (s : State) (q : Nat) : (ghCfgErr s q).cpc = s.cpc := rfl
@[simp] theorem ghCfgErr_keeper (s : State) (q : Nat) : (ghCfgErr s q).keeper = s.keeper := rfl
@[simp] theorem ghCfgErr_pg (s : State) (q : Nat) : (ghCfgErr s q).pg = s.pg := rfl
@[simp] theorem ghCfgErr_turn (s : State) (q : Nat) : (ghCfgErr s q).turn = s.turn := rfl
@[simp] theorem ghCfgErr_lodge (s : State) (q : Nat) : (ghCfgErr s q).lodge = s.lodge := rfl
@[simp] theorem ghCfgErr_band (s : State) (q : Nat) : (ghCfgErr s q).band = s.band := rfl
@[simp] theorem ghCfgErr_prom (s : State) (q : Nat) : (ghCfgErr s q).prom = s.prom := rfl
@[simp] theorem ghCfgErr_tiles (s : State) (q : Nat) : (ghCfgErr s q).tiles = s.tiles := rfl
@[simp] theorem ghCfgErr_spad (s : State) (q : Nat) : (ghCfgErr s q).spad = s.spad := rfl
@[simp] theorem ghCfgErr_pending (s : State) (q : Nat) : (ghCfgErr s q).pending = s.pending := rfl

@[simp] theorem ghVecErr_gen (s : State) (v : Nat) : (ghVecErr s v).gen = s.gen := rfl
@[simp] theorem ghVecErr_always (s : State) (v : Nat) : (ghVecErr s v).always = s.always := rfl
@[simp] theorem ghVecErr_boot (s : State) (v : Nat) : (ghVecErr s v).boot = s.boot := rfl
@[simp] theorem ghVecErr_cp (s : State) (v : Nat) : (ghVecErr s v).cp = s.cp := rfl
@[simp] theorem ghVecErr_cpc (s : State) (v : Nat) : (ghVecErr s v).cpc = s.cpc := rfl
@[simp] theorem ghVecErr_keeper (s : State) (v : Nat) : (ghVecErr s v).keeper = s.keeper := rfl
@[simp] theorem ghVecErr_pg (s : State) (v : Nat) : (ghVecErr s v).pg = s.pg := rfl
@[simp] theorem ghVecErr_turn (s : State) (v : Nat) : (ghVecErr s v).turn = s.turn := rfl
@[simp] theorem ghVecErr_lodge (s : State) (v : Nat) : (ghVecErr s v).lodge = s.lodge := rfl
@[simp] theorem ghVecErr_band (s : State) (v : Nat) : (ghVecErr s v).band = s.band := rfl
@[simp] theorem ghVecErr_prom (s : State) (v : Nat) : (ghVecErr s v).prom = s.prom := rfl
@[simp] theorem ghVecErr_tiles (s : State) (v : Nat) : (ghVecErr s v).tiles = s.tiles := rfl
@[simp] theorem ghVecErr_spad (s : State) (v : Nat) : (ghVecErr s v).spad = s.spad := rfl
@[simp] theorem ghVecErr_pending (s : State) (v : Nat) : (ghVecErr s v).pending = s.pending := rfl

/-! ## Events and the fault log -/

/-- Raising an event changes the gatehouse's registers alone. -/
theorem raise_eq (s : State) (e t n ring detail : Nat) : raise s e t n ring detail = { s with gate := (raise s e t n ring detail).gate } := by
  unfold raise
  split
  · dsimp only
    split
    · rfl
    · rfl
  · rfl

@[simp] theorem raise_gen (s : State) (e t n ring detail : Nat) : (raise s e t n ring detail).gen = s.gen := by rw [raise_eq]
@[simp] theorem raise_always (s : State) (e t n ring detail : Nat) : (raise s e t n ring detail).always = s.always := by rw [raise_eq]
@[simp] theorem raise_boot (s : State) (e t n ring detail : Nat) : (raise s e t n ring detail).boot = s.boot := by rw [raise_eq]
@[simp] theorem raise_cp (s : State) (e t n ring detail : Nat) : (raise s e t n ring detail).cp = s.cp := by rw [raise_eq]
@[simp] theorem raise_cpc (s : State) (e t n ring detail : Nat) : (raise s e t n ring detail).cpc = s.cpc := by rw [raise_eq]
@[simp] theorem raise_keeper (s : State) (e t n ring detail : Nat) : (raise s e t n ring detail).keeper = s.keeper := by rw [raise_eq]
@[simp] theorem raise_pg (s : State) (e t n ring detail : Nat) : (raise s e t n ring detail).pg = s.pg := by rw [raise_eq]
@[simp] theorem raise_turn (s : State) (e t n ring detail : Nat) : (raise s e t n ring detail).turn = s.turn := by rw [raise_eq]
@[simp] theorem raise_lodge (s : State) (e t n ring detail : Nat) : (raise s e t n ring detail).lodge = s.lodge := by rw [raise_eq]
@[simp] theorem raise_band (s : State) (e t n ring detail : Nat) : (raise s e t n ring detail).band = s.band := by rw [raise_eq]
@[simp] theorem raise_prom (s : State) (e t n ring detail : Nat) : (raise s e t n ring detail).prom = s.prom := by rw [raise_eq]
@[simp] theorem raise_tiles (s : State) (e t n ring detail : Nat) : (raise s e t n ring detail).tiles = s.tiles := by rw [raise_eq]
@[simp] theorem raise_spad (s : State) (e t n ring detail : Nat) : (raise s e t n ring detail).spad = s.spad := by rw [raise_eq]
@[simp] theorem raise_pending (s : State) (e t n ring detail : Nat) : (raise s e t n ring detail).pending = s.pending := by rw [raise_eq]

/-- Logging a fault changes the keeper's registers and raises at most one event. -/
theorem klog_eq (s : State) (c : FClass) (m : Mech) (u : LogUnit) (i : LogInfo) :
    klog s c m u i = { s with gate := (klog s c m u i).gate, keeper := (klog s c m u i).keeper } := by
  by_cases h : (!keeperRuns s)
  · simp only [klog, h, if_true]
  cases c
  · simp only [klog, h, if_false, Bool.false_eq_true]; split <;> rfl
  · simp only [klog, h, if_false, Bool.false_eq_true]; rfl
  · simp only [klog, h, if_false, Bool.false_eq_true, raiseFault]; rw [raise_eq]; rfl
  · simp only [klog, h, if_false, Bool.false_eq_true]
    split
    · rfl
    · simp only [raiseFault]; rw [raise_eq]; rfl

@[simp] theorem klog_gen (s : State) (c : FClass) (m : Mech) (u : LogUnit) (i : LogInfo) : (klog s c m u i).gen = s.gen := by rw [klog_eq]
@[simp] theorem klog_always (s : State) (c : FClass) (m : Mech) (u : LogUnit) (i : LogInfo) : (klog s c m u i).always = s.always := by rw [klog_eq]
@[simp] theorem klog_boot (s : State) (c : FClass) (m : Mech) (u : LogUnit) (i : LogInfo) : (klog s c m u i).boot = s.boot := by rw [klog_eq]
@[simp] theorem klog_cp (s : State) (c : FClass) (m : Mech) (u : LogUnit) (i : LogInfo) : (klog s c m u i).cp = s.cp := by rw [klog_eq]
@[simp] theorem klog_cpc (s : State) (c : FClass) (m : Mech) (u : LogUnit) (i : LogInfo) : (klog s c m u i).cpc = s.cpc := by rw [klog_eq]
@[simp] theorem klog_pg (s : State) (c : FClass) (m : Mech) (u : LogUnit) (i : LogInfo) : (klog s c m u i).pg = s.pg := by rw [klog_eq]
@[simp] theorem klog_turn (s : State) (c : FClass) (m : Mech) (u : LogUnit) (i : LogInfo) : (klog s c m u i).turn = s.turn := by rw [klog_eq]
@[simp] theorem klog_lodge (s : State) (c : FClass) (m : Mech) (u : LogUnit) (i : LogInfo) : (klog s c m u i).lodge = s.lodge := by rw [klog_eq]
@[simp] theorem klog_band (s : State) (c : FClass) (m : Mech) (u : LogUnit) (i : LogInfo) : (klog s c m u i).band = s.band := by rw [klog_eq]
@[simp] theorem klog_prom (s : State) (c : FClass) (m : Mech) (u : LogUnit) (i : LogInfo) : (klog s c m u i).prom = s.prom := by rw [klog_eq]
@[simp] theorem klog_tiles (s : State) (c : FClass) (m : Mech) (u : LogUnit) (i : LogInfo) : (klog s c m u i).tiles = s.tiles := by rw [klog_eq]
@[simp] theorem klog_spad (s : State) (c : FClass) (m : Mech) (u : LogUnit) (i : LogInfo) : (klog s c m u i).spad = s.spad := by rw [klog_eq]
@[simp] theorem klog_pending (s : State) (c : FClass) (m : Mech) (u : LogUnit) (i : LogInfo) : (klog s c m u i).pending = s.pending := by rw [klog_eq]

/-! ## Reads of what was set -/

@[simp] theorem tile_setTile (s : State) (t j : Nat) (x : Tile) : (s.setTile t x).tile j = if j = t then x else s.tile j :=
  Tab.get_put _ _ _ _ _

theorem tile_congr {s u : State} (h : u.tiles = s.tiles) (t : Nat) : u.tile t = s.tile t := by
  simp only [State.tile, h]

@[simp] theorem tile_setDom (s : State) (d t : Nat) (x : Dom) : (s.setDom d x).tile t = s.tile t := rfl
@[simp] theorem tile_setRing (s : State) (q t : Nat) (r : Ring) : (s.setRing q r).tile t = s.tile t := rfl
@[simp] theorem tile_dropMsg (s : State) (i t : Nat) : (dropMsg s i).tile t = s.tile t := rfl
@[simp] theorem tile_postSmall (s : State) (cls : Cls) (src dst : Node) (body : Body) (t : Nat) :
    (postSmall s cls src dst body).tile t = s.tile t := rfl
@[simp] theorem tile_raise (s : State) (e t n ring detail j : Nat) : (raise s e t n ring detail).tile j = s.tile j :=
  tile_congr (raise_tiles ..) j
@[simp] theorem tile_klog (s : State) (c : FClass) (m : Mech) (u : LogUnit) (i : LogInfo) (j : Nat) :
    (klog s c m u i).tile j = s.tile j := tile_congr (klog_tiles ..) j

theorem stream_setStream (s : State) (t n : Nat) (x : Stream) (j m : Nat) :
    (s.setStream t n x).stream? j m = if j = t ∧ m = n then some x else s.stream? j m := by
  by_cases h : j = t
  · subst h; simp [State.stream?, State.setStream, Tab.find_put]
  · simp [State.stream?, State.setStream, h]

theorem stream_freeStream (s : State) (t n : Nat) (j m : Nat) :
    (s.freeStream t n).stream? j m = if j = t ∧ m = n then none else s.stream? j m := by
  by_cases h : j = t
  · subst h; simp [State.stream?, State.freeStream, Tab.find_erase]
  · simp [State.stream?, State.freeStream, h]

@[simp] theorem dom_setDom (s : State) (d e : Nat) (x : Dom) : (s.setDom d x).dom e = if e = d then x else s.dom e :=
  Tab.get_put _ _ _ _ _
@[simp] theorem dom_setPll (s : State) (p e : Nat) (x : Pll) : (s.setPll p x).dom e = s.dom e := rfl
@[simp] theorem ring_setRing (s : State) (q k : Nat) (r : Ring) : (s.setRing q r).ring k = if k = q then r else s.ring k :=
  Tab.get_put _ _ _ _ _
@[simp] theorem bar_setBar (s : State) (b k : Nat) (x : Barrier) : (s.setBar b x).bar k = if k = b then x else s.bar k :=
  Tab.get_put _ _ _ _ _
@[simp] theorem sp_setSp (s : State) (n k : Nat) (x : SysPort) : (s.setSp n x).sp k = if k = n then x else s.sp k :=
  Tab.get_put _ _ _ _ _
@[simp] theorem wd_setWd (s : State) (i k : Nat) (x : Wd) : (s.setWd i x).wd k = if k = i then x else s.wd k :=
  Tab.get_put _ _ _ _ _

theorem cntVal_setCnt (s : State) (c k : Nat) (v : Word) : cntVal (setCnt s c v) k = if k = c then v else cntVal s k :=
  Tab.get_set _ _ _ _ _

@[simp] theorem dropMsg_net (s : State) (i : Nat) : (dropMsg s i).prom.net = s.prom.net.eraseIdx i := rfl

/-! ## General registers -/

@[simp] theorem greg_zero (x : Tile) : x.greg 0 = 0 := rfl

@[simp] theorem setG_zero (x : Tile) (v : DWord) : x.setG 0 v = x := rfl

/-- A write of a general register changes that register alone, and g0 not at all. -/
theorem greg_setG (x : Tile) (n k : Nat) (v : DWord) : (x.setG n v).greg k = if k = n ∧ k ≠ 0 then v else x.greg k := by
  unfold Tile.setG Tile.greg
  by_cases hn : n = 0
  · by_cases hk : k = 0 <;> simp [hn, hk]
  · by_cases hk : k = 0
    · simp [hk]
    · simp [hn, hk, Tab.get_set]

end Sys2Proof.Machine
end

