-- ==== Sys2Proof/Tests/Slice0.lean ====
section
/-! SUPPORT. Tests of the model against values of the specification, and for each statement with hypotheses, states that meet
them. A name `test_w_<Claim>` is such a witness, clause by clause; its last part, where there is one, is a value that the
specification gives for the outcome. -/

namespace Sys2Proof.Tests

open Sys2Proof Sys2Proof.Machine

set_option Elab.async false

/-! ## States -/

/-- Two tiles, one leaf, one system port, 17 switched domains. -/
def cfg : GenConfig := { tiles := .t2, spad4 := false }

def onDom : Dom := { Dom.init with state := .on, req := true, ack := true, iso := false }

/-- A block after boot: every domain ON, the timebase valid at 1000 Tc. -/
def base : State := { State.resetOf cfg with
  cpc := { Cpc.init with doms := (List.range 17).map (fun d => (d, onDom)) }
  boot := { Boot.init with state := 5 }
  pg := { Pergola.init with valid := true, running := true, time := 1000 } }

/-- An instruction word with each value at its bit position. -/
def ln (fs : List (Nat × Nat)) : Line := fs.foldl (fun l p => l ||| BitVec.ofNat 512 (p.1 <<< p.2)) 0

/-- Descriptor words: BASE, FMT, and COUNT and STRIDE of one dimension (R67). -/
def tdWords (base fmt count stride : Nat) : List Word :=
  [BitVec.ofNat 32 base, BitVec.ofNat 32 (base >>> 32), BitVec.ofNat 32 fmt, 0,
    BitVec.ofNat 32 (count + (stride % 256) <<< 24), BitVec.ofNat 32 (stride >>> 8)]

/-- Words listed from an index on. -/
def atIdx (i : Nat) (ws : List Word) : Tab Word := ws.zipIdx.map (fun p => (i + p.2, p.1))

/-- Window address of a byte of tile 0's scratchpad. -/
def win (o : Nat) : Nat := 0xFFFFFFFFF8000000 + o

/-- Tile 0 runs its program: g1 = 5, g2 = 7; descriptor 0 is 16 bytes at offset 0, descriptor 1 the same at offset 1024. -/
def tile0 : Tile := { Tile.init with
  seq := .running, pc := 3, g := [(1, 5), (2, 7)]
  tdt := atIdx 0 (tdWords (win 0) 3 16 1) ++ atIdx 32 (tdWords (win 1024) 3 16 1) }

/-- `l` is next to issue from the program. -/
def runs (l : Line) : State := base.setTile 0 { tile0 with fetched := some l, fetchPc := 2 }

def at_ (l : Line) : Head := { line := l, pc := 2, entry := none }

/-- An entry of ring 0, and the state in which it is next to issue from ring source 1. -/
def eref : EntryRef := { ring := 0, idx := 0, job := 0, flags := 0x80000000 }
def fromRing (l : Line) : State := base.setTile 0 { tile0 with inq := [(1, [{ ref := eref, line := l }])] }

/-- The state that a command leaves; the given one where it does not complete. -/
def aft (s : State) (c : Instr) : State :=
  match exec c s with
  | .next u => u
  | _ => s

/-- A decision has been made at a point: the requesters in their order. -/
def decided (p : Point) (ks : List Nat) (s : State) : State := setPoint s p { PointSt.init with granted := ks }

/-- The banks of a tile have granted the index read of a side of stream 0. -/
def indexed (side : Side) (bs : List Nat) (s : State) : State :=
  bs.foldl (fun s b => setPoint s (.bank 0 b) { PointSt.init with given := [indexId 0 side] }) s

/-! ## Well-formed commands: one of each check is refused -/

theorem test_wf_tile : (Instr.run 32 0).wellFormed State.reset.gen = false
    ∧ (Instr.run 31 0).wellFormed State.reset.gen = true := by decide
theorem test_wf_source : (Instr.add 0 (good (.ring 9))).wellFormed cfg = false
    ∧ (Instr.add 0 (good (.ring 0))).wellFormed cfg = false ∧ (Instr.add 0 (good (.ring 8))).wellFormed cfg = true := by decide
theorem test_wf_stream : (Instr.retire 0 8).wellFormed cfg = false ∧ (Instr.retire 1 7).wellFormed cfg = true := by decide
theorem test_wf_launch : (Instr.launch 0 (.stream 8)).wellFormed cfg = false
    ∧ (Instr.launch 0 (.source (.ring 9))).wellFormed cfg = false := by decide
theorem test_wf_point : (Instr.turnstileGrant (.bank 0 16)).wellFormed cfg = false
    ∧ (Instr.turnstileGrant (.pavOut 1 .up)).wellFormed cfg = false
    ∧ (Instr.turnstileGrant (.pavOut 0 (.sysPort 1))).wellFormed cfg = false
    ∧ (Instr.turnstileGrant (.winPort 1)).wellFormed cfg = false ∧ (Instr.turnstileGrant (.sysPort 1)).wellFormed cfg = false
    ∧ (Instr.turnstileGrant (.readIssue 2)).wellFormed cfg = false
    ∧ (Instr.turnstileGrant (.pavOut 0 (.tile 1))).wellFormed cfg = true := by decide
theorem test_wf_scrub : (Instr.scrubAccess (.spad 0 262144) .clean).wellFormed cfg = false
    ∧ (Instr.scrubAccess (.imem 0 16384) .clean).wellFormed cfg = false
    ∧ (Instr.scrubAccess (.tdt 0 8192) .clean).wellFormed cfg = false
    ∧ (Instr.scrubAccess (.odt 0 2048) .clean).wellFormed cfg = false
    ∧ (Instr.scrubAccess (.wpm 0 4096) .clean).wellFormed cfg = false
    ∧ (Instr.scrubAccess (.tlb 0 256) .clean).wellFormed cfg = false
    ∧ (Instr.scrubAccess (.spad 1 262143) .bad).wellFormed cfg = true := by decide
theorem test_wf_late : (Instr.responseTimeout (.tag 0 1024)).wellFormed cfg = false
    ∧ (Instr.responseTimeout (.request 0 8 0)).wellFormed cfg = false
    ∧ (Instr.responseTimeout (.signal 2 0)).wellFormed cfg = false := by decide
theorem test_wf_ports : (Instr.systemPortRequest 1 ⟨0, .clean⟩).wellFormed cfg = false
    ∧ (Instr.translationAnswer 0 64 0 0 0 false).wellFormed cfg = false
    ∧ (Instr.systemPortResponse 0 1024 0 0 [] true).wellFormed cfg = false
    ∧ (Instr.invalidation 1 true 0 0).wellFormed cfg = false ∧ (Instr.invalidationComplete 1).wellFormed cfg = false
    ∧ (Instr.windowPortRequest 1 ⟨0, 0⟩ 0 0 []).wellFormed cfg = false := by decide
theorem test_wf_power : (Instr.quiesceAck 17).wellFormed cfg = false ∧ (Instr.resetRelease 16).wellFormed cfg = true
    ∧ (Instr.pllLock 3).wellFormed cfg = false ∧ (Instr.go 2 0).wellFormed cfg = true
    ∧ (Instr.monitorWindow 6 0).wellFormed cfg = false ∧ (Instr.monitorWindow 9 0).wellFormed cfg = false
    ∧ (Instr.monitorWindow 8 0).wellFormed cfg = true := by decide
theorem test_wf_lockstep : (Instr.lockstepMismatch 0 0 (some (.ring 9))).wellFormed cfg = false
    ∧ (Instr.linkResend (.bank 2 0) true).wellFormed cfg = false := by decide

/-! ## Mover instructions -/

/-- A SET word: SOP, D, A, B, IMM (R60). -/
def lset (sop d a b imm : Nat) : Line := ln [(0x20, 0), (sop, 192), (d, 200), (a, 208), (b, 216), (imm, 256)]

/-- Row and command of each SOP that writes a register. -/
def sops : List (Nat × Row × Instr) :=
  [(0, .add, .add 0 (good .prog)), (1, .sub, .sub 0 (good .prog)), (2, .and, .and 0 (good .prog)), (3, .or, .or 0 (good .prog)), (4, .xor, .xor 0 (good .prog)),
    (5, .shl, .shl 0 (good .prog)), (6, .shr, .shr 0 (good .prog)), (9, .rdtime, .rdtime 0 (good .prog))]

theorem test_w_SetWritesRegister : ∀ p ∈ sops, ProgReady (runs (lset p.1 31 1 2 30)) 0 (at_ (lset p.1 31 1 2 30)) p.2.1 := by
  simp only [ProgReady, Offered, Freed]
  decide +kernel

/-- 5 and 7 + 30: sum, difference, and, or, xor; shifts by 37; the timebase (R60). -/
theorem test_set_values : (sops.map (fun p => ((aft (runs (lset p.1 31 1 2 30)) p.2.2).tile 0).greg 31)) =
    [42, 0xFFFFFFFFFFFFFFE0, 5, 37, 32, 0xA000000000, 0, 1000] := by decide +kernel

/-- A shift amount is taken modulo 64 (R60). -/
theorem test_shift_amount : ((aft (runs (lset 5 3 1 0 65)) (.shl 0 (good .prog))).tile 0).greg 3 = 10 := by decide +kernel

theorem test_w_SetWritesTables : ProgReady (runs (ln [(0x20, 0), (7, 192), (1, 208), (0xFF, 224), (15, 232)])) 0
      (at_ (ln [(0x20, 0), (7, 192), (1, 208), (0xFF, 224), (15, 232)])) .tdw
    ∧ ProgReady (runs (ln [(0x20, 0), (8, 192), (1, 208), (0x7F, 224), (7, 232)])) 0
      (at_ (ln [(0x20, 0), (8, 192), (1, 208), (0x7F, 224), (7, 232)])) .odw := by
  simp only [ProgReady, Offered, Freed]
  decide +kernel

theorem test_tdw : Tab.get ((aft (runs (ln [(0x20, 0), (7, 192), (1, 208), (0xFF, 224), (15, 232)])) (.tdw 0 (good .prog))).tile 0).tdt
    0 8190 = 5 := by decide +kernel
theorem test_odw : Tab.get ((aft (runs (ln [(0x20, 0), (8, 192), (1, 208), (0x7F, 224), (7, 232)])) (.odw 0 (good .prog))).tile 0).odt
    0 2046 = 5 := by decide +kernel

theorem test_w_RegisterZero : (∀ p ∈ sops, ProgReady (runs (lset p.1 0 1 2 30)) 0 (at_ (lset p.1 0 1 2 30)) p.2.1
      ∧ iSetD (lset p.1 0 1 2 30) = 0)
    ∧ Reaches base 0x1000100 (.tile 0 (.g 0 false)) ∧ Reaches base 0x1000104 (.tile 0 (.g 0 true)) := by
  simp only [ProgReady, Offered, Freed, Reaches]
  decide +kernel

/-- JMP, BR, HALT and NOP: condition, A, B, IMM, target (R62). -/
def lbr (opc cond a b imm target : Nat) : Line :=
  ln [(opc, 0), (cond, 192), (a, 200), (b, 208), (imm, 256), (target, 224)]

/-- 7 against 5 + IMM under each condition, taken and not (R62). -/
def brs : List (Nat × Nat × Bool) :=
  [(0, 2, true), (0, 3, false), (1, 3, true), (1, 2, false), (2, 3, true), (2, 2, false), (3, 2, true), (3, 3, false),
    (4, 3, true), (4, 0xFFFFFFFFFFFFFFF0, false), (5, 0xFFFFFFFFFFFFFFF0, true), (5, 3, false)]

theorem test_w_BranchesMovePc : (∀ p ∈ [(0x30, Row.jmp), (0x31, .br), (0x32, .halt), (0x33, .nop)],
      ProgReady (runs (lbr p.1 0 0 0 0 0)) 0 (at_ (lbr p.1 0 0 0 0 0)) p.2)
    ∧ Unheld (runs (lbr 0x33 0 0 0 0 0)) 0 .prog (lbr 0x33 0 0 0 0 0)
    ∧ ∀ p ∈ brs, ProgReady (runs (lbr 0x31 p.1 2 1 p.2.1 0x3FF)) 0 (at_ (lbr 0x31 p.1 2 1 p.2.1 0x3FF)) .br
      ∧ (brTaken p.1 7 (5 + BitVec.ofNat 64 p.2.1) = (p.2.2 = true)
      ∧ ((aft (runs (lbr 0x31 p.1 2 1 p.2.1 0x3FF)) (.br 0 (good .prog))).tile 0).pc = if p.2.2 then 0x3FF else 3) := by
  simp only [ProgReady, Offered, Unheld, Freed, brTaken]
  decide +kernel

theorem test_jmp : ((aft (runs (lbr 0x30 0 0 0 0 9)) (.jmp 0 (good .prog))).tile 0).pc = 9 := by decide +kernel
theorem test_halt : ((aft (runs (lbr 0x32 0 0 0 0 0)) (.halt 0 (good .prog))).tile 0).stopping = true := by decide +kernel
theorem test_nop : ((aft (runs (lbr 0x33 0 0 0 0 0)) (.nop 0 (good .prog))).tile 0).fetched = none := by decide +kernel

/-- SIG of counter 40 with VALUE; BAR 3 with WREL (R56, R58). -/
def lsig (v : Nat) : Line := ln [(0x10, 0), (1, 206), (40, 192), (1, 208), (v, 224)]
def lbar (wrel : Nat) : Line := ln [(0x13, 0), (3, 192), (wrel, 208)]

def psig : PendSig := { src := .prog, ord := 1, line := lsig 2, pc := 0, entry := none, isBar := false, cid := 40, express := false
                        value := 7, scope := 0, launch := captureLaunch base 0 (lsig 2) 0, wrel := false, sent := false }

/-- The program's queue of pending signals holds `n` entries, and `l` is next to issue. -/
def queued (n : Nat) (l : Line) : State :=
  base.setTile 0 { tile0 with fetched := some l, fetchPc := 2, pendProg := List.replicate n psig }

theorem test_w_SignalsQueue : (∀ p ∈ [(0, lsig 2), (3, lsig 2), (4, lsig 2), (0, lbar 0), (3, lbar 0), (3, lbar 1), (4, lbar 1)],
      Offered (queued p.1 p.2) 0 .prog (at_ p.2) ∧ Unheld (queued p.1 p.2) 0 .prog p.2 ∧ (((queued p.1 p.2).tile 0).pend false).length = p.1)
    ∧ rowOf (lsig 2) = .sig ∧ cidOf base 0 (lsig 2) = some (false, 40) ∧ rowOf (lbar 0) = .bar ∧ iWrel (lbar 0) = false
    ∧ iWrel (lbar 1) = true := by
  simp only [Offered, Unheld]
  decide +kernel

/-- SIG amount: g1 + VALUE (R56). -/
theorem test_sig : ((aft (runs (lsig 2)) (.sig 0 (good .prog))).tile 0).pendProg.map (fun p => (p.cid, p.value)) = [(40, 7)] := by
  decide +kernel
theorem test_bar : ((aft (runs (lbar 0)) (.bar 0 (good .prog))).tile 0).pendProg.map (fun p => (p.isBar, p.cid)) = [(true, 3)] := by
  decide +kernel

/-- WAIT: condition, TREG, VALUE, RREG on counter 40, or on an express counter through context entry 1 (R57). -/
def lwait (cond g cid : Nat) : Line := ln [(0x11, 0), (g, 206), (cid, 192), (cond, 208), (1, 211), (2, 224)]

theorem test_w_WaitRegistersWatch : ∀ p ∈ [(0, Row.waitGe), (1, .waitEq), (2, .waitAcquire), (3, .waitClaim)],
    Offered (runs (lwait p.1 1 40)) 0 .prog (at_ (lwait p.1 1 40)) ∧ Unheld (runs (lwait p.1 1 40)) 0 .prog (lwait p.1 1 40)
    ∧ rowOf (lwait p.1 1 40) = p.2 ∧ cidOf (runs (lwait p.1 1 40)) 0 (lwait p.1 1 40) = some (false, 40)
    ∧ ((aft (runs (lwait p.1 1 40)) ((simpleCmd 0 .prog p.2).getD .rstN)).prom.net.map (fun m =>
        match m.body with | .watchReg r => (r.cond, r.operand) | _ => (9, 0))) = [(p.1, 7)] := by
  simp only [Offered, Unheld]
  decide +kernel

/-- Context 0 entry 1 names express counter 5; `n` of the tile's watch slots are taken. -/
def exwait (l : Line) (n : Nat) : State :=
  let r : Reg := { who := { tile := 0, stream := none, src := .ring 8, ord := 0, cond := 2 }, cid := 9, express := true,
                   cond := 0, operand := 1, scope := 0 }
  { base.setTile 0 { tile0 with fetched := some l, fetchPc := 2, xwatches := List.replicate n r } with
    lodge := { Lodge.init with ctx := [(1, 0xC0000005)] } }

theorem test_w_WaitTakesExpressSlot : ∀ n ∈ [0, 15, 16], ∀ p ∈ [(0, Row.waitGe), (1, .waitEq)],
    Offered (exwait (lwait p.1 0 1) n) 0 .prog (at_ (lwait p.1 0 1)) ∧ Unheld (exwait (lwait p.1 0 1) n) 0 .prog (lwait p.1 0 1) ∧ rowOf (lwait p.1 0 1) = p.2
    ∧ cidOf (exwait (lwait p.1 0 1) n) 0 (lwait p.1 0 1) = some (true, 5)
    ∧ (Tab.get (exwait (lwait p.1 0 1) n).lodge.xval 0 5 - 7).toInt < 0
    ∧ ((aft (exwait (lwait p.1 0 1) n) ((simpleCmd 0 .prog p.2).getD .rstN)).tile 0).xwatches.length = min 16 (n + 1) := by
  simp only [Offered, Unheld]
  decide +kernel

def lfence : Line := ln [(0x12, 0)]
def fence : FenceSt := { src := .prog, ord := 5, scope := 0, line := lfence, pc := 0, entry := some eref
                         launch := captureLaunch base 0 lfence 0 }
def fenced : State := base.setTile 0 { tile0 with fences := [fence] }

theorem test_w_FenceIssues : Offered (runs lfence) 0 .prog (at_ lfence) ∧ Unheld (runs lfence) 0 .prog lfence ∧ rowOf lfence = .fence
    ∧ ((aft (runs lfence) (.fence 0 (good .prog))).tile 0).fences.length = 1 := by
  simp only [Offered, Unheld]
  decide +kernel

theorem test_w_FenceCompletes : coreRuns fenced 0 = true
    ∧ (fenced.tile 0).fences.find? (fun f => decide (f.src = .prog)) = some fence
    ∧ (∀ p ∈ (fenced.tile 0).streams, p.2.src = .prog → fence.ord ≤ p.2.ord) ∧ strayWrites fenced 0 .prog fence = false
    ∧ ((aft fenced (.fenceComplete 0 .prog)).tile 0).fences = [] := by decide +kernel

/-- The program is held at its second instruction, a SIG or a BAR whose conditions hold, with `n` signals queued. -/
def heldSig (l : Line) (n : Nat) : State :=
  let h : HeldInstr := { line := l, pc := 2, entry := none, launch := captureLaunch base 0 l 0, cid := 40, express := false, opA := 5, opB := 0 }
  base.setTile 0 { tile0 with prog := { ord := 2, hold := .instr h, issueWait := 0 }, pendProg := List.replicate n psig }
def heldOf (s : State) : Option HeldInstr := match (s.tile 0).prog.hold with | .instr h => some h | _ => none

theorem test_w_HeldSignalLaunches : (∀ p ∈ [(lsig 2, Row.sig), (lbar 0, .bar), (lbar 1, .bar)], ∀ n ∈ [0, 3, 4], let s := heldSig p.1 n
      coreRuns s 0 = true ∧ (heldOf s).map (fun h => (rowOf h.line, condsHeld h.launch, timeHeld s h.launch, jobParked s 0 h.entry)) =
        some (p.2, true, true, false)
      ∧ (s.tile 0).streams = [] ∧ ((s.tile 0).pend false).length = n
      ∧ ((aft s (.launch 0 (.source .prog))).tile 0).pendProg.length = min 4 (n + 1)
      ∧ (heldOf (aft s (.launch 0 (.source .prog)))).isSome = decide (n = 4))
    ∧ ((aft (heldSig (lsig 2) 0) (.launch 0 (.source .prog))).tile 0).pendProg.map (fun p => (p.cid, p.value)) = [(40, 7)] := by
  decide +kernel

/-- Every instruction without a stream, held by a launch time of 2,000 Tc or by a DEP on counter 1 of the context (R41, R47). -/
def helds : List (Row × Line) :=
  [(.sig, lsig 2), (.waitGe, lwait 0 1 40), (.waitEq, lwait 1 1 40), (.waitAcquire, lwait 2 1 40), (.waitClaim, lwait 3 1 40),
    (.fence, lfence), (.bar, lbar 1), (.add, lset 0 3 1 2 30), (.sub, lset 1 3 1 2 30), (.and, lset 2 3 1 2 30),
    (.or, lset 3 3 1 2 30), (.xor, lset 4 3 1 2 30), (.shl, lset 5 3 1 2 30), (.shr, lset 6 3 1 2 30), (.tdw, lset 7 0 1 0 0),
    (.odw, lset 8 0 1 0 0), (.rdtime, lset 9 3 0 0 0), (.jmp, lbr 0x30 0 0 0 0 9), (.br, lbr 0x31 0 1 2 0 9),
    (.halt, lbr 0x32 0 0 0 0 0), (.nop, lbr 0x33 0 0 0 0 0)]
def timed (l : Line) : Line := l ||| ln [(1, 15), (2000, 64)]
def depped (l : Line) : Line := l ||| ln [(1, 12), (1, 47), (1, 32), (3, 448)]
/-- Context 0 entry 1 names counter 40. -/
def withCtx (s : State) : State := { s with lodge := { Lodge.init with ctx := [(1, 0x80000028)] } }

theorem test_w_HeldInstructionWaits : ∀ p ∈ helds, Offered (runs (timed p.2)) 0 .prog (at_ (timed p.2))
    ∧ Offered (withCtx (runs (depped p.2))) 0 .prog (at_ (depped p.2)) ∧ iLaunch (timed p.2) = 1 ∧ iDep (depped p.2) = true
    ∧ rowOf (timed p.2) = p.1 ∧ rowOf (depped p.2) = p.1 ∧ (simpleCmd 0 .prog p.1).isSome = true
    ∧ ((runs (timed p.2)).tile 0).pendProg = [] := by
  simp only [Offered]
  decide +kernel

def heldAdd (t : Nat) (fired : Bool) : State :=
  let l := ln [(0x20, 0), (3, 200), (1, 208), (2, 216), (30, 256), (1, 15), (t, 64)]
  let la := { captureLaunch base 0 l 0 with
    conds := [{ cid := 40, express := false, operand := 1, scope := 0, fired := fired }], tL := some (BitVec.ofNat 64 t) }
  let h : HeldInstr := { line := l, pc := 2, entry := none, launch := la, cid := 0, express := false, opA := 5, opB := 7 }
  base.setTile 0 { tile0 with prog := { ord := 1, hold := .instr h, issueWait := 0 } }
theorem test_w_HeldSetLaunches : (∀ f ∈ [true, false], ((heldOf (heldAdd 1000 f)).map (fun h =>
      (h.entry, rowOf h.line, h.launch.kind, h.launch.tL, h.launch.conds.map (·.fired)))) = some (none, .add, 1, some 1000, [f]))
    ∧ coreRuns (heldAdd 1000 true) 0 = true ∧ (heldAdd 1000 true).pg.valid = true ∧ (heldAdd 1000 true).pg.frozen = false
    ∧ (heldAdd 1000 true).pg.time = 1000
    ∧ ((aft (heldAdd 1000 true) (.launch 0 (.source .prog))).tile 0).greg 3 = 42
    ∧ aft (heldAdd 1001 true) (.launch 0 (.source .prog)) = heldAdd 1001 true := by decide +kernel

/-- Two words that break issue checks: a reserved SCOPE 3, which is MALFORMED, and an opcode of no class. -/
theorem test_w_ProgramCheckFaults : (∀ p ∈ [(Row.add, lset 0 3 1 2 30 ||| ln [(3, 17)]), (Row.bad, ln [(0x77, 0)])],
      issueCode (runs p.2) 0 p.2 false = some 0x10 ∧ headOf ((runs p.2).tile 0) .prog = some (at_ p.2)
      ∧ ((aft (runs p.2) (.add 0 (good .prog))).tile 0).fault = 0x80004002 ∧ rowOf p.2 = p.1)
    ∧ coreRuns base 0 = true := by
  decide +kernel

/-! ## Streams -/

/-- MOVE of descriptor 0 to descriptor 1 (R52), and the same with a signal of context entry 1 after every chunk. -/
def mv : Line := ln [(0x01, 0), (1, 200)]
/-- WALK with programs on both sides at 100 and 200; g1 and g2 load a0 (R53). -/
def wk : Line := ln [(0x02, 0), (1, 200), (100, 224), (1, 239), (200, 240), (1, 255), (1, 256), (2, 264)]

/-- The stream that issue allocates to `l`. -/
def stOf (l : Line) : Stream :=
  newStream (runs l) 0 (at_ l) .prog 1 0 (issueCtx ((runs l).tile 0) l false) (.int false 8) (.int false 8)

/-- Tile 0 holds stream 0. -/
def holds (st : Stream) : State := base.setTile 0 { tile0 with streams := [(0, st)] }

/-- The held ADD takes effect behind a MOVE of its source that has not launched (R61); while no time is valid it waits. -/
theorem test_w_HeldSetLaunches_waits : (let s := (heldAdd 1000 true).setStream 0 0 { stOf mv with ord := 0 }
      (heldOf s).isSome = true ∧ (s.tile 0).prog.ord = 1 ∧ (s.stream? 0 0).map (fun st => (st.src, st.ord, st.launched)) = some (.prog, 0, false)
      ∧ ((aft s (.launch 0 (.source .prog))).tile 0).greg 3 = 42)
    ∧ (let s := { heldAdd 1000 true with pg := { base.pg with valid := false } }
       (heldOf s).map (fun h => h.launch.kind) = some 1 ∧ aft s (.launch 0 (.source .prog)) = s) := by decide +kernel

theorem test_w_IssueAllocatesStream : (∀ p ∈ [(Row.move, mv), (.walk, wk)],
      headOf ((runs p.2).tile 0) .prog = some (at_ p.2) ∧ rowOf p.2 = p.1
      ∧ streamCode (runs p.2) 0 p.2 false (issueCtx ((runs p.2).tile 0) p.2 false) = none)
    ∧ coreRuns base 0 = true ∧ tile0.stgPending = none ∧ freeOf tile0 false = some 0 := by decide +kernel

/-- BASE of each side, and a0 from g1 and g2 for a WALK (R52, R86). -/
theorem test_move : ((aft (runs mv) (.move 0 (good .prog) .clean)).stream? 0 0).map (fun st => (st.rdBase, st.wrBase)) =
    some (BitVec.ofNat 64 (win 0), BitVec.ofNat 64 (win 1024)) := by decide +kernel
theorem test_walk : ((aft (runs wk) (.walk 0 (good .prog) .clean)).stream? 0 0).map (fun st =>
    (st.rd.pc, st.rd.reg 0, st.wr.pc, st.wr.reg 0)) = some (100, 5, 200, 7) := by decide +kernel

/-- The stream at its launch: conditions fired or not, launch time `t`. -/
def toLaunch (fired : Bool) (t : Nat) : Stream := { stOf mv with launch := { captureLaunch base 0 mv 0 with
  conds := [{ cid := 40, express := false, operand := 1, scope := 0, fired := fired }], kind := 1, tL := some (BitVec.ofNat 64 t) } }

theorem test_w_StreamLaunches : (∀ p ∈ [(true, 1000), (false, 1000)], (toLaunch p.1 p.2).launched = false
      ∧ (toLaunch p.1 p.2).abort = none ∧ (toLaunch p.1 p.2).launch.conds.map (·.fired) = [p.1])
    ∧ coreRuns (holds (toLaunch true 1000)) 0 = true ∧ (holds (toLaunch true 1000)).stream? 0 0 = some (toLaunch true 1000)
    ∧ orderHeld ((holds (toLaunch true 1000)).tile 0) .prog 1 = true ∧ jobParked (holds (toLaunch true 1000)) 0 none = false
    ∧ oRefuse (toLaunch true 1000).od = false ∧ (toLaunch true 1000).entry = none ∧ base.pg.time = 1000
    ∧ ((aft (holds (toLaunch true 1000)) (.launch 0 (.stream 0))).stream? 0 0).map (·.launched) = some true
    ∧ aft (holds (toLaunch true 1001)) (.launch 0 (.stream 0)) = holds (toLaunch true 1001) := by decide +kernel

/-- A launch time 900 Tc past, REFUSE, LBUDGET 0. -/
def lateSt : Stream := { toLaunch true 100 with od := ln [(1, 21)] }

theorem test_w_LateLaunchRefused : coreRuns (holds lateSt) 0 = true ∧ (holds lateSt).stream? 0 0 = some lateSt
    ∧ lateSt.launched = false ∧ lateSt.abort = none ∧ condsHeld lateSt.launch = true
    ∧ timeHeld (holds lateSt) lateSt.launch = true ∧ orderHeld ((holds lateSt).tile 0) lateSt.src lateSt.ord = true
    ∧ jobParked (holds lateSt) 0 lateSt.entry = false ∧ oRefuse lateSt.od = true
    ∧ oLbudget lateSt.od < estimate (holds lateSt) 0 0 lateSt (atLaunch (holds lateSt) lateSt.launch).ll
    ∧ ((aft (holds lateSt) (.launch 0 (.stream 0))).tile 0).refuseCount = 1 := by decide +kernel

/-- A launched stream that has read and written all its 16 elements. -/
def running : Stream := { stOf mv with launched := true }
def finished : Stream := { running with rdPos := 16, outPos := 16 }

theorem test_w_FinishedStreamRetires : (∀ p ∈ [(true, finished), (false, running)], p.2.finished = p.1
      ∧ (holds p.2).stream? 0 0 = some p.2 ∧ p.2.parked = none ∧ p.2.abort = none ∧ p.2.stop = none ∧ p.2.launched = true
      ∧ p.2.resumer = none ∧ p.2.entry = none)
    ∧ coreRuns (holds running) 0 = true ∧ (holds { finished with entry := some eref }).stream? 0 0 =
      some { finished with entry := some eref }
    ∧ (((aft (holds { finished with entry := some eref }) (.retire 0 0)).ring 0).comps).map (fun c => (c.idx, fld c.w72 7 0)) =
      [(0, 0)] := by decide +kernel

theorem test_w_ParkedStreamEnds : (∀ p ∈ [(Row.resume, 0), (.abandon, 1)],
      let l := ln [(0x40, 0), (p.2, 200), (77, 224)]
      let s := (fromRing l).setStream 0 0 { running with parked := some 77 }
      headOf (s.tile 0) (.ring 1) = some { line := l, pc := 0, entry := some eref } ∧ issueCode s 0 l true = none
      ∧ rowOf l = p.1 ∧ s.stream? 0 0 = some { running with parked := some 77 } ∧ iParkid l = 77 ∧ iStream l = 0
      ∧ (∀ q ∈ (s.tile 0).streams, q.2.launched = true))
    ∧ coreRuns base 0 = true := by decide +kernel

/-- The head of the pending queue, a SIG or a BAR, of the program or of a ring source. -/
def pend (ring x isBar : Bool) : PendSig :=
  { psig with src := if ring then .ring 1 else .prog, express := x, isBar := isBar, cid := 3 }
def pends (p : PendSig) : State :=
  base.setTile 0 ({ tile0 with seq := .halted }.setPend (Source.isRing p.src) [p])

theorem test_w_PendingSignalSends : (∀ r ∈ [true, false], ∀ p ∈ [pend r false false, pend r true false, pend r false true],
      coreRuns (pends p) 0 = true ∧ ((pends p).tile 0).pend r = [p] ∧ p.sent = false ∧ Source.isRing p.src = r
      ∧ ((pends p).tile 0).streams = [] ∧ ((pends p).tile 0).fences = [])
    ∧ ((aft (pends (pend false false false)) (.pendingSignal 0 false)).prom.net.map (fun m =>
        (m.dst, match m.body with | .upd v => (v.cid, v.value) | _ => (0, 0)))) = [(.lodge 0, (3, 7))] := by decide +kernel

/-! ## The program -/

/-- The program fetches next from index `pc`. -/
def fetches (pc : Nat) : State := base.setTile 0 { tile0 with pc := pc, imem := [(16 * 1023 + 15, 0xABCD)] }

theorem test_w_FetchReadsInstruction : (∀ pc ∈ [1023, 1024], coreRuns (fetches pc) 0 = true
      ∧ ((fetches pc).tile 0).seq = .running ∧ ((fetches pc).tile 0).stopping = false
      ∧ ((fetches pc).tile 0).fetched = none ∧ ((fetches pc).tile 0).prog.hold = .none ∧ ((fetches pc).tile 0).pc = pc)
    ∧ (((aft (fetches 1023) (.instructionFetch 0 .clean)).tile 0).fetched.map (fun l => fld l 511 480)) = some 0xABCD
    ∧ ((aft (fetches 1024) (.instructionFetch 0 .clean)).tile 0).fault = 0x800043FF := by decide +kernel

theorem test_w_RunAndStop : (∀ q ∈ [SeqState.idle, .running, .halted, .faulted],
      Reaches (base.setTile 0 { tile0 with seq := q }) (tileAddr 0 0) (.tile 0 .ctrl))
    ∧ (let x := (aft (base.setTile 0 { tile0 with seq := .halted }) (.run 0 0x00030009)).tile 0
       (x.seq, x.pc, x.ringStreams)) = (.running, 9, 3)
    ∧ (let x := (aft (base.setTile 0 tile0) (.stop 0 0x00030009)).tile 0
       (x.seq, x.pc, x.stopping)) = (.running, 3, true) := by
  simp only [Reaches]
  decide +kernel

def halting (st : List (Nat × Stream)) : State := base.setTile 0 { tile0 with stopping := true, streams := st }

theorem test_w_ProgramHalts : (∀ ss ∈ [[], [(0, { running with parked := some 3 })], [(0, running)]],
      coreRuns (halting ss) 0 = true ∧ ((halting ss).tile 0).seq = .running ∧ ((halting ss).tile 0).stopping = true
      ∧ ((halting ss).tile 0).prog.hold = .none ∧ ((halting ss).tile 0).fetched = none ∧ ((halting ss).tile 0).pendProg = [])
    ∧ ((aft (halting [(0, { running with parked := some 3 })]) (.programHalted 0)).tile 0).seq = .halted
    ∧ aft (halting [(0, running)]) (.programHalted 0) = halting [(0, running)] := by decide +kernel

theorem test_w_TileMemoryWrites : (∀ q ∈ [SeqState.running, .halted],
      let s := base.setTile 0 { tile0 with seq := q }
      Reaches s (BitVec.ofNat 26 0x1027FFC).toNat (.tile 0 (.tdt 8191)) ∧ Reaches s 0x1028000 (.tile 0 (.odt 0))
      ∧ Reaches s 0x1030000 (.tile 0 (.wpm 0)) ∧ Reaches s 0x101FFFC (.tile 0 (.imem 16383))
      ∧ Reaches s 0x1000108 (.tile 0 (.g 1 false)) ∧ Tab.find s.cp.heldHi 0x100010C = none)
    ∧ Tab.get ((aft (base.setTile 0 tile0) (.tileMemoryWrite 0x1027FFC 0x11223344 5)).tile 0).tdt 0 8191 = 0x00220044 := by
  simp only [Reaches]
  decide +kernel

/-! ## Walker programs -/

/-- A walker word: opcode, a register number, and the rest (R88). -/
def wd (op an rest : Nat) : Word := BitVec.ofNat 32 (op <<< 27 ||| an <<< 23 ||| rest)

/-- A launched WALK whose walkers hold `a` and one circular pair of 16 bytes at the bases of the sides. -/
def walking (a : Tab DWord) (len : Nat) (stack : List Loop) : Stream :=
  let w := fun pc => { Walker.init pc 0 with a := a, cBase := [(1, 32)], cLen := if len = 0 then [] else [(1, BitVec.ofNat 64 len)],
                                             stack := stack }
  { stOf wk with launched := true, rd := w 100, wr := w 200 }

/-- Both sides' programs stand at word `i`. -/
def walks (i : Word) (st : Stream) : State :=
  base.setTile 0 { tile0 with streams := [(0, st)], wpm := [(100, i), (200, i)] }

/-- Whether word `i` is ready on a side of stream 0. -/
def readyIn (s : State) (side : Side) (i : Word) (st : Stream) : Bool :=
  decide (s.stream? 0 0 = some st) && coreRuns s 0 && st.live && st.usesProg side
    && !(st.walker side).ended && decide ((st.walker side).pc ≤ 4095)
    && decide (Tab.get (s.tile 0).wpm 0 (st.walker side).pc = i) && !st.walkPast side && decide ((s.tile 0).badWords = [])

theorem ready_in {s : State} {side : Side} {i : Word} {st : Stream} (h : readyIn s side i st = true) : WalkerReady s 0 0 side st i := by
  simp only [readyIn, Bool.and_eq_true, decide_eq_true_eq, Bool.not_eq_true'] at h
  obtain ⟨⟨⟨⟨⟨⟨⟨⟨a, b⟩, c⟩, d⟩, e⟩, f⟩, g⟩, k⟩, m⟩ := h
  exact ⟨a, b, c, d, e, k, f, g, fun j => by simp [m]⟩

/-- Whether it is ready on both. -/
def readyBoth (i : Word) (st : Stream) : Bool := readyIn (walks i st) .read i st && readyIn (walks i st) .write i st

theorem ready_both {i : Word} {st : Stream} (h : readyBoth i st = true) (side : Side) : WalkerReady (walks i st) 0 0 side st i := by
  rw [readyBoth, Bool.and_eq_true] at h
  cases side
  · exact ready_in h.1
  · exact ready_in h.2

def wst : Stream := walking [(0, 40), (1, 5)] 16 []
def wst0 : Stream := walking [(0, 40), (1, 5)] 0 []

/-- ADDI of −9, ADDA of a1, with CE = 0, with CE = 1 on a pair of 16 bytes, and on one of length 0. -/
theorem test_w_WalkerAdds (side : Side) :
    WalkerReady (walks (wd 2 0 0xFFFF7) wst) 0 0 side wst (wd 2 0 0xFFFF7)
    ∧ WalkerReady (walks (wd 3 0 0x10000) wst) 0 0 side wst (wd 3 0 0x10000)
    ∧ WalkerReady (walks (wd 2 0 0x5FFFF7) wst) 0 0 side wst (wd 2 0 0x5FFFF7)
    ∧ WalkerReady (walks (wd 3 0 0x510000) wst) 0 0 side wst (wd 3 0 0x510000)
    ∧ WalkerReady (walks (wd 3 0 0x510000) wst0) 0 0 side wst0 (wd 3 0 0x510000) :=
  ⟨ready_both (by decide +kernel) side, ready_both (by decide +kernel) side, ready_both (by decide +kernel) side,
    ready_both (by decide +kernel) side, ready_both (by decide +kernel) side⟩

/-- a0 of the read walker after a word. -/
def a0After (i : Word) (c : Instr) (st : Stream) : Option DWord := ((aft (walks i st) c).stream? 0 0).map (fun st => st.rd.reg 0)

theorem test_addi : a0After (wd 2 0 0xFFFF7) (.addi 0 0 .read .clean) wst = some 31
    ∧ a0After (wd 2 0 0x5FFFF7) (.addi 0 0 .read .clean) wst = some 47
    ∧ wopOf (wd 2 0 0xFFFF7) = .addi := by decide +kernel
theorem test_adda : a0After (wd 3 0 0x10000) (.adda 0 0 .read .clean) wst = some 45
    ∧ ((aft (walks (wd 3 0 0x510000) wst0) (.adda 0 0 .read .clean)).stream? 0 0).map (fun st => st.stop.map (·.code)) = some (some 0x10)
    ∧ wopOf (wd 3 0 0x10000) = .adda ∧ wst0.stop = none := by decide +kernel

/-- LDI of −2 shifted by 40, alone and added; CSET of pair 3. -/
theorem test_w_WalkerLoads (side : Side) :
    WalkerReady (walks (wd 4 0 0x4FFFFE) wst) 0 0 side wst (wd 4 0 0x4FFFFE)
    ∧ WalkerReady (walks (wd 4 0 0x5FFFFE) wst) 0 0 side wst (wd 4 0 0x5FFFFE)
    ∧ WalkerReady (walks (wd 6 0xC 0x20000) wst) 0 0 side wst (wd 6 0xC 0x20000) :=
  ⟨ready_both (by decide +kernel) side, ready_both (by decide +kernel) side, ready_both (by decide +kernel) side⟩
theorem test_ldi : a0After (wd 4 0 0x4FFFFE) (.ldi 0 0 .read .clean) wst = some 0xFFFFFE0000000000
    ∧ a0After (wd 4 0 0x5FFFFE) (.ldi 0 0 .read .clean) wst = some 0xFFFFFE0000000028 := by decide +kernel
theorem test_cset : ((aft (walks (wd 6 0xC 0x20000) wst) (.cset 0 0 .read .clean)).stream? 0 0).map (fun st =>
    (Tab.get st.rd.cBase 0 3, Tab.get st.rd.cLen 0 3)) = some (40, 5) ∧ wopOf (wd 6 0xC 0x20000) = .cset := by decide +kernel

def nested (n stop : Nat) : Stream := walking [(1, 5)] 0 (List.replicate n { first := 99, stop := stop, left := 1 })

/-- REPEAT and REPEATR: bodies that reach 4,096 and past it, empty, past the body around, at the eighth and ninth level, and a
count of 0. -/
theorem test_w_WalkerRepeats (side : Side) : let ok := nested 7 4096
    let r := fun len => wd 8 0 (3 <<< 12 ||| len)
    WalkerReady (walks (r 3895) (nested 7 4096)) 0 0 side ok (r 3895)
    ∧ WalkerReady (walks (wd 9 1 10) ok) 0 0 side ok (wd 9 1 10) ∧ WalkerReady (walks (wd 9 0 10) ok) 0 0 side ok (wd 9 0 10)
    ∧ WalkerReady (walks (r 0) ok) 0 0 side ok (r 0) ∧ WalkerReady (walks (r 4095) ok) 0 0 side ok (r 4095)
    ∧ WalkerReady (walks (r 10) (nested 1 105)) 0 0 side (nested 1 105) (r 10)
    ∧ WalkerReady (walks (r 10) (nested 8 4096)) 0 0 side (nested 8 4096) (r 10) :=
  ⟨ready_both (by decide +kernel) side, ready_both (by decide +kernel) side, ready_both (by decide +kernel) side,
    ready_both (by decide +kernel) side, ready_both (by decide +kernel) side, ready_both (by decide +kernel) side,
    ready_both (by decide +kernel) side⟩
theorem test_repeat : ((aft (walks (wd 8 0 (3 <<< 12 ||| 3895)) (nested 0 0)) (.rep 0 0 .write .clean)).stream? 0 0).map
    (fun st => (st.wr.pc, st.wr.stack)) = some (201, [{ first := 201, stop := 4096, left := 3 }])
    ∧ ((aft (walks (wd 8 0 (3 <<< 12 ||| 3896)) (nested 0 0)) (.rep 0 0 .write .clean)).stream? 0 0).map
      (fun st => st.stop.map (·.code)) = some (some 0x10) := by decide +kernel
theorem test_repeatr : ((aft (walks (wd 9 0 10) (nested 0 0)) (.repr 0 0 .write .clean)).stream? 0 0).map (fun st => st.wr.pc) =
    some 211 := by decide +kernel

def wprb : Stream := { wst with srcTd := BitVec.ofNat 1024 (0x50 <<< 64 ||| win 0) }

/-- EMIT of 16 elements with POST, of 16 through the pair, of one PRB, and END. -/
theorem test_w_WalkerEmits (side : Side) :
    WalkerReady (walks (wd 1 0 0x40000F) wst) 0 0 side wst (wd 1 0 0x40000F)
    ∧ WalkerReady (walks (wd 1 0 0x28000F) wst) 0 0 side wst (wd 1 0 0x28000F)
    ∧ WalkerReady (walks (wd 1 0 0x000000) wprb) 0 0 .read wprb (wd 1 0 0x000000)
    ∧ WalkerReady (walks (wd 0 0 0) wst) 0 0 side wst (wd 0 0 0) :=
  ⟨ready_both (by decide +kernel) side, ready_both (by decide +kernel) side, ready_both (by decide +kernel) .read,
    ready_both (by decide +kernel) side⟩
theorem test_emit : ((aft (walks (wd 1 0 0x40000F) wst) (.emit 0 0 .read .clean)).stream? 0 0).map (fun st =>
      (st.rdRuns.map (fun r => (r.addr, r.n)), st.rd.reg 0)) = some ([(BitVec.ofNat 64 (win 40), 16)], 56)
    ∧ runErr (walks (wd 1 0 0x40000F) wst) 0 (wst.elemOf .read) .read (BitVec.ofNat 64 (win 40)) 16 = none := by decide +kernel
/-- From 8 into a pair of 16 bytes: 8 to its end, 8 from its base (R90). -/
theorem test_emit_wraps : ((aft (walks (wd 1 0 0x28000F) wst) (.emit 0 0 .read .clean)).stream? 0 0).map (fun st =>
    st.rdRuns.map (fun r => (r.addr, r.n))) = some [(BitVec.ofNat 64 (win 40), 8), (BitVec.ofNat 64 (win 32), 8)]
    ∧ (match emitRuns (walks (wd 1 0 0x28000F) wst) 0 wst .read wst.rd [(BitVec.ofNat 64 40, 8), (32, 8)] with | .ok _ => true | _ => false) = true := by
  decide +kernel
theorem test_walk_end : ((aft (walks (wd 0 0 0) wst) (.walkEnd 0 0 .read .clean)).stream? 0 0).map (fun st => st.rd.ended) =
    some true := by decide +kernel

def widx (p : Nat) : Stream := walking [(0, 40), (1, BitVec.ofNat 64 p)] 16 []

/-- IDX of 2 bytes at the end of the scratchpad and past it, and not aligned; SCAN of 9 bits from offset 40. -/
theorem test_w_WalkerIndexes (side : Side) :
    WalkerReady (walks (wd 12 2 0x8400) (widx 2097150)) 0 0 side (widx 2097150) (wd 12 2 0x8400)
    ∧ WalkerReady (walks (wd 12 2 0x8400) (widx 2097152)) 0 0 side (widx 2097152) (wd 12 2 0x8400)
    ∧ WalkerReady (walks (wd 12 2 0x8400) (widx 3)) 0 0 side (widx 3) (wd 12 2 0x8400)
    ∧ WalkerReady (walks (wd 13 2 0x8009) wst) 0 0 side wst (wd 13 2 0x8009) :=
  ⟨ready_both (by decide +kernel) side, ready_both (by decide +kernel) side, ready_both (by decide +kernel) side,
    ready_both (by decide +kernel) side⟩

/-- Bytes of the scratchpads from an offset, or poison. -/
def withBytes (s : State) (o : Nat) (bs : List Byte) : State := { s with spad := { s.spad with mem := memWrite s.spad.mem o bs } }
def withPoison (s : State) (u : Nat) : State := { s with spad := { s.spad with poison := [u] } }

/-- The same with the accesses granted (R293), and an IDX and a SCAN whose banks have not granted them. -/
theorem test_w_WalkerIndexes_idx :
    WalkerReady (indexed .read [15] (walks (wd 12 2 0x8400) (widx 2097150))) 0 0 .read (widx 2097150) (wd 12 2 0x8400) :=
  ready_in (by decide +kernel)
theorem test_w_WalkerIndexes_scan : WalkerReady (indexed .write [0] (walks (wd 13 2 0x8009) wst)) 0 0 .write wst (wd 13 2 0x8009) :=
  ready_in (by decide +kernel)
theorem test_w_WalkerIndexes_idx_bank : let s := indexed .read [15] (walks (wd 12 2 0x8400) (widx 2097150))
    indexGiven s 0 .read (banksOf s 2097150 2) = true ∧ s.spad.poison = [] := by decide +kernel
theorem test_w_WalkerIndexes_scan_bank : let s := indexed .write [0] (walks (wd 13 2 0x8009) wst)
    indexGiven s 0 .write (banksOf s 40 2) = true := by decide +kernel
theorem test_w_WalkerIndexes_scan_runs : ∀ p ∈ List.range 9,
    runErr (walks (wd 13 2 0x8009) wst) 0 (wst.elemOf .write) .write (wst.baseOf .write + BitVec.ofNat 64 (5 * p)) 12 = none := by
  decide +kernel
/-- The next read of a side's walker lacks a grant. -/
def readWaits (s : State) (st : Stream) (side : Side) : Bool :=
  (walkerReads s 0 st side).any (fun r => !indexGiven s 0 side (banksOf s r.1 r.2))
theorem test_w_WalkerIndexes_idx_waits : readWaits (walks (wd 12 2 0x8400) (widx 2097150)) (widx 2097150) .read = true := by
  decide +kernel
theorem test_w_WalkerIndexes_scan_waits : readWaits (walks (wd 13 2 0x8009) wst) wst .read = true := by decide +kernel

theorem test_idx : ((aft (indexed .read [0] (withBytes (walks (wd 12 2 0x8400) (widx 6)) 6 [3, 1])) (.idx 0 0 .read ⟨.clean, .clean⟩)).stream? 0 0).map
    (fun st => (st.rd.reg 2, st.rd.reg 1)) = some (40 + 259 * 4, 8)
    ∧ ((aft (walks (wd 12 2 0x8400) (widx 2097152)) (.idx 0 0 .read ⟨.clean, .clean⟩)).stream? 0 0).map (fun st => st.stop.map (·.code)) =
      some (some 0x19) := by decide +kernel
theorem test_scan : ((aft (indexed .read [0] (withBytes (walks (wd 13 2 0x8009) wst) 40 [0x41, 1])) (.scan 0 0 .read ⟨.clean, .clean⟩)).stream? 0 0).map
    (fun st => st.rdRuns.map (fun r => (r.addr, r.n))) =
      some [(BitVec.ofNat 64 (win 0), 12), (BitVec.ofNat 64 (win 30), 12), (BitVec.ofNat 64 (win 40), 12)] := by decide +kernel

/-! ## Requests, staging, datapath and commit -/

/-- The read request of the stream's 16 bytes, outstanding, and its answer at the tile. -/
def rq : ReadReq := { id := 0, tile := 0, stream := 0, src := .prog, ord := 1, epoch := 0, addr := BitVec.ofNat 64 (win 0)
                      off := some 0, len := 2, what := .elems [(0, 0), (1, 8)], side := .read, pos := 0, nonidem := false, part := 0 }
/-- A message that has reached its unit. -/
def msgTo (src dst : Node) (cls : Cls) (b : Body) : Msg :=
  { cls := cls, src := src, dst := dst, slack := 0, stamp := 0, prio := 0, flits := 1, index := 0, route := [], inp := 0
    done := 0, got := [], sats := 0, bad := false, again := false, body := b }
def sent (s : State) (m : Msg) : State := { s with prom := { s.prom with net := [m] } }

/-- Stream 0 of tile 0 has the grant of the read walker, the write walker or the datapath. -/
def granted (p : Point) (st : Stream) : State := decided p [0] (holds st)

theorem test_w_ReadRequestLeaves : let s := granted (.readIssue 0) running
    let r := takePoint s (.readIssue 0) (streamCands s 0 true (fun n st => wantsRead s 0 n st))
    r.2 = some 0
    ∧ (let s1 := r.1
       s1.stream? 0 0 = some running ∧ (match roomPlan s1 0 0 running with
         | .req a len what side pos next skip => decide (a = BitVec.ofNat 64 (win 0) ∧ len = 16 ∧ side = .read ∧ pos = 0
             ∧ next = 16 ∧ skip = 0 ∧ what = .elems ((List.range 16).map (fun k => (k, 8 * (k : Int)))))
         | _ => false) = true)
    ∧ coreRuns s 0 = true
    ∧ ((aft s (.readRequest 0 true)).prom.net.map (fun m => (m.dst, m.route))) =
      [(.tile 0, [.bank 0 0])] := by decide +kernel

def pc (a : Nat) (n : Nat) : Piece := { addr := BitVec.ofNat 64 a, data := List.replicate n 7, pos := 0, wrap := false, base := State.genNow base }
/-- The only chunk of the stream, with pieces still to send. -/
def chunk (todo : List Piece) (sig : Bool) : Chunk :=
  { idx := 0, seq := 1, mark := { k0 := 0, esc := running.esc, wr := running.wr }, kEnd := 16, bytes := 16, endpoint := .group 0 0
    todo := todo, extra := [], last := some (pc (win 1032) 8), closed := true, journal := true, reserved := false, unacked := 0
    lastSent := false, isLast := true, wantSignal := sig, acked := false, nonidem := false, addr := BitVec.ofNat 64 (win 1024)
    base := State.genNow base, lostApply := false }
def writing (todo : List Piece) (sig : Bool) : Stream := { finished with chunks := [chunk todo sig], nextChunk := 1 }

theorem test_w_WriteRequestLeaves : let st := writing [pc (win 1024) 8] false
    let s := granted (.writeIssue 0) st
    let s1 := placeTile s 0
    coreRuns s 0 = true ∧ takerOf s1 (.writeIssue 0) (writeCands s1 0) = some 0 ∧ s1.stream? 0 0 = some st
    ∧ nextWrite s1 0 st = some (chunk [pc (win 1024) 8] false, pc (win 1024) 8, false)
    ∧ ((aft s (.writeRequest 0 true)).stream? 0 0).map (fun st => st.wrOut.map (·.addr)) = some [BitVec.ofNat 64 (win 1024)] := by
  decide +kernel

theorem test_w_LastFlitCarriesSignal : (∀ g ∈ [true, false], let s := granted (.writeIssue 0) (writing [] g)
      let s1 := placeTile s 0
      coreRuns s 0 = true ∧ s1.stream? 0 0 = some (writing [] g) ∧ (writing [] g).live = true
      ∧ lastReady s1 0 (writing [] g) = some (chunk [] g) ∧ (chunk [] g).last = some (pc (win 1032) 8)
      ∧ takerOf s1 (.writeIssue 0) (writeCands s1 0) = some 0
      ∧ (writing [] g).readOnce (chunkStart (takePoint s1 (.writeIssue 0) (writeCands s1 0)).1 0 (writing [] g) 0) = false
      ∧ (writing [] g).replays < 2 ∧ (writing [] g).lostApply = false ∧ (∀ d ∈ (writing [] g).chunks, d.lostApply = false))
    ∧ (aft (granted (.writeIssue 0) (writing [] true)) (.lastFlitSend 0 0 ⟨true, true⟩)).prom.net.map (fun m =>
        match m.body with | .wr w => (w.addr, (w.signal.map (·.seq))) | _ => (0, none)) = [(BitVec.ofNat 64 (win 1032), some 1)]
    ∧ (∀ p ∈ [(false, true), (true, false)], ((aft (granted (.writeIssue 0) (writing [] true)) (.lastFlitSend 0 0 ⟨p.1, p.2⟩)).stream? 0 0).map
        (fun st => (st.replays, st.chunks.length)) = some (1, 0)) := by decide +kernel

def reading (stop : Option StopSt) : Stream := { running with outstanding := [rq], rdPos := 2, stop := stop }
def answered' (a : Answer) (data : List Byte) (st : Stream) : State := sent (holds st) (msgTo (.tile 0) (.tile 0) .response (.rdResp rq a data))

theorem test_w_ReadResponseStages : arrived (answered' .okay [3, 4] (reading none)) 0 =
      some (msgTo (.tile 0) (.tile 0) .response (.rdResp rq .okay [3, 4]))
    ∧ coreRuns (answered' .okay [3, 4] (reading none)) 0 = true
    ∧ (answered' .okay [3, 4] (reading none)).stream? 0 0 = some (reading none) ∧ rq ∈ (reading none).outstanding
    ∧ (([(0, 0), (1, 8)] : List (Nat × Int)).map (·.1)).Nodup
    ∧ (∀ e ∈ ([(0, 0), (1, 8)] : List (Nat × Int)), Tab.find (reading none).staged e.1 = none ∧ 0 ≤ e.2)
    ∧ ((aft (answered' .okay [3, 4] (reading none)) (.readResponse 0 .clean)).stream? 0 0).map (·.staged) = some [(0, 3), (1, 4)]
    ∧ (let st := { reading none with outstanding := [], oldReads := [rq] }
       rq ∈ st.oldReads ∧ (answered' .okay [3, 4] st).stream? 0 0 = some st
       ∧ (aft (answered' .okay [3, 4] st) (.readResponse 0 .clean)).prom.net = []
       ∧ ((aft (answered' .okay [3, 4] st) (.readResponse 0 .clean)).stream? 0 0).map (fun st => (st.oldReads.length, st.staged)) =
         some (0, [])) := by decide +kernel

theorem test_w_ReadErrorsStop : (∀ a ∈ [Answer.denied, .xfault, .offline, .poison], arrived (answered' a [] (reading none)) 0 =
        some (msgTo (.tile 0) (.tile 0) .response (.rdResp rq a []))
      ∧ (answered' a [] (reading none)).stream? 0 0 = some (reading none)) ∧ (reading none).stop = none
    ∧ (reading none).abort = none ∧ (reading none).src = rq.src ∧ (reading none).ord = rq.ord ∧ (reading none).epoch = rq.epoch
    ∧ [Answer.denied, .xfault].map (fun a => ((aft (answered' a [] (reading none)) (.readResponse 0 .clean)).stream? 0 0).map
        (fun st => st.stop.map (·.code))) = [some (some 0x19), some (some 0x18)]
    ∧ [Answer.offline, .poison].map (fun a => ((aft (answered' a [] (reading none)) (.readResponse 0 .clean)).stream? 0 0).map
        (fun st => st.abort)) = [some (some 0x30), some (some 0x38)] := by decide +kernel

/-- All 16 elements stand in staging. -/
def staged : Stream := { running with rdPos := 16, staged := (List.range 16).map (fun k => (k, BitVec.ofNat 32 (k + 1))) }

theorem test_w_DatapathAdvances : let s := granted (.datapath 0) staged
    let r := takePoint s (.datapath 0) (streamCands s 0 false (fun n st => wantsRow s 0 n st))
    coreRuns s 0 = true ∧ r.2 = some 0 ∧ r.1.stream? 0 0 = some staged ∧ windowFull (r.1.tile 0) 0 = false
    ∧ staged.groupReady staged.outPos = true ∧ staged.srcE.isBlock = false ∧ staged.dstE ≠ .bxz
    ∧ staged.readsScale = false ∧ staged.blocks = [] ∧ laneOff r.1 0 staged = false
    ∧ ((aft s (.tileDatapath 0)).stream? 0 0).map (fun st => (st.outPos, (st.outQ.flatMap (·.data)).take 3)) =
      some (16, [1, 2, 3]) := by decide +kernel

/-- A MOVE to BXZ blocks of 64 elements that all stand in staging, while the tile's BXZ lane is off (R402). -/
def bxStaged : Stream := { staged with
  srcTd := BitVec.ofNat 1024 ((3 <<< 64) ||| (0x1000040 <<< 128) ||| win 0), dstTd := BitVec.ofNat 1024 ((0x80 <<< 64) ||| (0x1000040 <<< 128) ||| win 1024)
  rdPos := 64, entries := [(0, (0, 0))], staged := (List.range 64).map (fun k => (k, BitVec.ofNat 32 (k + 1))) }
theorem test_w_DatapathAdvances_off : let s := (granted (.datapath 0) bxStaged).setDom 2 Dom.init
    let r := takePoint s (.datapath 0) (streamCands s 0 false (fun n st => wantsRow s 0 n st))
    coreRuns s 0 = true ∧ r.2 = some 0 ∧ r.1.stream? 0 0 = some bxStaged ∧ windowFull (r.1.tile 0) 0 = false
    ∧ bxStaged.groupReady bxStaged.outPos = true ∧ laneOff r.1 0 bxStaged = true ∧ bxStaged.stop = none ∧ bxStaged.abort = none
    ∧ ((aft s (.tileDatapath 0)).stream? 0 0).map (·.abort) = some (some 0x30) := by decide +kernel

/-- The running signatures at a chunk redone `n` times; its descriptor NONIDEM, or its apply lost. -/
def comparing (n : Nat) (nonidem lost : Bool) : Stream := { writing [] false with
  replays := n, chunks := [{ chunk [] false with nonidem := nonidem, lostApply := lost }]
  srcTd := if nonidem then running.srcTd ||| BitVec.ofNat 1024 (1 <<< 75) else running.srcTd }

theorem test_w_CompareReplays : (∀ p ∈ [(1, false, false), (2, false, false), (0, true, false), (0, false, true)], let st := comparing p.1 p.2.1 p.2.2
      coreRuns (holds st) 0 = true ∧ (holds st).stream? 0 0 = some st ∧ st.live = true ∧ st.stop = none
      ∧ (st.current.map (fun c => c.mark.k0)).getD st.firstOpen.1 = 0 ∧ st.readOnce (chunkStart (holds st) 0 st 0) = p.2.1
      ∧ st.chunks.map (·.lostApply) = [p.2.2] ∧ (holds st).cpc.stopped = []
      ∧ ((aft (holds st) (.signatureCompare 0 0 false)).stream? 0 0).map (fun st => (st.replays, st.abort)) =
        some (if p.1 = 1 then (2, none) else (p.1, some (if p.1 = 0 then 0x39 else 0x38)))) := by decide +kernel

def wq (kind : WriteKind) (sig : Option Upd) : WriteReq :=
  { id := 0, tile := 0, stream := 0, src := .prog, ord := 1, epoch := 0, idx := 0, seq := 1, addr := BitVec.ofNat 64 (win 1024)
    off := some 1024, data := [7], kind := kind, fmt := 3, rnd := 0, endpoint := .group 0 0, signal := sig, pos := 0, part := 0 }
def upd (kind : Nat) (x : Bool) : Upd :=
  { cid := 40, express := x, value := 3, scope := 0, kind := kind, tile := 0, stream := 0, seq := 1, src := .prog, ord := 1, wire := 0 }

theorem test_w_AcknowledgementCounts : let st := { writing [] false with wrOut := [wq .data none], chunks := [{ chunk [] false with unacked := 1 }] }
    let s := sent (holds st) (msgTo (.tile 0) (.tile 0) .response (.wrAck (wq .data none) .okay 0))
    arrived s 0 = some (msgTo (.tile 0) (.tile 0) .response (.wrAck (wq .data none) .okay 0)) ∧ coreRuns s 0 = true
    ∧ s.stream? 0 0 = some st ∧ wq .data none ∈ st.wrOut ∧ (wq .data none).epoch = st.epoch
    ∧ ((aft s (.writeAcknowledgement 0)).stream? 0 0).map (fun st => (st.wrOut.length, st.chunks.map (·.unacked))) =
      some (0, [0]) := by decide +kernel

/-- The only chunk of a stream with its last flit sent or not, bytes not acknowledged, and a signal. -/
def closing (sentLast : Bool) (unacked : Nat) (sig acked : Bool) : Stream :=
  { finished with chunks := [{ chunk [] sig with last := none, lastSent := sentLast, unacked := unacked, acked := acked }] }

theorem test_w_ChunkCommits : (∀ st ∈ [closing true 0 false false, closing true 0 true true, closing false 0 false false, closing true 1 false false,
      closing true 0 true false], coreRuns (holds st) 0 = true ∧ (holds st).stream? 0 0 = some st ∧ st.chunks ≠ [] ∧ st.abort = none
      ∧ signalAnswer (holds st) 0 0 = none)
    ∧ ((aft (holds (closing true 0 true true)) (.chunkCommit 0 ⟨0, .clean⟩)).stream? 0 0).map (fun st => (st.committed, st.chunks.length)) =
      some (1, 0) := by decide +kernel

def staging (a b : Word) (pend : Bool) (ss : Tab Stream) : State :=
  base.setTile 0 { tile0 with sliceA := a, sliceB := b, stgPending := if pend then some (a, b) else none, streams := ss }

theorem test_w_StagingLayout : Reaches (staging 0x01013901 0x01010101 false []) (tileAddr 0 0x308) (.tile 0 .stgCtrl)
    ∧ (∀ ss ∈ [[], [(0, running)]], coreRuns (staging 0x01013901 0x01010101 true ss) 0 = true
      ∧ ((staging 0x01013901 0x01010101 true ss).tile 0).stgPending = some (0x01013901, 0x01010101))
    ∧ ((aft (staging 0x01013901 0x01010101 false []) (.apply 0)).tile 0).stgPending = some (0x01013901, 0x01010101)
    ∧ ((aft (staging 0x01013A01 0x01010101 false []) (.apply 0)).tile 0).stgBadsum = true
    ∧ ((aft (staging 0x01013901 0x01010101 true []) (.layoutApplied 0)).tile 0).activeA = 0x01013901 := by
  simp only [Reaches]
  decide +kernel

/-- A calibration window of 2^10 elements, full or one short (R179). -/
def window (n : Nat) : State :=
  base.setTile 0 { tile0 with calCtrl := 10, windows := [(0, { Window.init with elems := n, sats := 4, flushes := 5 })] }

theorem test_w_CalibrationWindowRestarts : coreRuns (window 1024) 0 = true ∧ windowFull ((window 1024).tile 0) 0 = true
    ∧ windowFull ((window 1023).tile 0) 0 = false
    ∧ (Tab.get ((aft (window 1024) (.calibrationWindow 0 0)).tile 0).windows Window.init 0).sats = 0 := by decide +kernel

/-! ## Issue, endings and captures -/

/-- A MOVE of the program that has not launched stands before `l`. -/
def behind (l : Line) : State := (runs l).setStream 0 0 { stOf mv with ord := 0 }

def freedRows : List (Row × Line) := helds.filter (fun p => decide (p.1 ∈ [Row.sig, .bar, .fence, .nop, .waitGe, .waitEq, .waitAcquire, .waitClaim]))
  ++ [(.bar, lbar 0)]

def holdsSource (p : Row × Line) : Bool := decide ((waitCode p.1).isSome = true ∨ (p.1 = .bar ∧ iWrel p.2 = true))

theorem test_w_InstructionAwaitsTurn : (∀ p ∈ freedRows, Offered (behind p.2) 0 .prog (at_ p.2) ∧ Freed p.2 ∧ ¬ Unheld (behind p.2) 0 .prog p.2
      ∧ rowOf p.2 = p.1 ∧ ((behind p.2).tile 0).pendProg = []
      ∧ ((simpleCmd 0 .prog p.1).map (fun c => ((aft (behind p.2) c).tile 0).issued.length)) = some (if holdsSource p then 0 else 1)
      ∧ ((simpleCmd 0 .prog p.1).map (fun c => (heldOf (aft (behind p.2) c)).isSome)) = some (holdsSource p))
    ∧ freedRows.length = 9 := by
  simp only [Offered, Unheld, Freed]
  decide +kernel

def turnS (l : Line) (apart : Bool) : State :=
  let h : HeldInstr := { line := l, pc := 2, entry := none, launch := captureLaunch base 0 l 0, cid := 40, express := false, opA := 5, opB := 0 }
  base.setTile 0 (if apart then { tile0 with prog := { ord := 2, hold := .none, issueWait := 0 }, issued := [{ src := .prog, ord := 1, held := h }] }
    else { tile0 with prog := { ord := 1, hold := .instr h, issueWait := 0 } })

/-- Their turn comes, at the source and behind it. -/
theorem test_w_HeldOthersLaunch : (∀ b ∈ [true, false], ∀ p ∈ freedRows, let s := turnS p.2 b
      coreRuns s 0 = true ∧ turnCome s 0 .prog 1 none = true
      ∧ (if b then (nextIssued (s.tile 0) .prog).map (fun i => (i.ord, condsHeld i.held.launch, timeHeld s i.held.launch, i.held.line))
            else if nextIssued (s.tile 0) .prog = none then (heldOf s).map (fun h => ((s.tile 0).prog.ord, condsHeld h.launch, timeHeld s h.launch, h.line))
            else none) = some (1, true, true, p.2)
      ∧ (let x := (aft s (.launch 0 (.source .prog))).tile 0
         (x.fences.length, x.pendProg.length, x.issued.length, (match x.prog.hold with | .wait w => w.cond + 1 | .bar _ => 9 | .instr _ => 8 | .none => 0)) =
          (if p.1 = .fence then 1 else 0, if p.1 = .sig ∨ p.1 = .bar then 1 else 0, 0,
            if p = (.bar, lbar 1) then 9 else match waitCode p.1 with | some k => k + 1 | none => 0))) := by decide +kernel

/-- SCOPE 3, which is reserved; a RESUME and an ABANDON of a stream that no park holds. -/
def scope3 (l : Line) : Line := l ||| ln [(3, 17)]

def lres (op : Nat) : Line := ln [(0x40, 0), (op, 200), (77, 224)]

def fails : List (Line × Row × (Source → Instr)) :=
  [(scope3 mv, .move, fun src => .move 0 (good src) .clean), (scope3 wk, .walk, fun src => .walk 0 (good src) .clean),
    (scope3 (lres 0), .resume, fun src => .resume 0 src), (scope3 (lres 1), .abandon, fun src => .abandon 0 src),
    (scope3 lfence, .fence, fun src => .fence 0 (good src))]

def failRing (l : Line) : State := { fromRing l with gate := (base.setRing 0 { Ring.init with en := true }).gate }

theorem test_w_FailedIssueEnds : ∀ p ∈ fails, rowOf p.1 = p.2.1 ∧ coreRuns base 0 = true
    ∧ (let s := runs p.1
       headOf (s.tile 0) .prog = some (at_ p.1) ∧ (s.tile 0).stgPending = none ∧ (s.tile 0).badWords = []
       ∧ streamCode s 0 p.1 false (issueCtx (s.tile 0) p.1 false) = some 0x10 ∧ issueCode s 0 p.1 false = some 0x10
       ∧ ((aft s (p.2.2 .prog)).tile 0).fault = 0x80004002)
    ∧ (let s := failRing p.1
       headOf (s.tile 0) (.ring 1) = some { line := p.1, pc := 0, entry := some eref } ∧ (s.tile 0).stgPending = none
       ∧ streamCode s 0 p.1 true (issueCtx (s.tile 0) p.1 true) = some 0x10 ∧ issueCode s 0 p.1 true = some 0x10
       ∧ ((aft s (p.2.2 (.ring 1))).ring 0).comps.map (fun c => (c.idx, fld c.w72 7 0, c.tLaunch)) = [(0, 0x10, 0)]) := by decide +kernel

/-- A NOP that depends on context entry 1, whose copy shows a double-bit error. -/
theorem test_w_ContextErrorFails : let l := depped (lbr 0x33 0 0 0 0 0)
    let s := withCtx (runs l)
    coreRuns s 0 = true ∧ headOf (s.tile 0) .prog = some (at_ l) ∧ (s.tile 0).stgPending = none ∧ rowOf l = .nop
    ∧ (ctxReads s 0 l).head? = some 1 ∧ wordBad l false = false ∧ expressBad (loseCtx s 1) 0 l .nop = false ∧ keeperRuns s = true
    ∧ ((aft s (.nop 0 { it := .prog, ecc := .bad })).tile 0).fault = 0x80006402 := by decide +kernel

/-- Finished 1,000 Tc after its launch time, with no tolerance or one of 65,535 ns. -/
def lateDone : Stream := { finished with launch := { (toLaunch true 0).launch with tL := some 0 } }

def lateEnd (tol : Word) : State := base.setTile 0 { tile0 with lateCtrl := tol, streams := [(0, lateDone)] }

theorem test_w_LatenessRecorded : ∀ n ∈ [0, 65535], let s := lateEnd (BitVec.ofNat 32 (0x80000000 + n))
    coreRuns s 0 = true ∧ s.stream? 0 0 = some lateDone ∧ lateDone.parked = none ∧ lateDone.abort = none ∧ lateDone.stop = none
    ∧ lateDone.launched = true ∧ lateDone.resumer = none ∧ lateDone.finished = true
    ∧ lateOf lateDone.launch lateDone.launch.ll (finishLate lateDone s.pg.time) = (473, 5)
    ∧ fld (s.tile 0).lateCtrl 15 0 = n ∧ bit (s.tile 0).lateCtrl 31 = true
    ∧ (let u := aft s (.retire 0 0)
       ((u.tile 0).lateCount, (u.tile 0).late, bit u.gate.evstat 2) =
         if n = 0 then (1, 0xD00001D9, true) else (0, 0, false)) := by decide +kernel

/-- A running stream that a rule has ended with a code, or that an error at its first element has stopped with one. -/
def ended (code : Nat) (e : Option EntryRef) : Stream := { running with abort := some code, entry := e }

def stopped (code : Nat) (e : Option EntryRef) : Stream :=
  { running with stop := some { bounds := [(.read, 0)], code := code, side := .read, addr := 0x5000 }, entry := e }

/-- The same with a read on its way. -/
def withRead (st : Stream) : Stream := { st with outstanding := [rq] }

theorem test_w_StoppedStreamEnds : ∀ e ∈ [none, some eref], (∀ st ∈ [ended 0x30 e, stopped 0x10 e, stopped 0x18 e], let s := holds st
      let u := aft s (.retire 0 0)
      coreRuns s 0 = true ∧ s.stream? 0 0 = some st ∧ st.parked = none ∧ st.launched = true ∧ st.resumer = none
      ∧ st.drained = true ∧ (st.abort = none → Stream.quiet s 0 0 st = true)
      ∧ (withRead st).drained = false ∧ Stream.quiet (holds (withRead st)) 0 0 (withRead st) = false
      ∧ aft (holds (withRead st)) (.retire 0 0) = holds (withRead st)
      ∧ (u.stream? 0 0).map (·.parked) = (if st = stopped 0x18 e then some (some 1) else none)
      ∧ (u.ring 0).comps.map (fun c => fld c.w72 7 0) = (if e = none then [] else if st = ended 0x30 e then [0x30]
          else if st = stopped 0x10 e then [0x10] else [0x18])
      ∧ (u.tile 0).fault = (if e = some eref ∨ st = stopped 0x18 e then 0 else if st = ended 0x30 e then 0x8000C002 else 0x80004002)
      ∧ bit u.gate.evstat 8 = decide (st = stopped 0x18 e)) := by decide +kernel

/-- An instruction of the program that an ABANDON ends (R66, R76). -/
theorem test_w_ParkedStreamEnds_program : let l := ln [(0x40, 0), (1, 200), (77, 224)]
    let s := (fromRing l).setStream 0 0 { running with parked := some 77 }
    running.entry = none ∧ ((aft s (.abandon 0 (.ring 1))).tile 0).fault = 0x80006002
    ∧ ((aft s (.abandon 0 (.ring 1))).tile 0).faultCount = 1 ∧ ((aft s (.abandon 0 (.ring 1))).tile 0).seq = .running := by decide +kernel

/-- The word that is fetched has an uncorrectable error, met now or found before (R415). -/
theorem test_w_FetchReadsInstruction_bad : (let s := fetches 9
      coreRuns s 0 = true ∧ (s.tile 0).pc = 9 ∧ ((aft s (.instructionFetch 0 .bad)).tile 0).fault = 0x8000E009)
    ∧ (let s := (fetches 9).setTile 0 { (fetches 9).tile 0 with badWords := [.imem 0 150] }
       (s.tile 0).badWords = [.imem 0 150] ∧ ((aft s (.instructionFetch 0 .clean)).tile 0).fault = 0x8000E009) := by decide +kernel

/-! ## Values of the datapath -/

/-- A count that is no whole number of PRBs, and no whole number of bytes of 4-bit elements (R83). -/
def w4 : Stream := { wst with srcTd := BitVec.ofNat 1024 (0x01 <<< 64 ||| win 0) }

theorem test_w_WalkerEmits_part : WalkerReady (walks (wd 1 0 0) wprb) 0 0 .read wprb (wd 1 0 0)
    ∧ WalkerReady (walks (wd 1 0 2) w4) 0 0 .read w4 (wd 1 0 2) := ⟨ready_in (by decide +kernel), ready_in (by decide +kernel)⟩

theorem test_emit_part : (∀ p ∈ [(wprb, wd 1 0 0), (w4, wd 1 0 2)], let u := aft (walks p.2 p.1) (.emit 0 0 .read .clean)
      (runUnit (p.1.elemOf .read)).2 ≠ 1 ∧ p.1.stop = none ∧ (u.stream? 0 0).map (fun st => st.stop.map (·.code)) = some (some 0x10)
      ∧ (u.tile 0).walkErr = 0x80110064)
    ∧ ((aft (walks (wd 1 0 11) wprb) (.emit 0 0 .read .clean)).stream? 0 0).map (fun st => st.rdRuns.map (·.n)) = some [12] := by
  decide +kernel

/-- No walker instruction; and the program counter past 4,095 (R88, R107). -/
def past : Stream := { wst with rd := { wst.rd with pc := 4096 } }

theorem test_w_WalkerWordFails : WalkerReady (walks (wd 31 0 0) wst) 0 0 .read wst (wd 31 0 0) := ready_in (by decide +kernel)

theorem test_w_WalkerWordFails_word : let u := aft (walks (wd 31 0 0) wst) (.emit 0 0 .read .clean)
    wopOf (wd 31 0 0) = .bad ∧ wst.stop = none ∧ (u.tile 0).walkErr = 0x80210064
    ∧ (u.stream? 0 0).map (fun st => st.stop.map (·.code)) = some (some 0x10) := by decide +kernel

theorem test_w_WalkerWordFails_past : let s := walks 0 past
    s.stream? 0 0 = some past ∧ coreRuns s 0 = true ∧ past.live = true ∧ past.usesProg .read = true ∧ past.rd.ended = false
    ∧ past.rd.pc = 4096 ∧ past.stop = none ∧ ((aft s (.walkEnd 0 0 .read .clean)).tile 0).walkErr = 0x80410000 := by decide +kernel

/-- A stream that scales blocks of 16 elements; its record 0 has sequence number 7, and 0 is due (R166). -/
def scaledBy : Stream := { staged with od := ln [(1, 7), (3, 8)], scales := [(0, 0x0007000000000000)], t0 := some 0 }

theorem test_w_DatapathAdvances_record : let s := granted (.datapath 0) scaledBy
    let r := takePoint s (.datapath 0) (streamCands s 0 false (fun n st => wantsRow s 0 n st))
    r.2 = some 0 ∧ r.1.stream? 0 0 = some scaledBy ∧ windowFull (r.1.tile 0) 0 = false ∧ scaledBy.groupReady 0 = true
    ∧ laneOff r.1 0 scaledBy = false ∧ scaledBy.srcE.isBlock = false ∧ scaledBy.blocks = [] ∧ scaledBy.stop = none ∧ scaledBy.group = 1
    ∧ scaledBy.readsScale = true ∧ oSgran scaledBy.od = 3 ∧ scaledBy.recordOf 0 = 0 ∧ scaledBy.groupAt 0 = [0]
    ∧ scaledBy.badRecord 0 = some (7, true) ∧ scaledBy.outPos = 0
    ∧ ((aft s (.tileDatapath 0)).tile 0).scaleErr = 0x80000007
    ∧ ((aft s (.tileDatapath 0)).stream? 0 0).map (fun st => st.stop.map (·.code)) = some (some 0x20) := by decide +kernel

/-- Elements of 8 bits pass as bytes, in order. -/
theorem test_w_LaneMakesUnits : staged.dstE.isBlock = false ∧ oAuto staged.od = false ∧ oEsc staged.od = false ∧ staged.dstE.width = 8
    ∧ staged.outFrom = 0 ∧ (staged.laneRun [0, 1] [0, 0]).units.map (fun u => (u.k, u.n, u.data)) = [(0, 1, [1]), (1, 1, [2])] := by decide +kernel

def intLane (esc : Bool) : LaneCtx :=
  { i := .int true 16, d := .int true 8, od := if esc then ln [(1, 16), (1, 17)] else 0, pass := false, mxSrc := false
    record := fun _ => none, sideBase := 0x1000, sideCap := 3, row := 64 }

/-- 127 fits S8, 128 and −129 do not; with ESC = 1 the code 0x80 is kept for escapes (R151, R173). -/
theorem test_w_LaneConverts : (∀ e ∈ [true, false], oEsc (intLane e).od = e ∧ oReq (intLane e).od = false)
    ∧ ([(127, false), (128, false), (0xFF7F, false), (0xFF80, false), (0xFF80, true), (128, true)].map (fun p =>
        let r := convOne (intLane p.2) 0 p.1 0
        (r.code, r.sat, r.cand))) =
      [(0x7F, 0, none), (0x7F, 1, none), (0x80, 1, none), (0x80, 0, none), (0x81, 1, some (-128)), (0x7F, 1, some 128)]
    ∧ (convOne { intLane false with pass := true } 0 0x1234 0).code = 0x1234 := by decide +kernel

/-- 5 and 7 over 2 under RNE, RNA, RTZ and SR, and −1 over 4, which flushes (R150, R153, R161). -/
theorem test_w_RequantRounds : ([0, 1, 2].map (fun r => (requant 5 0 0 1 1 r 0).1)) = [2, 3, 2]
    ∧ ([0, 1, 2].map (fun r => (requant (-7) 0 0 1 1 r 0).1)) = [-4, -4, -3]
    ∧ ([0x7FFF, 0x8000].map (fun r => (requant 5 0 0 1 1 3 r).1)) = [2, 3] ∧ requant (-1) 0 9 1 2 0 0 = (9, true)
    ∧ requant 3 3 9 1 2 0 0 = (9, false) := by decide +kernel

/-- 1.0 in three formats; NaN, infinity and 2^128 to F32 (R131, R151). -/
theorem test_w_FloatCasts : ([(fF16, 0x3C00), (fBF16, 0x3F80), (fF32, 0x3F800000)].map (fun p => (castFlt p.1 (p.1.val p.2) 0 0).code)) =
      [0x3C00, 0x3F80, 0x3F800000]
    ∧ (castFlt fF32 (.nan true) 0 0).code = 0xFFC00000 ∧ (castFlt fF32 (.inf false) 0 0).code = 0x7F800000
    ∧ ((castFlt fF32 (.fin true 1 128) 0 0).code, (castFlt fF32 (.fin true 1 128) 0 0).sat) = (0xFF7FFFFF, 1) := by decide +kernel

/-- Values of which one is a NaN, of zeros, and of 6 and −1 in E2M1, whose emax is 2 (R138, R140). -/
theorem test_w_MicroscalingScales : mxAuto (.mxf fE2M1) [.fin false 3 1, .nan false] = 255
    ∧ (∀ v ∈ [Val.fin false 0 5, .fin true 0 0], v.isZero = true) ∧ mxAuto (.mxf fE2M1) [.fin false 0 5, .fin true 0 0] = 0
    ∧ (∀ v ∈ [Val.fin false 3 1, .fin true 1 0], v.special = false) ∧ mxAuto (.mxf fE2M1) [.fin false 3 1, .fin true 1 0] = 127
    ∧ mxVal (.mxf fE2M1) 255 9 = .nan true ∧ mxVal (.mxf fE2M1) 128 2 = .fin false 2 0 := by decide +kernel

/-- An outlier of 300 escapes while ESCMAX is 1 and a place is left beside the terminator's; else it is clamped. -/
def outlier : ConvE := { code := 0x7F, sat := 1, flush := 0, cand := some 300 }

def escAt (used side : Nat) : EscPos := { used := used, side := side, row := staged.esc.row }

theorem test_w_OutliersEscape : outlier.cand = some 300 ∧ oEscmax (intLane true).od = 1
    ∧ (let r := stage7 (intLane true) (escAt 0 1) 5 outlier
       (r.1, r.2.1, r.2.2.2.1) = (0x80, 0, [(0x1008, 0x0000012C00000005)]))
    ∧ [escAt 1 1, escAt 0 2].map (fun p => (stage7 (intLane true) p 5 outlier).2.2.1) = [0, 1]
    ∧ (stage7 (intLane true) (escAt 1 1) 64 outlier).1 = 0x80 := by decide +kernel

/-- A PRB of 9-bit fields: the first 1, the second −1, exponent 3; a field of 16 bits past the range (R141, R144). -/
theorem test_w_PrbDecodes : let bs : List Byte := [3, 0x00, 0xFF, 0xC0] ++ List.replicate 24 0
    (prbDecode (.orb 9) bs).1.take 2 = [0xFFF80008, 0] ∧ prbComp (.orb 16) 15 1 = (32767, 1) ∧ prbComp (.orb 16) 0 0x8000 = (-32768, 0) := by
  decide +kernel

/-- A header that reads back; a normal block of rate 6, a zero block and a NaN block (R192–R195). -/
def bxb (mode : Nat) : List Byte := bxHeader 6 32 mode 0 0 0 ++ [5, 0xFF] ++ List.replicate 62 0

theorem test_w_BxzBlocks : (let h := bxHdr (bxHeader 8 63 0 3 513 7 ++ [1])
       (h.rate, h.exp, h.mode, h.escn, h.bidx, h.sloff, h.resv) = (8, 63, 0, 3, 513, 7, 0))
    ∧ ([0, 1, 2].map (fun m => (bxHdr (bxb m)).mode)) = [0, 1, 2]
    ∧ ([0, 1].map (bxElem (bxb 0) 0 []) = [0x40A00000, 0xBF800000]) ∧ bxElem (bxb 1) 0 [] 0 = 0 ∧ bxElem (bxb 2) 0 [] 0 = 0x7FC00000
    ∧ bxElem (bxb 0) 2 [0x3F80000000000081] 1 = 0x3F800000 := by decide +kernel

/-- The segment index entry of row 0 comes back for a stream of BXZ blocks: all zero, whose rate code is none (R191). -/
def entering : Stream := { running with srcTd := BitVec.ofNat 1024 ((0x80 <<< 64) ||| (0x1000040 <<< 128) ||| win 0), outstanding := [{ rq with what := .entry 0, len := 16 }] }

theorem test_w_IndexEntryRejected : let r := { rq with what := ReadWhat.entry 0, len := 16 }
    let data : List Byte := List.replicate 16 0
    let g := segEntry (BitVec.ofNat 64 (ofBytes (data.take 8))) (BitVec.ofNat 64 (ofBytes (data.drop 8)))
    let s := sent (holds entering) (msgTo (.tile 0) (.tile 0) .response (.rdResp r .okay data))
    let u := aft s (.readResponse 0 .clean)
    (arrived s 0).isSome = true ∧ coreRuns s 0 = true ∧ s.stream? 0 0 = some entering ∧ r ∈ entering.outstanding ∧ entering.stop = none
    ∧ entering.abort = none ∧ entering.bxSide.2.2 = .read ∧ g.ok (entering.entryAddr 0) (tdCount entering.bxSide.1 0) = false
    ∧ (u.tile 0).bxErr = 0x80091000 ∧ (u.tile 0).bxErrEntry = BitVec.ofNat 64 (win 0) ∧ (u.tile 0).bxErrCount = 1
    ∧ (u.stream? 0 0).map (fun st => st.stop.map (·.code)) = some (some 0x10) := by decide +kernel

/-- A window with 9 saturations and 9 flushes, neither threshold exceeded yet. -/
def judged : State := base.setTile 0 { tile0 with streams := [(0, running)], calCtrl := 0xC0000000, calSatThr := 20, calFlushThr := 20, windows := [(0, { Window.init with elems := 90, sats := 9, flushes := 9 })] }

theorem test_w_ThresholdsJudge : (judged.tile 0).streams = [(0, running)] ∧ running.launched = true
    ∧ (∀ p ∈ [(0x1000414, TileReg.calSatThr, 24, 0), (0x1000418, .calFlushThr, 16, 1)], Reaches judged p.1 (.tile 0 p.2.1)
      ∧ (∀ d ∈ [8, 9], let u := aft judged (.registerWrite (BitVec.ofNat 26 p.1) (BitVec.ofNat 32 d) 15)
          bit (u.tile 0).calStatus p.2.2.1 = decide (d = 8) ∧ bit u.gate.evstat p.2.2.2 = decide (d = 8)))
    ∧ bit (judged.tile 0).calCtrl 31 = true ∧ bit (judged.tile 0).calCtrl 30 = true
    ∧ (let w := Tab.get (judged.tile 0).windows Window.init 0
       (w.sats, w.flushes, w.satUp, w.flushUp)) = (9, 9, false, false) := by
  simp only [Reaches]
  decide +kernel

/-- A window that ended 9 saturations over: the next is over at once. -/
theorem test_w_CalibrationWindowRestarts_over : let s := base.setTile 0 { tile0 with calCtrl := 0xC0000000, calSatThr := 8, calFlushThr := 8, windows := [(0, { Window.init with elems := 1025, nextSats := 9, nextFlushes := 9 })] }
    windowFull (s.tile 0) 0 = true ∧ coreRuns s 0 = true ∧ bit (s.tile 0).calCtrl 31 = true ∧ (s.tile 0).calSatThr.toNat < 9
    ∧ (let u := aft s (.calibrationWindow 0 0)
       (bit (u.tile 0).calStatus 24, bit (u.tile 0).calStatus 16, bit u.gate.evstat 0, bit u.gate.evstat 1)) = (true, true, true, true) := by decide +kernel

/-! ## Bank groups -/

/-- A write at bank group 0 of tile 0, and the group ON, QUIESCING, OFF or in reset, with a poisoned unit. -/
def bank (q : DomState) (poison : List Nat) (b : Body) : State :=
  sent { base.setDom 1 { onDom with state := q } with spad := { Spad.init with mem := [(1024, 9)], poison := poison } }
    (msgTo (.tile 0) (.tile 0) .request b)

theorem test_w_BankWriteStores : (∀ p ∈ [[], [128]], ∀ g ∈ [none, some (upd 0 false), some (upd 0 true)],
      (arrived (bank .on p (.wr (wq .data g))) 0).isSome = true ∧ availOf (bank .on p (.wr (wq .data g))) (spadDom base 0) = .on
      ∧ (wq .data g).off = some 1024 ∧ accessAt 1024 (wq .data g).data.length 1 = none)
    ∧ (let s := bank .on [] (.wr { wq .data none with data := List.replicate 130 7 })
       (arrived s 0).isSome = true ∧ accessAt 1024 130 1 = some 1152 ∧ accessAt 1024 130 2 = none
       ∧ (aft s (.bankWrite ⟨0, .clean⟩)).prom.net.map (fun m => (m.done, m.route)) = [(1, [.bank 0 1])]
       ∧ memByte (aft s (.bankWrite ⟨0, .clean⟩)).spad.mem 1151 = 7 ∧ memByte (aft s (.bankWrite ⟨0, .clean⟩)).spad.mem 1152 = 0)
    ∧ (arrived (bank .on [] (.wr (wq .addend none))) 0).isSome = true
    ∧ poisoned [] 1024 1 = false ∧ unitsOf 1024 1 = [128] ∧ coversUnit 1024 1 128 = false
    ∧ memByte (aft (bank .on [] (.wr (wq .data none))) (.bankWrite ⟨0, .clean⟩)).spad.mem 1024 = 7
    ∧ memByte (aft (bank .on [128] (.wr (wq .data none))) (.bankWrite ⟨0, .clean⟩)).spad.mem 1024 = 9
    ∧ (aft (bank .on [] (.wr (wq .data (some (upd 0 false))))) (.bankWrite ⟨0, .clean⟩)).prom.net.map (·.dst) = [.lodge 0, .tile 0] := by
  decide +kernel

def rq1 : ReadReq := { rq with addr := BitVec.ofNat 64 (win 1024), off := some 1024, len := 1, what := .elems [(0, 0)] }
theorem test_w_BankReadReturnsBytes : (∀ p ∈ [[], [128]], (arrived (bank .on p (.rd rq1)) 0).isSome = true
      ∧ availOf (bank .on p (.rd rq1)) (spadDom base 0) = .on ∧ poisoned p 1024 1 = decide (p ≠ []))
    ∧ rq1.off = some 1024 ∧ accessAt 1024 1 1 = none
    ∧ (let s := bank .on [] (.rd { rq1 with len := 130 })
       (arrived s 0).isSome = true ∧ accessAt 1024 130 1 = some 1152
       ∧ (aft s (.bankRead 0 .clean)).prom.net.map (fun m => (m.done, m.got.length, m.route)) = [(1, 128, [.bank 0 1])])
    ∧ (aft (bank .on [] (.rd rq1)) (.bankRead 0 .clean)).prom.net.map (fun m => m.body) = [.rdResp rq1 .okay [9]]
    ∧ (aft (bank .on [] (.rd rq1)) (.bankRead 0 .bad)).prom.net.map (fun m => m.body) = [.rdResp rq1 .poison []]
    ∧ (aft (bank .on [] (.rd rq1)) (.bankRead 0 .bad)).spad.poison = [128] := by decide +kernel

theorem test_w_UnavailableBankGroup : (∀ p ∈ [(DomState.off, Avail.off), (.quiescing, .later), (.reset, .dead)],
      (arrived (bank p.1 [] (.wr (wq .data none))) 0).isSome = true
      ∧ availOf (bank p.1 [] (.wr (wq .data none))) (spadDom base 0) = p.2
      ∧ (arrived (bank p.1 [] (.rd rq1)) 0).isSome = true ∧ availOf (bank p.1 [] (.rd rq1)) (spadDom base 0) = p.2)
    ∧ (aft (bank .off [] (.rd rq1)) (.bankRead 0 .clean)).prom.net.map (·.body) = [.rdResp rq1 .offline []]
    ∧ (aft (bank .quiescing [] (.rd rq1)) (.bankRead 0 .clean)).prom.net.map (·.again) = [true]
    ∧ (aft (bank .off [] (.wr (wq .data none))) (.bankWrite ⟨0, .clean⟩)).prom.net.map (·.body) = [.wrAck (wq .data none) .offline 0]
    ∧ (aft (bank .reset [] (.wr (wq .data none))) (.bankWrite ⟨0, .clean⟩)).prom.net = [] := by decide +kernel

def acc (b : Byte) : AccRes := { tile := 0, stream := 0, seq := 1, t := 0, g := 0, bytes := 1, epoch := 0, pieces := [{ wq .addend none with data := [b] }] }
/-- Its apply at the bank group, with `k` bank cycles behind it. -/
def applies (b : Byte) (applied : List SeqRec) (k : Nat := 1) : State :=
  let s := bank .on [] (.wr (wq .apply none))
  let s := { s with prom := { s.prom with net := s.prom.net.map (fun (m : Msg) => { m with done := k }) } }
  { s with spad := { s.spad with acc := [acc b] }, lodge := { s.lodge with applied := applied } }

theorem test_w_ApplyAddsOnce : (∀ r ∈ [[], [({ home := .group 0 0, tile := 0, stream := 0, seq := 1 } : SeqRec)]],
      (arrived (applies 246 r) 0).isSome = true ∧ availOf (applies 246 r) (spadDom base 0) = .on
      ∧ (applies 246 r).spad.acc.find? (fun r => accOf (wq .apply none) r) = some (acc 246)
      ∧ seqOld r (.group 0 0) 0 0 1 = decide (r ≠ []) ∧ poisoned (applies 246 r).spad.poison 1024 1 = false)
    ∧ memByte (aft (applies 246 []) (.accApply ⟨0, .clean⟩)).spad.mem 1024 = 255
    ∧ (aft (applies 246 []) (.accApply ⟨0, .clean⟩)).prom.net.map (·.body) = [.wrAck (wq .apply none) .okay 0]
    ∧ memByte (aft (applies 247 []) (.accApply ⟨0, .clean⟩)).spad.mem 1024 = 255
    ∧ (aft (applies 247 []) (.accApply ⟨0, .clean⟩)).prom.net.map (·.body) = [.wrAck (wq .apply none) .okay 1] := by decide +kernel

/-- An apply of 130 addends takes two bank cycles for each granule (R185, R287), and answers a poisoned unit. -/
theorem test_w_ApplyAddsOnce_accesses : ∀ k ∈ [0, 1, 2, 3], ∀ bad ∈ [[], [128]],
    let r := { acc 1 with pieces := [{ wq .addend none with data := List.replicate 130 1 }] }
    let s := { applies 1 [] k with spad := { Spad.init with acc := [r], poison := bad } }
    (arrived s 0).isSome = true ∧ (applyWork s 0 (wq .apply none)).map (fun p => (p.1, p.2.length)) = [(1024, 128), (1152, 2)]
    ∧ (aft s (.accApply ⟨0, .clean⟩)).prom.net.map (fun m => (m.done, m.route)) =
      [if k = 3 then (0, []) else (k + 1, [.bank 0 ((k + 1) / 2)])]
    ∧ memByte (aft s (.accApply ⟨0, .clean⟩)).spad.mem 1151 = (if k = 1 then 1 else 0)
    ∧ (aft s (.accApply ⟨0, .clean⟩)).spad.acc = if k = 3 then [] else [r] := by decide +kernel

theorem test_w_DiscardFreesAddends : let s := sent (applies 1 []) (msgTo (.tile 0) (.tile 0) .request (.discardCmd 0 0 1 (.group 0 0) 0 (BitVec.ofNat 64 (win 1024)) (some 1024)))
    (arrived s 0).isSome = true ∧ availOf s (spadDom s 0) = .on ∧ (aft s (.discard 0)).spad.acc = [] := by decide +kernel

/-- 250 + 6 in U8, −100 − 100 in S8; infinity less infinity in F16; 1 + 2 and 3 + 4 as components; a run of two U16 sums. -/
theorem test_w_AddendsSum : accElem (.int false 8) 250 6 0 = (255, 1) ∧ accElem (.int true 8) 156 156 0 = (0x80, 1)
    ∧ (fF16.val 0x7C00, fF16.val 0xFC00) = (.inf false, .inf true) ∧ (accElem (.flt fF16) 0x7C00 0xFC00 0).1 % 0x8000 = 0x7E00
    ∧ (fF16.val 0x3C00, fF16.val 0x4000) = (.fin false 1024 (-10), .fin false 1024 (-9)) ∧ accElem (.flt fF16) 0x3C00 0x4000 3 = (0x4200, 0)
    ∧ (Elem.cint 8).component = some (.int true 8) ∧ (Elem.int true 8).component = none ∧ accElem (.cint 8) (1 + 3 * 256) (2 + 4 * 256) 0 = (3 + 7 * 256, 0)
    ∧ (let r := applyBytes (.int false 16) 0 2 4 1024 [1, 0, 0xFF, 0xFF] { spad := { Spad.init with mem := [(1024, 9), (1026, 1)] }, sats := 0, bad := false }
       ([1024, 1025, 1026, 1027].map (memByte r.spad.mem), r.sats, r.bad)) = ([10, 0, 0xFF, 0xFF], 1, false) := by decide +kernel

/-! ## Lodge counters -/

/-- Counter 40 of a class with a value and a depth, and its partner 41 at `p`. -/
def cnt (cls : Nat) (v : Word) (depth : Nat) (p : Word) : Lodge :=
  { Lodge.init with val := [(40, v), (41, p)], cfg := [(40, BitVec.ofNat 32 (cls <<< 30 ||| 41 <<< 16 ||| depth))] }
def lodged (l : Lodge) (b : Body) : State := sent { base with lodge := l } (msgTo (.tile 0) (.lodge 0) .lodge b)
def upd1 (v : Word) : Upd := { upd 1 false with value := v }

/-- The fields of LD_CFG as `cnt` sets them. -/
theorem test_ld_cfg : (let s : State := { base with lodge := cnt 0 5 9 3 }
    (cntClass s 40, cntDepth s 40, cntPartner s 40)) = (0, 9, 41) := by decide +kernel

def applied1 : Lodge := { cnt 0 5 0 0 with applied := [{ home := .bank 0 0, tile := 0, stream := 0, seq := 1 }] }

/-- SEQUENCE to and past its depth, CREDIT to 0, below it and past its capacity, TALLY to 2^32 − 1 and past it. -/
def updates : List (Nat × Word × Nat × Word × Word × Nat) :=
  [(0, 12, 10, 3, 13, 0), (0, 13, 10, 3, 13, 0x29), (1, 1, 0, 0, 0, 0), (1, 0, 0, 0, 0, 0x28), (1, 9, 9, 0, 9, 0),
    (2, 0xFFFFFFFE, 0, 0, 0xFFFFFFFF, 0), (2, 0xFFFFFFFF, 0, 0, 0xFFFFFFFF, 0)]
def amount (cls depth : Nat) : Word := if cls = 1 ∧ depth = 0 then 0xFFFFFFFF else 1

theorem test_w_SignalUpdatesCounter : (∀ p ∈ updates,
      let s := lodged (cnt p.1 p.2.1 p.2.2.1 p.2.2.2.1) (.upd (upd1 (amount p.1 p.2.2.1)))
      (arrived s 0).isSome = true ∧ availOf s (sliceDom s 40) = .on ∧ slotsOn s 40 = [] ∧ 40 ∉ s.lodge.poison
      ∧ cntPartner s 40 ∉ s.lodge.poison ∧ cntVal (aft s (.signalApply 0 ⟨.clean, [], true⟩)) 40 = p.2.2.2.2.1
      ∧ updatedCnt s 40 (amount p.1 p.2.2.1) = p.2.2.2.2)
    ∧ (∀ q ∈ [1, 2], let s := lodged applied1 (.upd { upd 0 false with seq := BitVec.ofNat 32 q })
        seqOld s.lodge.applied (.bank (sliceOf 40) (homeBank s 40)) 0 0 (BitVec.ofNat 32 q) = decide (q = 1) ∧ (arrived s 0).isSome = true
        ∧ cntVal (aft s (.signalApply 0 ⟨.clean, [], true⟩)) 40 = if q = 1 then 5 else 8) := by decide +kernel

def watch (cond : Nat) (operand : Word) : Watch :=
  { cid := 40, cond := cond, operand := operand, scope := 0, who := some { tile := 1, stream := none, src := .prog, ord := 1, cond := 2 }
    act := 0, rearm := false, vec := 0, step := 0, tsig := { inc := 0, tcid := 0, offset := 0 }, due := none }

theorem test_w_UpdateFiresWatch : (∀ p ∈ [(0, (5 : Word), true, (5 : Word)), (0, 6, false, 5), (1, 5, true, 5), (2, 5, true, 0), (2, 6, false, 5)],
      let s := lodged { cnt 2 4 0 0 with watches := [(7, watch p.1 p.2.1)] } (.upd (upd1 1))
      (arrived s 0).isSome = true ∧ availOf s (sliceDom s 40) = .on ∧ (updatedCnt s 40 1).2 = 0
      ∧ (watch p.1 p.2.1).who.isSome = true ∧ classHolds 2 (updatedCnt s 40 1).1 p.2.1 p.1 = p.2.2.1
      ∧ s.lodge.poison = [] ∧ (aft s (.signalApply 0 ⟨.clean, [], true⟩)).lodge.watches.isEmpty = p.2.2.1
      ∧ cntVal (aft s (.signalApply 0 ⟨.clean, [], true⟩)) 40 = p.2.2.2) := by decide +kernel

theorem test_w_FailedAndClampedUpdates : (∀ p ∈ [(0, (13 : Word), 10, (3 : Word), (1 : Word)), (1, 0, 0, 0, 0xFFFFFFFF)],
      let s := lodged (cnt p.1 p.2.1 p.2.2.1 p.2.2.2.1) (.upd (upd1 p.2.2.2.2))
      (arrived s 0).isSome = true ∧ availOf s (sliceDom s 40) = .on
      ∧ (match newValue s 40 p.2.2.2.2 with | .fail c => c | _ => 0) = (if p.1 = 0 then 0x29 else 0x28))
    ∧ (∀ p ∈ [(9, (9 : Word), (1 : Word)), (0, 0x7FFFFFFF, 1)], let s := lodged (cnt 1 p.2.1 p.1 0) (.upd (upd1 p.2.2))
      (((if cntDepth s 40 = 0 then 2 ^ 31 - 1 else cntDepth s 40 : Nat) : Int) < (cntVal s 40).toNat + p.2.2.toInt)
      ∧ slotsOn s 40 = [] ∧ bit (aft s (.signalApply 0 ⟨.clean, [], true⟩)).lodge.flags 2 = true)
    ∧ (let s := lodged (cnt 2 0xFFFFFFFE 0 0) (.upd (upd1 1))
       2 ≤ cntClass s 40 ∧ 2 ^ 32 - 1 ≤ (cntVal s 40).toNat + (1 : Word).toNat
       ∧ bit (aft s (.signalApply 0 ⟨.clean, [], true⟩)).lodge.flags 1 = true) := by decide +kernel

def reg (cond : Nat) (operand : Word) : Reg :=
  { who := { tile := 0, stream := none, src := .prog, ord := 1, cond := 2 }, cid := 40, express := false, cond := cond
    operand := operand, scope := 0 }
def poisonedLodge : Lodge := { cnt 1 5 0 0 with poison := [40] }

theorem test_w_PoisonedCounter : (∀ b ∈ [Body.upd (upd1 1), .watchReg (reg 0 1)], (arrived (lodged poisonedLodge b) 0).isSome = true
      ∧ availOf (lodged poisonedLodge b) (sliceDom base 40) = .on)
    ∧ (let s : State := { base with lodge := poisonedLodge }
       40 ∈ s.lodge.poison ∧ Reaches s 0x500280 (.ldValue 40) ∧ Reaches s 0x500284 (.ldAdd 40) ∧ Reaches s 0x500288 (.ldAtom 40)
       ∧ s.cp.shadow = [] ∧ (aft s (.ldAtom (good 40))).cp.rdata = 0 ∧ (aft s (.ldAdd (sound 40) 1)).cp.err = true
       ∧ (aft s (.ldValue 40 3)).lodge.poison = [])
    ∧ (aft (lodged poisonedLodge (.watchReg (reg 0 1))) (.watchRegistration (sound 0))).prom.net.map (·.body) =
      [.wake (reg 0 1) 0x38 true] := by
  simp only [Reaches]
  decide +kernel

/-- GE on a SEQUENCE counter at distance 2^31 − 1 and 2^31; CREDIT operands of 2^31 − 1 and 2^31. -/
theorem test_w_CounterComparison : classHolds 0 0x7FFFFFFF 0 0 = true ∧ classHolds 0 0x80000000 0 0 = false
    ∧ classHolds 1 0x7FFFFFFF 0x7FFFFFFF 0 = true ∧ classHolds 1 0x7FFFFFFF 0x80000000 0 = false
    ∧ classHolds 2 0xFFFFFFFF 0x80000000 0 = true ∧ classHolds 2 3 3 1 = true ∧ classHolds 1 3 3 1 = true := by decide +kernel

/-- A 32-tile block, whose banks have 32 watch slots each. -/
def base32 : State := { base with gen := { tiles := .t32, spad4 := false }, cpc := { Cpc.init with
  doms := (List.range 139).map (fun d => (d, onDom)) } }
def others (n : Nat) : Tab Watch := (List.range n).map (fun k => (k, { watch 0 1 with cid := 99 }))

/-- The bank of counter 40 holds `n` watches on counter 99; the program waits at a WAIT of condition `cond`. -/
def crowded (n : Nat) (cond : Nat) (operand : Word) : State :=
  let w : WaitSt := { line := lwait 0 1 40, pc := 2, entry := none, ord := 1, launch := captureLaunch base 0 (lwait 0 1 40) 0,
                      cid := 40, express := false, cond := cond, operand := operand, scope := 0, rreg := 3 }
  let s := sent { base32 with lodge := { cnt 2 5 0 0 with watches := others n } }
    (msgTo (.tile 0) (.lodge 0) .lodge (.watchReg (reg cond operand)))
  s.setTile 0 { tile0 with prog := { ord := 1, issueWait := 0, hold := .wait w } }

theorem test_w_RegistrationWatches : (∀ p ∈ [(0, 0, (5 : Word), true), (0, 3, 5, true), (0, 0, 6, false), (31, 0, 6, false), (32, 0, 6, false)],
      let s := crowded p.1 p.2.1 p.2.2.1
      (arrived s 0).isSome = true ∧ availOf s (sliceDom s 40) = .on ∧ 40 ∉ s.lodge.poison ∧ slotsOn s 40 = []
      ∧ cntHolds s 40 (cntVal s 40) p.2.2.1 p.2.1 = p.2.2.2 ∧ freeSlot s 40 = if p.1 = 32 then none else some p.1)
    ∧ stillWaits (crowded 32 0 6) (reg 0 6).who = true
    ∧ cntVal (aft (crowded 0 3 5) (.watchRegistration (sound 0))) 40 = 0
    ∧ (aft (crowded 32 0 6) (.watchRegistration (sound 0))).prom.net.map (fun m => (m.dst, m.body)) = [(.tile 0, .regFull (reg 0 6))] := by
  decide +kernel

/-- An update and a registration at the home of counter 40 while its slice is OFF, QUIESCING or in reset (R402). -/
def slices (q : DomState) (b : Body) : State :=
  sent ({ base with lodge := cnt 2 5 0 0 }.setDom (sliceDom base 40) { onDom with state := q }) (msgTo (.tile 0) (.lodge 0) .lodge b)

theorem test_w_UnavailableSlice : (∀ p ∈ [(DomState.off, Avail.off), (.quiescing, .later), (.reset, .dead)],
      ∀ b ∈ [(Body.upd (upd1 1), Instr.signalApply 0 ⟨.clean, [], true⟩), (.watchReg (reg 0 6), .watchRegistration (sound 0))], let s := slices p.1 b.1
      (arrived s 0).isSome = true ∧ availOf s (sliceDom s 40) = p.2 ∧ cntVal (aft s b.2) 40 = 5
      ∧ (aft s b.2).prom.net.map (·.again) = (if p.2 = .off then [false] else if p.2 = .later then [true] else []))
    ∧ (aft (slices .off (.upd (upd1 1))) (.signalApply 0 ⟨.clean, [], true⟩)).prom.net.map (·.body) = [.updAck (upd1 1) 0x30]
    ∧ (aft (slices .off (.watchReg (reg 0 6))) (.watchRegistration (sound 0))).prom.net.map (·.body) = [.wake (reg 0 6) 0x30 true] := by
  decide +kernel

theorem test_w_RegistrationRetried : let s := base.setTile 0 { tile0 with fullRegs := [reg 0 6] }
    coreRuns s 0 = true ∧ (s.tile 0).fullRegs[0]? = some (reg 0 6)
    ∧ (aft s (.watchRegistrationRetry 0 0)).prom.net.map (·.dst) = [.lodge 0] := by decide +kernel

/-- A delivery at tile 0 to stream 0, or to the WAIT of its program. -/
def wakes (r : Reg) (res : Nat) (s : State) : State := sent s (msgTo (.lodge 0) (.tile 0) .lodge (.wake r res false))
def regS (n i : Nat) : Reg := { reg 2 5 with who := { tile := 0, stream := some n, src := .prog, ord := 1, cond := i } }

theorem test_w_DeliveryReachesWaiter : (let s := wakes (regS 0 0) 0 (holds (toLaunch false 1000))
       (arrived s 0).isSome = true ∧ coreRuns s 0 = true ∧ s.stream? 0 0 = some (toLaunch false 1000)
       ∧ (toLaunch false 1000).src = .prog ∧ (toLaunch false 1000).ord = 1 ∧ (toLaunch false 1000).launched = false
       ∧ ((aft s (.watchDelivery 0)).stream? 0 0).map (fun st => st.launch.conds.map (·.fired)) = some [true])
    ∧ (let s := wakes (reg 3 5) 1 (crowded 0 3 5)
       (arrived s 0).isSome = true
       ∧ (match ((s.tile 0).source .prog).hold with | .wait w => (w.ord, w.cond, w.rreg) | _ => (0, 0, 0)) = (1, 3, 3)
       ∧ ((aft s (.watchDelivery 0)).tile 0).prog.hold = .none ∧ ((aft s (.watchDelivery 0)).tile 0).greg 3 = 1)
    ∧ (∀ bar ∈ [false, true], let l := if bar then lbar 0 else lset 0 3 1 2 30
       let h : HeldInstr := { line := l, pc := 2, entry := none, launch := (toLaunch false 1000).launch, cid := 0, express := false, opA := 5, opB := 7 }
       let s := wakes { reg 0 5 with who := { (reg 0 5).who with cond := 0 } } 0
         (base.setTile 0 { tile0 with prog := { ord := 1, hold := .instr h, issueWait := 0 } })
       (arrived s 0).isSome = true ∧ (heldOf s).isSome = true
       ∧ (heldOf (aft s (.watchDelivery 0))).map (fun h => h.launch.conds.map (·.fired)) = some [true])
    ∧ (∀ p ∈ [(crowded 32 0 6, true), (base, false)], let s := sent p.1 (msgTo (.lodge 0) (.tile 0) .lodge (.regFull (reg 0 6)))
       (arrived s 0).isSome = true ∧ stillWaits s (reg 0 6).who = p.2 ∧ coreRuns s 0 = true
       ∧ ((aft s (.watchDelivery 0)).tile 0).fullRegs = if p.2 then [reg 0 6] else [])
    ∧ (let st := { toLaunch false 1000 with entry := some eref }
       let s := sent (holds st) (msgTo (.lodge 0) (.tile 0) .lodge (.wake (regS 0 0) 0x38 true))
       (arrived s 0).isSome = true ∧ s.stream? 0 0 = some st ∧ st.launched = false ∧ (s.tile 0).xheld = []
       ∧ ((aft s (.watchDelivery 0)).ring 0).comps.map (fun c => fld c.w72 7 0) = [0x38])
    ∧ (let s := wakes (regS 1 0) 0 base
       (arrived s 0).isSome = true ∧ s.stream? 0 1 = none ∧ (regS 1 0).cond = 2
       ∧ (aft s (.watchDelivery 0)).prom.net.map (fun m => match m.body with | .upd v => (v.cid, v.value) | _ => (0, 0)) = [(40, 5)]) := by
  decide +kernel

theorem test_w_WithdrawalRemovesWatch : let r : Reg := { reg 0 6 with who := { tile := 1, stream := none, src := .prog, ord := 1, cond := 2 } }
    let s := lodged { cnt 2 4 0 0 with watches := [(7, watch 0 6), (8, { watch 0 6 with cid := 99 })] } (.withdraw r)
    (arrived s 0).isSome = true ∧ availOf s (sliceDom s 40) = .on
    ∧ (∀ p ∈ [(DomState.quiescing, Avail.later), (.off, .off), (.reset, .dead)], let s := slices p.1 (.withdraw r)
        (arrived s 0).isSome = true ∧ availOf s (sliceDom s 40) = p.2 ∧ (aft s (.watchWithdrawal 0)).prom.net = [])
    ∧ (aft s (.watchWithdrawal 0)).lodge.watches = [(8, { watch 0 6 with cid := 99 })] := by decide +kernel

def timer (d : Nat) : Timer := { slice := 0, bank := 0, slot := 7, deadline := BitVec.ofNat 64 d, tcid := 40, inc := 2 }
def hostW : Watch := { watch 0 6 with who := none, act := 2, tsig := { inc := 2, tcid := 40, offset := 0 }, due := some 1001 }

theorem test_w_TimersSignal : (∀ d ∈ [1000, 1001], let s : State := { base with lodge := { cnt 2 4 0 0 with timers := [timer d] } }
      s.lodge.timers[0]? = some (timer d) ∧ s.active (GenConfig.domFixed s.gen 0) = true ∧ s.active (sliceDom s 40) = true
      ∧ slotsOn s 40 = [] ∧ s.lodge.poison = [] ∧ s.pg.time = 1000
      ∧ cntVal (aft s (.timedSignal (sound 0))) 40 = if d = 1000 then 6 else 4)
    ∧ ∀ n ∈ [15, 16], let s : State := { base with lodge := { cnt 2 4 0 0 with
          timers := List.replicate n (timer 2000), watches := [(7, hostW)] } }
      Tab.find s.lodge.watches 7 = some hostW ∧ hostW.due = some 1001 ∧ s.active (sliceDom s 40) = true ∧ timersIn s 40 = n
      ∧ hostW.rearm = false ∧ (aft s (.timerArm (sound 7))).lodge.timers.length = 16
      ∧ (aft s (.timerArm (sound 7))).lodge.watches.length = n - 15 := by decide +kernel

theorem test_w_ExpressAdds : let s : State := { base with lodge := { Lodge.init with xval := [(40, 0xFFFFFFFF)], xupds := [upd 1 true] } }
    s.lodge.xupds = [upd 1 true] ∧ (upd 1 true).kind = 1 ∧ s.tiles = [] ∧ (aft s .expressUpdate).lodge.xval = [(40, 2)]
    ∧ base.lodge.xupds = [] := by decide +kernel

theorem test_w_HostCounterAccess : let s : State := { base with lodge := cnt 1 5 9 0 }
    slotsOn s 40 = [] ∧ Reaches s 0x500280 (.ldValue 40) ∧ Reaches s 0x500284 (.ldAdd 40) ∧ Reaches s 0x50028C (.ldCfg 40)
    ∧ 40 ∉ s.lodge.poison ∧ ldCfgBad s 40 0x80000000 = false ∧ ldCfgBad s 40 0xC0000000 = true
    ∧ cntVal (aft s (.ldValue 40 3)) 40 = 3 ∧ cntVal (aft s (.ldAdd (sound 40) 9)) 40 = 9
    ∧ Tab.get (aft s (.ldCfg 40 0x80000000)).lodge.cfg 0 40 = 0x80000000
    ∧ bit (aft s (.ldCfg 40 0xC0000000)).lodge.flags 3 = true := by
  simp only [Reaches]
  decide +kernel

theorem test_w_AtomClaims : (∀ v ∈ [0, 5], let s : State := { base with lodge := cnt 1 (BitVec.ofNat 32 v) 9 0 }
      Reaches s 0x500288 (.ldAtom 40) ∧ Tab.find s.cp.shadow 0x500288 = none ∧ 40 ∉ s.lodge.poison
      ∧ (aft s (.ldAtom (good 40))).cp.rdata = BitVec.ofNat 32 v ∧ cntVal (aft s (.ldAtom (good 40))) 40 = BitVec.ofNat 32 (v - 1))
    ∧ cntVal (aft { base with lodge := cnt 2 5 0 0 } (.ldAtom (good 40))) 40 = 5 := by
  simp only [Reaches]
  decide +kernel

theorem test_w_HostContextAccess : Reaches base 0x54FFFC (.ldCtx 16383) ∧ Reaches base 0x560FF0 (.ldXvalue 255)
    ∧ Reaches base 0x560FF4 (.ldXadd 255) ∧ base.tiles = []
    ∧ Tab.get (aft base (.ldCtx 255 63 0xFFFFFFFF)).lodge.ctx 0 16383 = 0xC0003FFF
    ∧ Tab.get (aft base (.ldXvalue 255 9)).lodge.xval 0 255 = 9 ∧ (aft base (.ldXadd 255 9)).lodge.xupds.map (·.value) = [9] := by
  simp only [Reaches]
  decide +kernel

/-- The registers describe a WAKE-free host watch GE 6 on counter 40; the bank holds `n` watches; slot 7 is a host watch. -/
def hw (n : Nat) : State :=
  { base32 with lodge := { cnt 2 5 0 0 with hwCounter := 40, hwOperand := 6, watches := others n } }
def hwc : State := { base with lodge := { cnt 2 5 0 0 with watches := [(7, hostW)], timers := [timer 2000] } }

theorem test_w_HostWatches : (∀ n ∈ [0, 31, 32], let s := hw n
      let x := hostWatch s.lodge
      Reaches s 0x570034 .ldHwCmd ∧ x.act ≠ 4 ∧ x.scope ≠ 3 ∧ cpCnt s x.cid = true ∧ x.cid = 40 ∧ x.operand = 6
      ∧ s.active (sliceDom s x.cid) = true ∧ slotsOn s x.cid = [] ∧ cntHolds s x.cid (cntVal s x.cid) x.operand x.cond = false
      ∧ freeSlot s x.cid = (if n = 32 then none else some n)
      ∧ (aft s (.ldHwCmdGo 0)).lodge.hwResult = (if n = 32 then 2 else 0))
    ∧ Reaches hwc 0x570034 .ldHwCmd ∧ Tab.find hwc.lodge.watches (fld (7 : Word) 11 0) = some hostW ∧ hostW.who = none
    ∧ (aft hwc (.ldHwCmdCancel 7)).lodge.watches = [] ∧ (aft hwc (.ldHwCmdCancel 7)).lodge.timers = [] := by
  simp only [Reaches]
  decide +kernel

/-- A SIG and a BAR of ring source 1 that have been sent. -/
def psent (isBar : Bool) : PendSig := { psig with src := .ring 1, entry := some eref, isBar := isBar, sent := true, ord := 4 }
def arr (isHost : Bool) (a : Nat) : Arrival := { bar := 3, a := a, scope := 1, host := isHost, tile := 0, src := .ring 1, ord := 4 }

theorem test_w_AnswersReachTile : (∀ p ∈ [(false, Body.updAck { upd 1 false with src := .ring 1, ord := 4 } 0, 0),
        (false, .updAck { upd 1 false with src := .ring 1, ord := 4 } 0x28, 0x28), (true, .overrun (arr false 0), 0x2A)],
      let s := sent (pends (psent p.1)) (msgTo (.lodge 0) (.tile 0) .lodge p.2.1)
      (arrived s 0).isSome = true ∧ coreRuns s 0 = true ∧ pendSent (s.tile 0) (.ring 1) 4 = some (psent p.1)
      ∧ (psent p.1).entry = some eref ∧ (psent p.1).launch.kind = 0 ∧ (psent p.1).wrel = false
      ∧ ((aft s (if p.1 then .overrunAnswer 0 else .signalAcknowledgement 0)).ring 0).comps.map (fun c => fld c.w72 7 0) = [p.2.2])
    ∧ (let m := { msgTo (.lodge 0) (.tile 0) .lodge (.watchReg (reg 0 6)) with again := true }
       (sent base m).prom.net[0]? = some m ∧ m.route = []
       ∧ (aft (sent base m) (.retryLater 0)).prom.net.map (fun m => (m.src, m.dst, m.again)) = [(.tile 0, .lodge 0, false)]) := by
  decide +kernel

/-- Three tiles' updates in one cycle, two of them to one counter; two of one wire; one that has been added before. -/
def xupd (wire cid : Nat) : Upd := { upd 1 true with wire := wire, cid := cid, tile := wire }

def xs (vs : List Upd) : State := { base with lodge := { Lodge.init with xval := [(40, 0xFFFFFFFF)], xupds := vs } }

theorem test_w_ExpressAdds_several : (let vs := [xupd 0 40, xupd 1 41, xupd 2 40]
       (vs.map (·.wire)).Nodup ∧ (∀ v ∈ vs, v.kind = 1) ∧ (aft (xs vs) .expressUpdate).lodge.xval = [(40, 5), (41, 3)]
       ∧ (aft (xs vs) .expressUpdate).prom.net.map (·.dst) = [.tile 0, .tile 1, .tile 2])
    ∧ (aft (xs [xupd 1 40, xupd 1 41]) .expressUpdate).lodge.xupds = [xupd 1 41]
    ∧ (let s := { xs [upd 0 true] with lodge := { (xs [upd 0 true]).lodge with applied := [{ home := .combiner, tile := 0, stream := 0, seq := 1 }] } }
       (upd 0 true).kind = 0 ∧ seqOld s.lodge.applied .combiner 0 0 1 = true ∧ (aft s .expressUpdate).lodge.xval = [(40, 0xFFFFFFFF)]
       ∧ (aft s .expressUpdate).prom.net.map (·.body) = [.updAck (upd 0 true) 0]) := by decide +kernel

/-- A release of scope 0 by tile 0 reaches a watch of tile 1; one of scope 1 meets the watch's scope 0. -/
theorem test_w_UpdateFiresWatch_scope : [0, 1].map (fun sc => let s := lodged { cnt 2 4 0 0 with watches := [(7, watch 0 5)] } (.upd { upd1 1 with scope := sc })
      let u := aft s (.signalApply 0 ⟨.clean, [], true⟩)
      (u.lodge.mm, u.lodge.mmCount, bit u.gate.evstat 6)) = [(0x82000028, 1, true), (0, 0, false)] := by decide +kernel

/-- A failed update is captured: a SIG of tile 0, and LD_ADD by the host (R251). -/
theorem test_w_ErrCaptured : (aft (lodged (cnt 1 0 0 0) (.upd (upd1 0xFFFFFFFF))) (.signalApply 0 ⟨.clean, [], true⟩)).lodge.err = 0x800A0028
    ∧ (aft { base with lodge := cnt 1 0 0 0 } (.ldAdd (sound 40) 0xFFFFFFFF)).lodge.err = 0xC00A0028 := by decide +kernel

/-! ## Barriers -/

/-- Barrier 3 expects `n` and holds `x`; an arrival of generation `a` is at the bandstand. -/
def arrives (n : Nat) (x : Barrier) (a : Nat) : State :=
  sent { base with band := { Band.init with cfg := [(3, BitVec.ofNat 32 (n - 1))], bars := [(3, x)] } }
    (msgTo (.tile 0) .band .lodge (.arrive (arr false a)))
def bar1 : Barrier := { gen := 1, cnt0 := 1, cnt1 := 1, scope0 := 2, scope1 := 0 }

theorem test_w_ArrivalCounts : (∀ n ∈ [2, 3], let s := arrives n bar1 1
      (arrived s 0).isSome = true ∧ availOf s (bandDom s) = .on ∧ pendSent (s.tile 0) (.ring 1) 4 = none
      ∧ (1 + 4 - (s.bar 3).gen) % 4 = 0 ∧ barN s 3 = n ∧ (s.bar 3).cnt0 < barN s 3 ∧ (s.bar 3).cnt1 < barN s 3
      ∧ bit (barCfg s 3) 24 = false)
    ∧ (let s := sent { (pends (psent true)) with band := (arrives 3 bar1 1).band } (msgTo (.tile 0) .band .lodge (.arrive (arr false 1)))
       (arrived s 0).isSome = true ∧ pendSent (s.tile 0) (.ring 1) 4 = some (psent true)
       ∧ ((aft s (.barrierArrival 0)).tile 0).pendRing = [] ∧ ((aft s (.barrierArrival 0)).ring 0).comps.map (fun c => fld c.w72 7 0) = [0])
    ∧ (aft (arrives 3 bar1 1) (.barrierArrival 0)).bar 3 = { bar1 with cnt0 := 2, scope0 := 1 }
    ∧ (aft (arrives 2 bar1 1) (.barrierArrival 0)).bar 3 = { gen := 2, cnt0 := 1, cnt1 := 0, scope0 := 0, scope1 := 2 }
    ∧ (aft (arrives 2 bar1 1) (.barrierArrival 0)).prom.net.length = 2 := by decide +kernel

theorem test_w_OverrunNotCounted : (∀ p ∈ [(3, bar1, 3), (3, bar1, 0), (1, bar1, 1), (1, bar1, 2)], let s := arrives p.1 p.2.1 p.2.2
      (arrived s 0).isSome = true ∧ availOf s (bandDom s) = .on
      ∧ (2 ≤ (p.2.2 + 4 - (s.bar 3).gen) % 4 ∨ ((p.2.2 + 4 - (s.bar 3).gen) % 4 = 0 ∧ barN s 3 ≤ (s.bar 3).cnt0)
        ∨ ((p.2.2 + 4 - (s.bar 3).gen) % 4 = 1 ∧ barN s 3 ≤ (s.bar 3).cnt1))
      ∧ (aft s (.barrierArrival 0)).bar 3 = bar1 ∧ (aft s (.barrierArrival 0)).band.errCount = 1) := by decide +kernel

def barWait (bar gen : Nat) : BarSt := { line := lbar 1, pc := 2, entry := none, ord := 1, launch := captureLaunch base 0 (lbar 1) 0
                                         bar := bar, gen := gen, scope := 0 }
def released (bar gen : Nat) : State :=
  sent (base.setTile 0 { tile0 with prog := { ord := 1, hold := .bar (barWait 3 1), issueWait := 0 } })
    (msgTo .band (.tile 0) .lodge (.release bar gen 2 false 0))

theorem test_w_ReleaseEndsBar : (∀ b ∈ [3, 4], (arrived (released b 1) 0).isSome = true ∧ coreRuns (released b 1) 0 = true
      ∧ ((released b 1).tile 0).prog.hold = .bar (barWait 3 1) ∧ (barWait 3 1).entry = none ∧ (barWait 3 1).gen < 4)
    ∧ (let s := sent (base.setTile 0 { tile0 with rings := [(1, { ord := 1, hold := .bar { barWait 3 2 with entry := some eref }, issueWait := 0 })] })
         (msgTo .band (.tile 0) .lodge (.release 3 2 2 false 0))
       (arrived s 0).isSome = true ∧ Source.ring 1 ∈ sources ∧ ((s.tile 0).source (.ring 1)).hold = .bar { barWait 3 2 with entry := some eref }
       ∧ ((aft s (.releaseDelivery 0)).ring 0).comps.map (fun c => fld c.w72 7 0) = [0])
    ∧ (let s := sent (released 3 1) (msgTo .band (.tile 0) .lodge (.release 3 0 2 true 0))
       (arrived s 0).isSome = true ∧ (s.tile 0).xheld = [] ∧ ((aft s (.releaseDelivery 0)).tile 0).prog.hold = .none)
    ∧ ((aft (released 3 1) (.releaseDelivery 0)).tile 0).prog.hold = .none
    ∧ ((aft (released 4 1) (.releaseDelivery 0)).tile 0).prog.hold = .bar (barWait 3 1) := by decide +kernel

theorem test_w_HostBarrierAccess : let s : State := { base with band := { Band.init with cfg := [(3, 3)], bars := [(3, bar1)] } }
    Reaches s 0x600018 (.bsCfg 3) ∧ (s.bar 3).cnt0 ≤ fld (1 : Word) 9 0 ∧ Reaches s 0x601000 .bsArrive
    ∧ (s.bar 3).cnt0 + 1 < barN s (fld (0x10003 : Word) 8 0) ∧ fld (0x10003 : Word) 17 16 = (s.bar 3).gen
    ∧ 2 ≤ (fld (0x30003 : Word) 17 16 + 4 - (s.bar 3).gen) % 4 ∧ Reaches s 0x601004 .bsReset
    ∧ (let s : State := { base with band := { Band.init with cfg := [(3, 3)], bars := [(3, { bar1 with cnt1 := 0 })] } }
       fld (0 : Word) 9 0 < (s.bar 3).cnt0 ∧ (s.bar 3).cnt1 ≤ fld (0 : Word) 9 0 ∧ bit (0 : Word) 24 = false
       ∧ ((aft s (.bsCfg 3 0)).bar 3).gen = 2)
    ∧ barCfg (aft s (.bsCfg 3 1)) 3 = 1 ∧ ((aft s (.bsArrive 0x10003)).bar 3).cnt0 = 2
    ∧ (aft s (.bsArrive 0x30003)).cp.err = true ∧ (aft s (.bsReset 3)).bar 3 = Barrier.init := by
  simp only [Reaches]
  decide +kernel

/-- The last arrival of a barrier with SIGEN and MSGEN: counter 40, vector 9. -/
theorem test_w_ArrivalCounts_signal : let s := arrives 2 bar1 1
    let s := { s with band := { s.band with cfg := [(3, 0x9300A001)] } }
    barN s 3 = 2 ∧ bit (barCfg s 3) 24 = true ∧ bit (barCfg s 3) 31 = true ∧ fld (barCfg s 3) 23 10 = 40 ∧ fld (barCfg s 3) 30 25 = 9
    ∧ (aft s (.barrierArrival 0)).prom.net.map (fun m => match m.body with | .upd v => (v.cid, v.value, v.kind) | _ => (0, 0, 0)) =
      [(0, 0, 0), (0, 0, 0), (40, 1, 3)]
    ∧ (Tab.get (aft s (.barrierArrival 0)).gate.vecs Vec.init 9).pend = true := by decide +kernel

/-- Ahead by one, of 3 and with one before it; and the last of the present one while all of the next have come. -/
theorem test_w_ArrivalsAhead : (let s := arrives 3 bar1 2
       (arrived s 0).isSome = true ∧ availOf s (bandDom s) = .on ∧ (2 + 4 - (s.bar 3).gen) % 4 = 1 ∧ (s.bar 3).cnt0 < barN s 3
       ∧ (s.bar 3).cnt1 < barN s 3 ∧ (aft s (.barrierArrival 0)).bar 3 = { bar1 with cnt1 := 2, scope1 := 0 }
       ∧ (aft s (.barrierArrival 0)).prom.net = [])
    ∧ (let s := arrives 2 { bar1 with cnt1 := 2 } 1
       (1 + 4 - (s.bar 3).gen) % 4 = 0 ∧ (s.bar 3).cnt0 + 1 = barN s 3 ∧ (s.bar 3).cnt1 = barN s 3 ∧ bit (barCfg s 3) 24 = false
       ∧ (aft s (.barrierArrival 0)).bar 3 = { gen := 3, cnt0 := 0, cnt1 := 0, scope0 := 2, scope1 := 2 }
       ∧ (aft s (.barrierArrival 0)).prom.net.length = 4) := by decide +kernel

/-! ## Timebase -/

/-- The pergola with the fields that a test sets. -/
def pgs (f : Pergola → Pergola) : State := { base with pg := f base.pg }
def slews (owed : Int) (cnt : Nat) : State := pgs (fun p => { p with owed := BitVec.ofInt 32 owed, slewCnt := cnt })

theorem test_w_SlewAdjusts : (∀ o ∈ [(2 : Int), -2], ∀ c ∈ [0, 1022, 1023], pgTicks (slews o c) = true ∧ (slews o c).pg.owed ≠ 0
      ∧ (slews o c).pg.loadReq = false ∧ (slews o c).pg.todDue = none ∧ (slews o c).pg.stepDue = none
      ∧ ((slews o c).pg.owed.toInt = o))
    ∧ fld base.pg.disc 31 16 = 1024
    ∧ (aft (slews 2 1022) .tbTick).pg.time = 1004 ∧ (aft (slews 2 1023) .slewAdjust).pg.time = 1005
    ∧ (aft (slews (-2) 1023) .slewAdjust).pg.time = 1003 ∧ (aft (slews (-2) 1023) .slewAdjust).pg.owed = 0xFFFFFFFF
    ∧ aft (slews 2 1022) .slewAdjust = slews 2 1022 ∧ aft (slews 2 1023) .tbTick = slews 2 1023 := by decide +kernel

def stepDue (d : Int) : State := pgs (fun p => { p with stepDue := some (BitVec.ofInt 32 d) })

theorem test_w_TicksAndSteps : (∀ p ∈ [(base, TickKind.plain), (stepDue (-40), .step), (slews 2 1023, .adjust),
      (pgs (fun p => { p with loadReq := true, load := 5000, stepEn := true }), .load)], pgTicks p.1 = true ∧ tickKind p.1 = p.2
        ∧ p.1.isOn (GenConfig.domFixed p.1.gen 6) = true ∧ clockDead p.1 (GenConfig.domFixed p.1.gen 6) = false)
    ∧ (aft base .tbTick).pg.time = 1004 ∧ (aft (stepDue (-40)) .step).pg.time = 964 ∧ (aft (stepDue (-40)) .step).pg.steps = 1
    ∧ bit (aft (stepDue (-40)) .step).gate.evstat 3 = true := by decide +kernel

def loads (valid frozen stepEn : Bool) : State :=
  pgs (fun p => { p with loadReq := true, load := 5000, valid := valid, frozen := frozen, stepEn := stepEn })

theorem test_w_LoadSetsTime : (∀ p ∈ [(false, false), (true, false), (true, true)], ∀ e ∈ [true, false],
      pgOn (loads p.1 p.2 e) = true ∧ (loads p.1 p.2 e).pg.running = true ∧ tickKind (loads p.1 p.2 e) = .load
      ∧ (loads p.1 p.2 e).pg.todDue = none ∧ (loads p.1 p.2 e).pg.load = 5000)
    ∧ (let u := aft (loads false false false) .timebaseLoad
       (u.pg.time, u.pg.frameRef, u.pg.valid, u.pg.steps)) = (5000, 5000, true, 0)
    ∧ (aft (loads true false true) .timebaseLoad).pg.steps = 1
    ∧ (aft (loads true false false) .timebaseLoad).pg.loadign = true := by decide +kernel

/-- The timebase port is the source; the counter stands `e` past a frame boundary. -/
def port1 (e : Int) : State := pgs (fun p => { p with srcIn := 1, frameRef := BitVec.ofInt 64 (1000 - e), stepEn := true })

theorem test_w_TimebasePort : (∀ e ∈ [(4 : Int), 5, 4096, 4097, -5], pgOn (port1 e) = true ∧ (port1 e).pg.srcIn = 1
      ∧ (port1 e).pg.tod = none ∧ (port1 e).pg.valid = true ∧ (port1 e).pg.discEn = true ∧ frameErr (port1 e) = e)
    ∧ fld base.pg.disc 15 0 = 4 ∧ base.pg.slewLim = 4096 ∧ base.pg.srcIn ≠ 1 ∧ Reaches base 0x300004 .pgCtrl
    ∧ (aft (port1 4) .tbFsync).pg.owed = 0 ∧ (aft (port1 5) .tbFsync).pg.owed = BitVec.ofInt 32 (-5)
    ∧ (aft (port1 4096) .tbFsync).pg.stepDue = none ∧ (aft (port1 4097) .tbFsync).pg.stepDue = some (BitVec.ofInt 32 (-4097))
    ∧ (aft (port1 0) (.tbTodLoad 77)).pg.tod = some 77
    ∧ (let s := pgs (fun p => { p with srcIn := 1, tod := some 77 })
       pgOn s = true ∧ (aft s .tbFsync).pg.todDue = some 77)
    ∧ (aft base (.pgLoad 0x60000000)).pg.loadReq = true
    ∧ (∀ d ∈ [21626880, 21626879], let s := pgs (fun p => { p with srcIn := 1, time := BitVec.ofNat 64 d })
        s.pg.missed = false ∧ (s.pg.time - s.pg.lastFsync).toInt = d ∧ (aft s .fsmiss).pg.fsmiss = decide (d = 21626880))
    ∧ pgTicks base = true ∧ (aft base .tbMismatch).pg.frozen = true := by
  simp only [Reaches]
  decide +kernel

/-- A slew at PG_SLEW_LIM + 1 without STEP_EN; a frozen counter's tick. -/
theorem test_w_TimebasePort_bigerr : (let s := { port1 4097 with pg := { (port1 4097).pg with stepEn := false } }
       frameErr s = 4097 ∧ s.pg.stepEn = false
       ∧ (let u := aft s .tbFsync
          (u.pg.owed, u.pg.bigerr, bit u.gate.evstat 4) = (BitVec.ofInt 32 (-4097), true, true)))
    ∧ fld base.pg.disc 7 0 = 4
    ∧ (let s := pgs (fun p => { p with frozen := true, src := 1 })
       pgOn s = true ∧ s.pg.running = true ∧ tickKind s ≠ .load ∧ (aft s .tbTick).pg.srcIn = 1 ∧ (aft s .tbTick).pg.time = 1000) := by decide +kernel

/-! ## Turnstiles -/

def cand (id : Nat) (slack : Int) (prio : Nat) : Cand := { id := id, slack := slack, prio := prio, kind := 0, rtile := 0, rstream := id }

/-- Lowest slack first; then the higher priority; then round robin after the last winner (R300). -/
theorem test_w_TurnstileOrder : ((bestCand 1 [cand 0 5 9, cand 1 4 0, cand 2 6 9]).map (·.id)) = some 1
    ∧ ((bestCand 1 [cand 0 4 0, cand 1 4 3, cand 2 4 1]).map (·.id)) = some 1
    ∧ ((bestCand 1 [cand 0 4 1, cand 1 4 1, cand 2 4 1]).map (·.id)) = some 2
    ∧ ((bestCand 2 [cand 0 4 1, cand 1 4 1, cand 2 4 1]).map (·.id)) = some 0 ∧ bestCand 0 [] = none := by decide +kernel

def waits (slack : Int) : Msg := { msgTo (.tile 0) (.tile 0) .request (.rd rq) with route := [.bank 0 3], slack := slack }
def hops (n : Nat) : Msg := { msgTo (.tile 0) (.tile 1) .request (.rd rq) with route := [.tileOut 0, .pavOut 0 (.tile 1)], flits := n }

/-- Flit `i` of two of a message at the last output before its unit. -/
def lands (i : Nat) : Msg := { hops 2 with route := [.pavOut 0 (.tile 1), .bank 1 0], index := i }

/-- A message of one flit at a bank, one of one and of two flits at a tile's way out, and the first and the last flit of one at its
unit, before and after the decision. -/
theorem test_w_GrantMovesFlit : (∀ x ∈ [(Point.bank 0 3, waits 4), (.tileOut 0, hops 1), (.tileOut 0, hops 2),
        (.pavOut 0 (.tile 1), lands 0), (.pavOut 0 (.tile 1), lands 1)], ∀ g ∈ [[], [x.2.queue]],
      let s := decided x.1 g (sent base x.2)
      s.prom.net = [x.2] ∧ x.2.route.head? = some x.1 ∧ linkUp s x.1 = true ∧ flitReady s x.1 (0, x.2) = true
      ∧ (pointSt s x.1).granted = g ∧ indexCands s x.1 = []
      ∧ startsOf s x.1 ≠ 0
      ∧ (aft s (.turnstileGrant x.1)).prom.net.map (fun m => m.route.length) =
        (if g = [] then [x.2.route.length] else if x.2 = lands 0 then [] else [x.2.route.length - 1]))
    ∧ (sent base (waits 4)).prom.net[0]? = some (waits 4) ∧ slackFloor base = -128
    ∧ (aft (sent base (waits (-127))) (.slackDecrement 0)).prom.net.map (·.slack) = [-128]
    ∧ (aft (sent base (waits (-128))) (.slackDecrement 0)).prom.net.map (·.slack) = [-128] := by decide +kernel

/-- Another requester holds the bank's decision; the limit is 1. -/
theorem test_w_StarvationCaptured : ∀ ls ∈ [(0, 1), (1, 1), (2, 1), (1, 0)], let m := waits 4
    let s := decided (.bank 0 3) [m.queue + 1] (sent { base with turn := { Turn.init with starveLimit := BitVec.ofNat 15 ls.2, evEn := true } } m)
    let s := setPoint s (.bank 0 3) { pointSt s (.bank 0 3) with lost := if ls.1 = 0 then [] else [(m.queue, ls.1)] }
    s.prom.net = [m] ∧ linkUp s (.bank 0 3) = true ∧ flitReady s (.bank 0 3) (0, m) = true ∧ indexCands s (.bank 0 3) = []
    ∧ (pointSt s (.bank 0 3)).granted = [m.queue + 1] ∧ m.queue ∉ (pointSt s (.bank 0 3)).raised
    ∧ (let u := aft s (.turnstileGrant (.bank 0 3))
       (Tab.get (pointSt u (.bank 0 3)).lost 0 m.queue, bit u.turn.starve 31, u.turn.starveCount, bit u.gate.evstat 7) =
         (ls.1 + 1, decide (0 < ls.2 ∧ 0 < ls.1), (if 0 < ls.2 ∧ 0 < ls.1 then 1 else 0), decide (0 < ls.2 ∧ 0 < ls.1))) := by decide +kernel

/-! ## Rings -/

/-- Ring 5 of 8 entries at 0x10000, for tile 1 and ring source 1. -/
def ring5 (f : Ring → Ring) : State :=
  base.setRing 5 (f { Ring.init with base := 0x10000, cfg := 0x08000003 })

theorem test_w_RingDoorbell : (∀ c ∈ [0x08000003, 0x08000002, 0x10000003],
      let s := ring5 (fun r => { r with cfg := BitVec.ofNat 32 c })
      Reaches s 0x1014C (.ringCtrl 5) ∧ (s.ring 5).en = false ∧ enableOk s 5 = decide (c = 0x08000003)
      ∧ ((aft s (.ringEnable 5)).ring 5).en = decide (c = 0x08000003) ∧ (aft s (.ringEnable 5)).gate.cfgerr = decide (c ≠ 0x08000003))
    ∧ (let s := ring5 (fun r => { r with en := true, fetch := 0xFFFFFFFF, done := 0xFFFFFFFE })
       Reaches s 0x10150 (.ringProd 5) ∧ (s.ring 5).held = [] ∧ (s.ring 5).heldX = [] ∧ (s.ring 5).notown = false
       ∧ ((aft s (.prod 5 6)).ring 5).prod = 6 ∧ bit ((aft s (.prod 5 7)).ring 5).flags 3 = true
       ∧ ((aft s (.prod 5 0xFFFFFFFF)).ring 5).prod = 0xFFFFFFFF ∧ bit ((aft s (.prod 5 0xFFFFFFFE)).ring 5).flags 3 = true) := by
  simp only [Reaches]
  decide +kernel

def fetching : State := ring5 (fun r => { r with en := true, prod := 9, fetch := 7, done := 7 })
def refetching : State := ring5 (fun r => { r with en := true, prod := 9, fetch := 7, done := 7, notown := true })

/-- The window moved onto the ring. -/
def inWindow (s : State) : State := { s with prom := { s.prom with windowBase := 0 } }
def outside (s : State) (a : GhAcc) : Bool :=
  decide (windowOff s (ghAccess s a).1 = none) && decide (windowOff s ((ghAccess s a).1 + BitVec.ofNat 64 ((ghAccess s a).2.1 - 1)) = none)

theorem test_w_RingsFetch : (∀ s ∈ [fetching, inWindow fetching], gateOn s = true
      ∧ (nextRing s).map (fun p => (p.1, p.2.1, outside s (.fetch p.1 p.2.1 p.2.2))) = some (5, 7, decide (s = fetching)))
    ∧ nextRing base = none ∧ gateOn base = true ∧ (refetching.ring 5).notown = true ∧ (fetching.ring 5).notown = false
    ∧ (let r := refetching.ring 5
       0 < r.room ∧ r.fetch ≠ r.prod ∧ fld r.base 11 0 = 0
       ∧ (∀ n ∈ List.range 17, outside refetching (.fetch 5 r.fetch.toNat n) = true) ∧ r.fetching ++ r.heldFetches = [] ∧ r.arrived = [])
    ∧ (aft fetching .ringFetch).prom.net.map (fun m => match m.body with | .gh a => (ghAccess fetching a).1 | _ => 0) = [0x10380]
    ∧ ((aft (inWindow fetching) .ringFetch).ring 5).held.length = 1
    ∧ ((aft refetching (.fetchRetry 5)).ring 5).notown = false := by decide +kernel

/-- Entry 7 of ring 5 with bytes 64–67. -/
def entry (w : Nat) : List Byte := List.replicate 64 1 ++ toBytes 4 w ++ List.replicate 60 0
def fetchedS (w : Nat) : State := ring5 (fun r => { r with en := true, prod := 9, fetch := 7, done := 7, arrived := [(7, entry w)] })

theorem test_w_FetchedEntriesJobs : (∀ w ∈ [0xE0000000, 0xF0000000, 0x60000000], let s := fetchedS w
      gateOn s = true ∧ (s.ring 5).notown = false ∧ (s.ring 5).openJob = [] ∧ (s.ring 5).arrived = [(7, entry w)]
      ∧ (entry w).length = 128 ∧ BitVec.ofNat 32 (ofBytes (((entry w).drop 64).take 4)) = BitVec.ofNat 32 w)
    ∧ ((aft (fetchedS 0xE0000000) (.fetchResponse ⟨5, .clean⟩)).ring 5).ready.map (fun e => (e.ref.idx, e.ref.flags)) = [(7, 0xE0000000)]
    ∧ ((aft (fetchedS 0xF0000000) (.fetchResponse ⟨5, .clean⟩)).ring 5).comps.map (fun c => fld c.w72 7 0) = [0x12]
    ∧ ((aft (fetchedS 0x60000000) (.fetchResponse ⟨5, .clean⟩)).ring 5).fetch = 7
    ∧ bit ((aft (fetchedS 0x60000000) (.fetchResponse ⟨5, .clean⟩)).ring 5).flags 2 = true
    ∧ outside (fetchedS 0xE0000000) (.fetch 5 7 1) = true
    ∧ ((aft (fetchedS 0xE0000000) (.fetchResponse ⟨5, .bad⟩)).ring 5).fetching = [(7, 1)] := by decide +kernel

def qe (i : Nat) : QEntry := { ref := { eref with ring := 5, idx := i, job := i }, line := lfence }
/-- Entry 7 handed on, with `n` places of its input queue taken. -/
def readyS (n : Nat) (broken : List EntryRef := []) : State :=
  let s := ring5 (fun r => { r with en := true, ready := [qe 7], broken := broken })
  { s with gate := { s.gate with placed := List.replicate n { tile := 1, src := 1, ref := (qe 3).ref } } }

theorem test_w_EntriesDispatch : (∀ n ∈ [0, 3, 4], let s := readyS n
      gateOn s = true ∧ (s.ring 5).ready = [qe 7] ∧ Ring.tile (s.ring 5) = 1 ∧ Ring.rsrc (s.ring 5) = 1
      ∧ seatsTaken s 1 1 = n ∧ (s.ring 5).broken = [] ∧ (∀ m ∈ s.prom.net, m.acceptance = none)
      ∧ (aft s (.dispatch 5)).prom.net.length = if n = 4 then 0 else 1)
    ∧ ∀ q ∈ [DomState.on, .off], let s := sent (base.setDom 3 { onDom with state := q }) (msgTo .gate (.tile 1) .control (.entry 1 1 (qe 7)))
      (arrived s 0).isSome = true ∧ s.isOn (GenConfig.domCore s.gen 1) = decide (q = .on)
      ∧ (Tab.get ((aft s (.entryReceipt 0)).tile 1).inq [] 1).length = (if q = .on then 1 else 0)
      ∧ ((aft s (.entryReceipt 0)).ring 5).comps.map (fun c => fld c.w72 7 0) = (if q = .on then [] else [0x30]) := by
  decide +kernel

def comp (i : Nat) (ph : CompPhase) (code : Nat) : Comp :=
  { idx := i, flags := 0xE0000000, w72 := BitVec.ofNat 32 code, w76 := 0, tLaunch := 0, tRetire := 0, prog := [], phase := ph }
def doneS (cmode : Nat) (c : Comp) : State :=
  (ring5 (fun r => { r with en := true, prod := 9, fetch := 9, done := 7, cfg := 0x08000003 ||| BitVec.ofNat 32 (cmode <<< 8 ||| 3 <<< 10)
                            comps := [c] }))

/-- The response to a write of the completion of entry 7. -/
def landing (ph : CompPhase) (a : GhAcc) : State :=
  let s := doneS 0 (comp 7 ph 0)
  { s with prom := { s.prom with net := [msgTo (.sysPort 0) .gate .response (.ghResp a .okay [])] } }

theorem test_w_CompletionsWritten : (∀ ph ∈ [CompPhase.ready, .landed, .ownLanded], gateOn (doneS 0 (comp 7 ph 0)) = true
      ∧ ((doneS 0 (comp 7 ph 0)).ring 5).comps = [comp 7 ph 0] ∧ Ring.shen ((doneS 0 (comp 7 ph 0)).ring 5) = false
      ∧ ((doneS 0 (comp 7 ph 0)).ring 5).done = 7)
    ∧ outside (doneS 0 (comp 7 .ready 0)) (.comp 5 7) = true ∧ outside (doneS 0 (comp 7 .landed 0)) (.own 5 7) = true
    ∧ (∀ p ∈ [(CompPhase.sent, GhAcc.comp 5 7, CompPhase.landed), (.ownSent, .own 5 7, .ownLanded)], let s := landing p.1 p.2.1
        (arrived s 0).isSome = true ∧ gateOn s = true ∧ (s.ring 5).comps = [comp 7 p.1 0] ∧ p.2.1 ∉ (s.ring 5).held ++ (s.ring 5).heldX
        ∧ ((aft s (.writeAcknowledgement 0)).ring 5).comps.map (·.phase) = [p.2.2])
    ∧ ((aft (doneS 0 (comp 7 .ready 0)) (.completion 5 0)).ring 5).comps.map (·.phase) = [.sent]
    ∧ ((aft (doneS 0 (comp 7 .landed 0)) (.ownWrite 5 0)).ring 5).comps.map (·.phase) = [.ownSent]
    ∧ ((aft (doneS 0 (comp 7 .ownLanded 0)) (.doneAdvance 5)).ring 5).done = 8
    ∧ ((aft (doneS 0 (comp 8 .ownLanded 0)) (.doneAdvance 5)).ring 5).done = 7 := by decide +kernel

/-- CMODE 0 to 3 without and with a STATUS of 0x08 (R326), without and with a shadow. -/
theorem test_w_CompletionVectors : ∀ m ∈ [0, 1, 2, 3], ∀ code ∈ [7, 8], ∀ x ∈ [0, 32],
    let s := ring5 (fun r => { r with en := true, prod := 9, fetch := 9, done := 7, comps := [comp 7 .ownLanded code], shadow := 0x20000
                                      cfg := 0x08000003 ||| BitVec.ofNat 32 (m <<< 8 ||| 3 <<< 10 ||| x) })
    gateOn s = true ∧ (s.ring 5).comps = [comp 7 .ownLanded code] ∧ Ring.cmode (s.ring 5) = m ∧ Ring.cvec (s.ring 5) = 3
    ∧ outside s (.shadow 5 0) = true
    ∧ (Tab.get (aft s (.doneAdvance 5)).gate.vecs Vec.init 3).pend = (decide (m = 1) || (decide (2 ≤ m) && decide (code = 8))) := by
  decide +kernel

def vec (a : Nat) : State := { base with
  gate := { Gate.init with vecs := [(9, { Vec.init with addr := BitVec.ofNat 64 a, data := 5, mask := false, pend := true })] }
  always := { Always.init with msgBase := 0x100000000C } }

theorem test_w_GatehouseSends : (let s := ring5 (fun r => { r with en := true, comps := [comp 7 .sent 0], held := [.comp 5 7] })
       gateOn s = true ∧ (s.ring 5).held = [.comp 5 7] ∧ outside s (.comp 5 7) = true ∧ (aft s (.gatehouseRetry 5)).prom.net.map (·.body) = [.gh (.comp 5 7)])
    ∧ (∀ a ∈ [0x1000000FFC, 0x1000000FFD, 0x1000001000, 0xFFFFFFFFC], let x := Tab.get (vec a).gate.vecs Vec.init 9
        gateOn (vec a) = true ∧ x.pend = true ∧ x.mask = false ∧ x.mode = false ∧ outside (vec a) (.msg 9 x.addr x.data) = true
        ∧ (aft (vec a) (.messageWrite 9)).gate.vecerr = decide (a ≠ 0x1000000FFC))
    ∧ inMsgWindow (vec 0) 0x1000000FFC = true ∧ inMsgWindow (vec 0) 0x1000001000 = false := by decide +kernel

/-- A job of 16 entries without a LAST is in the buffer: the next fetch ends it (R316, R319). -/
theorem test_w_RingsFetch_overrun : let s := ring5 (fun r => { r with en := true, prod := 25, fetch := 23, done := 7
                                                                      openJob := (List.range 16).map (fun i => { qe (7 + i) with ref := { (qe (7 + i)).ref with flags := 0x80000000 } }) })
    gateOn s = true ∧ nextRing s = some (5, 23, 1) ∧ outside s (.fetch 5 23 1) = true ∧ (s.ring 5).openJob.length = 16
    ∧ (∀ e ∈ (s.ring 5).openJob, e.ref.ring = 5 ∧ fld e.ref.flags 26 0 = 0)
    ∧ (let u := aft s .ringFetch
       ((u.ring 5).openJob.length, (u.ring 5).overrun, (u.ring 5).comps.map (fun c => fld c.w72 7 0)) = (0, true, List.replicate 16 0x12)) := by decide +kernel

/-- The 17th entry of a job arrives. -/
theorem test_w_FetchedEntriesJobs_overrun : let s := (fetchedS 0x80000000).setRing 5 { (fetchedS 0x80000000).ring 5 with overrun := true }
    gateOn s = true ∧ (s.ring 5).notown = false ∧ (s.ring 5).openJob = [] ∧ (s.ring 5).arrived = [(7, entry 0x80000000)]
    ∧ (let u := aft s (.fetchResponse ⟨5, .clean⟩)
       ((u.ring 5).fetch, (u.ring 5).overrun, (u.ring 5).comps.map (fun c => (c.idx, fld c.w72 7 0))) = (8, false, [(7, 0x12)])) := by decide +kernel

/-- Entry 7 of a job that entry 6 has broken; an acceptance of entry 3; an entry that reaches a tile behind a broken one. -/
theorem test_w_EntriesDispatch_broken : let b : EntryRef := { (qe 6).ref with job := 7 }
    (let s := readyS 0 [b]
     gateOn s = true ∧ (s.ring 5).ready = [qe 7] ∧ inBroken b (qe 7).ref = true ∧ (∀ m ∈ s.prom.net, m.acceptance = none)
     ∧ ((aft s (.dispatch 5)).ring 5).comps.map (fun c => (c.idx, fld c.w72 7 0)) = [(7, 0x12)])
    ∧ (let s := sent (readyS 1) (msgTo (.tile 1) .gate .response (.accepted (qe 3).ref))
       let s := s.setRing 5 { s.ring 5 with ready := [] }
       gateOn s = true ∧ (s.prom.net.map (fun m => (m.acceptance, m.route.length)) = [(some (qe 3).ref, 0)]) ∧ (s.ring 5).ready = []
       ∧ s.gate.placed.length = 1 ∧ (aft s (.dispatch 5)).gate.placed = [] ∧ (aft s (.dispatch 5)).prom.net = [])
    ∧ (let s := sent (base.setTile 1 { Tile.init with broken := [b] }) (msgTo .gate (.tile 1) .control (.entry 1 1 (qe 7)))
       (arrived s 0).isSome = true ∧ s.isOn (GenConfig.domCore s.gen 1) = true ∧ (s.tile 1).broken = [b]
       ∧ (Tab.get ((aft s (.entryReceipt 0)).tile 1).inq [] 1) = []
       ∧ ((aft s (.entryReceipt 0)).ring 5).comps.map (fun c => fld c.w72 7 0) = [0x12]) := by decide +kernel

/-- A signal of the instruction is on its way to its counter. -/
theorem test_w_CompletionsWritten_waits : ∀ out ∈ [true, false], let c := { comp 7 .ready 0 with who := some (1, Source.ring 1, 4) }
    let v : Upd := { upd1 1 with tile := 1, src := .ring 1, ord := if out then 4 else 5 }
    let s := sent (doneS 0 c) (msgTo (.tile 1) (.lodge 0) .control (.upd v))
    gateOn s = true ∧ (s.ring 5).comps = [c] ∧ c.who.any (stillOut s) = out ∧ outside s (.comp 5 7) = true
    ∧ ((aft s (.completion 5 0)).ring 5).comps.map (·.phase) = [if out then .ready else .sent] := by decide +kernel

/-! ## System ports and window ports -/

/-- A request for 16 bytes at 0x5000 in system memory; `x` is system port 0. -/
def rqs : ReadReq := { rq with addr := 0x5000, len := 16 }
def pq (r : SpReq) : PortReq := { req := r, slack := 0, prio := 0 }
def spS (x : SysPort) (xl : Bool) : State :=
  { base with prom := { Prom.init with sps := [(0, x)] }, always := { Always.init with xlateEn := xl } }
def atPort (x : SysPort) (xl : Bool) : State :=
  let s := spS x xl
  { s with prom := { s.prom with net := [msgTo (.tile 0) (.sysPort 0) .request (.rd rqs)] } }
def tlb5 (perm : Nat) : TlbEnt := { part := 0, va := 5, pa := 0x88, size := 0, perm := BitVec.ofNat 2 perm }

theorem test_w_RequestsTranslated : (∀ p ∈ [(SysPort.init, false), (SysPort.init, true), ({ SysPort.init with tlb := [tlb5 1] }, true),
        ({ SysPort.init with tlb := [tlb5 2] }, true)], let s := atPort p.1 p.2
      (arrived s 0).isSome = true ∧ availOf s (portDom s 0) = .on ∧ portRoom p.1 = true ∧ (s.sp 0).waiting = [] ∧ s.sp 0 = p.1
      ∧ freeTag p.1 = some 0 ∧ freeQuery p.1 = some 0 ∧ queryFor s 0 (.rd rqs) = none)
    ∧ (tlb5 1).hits (reqPart base (.rd rqs)) (pageOf rqs.addr) = true ∧ permits (tlb5 1).perm false = true
    ∧ permits (tlb5 2).perm false = false
    ∧ ((aft (atPort SysPort.init false) (.systemPortRequest 0 ⟨0, .clean⟩)).sp 0).tags.map (fun p => p.2.pa) = [0x5000]
    ∧ ((aft (atPort { SysPort.init with tlb := [tlb5 1] } true) (.systemPortRequest 0 ⟨0, .clean⟩)).sp 0).tags.map (fun p => p.2.pa) = [0x88000]
    ∧ ((aft (atPort { SysPort.init with tlb := [tlb5 2] } true) (.systemPortRequest 0 ⟨0, .clean⟩)).sp 0).faddr = 0x5000
    ∧ ((aft (atPort SysPort.init true) (.systemPortRequest 0 ⟨0, .clean⟩)).sp 0).queries.map (fun p => p.2.va) = [5] := by decide +kernel

def query (wr : Bool) (is : List Inval) : Query := { part := 0, va := 5, wr := wr, invals := is }
def asked (w : List PortReq) (is : List Inval) : SysPort := { SysPort.init with queries := [(9, query false is)], waiting := w }

theorem test_w_TranslationAnswered : (∀ w ∈ [[], [pq (.rd rqs)]], ∀ is ∈ [[], [({ all := true, va := 0, part := 0 } : Inval)]],
      let s := spS (asked w is) true
      portActive s 0 = true ∧ Tab.find (s.sp 0).queries 9 = some (query false is) ∧ (s.sp 0).inval = none ∧ (s.sp 0).waiting = w
      ∧ (is ++ (s.sp 0).inval.toList).any (fun v => v.hits 0 5 0) = decide (is ≠ []))
    ∧ permits 1 false = true ∧ rqs.part = 0 ∧ pageOf rqs.addr = 5 ∧ freeTag (asked [] []) = some 0
    ∧ ((aft (spS (asked [pq (.rd rqs)] []) true) (.translationAnswer 0 9 0x88 0 1 false)).sp 0).tags.map (fun p => p.2.pa) = [0x88000]
    ∧ ((aft (spS (asked [pq (.rd rqs)] []) true) (.translationAnswer 0 9 0 0 0 true)).sp 0).faddr = 0x5000
    ∧ ((aft (spS (asked [] [{ all := true, va := 0, part := 0 }]) true) (.translationAnswer 0 9 0x88 0 1 false)).sp 0).queries =
      [(9, query false [])] := by decide +kernel

def tag (r : SpReq) (late : Bool) (blocks : Bool) : TagSt :=
  { req := pq r, pa := 0x5000, xlate := none, got := [], timedOut := late, blocks := blocks }
def tagged (g : TagSt) : State := spS { SysPort.init with tags := [(1023, g)] } false

theorem test_w_PortResponses : (∀ g ∈ [tag (.rd rqs) false false, tag (.wr { wq .data none with addr := 0x5000 }) false false, tag (.rd rqs) true false],
      portActive (tagged g) 0 = true ∧ Tab.find ((tagged g).sp 0).tags 1023 = some g ∧ Tab.find ((tagged g).sp 0).tags 0 = none)
    ∧ flitsOf rqs.addr rqs.len = 1
    ∧ ((aft (tagged (tag (.rd rqs) false false)) (.systemPortResponse 0 1023 0 0 [7] true)).prom.net.map (·.body)) =
      [.rdResp rqs .okay (7 :: List.replicate 15 0)]
    ∧ ((aft (tagged (tag (.rd rqs) false false)) (.systemPortResponse 0 1023 0 1 [] true)).prom.net.map (·.body)) =
      [.rdResp rqs .denied []]
    ∧ bit ((aft (tagged (tag (.rd rqs) true false)) (.systemPortResponse 0 1023 0 0 [] true)).sp 0).flags 2 = true
    ∧ bit ((aft (tagged (tag (.rd rqs) true false)) (.systemPortResponse 0 0 0 0 [] true)).sp 0).flags 0 = true := by decide +kernel

theorem test_w_TagTimesOut : (∀ l ∈ [true, false], portActive (tagged (tag (.rd rqs) l false)) 0 = true
      ∧ Tab.find ((tagged (tag (.rd rqs) l false)).sp 0).tags 1023 = some (tag (.rd rqs) l false))
    ∧ (aft (tagged (tag (.rd rqs) false false)) (.responseTimeout (.tag 0 1023))).prom.net.map (·.body) = [.rdResp rqs .timeout []] := by
  decide +kernel

theorem test_w_InvalidationsDropPages : (∀ p ∈ [(none, false), (some ({ all := true, va := 0, part := 0 } : Inval), false),
      (some { all := true, va := 0, part := 0 }, true)],
      let s := spS { SysPort.init with tlb := [tlb5 1], inval := p.1, tags := [(0, tag (.rd rqs) false p.2)] } true
      portActive s 0 = true ∧ (s.sp 0).inval = p.1 ∧ (s.sp 0).tags.map (fun t => (t.2.blocks, t.2.timedOut)) = [(p.2, false)]
      ∧ ((aft s (.invalidationComplete 0)).sp 0).inval.isSome = (p.1.isSome && p.2))
    ∧ ((aft (spS { SysPort.init with tlb := [tlb5 1, { tlb5 1 with va := 6 }] } true) (.invalidation 0 false 5 0)).sp 0).tlb =
      [{ tlb5 1 with va := 6 }] := by decide +kernel

def winS (poison : List Nat) : State :=
  { base with always := { Always.init with wpMask := [(0, 3)] }, spad := { Spad.init with mem := [(1024, 9)], poison := poison } }
def winA (o : Nat) : DWord := BitVec.ofNat 64 (win o)

def winReq (st : DomState) : State := (winS []).setDom (GenConfig.domRouter cfg 0) { onDom with state := st }

/-- Allowed, an unaligned atomic, and a tile that the mask leaves out; a request across two bank groups; a router that quiesces. -/
theorem test_w_WindowPortRequested : (∀ op ∈ [0, 1, 4, 5, 6, 7, 8], wpTarget (winS []) 0 op (winA 1024) 4 = some 1024)
    ∧ wpTarget (winS []) 0 5 (winA 1022) 4 = none ∧ wpTarget (winS []) 0 0 (winA 0x200000) 1 = none
    ∧ wpBusy (winS []) 0 7 = false ∧ availOf (winS []) (GenConfig.domRouter cfg 0) = .on
    ∧ availOf (winReq .quiescing) (GenConfig.domRouter cfg 0) = .later
    ∧ wpTarget (winS []) 0 1 (winA 0x7FFFC) 8 = some 0x7FFFC ∧ wpParts (winS []) 0x7FFFC 8 = [(0x7FFFC, 4), (0x80000, 4)]
    ∧ (aft (winS []) (.windowPortRequest 0 ⟨7, 0⟩ (winA 1024) 3 [])).prom.net.length = 1
    ∧ (aft (winS []) (.windowPortRequest 0 ⟨7, 1⟩ (winA 0x7FFFC) 7 [1, 2, 3, 4, 5])).prom.net.map (fun m =>
        match m.body with | .wp q => (m.route.getLast?, q.part, q.data) | _ => (none, 2, [])) =
      [(some (.bank 0 3), 0, [1, 2, 3, 4]), (some (.bank 0 4), 1, [5])]
    ∧ (Tab.find (aft (winS []) (.windowPortRequest 0 ⟨7, 5⟩ (winA 1022) 3 [3])).prom.wpResp 0).map (fun r => (r.tag, r.code)) = some (7, 1)
    ∧ (Tab.find (aft (winReq .quiescing) (.windowPortRequest 0 ⟨7, 5⟩ (winA 1024) 3 [3])).prom.wpResp 0).map (·.code) = some 3 := by
  decide +kernel

def wpq (op off len : Nat) (data : List Byte) : WpReq := { port := 0, tag := 7, op := op, part := 0, off := off, len := len, data := data }
def wpAt (st : DomState) (poison : List Nat) (q : WpReq) : State :=
  sent ((winS poison).setDom (GenConfig.domSpad cfg 0) { onDom with state := st }) (msgTo (.winPort 0) (.tile 0) .request (.wp q))
def wpSaid (s : State) : Option (Nat × List Byte) :=
  s.prom.net.head?.bind (fun m => match m.body with | .wpResp _ c d => some (c, d.take 2) | _ => none)

/-- A write and a read of one granule and of two; each atomic operation on the value 9; a poisoned read; a bank group not ON. -/
theorem test_w_WindowPortPerformed : (∀ q ∈ [wpq 1 1024 1 [5], wpq 1 1151 2 [5, 6], wpq 0 1024 1 [], wpq 0 1151 2 [], wpq 5 1024 4 [3]],
      ∀ p ∈ [(DomState.on, Avail.on), (.off, .off), (.quiescing, .later)], let s := wpAt p.1 [] q
      (arrived s 0).isSome = true ∧ availOf s (spadDom s 0) = p.2 ∧ poisoned s.spad.poison 1024 256 = false
      ∧ (p.1 ≠ .on → wpSaid (aft s (if q.op = 0 then .bankRead 0 .clean else .bankWrite ⟨0, .clean⟩)) =
          some (if p.1 = .off then 4 else 3, [])))
    ∧ accessAt 1024 1 1 = none ∧ accessAt 1151 2 1 = some 1152
    ∧ ([(4, [255, 255]), (5, [3]), (6, [5, 0, 0, 0, 0, 0, 0, 0, 9]), (6, [5, 0, 0, 0, 0, 0, 0, 0, 8]), (7, [6]), (8, [12])] :
        List (Nat × List Byte)).map (fun p => memByte (aft (wpAt .on [] (wpq p.1 1024 4 p.2)) (.bankWrite ⟨0, .clean⟩)).spad.mem 1024) =
      [8, 3, 5, 9, 15, 8]
    ∧ wpSaid (aft (wpAt .on [] (wpq 5 1024 4 [3])) (.bankWrite ⟨0, .clean⟩)) = some (0, [9, 0])
    ∧ memByte (aft (wpAt .on [] (wpq 1 1024 1 [5])) (.bankWrite ⟨0, .clean⟩)).spad.mem 1024 = 5
    ∧ wpSaid (aft (wpAt .on [] (wpq 0 1024 1 [])) (.bankRead 0 .clean)) = some (0, [9])
    ∧ (aft (wpAt .on [] (wpq 0 1151 2 [])) (.bankRead 0 .clean)).prom.net.map (fun m => (m.done, m.route)) = [(1, [.bank 0 1])]
    ∧ wpSaid (aft (wpAt .on [128] (wpq 0 1024 1 [])) (.bankRead 0 .clean)) = some (2, []) := by decide +kernel

def wpBack (q : WpReq) (out : List (Option (Nat × List Byte))) : State :=
  let s := sent base (msgTo (.tile 0) (.winPort 0) .response (.wpResp q 0 [9]))
  { s with prom := { s.prom with wpOut := [(7, out)] } }

theorem test_w_WindowPortAnswered : (∀ q ∈ [wpq 0 1024 1 [], wpq 1 1024 1 [5]], ∀ out ∈ [[none], [none, none]], let s := wpBack q out
      (arrived s 0).isSome = true ∧ q.part = 0 ∧ Tab.find s.prom.wpOut (wpKey q.port q.tag) = some out
      ∧ (Tab.find (aft s (if q.op = 1 then .writeAcknowledgement 0 else .readResponse 0 .clean)).prom.wpResp 0).map (fun r => (r.tag, r.data)) =
        if out = [none] then some (7, [9]) else none) := by decide +kernel

/-! ## Registers -/

/-- Addresses of the plain RW registers. -/
def plainAt : List (Nat × CpReg) :=
  [(0x1000414, .tile 0 .calSatThr), (0x1100418, .tile 1 .calFlushThr), (0x1000600, .tile 0 .prio), (0x1000300, .tile 0 (.stgSlice false)),
    (0x1000304, .tile 0 (.stgSlice true)), (0x400004, .tsFixed), (0x30002C, .pgSlewLim), (0x100804, .pwrTo), (0x2128, .vecData 9),
    (0x570024, .ldHwOperand), (0x570030, .ldHwOffset)]

theorem test_w_RegisterWrites : (∀ p ∈ plainAt, Reaches base p.1 p.2
      ∧ readReg (aft base (.registerWrite (BitVec.ofNat 26 p.1) 0x12345678 15)) p.2 = 0x12345678)
    ∧ (∀ p ∈ [(0, CpReg.ghId), (8, .ghConfig), (0x20000C, .kpCorr), (0x200014, .kpUnrec), (0x300030, .pgErr), (0x400014, .tsStarveCount),
        (0x1000004, .tile 0 .status), (0x100000C, .tile 0 .faultCount)], Reaches base p.1 p.2
      ∧ readReg (aft base (.registerWrite (BitVec.ofNat 26 p.1) 0x12345678 15)) p.2 = readReg base p.2)
    ∧ (∀ r ∈ [(0x10, CpReg.unlisted), (0x1000FFC, .tile 0 .unlisted)], Reaches base r.1 r.2
        ∧ aft base (.registerWrite (BitVec.ofNat 26 r.1) 1 7) = answered base)
    ∧ Reaches base 0x100804 .pwrTo ∧ aft base (.registerWrite 0x100804 1 0) = answered base
    ∧ TileReg.isMem .calSatThr = false ∧ (aft base (.registerWrite 0x1000414 1 7)).cp.err = true
    ∧ (aft base (.registerWrite 0x100804 1 7)).cp.err = true
    ∧ regAt base.gen 0x2000000 = none ∧ (aft base (.registerWrite 0x2000000 1 15)).cp.err = true
    ∧ reachable (base.setDom 0 Dom.init) 0x1000414 (.tile 0 .calSatThr) = false
    ∧ (aft (base.setDom 0 Dom.init) (.registerWrite 0x1000414 1 15)).cp.err = true
    ∧ (aft { base with cp := { CtlPort.init with inReset := true } } (.registerWrite 0x100804 1 15)).cp.err = true := by
  simp only [Reaches]
  decide +kernel

theorem test_w_RegisterPairs : Reaches base 0x300010 (.pgTime false) ∧ (CpReg.pgTime false).isLo = some (.pgTime true)
    ∧ (aft base (.registerPairLoRead 0x300010)).cp.rdata = 1000
    ∧ (let s : State := { base with cp := { CtlPort.init with shadow := [(0x300014, 77)] } }
       Reaches s 0x300014 (.pgTime true) ∧ (CpReg.pgTime true).isLo = none ∧ Tab.find s.cp.shadow 0x300014 = some 77
       ∧ (aft s (.registerPairLoRead 0x300014)).cp.rdata = 77 ∧ (aft s (.registerPairLoRead 0x300014)).cp.shadow = [])
    ∧ (let s := base.setTile 0 { tile0 with seq := .halted }
       Reaches s 0x100010C (.tile 0 (.g 1 true)) ∧ (CpReg.tile 0 (.g 1 true)).halfOf = some true
       ∧ (CpReg.tile 0 (.g 1 true)).sealGroup = none ∧ pairLocked s (.tile 0 (.g 1 true)) = false
       ∧ Tab.find (aft s (.registerPairHiWrite 0x100010C 9)).cp.heldHi 0x100010C = some 9)
    ∧ (let s := { base.setTile 0 { tile0 with seq := .halted } with cp := { CtlPort.init with heldHi := [(0x100010C, 9)] } }
       Reaches s 0x1000108 (.tile 0 (.g 1 false)) ∧ pairLocked s (.tile 0 (.g 1 false)) = false
       ∧ ((aft s (.registerPairLoWrite 0x1000108 3)).tile 0).greg 1 = 0x900000003) := by
  simp only [Reaches]
  decide +kernel

theorem test_w_SeedSetsGenerators : Reaches base (tileAddr 0 0x400) (.tile 0 .srSeed)
    ∧ (((aft base (.tlSrSeed 0 0x0101)).tile 0).lfsr.take 3) = [0x0101, 1, 0x0303] := by
  simp only [Reaches]
  decide +kernel

theorem test_w_CompatWritten : Reaches base 4 .ghCompat ∧ (aft base (.ghCompat 1)).always.profile = 1
    ∧ (aft base (.ghCompat 3)).always.profile = 2 := by
  simp only [Reaches]
  decide +kernel

/-- GH_PART_CTRL of a block whose group has used some of its budget; during boot; after it. -/
def sealed (used bootState : Nat) : State :=
  { base with always := { Always.init with used := [(0, used), (1, used), (2, used), (3, used), (4, used), (5, used), (6, used), (7, used)] }
              boot := { Boot.init with state := bootState } }

theorem test_w_SealChangesCounted : (∀ p ∈ [(2, 5), (2, 6), (3, 5), (0, 4)], let s := sealed p.1 p.2
      Reaches s 0x210 .partCtrl ∧ CpReg.partCtrl.sealGroup.isSome = true ∧ CpReg.partCtrl.halfOf = none ∧ sealIgnored .partCtrl 3 = false
      ∧ readReg (aft s (.sealChange 0x210 3)) .partCtrl = (if p.1 = 2 then 3 else readReg s .partCtrl)) := by
  simp only [Reaches]
  decide +kernel

/-- The calibration thresholds of a tile without streams. -/
theorem test_w_RegisterWrites_thresholds : ∀ p ∈ [(0x1100414, TileReg.calSatThr), (0x1100418, .calFlushThr)],
    Reaches base p.1 (.tile 1 p.2) ∧ (base.tile 1).streams = []
    ∧ readReg (aft base (.registerWrite (BitVec.ofNat 26 p.1) 0x12345678 15)) (.tile 1 p.2) = 0x12345678 := by
  simp only [Reaches]
  decide +kernel

/-! ## Reset and boot -/

/-- The block in boot: every domain ON, a state of the sequencer. -/
def boots (b : Boot) : State := { base with boot := b, pg := Pergola.init }
def b3 : Boot := { Boot.init with state := 3, running := true }

theorem test_w_ResetAndBootStart : State.reset.boot.running = false ∧ State.reset.boot.state = 0
    ∧ ((aft (State.resetOf cfg) (.bootStart true)).dom 6).state = .powering ∧ ((State.resetOf cfg).dom 6).ack = false
    ∧ GenConfig.domRouter cfg (GenConfig.root cfg) = 6
    ∧ (aft base .rstN).tiles = [] ∧ (aft base .rstN).cp.inReset = true := by decide +kernel

def hdr (magic nsect div : Nat) (flip : Word) : List Word :=
  let w : List Word := [BitVec.ofNat 32 magic, BitVec.ofNat 32 (nsect <<< 16 ||| 1), 64, BitVec.ofNat 32 div, 0, 0, 0]
  w ++ [crc32c (wordBytes w) ^^^ flip]

/-- The check value of CRC-32C over the digits 1 to 9. -/
theorem test_crc32c : crc32c [0x31, 0x32, 0x33, 0x34, 0x35, 0x36, 0x37, 0x38, 0x39] = 0xE3069283 := by decide +kernel

theorem test_w_DiscoveryAndHeader : (∀ p ∈ [(0x49464B41, 1, 2, (0 : Word), 0), (0x49464B40, 1, 2, 1, 2), (0x49464B41, 1, 2, 1, 3),
        (0x49464B41, 0, 2, 0, 4), (0x49464B41, 1, 1, 0, 4)], let ws := hdr p.1 p.2.1 p.2.2.1 p.2.2.2.1
      ws.length = 8 ∧ (headerErr cfg ws).getD 0 = p.2.2.2.2 ∧ (aft (boots b3) (.header ws)).boot.err = p.2.2.2.2)
    ∧ (boots b3).boot.running = true ∧ (boots b3).boot.hostfeed = false
    ∧ (aft (boots b3) (.header (hdr 0x49464B41 1 2 0))).boot.state = 4
    ∧ (let s := boots { b3 with state := 2 }
       bootOn s = true ∧ s.boot.state = 2 ∧ s.boot.hostfeed = false
       ∧ (aft s (.discovery ⟨0x50444652, []⟩)).boot.nosfdp = true ∧ (aft s (.discovery ⟨0x50444653, []⟩)).boot.nosfdp = false)
    ∧ bootOn (boots b3) = true ∧ imageHeaderBad cfg (hdr 0x49464B41 1 2 0) = false
    ∧ (∀ st ∈ [0, 1], (aft (boots { b3 with state := st }) .bootTimeout).boot.err = if st = 0 then 1 else 9)
    ∧ (let s := boots { b3 with hostfeed := true, feed := [1, 2, 3, 4, 5, 6, 7] }
       Reaches s 0x108 .bootFeed ∧ s.boot.entries = [] ∧ s.boot.feed.length < 8 ∧ s.boot.held = []
       ∧ (aft s (.ghBootFeed 9)).boot.feed.length = 8)
    ∧ (∀ p ∈ [(2, true, true), (3, false, true), (3, true, false)], let s := boots { b3 with state := p.1, hostfeed := p.2.1, running := p.2.2 }
       Reaches s 0x108 .bootFeed ∧ (aft s (.ghBootFeed 9)).boot.held = if p.1 = 2 then [9] else []) := by
  simp only [Reaches]
  decide +kernel

/-- A section with its checksum, or with that spoiled. -/
def sec (ty target : Nat) (body : List Word) (flip : Word) : List Word :=
  let h : List Word := [BitVec.ofNat 32 (ty ||| target <<< 8), BitVec.ofNat 32 (4 * body.length), 0]
  h ++ [crc32c (wordBytes (h ++ body)) ^^^ flip] ++ body
def b4 (n : Nat) (total : Nat) : Boot := { Boot.init with state := 4, running := true, nsect := n, next := 32, total := total }

/-- REGS, PROG of instruction 1,023, DESC of each table's last entry, CTX of the last entry, SEAL, and START of both tiles. -/
def secs : List (Nat × Nat × List Word) :=
  [(1, 0, [0x00100804, 5]), (2, 1, 0x3FF :: List.replicate 16 7), (3, 1, 0x000000FF :: List.replicate 32 7),
    (3, 1, 0x0100007F :: List.replicate 16 7), (3, 1, [0x02000FFF, 7]), (4, 0, [0x3FFF, 0xFFFFFFFF]), (5, 0, [0x210, 3])]

theorem test_w_SectionsApplied : (∀ p ∈ secs, let s := boots (b4 2 1000)
      let ws := sec p.1 p.2.1 p.2.2 0
      sectionDue s = true ∧ s.boot.hostfeed = false ∧ s.boot.held = [] ∧ 4 ≤ ws.length ∧ secWhole ws = true ∧ sectionErr s ws = none ∧ secType ws = p.1)
    ∧ (let ws := sec 15 0 [3, 9, 0x3FF] 0
       sectionErr (boots (b4 1 60)) ws = none ∧ secType ws = 15 ∧ coreRuns (boots (b4 1 60)) 0 = true
       ∧ ((boots (b4 1 60)).tile 0).seq ≠ .running ∧ (runTiles (wordAt (secBody ws) 0)) = [0, 1]) := by decide +kernel

theorem test_sections : (let s := boots (b4 2 1000)
    (aft s (.regs (sec 1 0 [0x00100804, 5] 0))).boot.entries.map (fun e => (e.addr, e.value)) = [(0x100804, 5)]
    ∧ Tab.get ((aft s (.progSection (sec 2 1 (0x3FF :: List.replicate 16 7) 0))).tile 1).imem 0 16383 = 7
    ∧ Tab.get ((aft s (.desc (sec 3 1 (0x000000FF :: List.replicate 32 7) 0))).tile 1).tdt 0 8191 = 7
    ∧ Tab.get (aft s (.ctx (sec 4 0 [0x3FFF, 0xFFFFFFFF] 0))).lodge.ctx 0 0x3FFF = 0xC0003FFF
    ∧ (aft s (.seal (sec 5 0 [0x210, 3] 0))).boot.entries.length = 1) := by decide +kernel
theorem test_start : (let u := aft (boots (b4 1 60)) (.start (sec 15 0 [3, 9, 0x3FF] 0))
    ((u.tile 0).pc, (u.tile 1).pc, u.boot.state, u.always.sealLog.length)) = (9, 0x3FF, 5, 8) := by decide +kernel
/-- A seal section with an entry that is no sealed register fails with SEAL (R376). -/
theorem test_seal_bad : (aft (boots (b4 2 1000)) (.seal (sec 5 0 [0x00100804, 3] 0))).boot.err = 11
    ∧ (listEntries 48 [0x00100804, 3]).any (fun e => !sealEntryOk cfg e) = true := by decide +kernel

theorem test_w_BadSectionFails : (∀ p ∈ secs ++ [(15, 0, [3, 9, 0x3FF])], let s := boots (b4 2 1000)
      let ws := sec p.1 p.2.1 p.2.2 1
      sectionDue s = true ∧ 4 ≤ ws.length ∧ secWhole ws = true ∧ lenBad ws = false ∧ scrcBad ws = true ∧ secType ws = p.1)
    ∧ (aft (boots (b4 2 1000)) (.ctx (sec 4 0 [0x3FFF, 0xFFFFFFFF] 1))).boot.err = 5 := by decide +kernel

/-- An entry of a list, with another behind it. -/
def entries (kind a : Nat) (v : Word) : State :=
  boots { b4 2 1000 with entries := [{ w0 := BitVec.ofNat 32 (kind <<< 30 ||| a), value := v, offset := 48 }, { w0 := 0, value := 0, offset := 56 }] }

theorem test_w_EntriesApplied : (∀ p ∈ [(0, 0x100804), (1, 0x100804), (2, 0x100804), (3, 0)], bootOn (entries p.1 p.2 5) = true
      ∧ (entries p.1 p.2 5).boot.entries.map (·.kind) = [p.1, 0] ∧ 1 < (entries p.1 p.2 5).boot.state)
    ∧ (cpWrite (entries 0 0x100804 5) 0x100804 5 15 true).2 = false
    ∧ (cpWrite (entries 0 0x100804 5) 0x100804 5 15 true).1.boot = (entries 0 0x100804 5).boot ∧ (cpRead (entries 1 0x100804 5) 0x100804).2 = (0x001400C8, false)
    ∧ regAt cfg 0x2000000 = none
    ∧ (aft (entries 0 0x100804 5) .write).cpc.pwrTo = 5 ∧ (aft (entries 0 0x2000000 5) .write).boot.err = 7
    ∧ (aft (entries 1 0x100804 0x48) .pollset).boot.entries.length = 1 ∧ (aft (entries 1 0x100804 0x4A) .pollset).boot.entries.length = 2
    ∧ (aft (entries 2 0x100804 0x37) .pollclr).boot.entries.length = 1 ∧ (aft (entries 2 0x100804 0x3F) .pollclr).boot.entries.length = 2
    ∧ (aft (entries 1 0x100804 0x4A) .bootTimeout).boot.err = 8 ∧ (aft (entries 3 0 5) .delay).boot.entries.length = 1 := by
  decide +kernel

/-- A word of the feed in the header; one that waits behind an entry, which holds a write and a read; the entry ends (R368). -/
theorem test_w_FeedHolds : (let s := boots { b3 with hostfeed := true }
      Reaches s 0x108 .bootFeed ∧ s.boot.hostfeed = true ∧ s.boot.running = true ∧ s.boot.state = 3 ∧ s.boot.entries = [] ∧ s.boot.held = []
      ∧ (aft s (.ghBootFeed 9)).boot.feed = [9] ∧ (aft s (.ghBootFeed 9)).cp.busy = false)
    ∧ (let s := boots { b4 2 1000 with hostfeed := true, entries := [{ w0 := 0xC0000000, value := 5, offset := 48 }] }
       Reaches s 0x108 .bootFeed ∧ bootOn s = true ∧ s.boot.state = 4 ∧ s.boot.entries.map (·.kind) = [3] ∧ s.boot.feed = []
       ∧ (let u := aft s (.ghBootFeed 9)
          (u.boot.held, u.cp.busy) = ([9], true) ∧ u.cp.waiting = []
          ∧ (aft (aft u (.registerWrite 0x100804 1 15)) (.registerPairLoRead 0x300010)).cp.waiting = [.write 0x100804 1 15, .read 0x300010]
          ∧ (let v := aft u .delay
             (v.boot.entries.length, v.boot.feed, v.boot.held, v.cp.busy) = (0, [9], [], false))
          ∧ (aft (aft u (.registerWrite 0x100804 1 15)) .delay).cpc.pwrTo = 1))
    ∧ (∀ p ∈ [(false, true), (true, false)], let s := boots { b3 with hostfeed := p.1, running := p.2 }
       Reaches s 0x108 .bootFeed ∧ s.boot.held = [] ∧ aft s (.ghBootFeed 9) = answered s) := by
  simp only [Reaches]
  decide +kernel

/-! ## Clocks -/

def noTime : State := pgs (fun p => { p with valid := false })
/-- Domain `d` in a state and phase, the others ON but those of `off`. -/
def domS (d : Nat) (x : Dom) (off : List Nat) : State :=
  { base with cpc := { Cpc.init with doms := (List.range 17).map (fun e => (e, if e = d then x else if off.contains e then Dom.init else onDom)) } }
def busyPll (p : Nat) : State := { base with cpc := { base.cpc with plls := [(p, { Pll.init p with busy := true })] } }

theorem test_w_PllsLock : (∀ p ∈ [0, 1, 2], Reaches noTime (0x10000C + 32 * p) (.pllCtrl p) ∧ p < 2 + GenConfig.leaves noTime.gen
      ∧ noTime.pg.valid = false ∧ pllOff noTime p = false ∧ muxStuck noTime p = false ∧ muxStuck (busyPll p) p = false
      ∧ ((aft noTime (.go p 0)).pll p).busy = true ∧ (aft noTime (.go p 0)).pg.running = decide (p ≠ 1)
      ∧ ((busyPll p).pll p).busy = true ∧ ((aft (busyPll p) (.pllLock p)).pll p).lock = true
      ∧ ((aft (busyPll p) (.lockfail p)).pll p).lockfail = true ∧ (base.pll p).busy = false)
    ∧ Reaches base 0x10002C (.pllCtrl 1) ∧ base.pg.valid = true ∧ ((aft base (.go 1 0)).pll 1).busy = false
    ∧ (let s := domS 7 Dom.init []
       Reaches s 0x10004C (.pllCtrl 2) ∧ pllOff s 2 = true ∧ ((aft s (.go 2 0)).pll 2).busy = false)
    ∧ (let s := { base with cpc := { base.cpc with stopped := [8] } }
       Reaches s 0x10004C (.pllCtrl 2) ∧ muxStuck s 2 = true ∧ pllOff s 2 = false ∧ ((aft s (.go 2 0)).pll 2).busy = true
       ∧ aft s (.pllLock 2) = s) := by
  simp only [Reaches]
  decide +kernel

/-- Monitor 2, enabled for 50 to 60. -/
def mon (zero : List Nat) (en : Nat) : State :=
  { base with cpc := { base.cpc with monRange := [(2, BitVec.ofNat 32 (en <<< 31 ||| 60 <<< 8 ||| 50))], monZero := zero } }

theorem test_w_MonitorsReport : monRange (mon [] 1) 2 = 0x80003C32 ∧ monSuspended (mon [] 1) 2 = false
    ∧ bit (monRange (mon [] 0) 2) 31 = false ∧ (aft (mon [2, 3] 0) (.monitorWindow 2 0)).cpc.monZero = [3]
    ∧ ([49, 50, 60, 61].map (fun c => (aft (mon [] 1) (.monitorWindow 2 c)).cpc.monStatus)) = [0x40000, 0, 0, 0x40000]
    ∧ bit (aft (mon [2] 1) (.monitorWindow 2 0)).cpc.monStatus 2 = true := by decide +kernel

/-! ## Power domains -/

/-- UP of the codec lane 2 with the core 0 up and down; DOWN of it, and of the core; RETAIN of scratchpad 1; RESET. -/
theorem test_w_PowerCommandsTaken :
    (∀ off ∈ [[], [0]], let s := domS 2 Dom.init off
      Reaches s 0x100800 .pwrCmd ∧ s.cpc.cmdBusy = false ∧ (s.dom 2).state = .off ∧ (s.dom 2).ack = false ∧ needsOf s.gen 2 = [0]
      ∧ s.isOn 0 = decide (off = [])
      ∧ ((aft s (.up 2)).dom 2).state = (if off = [] then .powering else .off)
      ∧ (aft s (.up 2)).cpc.cmdResult = (if off = [] then 0 else 1))
    ∧ (let s := domS 2 { Dom.init with ack := true } []
       (s.dom 2).state = .off ∧ (s.dom 2).ack = true ∧ (∀ e ∈ needsOf s.gen 2, s.isOn e = true)
       ∧ ((aft s (.up 2)).dom 2).phase = .ackLow)
    ∧ (let s := domS 2 onDom []
       (s.dom 2).state = .on ∧ dependents s.gen 2 = [] ∧ hasParked s 2 = false ∧ (2 : Nat) ≠ GenConfig.domFixed s.gen 6
       ∧ ((aft s (.down 2)).dom 2).state = .quiescing ∧ dependents s.gen 0 = [2] ∧ (s.dom 2).state.down = false
       ∧ (aft s (.down 0)).cpc.cmdResult = 1 ∧ bit s.always.rstauth 0 = true ∧ ((aft s (.reset 2)).dom 2).state = .reset
       ∧ spadOf s 2 = none ∧ (aft s (.retain 2)).cpc.cmdResult = 6)
    ∧ (let s := domS 1 onDom [0, 2]
       (s.dom 1).state = .on ∧ spadOf s 1 = some 0 ∧ (∀ e ∈ dependents s.gen 1, (s.dom e).state = .off) ∧ hasParked s 1 = false
       ∧ ((aft s (.retain 1)).dom 1).toRet = true)
    ∧ (let s := { domS 2 onDom [] with always := { Always.init with rstauth := 6 } }
       bit s.always.rstauth 0 = false ∧ (aft s (.reset 2)).cpc.cmdResult = 5)
    ∧ (let s := { base with cpc := { base.cpc with cmdBusy := true } }
       Reaches s 0x100800 .pwrCmd ∧ aft s (.down 2) = answered s) := by
  simp only [Reaches]
  decide +kernel

def downing (ph : DomPhase) (ret : Bool) : Dom :=
  { onDom with state := if ph = .drain then .quiescing else .quiesced, phase := ph, toRet := ret }
/-- Scratchpad 1 going down, with a byte, while a stream adds into it or a flit is on its way to it. -/
def fall (ph : DomPhase) (ret inUse flit : Bool) : State :=
  let s := domS 1 (downing ph ret) [0, 2]
  { s with
    spad := { Spad.init with mem := [(1024, 9)], acc := if inUse then [acc 1] else [] }
    prom := { s.prom with net := if flit then [msgTo (.tile 0) (.tile 0) .request (.rd rq)] else [] }
    cpc := { s.cpc with cmdBusy := true, cmdDom := 1 } }

theorem test_w_DomainsGoDown : (∀ u ∈ [true, false], ((fall .drain false u false).dom 1).phase = .drain
      ∧ drained (fall .drain false u false) 1 = !u ∧ clockDead (fall .drain false u false) 1 = false
      ∧ ((aft (fall .drain false u false) (.quiesceAck 1)).dom 1).state = (if u then .quiescing else .quiesced)
      ∧ ((aft (fall .drain false u false) (.quiesceTimeout 1)).cpc.cmdResult) = 3)
    ∧ (∀ f ∈ [true, false], ((fall .confirm true false f).dom 1).phase = .confirm ∧ flitsLeft (fall .confirm true false f) 1 = f
      ∧ ((aft (fall .confirm true false f) (.routerConfirmation 1)).dom 1).iso = !f)
    ∧ ∀ r ∈ [true, false], let s := fall .ackLow r false false
      (s.dom 1).phase = .ackLow ∧ (s.dom 1).thenUp = false ∧ s.cpc.cmdWaits = false ∧ s.cp.inReset = false ∧ (s.dom 1).toRet = r ∧ spadOf s 1 = some 0
      ∧ ((aft s (.pwAck 1 false)).dom 1).state = (if r then .retention else .off)
      ∧ memByte (aft s (.pwAck 1 false)).spad.mem 1024 = if r then 9 else 0 := by decide +kernel

def rise (d : Nat) (st : DomState) (ph : DomPhase) : State :=
  let s := domS d { Dom.init with state := st, req := true, phase := ph } []
  { s with cpc := { s.cpc with cmdBusy := true, cmdDom := BitVec.ofNat 8 d } }

theorem test_w_DomainsComeUp : (∀ p ∈ [(2, DomState.powering, DomPhase.ackHigh), (7, .powering, .ackHigh), (2, .quiesced, .ackLow),
        (2, .powering, .release), (2, .reset, .inReset), (2, .on, .idle)], let s := rise p.1 p.2.1 p.2.2
      s.boot.running = false ∧ s.cpc.cmdWaits = false ∧ s.cp.inReset = false ∧ (s.dom p.1).phase = p.2.2 ∧ s.cpc.cmdBusy = true ∧ s.cpc.cmdDom.toNat = p.1)
    ∧ GenConfig.domUnit cfg 7 = some (.pll 0) ∧ GenConfig.domUnit cfg 2 = some (.bxz 0)
    ∧ ((aft (rise 2 .powering .ackHigh) (.pwAck 2 true)).dom 2).phase = .release
    ∧ ((aft (rise 7 .powering .ackHigh) (.pwAck 7 true)).dom 7).phase = .lock
    ∧ (aft (rise 2 .powering .ackHigh) (.ackTimeout 2)).cpc.cmdResult = 4
    ∧ ((aft (rise 2 .powering .release) (.isolationRelease 2)).dom 2).state = .on
    ∧ ((aft (rise 2 .reset .inReset) (.resetRelease 2)).dom 2).state = .on := by decide +kernel

/-! ## The keeper -/

theorem test_w_LockstepFaults : coreRuns (runs lfence) 0 = true ∧ keeperRuns (runs lfence) = true ∧ ((runs lfence).tile 0).xheld = []
    ∧ (let u := aft (runs lfence) (.lockstepMismatch 0 0 none)
       ((u.tile 0).seq, (u.tile 0).greg 1, u.keeper.unrec)) = (.faulted, 0, 1) := by decide +kernel

def linkMsg : Msg := { msgTo (.tile 0) (.tile 1) .request (.rd rq) with route := [.tileOut 0, .pavOut 0 (.tile 1)] }
def links (k : Nat) : State := { base with prom := { Prom.init with net := [linkMsg], linkFails := if k = 0 then [] else [(.tileOut 0, k)] } }

theorem test_w_LinksResend : (∀ k ∈ [0, 6, 7], linkRouter (links k) (.tileOut 0) = some 0 ∧ linkUp (links k) (.tileOut 0) = true
      ∧ linkMsg ∈ (links k).prom.net ∧ linkMsg.route.head? = some (.tileOut 0) ∧ failsAt (links k) (.tileOut 0) = k)
    ∧ failsAt (aft (links 6) (.linkResend (.tileOut 0) false)) (.tileOut 0) = 7
    ∧ failsAt (aft (links 6) (.linkResend (.tileOut 0) true)) (.tileOut 0) = 0
    ∧ (aft (links 7) (.linkResend (.tileOut 0) false)).prom.failed = [.tileOut 0]
    ∧ (aft (links 7) (.linkResend (.tileOut 0) false)).prom.net = [] := by decide +kernel

theorem test_w_ScrubberFinds : base.keeper.scrubEn = true ∧ keeperRuns base = true
    ∧ base.active (sliceDom base 16383) = true ∧ base.active (GenConfig.domSpad base.gen 1) = true
    ∧ pointCands base (bankOf base (1 * slotBytes + 8 * 3)) = []
    ∧ (let s := sent base { msgTo (.tile 0) (.tile 1) .request (.rd { rq with off := some slotBytes }) with route := [bankOf base slotBytes] }
       s.keeper.scrubEn = true ∧ keeperRuns s = true ∧ pointCands s (bankOf s (1 * slotBytes + 8 * 3)) ≠ []
       ∧ aft s (.scrubAccess (.spad 1 3) .bad) = s)
    ∧ (aft base (.scrubAccess (.counter 16383) .bad)).lodge.poison = [16383]
    ∧ (aft base (.scrubAccess (.spad 1 3) .bad)).spad.poison = [524291]
    ∧ (aft base (.scrubAccess .passEnd .clean)).keeper.scrubPasses = 1 ∧ (aft base .scrublate).keeper.scrublate = true := by
  decide +kernel

/-- Watchdog 4 on stream 0 of tile 0, ACTION 0, or on system port 0 with ACTION 2. -/
def wdS (cfgW : Nat) (count : Nat) (seen : List Nat) (s : State) : State :=
  { s with keeper := { Keeper.init with wds := [(4, { Wd.init with cfg := BitVec.ofNat 32 cfgW, timeout := 100, count := count, seen := seen })] } }
def stuck (count : Nat) (seen : Bool) : State := wdS 0x80000000 count (if seen then [1, 0, 1, 1, 0] else []) (holds running)

theorem test_w_WatchdogsFire : (∀ n ∈ [99, 100], let s := stuck n true
      let w := s.wd 4
      keeperRuns s = true ∧ w.en = true ∧ w.latched = false ∧ w.seen = progressOf s w ∧ counts s w = true ∧ w.action = 0 ∧ w.us = 100
      ∧ w.count = n ∧ ((aft s (.watchdog 4)).wd 4).fired = decide (n = 100))
    ∧ ((aft (stuck 98 true) .watchdogTick).wd 4).count = 99
    ∧ (let s := stuck 98 false
       (s.wd 4).seen ≠ progressOf s (s.wd 4) ∧ ((aft s .watchdogTick).wd 4).count ≤ 1)
    ∧ (let s := wdS 0 98 [] (holds running)
       (s.wd 4).en = false)
    ∧ (let s := wdS 0xD0000000 100 [0] (tagged (tag (.rd rqs) false false))
       let w := s.wd 4
       w.en = true ∧ w.action = 2 ∧ w.kind = 2 ∧ w.latched = false ∧ counts s w = true ∧ w.seen = progressOf s w ∧ w.us ≤ w.count
       ∧ w.target < GenConfig.sysPorts s.gen ∧ bit s.always.rstauth 2 = true ∧ (s.dom (GenConfig.domPort s.gen w.target)).state = .on
       ∧ ((aft s (.watchdog 4)).dom 8).state = .reset) := by decide +kernel

theorem test_w_FaultLogReads : let s := { base with keeper := { Keeper.init with log := [(63, { ws := [0x80000001], read := false })] } }
    Reaches s 0x2017E0 (.kpLog 63 0) ∧ Tab.find s.cp.shadow 0x2017E0 = none
    ∧ (aft s (.faultLogRead 63)).cp.rdata = 0x80000001 ∧ (Tab.get (aft s (.faultLogRead 63)).keeper.log LogEntry.init 63).read = true := by
  simp only [Reaches]
  decide +kernel

/-- An error in an instruction word and in a descriptor word: kept until the word is written. -/
theorem test_w_ScrubberFinds_kept : base.active (GenConfig.domCore base.gen 1) = true
    ∧ (∀ l ∈ [ScrubLoc.imem 1 3, .tdt 1 4095], ((aft base (.scrubAccess l .bad)).tile 1).badWords = [l]) := by decide +kernel

/-- The fault log's entry 64 is entry 0 (R431); a fourth change of a seal group is refused (R378); a full input queue. -/
theorem test_w_StepKeepsBounds : (let s := { base with keeper := { base.keeper with next := 63, count := 64 } }
      let u := aft s (.lockstepMismatch 0 0 none)
      (u.keeper.next, u.keeper.count) = (0, 64))
    ∧ (let u := aft (sealed 3 5) (.sealChange 0x210 3)
       Tab.get u.always.used 0 0 = 3)
    ∧ seatsTaken (aft (readyS 4) (.dispatch 5)) 1 1 = 4 ∧ seatsTaken (aft (readyS 3) (.dispatch 5)) 1 1 = 4 := by decide +kernel

theorem test_w_StepKeepsBounds_premise : Bounded { base with pending := [.tbTick] } ∧ ∃ u, step { base with pending := [.tbTick] } = .next u :=
  ⟨⟨by decide, by decide, fun g => by simp [base, State.resetOf, Always.init, Tab.get], fun t k => by
    simp [seatsTaken, base, State.resetOf, Gate.init]⟩, _, rfl⟩

/-! ## The queue -/

/-- The command at the front runs; the next stays. -/
theorem test_step_runs_front : (match step { base with pending := [.tbTick, .rstN] } with
    | .next u => (u.pg.time, u.pending)
    | _ => (0, [])) = (1004, [.rstN]) := by decide +kernel

/-! ## The specification's examples -/

/-- Words 0 and 1 of an instruction, from its bytes 0–7 (02, example of a timed MOVE). -/
def timedMove : Line := BitVec.ofNat 512 (0x0332B501 + 0x8503 <<< 32 + 0xF00 <<< 64 + 0x10007 <<< 128 + 0xA4 <<< 160
  + 0x21110 <<< 192 + 0x900 <<< 224)

theorem test_example_move_fields : (rowOf timedMove = .move ∧ iPrio timedMove = 5 ∧ iDep timedMove = true ∧ iSigmode timedMove = 1
      ∧ iLaunch timedMove = 1 ∧ iScope timedMove = 1 ∧ iLreg timedMove = 6 ∧ iCtx timedMove = 3)
    ∧ (iDid timedMove 0, iDreg timedMove 0, iDv timedMove 0, iDv timedMove 1) = (3, 5, true, false)
    ∧ (iLtime timedMove, iSiginc timedMove, iSigid timedMove, iTag timedMove) = (3840, 1, 7, 0xA4)
    ∧ (iOpd timedMove, iDstTd timedMove, iSrcTd timedMove, iDstBreg timedMove, iSrcBreg timedMove) = (2, 0x11, 0x10, 9, 0) := by
  decide +kernel

/-- A descriptor of up to three dimensions from its doublewords. -/
def tdOf (w0 w1 d0 d1 d2 : Nat) : Td := BitVec.ofNat 1024 (w0 + w1 <<< 64 + d0 <<< 128 + d1 <<< 192 + d2 <<< 256)

/-- 17, fronthaul uplink: the nominal duration, with the descriptors as that chapter writes them. -/
def uplink : IssueCtx :=
  { src := tdOf 0x4100000010 0x158 0x480 0x1000000020 0
    dst := tdOf 0xFFFFFFFFF9480000 0x220 0x1000480 0x480000002 0x900000020
    scale := tdOf 0xFFFFFFFFF94A0000 7 0x4000900 0 0, side := 0
    od := BitVec.ofNat 512 (0x04008700 + 0x22 <<< 320), ruse := false, wuse := false
    rdBase := 0x4100000010, wrBase := 0xFFFFFFFFF9480000, slice := 8192 }

theorem test_example_uplink : dNom State.reset 5 uplink (.orb 9) (.mxf fE4M3) = 2612
    ∧ (fmtOf (tdFmt uplink.src), fmtOf (tdFmt uplink.dst)) = (some (.orb 9), some (.mxf fE4M3))
    ∧ (tdN uplink.src, tdN uplink.dst) = (36864, 73728) := by decide +kernel

theorem test_example_registers : (regAt State.reset.gen 0x050480C, regAt State.reset.gen 0x0600038, regAt State.reset.gen 0x20F80) =
    (some (.ldCfg 0x480), some (.bsCfg 7), some (.park 62 0)) := by decide +kernel

/-- 05: PRB 0 of the uplink symbol, its first sample, and the MXE4M3 elements and scale of 2,640 and 32. -/
theorem test_example_prb : (prbDecode (.orb 9) ([0x04, 0x52, 0xFC] ++ List.replicate 25 0)).1.head? = some 0xFF000A50
    ∧ mxAuto (.mxf fE4M3) [intVal 2640, intVal 32] = 0x82
    ∧ (castMxAuto (.mxf fE4M3) 0x82 (intVal 2640) 0 0).code = 0x7A ∧ (castMxAuto (.mxf fE4M3) 0x82 (intVal 32) 0 0).code = 0x48 := by
  decide +kernel

/-- 07: block 5 of the channel-estimator layer, with its escapes. -/
def exVal (k : Nat) : Int :=
  if k = 0 then 100 else if k = 1 then -40 else if k = 2 then 7 else if k = 9 then 300 else if k = 20 then -200
  else if k = 30 then 250 else 0
def exBlock : BxEnc := bxEncode ((List.range 64).map (fun k => (intVal (exVal k), 0))) 3 36 5 3 2048 2 0 true false

theorem test_example_block : exBlock.bytes.take 10 = [0x43, 0x22, 0, 5, 0, 3, 0, 0x3B, 0xE6, 0]
    ∧ exBlock.bytes[23]? = some 7 ∧ exBlock.bytes.length = 40
    ∧ exBlock.ents = [0x4396000000000149, 0xC348000000000154] ∧ ((exBlock.evs.map (·.1)).sum, (exBlock.evs.map (·.2)).sum) = (1, 1) := by decide +kernel

theorem test_example_block_back : (bxDecode exBlock.bytes 5 exBlock.ents).take 3 = [0x42C00000, 0xC2000000, 0]
    ∧ (bxDecode exBlock.bytes 5 exBlock.ents)[20]? = some 0xC3480000
    ∧ (bxDecode exBlock.bytes 5 exBlock.ents)[30]? = some 0x42E00000 := by decide +kernel

end Sys2Proof.Tests
end

section
/-! SUPPORT. Fields of a word whose bits, or bytes, are put there one by one. -/

namespace Sys2Proof.Proofs

open Sys2Proof Sys2Proof.Machine

/-! ## Bits -/

/-- The one bit of a word that is a Boolean put at place `i`. -/
theorem bit_ofNat_toNat_shiftLeft (n i j : Nat) (b : Bool) :
    bit (BitVec.ofNat n (b.toNat <<< i)) j = (decide (j < n) && (decide (j = i) && b)) := by
  rw [bit, BitVec.getLsbD_ofNat, Nat.testBit_shiftLeft]
  by_cases h : j = i
  · subst h
    have hb : decide (b.toNat % 2 = 1) = b := by cases b <;> rfl
    simp [hb]
  · by_cases hij : i ≤ j
    · have hlt : b.toNat < 2 ^ (j - i) := lt_of_lt_of_le (Bool.toNat_lt b) (Nat.le_self_pow (by omega) 2)
      simp [h, Nat.testBit_lt_two_pow hlt]
    · simp [h, hij]

theorem bit_putBit {n : Nat} (w : BitVec n) {i : Nat} (hi : i < n) (b : Bool) (j : Nat) :
    bit (putBit w i b) j = if j = i then b else bit w j := by
  have hm : (2 ^ (i + 1 - i) - 1) <<< i = true.toNat <<< i := by rw [Nat.add_sub_cancel_left]; rfl
  have hput : bit (putBit w i b) j = (bit w j && !bit (BitVec.ofNat n (true.toNat <<< i)) j && decide (j < n)
      || bit (BitVec.ofNat n (b.toNat <<< i)) j && bit (BitVec.ofNat n (true.toNat <<< i)) j) := by
    simp only [putBit, putFld, hm, bit, BitVec.getLsbD_or, BitVec.getLsbD_and, BitVec.getLsbD_not]
    cases decide (j < n) <;> simp
  rw [hput]
  simp only [bit_ofNat_toNat_shiftLeft]
  by_cases hj : j = i
  · subst hj
    simp [hi]
  · by_cases hn : j < n
    · simp [hj, hn]
    · simp [hj, hn, bit, BitVec.getLsbD_of_ge w j (Nat.le_of_not_lt hn)]

theorem testBit_fld {n : Nat} (w : BitVec n) (hi lo j : Nat) :
    (fld w hi lo).testBit j = (decide (j < hi + 1 - lo) && bit w (lo + j)) := by
  simp [fld, bit, BitVec.getLsbD, Nat.testBit_mod_two_pow, Nat.testBit_shiftRight]

/-- A field does not see a bit that is put outside it. -/
theorem fld_putBit {n : Nat} (w : BitVec n) {i : Nat} (hi : i < n) (b : Bool) {h l : Nat} (ho : i < l ∨ h < i) :
    fld (putBit w i b) h l = fld w h l := by
  refine Nat.eq_of_testBit_eq fun j => ?_
  simp only [testBit_fld, bit_putBit w hi]
  by_cases hj : j < h + 1 - l
  · have hne : l + j ≠ i := by omega
    simp [hne]
  · simp [hj]

theorem ofNat_fld {n : Nat} (w : BitVec n) (hi lo : Nat) :
    BitVec.ofNat (hi + 1 - lo) (fld w hi lo) = w.extractLsb' lo (hi + 1 - lo) := by
  refine BitVec.eq_of_toNat_eq ?_
  simp [fld]

/-! ## Bytes -/

theorem fld_or {n : Nat} (v w : BitVec n) (hi lo : Nat) : fld (v ||| w) hi lo = fld v hi lo ||| fld w hi lo := by
  simp only [fld, BitVec.toNat_or, Nat.shiftRight_or_distrib, Nat.or_mod_two_pow]

theorem fld_byte_lt {n : Nat} (w : BitVec n) (b : Nat) : fld w (8 * b + 7) (8 * b) < 256 := by
  have e : 8 * b + 7 + 1 - 8 * b = 8 := by omega
  rw [fld, e]
  exact Nat.mod_lt _ (by decide)

/-- Byte `b` of a word that has one byte only, at place `i`. -/
theorem fld_atN_byte {v i b : Nat} (hv : v < 256) (hb : b < 4) :
    fld (atN v (8 * i)) (8 * b + 7) (8 * b) = if b = i then v else 0 := by
  have hbig : ∀ k, 8 ≤ k → v.testBit k = false := fun k hk =>
    Nat.testBit_lt_two_pow (lt_of_lt_of_le hv (Nat.pow_le_pow_right (n := 2) (by decide) hk))
  refine Nat.eq_of_testBit_eq fun j => ?_
  have hw : bit (atN v (8 * i)) (8 * b + j)
      = (decide (8 * b + j < 32) && (decide (8 * i ≤ 8 * b + j) && v.testBit (8 * b + j - 8 * i))) := by
    rw [bit, atN, BitVec.getLsbD_ofNat, Nat.testBit_shiftLeft]
  rw [testBit_fld, hw]
  rcases lt_trichotomy b i with h | rfl | h
  · by_cases hj : j < 8
    · have : ¬ 8 * i ≤ 8 * b + j := by omega
      simp [h.ne, this]
    · have : ¬ j < 8 * b + 7 + 1 - 8 * b := by omega
      simp [h.ne, this]
  · by_cases hj : j < 8
    · have h1 : j < 8 * b + 7 + 1 - 8 * b := by omega
      have h2 : 8 * b + j < 32 := by omega
      simp [h1, h2]
    · simp [hbig j (by omega)]
  · simp [h.ne', hbig (8 * b + j - 8 * i) (by omega)]

/-- A write under a strobe takes the bytes that the strobe selects, and keeps the others. -/
theorem fld_mergeStrb (old d : Word) (strb : BitVec 4) {b : Nat} (hb : b < 4) :
    fld (mergeStrb old d strb) (8 * b + 7) (8 * b)
      = if bit strb b then fld d (8 * b + 7) (8 * b) else fld old (8 * b + 7) (8 * b) := by
  have hlt : ∀ i, (if bit strb i then fld d (8 * i + 7) (8 * i) else fld old (8 * i + 7) (8 * i)) < 256 := by
    intro i
    split
    · exact fld_byte_lt d i
    · exact fld_byte_lt old i
  have h0 := fld_atN_byte (i := 0) (hlt 0) hb
  have h1 := fld_atN_byte (i := 1) (hlt 1) hb
  have h2 := fld_atN_byte (i := 2) (hlt 2) hb
  have h3 := fld_atN_byte (i := 3) (hlt 3) hb
  simp only [mergeStrb, fld_or]
  rw [h0, h1, h2, h3]
  interval_cases b <;> simp

theorem wordWritten_set (m : Tab Word) (w : Nat) (d : Word) (strb : BitVec 4) :
    WordWritten m (Tab.set m 0 w (mergeStrb (Tab.get m 0 w) d strb)) w d strb := by
  refine ⟨fun k hk => Tab.get_set_of_ne m 0 _ hk, fun b hb => ?_⟩
  rw [Tab.get_set_self]
  exact fld_mergeStrb _ d strb hb

end Sys2Proof.Proofs
end

section
/-! SUPPORT. What a write on the control port does to the tile whose register it reaches. -/

namespace Sys2Proof.Proofs

open Sys2Proof Sys2Proof.Machine

/-! ## Replacing a tile -/

@[simp] theorem tile_answered (s : State) (t : Nat) : (answered s).tile t = s.tile t := rfl

theorem onlyTile_setTile (s : State) (t : Nat) (x : Tile) : OnlyTile s (s.setTile t x) t :=
  ⟨rfl, fun j hj => by simp [hj]⟩

theorem onlyTile_trans {s u v : State} {t : Nat} (h : OnlyTile s u t) (g : OnlyTile u v t) : OnlyTile s v t := by
  obtain ⟨hu, hj⟩ := h
  obtain ⟨hv, hk⟩ := g
  refine ⟨?_, fun j hne => (hk j hne).trans (hj j hne)⟩
  rw [hu] at hv
  exact hv

@[simp] theorem tile_dropHi (s : State) (a t : Nat) : (dropHi s a).tile t = s.tile t := rfl

/-- A write of a general register leaves every other field of the tile. -/
theorem setG_eq (x : Tile) (n : Nat) (v : DWord) : x.setG n v = { x with g := (x.setG n v).g } := by
  unfold Tile.setG
  split <;> rfl

/-! ## The way of a write to its register (R352, R353) -/

theorem regAt_feedAddr (c : GenConfig) : regAt c feedAddr = some .bootFeed := rfl

theorem ne_feedAddr_of_reaches_tile {s : State} {a t : Nat} {r : TileReg} (h : Reaches s a (.tile t r)) : a ≠ feedAddr := by
  obtain ⟨-, -, hat, -⟩ := h
  rintro rfl
  simp [regAt_feedAddr] at hat

/-- A write that its register performs without an error answers, and does no more than the register's own effect. -/
theorem hostWrite_of_reaches {s u : State} {a t : Nat} {r : TileReg} {d : Word} {strb : BitVec 4}
    (h : Reaches s a (.tile t r)) (hw : regWrite s a (.tile t r) d strb false = (u, false)) :
    hostWrite s a d strb = answered u := by
  have hne := ne_feedAddr_of_reaches_tile h
  obtain ⟨hreset, hbusy, hat, hreach⟩ := h
  simp [hostWrite, cpWrite, hreset, hbusy, hat, hreach, hw, hne, answered]

/-! ## The tile memories -/

theorem hostWrite_tileMem {s : State} {a t : Nat} {r : TileReg} {d : Word} {strb : BitVec 4}
    (h : Reaches s a (.tile t r)) (hm : r.isMem = true) (hs : strb ≠ 0) :
    hostWrite s a d strb = (answered s).setTile t (writeTileMem (s.tile t) r d strb) := by
  have hw : regWrite s a (.tile t r) d strb false = (s.setTile t (writeTileMem (s.tile t) r d strb), false) := by
    cases r <;> simp_all [regWrite, TileReg.isMem]
  exact hostWrite_of_reaches h hw

/-- A write of a tile memory adds no word to those that hold an error. -/
theorem badWords_writeTileMem (x : Tile) (r : TileReg) (d : Word) (strb : BitVec 4) :
    ∀ b ∈ (writeTileMem x r d strb).badWords, b ∈ x.badWords := by
  have hsub : ∀ b ∈ (if strb = 15 then x.badWords.filter (fun p => !r.holds p) else x.badWords), b ∈ x.badWords := by
    intro b hb
    split at hb
    · exact List.mem_of_mem_filter hb
    · exact hb
  cases r with
  | imem w =>
    by_cases hq : x.seq = .running
    · simp [writeTileMem, hq]
    · simpa [writeTileMem, hq] using hsub
  | tdt w => exact hsub
  | odt w => exact hsub
  | wpm w => exact hsub
  | _ => exact fun b hb => hb

/-- Instruction memory keeps its words while the program runs (R74). -/
theorem writeTileMem_imem_running {x : Tile} (hq : x.seq = .running) (w : Nat) (d : Word) (strb : BitVec 4) :
    writeTileMem x (.imem w) d strb = x := if_pos hq

theorem writeTileMem_imem {x : Tile} (hq : x.seq ≠ .running) (w : Nat) (d : Word) (strb : BitVec 4) :
    let y := writeTileMem x (.imem w) d strb
    y = { x with imem := y.imem, badWords := y.badWords } ∧ WordWritten x.imem y.imem w d strb := by
  simp only [writeTileMem, if_neg hq]
  exact ⟨trivial, wordWritten_set ..⟩

/-- TILE_MEMORY_WRITE at a word of tile `t` changes that tile alone, as `writeTileMem` says. -/
theorem tileMemoryWrite_onlyTile {s : State} {t : Nat} {a : BitVec 26} {r : TileReg} {d : Word} {strb : BitVec 4}
    (P : Tile → Prop) (h : Reaches s a.toNat (.tile t r)) (hm : r.isMem = true) (hs : strb ≠ 0)
    (hP : P (writeTileMem (s.tile t) r d strb)) :
    ∃ u, exec (.tileMemoryWrite a d strb) s = .next u ∧ OnlyTile (answered s) u t ∧ P (u.tile t)
      ∧ ∀ b ∈ (u.tile t).badWords, b ∈ (s.tile t).badWords := by
  have hexec : exec (.tileMemoryWrite a d strb) s = .next (hostWrite s a.toNat d strb) := rfl
  rw [hexec, hostWrite_tileMem h hm hs]
  refine ⟨_, rfl, onlyTile_setTile _ _ _, ?_, ?_⟩
  · simpa using hP
  · simpa using badWords_writeTileMem (s.tile t) r d strb

/-! ## `TL_CTRL` -/

theorem hostWrite_tileCtrl {s : State} {a t : Nat} {d : Word} (h : Reaches s a (.tile t .ctrl)) :
    hostWrite s a d 15 = (answered s).setTile t (tileCtrl (s.tile t) d) :=
  hostWrite_of_reaches (u := s.setTile t (tileCtrl (s.tile t) d)) h rfl

/-- The fields that a write of `TL_CTRL` sets whatever its RUN and STOP are. -/
def ctrlFields (x : Tile) (v : Word) : Tile :=
  { x with ringStreams := v.extractLsb' 16 4, startPc := v.extractLsb' 0 10 }

/-- RUN = 1 and STOP = 0 start a program that does not run (R75, R78). -/
theorem tileCtrl_run (x : Tile) (v : Word) : tileCtrl x (noBit (withBit v 31) 30) =
    if x.seq = .running then ctrlFields x v
    else { ctrlFields x v with seq := .running, pc := (v.extractLsb' 0 10).toNat, stopping := false, fetched := none } := by
  have hstop : bit (noBit (withBit v 31) 30) 30 = false := by simp [noBit, bit_putBit]
  have hrun : bit (noBit (withBit v 31) 30) 31 = true := by simp [noBit, withBit, bit_putBit]
  have hfld : ∀ h l, h < 30 → fld (noBit (withBit v 31) 30) h l = fld v h l := fun h l hh => by
    rw [noBit, withBit, fld_putBit _ (by decide) _ (.inr hh), fld_putBit _ (by decide) _ (.inr (by omega))]
  have hrs := ofNat_fld v 19 16
  have hpc := ofNat_fld v 9 0
  by_cases hq : x.seq = .running <;> simp_all [tileCtrl, ctrlFields]

/-- STOP = 1 stops issue of a program that runs, whatever RUN is (R75). -/
theorem tileCtrl_stop (x : Tile) (v : Word) : tileCtrl x (withBit v 30) =
    if x.seq = .running then { ctrlFields x v with stopping := true } else ctrlFields x v := by
  have hstop : bit (withBit v 30) 30 = true := by simp [withBit, bit_putBit]
  have hfld : ∀ h l, h < 30 → fld (withBit v 30) h l = fld v h l := fun h l hh => fld_putBit _ (by decide) _ (.inr hh)
  have hrs := ofNat_fld v 19 16
  have hpc := ofNat_fld v 9 0
  simp_all [tileCtrl, ctrlFields]

/-! ## General registers -/

/-- A write of a general register of a running program, or of g0, is ignored (R37, R74). -/
theorem hostWrite_greg_locked {s : State} {a t n : Nat} {hi : Bool} {d : Word} (h : Reaches s a (.tile t (.g n hi)))
    (hl : (s.tile t).seq = .running ∨ n = 0) : hostWrite s a d 15 = answered s := by
  have hlock : pairLocked s (.tile t (.g n hi)) = true := by simpa [pairLocked] using hl
  have hw : regWrite s a (.tile t (.g n hi)) d 15 false = (pairWrite s a (.tile t (.g n hi)) hi d, false) := rfl
  rw [pairWrite, if_pos hlock] at hw
  exact hostWrite_of_reaches h hw

/-- A write of the low half of a general register while no high half is held for it writes that half alone (R10). -/
theorem hostWrite_gregLo {s : State} {a t n : Nat} {d : Word} (h : Reaches s a (.tile t (.g n false)))
    (hq : (s.tile t).seq ≠ .running) (hn : n ≠ 0) (hh : Tab.find s.cp.heldHi (a + 4) = none) :
    hostWrite s a d 15 = answered (dropHi
      (s.setTile t ((s.tile t).setG n (pair (((s.tile t).greg n).extractLsb' 32 32) d))) (a + 4)) := by
  have hlock : pairLocked s (.tile t (.g n false)) = false := by simp [pairLocked, hq, hn]
  have hhi : ((s.tile t).greg n).extractLsb' 32 32 = hi32 ((s.tile t).greg n) := rfl
  have hval : loValue s a (.tile t (.g n false)) d = pair (((s.tile t).greg n).extractLsb' 32 32) d := by
    simp [loValue, hh, pairValue, hhi]
  have hw : regWrite s a (.tile t (.g n false)) d 15 false = (pairWrite s a (.tile t (.g n false)) false d, false) := rfl
  rw [pairWrite, if_neg (by simp [hlock]), if_neg (by simp), hval] at hw
  exact hostWrite_of_reaches h hw

end Sys2Proof.Proofs
end

section
/-! PROOF. The control port's commands of a tile: RUN and STOP, and the writes of its memories and general registers. -/

namespace Sys2Proof.Proofs

open Sys2Proof Sys2Proof.Machine

/-- Settles O18: both are writes of `TL_CTRL`, which differ in RUN and STOP. -/
theorem runAndStop : Obligations.RunAndStop := by
  unfold Obligations.RunAndStop
  intro s t v x y h
  have hrun : exec (.run t v) s = .next (hostWrite s (tileAddr t 0) (noBit (withBit v 31) 30) 15) := rfl
  have hstop : exec (.stop t v) s = .next (hostWrite s (tileAddr t 0) (withBit v 30) 15) := rfl
  rw [hrun, hstop, hostWrite_tileCtrl h, hostWrite_tileCtrl h, tileCtrl_run, tileCtrl_stop]
  refine ⟨⟨_, rfl, onlyTile_setTile _ _ _, ?_⟩, ⟨_, rfl, onlyTile_setTile _ _ _, ?_⟩⟩
  · rw [tile_setTile, if_pos rfl]
    rfl
  · rw [tile_setTile, if_pos rfl]
    rfl

/-- Settles O19: each word goes its register's way, and a locked general register ignores its write. -/
theorem tileMemoryWrites : Obligations.TileMemoryWrites := by
  unfold Obligations.TileMemoryWrites
  intro s t w a d strb x wrote hs
  have hwrote : ∀ {r P}, Reaches s a.toNat (.tile t r) → r.isMem = true → P (writeTileMem x r d strb) → wrote P :=
    fun h hm hP => tileMemoryWrite_onlyTile _ h hm hs hP
  clear_value wrote
  refine ⟨fun h => ⟨fun hq => ?_, fun hq => ?_⟩, fun h => ?_, fun h => ?_, fun h => ?_,
    fun n h => ⟨fun hq => ?_, fun hq hn hh => ?_⟩⟩
  · exact hwrote h rfl (writeTileMem_imem hq w d strb)
  · exact hwrote h rfl (writeTileMem_imem_running hq w d strb)
  · exact hwrote h rfl ⟨rfl, wordWritten_set ..⟩
  · exact hwrote h rfl ⟨rfl, wordWritten_set ..⟩
  · exact hwrote h rfl ⟨rfl, wordWritten_set ..⟩
  · exact congrArg Host.Outcome.next (hostWrite_greg_locked h (.inl hq))
  · have hexec : exec (.registerPairLoWrite a d) s = .next (hostWrite s a.toNat d 15) := rfl
    rw [hexec, hostWrite_gregLo h hq hn hh]
    refine ⟨_, rfl, fun k => ?_, ?_, fun j hj => ?_⟩
    · have hk : k = n ∧ k ≠ 0 ↔ k = n := ⟨And.left, fun h => ⟨h, h ▸ hn⟩⟩
      simp [greg_setG, hk, x]
    · simpa using setG_eq x n _
    · simp [hj]

end Sys2Proof.Proofs
end

section
/-! PROOF. The SET instructions of a program, and general register 0. -/

namespace Sys2Proof.Proofs

open Sys2Proof Sys2Proof.Machine

/-! ## Issue of a SET -/

@[simp] theorem ctxEcc_clean (s : State) (t : Nat) (l : Line) : ctxEcc s t l .clean = s := by
  unfold ctxEcc
  cases (ctxReads s t l).head? <;> rfl

/-- Only a source that nothing holds has a head (R51). -/
theorem hold_of_headOf {x : Tile} {src : Source} {hd : Head} (h : headOf x src = some hd) : (x.source src).hold = .none := by
  unfold headOf at h
  by_contra hne
  simp [hne] at h

theorem entry_of_headOf_prog {x : Tile} {hd : Head} (h : headOf x .prog = some hd) : hd.entry = none := by
  unfold headOf at h
  split at h
  · cases h
  · simp only [Option.ite_none_right_eq_some, Option.map_eq_some_iff] at h
    obtain ⟨-, l, -, rfl⟩ := h
    rfl

/-- An instruction without a launch time is never late (R232). -/
theorem finishDone_prog_of_kind_zero (s : State) (t : Nat) (l : Line) {la : LaunchSt} (hk : la.kind = 0) (claimed : Bool) :
    finishDone s t none l la claimed = s := by
  simp [finishDone, lateOf, judgeLate, hk]

theorem popHead_prog_onlyTile (s : State) (t : Nat) : OnlyTile s (popHead s t .prog) t := onlyTile_setTile _ _ _

theorem tile_popHead_prog {s : State} {t : Nat} (h : (s.tile t).prog.hold = .none) :
    (popHead s t .prog).tile t = issuedProg (s.tile t) := by
  simp [popHead, issuedProg, Tile.setSource, Tile.source, h]

/-- A SET of a program that has no launch time does no more at its launch than `setEffect` (R61). -/
theorem simpleEffect_set (s : State) (t ord : Nat) {h : HeldInstr} (hr : (rowOf h.line).isSet = true) (he : h.entry = none)
    (hk : h.launch.kind = 0) :
    simpleEffect s t .prog ord h = s.setTile t (setEffect (s.tile t) h.line (rowOf h.line) h.opA h.opB (localTime s)) := by
  have hfin := fun u => finishDone_prog_of_kind_zero u t h.line hk false
  unfold simpleEffect
  cases hrow : rowOf h.line <;> simp_all [Row.isSet]

/-- A SET takes effect at issue whatever earlier instruction of its source has not launched (R61). -/
theorem goOn_set (s : State) (t ord : Nat) {h : HeldInstr} (hr : (rowOf h.line).isSet = true) (he : h.entry = none)
    (hk : h.launch.kind = 0) :
    goOn s t .prog ord h = s.setTile t (setEffect (s.tile t) h.line (rowOf h.line) h.opA h.opB (localTime s)) := by
  have hat : (rowOf h.line).atIssue = true := by cases hrow : rowOf h.line <;> simp_all [Row.atIssue, Row.isSet]
  simp only [goOn, hat, Bool.true_or, if_true]
  exact simpleEffect_set s t ord hr he hk

/-- An instruction of a program that nothing holds leaves its source as it issues, and goes on at once (R39, R51). -/
theorem issueSimple_of_progReady {s : State} {t : Nat} {hd : Head} {r : Row} (h : ProgReady s t hd r)
    (hfull : pendFull (s.tile t) .prog r = false) :
    issueSimple s t .prog r .clean = goOn (popHead s t .prog) t .prog (((popHead s t .prog).tile t).source .prog).ord
      (captureHeld s t .prog hd) := by
  obtain ⟨⟨hrun, hhead, hstg, hcode, -⟩, ⟨hdep, hlaunch⟩, hrow⟩ := h
  simp [issueSimple, hrun, hhead, hstg, hcode, hdep, hlaunch, hrow, hfull]

/-- A SET of a program that neither DEP nor LAUNCH holds takes effect as it issues, on the tile that its head has left
(R60, R61). -/
theorem issueSimple_set {s : State} {t : Nat} {hd : Head} {r : Row} (h : ProgReady s t hd r) (hr : r.isSet = true) :
    OnlyTile s (issueSimple s t .prog r .clean) t
      ∧ (issueSimple s t .prog r .clean).tile t = setEffect (issuedProg (s.tile t)) hd.line r
          (operandA (s.tile t) hd.line r) (operandB (s.tile t) hd.line r) (localTime s) := by
  have hfull : pendFull (s.tile t) .prog r = false := by cases r <;> simp_all [pendFull, Row.isSet, Row.pends]
  rw [issueSimple_of_progReady h hfull]
  obtain ⟨⟨-, hhead, -, -, -⟩, ⟨-, hlaunch⟩, rfl⟩ := h
  rw [goOn_set (h := captureHeld s t .prog hd) _ t _ hr (entry_of_headOf_prog hhead) hlaunch,
    tile_popHead_prog (hold_of_headOf hhead)]
  refine ⟨onlyTile_trans (popHead_prog_onlyTile s t) (onlyTile_setTile _ _ _), ?_⟩
  rw [tile_setTile, if_pos rfl]
  rfl

/-- A SET that writes a register, and names g0, has no effect on the tile (R37). -/
theorem setEffect_zero (x : Tile) {l : Line} {r : Row} (hd : iSetD l = 0) (htdw : r ≠ .tdw) (hodw : r ≠ .odw) (a b now : DWord) :
    setEffect x l r a b now = x := by
  cases r <;> simp_all [setEffect]

/-- Settles O7: a SET writes register D = 0 by `setG`, which discards it, and the pair of g0 is locked. -/
theorem registerZero : Obligations.RegisterZero := by
  unfold Obligations.RegisterZero
  refine fun s t => ⟨greg_zero _, fun hd r c hc hready hD => ?_, fun a d hi h => ?_⟩
  · have hrow : exec c s = .next (issueSimple s t .prog r .clean) ∧ r.isSet = true ∧ r ≠ .tdw ∧ r ≠ .odw := by
      fin_cases hc <;> exact ⟨rfl, rfl, by decide, by decide⟩
    obtain ⟨hexec, hset, htdw, hodw⟩ := hrow
    obtain ⟨honly, htile⟩ := issueSimple_set hready hset
    exact ⟨_, hexec, honly, htile.trans (setEffect_zero _ hD htdw hodw _ _ _)⟩
  · exact congrArg Host.Outcome.next (hostWrite_greg_locked h (.inr rfl))

end Sys2Proof.Proofs
end

section
/-! PROOF. `TL_SR_SEED`: what seeds the generators of stochastic rounding. -/

namespace Sys2Proof.Proofs

open Sys2Proof Sys2Proof.Machine

/-- SEED is bits [15:0] of the word written; its bits [31:16] are reserved (R154). -/
theorem seedTile_eq (x : Tile) (d : Word) : seedTile x d =
    { x with srSeed := d.extractLsb' 0 16, lfsr := (List.range 128).map (lfsrSeed (d.extractLsb' 0 16)) } := by
  have hseed : BitVec.ofNat 16 d.toNat = d.extractLsb' 0 16 := BitVec.eq_of_toNat_eq (by simp)
  rw [seedTile, hseed]

theorem hostWrite_srSeed {s : State} {a t : Nat} {d : Word} (h : Reaches s a (.tile t .srSeed)) :
    hostWrite s a d 15 = (answered s).setTile t (seedTile (s.tile t) d) :=
  hostWrite_of_reaches (u := s.setTile t (seedTile (s.tile t) d)) h rfl

/-- Reset leaves every tile at its reset values, whatever the state was. -/
theorem tile_rstStep (s : State) (t : Nat) : (rstStep s).tile t = Tile.init := Tab.get_nil Tile.init t

/-- Settles O56: the write reaches one tile, whose generators `seedTile` sets, and the reset values of a tile are those that
`lfsrSeed` gives for the seed 1. -/
theorem seedSetsGenerators : Obligations.SeedSetsGenerators := by
  unfold Obligations.SeedSetsGenerators
  intro gen
  have hgen : gen = lfsrSeed := rfl
  refine ⟨fun s t d h => ?_, fun s t => ?_⟩
  · have hexec : exec (.tlSrSeed t d) s = .next (hostWrite s (tileAddr t 0x400) d 15) := rfl
    rw [hexec, hostWrite_srSeed h, seedTile_eq]
    refine ⟨_, rfl, onlyTile_setTile _ _ _, ?_⟩
    rw [tile_setTile, if_pos rfl, hgen]
  · have hexec : exec .rstN s = .next (rstStep s) := rfl
    refine ⟨_, hexec, ?_, ?_⟩
    · rw [tile_rstStep, Tile.init]
    · rw [tile_rstStep, Tile.init, hgen]

end Sys2Proof.Proofs
end

section
/-! PROOF. The ticks of the pergola during a slew. -/

namespace Sys2Proof.Proofs

open Sys2Proof Sys2Proof.Machine

/-! ## What a tick leaves (R215, R230) -/

/-- A tick that moves the counter changes nothing else of the pergola than the source in effect: the launches that it crosses are
the tiles' own. -/
theorem pg_moveTime (s : State) (v : DWord) : (moveTime s v).pg = { s.pg with time := v, srcIn := s.pg.src } := by
  by_cases h : s.pg.valid = true <;> simp [moveTime, mapLaunches, h]

theorem spad_moveTime (s : State) (v : DWord) : (moveTime s v).spad = s.spad := by
  by_cases h : s.pg.valid = true <;> simp [moveTime, mapLaunches, h]

theorem prom_moveTime (s : State) (v : DWord) : (moveTime s v).prom = s.prom := by
  by_cases h : s.pg.valid = true <;> simp [moveTime, mapLaunches, h]

/-! ## Which tick comes (R219) -/

/-- During a slew, with no load and no step due, SLEW_INT alone tells which tick comes. -/
theorem tickKind_slewing {s : State} (howed : s.pg.owed ≠ 0) (hload : s.pg.loadReq = false) (htod : s.pg.todDue = none)
    (hstep : s.pg.stepDue = none) : tickKind s = if slewInt s ≤ s.pg.slewCnt + 1 then .adjust else .plain := by
  simp_all [tickKind]

/-! ## The two ticks -/

theorem plainTick_slewing {s : State} (ht : pgTicks s = true) (hk : tickKind s = .plain) (howed : s.pg.owed ≠ 0) :
    plainTick s = moveTime { s with pg := { s.pg with slewCnt := s.pg.slewCnt + 1 } } (s.pg.time + 4) := by
  rw [plainTick, if_pos (by simp [ht, hk]), if_neg howed]

/-- A counter that ticks is not frozen, so a tick that is not due does not even give a change of source its effect. -/
theorem plainTick_not_due {s : State} (ht : pgTicks s = true) (hk : tickKind s ≠ .plain) : plainTick s = s := by
  have hfrozen : s.pg.frozen = false := by
    simp only [pgTicks, Bool.and_eq_true, Bool.not_eq_true'] at ht
    exact ht.2
  simp [plainTick, hk, hfrozen]

theorem adjustTick_pos {s : State} (ht : pgTicks s = true) (hk : tickKind s = .adjust) (hpos : 0 < s.pg.owed.toInt) :
    adjustTick s = moveTime { s with pg := { s.pg with owed := s.pg.owed - 1, slewCnt := 0 } } (s.pg.time + 5) := by
  simp [adjustTick, ht, hk, hpos]

theorem adjustTick_neg {s : State} (ht : pgTicks s = true) (hk : tickKind s = .adjust) (hneg : s.pg.owed.toInt < 0) :
    adjustTick s = moveTime { s with pg := { s.pg with owed := s.pg.owed + 1, slewCnt := 0 } } (s.pg.time + 3) := by
  simp [adjustTick, ht, hk, hneg.not_gt]

theorem adjustTick_not_due {s : State} (hk : tickKind s ≠ .adjust) : adjustTick s = s := by
  simp [adjustTick, hk]

/-- Settles O44: SLEW_INT decides which of the two ticks is due; that one moves the counter and the other leaves the state. -/
theorem slewAdjusts : Obligations.SlewAdjusts := by
  unfold Obligations.SlewAdjusts
  intro s ht howed hload htod hstep
  have hkind := tickKind_slewing howed hload htod hstep
  have hexecAdjust : exec .slewAdjust s = .next (adjustTick s) := rfl
  have hexecTick : exec .tbTick s = .next (plainTick s) := rfl
  rw [hexecAdjust, hexecTick]
  refine ⟨rfl, fun hlt => ?_, fun hle => ?_⟩
  · have hplain : tickKind s = .plain := hkind.trans (if_neg hlt.not_ge)
    rw [adjustTick_not_due (by simp [hplain]), plainTick_slewing ht hplain howed]
    exact ⟨rfl, _, rfl, pg_moveTime _ _, spad_moveTime _ _, prom_moveTime _ _⟩
  · have hadjust : tickKind s = .adjust := hkind.trans (if_pos hle)
    rw [plainTick_not_due ht (by simp [hadjust])]
    refine ⟨rfl, fun hpos => ?_, fun hneg => ?_⟩
    · rw [adjustTick_pos ht hadjust hpos]
      exact ⟨_, rfl, pg_moveTime _ _, spad_moveTime _ _⟩
    · rw [adjustTick_neg ht hadjust hneg]
      exact ⟨_, rfl, pg_moveTime _ _, spad_moveTime _ _⟩

end Sys2Proof.Proofs
end

section
/-! PROOF. The vector that a completion of a ring makes pending. -/

namespace Sys2Proof.Proofs

open Sys2Proof Sys2Proof.Machine

/-! ## Vectors (R332) -/

theorem get_vecs_pendVec (s : State) (v k : Nat) : Tab.get (pendVec s v).gate.vecs Vec.init k =
    if k = v then { Tab.get s.gate.vecs Vec.init v with pend := true, occ := satInc (Tab.get s.gate.vecs Vec.init v).occ }
    else Tab.get s.gate.vecs Vec.init k :=
  Tab.get_put _ _ _ _ _

/-! ## The shadow write (R325) -/

/-- An access outside the scratchpad window leaves as a message, and the gatehouse stays as it is. -/
theorem gate_ghPost {s : State} {a : GhAcc} (h : Outside s a) : (ghPost s a).gate = s.gate := by
  obtain ⟨hfirst, hlast⟩ := h
  simp [ghPost, hfirst, hlast]

@[simp] theorem windowOff_setRing (s : State) (q : Nat) (x : Ring) (a : DWord) : windowOff (s.setRing q x) a = windowOff s a := rfl

/-- Whether a shadow write stays outside the window does not turn on the value it writes, nor on anything of its ring but the
shadow address. -/
theorem outside_shadow_setRing {s : State} {q : Nat} {x : Ring} {v : Word} (w : Word) (hx : x.shadow = (s.ring q).shadow)
    (h : Outside s (.shadow q v)) : Outside (s.setRing q x) (.shadow q w) := by
  simpa [Outside, ghAccess, hx] using h

theorem vecs_sendShadow {s : State} {q : Nat} {v : Word} (h : Outside s (.shadow q v)) :
    (sendShadow s q v).gate.vecs = s.gate.vecs := by
  have hout : Outside (s.setRing q { s.ring q with shadowOut := (s.ring q).shadowOut ++ [v] }) (.shadow q v) :=
    outside_shadow_setRing v rfl h
  rw [sendShadow, gate_ghPost hout]
  rfl

theorem shadow_advance (n : Nat) (r : Ring) : (advance n r).shadow = r.shadow := by
  induction n generalizing r with
  | zero => rfl
  | succ n ih =>
    rw [advance]
    split
    · split
      · exact ih _
      · rfl
    · rfl

/-! ## DONE_ADVANCE of one completion (R325, R326) -/

/-- The vectors are as before when the completion is counted: whether DONE has moved and its shadow gone out does not touch them. -/
theorem doneStep_single {s : State} {q : Nat} {c : Comp} (hon : gateOn s = true) (hcomps : (s.ring q).comps = [c])
    (hphase : c.phase = .ownLanded) (hout : Ring.shen (s.ring q) = true → Outside s (.shadow q 0)) :
    ∃ t : State, t.gate.vecs = s.gate.vecs ∧ doneStep s q =
      if c.raises (Ring.cmode (s.ring q)) then pendVec t (Ring.cvec (s.ring q)) else t := by
  have hfresh : (s.ring q).comps.filter (fun c => decide (c.phase = .ownLanded)) = [c] := by simp [hcomps, hphase]
  rw [doneStep]
  simp only [hfresh, hon, Bool.not_true, List.isEmpty_cons, Bool.or_self, Bool.false_eq_true, if_false,
    List.foldl_cons, List.foldl_nil]
  refine ⟨_, ?_, rfl⟩
  split
  next hshadow =>
    obtain ⟨hshen, -⟩ := hshadow
    exact vecs_sendShadow (outside_shadow_setRing _ (shadow_advance _ _) (hout hshen))
  next => rfl

/-- Settles O51: DONE_ADVANCE makes the ring's vector pending exactly where `Comp.raises` says so, which is R326's table. -/
theorem completionVectors : Obligations.CompletionVectors := by
  unfold Obligations.CompletionVectors
  intro s q c r v x bad hon hcomps hphase hout
  obtain ⟨t, hvecs, hstep⟩ := doneStep_single hon hcomps hphase hout
  have hexec : exec (.doneAdvance q) s = .next (doneStep s q.toNat) := rfl
  have hget (k : Nat) : Tab.get (doneStep s q.toNat).gate.vecs Vec.init k =
      if k = v ∧ c.raises (Ring.cmode r) = true then { x with pend := true, occ := satInc x.occ }
      else Tab.get s.gate.vecs Vec.init k := by
    rw [hstep]
    cases hr : c.raises (Ring.cmode (s.ring q.toNat)) with
    | true => simp [get_vecs_pendVec, hvecs, r, v, x]
    | false => simp [hvecs]
  refine ⟨_, hexec, fun k hk => ?_, fun hm => ?_, fun hm => ?_, fun hm => ?_, fun hm => ?_⟩
  · rw [hget, if_neg (fun ⟨hkv, _⟩ => hk hkv)]
  · simp [hget, hm, Comp.raises, x]
  · simp [hget, hm, Comp.raises]
  · simp [hget, hm, Comp.raises, x, bad]
  · simp [hget, hm, Comp.raises, x, bad]

end Sys2Proof.Proofs
end

section
/-! PROOF. What every step keeps: the configuration, the rest of the queue, the canonical form of the scratchpad memory, and the
bounds of what the block counts. -/

namespace Sys2Proof.Proofs

open Sys2Proof Sys2Proof.Machine Sys2Proof.Laws

/-- Every command answers a next state, and one that `Keeps` holds of: each meaning is an operation whose law Laws/ has. -/
theorem exec_keeps (c : Instr) (s : State) : ∃ u, exec c s = .next u ∧ Keeps s u := by
  cases c with
  | instructionFetch => exact ⟨_, rfl, fetchStep_keeps (.refl s) ..⟩
  | move | walk => exact ⟨_, rfl, issueStream_keeps (.refl s) ..⟩
  | sig | waitGe | waitEq | waitAcquire | waitClaim | fence | bar | add | sub | and | or | xor | shl | shr | tdw | odw |
  rdtime | jmp | br | halt | nop =>
    exact ⟨_, rfl, issueSimple_keeps (.refl s) ..⟩
  | fenceComplete => exact ⟨_, rfl, fenceStep_keeps (.refl s) ..⟩
  | resume | abandon => exact ⟨_, rfl, issueResume_keeps (.refl s) ..⟩
  | launch => exact ⟨_, rfl, launchStep_keeps (.refl s) ..⟩
  | retire => exact ⟨_, rfl, retireStream_keeps (.refl s) ..⟩
  | pendingSignal => exact ⟨_, rfl, pendStep_keeps (.refl s) ..⟩
  | programHalted => exact ⟨_, rfl, haltStep_keeps (.refl s) ..⟩
  | ldAdd => exact ⟨_, rfl, hostWrite_keeps (Keeps.ite (updCheck_keeps (.refl s) ..) (.refl s)) ..⟩
  | run | stop | tileMemoryWrite | apply | ldValue | ldCfg | ldCtx | ldXvalue | ldXadd | ldHwCmdGo | ldHwCmdCancel |
  bsCfg | bsArrive | bsReset | pgLoad | ringEnable | prod | registerWrite | registerPairHiWrite | registerPairLoWrite |
  tlSrSeed | ghCompat | sealChange | ghBootFeed | up | down | retain | reset =>
    exact ⟨_, rfl, hostWrite_keeps (.refl s) ..⟩
  | readRequest => exact ⟨_, rfl, readStep_keeps (.refl s) ..⟩
  | writeRequest => exact ⟨_, rfl, writeStep_keeps (.refl s) ..⟩
  | walkEnd | emit | addi | adda | ldi | cset | rep | repr | idx | scan => exact ⟨_, rfl, walkerStep_keeps (.refl s) ..⟩
  | layoutApplied => exact ⟨_, rfl, layoutStep_keeps (.refl s) ..⟩
  | readResponse => exact ⟨_, rfl, responseStep_keeps (.refl s) ..⟩
  | tileDatapath => exact ⟨_, rfl, rowStep_keeps (.refl s) ..⟩
  | calibrationWindow => exact ⟨_, rfl, windowStep_keeps (.refl s) ..⟩
  | signatureCompare => exact ⟨_, rfl, compareStep_keeps (.refl s) ..⟩
  | writeAcknowledgement => exact ⟨_, rfl, ackStep_keeps (.refl s) ..⟩
  | lastFlitSend => exact ⟨_, rfl, lastStep_keeps (.refl s) ..⟩
  | bankWrite => exact ⟨_, rfl, bankWriteStep_keeps (.refl s) ..⟩
  | bankRead => exact ⟨_, rfl, bankReadStep_keeps (.refl s) ..⟩
  | accApply => exact ⟨_, rfl, applyStep_keeps (.refl s) ..⟩
  | discard => exact ⟨_, rfl, discardStep_keeps (.refl s) ..⟩
  | chunkCommit => exact ⟨_, rfl, commitStep_keeps (.refl s) ..⟩
  | signalApply => exact ⟨_, rfl, signalStep_keeps (.refl s) ..⟩
  | watchRegistration => exact ⟨_, rfl, registrationStep_keeps (.refl s) ..⟩
  | watchRegistrationRetry => exact ⟨_, rfl, regRetryStep_keeps (.refl s) ..⟩
  | watchDelivery => exact ⟨_, rfl, deliveryStep_keeps (.refl s) ..⟩
  | watchWithdrawal => exact ⟨_, rfl, withdrawalStep_keeps (.refl s) ..⟩
  | timedSignal => exact ⟨_, rfl, timedStep_keeps (.refl s) ..⟩
  | timerArm => exact ⟨_, rfl, timerArmStep_keeps (.refl s) ..⟩
  | expressUpdate => exact ⟨_, rfl, expressStep_keeps (.refl s)⟩
  | ldAtom => exact ⟨_, rfl, hostRead_keeps (Keeps.ite (cntEcc_keeps (.refl s) ..) (.refl s)) ..⟩
  | registerPairLoRead | faultLogRead => exact ⟨_, rfl, hostRead_keeps (.refl s) ..⟩
  | barrierArrival => exact ⟨_, rfl, arrivalStep_keeps (.refl s) ..⟩
  | releaseDelivery => exact ⟨_, rfl, releaseStep_keeps (.refl s) ..⟩
  | timebaseLoad => exact ⟨_, rfl, loadTick_keeps (.refl s)⟩
  | tbTodLoad => exact ⟨_, rfl, todStep_keeps (.refl s) ..⟩
  | tbFsync => exact ⟨_, rfl, fsyncStep_keeps (.refl s)⟩
  | step => exact ⟨_, rfl, stepTick_keeps (.refl s)⟩
  | slewAdjust => exact ⟨_, rfl, adjustTick_keeps (.refl s)⟩
  | fsmiss => exact ⟨_, rfl, fsmissStep_keeps (.refl s)⟩
  | tbMismatch => exact ⟨_, rfl, mismatchStep_keeps (.refl s)⟩
  | turnstileGrant => exact ⟨_, rfl, grantStep_keeps (.refl s) ..⟩
  | slackDecrement => exact ⟨_, rfl, slackStep_keeps (.refl s) ..⟩
  | ringFetch => exact ⟨_, rfl, ringFetchStep_keeps (.refl s)⟩
  | fetchResponse => exact ⟨_, rfl, fetchResponseStep_keeps (.refl s) ..⟩
  | fetchRetry => exact ⟨_, rfl, fetchRetryStep_keeps (.refl s) ..⟩
  | dispatch => exact ⟨_, rfl, dispatchStep_keeps (.refl s) ..⟩
  | entryReceipt => exact ⟨_, rfl, receiptStep_keeps (.refl s) ..⟩
  | completion => exact ⟨_, rfl, completionStep_keeps (.refl s) ..⟩
  | ownWrite => exact ⟨_, rfl, ownStep_keeps (.refl s) ..⟩
  | doneAdvance => exact ⟨_, rfl, doneStep_keeps (.refl s) ..⟩
  | gatehouseRetry => exact ⟨_, rfl, gateRetryStep_keeps (.refl s) ..⟩
  | messageWrite => exact ⟨_, rfl, messageStep_keeps (.refl s) ..⟩
  | systemPortRequest => exact ⟨_, rfl, portRequestStep_keeps (.refl s) ..⟩
  | translationAnswer => exact ⟨_, rfl, xlateAnswerStep_keeps (.refl s) ..⟩
  | systemPortResponse => exact ⟨_, rfl, portResponseStep_keeps (.refl s) ..⟩
  | responseTimeout => exact ⟨_, rfl, timeoutStep_keeps (.refl s) ..⟩
  | invalidation => exact ⟨_, rfl, invalStep_keeps (.refl s) ..⟩
  | invalidationComplete => exact ⟨_, rfl, invalDoneStep_keeps (.refl s) ..⟩
  | windowPortRequest => exact ⟨_, rfl, windowStepPort_keeps (.refl s) ..⟩
  | rstN => exact ⟨_, rfl, rstStep_keeps (.refl s)⟩
  | bootStart => exact ⟨_, rfl, bootStartStep_keeps (.refl s) ..⟩
  | discovery => exact ⟨_, rfl, discoveryStep_keeps (.refl s) ..⟩
  | header => exact ⟨_, rfl, portOn_keeps s (headerStep_keeps (.refl s) ..)⟩
  | bootTimeout => exact ⟨_, rfl, portOn_keeps s (bootTimeoutStep_keeps (.refl s))⟩
  | regs => exact ⟨_, rfl, portOn_keeps s (regsStep_keeps (.refl s) ..)⟩
  | progSection => exact ⟨_, rfl, portOn_keeps s (progStep_keeps (.refl s) ..)⟩
  | desc => exact ⟨_, rfl, portOn_keeps s (descStep_keeps (.refl s) ..)⟩
  | ctx => exact ⟨_, rfl, portOn_keeps s (ctxStep_keeps (.refl s) ..)⟩
  | start => exact ⟨_, rfl, portOn_keeps s (startStep_keeps (.refl s) ..)⟩
  | write => exact ⟨_, rfl, portOn_keeps s (writeEntry_keeps (.refl s))⟩
  | pollset | pollclr => exact ⟨_, rfl, portOn_keeps s (pollEntry_keeps (.refl s) ..)⟩
  | delay => exact ⟨_, rfl, portOn_keeps s (delayEntry_keeps (.refl s))⟩
  | go p v => exact ⟨_, rfl, Keeps.ite (hostWrite_keeps (.refl s) ..) (.refl s)⟩
  | pllLock => exact ⟨_, rfl, portOn_keeps s (lockStep_keeps (.refl s) ..)⟩
  | lockfail => exact ⟨_, rfl, lockfailStep_keeps (.refl s) ..⟩
  | monitorWindow => exact ⟨_, rfl, monitorStep_keeps (.refl s) ..⟩
  | quiesceAck => exact ⟨_, rfl, quiesceAckStep_keeps (.refl s) ..⟩
  | routerConfirmation => exact ⟨_, rfl, confirmStep_keeps (.refl s) ..⟩
  | quiesceTimeout => exact ⟨_, rfl, quiesceTimeoutStep_keeps (.refl s) ..⟩
  | pwAck => exact ⟨_, rfl, pwAckStep_keeps (.refl s) ..⟩
  | ackTimeout => exact ⟨_, rfl, ackTimeoutStep_keeps (.refl s) ..⟩
  | isolationRelease => exact ⟨_, rfl, releaseStepDom_keeps (.refl s) ..⟩
  | resetRelease => exact ⟨_, rfl, resetReleaseStep_keeps (.refl s) ..⟩
  | lockstepMismatch => exact ⟨_, rfl, lockstepStep_keeps (.refl s) ..⟩
  | linkResend => exact ⟨_, rfl, resendStep_keeps (.refl s) ..⟩
  | scrubAccess => exact ⟨_, rfl, scrubStep_keeps (.refl s) ..⟩
  | scrublate => exact ⟨_, rfl, scrublateStep_keeps (.refl s)⟩
  | watchdogTick => exact ⟨_, rfl, tickStep_keeps (.refl s)⟩
  | watchdog => exact ⟨_, rfl, watchdogStep_keeps (.refl s) ..⟩
  | tbTick => exact ⟨_, rfl, plainTick_keeps (.refl s)⟩
  | signalAcknowledgement => exact ⟨_, rfl, signalAckStep_keeps (.refl s) ..⟩
  | overrunAnswer => exact ⟨_, rfl, overrunStep_keeps (.refl s) ..⟩
  | retryLater => exact ⟨_, rfl, retryLaterStep_keeps (.refl s) ..⟩
  -- The SEAL section: its constructor's name is a keyword of Lean here, so the last alternative stands for it.
  | _ => exact ⟨_, rfl, portOn_keeps s (sealStep_keeps (.refl s) ..)⟩

theorem keeps_of_exec {c : Instr} {s u : State} (h : exec c s = .next u) : Keeps s u := by
  obtain ⟨v, hv, hk⟩ := exec_keeps c s
  rw [hv] at h
  cases h
  exact hk

/-- A step runs the front command on the state with the queue's rest, or finds the queue empty and does nothing. -/
theorem step_cases {s u : State} (h : step s = .next u) :
    (s.pending = [] ∧ u = s) ∨ ∃ c rest, s.pending = c :: rest ∧ Keeps { s with pending := rest } u := by
  unfold step at h
  split at h
  next hempty =>
    cases h
    exact .inl ⟨hempty, rfl⟩
  next c rest hfront => exact .inr ⟨c, rest, hfront, keeps_of_exec h⟩

/-- Settles O1: it is what `step` does with a queue that is not empty. -/
theorem stepRunsFront : Obligations.StepRunsFront := by
  unfold Obligations.StepRunsFront
  intro s c rest
  rfl

/-- Settles O2: `step` finds no command. -/
theorem emptyQueueIdles : Obligations.EmptyQueueIdles := by
  unfold Obligations.EmptyQueueIdles
  intro s hempty
  simp [step, hempty]

/-- Settles O3: the reset memory lists nothing, and the bounds of reset hold whatever the configuration is. -/
theorem resetMemoryCanonical : Obligations.ResetMemoryCanonical := by
  unfold Obligations.ResetMemoryCanonical
  exact ⟨rfl, fun _ => rfl, bounded_resetOf _ [] CtlPort.init⟩

/-- Settles O4: an idle step changes nothing, and a command keeps the form because it `Keeps`. -/
theorem stepKeepsMemoryCanonical : Obligations.StepKeepsMemoryCanonical := by
  unfold Obligations.StepKeepsMemoryCanonical
  intro s u hwf hstep
  obtain ⟨-, rfl⟩ | ⟨c, rest, -, hkeeps⟩ := step_cases hstep
  · exact hwf
  · obtain ⟨-, -, hmem, -⟩ := hkeeps
    exact hmem hwf

/-- Settles O5: a command keeps the configuration, the rest of the queue that it finds, and the bounds. -/
theorem stepKeepsConfigAndQueue : Obligations.StepKeepsConfigAndQueue := by
  unfold Obligations.StepKeepsConfigAndQueue
  constructor
  · intro s u hstep
    obtain ⟨hempty, rfl⟩ | ⟨c, rest, hfront, hkeeps⟩ := step_cases hstep
    · simp [hempty]
    · obtain ⟨hgen, hpending, -, -⟩ := hkeeps
      exact ⟨hgen, by rw [hpending, hfront]; rfl⟩
  · intro s u hb hstep
    obtain ⟨-, rfl⟩ | ⟨c, rest, -, hkeeps⟩ := step_cases hstep
    · exact hb
    · obtain ⟨-, -, -, hbounds⟩ := hkeeps
      exact hbounds (bounded_congr rfl hb)

end Sys2Proof.Proofs
end

section
/-! PROOF. The SET instructions and the branches of a program, as they issue. -/

namespace Sys2Proof.Proofs

open Sys2Proof Sys2Proof.Machine

/-! ## Halves of a 64-bit value -/

theorem lo32_eq (d : DWord) : lo32 d = d.extractLsb' 0 32 := rfl

theorem hi32_eq (d : DWord) : hi32 d = d.extractLsb' 32 32 := rfl

theorem get_putDWord (tb : Tab Word) (i k : Nat) (v : DWord) : Tab.get (putDWord tb i v) 0 k =
    if k = i then v.extractLsb' 0 32 else if k = i + 1 then v.extractLsb' 32 32 else Tab.get tb 0 k := by
  rw [putDWord, Tab.get_set, Tab.get_set, lo32_eq, hi32_eq]
  by_cases hlo : k = i
  · simp [hlo]
  · simp [hlo]

/-! ## SET (R60, R61) -/

/-- A SET other than TDW and ODW writes the value of its row to register D. -/
theorem setEffect_reg (x : Tile) (l : Line) {r : Row} (htdw : r ≠ .tdw) (hodw : r ≠ .odw) (a b now : DWord) :
    setEffect x l r a b now = x.setG (iSetD l) (setValue l r a b now) := by
  cases r <;> simp_all [setEffect]

theorem operands_of_isSet (x : Tile) (l : Line) {r : Row} (hr : r.isSet = true) :
    operandA x l r = x.greg (iSetA l) ∧ operandB x l r = x.greg (iSetB l) := by
  cases r <;> simp_all [Row.isSet, operandA, operandB]

@[simp] theorem greg_issuedProg (x : Tile) (n : Nat) : (issuedProg x).greg n = x.greg n := rfl

theorem setsReg_of_progReady {s : State} {t : Nat} {hd : Head} {r : Row} (h : ProgReady s t hd r) (hr : r.isSet = true)
    (htdw : r ≠ .tdw) (hodw : r ≠ .odw) :
    SetsReg s t (iSetD hd.line) (setValue hd.line r ((s.tile t).greg (iSetA hd.line)) ((s.tile t).greg (iSetB hd.line)) s.pg.time)
      (.next (issueSimple s t .prog r .clean)) := by
  obtain ⟨honly, htile⟩ := issueSimple_set h hr
  obtain ⟨ha, hb⟩ := operands_of_isSet (s.tile t) hd.line hr
  rw [setEffect_reg _ _ htdw hodw, ha, hb] at htile
  refine ⟨_, rfl, honly, fun n => ?_, ?_⟩
  · rw [htile, greg_setG, greg_issuedProg]
    rfl
  · rw [htile]
    exact setG_eq _ _ _

theorem setWritesRegister : Claims.SetWritesRegister := by
  intro s t hd l x a b d
  refine ⟨fun h => ?_, fun h => ?_, fun h => ?_, fun h => ?_, fun h => ?_, fun h => ?_, fun h => ?_, fun h => ?_⟩
  all_goals exact setsReg_of_progReady h rfl (by decide) (by decide)

/-- What TDW and ODW do to the list of words that hold an error is to take entries off it. -/
theorem setWritesTables : Claims.SetWritesTables := by
  intro s t hd l x v
  refine ⟨fun h => ?_, fun h => ?_⟩
  all_goals
    obtain ⟨honly, htile⟩ := issueSimple_set h rfl
    refine ⟨_, rfl, honly, fun k => ?_, ?_, fun b hb => ?_⟩
    · rw [htile]
      exact get_putDWord _ _ _ _
    · rw [htile]
      rfl
    · rw [htile] at hb
      exact List.mem_of_mem_filter hb

/-- Settles O6: every register row is one use of `setsReg_of_progReady`, and both table rows write by `putDWord`. -/
theorem setWrites : Obligations.SetWrites := by
  unfold Obligations.SetWrites
  exact ⟨setWritesRegister, setWritesTables⟩

/-! ## Branches, HALT and NOP (R62) -/

theorem atIssue_cases {r : Row} (h : r.atIssue = true) : r = .jmp ∨ r = .br ∨ r = .halt ∨ r.isSet = true := by
  cases r <;> simp_all [Row.atIssue, Row.isSet]

/-- SET and control flow take effect as they issue, whatever has not launched before them (R61, R62). -/
theorem goOn_atIssue {h : HeldInstr} (hat : (rowOf h.line).atIssue = true) (s : State) (t ord : Nat) (src : Source) :
    goOn s t src ord h = simpleEffect s t src ord { h with launch := atLaunch s h.launch } := by
  simp [goOn, hat]

/-- A word that passes its issue checks breaks no rule of its form. -/
theorem wordBad_of_issueCode {s : State} {t : Nat} {l : Line} {ring : Bool} (h : issueCode s t l ring = none) :
    wordBad l ring = false := by
  by_contra hbad
  rw [Bool.not_eq_false] at hbad
  simp [issueCode, rankCode, hbad] at h

theorem bodyBad_of_issueCode {s : State} {t : Nat} {l : Line} {ring : Bool} (h : issueCode s t l ring = none) :
    bodyBad l (rowOf l) = false := by
  have hword := wordBad_of_issueCode h
  simp only [wordBad, Bool.or_eq_false_iff] at hword
  obtain ⟨-, hbody⟩ := hword
  exact hbody

theorem branchTaken_iff (l : Line) (a b : DWord) (hc : iBrCond l < 6) :
    branchTaken l a b = true ↔ brTaken (iBrCond l) a (b + iImm l) := by
  have hcond : iBrCond l = 0 ∨ iBrCond l = 1 ∨ iBrCond l = 2 ∨ iBrCond l = 3 ∨ iBrCond l = 4 ∨ iBrCond l = 5 := by omega
  obtain hc | hc | hc | hc | hc | hc := hcond <;> simp [branchTaken, brTaken, hc, BitVec.lt_def, BitVec.le_def]

theorem rowOf_of_progReady {s : State} {t : Nat} {hd : Head} {r : Row} (h : ProgReady s t hd r) : rowOf hd.line = r := by
  obtain ⟨-, -, hrow⟩ := h
  exact hrow

theorem movesPc_of_tile {s u : State} {t pc : Nat} {stop : Bool} (honly : OnlyTile s u t)
    (htile : u.tile t = { issuedProg (s.tile t) with pc := pc, stopping := stop || (s.tile t).stopping }) :
    MovesPc s t pc stop (.next u) :=
  ⟨u, rfl, honly, htile⟩

/-- A program instruction without a launch time whose effect is on its tile alone leaves the tile that its head has left as that
effect makes it. -/
theorem issueSimple_tileEffect {s : State} {t : Nat} {hd : Head} {r : Row} (f : Tile → Tile) (h : ProgReady s t hd r)
    (hfull : pendFull (s.tile t) .prog r = false)
    (hgo : ∀ u ord, goOn u t .prog ord (captureHeld s t .prog hd) = u.setTile t (f (u.tile t))) :
    OnlyTile s (issueSimple s t .prog r .clean) t
      ∧ (issueSimple s t .prog r .clean).tile t = f (issuedProg (s.tile t)) := by
  rw [issueSimple_of_progReady h hfull, hgo]
  obtain ⟨⟨-, hhead, -, -, -⟩, -, -⟩ := h
  rw [tile_popHead_prog (hold_of_headOf hhead)]
  exact ⟨onlyTile_trans (popHead_prog_onlyTile s t) (onlyTile_setTile _ _ _), by simp⟩

theorem launchKind_captureHeld (s : State) (t : Nat) (src : Source) (hd : Head) :
    (captureHeld s t src hd).launch.kind = iLaunch hd.line := rfl

/-- The end of a program instruction that is not launched by time leaves the state as its effect made it. -/
theorem finishDone_captured {s : State} {t : Nat} {hd : Head} {r : Row} (h : ProgReady s t hd r) (u v : State) :
    finishDone u t (captureHeld s t .prog hd).entry (captureHeld s t .prog hd).line
      (atLaunch v (captureHeld s t .prog hd).launch) false = u := by
  obtain ⟨⟨-, hhead, -, -, -⟩, ⟨-, hlaunch⟩, -⟩ := h
  have hentry : (captureHeld s t .prog hd).entry = none := entry_of_headOf_prog hhead
  rw [hentry]
  exact finishDone_prog_of_kind_zero u t _ hlaunch false

theorem issueSimple_jmp {s : State} {t : Nat} {hd : Head} (h : ProgReady s t hd .jmp) :
    MovesPc s t (iTarget hd.line) false (.next (issueSimple s t .prog .jmp .clean)) := by
  have hrow : rowOf (captureHeld s t .prog hd).line = .jmp := rowOf_of_progReady h
  obtain ⟨honly, htile⟩ := issueSimple_tileEffect (fun x => { x with pc := iTarget hd.line }) h rfl (fun u ord => by
    rw [goOn_atIssue (by rw [hrow]; rfl)]
    simp only [simpleEffect, hrow]
    exact finishDone_captured h _ _)
  exact movesPc_of_tile honly htile

theorem issueSimple_br {s : State} {t : Nat} {hd : Head} (h : ProgReady s t hd .br) :
    MovesPc s t (if branchTaken hd.line ((s.tile t).greg (iBrA hd.line)) ((s.tile t).greg (iBrB hd.line)) = true
      then iTarget hd.line else (s.tile t).pc) false (.next (issueSimple s t .prog .br .clean)) := by
  have hrow : rowOf hd.line = .br := rowOf_of_progReady h
  have hrow' : rowOf (captureHeld s t .prog hd).line = .br := hrow
  obtain ⟨honly, htile⟩ := issueSimple_tileEffect
    (fun x => if branchTaken hd.line ((s.tile t).greg (iBrA hd.line)) ((s.tile t).greg (iBrB hd.line)) = true
      then { x with pc := iTarget hd.line } else x) h rfl (fun u ord => by
    rw [goOn_atIssue (by rw [hrow']; rfl)]
    simp only [simpleEffect, hrow']
    rw [finishDone_captured h]
    simp [captureHeld, hrow, operandA, operandB])
  refine movesPc_of_tile honly (htile.trans ?_)
  split <;> rfl

theorem issueSimple_halt {s : State} {t : Nat} {hd : Head} (h : ProgReady s t hd .halt) :
    MovesPc s t (s.tile t).pc true (.next (issueSimple s t .prog .halt .clean)) := by
  have hrow : rowOf (captureHeld s t .prog hd).line = .halt := rowOf_of_progReady h
  obtain ⟨honly, htile⟩ := issueSimple_tileEffect (fun x => { x with stopping := true }) h rfl (fun u ord => by
    rw [goOn_atIssue (by rw [hrow]; rfl)]
    simp only [simpleEffect, hrow]
    exact finishDone_captured h _ _)
  exact movesPc_of_tile honly htile

/-! ## The turn of an instruction (R43) -/

/-- The next instruction of a source that has launched all before it finds its turn come. -/
theorem launchedBefore_of_unheld {s : State} {t : Nat} {src : Source} {l : Line} (h : Unheld s t src l) :
    launchedBefore (s.tile t) src (((s.tile t).source src).ord + 1) = true := by
  obtain ⟨-, -, hstreams, hissued⟩ := h
  simp only [launchedBefore, Bool.and_eq_true, List.all_eq_true, Bool.or_eq_true, decide_eq_true_eq]
  refine ⟨fun p hp => ?_, fun i hi => ?_⟩
  · by_cases hsrc : p.2.src = src
    · by_cases hord : p.2.ord ≤ ((s.tile t).source src).ord
      · exact .inl (.inl (hstreams p hp hsrc hord))
      · exact .inr (by omega)
    · exact .inl (.inr hsrc)
  · by_cases hsrc : i.src = src
    · have := hissued i hi hsrc
      exact .inr (by omega)
    · exact .inl hsrc

theorem issueSimple_nop {s : State} {t : Nat} {hd : Head} (h : ProgReady s t hd .nop) (hun : Unheld s t .prog hd.line) :
    MovesPc s t (s.tile t).pc false (.next (issueSimple s t .prog .nop .clean)) := by
  have hrow : rowOf (captureHeld s t .prog hd).line = .nop := rowOf_of_progReady h
  have hfin := finishDone_captured h (popHead s t .prog) (popHead s t .prog)
  have hissue := issueSimple_of_progReady h rfl
  obtain ⟨⟨-, hhead, -, -, hjob⟩, -, -⟩ := h
  have htile := tile_popHead_prog (s := s) (t := t) (hold_of_headOf hhead)
  have hentry : (captureHeld s t .prog hd).entry = none := entry_of_headOf_prog hhead
  have hturn : turnCome (popHead s t .prog) t .prog (((popHead s t .prog).tile t).source .prog).ord
      (captureHeld s t .prog hd).entry = true := by
    rw [turnCome, htile, hentry]
    simpa [jobParked, issuedProg, Tile.source, launchedBefore] using launchedBefore_of_unheld hun
  have hgo : issueSimple s t .prog .nop .clean = popHead s t .prog := by
    rw [hissue, goOn, hturn, Bool.or_true, if_pos rfl]
    simp only [simpleEffect, hrow]
    exact hfin
  rw [hgo]
  exact movesPc_of_tile (popHead_prog_onlyTile s t) htile

/-- Settles O8: the comparison of a BR is `brTaken` for the six conditions that pass the issue checks. JMP, BR and HALT take effect
while earlier instructions have not launched (DEDUCED, log 18), a NOP in its turn. -/
theorem branchesMovePc : Obligations.BranchesMovePc := by
  unfold Obligations.BranchesMovePc
  intro s t hd l x b
  have htaken : ProgReady s t hd .br →
      (branchTaken l (x.greg (iBrA l)) (x.greg (iBrB l)) = true ↔ brTaken (iBrCond l) (x.greg (iBrA l)) b) := by
    rintro ⟨⟨-, -, -, hcode, -⟩, -, hrow⟩
    have hbody := bodyBad_of_issueCode hcode
    rw [hrow] at hbody
    exact branchTaken_iff l _ _ (by simpa [bodyBad] using hbody)
  refine ⟨issueSimple_jmp, fun h hb => ?_, fun h hb => ?_, issueSimple_nop, issueSimple_halt⟩
  · have hmove := issueSimple_br h
    rwa [if_pos ((htaken h).mpr hb)] at hmove
  · have hmove := issueSimple_br h
    rwa [if_neg (fun ht => hb ((htaken h).mp ht))] at hmove

end Sys2Proof.Proofs
end

section
/-! SUPPORT. The fields of a tile that an update of a source leaves, messages of one flit, and what the end of an instruction leaves
alone (`Sweeps`). -/

namespace Sys2Proof.Proofs

open Sys2Proof Sys2Proof.Machine

/-! ## Sources of a tile -/

/-- An update of a source changes the state of the program or of the rings alone. -/
theorem setSource_eq (x : Tile) (src : Source) (v : SourceSt) :
    x.setSource src v = { x with prog := (x.setSource src v).prog, rings := (x.setSource src v).rings } := by
  cases src <;> rfl

@[simp] theorem source_setSource (x : Tile) (src k : Source) (v : SourceSt) :
    (x.setSource src v).source k = if k = src then v else x.source k := by
  cases src <;> cases k <;> simp [Tile.setSource, Tile.source, Tab.get_put]

@[simp] theorem seq_setSource (x : Tile) (src : Source) (v : SourceSt) : (x.setSource src v).seq = x.seq := by rw [setSource_eq]
@[simp] theorem pc_setSource (x : Tile) (src : Source) (v : SourceSt) : (x.setSource src v).pc = x.pc := by rw [setSource_eq]
@[simp] theorem g_setSource (x : Tile) (src : Source) (v : SourceSt) : (x.setSource src v).g = x.g := by rw [setSource_eq]
@[simp] theorem tdt_setSource (x : Tile) (src : Source) (v : SourceSt) : (x.setSource src v).tdt = x.tdt := by rw [setSource_eq]
@[simp] theorem odt_setSource (x : Tile) (src : Source) (v : SourceSt) : (x.setSource src v).odt = x.odt := by rw [setSource_eq]
@[simp] theorem fetched_setSource (x : Tile) (src : Source) (v : SourceSt) : (x.setSource src v).fetched = x.fetched := by
  rw [setSource_eq]
@[simp] theorem fetchPc_setSource (x : Tile) (src : Source) (v : SourceSt) : (x.setSource src v).fetchPc = x.fetchPc := by
  rw [setSource_eq]
@[simp] theorem streams_setSource (x : Tile) (src : Source) (v : SourceSt) : (x.setSource src v).streams = x.streams := by
  rw [setSource_eq]
@[simp] theorem issued_setSource (x : Tile) (src : Source) (v : SourceSt) : (x.setSource src v).issued = x.issued := by
  rw [setSource_eq]
@[simp] theorem pendProg_setSource (x : Tile) (src : Source) (v : SourceSt) : (x.setSource src v).pendProg = x.pendProg := by
  rw [setSource_eq]
@[simp] theorem pendRing_setSource (x : Tile) (src : Source) (v : SourceSt) : (x.setSource src v).pendRing = x.pendRing := by
  rw [setSource_eq]
@[simp] theorem inq_setSource (x : Tile) (src : Source) (v : SourceSt) : (x.setSource src v).inq = x.inq := by rw [setSource_eq]
@[simp] theorem fences_setSource (x : Tile) (src : Source) (v : SourceSt) : (x.setSource src v).fences = x.fences := by
  rw [setSource_eq]
@[simp] theorem barCnt_setSource (x : Tile) (src : Source) (v : SourceSt) : (x.setSource src v).barCnt = x.barCnt := by
  rw [setSource_eq]
@[simp] theorem xwatches_setSource (x : Tile) (src : Source) (v : SourceSt) : (x.setSource src v).xwatches = x.xwatches := by
  rw [setSource_eq]
@[simp] theorem xheld_setSource (x : Tile) (src : Source) (v : SourceSt) : (x.setSource src v).xheld = x.xheld := by
  rw [setSource_eq]

@[simp] theorem pend_setSource (x : Tile) (src : Source) (v : SourceSt) (ring : Bool) :
    (x.setSource src v).pend ring = x.pend ring := by
  simp [Tile.pend]

/-! ## Pending-signal queues -/

@[simp] theorem pend_setPend (x : Tile) (ring b : Bool) (q : List PendSig) :
    (x.setPend ring q).pend b = if b = ring then q else x.pend b := by
  cases ring <;> cases b <;> rfl

/-- An update of a pending-signal queue changes the two queues alone. -/
theorem setPend_eq (x : Tile) (ring : Bool) (q : List PendSig) :
    x.setPend ring q = { x with pendProg := (x.setPend ring q).pendProg, pendRing := (x.setPend ring q).pendRing } := by
  cases ring <;> rfl

@[simp] theorem source_setPend (x : Tile) (ring : Bool) (q : List PendSig) (src : Source) :
    (x.setPend ring q).source src = x.source src := by
  rw [setPend_eq]
  cases src <;> rfl
@[simp] theorem g_setPend (x : Tile) (ring : Bool) (q : List PendSig) : (x.setPend ring q).g = x.g := by rw [setPend_eq]
@[simp] theorem pc_setPend (x : Tile) (ring : Bool) (q : List PendSig) : (x.setPend ring q).pc = x.pc := by rw [setPend_eq]
@[simp] theorem barCnt_setPend (x : Tile) (ring : Bool) (q : List PendSig) : (x.setPend ring q).barCnt = x.barCnt := by
  rw [setPend_eq]

/-! ## Messages of one flit -/

/-- The flit that `post` puts in flight for a message of one flit. -/
def oneFlit (s : State) (cls : Cls) (src dst : Node) (tail : List Point) (slack : Int) (prio : Nat) (body : Body) : Msg :=
  { cls := cls, src := src, dst := dst, slack := slack, stamp := slack, prio := prio, flits := 1, index := 0
    route := GenConfig.route s.gen src dst ++ tail, inp := Node.num src, done := 0, got := [], sats := 0, bad := false
    again := false, body := body }

theorem post_one (s : State) (cls : Cls) (src dst : Node) (tail : List Point) (slack : Int) (prio : Nat) (body : Body) :
    post s cls src dst tail slack prio 1 body =
      { s with prom := { s.prom with net := s.prom.net ++ [oneFlit s cls src dst tail slack prio body] } } := by
  simp only [post, Msg.split]
  split <;> rfl

theorem postSmall_eq (s : State) (cls : Cls) (src dst : Node) (body : Body) : postSmall s cls src dst body =
    { s with prom := { s.prom with net := s.prom.net ++ [oneFlit s cls src dst [] 0 0 body] } } :=
  post_one s cls src dst [] 0 0 body

theorem sendUpd_home {s : State} {src : Node} {u : Upd} (h : u.express = false) : sendUpd s src u =
    { s with prom := { s.prom with net := s.prom.net ++ [oneFlit s .lodge src (.lodge (homeBank s u.cid)) [] 0 0 (.upd u)] } } := by
  rw [sendUpd, if_neg (by simp [h]), postSmall_eq]

theorem sendUpd_express {s : State} {src : Node} {u : Upd} (h : u.express = true) : sendUpd s src u =
    { s with lodge := { s.lodge with xupds := s.lodge.xupds ++ [u] } } := by
  rw [sendUpd, if_pos h]

@[simp] theorem tile_sendUpd (s : State) (src : Node) (u : Upd) (t : Nat) : (sendUpd s src u).tile t = s.tile t := by
  unfold sendUpd
  split <;> rfl

@[simp] theorem spad_sendUpd (s : State) (src : Node) (u : Upd) : (sendUpd s src u).spad = s.spad := by
  unfold sendUpd
  split <;> rfl

/-! ## What the end of an instruction leaves alone -/

/-- Tile `x` with the parts of `y` that the end of an instruction may change: the state of the sources and their queues, the streams'
conditions, watches, the notes of broken jobs, registers that a CLAIM writes, and the record of lateness. -/
def sweptTile (x y : Tile) : Tile :=
  { x with g := y.g, streams := y.streams, prog := y.prog, rings := y.rings, issued := y.issued, pendRing := y.pendRing
           inq := y.inq, broken := y.broken, fullRegs := y.fullRegs, xwatches := y.xwatches, xheld := y.xheld
           lateCount := y.lateCount, late := y.late, lateMax := y.lateMax }

/-- From `s` to `u` only those parts of the tiles, the gatehouse, the record of scope mismatches and the messages in flight have
changed; no completion has gone and no stream has come. -/
structure Sweeps (s u : State) : Prop where
  state : u = { s with tiles := u.tiles, gate := u.gate, lodge := { s.lodge with mm := u.lodge.mm, mmCount := u.lodge.mmCount }
                       prom := { s.prom with net := u.prom.net } }
  tile : ∀ j, u.tile j = sweptTile (s.tile j) (u.tile j)
  comps : ∀ q, (s.ring q).comps <+: (u.ring q).comps
  streams : ∀ j n, s.stream? j n = none → u.stream? j n = none

theorem Sweeps.refl (s : State) : Sweeps s s := ⟨rfl, fun _ => rfl, fun _ => List.prefix_rfl, fun _ _ h => h⟩

theorem Sweeps.trans {s u v : State} (h : Sweeps s u) (g : Sweeps u v) : Sweeps s v where
  state := by
    have hv := g.state
    rw [h.state] at hv
    exact hv
  tile j := by
    have hv := g.tile j
    rw [h.tile j] at hv
    exact hv
  comps q := (h.comps q).trans (g.comps q)
  streams j n hn := g.streams j n (h.streams j n hn)

theorem Sweeps.spad {s u : State} (h : Sweeps s u) : u.spad = s.spad := by rw [h.state]
theorem Sweeps.pg {s u : State} (h : Sweeps s u) : u.pg = s.pg := by rw [h.state]
theorem Sweeps.gen {s u : State} (h : Sweeps s u) : u.gen = s.gen := by rw [h.state]
theorem Sweeps.cpc {s u : State} (h : Sweeps s u) : u.cpc = s.cpc := by rw [h.state]
theorem Sweeps.keeper {s u : State} (h : Sweeps s u) : u.keeper = s.keeper := by rw [h.state]
theorem Sweeps.seq {s u : State} (h : Sweeps s u) (j : Nat) : (u.tile j).seq = (s.tile j).seq := by rw [h.tile j]; rfl
theorem Sweeps.fault {s u : State} (h : Sweeps s u) (j : Nat) : (u.tile j).fault = (s.tile j).fault := by rw [h.tile j]; rfl
theorem Sweeps.pendProg {s u : State} (h : Sweeps s u) (j : Nat) : (u.tile j).pendProg = (s.tile j).pendProg := by
  rw [h.tile j]; rfl

theorem Sweeps.mem_comps {s u : State} (h : Sweeps s u) {q : Nat} {c : Comp} (hc : c ∈ (s.ring q).comps) :
    c ∈ (u.ring q).comps :=
  (h.comps q).subset hc

/-- A tile replaced by one that differs in those parts, and has no stream more. -/
theorem sweeps_setTile (s : State) (t : Nat) (y : Tile) (hy : y = sweptTile (s.tile t) y)
    (hn : ∀ n, Tab.find (s.tile t).streams n = none → Tab.find y.streams n = none) : Sweeps s (s.setTile t y) where
  state := rfl
  tile j := by
    by_cases hj : j = t
    · subst hj
      simpa using hy
    · simp [hj]
      rfl
  comps _ := List.prefix_rfl
  streams j n := by
    by_cases hj : j = t
    · subst hj
      simpa [State.stream?] using hn n
    · simp [State.stream?, hj]

/-- The same where the streams stay. -/
theorem sweeps_setTile_of_streams (s : State) (t : Nat) (y : Tile) (hy : y = sweptTile (s.tile t) y)
    (hs : y.streams = (s.tile t).streams) : Sweeps s (s.setTile t y) :=
  sweeps_setTile s t y hy (fun n hn => by rwa [hs])

/-- A state that differs in the gatehouse alone, with no completion less. -/
theorem sweeps_gate (s : State) (g : Gate)
    (hc : ∀ q, (s.ring q).comps <+: (Tab.get g.rings Ring.init q).comps) : Sweeps s { s with gate := g } :=
  ⟨rfl, fun _ => rfl, hc, fun _ _ h => h⟩

theorem rings_raise (s : State) (e t n ring detail : Nat) : (raise s e t n ring detail).gate.rings = s.gate.rings := by
  unfold raise
  split
  · dsimp only
    split <;> rfl
  · rfl

theorem sweeps_raise (s : State) (e t n ring detail : Nat) : Sweeps s (raise s e t n ring detail) := by
  rw [raise_eq]
  exact sweeps_gate s _ (fun q => by rw [rings_raise]; exact List.prefix_rfl)

theorem sweeps_post (s : State) (cls : Cls) (src dst : Node) (tail : List Point) (slack : Int) (prio flits : Nat) (body : Body) :
    Sweeps s (post s cls src dst tail slack prio flits body) :=
  ⟨rfl, fun _ => rfl, fun _ => List.prefix_rfl, fun _ _ h => h⟩

theorem sweeps_scopeMm (s : State) (isBar : Bool) (t n rel acq cid : Nat) : Sweeps s (scopeMm s isBar t n rel acq cid) := by
  refine Sweeps.trans ?_ (sweeps_raise ..)
  exact ⟨rfl, fun _ => rfl, fun _ => List.prefix_rfl, fun _ _ h => h⟩

theorem sweeps_setSource (s : State) (t : Nat) (src : Source) (v : SourceSt) :
    Sweeps s (s.setTile t ((s.tile t).setSource src v)) :=
  sweeps_setTile_of_streams s t _ (by rw [setSource_eq]; rfl) (streams_setSource _ _ _)

theorem sweeps_clearHold (s : State) (t : Nat) (src : Source) : Sweeps s (clearHold s t src) := sweeps_setSource s t src _

theorem sweeps_noteWait (s : State) (t : Nat) (src : Source) (c : Nat) : Sweeps s (noteWait s t src c) := sweeps_setSource s t src _

theorem sweeps_judgeLate (s : State) (t n : Nat) (ring : Bool) (l cause : Nat) : Sweeps s (judgeLate s t n ring l cause) := by
  unfold judgeLate
  dsimp only
  split
  · exact .refl s
  · split
    · refine Sweeps.trans ?_ (sweeps_raise _ _ _ _ _ _)
      exact sweeps_setTile_of_streams s t _ rfl rfl
    · exact sweeps_setTile_of_streams s t _ rfl rfl

theorem sweeps_setRing (s : State) (q : Nat) (r : Ring) (hr : (s.ring q).comps <+: r.comps) : Sweeps s (s.setRing q r) :=
  sweeps_gate s _ (fun k => by
    change _ <+: ((s.setRing q r).ring k).comps
    rw [ring_setRing]
    split
    next h => rwa [h]
    next => exact List.prefix_rfl)

theorem sweeps_addComp (s : State) (e : EntryRef) (c : CompArgs) : Sweeps s (addComp s e c) := by
  refine Sweeps.trans ?_ (sweeps_setRing _ _ _ (List.prefix_append _ _))
  exact sweeps_gate s _ (fun _ => List.prefix_rfl)

theorem sweeps_badChain (s : State) (e : EntryRef) (tag : Nat) : Sweeps s (badChain s e tag) := sweeps_addComp s e _

theorem sweeps_finishDone (s : State) (t : Nat) (entry : Option EntryRef) (l : Line) (la : LaunchSt) (claimed : Bool) :
    Sweeps s (finishDone s t entry l la claimed) := by
  cases entry with
  | none => exact sweeps_judgeLate ..
  | some e => exact (sweeps_judgeLate ..).trans (sweeps_addComp ..)

theorem sweeps_setG (s : State) (t n : Nat) (v : DWord) : Sweeps s (s.setTile t ((s.tile t).setG n v)) :=
  sweeps_setTile_of_streams s t _ (by rw [setG_eq]; rfl) (by rw [setG_eq])

theorem sweeps_completeWait (s : State) (t : Nat) (src : Source) (w : WaitSt) (result : Nat) :
    Sweeps s (completeWait s t src w result) := by
  unfold completeWait
  refine Sweeps.trans ?_ (sweeps_noteWait ..)
  refine Sweeps.trans ?_ (sweeps_finishDone ..)
  split
  · exact (sweeps_clearHold s t src).trans (sweeps_setG ..)
  · exact sweeps_clearHold s t src

/-- A stream that the tile holds is replaced. -/
theorem sweeps_setStream {s : State} {t n : Nat} {st : Stream} (h : s.stream? t n = some st) (x : Stream) :
    Sweeps s (s.setStream t n x) := by
  refine sweeps_setTile s t _ rfl (fun m hm => ?_)
  have hne : m ≠ n := by
    rintro rfl
    rw [State.stream?, hm] at h
    cases h
  rw [Tab.find_put_of_ne _ _ hne, hm]

theorem sweeps_freeStream (s : State) (t n : Nat) : Sweeps s (s.freeStream t n) := by
  refine sweeps_setTile s t _ rfl (fun m hm => ?_)
  dsimp only
  rw [Tab.find_erase, hm, ite_self]

theorem sweeps_wake (s : State) (r : Reg) (result : Nat) : Sweeps s (wake s r result).1 := by
  unfold wake
  dsimp only
  split
  · split
    · exact .refl s
    next st hst =>
      split
      · exact sweeps_setStream hst _
      · exact .refl s
  · split
    · split
      · exact sweeps_setSource ..
      · exact .refl s
    · split
      · exact sweeps_completeWait ..
      · exact .refl s
    · exact .refl s

theorem sweeps_compareScope (s : State) (rel : Option Rel) (acq : Nat) (w : Waiter) (cid : Nat) :
    Sweeps s (compareScope s rel acq w cid) := by
  unfold compareScope
  split
  · exact .refl s
  · split
    · exact sweeps_scopeMm ..
    · exact .refl s

theorem sweeps_registerX (s : State) (r : Reg) : Sweeps s (registerX s r) := by
  unfold registerX
  dsimp only
  split
  · exact (sweeps_compareScope ..).trans (sweeps_wake ..)
  · split
    · exact sweeps_setTile_of_streams s _ _ rfl rfl
    · exact sweeps_setTile_of_streams s _ _ rfl rfl

theorem Sweeps.foldl {α : Type} {f : State → α → State} (hf : ∀ s a, Sweeps s (f s a)) (l : List α) (s : State) :
    Sweeps s (l.foldl f s) := by
  induction l generalizing s with
  | nil => exact .refl s
  | cons a l ih => exact (hf s a).trans (ih (f s a))

theorem sweeps_takeHeld (s : State) (t : Nat) : Sweeps s (takeHeld s t) := by
  refine Sweeps.trans ?_ (.foldl sweeps_registerX _ _)
  exact sweeps_setTile_of_streams s t _ rfl rfl

theorem sweeps_withdrawReg (s : State) (r : Reg) : Sweeps s (withdrawReg s r) := by
  unfold withdrawReg
  dsimp only
  split
  · refine Sweeps.trans ?_ (sweeps_takeHeld ..)
    exact sweeps_setTile_of_streams s _ _ rfl rfl
  · refine Sweeps.trans ?_ (sweeps_post ..)
    exact sweeps_setTile_of_streams s _ _ rfl rfl

theorem sweeps_withdrawConds (s : State) (t : Nat) (stream : Option Nat) (src : Source) (ord : Nat) (cs : List Cond) :
    Sweeps s (withdrawConds s t stream src ord cs) :=
  .foldl (fun u p => by
    split
    · exact .refl u
    · exact sweeps_withdrawReg ..) _ _

theorem sweeps_withdrawHold (s : State) (t : Nat) (src : Source) : Sweeps s (withdrawHold s t src) := by
  unfold withdrawHold
  split
  · exact .refl s
  · exact sweeps_withdrawConds ..
  · exact sweeps_withdrawReg ..
  · exact .refl s

/-! ## Broken jobs (R321) -/

theorem sweeps_noteBroken (s : State) (b : EntryRef) : Sweeps s (noteBroken s b) := by
  refine Sweeps.trans (u := s.setRing b.ring { s.ring b.ring with broken := (s.ring b.ring).broken ++ [b] }) ?_ ?_
  · exact sweeps_setRing s _ _ List.prefix_rfl
  · exact sweeps_setTile_of_streams _ _ _ rfl rfl

/-- What source order does to the launch records of those behind an instruction leaves the rest of the tile, and which streams it
holds. -/
theorem orderCleared_eq (x : Tile) (src : Source) (ord : Nat) : orderCleared x src ord =
    { x with streams := (orderCleared x src ord).streams, issued := (orderCleared x src ord).issued
             prog := (orderCleared x src ord).prog, rings := (orderCleared x src ord).rings } := by
  unfold orderCleared
  dsimp only
  split
  · split
    · rw [setSource_eq]
    · rfl
  · rfl

theorem streams_orderCleared (x : Tile) (src : Source) (ord : Nat) : (orderCleared x src ord).streams =
    x.streams.map (fun p => (p.1, if p.2.src = src ∧ ord < p.2.ord ∧ !p.2.launched then
      { p.2 with launch := p.2.launch.ordered } else p.2)) := by
  have hmap : (orderCleared x src ord).streams = x.streams.map (fun p =>
      if p.2.src = src ∧ ord < p.2.ord ∧ !p.2.launched then (p.1, { p.2 with launch := p.2.launch.ordered }) else p) := by
    unfold orderCleared
    dsimp only
    split
    · split
      · rw [streams_setSource]
      · rfl
    · rfl
  rw [hmap]
  refine List.map_congr_left (fun p _ => ?_)
  split <;> rfl

theorem find_streams_orderCleared (x : Tile) (src : Source) (ord n : Nat) : Tab.find (orderCleared x src ord).streams n =
    (Tab.find x.streams n).map (fun st => if st.src = src ∧ ord < st.ord ∧ !st.launched then
      { st with launch := st.launch.ordered } else st) := by
  rw [streams_orderCleared]
  exact Tab.find_map (fun _ st => if st.src = src ∧ ord < st.ord ∧ !st.launched then
    { st with launch := st.launch.ordered } else st) x.streams n

/-- Issued instructions that leave a tile without having launched clear the order of those behind them, and change no more. -/
theorem dropIssued_eq (x : Tile) (p : IssuedInstr → Bool) : dropIssued x p =
    { x with streams := (dropIssued x p).streams, issued := (dropIssued x p).issued
             prog := (dropIssued x p).prog, rings := (dropIssued x p).rings } := by
  have hfold (l : List IssuedInstr) (y : Tile) : l.foldl (fun x i => orderCleared x i.src i.ord) y =
      { y with streams := (l.foldl (fun x i => orderCleared x i.src i.ord) y).streams
               issued := (l.foldl (fun x i => orderCleared x i.src i.ord) y).issued
               prog := (l.foldl (fun x i => orderCleared x i.src i.ord) y).prog
               rings := (l.foldl (fun x i => orderCleared x i.src i.ord) y).rings } := by
    induction l generalizing y with
    | nil => rfl
    | cons i l ih =>
      rw [List.foldl_cons, ih]
      rw [orderCleared_eq]
  exact hfold _ _

theorem find_streams_dropIssued (x : Tile) (p : IssuedInstr → Bool) (n : Nat) :
    (Tab.find (dropIssued x p).streams n).isSome = (Tab.find x.streams n).isSome := by
  have hfold (l : List IssuedInstr) (y : Tile) : (Tab.find (l.foldl (fun x i => orderCleared x i.src i.ord) y).streams n).isSome =
      (Tab.find y.streams n).isSome := by
    induction l generalizing y with
    | nil => rfl
    | cons i l ih => rw [List.foldl_cons, ih, find_streams_orderCleared, Option.isSome_map]
  exact hfold _ _

theorem sweeps_orderCleared (s : State) (t : Nat) (src : Source) (ord : Nat) :
    Sweeps s (s.setTile t (orderCleared (s.tile t) src ord)) := by
  refine sweeps_setTile s t _ (by rw [orderCleared_eq]; rfl) (fun n hn => ?_)
  rw [find_streams_orderCleared, hn, Option.map_none]

theorem sweeps_sweepTile (s : State) (b : EntryRef) : Sweeps s (sweepTile s b) := by
  unfold sweepTile
  extract_lets r t k x q badQ isBadP badP isBadI badI s1 s2 s3 s4 src
  have hdrop : Sweeps s s1 := by
    refine sweeps_setTile s t _ (by rw [dropIssued_eq]; rfl) (fun n hn => ?_)
    have := find_streams_dropIssued { x with inq := Tab.put x.inq k (q.filter (fun e => !inBroken b e.ref))
                                             pendRing := x.pendRing.filter (fun p => !isBadP p) } isBadI n
    rw [show Tab.find x.streams n = none from hn] at this
    simpa using this
  have hqueue : Sweeps s1 s2 := .foldl (fun u e => sweeps_badChain ..) _ _
  have hpend : Sweeps s2 s3 := .foldl (fun u p => by
    split
    · exact sweeps_badChain ..
    · exact .refl u) _ _
  have hissued : Sweeps s3 s4 := .foldl (fun u i => by
    split
    · exact sweeps_badChain ..
    · exact .refl u) _ _
  have h4 := ((hdrop.trans hqueue).trans hpend).trans hissued
  split
  · split
    · split
      · exact h4.trans (sweeps_clearHold ..)
      · exact h4
    · exact h4
  · split
    · split
      · exact ((h4.trans (sweeps_withdrawHold ..)).trans (sweeps_clearHold ..)).trans (sweeps_badChain ..)
      · exact h4
    · exact h4

theorem sweeps_sweepStreams (s : State) (b : EntryRef) : Sweeps s (sweepStreams s b) :=
  .foldl (fun u n => by
    split
    · exact .refl u
    · split
      · split
        · exact (((sweeps_withdrawConds ..).trans (sweeps_freeStream ..)).trans (sweeps_orderCleared ..)).trans (sweeps_badChain ..)
        · exact .refl u
      · exact .refl u) _ _

theorem sweeps_breakJob (s : State) (b : EntryRef) : Sweeps s (breakJob s b) :=
  ((sweeps_noteBroken s b).trans (sweeps_sweepTile ..)).trans (sweeps_sweepStreams ..)

end Sys2Proof.Proofs
end

section
/-! SUPPORT. What issue does to a source (R39, R43, R51): its head leaves, and an instruction without a stream takes effect, waits for
its turn or is held. -/

namespace Sys2Proof.Proofs

open Sys2Proof Sys2Proof.Machine

/-! ## The head of a source leaves -/

/-- The tile after the head of a source has left it. -/
def leftHead (x : Tile) (src : Source) : Tile :=
  let y := x.setSource src { x.source src with ord := (x.source src).ord + 1, issueWait := 0 }
  match src with
  | .prog => { y with fetched := none }
  | .ring k => { y with inq := Tab.put y.inq k ((Tab.get y.inq [] k).drop 1) }

theorem tile_popHead (s : State) (t : Nat) (src : Source) : (popHead s t src).tile t = leftHead (s.tile t) src := by
  cases src with
  | prog => simp [popHead, leftHead]
  | ring k =>
    simp only [popHead, leftHead]
    split
    · rw [tile_postSmall, tile_setTile, if_pos rfl]
    · rw [tile_setTile, if_pos rfl]

theorem leftHead_eq (x : Tile) (src : Source) : leftHead x src =
    { x with fetched := (leftHead x src).fetched, inq := (leftHead x src).inq, prog := (leftHead x src).prog
             rings := (leftHead x src).rings } := by
  cases src <;> rfl

@[simp] theorem source_leftHead (x : Tile) (src : Source) : (leftHead x src).source src =
    { x.source src with ord := (x.source src).ord + 1, issueWait := 0 } := by
  cases src <;> simp [leftHead, Tile.source, Tile.setSource]

@[simp] theorem g_leftHead (x : Tile) (src : Source) : (leftHead x src).g = x.g := by rw [leftHead_eq]
@[simp] theorem pc_leftHead (x : Tile) (src : Source) : (leftHead x src).pc = x.pc := by rw [leftHead_eq]
@[simp] theorem tdt_leftHead (x : Tile) (src : Source) : (leftHead x src).tdt = x.tdt := by rw [leftHead_eq]
@[simp] theorem odt_leftHead (x : Tile) (src : Source) : (leftHead x src).odt = x.odt := by rw [leftHead_eq]
@[simp] theorem streams_leftHead (x : Tile) (src : Source) : (leftHead x src).streams = x.streams := by rw [leftHead_eq]
@[simp] theorem issued_leftHead (x : Tile) (src : Source) : (leftHead x src).issued = x.issued := by rw [leftHead_eq]
@[simp] theorem fences_leftHead (x : Tile) (src : Source) : (leftHead x src).fences = x.fences := by rw [leftHead_eq]
@[simp] theorem xwatches_leftHead (x : Tile) (src : Source) : (leftHead x src).xwatches = x.xwatches := by rw [leftHead_eq]
@[simp] theorem xheld_leftHead (x : Tile) (src : Source) : (leftHead x src).xheld = x.xheld := by rw [leftHead_eq]
@[simp] theorem seq_leftHead (x : Tile) (src : Source) : (leftHead x src).seq = x.seq := by rw [leftHead_eq]
@[simp] theorem fault_leftHead (x : Tile) (src : Source) : (leftHead x src).fault = x.fault := by rw [leftHead_eq]
@[simp] theorem faultCount_leftHead (x : Tile) (src : Source) : (leftHead x src).faultCount = x.faultCount := by rw [leftHead_eq]
@[simp] theorem prio_leftHead (x : Tile) (src : Source) : (leftHead x src).prio = x.prio := by rw [leftHead_eq]
@[simp] theorem pend_leftHead (x : Tile) (src : Source) (ring : Bool) : (leftHead x src).pend ring = x.pend ring := by
  rw [leftHead_eq]; rfl

/-- The ring's head is the front of its input queue. -/
theorem inq_of_headOf {x : Tile} {k : Nat} {hd : Head} (h : headOf x (.ring k) = some hd) :
    ∃ e q, Tab.get x.inq [] k = e :: q ∧ hd = { line := e.line, pc := 0, entry := some e.ref } := by
  unfold headOf at h
  split at h
  · cases h
  · dsimp only at h
    split at h
    next e q hq =>
      cases h
      exact ⟨e, q, hq, rfl⟩
    next => cases h

/-- Whether the head of a source is an entry tells a ring from the program. -/
theorem entry_isSome_of_headOf {x : Tile} {src : Source} {hd : Head} (h : headOf x src = some hd) :
    hd.entry.isSome = Source.isRing src := by
  cases src with
  | prog => rw [entry_of_headOf_prog h]; rfl
  | ring k =>
    obtain ⟨e, q, -, rfl⟩ := inq_of_headOf h
    rfl

theorem popHead_sends {s : State} {t : Nat} {src : Source} {hd : Head} (h : headOf (s.tile t) src = some hd) :
    ∃ a, Acceptance hd a ∧ OnlyTileSends s (popHead s t src) t a := by
  cases src with
  | prog =>
    refine ⟨[], ?_, ⟨?_, fun j hj => ?_⟩, (List.append_nil _).symm⟩
    · rw [Acceptance, entry_of_headOf_prog h]
    · rfl
    · simp [popHead, hj]
  | ring k =>
    obtain ⟨e, q, hq, rfl⟩ := inq_of_headOf h
    have hpop : popHead s t (.ring k) = postSmall (s.setTile t (leftHead (s.tile t) (.ring k))) .control (.tile t) .gate
        (.accepted e.ref) := by
      simp [popHead, leftHead, hq]
    rw [hpop, postSmall_eq]
    refine ⟨[_], ⟨_, rfl, rfl, rfl, rfl⟩, ⟨rfl, fun j hj => ?_⟩, rfl⟩
    exact (onlyTile_setTile s t _).2 j hj

theorem onlyTileSends_setTile {s u : State} {t : Nat} {a : List Msg} (h : OnlyTileSends s u t a) (y : Tile) :
    OnlyTileSends s (u.setTile t y) t a := by
  obtain ⟨⟨hstate, htile⟩, hnet⟩ := h
  refine ⟨⟨?_, fun j hj => ?_⟩, hnet⟩
  · change { u with tiles := _ } = _
    rw [hstate]
    rfl
  · simp [hj, htile j hj]

/-! ## The turn of an instruction (R43, R321) -/

theorem jobParked_congr {s u : State} {t : Nat} (h : (u.tile t).streams = (s.tile t).streams) (e : Option EntryRef) :
    jobParked u t e = jobParked s t e := by
  simp only [jobParked, h]

theorem launchedBefore_congr {x y : Tile} (hs : y.streams = x.streams) (hi : y.issued = x.issued) (src : Source) (ord : Nat) :
    launchedBefore y src ord = launchedBefore x src ord := by
  simp only [launchedBefore, hs, hi]

theorem turnCome_congr {s u : State} {t : Nat} (hs : (u.tile t).streams = (s.tile t).streams)
    (hi : (u.tile t).issued = (s.tile t).issued) (src : Source) (ord : Nat) (e : Option EntryRef) :
    turnCome u t src ord e = turnCome s t src ord e := by
  simp only [turnCome, launchedBefore_congr hs hi, jobParked_congr hs]

theorem turnCome_popHead (s : State) (t : Nat) (src k : Source) (ord : Nat) (e : Option EntryRef) :
    turnCome (popHead s t src) t k ord e = turnCome s t k ord e :=
  turnCome_congr (by rw [tile_popHead, streams_leftHead]) (by rw [tile_popHead, issued_leftHead]) k ord e

theorem turnCome_of_unheld {s : State} {t : Nat} {src : Source} {l : Line} {e : Option EntryRef} (h : Unheld s t src l)
    (hjob : jobParked s t e = false) : turnCome s t src (((s.tile t).source src).ord + 1) e = true := by
  rw [turnCome, launchedBefore_of_unheld h, hjob]
  rfl

/-- An instruction that finds its turn come has nothing before it that has not launched. -/
theorem unheld_of_turnCome {s : State} {t : Nat} {src : Source} {l : Line} {e : Option EntryRef} (hfree : Freed l)
    (h : turnCome s t src (((s.tile t).source src).ord + 1) e = true) : Unheld s t src l := by
  obtain ⟨hdep, hlaunch⟩ := hfree
  simp only [turnCome, launchedBefore, Bool.and_eq_true, List.all_eq_true, Bool.or_eq_true, decide_eq_true_eq] at h
  obtain ⟨⟨hstreams, hissued⟩, -⟩ := h
  refine ⟨hdep, hlaunch, fun p hp hsrc hord => ?_, fun i hi hsrc => ?_⟩
  · obtain (hl | hne) | hle := hstreams p hp
    · exact hl
    · exact absurd hsrc hne
    · omega
  · obtain hne | hle := hissued i hi
    · exact absurd hsrc hne
    · omega

/-! ## Issue without a stream -/

theorem exec_simpleCmd {t : Nat} {src : Source} {r : Row} {c : Instr} (h : simpleCmd t src r = some c) (s : State) :
    exec c s = .next (issueSimple s t src r .clean) := by
  cases r <;> cases h <;> rfl

theorem ne_bad_of_simpleCmd {t : Nat} {src : Source} {r : Row} {c : Instr} (h : simpleCmd t src r = some c) : r ≠ .bad := by
  rintro rfl
  cases h

/-- What issue does with an instruction that passes its checks. -/
theorem issueSimple_offered {s : State} {t : Nat} {src : Source} {hd : Head} (h : Offered s t src hd) :
    issueSimple s t src (rowOf hd.line) .clean =
      if pendFull (s.tile t) src (rowOf hd.line) = true then noteWait s t src 3
      else if iDep hd.line = true ∨ iLaunch hd.line ≠ 0 then
        registerConds (holdAt (popHead s t src) t src (captureHeld s t src hd)) t none src (((s.tile t).source src).ord + 1)
          (captureHeld s t src hd).launch.conds
      else goOn (popHead s t src) t src (((s.tile t).source src).ord + 1) (captureHeld s t src hd) := by
  obtain ⟨hrun, hhead, hstg, hcode, -⟩ := h
  simp [issueSimple, hrun, hhead, hstg, hcode, tile_popHead]

theorem pendFull_of_room {x : Tile} {src : Source} {r : Row}
    (h : r = .sig ∨ r = .bar → (x.pend (Source.isRing src)).length < 4) : pendFull x src r = false := by
  by_cases hr : r.pends = true
  · have hlt := h (by cases r <;> simp_all [Row.pends])
    simp [pendFull, hlt]
  · simp [pendFull, hr]

theorem goOn_of_turnCome {s : State} {t : Nat} {src : Source} {ord : Nat} {h : HeldInstr}
    (hturn : turnCome s t src ord h.entry = true) :
    goOn s t src ord h = simpleEffect s t src ord { h with launch := atLaunch s h.launch } := by
  simp [goOn, hturn]

/-- An instruction that launches as it issues takes effect on the tile that its head has left. -/
theorem issueSimple_unheld {s : State} {t : Nat} {src : Source} {hd : Head} (h : Offered s t src hd) (hun : Unheld s t src hd.line)
    (hroom : pendFull (s.tile t) src (rowOf hd.line) = false) :
    issueSimple s t src (rowOf hd.line) .clean =
      simpleEffect (popHead s t src) t src (((s.tile t).source src).ord + 1)
        { captureHeld s t src hd with launch := atLaunch (popHead s t src) (captureHeld s t src hd).launch } := by
  have hjob : jobParked s t (captureHeld s t src hd).entry = false := by
    obtain ⟨-, -, -, -, hjob⟩ := h
    exact hjob
  have hturn := (turnCome_popHead s t src src (((s.tile t).source src).ord + 1) _).trans (turnCome_of_unheld hun hjob)
  obtain ⟨hdep, hlaunch, -, -⟩ := hun
  rw [issueSimple_offered h, hroom, if_neg (by simp), if_neg (by simp [hdep, hlaunch]), goOn_of_turnCome hturn]

/-! ## Effects at launch -/

/-- What a SIG or BAR leaves in the pending-signal queue at its launch (R56, R58). -/
def pendOf (src : Source) (ord : Nat) (h : HeldInstr) (isBar : Bool) : PendSig :=
  { src := src, ord := ord, line := h.line, pc := h.pc, entry := h.entry, isBar := isBar
    cid := if isBar then iBarid h.line else h.cid, express := !isBar && h.express
    value := lo32 h.opA + BitVec.ofNat 32 (iValue h.line)
    scope := iScope h.line, launch := h.launch, wrel := isBar && iWrel h.line, sent := false }

/-- What holds the source of a BAR with WREL = 1 (R58). -/
def barOf (ord : Nat) (h : HeldInstr) : BarSt :=
  { line := h.line, pc := h.pc, entry := h.entry, ord := ord, launch := h.launch, bar := iBarid h.line, gen := 4
    scope := iScope h.line }

/-- The tile after a SIG or BAR of it has entered its queue. -/
def withPend (x : Tile) (src : Source) (ord : Nat) (h : HeldInstr) (isBar : Bool) : Tile :=
  (x.setSource src { x.source src with
      hold := if (isBar && iWrel h.line) = true then .bar (barOf ord h) else (x.source src).hold }).setPend (Source.isRing src)
    (x.pend (Source.isRing src) ++ [pendOf src ord h isBar])

theorem enqueueSig_eq (s : State) (t : Nat) (src : Source) (ord : Nat) (h : HeldInstr) (isBar : Bool) :
    enqueueSig s t src ord h isBar = s.setTile t (withPend (s.tile t) src ord h isBar) := by
  simp [enqueueSig, withPend, pendOf, barOf]

theorem simpleEffect_pends (s : State) (t : Nat) (src : Source) (ord : Nat) (h : HeldInstr)
    (hrow : rowOf h.line = .sig ∨ rowOf h.line = .bar) :
    simpleEffect s t src ord h = s.setTile t (withPend (s.tile t) src ord h (decide (rowOf h.line = .bar))) := by
  obtain hrow | hrow := hrow
  · simp only [simpleEffect, hrow]
    exact enqueueSig_eq s t src ord h false
  · simp only [simpleEffect, hrow]
    exact enqueueSig_eq s t src ord h true

@[simp] theorem pend_withPend (x : Tile) (src : Source) (ord : Nat) (h : HeldInstr) (isBar : Bool) :
    (withPend x src ord h isBar).pend (Source.isRing src) = x.pend (Source.isRing src) ++ [pendOf src ord h isBar] := by
  simp [withPend]

@[simp] theorem hold_withPend (x : Tile) (src : Source) (ord : Nat) (h : HeldInstr) (isBar : Bool) :
    ((withPend x src ord h isBar).source src).hold =
      if (isBar && iWrel h.line) = true then .bar (barOf ord h) else (x.source src).hold := by
  simp [withPend]

@[simp] theorem g_withPend (x : Tile) (src : Source) (ord : Nat) (h : HeldInstr) (isBar : Bool) :
    (withPend x src ord h isBar).g = x.g := by
  simp [withPend]

@[simp] theorem pc_withPend (x : Tile) (src : Source) (ord : Nat) (h : HeldInstr) (isBar : Bool) :
    (withPend x src ord h isBar).pc = x.pc := by
  simp [withPend]

/-- What a FENCE notes at its launch (R59). -/
def fenceOf (src : Source) (ord : Nat) (h : HeldInstr) : FenceSt :=
  { src := src, ord := ord, scope := iScope h.line, line := h.line, pc := h.pc, entry := h.entry, launch := h.launch }

theorem simpleEffect_fence (s : State) (t : Nat) (src : Source) (ord : Nat) (h : HeldInstr) (hrow : rowOf h.line = .fence) :
    simpleEffect s t src ord h = s.setTile t { s.tile t with fences := (s.tile t).fences ++ [fenceOf src ord h] } := by
  simp only [simpleEffect, hrow]
  rfl

/-- What holds the source of a WAIT at its launch (R57). -/
def waitOf (ord : Nat) (h : HeldInstr) : WaitSt :=
  { line := h.line, pc := h.pc, entry := h.entry, ord := ord, launch := h.launch, cid := h.cid
    express := h.express, cond := iCond h.line, operand := lo32 h.opA + BitVec.ofNat 32 (iValue h.line)
    scope := iScope h.line, rreg := iRreg h.line }

theorem simpleEffect_wait (s : State) (t : Nat) (src : Source) (ord : Nat) (h : HeldInstr) {k : Nat}
    (hk : waitCode (rowOf h.line) = some k) : simpleEffect s t src ord h =
      register (s.setTile t ((s.tile t).setSource src { (s.tile t).source src with hold := .wait (waitOf ord h) }))
        (waitReg t src (waitOf ord h)) := by
  cases hrow : rowOf h.line <;> simp only [hrow, waitCode, reduceCtorEq] at hk <;> simp only [simpleEffect, hrow] <;> rfl

/-- The condition of a WAIT is that of its row (R57). -/
theorem iCond_of_waitCode {l : Line} {k : Nat} (h : waitCode (rowOf l) = some k) : iCond l = k := by
  unfold rowOf at h
  split at h
  case h_4 =>
    split at h <;> cases h <;> assumption
  case h_7 => split at h <;> cases h
  case h_12 => split at h <;> cases h
  all_goals cases h

/-- The registration of a watch that is not express leaves as one flit for its counter's home bank (R253). -/
theorem register_home {s : State} {r : Reg} (h : r.express = false) : ∃ m,
    register s r = { s with prom := { s.prom with net := s.prom.net ++ [m] } } ∧ m.cls = .lodge
      ∧ m.dst = .lodge (homeBank s r.cid) ∧ m.body = .watchReg r := by
  rw [register, h, if_neg (by simp), post_one]
  exact ⟨_, rfl, rfl, rfl, rfl⟩

theorem onlyTileNet_of_sends {s u : State} {t : Nat} {a : List Msg} (h : OnlyTileSends s u t a) (m : Msg) :
    OnlyTileNet s { u with prom := { u.prom with net := u.prom.net ++ [m] } } t := by
  obtain ⟨⟨hstate, htile⟩, -⟩ := h
  refine ⟨?_, htile⟩
  rw [hstate]

end Sys2Proof.Proofs
end

section
/-! PROOF. SIG, BAR, WAIT and FENCE: issue, LAUNCH where they are held, PENDING_SIGNAL and FENCE_COMPLETE. -/

namespace Sys2Proof.Proofs

open Sys2Proof Sys2Proof.Machine

/-! ## SIG and BAR (R56, R58) -/

theorem pendFull_eq_true {x : Tile} {src : Source} {r : Row} (hr : r = .sig ∨ r = .bar)
    (h : 4 ≤ (x.pend (Source.isRing src)).length) : pendFull x src r = true := by
  obtain rfl | rfl := hr <;> simp [pendFull, Row.pends, h]

/-- What keeps a head from issuing is noted in its source and nowhere else. -/
theorem tile_noteWait (s : State) (t : Nat) (src : Source) (c : Nat) :
    (noteWait s t src c).tile t = (s.tile t).setSource src { (s.tile t).source src with issueWait := c } := by
  rw [noteWait, tile_setTile, if_pos rfl]

theorem onlyTile_noteWait (s : State) (t : Nat) (src : Source) (c : Nat) : OnlyTile s (noteWait s t src c) t :=
  onlyTile_setTile s t _

theorem headOf_setSource {x : Tile} {src : Source} {v : SourceSt} (hv : v.hold = (x.source src).hold) :
    headOf (x.setSource src v) src = headOf x src := by
  simp only [headOf, source_setSource, if_pos, hv, xheld_setSource, seq_setSource, fetched_setSource, fetchPc_setSource,
    inq_setSource]

/-- A SIG or BAR that launches as it issues enters the queue of its source. -/
theorem issue_pends {s : State} {t : Nat} {src : Source} {hd : Head} (h : Offered s t src hd) (hun : Unheld s t src hd.line)
    (hrow : rowOf hd.line = .sig ∨ rowOf hd.line = .bar) (hroom : ((s.tile t).pend (Source.isRing src)).length < 4) :
    ∃ a la, Acceptance hd a ∧ OnlyTileSends s (issueSimple s t src (rowOf hd.line) .clean) t a
      ∧ (issueSimple s t src (rowOf hd.line) .clean).tile t = withPend (leftHead (s.tile t) src) src
          (((s.tile t).source src).ord + 1) { captureHeld s t src hd with launch := la } (decide (rowOf hd.line = .bar)) := by
  rw [issueSimple_unheld h hun (pendFull_of_room (fun _ => hroom)), simpleEffect_pends (hrow := hrow)]
  obtain ⟨-, hhead, -, -, -⟩ := h
  obtain ⟨a, hacc, hsends⟩ := popHead_sends hhead
  exact ⟨a, _, hacc, onlyTileSends_setTile hsends _, by rw [tile_setTile, if_pos rfl, tile_popHead]; rfl⟩

theorem signalsEnterQueue : Claims.SignalsQueue := by
  intro s t src hd l q hoff
  have hhold : ((s.tile t).source src).hold = .none := by
    obtain ⟨-, hhead, -, -, -⟩ := hoff
    exact hold_of_headOf hhead
  refine ⟨fun hun hrow hroom c hc => ?_, fun hun hrow hroom => ?_, fun hrow hfull c hc => ?_⟩
  · obtain ⟨a, la, hacc, hsends, htile⟩ := issue_pends hoff hun (.inl hrow) hroom
    have hexec : exec (.sig t (good src)) s = .next (issueSimple s t src .sig .clean) := rfl
    rw [hrow] at hsends htile
    refine ⟨_, _, a, hexec, hacc, hsends, by rw [htile, pend_withPend, pend_leftHead], rfl, rfl, rfl, rfl, rfl, ?_, ?_, rfl, rfl,
      ?_, ?_⟩
    · simp [pendOf, captureHeld, l, hc]
    · simp [pendOf, captureHeld, l, hc]
    · simp [pendOf, captureHeld, l, hrow, operandA, lo32]
    · rw [htile, hold_withPend, source_leftHead]
      simpa using hhold
  · obtain ⟨a, la, hacc, hsends, htile⟩ := issue_pends hoff hun (.inr hrow) hroom
    have hexec : exec (.bar t (good src)) s = .next (issueSimple s t src .bar .clean) := rfl
    rw [hrow] at hsends htile
    refine ⟨_, _, a, hexec, hacc, hsends, by rw [htile, pend_withPend, pend_leftHead], rfl, rfl, rfl, rfl, rfl, rfl, rfl,
      fun hw => ?_, fun hw => ?_⟩
    · rw [htile, hold_withPend, source_leftHead]
      simp [captureHeld, l, hw, hhold]
    · rw [htile, hold_withPend]
      exact ⟨_, if_pos hw, rfl, rfl⟩
  · rw [exec_simpleCmd hc, issueSimple_offered hoff, if_pos (pendFull_eq_true hrow hfull)]
    obtain ⟨-, hhead, -, -, -⟩ := hoff
    refine ⟨_, rfl, onlyTile_noteWait s t src 3, ?_, ?_, ?_⟩
    · rw [tile_noteWait]
      exact (headOf_setSource (v := { (s.tile t).source src with issueWait := 3 }) rfl).trans hhead
    · rw [tile_noteWait, pend_setSource]
    · rw [tile_noteWait, g_setSource]

/-! ## LAUNCH of a source (R51) -/

theorem nextIssued_eq_none {x : Tile} {src : Source} (h : ∀ i ∈ x.issued, i.src ≠ src) : nextIssued x src = none := by
  simpa [nextIssued] using h

theorem exec_launch_source {s : State} {t : Nat} {src : Source} (hrun : coreRuns s t = true) :
    exec (.launch t (.source src)) s = .next (launchSource s t src) := by
  have hexec : exec (.launch t (.source src)) s = .next (if coreRuns s t = true then launchSource s t src else s) := rfl
  rw [hexec, if_pos hrun]

theorem launchSource_held {s : State} {t : Nat} {src : Source} (h : ∀ i, nextIssued (s.tile t) src = some i → issuedReady s t i = false) :
    launchSource s t src = launchHeld s t src := by
  unfold launchSource
  split
  next i hi => simp [h i hi]
  next => rfl

/-- Everything that a source issued has launched before the instruction that holds it. -/
theorem turnCome_of_launched {s : State} {t : Nat} {src : Source} {e : Option EntryRef} {ord : Nat}
    (hstreams : ∀ p ∈ (s.tile t).streams, p.2.src = src → p.2.ord < ord → p.2.launched = true)
    (hissued : ∀ i ∈ (s.tile t).issued, i.src ≠ src) (hjob : jobParked s t e = false) : turnCome s t src ord e = true := by
  simp only [turnCome, launchedBefore, hjob, Bool.and_eq_true, List.all_eq_true, Bool.or_eq_true, decide_eq_true_eq, Bool.not_false,
    and_true]
  refine ⟨fun p hp => ?_, fun i hi => .inl (hissued i hi)⟩
  by_cases hsrc : p.2.src = src
  · by_cases hord : p.2.ord < ord
    · exact .inl (.inl (hstreams p hp hsrc hord))
    · exact .inr (by omega)
  · exact .inl (.inr hsrc)

theorem tile_clearHold (s : State) (t : Nat) (src : Source) :
    (clearHold s t src).tile t = (s.tile t).setSource src { (s.tile t).source src with hold := .none } := by
  rw [clearHold, tile_setTile, if_pos rfl]

theorem onlyTile_clearHold (s : State) (t : Nat) (src : Source) : OnlyTile s (clearHold s t src) t := onlyTile_setTile s t _

theorem turnCome_clearHold (s : State) (t : Nat) (src k : Source) (ord : Nat) (e : Option EntryRef) :
    turnCome (clearHold s t src) t k ord e = turnCome s t k ord e :=
  turnCome_congr (by rw [tile_clearHold, streams_setSource]) (by rw [tile_clearHold, issued_setSource]) k ord e

/-- LAUNCH of the instruction that holds a source, once its conditions hold, its turn has come and its queue has room. -/
theorem launchHeld_go {s : State} {t : Nat} {src : Source} {h : HeldInstr} (hhold : ((s.tile t).source src).hold = .instr h)
    (hready : heldReady s h = true) (hturn : turnCome s t src ((s.tile t).source src).ord h.entry = true)
    (hroom : pendFull (s.tile t) src (rowOf h.line) = false) : launchHeld s t src =
      noteWait (simpleEffect (clearHold s t src) t src ((s.tile t).source src).ord
        { h with launch := atLaunch (clearHold s t src) h.launch }) t src 2 := by
  have hcleared := (turnCome_clearHold s t src src ((s.tile t).source src).ord h.entry).trans hturn
  simp only [launchHeld, hhold, hready, hturn, hroom, Bool.true_or, Bool.and_self, Bool.and_false, Bool.false_eq_true, if_true,
    if_false]
  rw [goOn_of_turnCome hcleared]

/-- LAUNCH of a held SIG or BAR whose queue is full leaves it held. -/
theorem launchHeld_full {s : State} {t : Nat} {src : Source} {h : HeldInstr} (hhold : ((s.tile t).source src).hold = .instr h)
    (hready : heldReady s h = true) (hturn : turnCome s t src ((s.tile t).source src).ord h.entry = true)
    (hfull : pendFull (s.tile t) src (rowOf h.line) = true) : launchHeld s t src = holdAt s t src h.forRoom := by
  simp only [launchHeld, hhold, hready, hturn, hfull, Bool.true_or, Bool.and_self, if_true]

theorem heldSignalLaunches : Claims.HeldSignalLaunches := by
  intro s t src h q hrun hhold hrow hconds htime hjob hstreams hissued
  have hready : heldReady s h = true := by rw [heldReady, hconds, htime]; rfl
  have hturn := turnCome_of_launched hstreams hissued hjob
  rw [exec_launch_source hrun, launchSource_held (by simp [nextIssued_eq_none hissued])]
  refine ⟨fun hroom => ?_, fun hfull => ?_⟩
  · rw [launchHeld_go hhold hready hturn (pendFull_of_room (fun _ => hroom))]
    rw [simpleEffect_pends _ _ _ _ { h with launch := atLaunch (clearHold s t src) h.launch } hrow]
    refine ⟨_, pendOf src ((s.tile t).source src).ord { h with launch := atLaunch (clearHold s t src) h.launch }
      (decide (rowOf h.line = .bar)), rfl, ?_, ?_, rfl, rfl, rfl, rfl, rfl, rfl, fun hsig => ?_, fun hbar => ?_, fun hfree => ?_⟩
    · exact onlyTile_trans (onlyTile_clearHold s t src) (onlyTile_trans (onlyTile_setTile _ t _) (onlyTile_noteWait _ t src 2))
    · rw [tile_noteWait, pend_setSource, tile_setTile, if_pos rfl, pend_withPend, tile_clearHold, pend_setSource]
    · simp [pendOf, hsig, lo32_eq]
    · simp [pendOf, hbar]
    · have hnot : (decide (rowOf h.line = .bar) && iWrel h.line) = false := by
        obtain hsig | hw := hfree
        · simp [hsig]
        · simp [hw]
      rw [tile_noteWait, source_setSource, if_pos rfl, tile_setTile, if_pos rfl, hold_withPend, hnot, tile_clearHold,
        source_setSource, if_pos rfl]
      rfl
  · rw [launchHeld_full hhold hready hturn (pendFull_eq_true hrow hfull)]
    refine ⟨_, h.forRoom, rfl, onlyTile_setTile s t _, ?_, rfl, ?_⟩
    · rw [holdAt, tile_setTile, if_pos rfl, source_setSource, if_pos rfl]
    · rw [holdAt, tile_setTile, if_pos rfl, pend_setSource]

/-! ## PENDING_SIGNAL -/

theorem pendingWaits_eq_false {x : Tile} {src : Source} {ord : Nat} (hstreams : ∀ q ∈ x.streams, q.2.src = src → ord ≤ q.2.ord)
    (hfences : ∀ f ∈ x.fences, f.src = src → ord ≤ f.ord) : pendingWaits x src ord = false := by
  simp only [pendingWaits, Bool.or_eq_false_iff, List.any_eq_false, Bool.and_eq_true, decide_eq_true_eq, not_and, not_lt]
  exact ⟨hstreams, hfences⟩

/-- The message of a SIG as PENDING_SIGNAL sends it (R58). -/
def sigUpd (t : Nat) (p : PendSig) : Upd :=
  { cid := p.cid, express := p.express, value := p.value, scope := p.scope, kind := 1, tile := t, stream := 0, seq := 0
    src := p.src, ord := p.ord, wire := t }

/-- The arrival of a BAR as PENDING_SIGNAL sends it (R58, R268). -/
def barArrival (t a : Nat) (p : PendSig) : Arrival :=
  { bar := p.cid, a := a, scope := p.scope, host := false, tile := t, src := p.src, ord := p.ord }

/-- The source of a BAR with WREL = 1 learns the generation that it waits for. -/
def tellGen (x : Tile) (p : PendSig) (a : Nat) : Tile :=
  match (x.source p.src).hold with
  | .bar b => if b.ord = p.ord then x.setSource p.src { x.source p.src with hold := .bar { b with gen := a } } else x
  | _ => x

theorem tellGen_eq (x : Tile) (p : PendSig) (a : Nat) :
    tellGen x p a = { x with prog := (tellGen x p a).prog, rings := (tellGen x p a).rings } := by
  unfold tellGen
  split
  · split
    · exact setSource_eq ..
    · rfl
  · rfl

theorem pendStep_sig {s : State} {t : Nat} {ring : Bool} {p : PendSig} {ps : List PendSig} (hrun : coreRuns s t = true)
    (hq : (s.tile t).pend ring = p :: ps) (hsent : p.sent = false) (hwait : pendingWaits (s.tile t) p.src p.ord = false)
    (hsig : p.isBar = false) : pendStep s t ring =
      sendUpd (s.setTile t ((s.tile t).setPend ring ({ p with sent := true } :: ps))) (.tile t) (sigUpd t p) := by
  simp [pendStep, hq, hrun, hsent, hwait, hsig, sigUpd]

theorem pendStep_bar {s : State} {t : Nat} {ring : Bool} {p : PendSig} {ps : List PendSig} (hrun : coreRuns s t = true)
    (hq : (s.tile t).pend ring = p :: ps) (hsent : p.sent = false) (hwait : pendingWaits (s.tile t) p.src p.ord = false)
    (hbar : p.isBar = true) : pendStep s t ring =
      let a := arrivalOf (s.tile t) p.cid ring
      let x := (s.tile t).setPend ring ({ p with sent := true } :: ps)
      postSmall (s.setTile t (tellGen { x with barCnt := Tab.put x.barCnt (2 * p.cid + ring.toNat) ((a + 1) % 4) } p a)) .lodge
        (.tile t) .band (.arrive (barArrival t a p)) := by
  have harr (q : List PendSig) : arrivalOf ((s.tile t).setPend ring q) p.cid ring = arrivalOf (s.tile t) p.cid ring := by
    simp [arrivalOf]
  unfold pendStep
  dsimp only
  rw [hq]
  dsimp only
  rw [if_neg (by simp [hrun, hsent, hwait]), if_pos hbar, harr]
  rfl

theorem pendingSignalSends : Claims.PendingSignalSends := by
  intro s t ring p ps hrun hq hsent hring hstreams hfences
  have hwait := pendingWaits_eq_false hstreams hfences
  have hexec : exec (.pendingSignal t ring) s = .next (pendStep s t ring) := rfl
  rw [hexec]
  by_cases hbar : p.isBar = true
  · rw [pendStep_bar hrun hq hsent hwait hbar]
    dsimp only
    refine ⟨_, rfl, ?_, rfl, ?_, by simp [hbar], by simp [hbar],
      fun _ => ⟨oneFlit s .lodge (.tile t) .band [] 0 0 (.arrive (barArrival t (arrivalOf (s.tile t) p.cid ring) p)), _, ?_,
        rfl, rfl, rfl, rfl, rfl, rfl, ?_⟩⟩
    · rw [tile_postSmall, tile_setTile, if_pos rfl, tellGen_eq]
      exact (pend_setPend (s.tile t) ring ring _).trans (if_pos rfl)
    · rw [tile_postSmall, tile_setTile, if_pos rfl, tellGen_eq]
      exact g_setPend ..
    · rw [postSmall_eq]
      rfl
    · rw [tile_postSmall, tile_setTile, if_pos rfl, tellGen_eq]
      exact Tab.get_put_self ..
  · have hsig : p.isBar = false := by simpa using hbar
    rw [pendStep_sig hrun hq hsent hwait hsig]
    have htile : (sendUpd (s.setTile t ((s.tile t).setPend ring ({ p with sent := true } :: ps))) (.tile t) (sigUpd t p)).tile t =
        (s.tile t).setPend ring ({ p with sent := true } :: ps) := by
      rw [tile_sendUpd, tile_setTile, if_pos rfl]
    refine ⟨_, rfl, ?_, ?_, ?_, fun _ hx => ⟨oneFlit s .lodge (.tile t) (.lodge (homeBank s p.cid)) [] 0 0 (.upd (sigUpd t p)),
      sigUpd t p, ?_, rfl, rfl, rfl, rfl, rfl, rfl, rfl, rfl⟩, fun _ hx => ⟨sigUpd t p, ?_, ?_, rfl, rfl, rfl⟩, by simp [hbar]⟩
    · rw [htile, pend_setPend, if_pos rfl]
    · rw [spad_sendUpd, setTile_spad]
    · rw [htile, g_setPend]
    · rw [sendUpd_home hx]
      rfl
    · rw [sendUpd_express hx]
      rfl
    · rw [sendUpd_express hx]
      rfl

/-- Settles O9: issue and LAUNCH put a SIG or BAR into its queue by `withPend`, and PENDING_SIGNAL marks the head as sent. -/
theorem signalsQueue : Obligations.SignalsQueue := by
  unfold Obligations.SignalsQueue
  exact ⟨signalsEnterQueue, heldSignalLaunches, pendingSignalSends⟩

end Sys2Proof.Proofs
end

section
/-! PROOF. WAIT and FENCE: issue, the watch of a WAIT, and FENCE_COMPLETE. -/

namespace Sys2Proof.Proofs

open Sys2Proof Sys2Proof.Machine

/-! ## WAIT (R57) -/

theorem pendFull_of_waitCode {x : Tile} {src : Source} {r : Row} {k : Nat} (h : waitCode r = some k) : pendFull x src r = false :=
  pendFull_of_room (fun hr => by
    obtain rfl | rfl := hr <;> simp [waitCode] at h)

/-- The state of a WAIT that launches as it issues, before its watch is registered. -/
def waitHeld (s : State) (t : Nat) (src : Source) (w : WaitSt) : State :=
  (popHead s t src).setTile t ((leftHead (s.tile t) src).setSource src { (leftHead (s.tile t) src).source src with hold := .wait w })

theorem tile_waitHeld (s : State) (t : Nat) (src : Source) (w : WaitSt) : (waitHeld s t src w).tile t =
    (leftHead (s.tile t) src).setSource src { (leftHead (s.tile t) src).source src with hold := .wait w } := by
  rw [waitHeld, tile_setTile, if_pos rfl]

/-- A WAIT that launches as it issues holds its source and registers its watch. -/
theorem issue_waits {s : State} {t : Nat} {src : Source} {hd : Head} {k : Nat} {c : Bool × Nat} (h : Offered s t src hd)
    (hun : Unheld s t src hd.line) (hk : waitCode (rowOf hd.line) = some k) (hc : cidOf s t hd.line = some c) :
    ∃ w a, issueSimple s t src (rowOf hd.line) .clean = register (waitHeld s t src w) (waitReg t src w)
      ∧ Acceptance hd a ∧ OnlyTileSends s (waitHeld s t src w) t a ∧ w.ord = ((s.tile t).source src).ord + 1 ∧ w.cid = c.2
      ∧ w.express = c.1 ∧ w.cond = k ∧ w.rreg = iRreg hd.line ∧ w.scope = iScope hd.line
      ∧ w.operand = BitVec.ofNat 32 ((s.tile t).greg (iTreg hd.line)).toNat + BitVec.ofNat 32 (iValue hd.line) := by
  have hopA : operandA (s.tile t) hd.line (rowOf hd.line) = (s.tile t).greg (iTreg hd.line) := by
    cases hr : rowOf hd.line <;> simp_all [waitCode, operandA]
  have hissue := issueSimple_unheld h hun (pendFull_of_waitCode hk)
  rw [simpleEffect_wait _ _ _ _ { captureHeld s t src hd with launch := atLaunch (popHead s t src) (captureHeld s t src hd).launch } hk,
    tile_popHead] at hissue
  obtain ⟨-, hhead, -, -, -⟩ := h
  obtain ⟨a, hacc, hsends⟩ := popHead_sends hhead
  refine ⟨_, a, hissue, hacc, onlyTileSends_setTile hsends _, rfl, ?_, ?_, iCond_of_waitCode hk, rfl, rfl, ?_⟩
  · simp [waitOf, captureHeld, hc]
  · simp [waitOf, captureHeld, hc]
  · simp [waitOf, captureHeld, hopA, lo32]

theorem waitRegistersWatch : Claims.WaitRegistersWatch := by
  intro s t src hd c k cid l hoff hun hk hcmd hcid
  obtain ⟨w, a, hissue, hacc, hsends, hord, hwcid, hx, hcond, hrreg, hscope, hop⟩ := issue_waits hoff hun hk hcid
  obtain ⟨m, hreg, hcls, hdst, hbody⟩ := register_home (s := waitHeld s t src w) (r := waitReg t src w) hx
  rw [exec_simpleCmd hcmd, hissue, hreg]
  refine ⟨_, w, m, waitReg t src w, a, rfl, onlyTileNet_of_sends hsends m, ?_, hacc, ?_, hord, hwcid, hcond, hrreg, ?_, hcls, ?_,
    hbody, hwcid, hcond, hscope, rfl, rfl, rfl, hop⟩
  · exact (congrArg Tile.g (tile_waitHeld s t src w)).trans (by rw [g_setSource, g_leftHead])
  · exact (congrArg (fun x => (Tile.source x src).hold) (tile_waitHeld s t src w)).trans (by rw [source_setSource, if_pos rfl])
  · obtain ⟨-, hnet⟩ := hsends
    rw [hnet]
  · rw [hdst]
    obtain ⟨⟨hstate, -⟩, -⟩ := hsends
    have hgen : (waitHeld s t src w).gen = s.gen := by rw [hstate]
    simp [waitReg, hwcid, homeBank, hgen]

/-- A tile with one more registration on its express replica, watched or held back. -/
def xWatched (x : Tile) (r : Reg) : Tile :=
  if x.xwatches.length < 16 then { x with xwatches := x.xwatches ++ [r] } else { x with xheld := x.xheld ++ [r] }

theorem source_xWatched (x : Tile) (r : Reg) (src : Source) : (xWatched x r).source src = x.source src := by
  unfold xWatched
  split <;> cases src <;> rfl

theorem xWatched_of_room {x : Tile} {r : Reg} (h : x.xwatches.length < 16) :
    (xWatched x r).xwatches = x.xwatches ++ [r] ∧ (xWatched x r).xheld = x.xheld := by
  rw [xWatched, if_pos h]
  exact ⟨rfl, rfl⟩

theorem xWatched_of_full {x : Tile} {r : Reg} (h : ¬ x.xwatches.length < 16) :
    (xWatched x r).xwatches = x.xwatches ∧ (xWatched x r).xheld = x.xheld ++ [r] := by
  rw [xWatched, if_neg h]
  exact ⟨rfl, rfl⟩

theorem register_express {s : State} {r : Reg} {t : Nat} (ht : r.who.tile = t) (hx : r.express = true)
    (hnot : exHolds (Tab.get s.lodge.xval 0 r.cid) r.operand r.cond = false) :
    register s r = s.setTile t (xWatched (s.tile t) r) := by
  subst ht
  rw [register, if_pos hx, registerX, xWatched]
  simp only [hnot, Bool.false_eq_true, if_false]
  split <;> rfl

theorem exHolds_eq_false {v op : Word} {k : Nat} (hk : k = 0 ∨ k = 1) (hge : k = 0 → (v - op).toInt < 0) (heq : k = 1 → v ≠ op) :
    exHolds v op k = false := by
  obtain rfl | rfl := hk
  · simpa [exHolds, serialGe] using hge rfl
  · simpa [exHolds] using heq rfl

theorem waitTakesExpressSlot : Claims.WaitTakesExpressSlot := by
  intro s t src hd c k cid l op hoff hun hrow hcmd hcid hge heq
  have hk : waitCode (rowOf l) = some k := by
    obtain ⟨hr, rfl⟩ | ⟨hr, rfl⟩ := hrow <;> rw [hr] <;> rfl
  obtain ⟨w, a, hissue, hacc, hsends, hord, hwcid, hx, hcond, -, -, hop⟩ := issue_waits hoff hun hk hcid
  have hlodge : (waitHeld s t src w).lodge = s.lodge := by
    obtain ⟨⟨hstate, -⟩, -⟩ := hsends
    rw [hstate]
  have hnot : exHolds (Tab.get (waitHeld s t src w).lodge.xval 0 w.cid) w.operand w.cond = false := by
    rw [hlodge, hwcid, hcond, hop]
    exact exHolds_eq_false (by obtain ⟨-, rfl⟩ | ⟨-, rfl⟩ := hrow <;> simp) hge heq
  rw [exec_simpleCmd hcmd, hissue, register_express (t := t) (r := waitReg t src w) rfl hx hnot]
  refine ⟨_, w, waitReg t src w, a, rfl, hacc, onlyTileSends_setTile hsends _, ?_, hwcid, hwcid, hcond, hop, rfl, hord,
    fun hroom => ?_, fun hfull => ?_⟩
  · rw [tile_setTile, if_pos rfl, source_xWatched, tile_waitHeld, source_setSource, if_pos rfl]
  all_goals
    have hwatches : ((waitHeld s t src w).tile t).xwatches = (s.tile t).xwatches := by simp [tile_waitHeld]
    have hheld : ((waitHeld s t src w).tile t).xheld = (s.tile t).xheld := by simp [tile_waitHeld]
    rw [tile_setTile, if_pos rfl, ← hwatches, ← hheld]
  · exact xWatched_of_room (by rwa [hwatches])
  · exact xWatched_of_full (by rw [hwatches]; exact hfull.not_gt)

/-- Settles O10: both claims turn on `issue_waits`, with the registration at the home or at the replica. -/
theorem waitsHold : Obligations.WaitsHold := by
  unfold Obligations.WaitsHold
  exact ⟨waitRegistersWatch, waitTakesExpressSlot⟩

/-! ## FENCE (R59) -/

/-- A FENCE that launches as it issues is noted in the tile. -/
theorem issue_fence {s : State} {t : Nat} {src : Source} {hd : Head} (h : Offered s t src hd) (hun : Unheld s t src hd.line)
    (hrow : rowOf hd.line = .fence) : ∃ a la, Acceptance hd a ∧ OnlyTileSends s (issueSimple s t src .fence .clean) t a
      ∧ (issueSimple s t src .fence .clean).tile t = { leftHead (s.tile t) src with fences :=
          (s.tile t).fences ++ [fenceOf src (((s.tile t).source src).ord + 1) { captureHeld s t src hd with launch := la }] } := by
  rw [← hrow, issueSimple_unheld h hun (pendFull_of_room (by simp [hrow])), simpleEffect_fence (hrow := hrow)]
  obtain ⟨-, hhead, -, -, -⟩ := h
  obtain ⟨a, hacc, hsends⟩ := popHead_sends hhead
  exact ⟨a, _, hacc, onlyTileSends_setTile hsends _, by rw [tile_setTile, if_pos rfl, tile_popHead, fences_leftHead]⟩

theorem source_withFences (x : Tile) (fs : List FenceSt) (src : Source) : ({ x with fences := fs } : Tile).source src = x.source src := by
  cases src <;> rfl

theorem fenceIssues : Claims.FenceIssues := by
  intro s t src hd hoff hun hrow
  obtain ⟨a, la, hacc, hsends, htile⟩ := issue_fence hoff hun hrow
  have hhold : ((s.tile t).source src).hold = .none := by
    obtain ⟨-, hhead, -, -, -⟩ := hoff
    exact hold_of_headOf hhead
  have hexec : exec (.fence t (good src)) s = .next (issueSimple s t src .fence .clean) := rfl
  refine ⟨_, _, a, hexec, hacc, hsends, congrArg Tile.fences htile, rfl, rfl, rfl, rfl, ?_, ?_, ?_, ?_⟩
  all_goals rw [htile]
  · rw [source_withFences, source_leftHead, hhold]
  · rw [source_withFences, source_leftHead]
    rfl
  · exact g_leftHead _ _
  · exact streams_leftHead _ _

/-- The completion of an entry stands among its ring's as its arguments say. -/
theorem exists_comp_addComp (s : State) (e : EntryRef) (a : CompArgs) : ∃ c ∈ ((addComp s e a).ring e.ring).comps,
    c.idx = e.idx ∧ c.flags = e.flags ∧ c.phase = .ready := by
  rw [addComp, ring_setRing, if_pos rfl]
  exact ⟨_, List.mem_append_right _ (List.mem_singleton_self _), rfl, rfl, rfl⟩

theorem exists_comp_finishDone (s : State) (t : Nat) (e : EntryRef) (l : Line) (la : LaunchSt) (claimed : Bool) :
    ∃ c ∈ ((finishDone s t (some e) l la claimed).ring e.ring).comps, c.idx = e.idx ∧ c.flags = e.flags ∧ c.phase = .ready :=
  exists_comp_addComp ..

theorem Sweeps.fences {s u : State} (h : Sweeps s u) (j : Nat) : (u.tile j).fences = (s.tile j).fences := by rw [h.tile j]; rfl

theorem fenceCompletes : Claims.FenceCompletes := by
  intro s t src f hrun hfind hstreams hstray
  have hopen : (s.tile t).streams.any (fun p => fenceHolds s t src f p.2) = false := by
    simp only [List.any_eq_false]
    intro p hp hholds
    simp only [fenceHolds, Bool.and_eq_true, decide_eq_true_eq] at hholds
    obtain ⟨⟨hsrc, hlt⟩, -⟩ := hholds
    exact absurd hlt (hstreams p hp hsrc).not_gt
  have hstep : fenceStep s t src = finishDone (s.setTile t { orderCleared (s.tile t) src f.ord with
      fences := (s.tile t).fences.filter (fun g => decide (g ≠ f)) }) t f.entry f.line f.launch false := by
    simp [fenceStep, hfind, hrun, hopen, hstray]
  have hexec : exec (.fenceComplete t src) s = .next (fenceStep s t src) := rfl
  rw [hexec, hstep]
  have hsw := sweeps_finishDone (s.setTile t { orderCleared (s.tile t) src f.ord with
    fences := (s.tile t).fences.filter (fun g => decide (g ≠ f)) }) t f.entry f.line f.launch false
  have hfences := hsw.fences t
  rw [tile_setTile, if_pos rfl] at hfences
  refine ⟨_, rfl, fun o => by rw [hsw.spad, setTile_spad], ?_, fun g hg hne => ?_, fun e he => ?_⟩
  · rw [hfences]
    simp
  · rw [hfences]
    simp [hg, hne]
  · rw [he]
    exact exists_comp_finishDone ..

/-- Settles O11: no stream is left that `fenceHolds` names, so `finishDone` ends the fence. -/
theorem fencesComplete : Obligations.FencesComplete := by
  unfold Obligations.FencesComplete
  exact ⟨fenceIssues, fenceCompletes⟩

end Sys2Proof.Proofs
end

section
/-! SUPPORT. How instructions end (R76, R233, R324): the record of lateness, completions, program faults, and the streams that
RESUME and ABANDON name. -/

namespace Sys2Proof.Proofs

open Sys2Proof Sys2Proof.Machine

/-! ## Lateness (R235) -/

/-- Tile `y` is tile `x` but for the record of lateness. -/
def OnlyLate (x y : Tile) : Prop := y = { x with lateCount := y.lateCount, late := y.late, lateMax := y.lateMax }

theorem OnlyLate.refl (x : Tile) : OnlyLate x x := rfl

theorem onlyLate_judgeLate (s : State) (t n : Nat) (ring : Bool) (l cause j : Nat) :
    OnlyLate (s.tile j) ((judgeLate s t n ring l cause).tile j) := by
  unfold judgeLate
  dsimp only
  split
  · rfl
  · split
    all_goals
      simp only [tile_raise, tile_setTile]
      split
      next h => subst h; rfl
      next => rfl

theorem onlyLate_finishDone (s : State) (t : Nat) (e : Option EntryRef) (l : Line) (la : LaunchSt) (claimed : Bool) (j : Nat) :
    OnlyLate (s.tile j) ((finishDone s t e l la claimed).tile j) := by
  cases e with
  | none => exact onlyLate_judgeLate ..
  | some e => exact onlyLate_judgeLate s t 0 _ _ _ j

section
variable {x y : Tile} (h : OnlyLate x y)
include h

theorem OnlyLate.g : y.g = x.g := by rw [h]
theorem OnlyLate.greg (n : Nat) : y.greg n = x.greg n := by rw [h]; rfl
theorem OnlyLate.pc : y.pc = x.pc := by rw [h]
theorem OnlyLate.tdt : y.tdt = x.tdt := by rw [h]
theorem OnlyLate.odt : y.odt = x.odt := by rw [h]
theorem OnlyLate.stopping : y.stopping = x.stopping := by rw [h]
theorem OnlyLate.seq : y.seq = x.seq := by rw [h]
theorem OnlyLate.streams : y.streams = x.streams := by rw [h]
theorem OnlyLate.issued : y.issued = x.issued := by rw [h]
theorem OnlyLate.fault : y.fault = x.fault := by rw [h]
theorem OnlyLate.faultCount : y.faultCount = x.faultCount := by rw [h]
theorem OnlyLate.pend (ring : Bool) : y.pend ring = x.pend ring := by rw [h]; rfl
theorem OnlyLate.source (src : Source) : y.source src = x.source src := by rw [h]; cases src <;> rfl

end

/-! ## Bytes of scratchpad at the end of an instruction -/

theorem sameBytes_of_spad {s u : State} (h : u.spad = s.spad) : SameBytes s u := fun _ => by rw [h]

@[simp] theorem spad_popHead (s : State) (t : Nat) (src : Source) : (popHead s t src).spad = s.spad := by
  cases src with
  | prog => rfl
  | ring k =>
    unfold popHead
    dsimp only
    split <;> rfl

@[simp] theorem spad_finishDone (s : State) (t : Nat) (e : Option EntryRef) (l : Line) (la : LaunchSt) (claimed : Bool) :
    (finishDone s t e l la claimed).spad = s.spad := (sweeps_finishDone s t e l la claimed).spad

@[simp] theorem spad_register (s : State) (r : Reg) : (register s r).spad = s.spad := by
  unfold register
  split
  · exact (sweeps_registerX s r).spad
  · rfl

@[simp] theorem spad_stopProgram (s : State) (t pc : Nat) : (stopProgram s t pc).spad = s.spad :=
  ((sweeps_withdrawHold s t .prog).trans (sweeps_clearHold _ t .prog)).spad

@[simp] theorem spad_progFault (s : State) (t n pc code : Nat) (launched : Bool) :
    (progFault s t n pc code launched).spad = s.spad := by
  unfold progFault
  dsimp only
  split
  · rfl
  · split <;> simp

@[simp] theorem spad_addComp (s : State) (e : EntryRef) (c : CompArgs) : (addComp s e c).spad = s.spad := rfl

@[simp] theorem spad_breakJob (s : State) (b : EntryRef) : (breakJob s b).spad = s.spad := (sweeps_breakJob s b).spad

@[simp] theorem spad_endInstr (s : State) (t : Nat) (e : Option EntryRef) (pc : Nat) (c : CompArgs) :
    (endInstr s t e pc c).spad = s.spad := by
  unfold endInstr
  split
  · dsimp only
    split
    · rw [spad_breakJob, spad_addComp]
    · rfl
  · split
    · exact spad_progFault ..
    · rfl

@[simp] theorem spad_failIssue (s : State) (t : Nat) (e : Option EntryRef) (pc : Nat) (l : Line) (code : Nat) :
    (failIssue s t e pc l code).spad = s.spad := spad_endInstr ..

/-! ## Discards -/

/-- Discard commands are messages alone. -/
theorem sendDiscards_eq (s : State) (t n : Nat) (st : Stream) :
    sendDiscards s t n st = { s with prom := { s.prom with net := (sendDiscards s t n st).prom.net } } := by
  unfold sendDiscards
  generalize st.chunks = cs
  induction cs generalizing s with
  | nil => rfl
  | cons c cs ih =>
    rw [List.foldl_cons, ih]
    split
    · split <;> rfl
    · rfl

@[simp] theorem spad_sendDiscards (s : State) (t n : Nat) (st : Stream) : (sendDiscards s t n st).spad = s.spad := by
  rw [sendDiscards_eq]
@[simp] theorem gate_sendDiscards (s : State) (t n : Nat) (st : Stream) : (sendDiscards s t n st).gate = s.gate := by
  rw [sendDiscards_eq]
@[simp] theorem cpc_sendDiscards (s : State) (t n : Nat) (st : Stream) : (sendDiscards s t n st).cpc = s.cpc := by
  rw [sendDiscards_eq]
@[simp] theorem gen_sendDiscards (s : State) (t n : Nat) (st : Stream) : (sendDiscards s t n st).gen = s.gen := by
  rw [sendDiscards_eq]
@[simp] theorem pg_sendDiscards (s : State) (t n : Nat) (st : Stream) : (sendDiscards s t n st).pg = s.pg := by
  rw [sendDiscards_eq]
@[simp] theorem tile_sendDiscards (s : State) (t n : Nat) (st : Stream) (j : Nat) : (sendDiscards s t n st).tile j = s.tile j := by
  rw [sendDiscards_eq]; rfl

/-! ## RESUME and ABANDON -/

@[simp] theorem spad_restartStream (s : State) (t n : Nat) (st : Stream) : (restartStream s t n st).spad = s.spad := by
  simp [restartStream]

@[simp] theorem spad_clearPark (s : State) (t n : Nat) : (clearPark s t n).spad = s.spad := rfl

theorem spad_abandonStream (s : State) (t : Nat) (l : Line) (e : EntryRef) (st : Stream) :
    (abandonStream s t l e st).spad = s.spad := by
  unfold abandonStream
  dsimp only
  split <;> simp

theorem spad_resumeEffect (s : State) (t : Nat) (h : HeldInstr) : (resumeEffect s t h).spad = s.spad := by
  unfold resumeEffect
  split
  · split
    · exact spad_abandonStream ..
    · exact spad_restartStream ..
  · exact spad_failIssue ..

/-! ## LAUNCH of a source -/

theorem spad_simpleEffect (s : State) (t : Nat) (src : Source) (ord : Nat) (h : HeldInstr) :
    (simpleEffect s t src ord h).spad = s.spad := by
  unfold simpleEffect
  dsimp only
  split
  case h_1 | h_2 =>
    rw [enqueueSig_eq]
    rfl
  case h_3 | h_4 | h_5 | h_6 => exact spad_register ..
  all_goals simp

theorem spad_goOn (s : State) (t : Nat) (src : Source) (ord : Nat) (h : HeldInstr) : (goOn s t src ord h).spad = s.spad := by
  unfold goOn
  split
  · exact spad_simpleEffect ..
  · split <;> rfl

theorem spad_launchHeld (s : State) (t : Nat) (src : Source) : (launchHeld s t src).spad = s.spad := by
  unfold launchHeld
  split
  · dsimp only
    split
    · split
      · rfl
      · exact spad_goOn (clearHold s t src) ..
    · rfl
  · rfl

theorem spad_launchSource (s : State) (t : Nat) (src : Source) : (launchSource s t src).spad = s.spad := by
  unfold launchSource
  split
  next i _ =>
    split
    · exact spad_launchHeld ..
    · split
      · exact spad_resumeEffect (takeIssued s t i) ..
      · unfold launchIssued
        split
        · rfl
        · exact spad_simpleEffect (takeIssued s t i) ..
  next => exact spad_launchHeld ..

/-! ## Fields of a word that is put together -/

theorem bit_atN (v i j : Nat) : bit (atN v i) j = (decide (j < 32) && (decide (i ≤ j) && v.testBit (j - i))) := by
  rw [bit, atN, BitVec.getLsbD_ofNat, Nat.testBit_shiftLeft]

theorem bit_at1 (b : Bool) (i j : Nat) : bit (at1 b i) j = (b && decide (j < 32) && decide (i = j)) := by
  cases b
  · simp [at1, bit]
  · rw [at1, if_pos rfl, bit, BitVec.getLsbD_ofNat, Nat.testBit_two_pow, Bool.true_and]

/-- A value put above a field is not in it. -/
theorem fld_atN_above {i hi : Nat} (v lo : Nat) (h : hi < i) : fld (atN v i) hi lo = 0 := by
  refine Nat.eq_of_testBit_eq fun j => ?_
  rw [testBit_fld, bit_atN]
  by_cases hj : j < hi + 1 - lo
  · have : ¬ i ≤ lo + j := by omega
    simp [this]
  · simp [hj]

/-- A value that ends below a field is not in it. -/
theorem fld_atN_below {v i lo : Nat} (hi : Nat) (hv : v < 2 ^ (lo - i)) (h : i ≤ lo) : fld (atN v i) hi lo = 0 := by
  refine Nat.eq_of_testBit_eq fun j => ?_
  have hbig : v.testBit (lo + j - i) = false :=
    Nat.testBit_lt_two_pow (lt_of_lt_of_le hv (Nat.pow_le_pow_right (by decide) (by omega)))
  rw [testBit_fld, bit_atN, hbig]
  simp

theorem fld_at1_outside {i hi lo : Nat} (b : Bool) (h : hi < i ∨ i < lo) : fld (at1 b i) hi lo = 0 := by
  refine Nat.eq_of_testBit_eq fun j => ?_
  rw [testBit_fld, bit_at1]
  by_cases hj : j < hi + 1 - lo
  · have : i ≠ lo + j := by omega
    simp [this]
  · simp [hj]

/-- A value that its field holds. -/
theorem fld_atN_self {v hi lo : Nat} (hv : v < 2 ^ (hi + 1 - lo)) (hw : hi < 32) : fld (atN v lo) hi lo = v := by
  refine Nat.eq_of_testBit_eq fun j => ?_
  rw [testBit_fld, bit_atN]
  by_cases hj : j < hi + 1 - lo
  · have hlt : lo + j < 32 := by omega
    simp [hj, hlt]
  · have hbig : v.testBit j = false :=
      Nat.testBit_lt_two_pow (lt_of_lt_of_le hv (Nat.pow_le_pow_right (by decide) (by omega)))
    simp [hj, hbig]

/-! ## Completions (R317, R327) -/

/-- The completion that `addComp` queues. -/
def compOf (s : State) (e : EntryRef) (c : CompArgs) : Comp :=
  { idx := e.idx, flags := e.flags
    w72 := atN (min 65535 c.late) 16 ||| at1 c.claimed 12 ||| at1 (!c.prog.isEmpty) 11 ||| atN c.cause 8 ||| atN c.status 0
    w76 := atN c.rstatus 24 ||| atN c.stream 21 ||| atN (s.ring e.ring).tile 16 ||| atN c.tag 0
    tLaunch := c.tl, tRetire := c.tr, prog := c.prog, phase := .ready, who := c.who }

theorem comps_addComp (s : State) (e : EntryRef) (c : CompArgs) :
    ((addComp s e c).ring e.ring).comps = (s.ring e.ring).comps ++ [compOf s e c] := by
  rw [addComp, ring_setRing, if_pos rfl]
  rfl

theorem mem_comps_addComp (s : State) (e : EntryRef) (c : CompArgs) : compOf s e c ∈ ((addComp s e c).ring e.ring).comps := by
  rw [comps_addComp]
  exact List.mem_append_right _ (List.mem_singleton_self _)

@[simp] theorem tile_addComp (s : State) (e : EntryRef) (c : CompArgs) (j : Nat) : (addComp s e c).tile j = s.tile j := rfl

/-- The status byte of a completion. -/
theorem status_compOf {s : State} {e : EntryRef} {c : CompArgs} (h : c.status < 256) : fld (compOf s e c).w72 7 0 = c.status := by
  simp only [compOf, fld_or, fld_atN_above _ 0 (show 7 < 16 by decide), fld_atN_above _ 0 (show 7 < 8 by decide),
    fld_at1_outside _ (Or.inl (show 7 < 12 by decide)), fld_at1_outside _ (Or.inl (show 7 < 11 by decide)), Nat.zero_or]
  exact fld_atN_self h (by decide)

/-! ## The end of an instruction with a code -/

/-- The end of a ring's entry sweeps what is behind it in its job, and keeps its completion. -/
theorem sweeps_endInstr (s : State) (t : Nat) (e : EntryRef) (pc : Nat) (c : CompArgs) :
    Sweeps s (endInstr s t (some e) pc c) := by
  unfold endInstr
  dsimp only
  split
  · exact (sweeps_addComp s e c).trans (sweeps_breakJob ..)
  · exact sweeps_addComp s e c

theorem mem_comps_endInstr (s : State) (t : Nat) (e : EntryRef) (pc : Nat) (c : CompArgs) :
    compOf s e c ∈ ((endInstr s t (some e) pc c).ring e.ring).comps := by
  unfold endInstr
  dsimp only
  split
  · exact (sweeps_breakJob ..).mem_comps (mem_comps_addComp s e c)
  · exact mem_comps_addComp s e c

theorem endInstr_prog (s : State) (t pc : Nat) {c : CompArgs} (h8 : 8 ≤ c.status) (hpark : c.status ≠ 0x18) :
    endInstr s t none pc c = progFault s t c.stream pc c.status c.launched := if_pos ⟨h8, hpark⟩

theorem setSource_prog_free {x : Tile} (h : x.prog.hold = .none) : x.setSource .prog { x.source .prog with hold := .none } = x := by
  have hprog : ({ x.prog with hold := .none } : SourceSt) = x.prog := by rw [← h]
  exact congrArg (fun p => { x with prog := p }) hprog

theorem captureFault_captured (x : Tile) (n pc code : Nat) : FaultCaptured x (captureFault x n pc code) n code pc :=
  ⟨rfl, fun h => if_pos h, fun h => if_neg (by simp [h])⟩

/-- The program's tile after a fault that finds nothing held: its pending signals stay. -/
def faultedTile (x : Tile) (n pc code : Nat) : Tile :=
  { captureFault x n pc code with seq := .faulted, pc := pc, fetched := none, stopping := false }

/-- A fault before launch, of a program whose source nothing holds. -/
theorem progFault_free {s : State} {t : Nat} (n pc : Nat) {code : Nat} (hhold : (s.tile t).prog.hold = .none) (hcode : code ≠ 0x08) :
    OnlyTile s (progFault s t n pc code false) t
      ∧ (progFault s t n pc code false).tile t = faultedTile (s.tile t) n pc code := by
  let s1 := s.setTile t (captureFault (s.tile t) n pc code)
  have htile1 : s1.tile t = captureFault (s.tile t) n pc code := by simp [s1]
  have hhold1 : (s1.tile t).prog.hold = .none := by rw [htile1]; exact hhold
  have hkeep : withdrawHold s1 t .prog = s1 := by
    have hnone : ((s1.tile t).source .prog).hold = .none := hhold1
    simp only [withdrawHold, hnone]
  have hfault : progFault s t n pc code false = (clearHold s1 t .prog).setTile t { (clearHold s1 t .prog).tile t with
      seq := .faulted, pc := pc, fetched := none, stopping := false } := by
    have hne : ¬ code = stRefused := hcode
    simp only [progFault, stopProgram, hne, if_false, Bool.false_eq_true]
    rw [hkeep]
  rw [hfault]
  refine ⟨onlyTile_trans (onlyTile_setTile s t _) (onlyTile_trans (onlyTile_clearHold s1 t .prog) (onlyTile_setTile _ t _)), ?_⟩
  rw [tile_setTile, if_pos rfl, tile_clearHold, setSource_prog_free hhold1, htile1]
  rfl

end Sys2Proof.Proofs
end

section
/-! PROOF. Instructions held by DEP or LAUNCH, what waits behind them, and their LAUNCH (R43, R51, R61). -/

namespace Sys2Proof.Proofs

open Sys2Proof Sys2Proof.Machine

/-! ## The instruction that a source is held at -/

/-- A held instruction as its registrations leave it: conditions may have fired, and which held last is noted. -/
def SameHeld (h k : HeldInstr) : Prop :=
  k = { h with launch := { h.launch with conds := k.launch.conds, cause := k.launch.cause, timeLast := k.launch.timeLast } }
  ∧ k.launch.conds.map (fun c => (c.cid, c.express, c.operand, c.scope))
      = h.launch.conds.map (fun c => (c.cid, c.express, c.operand, c.scope))

theorem SameHeld.refl (h : HeldInstr) : SameHeld h h := ⟨rfl, rfl⟩

/-- The condition that fires keeps its counter, operand and scope. -/
theorem keys_fire (la : LaunchSt) (i : Nat) : (la.fire i).conds.map (fun c => (c.cid, c.express, c.operand, c.scope))
    = la.conds.map (fun c => (c.cid, c.express, c.operand, c.scope)) := by
  have hkey (p : Cond × Nat) : (fun c : Cond => (c.cid, c.express, c.operand, c.scope))
      (if p.2 = i then { p.1 with fired := true } else p.1) = (p.1.cid, p.1.express, p.1.operand, p.1.scope) := by
    split <;> rfl
  simp only [LaunchSt.fire, List.map_map, Function.comp_def, hkey]
  rw [← Function.comp_def (fun c : Cond => (c.cid, c.express, c.operand, c.scope)) Prod.fst, ← List.map_map, List.zipIdx_map_fst]

theorem SameHeld.fire {h k : HeldInstr} (hk : SameHeld h k) (i : Nat) :
    SameHeld h { k with launch := k.launch.fire i } := by
  obtain ⟨heq, hkeys⟩ := hk
  refine ⟨?_, (keys_fire k.launch i).trans hkeys⟩
  rw [heq]
  rfl

/-- In `u` the source that `s` holds at `h` is still held at it, and nothing else of the tile but express watches differs. -/
structure KeepsHeld (s : State) (t : Nat) (src : Source) (h : HeldInstr) (u : State) : Prop where
  source : ∃ k, (u.tile t).source src = { (s.tile t).source src with hold := .instr k } ∧ SameHeld h k
  tile : u.tile t = { s.tile t with prog := (u.tile t).prog, rings := (u.tile t).rings, xwatches := (u.tile t).xwatches
                                    xheld := (u.tile t).xheld }
  spad : u.spad = s.spad

theorem keepsHeld_holdAt (s : State) (t : Nat) (src : Source) (h : HeldInstr) : KeepsHeld s t src h (holdAt s t src h) where
  source := ⟨h, by rw [holdAt, tile_setTile, if_pos rfl, source_setSource, if_pos rfl], .refl h⟩
  tile := by
    rw [holdAt, tile_setTile, if_pos rfl]
    cases src <;> rfl
  spad := rfl

theorem tile_compareScope (s : State) (rel : Option Rel) (acq : Nat) (w : Waiter) (cid j : Nat) :
    (compareScope s rel acq w cid).tile j = s.tile j := by
  unfold compareScope
  split
  · rfl
  · split
    · exact tile_raise ..
    · rfl

theorem spad_compareScope (s : State) (rel : Option Rel) (acq : Nat) (w : Waiter) (cid : Nat) :
    (compareScope s rel acq w cid).spad = s.spad := (sweeps_compareScope ..).spad

section
variable {s u : State} {t : Nat} {src : Source} {h : HeldInstr} (hu : KeepsHeld s t src h u)
include hu

theorem KeepsHeld.of_tile {v : State} (htile : v.tile t = u.tile t) (hspad : v.spad = u.spad) : KeepsHeld s t src h v where
  source := by rw [htile]; exact hu.source
  tile := by rw [htile]; exact hu.tile
  spad := hspad.trans hu.spad

/-- A condition of the instruction that fires is marked, and the source is held on. -/
theorem KeepsHeld.wake {r : Reg} (hr : r.who = { tile := t, stream := none, src := src, ord := ((s.tile t).source src).ord, cond := r.who.cond })
    (result : Nat) : KeepsHeld s t src h (wake u r result).1 := by
  obtain ⟨⟨k, hk, hsame⟩, htile, hspad⟩ := hu
  rw [Machine.wake, hr]
  simp only [hk, if_true]
  refine ⟨⟨{ k with launch := k.launch.fire r.who.cond }, ?_, hsame.fire _⟩, ?_, hspad⟩
  · rw [tile_setTile, if_pos rfl, source_setSource, if_pos rfl]
  · rw [tile_setTile, if_pos rfl, setSource_eq, htile]

theorem KeepsHeld.register {r : Reg}
    (hr : r.who = { tile := t, stream := none, src := src, ord := ((s.tile t).source src).ord, cond := r.who.cond }) :
    KeepsHeld s t src h (register u r) := by
  unfold Machine.register registerX
  split
  · dsimp only
    split
    · exact (hu.of_tile (tile_compareScope ..) (spad_compareScope ..)).wake hr 0
    · have ht : r.who.tile = t := by rw [hr]
      rw [ht]
      obtain ⟨⟨k, hk, hsame⟩, htile, hspad⟩ := hu
      split
      all_goals
        refine ⟨⟨k, ?_, hsame⟩, ?_, hspad⟩
        · rw [tile_setTile, if_pos rfl, ← hk]
          cases src <;> rfl
        · rw [tile_setTile, if_pos rfl, htile]
  · exact hu.of_tile rfl rfl

theorem KeepsHeld.registerConds {cs : List Cond} : KeepsHeld s t src h (registerConds u t none src ((s.tile t).source src).ord cs) := by
  unfold Machine.registerConds
  induction cs.zipIdx generalizing u with
  | nil => exact hu
  | cons p ps ih => exact ih (hu.register rfl)

end

/-- Issue with DEP or LAUNCH leaves the source held at the head. -/
theorem keepsHeld_issue {s : State} {t : Nat} {src : Source} {hd : Head} (h : Offered s t src hd) (hheld : ¬ Freed hd.line)
    (hroom : rowOf hd.line = .sig ∨ rowOf hd.line = .bar → ((s.tile t).pend (Source.isRing src)).length < 4) :
    KeepsHeld (popHead s t src) t src (captureHeld s t src hd) (issueSimple s t src (rowOf hd.line) .clean) := by
  have hdep : iDep hd.line = true ∨ iLaunch hd.line ≠ 0 := by
    by_contra hno
    rw [not_or, not_not, Bool.not_eq_true] at hno
    exact hheld hno
  have hord : ((s.tile t).source src).ord + 1 = (((popHead s t src).tile t).source src).ord := by
    rw [tile_popHead, source_leftHead]
  rw [issueSimple_offered h, pendFull_of_room hroom, if_neg (by simp), if_pos hdep, hord]
  exact (keepsHeld_holdAt ..).registerConds

theorem heldInstructionWaits : Claims.HeldInstructionWaits := by
  intro s t src hd c hoff hheld hcmd hroom
  obtain ⟨⟨k, hk, hsame, hkeys⟩, htile, hspad⟩ := keepsHeld_issue hoff hheld hroom
  rw [tile_popHead] at hk htile
  rw [source_leftHead] at hk
  exact ⟨_, k, exec_simpleCmd hcmd s, by rw [hk], congrArg HeldInstr.line hsame, congrArg HeldInstr.entry hsame, by rw [hk],
    congrArg (fun k => k.launch.kind) hsame, hkeys, fun hl => (congrArg (fun k => k.launch.tL) hsame).trans (if_pos hl),
    congrArg HeldInstr.opA hsame, congrArg HeldInstr.opB hsame, (congrArg Tile.g htile).trans (g_leftHead ..),
    (congrArg Tile.pc htile).trans (pc_leftHead ..), (congrArg Tile.tdt htile).trans (tdt_leftHead ..),
    (congrArg Tile.odt htile).trans (odt_leftHead ..), (congrArg Tile.fences htile).trans (fences_leftHead ..),
    (congrArg (fun x => Tile.pend x (Source.isRing src)) htile).trans (pend_leftHead ..), hspad.trans (spad_popHead ..)⟩

/-! ## Instructions that wait for their turn (R43) -/

/-- Issue of an instruction that neither DEP nor LAUNCH holds, behind one that has not launched. -/
theorem issueSimple_waits {s : State} {t : Nat} {src : Source} {hd : Head} (h : Offered s t src hd) (hfree : Freed hd.line)
    (hun : ¬ Unheld s t src hd.line) (hat : (rowOf hd.line).atIssue = false)
    (hroom : rowOf hd.line = .sig ∨ rowOf hd.line = .bar → ((s.tile t).pend (Source.isRing src)).length < 4) :
    issueSimple s t src (rowOf hd.line) .clean =
      if Machine.holdsSource hd.line = true then holdAt (popHead s t src) t src (captureHeld s t src hd)
      else (popHead s t src).setTile t { leftHead (s.tile t) src with issued := (s.tile t).issued ++
        [{ src := src, ord := ((s.tile t).source src).ord + 1, held := captureHeld s t src hd }] } := by
  have hturn : turnCome (popHead s t src) t src (((s.tile t).source src).ord + 1) hd.entry = false := by
    rw [turnCome_popHead, Bool.eq_false_iff]
    exact fun hcome => hun (unheld_of_turnCome hfree hcome)
  obtain ⟨hdep, hlaunch⟩ := hfree
  rw [issueSimple_offered h, pendFull_of_room hroom, if_neg (by simp), if_neg (by simp [hdep, hlaunch])]
  simp only [goOn, captureHeld, hat, hturn, Bool.or_self, Bool.false_eq_true, if_false, tile_popHead, issued_leftHead]

theorem holdsSource_iff (l : Line) : Machine.holdsSource l = true ↔
    ((waitCode (rowOf l)).isSome = true ∨ (rowOf l = .bar ∧ iWrel l = true)) := by
  simp only [Machine.holdsSource, Bool.or_eq_true, Bool.and_eq_true, decide_eq_true_eq]
  cases rowOf l <;> simp [waitCode, Row.isWait]

theorem source_withIssued (x : Tile) (is : List IssuedInstr) (src : Source) : ({ x with issued := is } : Tile).source src = x.source src := by
  cases src <;> rfl

theorem instructionAwaitsTurn : Claims.InstructionAwaitsTurn := by
  intro s t src hd c x holds hoff hfree hun hrow hcmd hroom
  have hat : (rowOf hd.line).atIssue = false := by
    simp only [List.mem_cons, List.not_mem_nil, or_false] at hrow
    obtain h | h | h | h | h | h | h | h := hrow <;> rw [h] <;> rfl
  have hhold : (x.source src).hold = .none := by
    obtain ⟨-, hhead, -, -, -⟩ := hoff
    exact hold_of_headOf hhead
  have hissue := issueSimple_waits hoff hfree hun hat hroom
  refine ⟨_, captureHeld s t src hd, exec_simpleCmd hcmd s, rfl, rfl, rfl, rfl, fun hh => ?_, fun hh => ?_, ?_⟩
  · rw [hissue, if_pos ((holdsSource_iff _).mpr hh), holdAt, tile_setTile, if_pos rfl, source_setSource, if_pos rfl, tile_popHead]
    exact ⟨rfl, by rw [issued_setSource, issued_leftHead]⟩
  · rw [hissue, if_neg (fun hs => hh ((holdsSource_iff _).mp hs)), tile_setTile, if_pos rfl, source_withIssued, source_leftHead]
    exact ⟨hhold, rfl⟩
  · rw [hissue]
    split
    · simp [holdAt, tile_popHead, x]
    · rw [tile_setTile, if_pos rfl, source_withIssued]
      exact ⟨by rw [source_leftHead], g_leftHead .., pc_leftHead .., fences_leftHead .., pend_leftHead .., spad_popHead ..⟩

/-! ## LAUNCH of a held SET, JMP, BR or HALT (R61) -/

theorem condsHeld_iff (la : LaunchSt) : condsHeld la = true ↔ ∀ c ∈ la.conds, c.fired = true := List.all_eq_true

theorem condsHeld_eq_false {la : LaunchSt} (h : ∃ c ∈ la.conds, c.fired = false) : condsHeld la = false := by
  obtain ⟨c, hc, hfired⟩ := h
  refine Bool.eq_false_iff.mpr fun hall => ?_
  rw [(condsHeld_iff la).mp hall c hc] at hfired
  cases hfired

theorem timeHeld_of {s : State} {la : LaunchSt}
    (h : la.kind = 0 ∨ (s.pg.valid = true ∧ s.pg.frozen = false ∧ ∃ tL, la.tL = some tL ∧ tL ≤ s.pg.time)) :
    timeHeld s la = true := by
  rw [timeHeld]
  obtain hkind | ⟨hvalid, hfrozen, tL, htL, hle⟩ := h
  · simp [hkind]
  · simp [hvalid, hfrozen, htL, localTime, hle]

theorem heldReady_of_conds {s : State} {h : HeldInstr} (hconds : ∀ c ∈ h.launch.conds, c.fired = true)
    (htime : h.launch.kind = 0 ∨ (s.pg.valid = true ∧ s.pg.frozen = false ∧ ∃ tL, h.launch.tL = some tL ∧ tL ≤ s.pg.time)) :
    heldReady s h = true := by
  rw [heldReady, (condsHeld_iff _).mpr hconds, timeHeld_of htime]
  rfl

/-- LAUNCH of a source that is held at a program instruction of the kind that takes effect at issue. -/
theorem launchHeld_atIssue {s : State} {t : Nat} {src : Source} {h : HeldInstr} (hhold : ((s.tile t).source src).hold = .instr h)
    (hready : heldReady s h = true) (hat : (rowOf h.line).atIssue = true) : launchHeld s t src =
      noteWait (simpleEffect (clearHold s t src) t src ((s.tile t).source src).ord
        { h with launch := atLaunch (clearHold s t src) h.launch }) t src 2 := by
  have hnot : Machine.holdsSource h.line = false := by
    rw [Bool.eq_false_iff]
    intro hs
    rw [holdsSource_iff] at hs
    revert hat hs
    cases rowOf h.line <;> simp [waitCode, Row.atIssue, Row.isSet]
  have hroom : pendFull (s.tile t) src (rowOf h.line) = false :=
    pendFull_of_room (fun hr => by obtain hr | hr := hr <;> rw [hr] at hat <;> cases hat)
  simp only [launchHeld, hhold, hready, hnot, hroom, Bool.not_false, Bool.or_true, Bool.and_self, Bool.and_false,
    Bool.false_eq_true, if_true, if_false]
  rw [goOn_atIssue hat]

/-- The tile after the effect of an instruction that takes effect at issue. -/
def atIssueTile (x : Tile) (h : HeldInstr) (now : DWord) : Tile :=
  match rowOf h.line with
  | .jmp => { x with pc := iTarget h.line }
  | .br => if branchTaken h.line h.opA h.opB = true then { x with pc := iTarget h.line } else x
  | .halt => { x with stopping := true }
  | r => setEffect x h.line r h.opA h.opB now

theorem simpleEffect_atIssue {h : HeldInstr} (hat : (rowOf h.line).atIssue = true) (s : State) (t : Nat) (src : Source) (ord : Nat) :
    simpleEffect s t src ord h = finishDone (s.setTile t (atIssueTile (s.tile t) h s.pg.time)) t h.entry h.line h.launch false := by
  unfold simpleEffect atIssueTile
  cases hr : rowOf h.line
  case move | walk | sig | waitGe | waitEq | waitAcquire | waitClaim | fence | bar | nop | resume | abandon | bad =>
    rw [hr] at hat
    cases hat
  all_goals rfl

theorem atIssueTile_set {x : Tile} {h : HeldInstr} {now : DWord} (hset : (rowOf h.line).isSet = true) :
    atIssueTile x h now = setEffect x h.line (rowOf h.line) h.opA h.opB now := by
  unfold atIssueTile
  split
  case h_1 hr | h_2 hr | h_3 hr =>
    rw [hr] at hset
    cases hset
  case h_4 => rfl

theorem atIssue_of_isSet {r : Row} (h : r.isSet = true) : r.atIssue = true := by
  cases r <;> cases h <;> rfl

theorem prog_setG (x : Tile) (n : Nat) (v : DWord) : (x.setG n v).prog = x.prog := by
  unfold Tile.setG
  split <;> rfl

theorem prog_setEffect (x : Tile) (l : Line) (r : Row) (a b now : DWord) : (setEffect x l r a b now).prog = x.prog := by
  unfold setEffect
  dsimp only
  split
  · rfl
  · rfl
  · exact prog_setG ..

theorem prog_atIssueTile (x : Tile) (h : HeldInstr) (now : DWord) : (atIssueTile x h now).prog = x.prog := by
  unfold atIssueTile
  split
  · rfl
  · split <;> rfl
  · rfl
  · exact prog_setEffect ..

/-- LAUNCH of the instruction of the program that takes effect at issue: its source is free again, and the rest of the tile that a
program sees is as the effect makes it. -/
theorem launchProg_atIssue {s : State} {t : Nat} {h : HeldInstr} (hrun : coreRuns s t = true) (hhold : (s.tile t).prog.hold = .instr h)
    (hissued : ∀ i, nextIssued (s.tile t) .prog = some i → issuedReady s t i = false) (hready : heldReady s h = true)
    (hat : (rowOf h.line).atIssue = true) {y : Tile}
    (hy : atIssueTile ((s.tile t).setSource .prog { (s.tile t).prog with hold := .none }) h s.pg.time = y) :
    ∃ u, exec (.launch t (.source .prog)) s = .next u ∧ (u.tile t).prog.hold = .none ∧ SameBytes s u
      ∧ (∀ n, (u.tile t).greg n = y.greg n) ∧ (u.tile t).g = y.g ∧ (u.tile t).pc = y.pc ∧ (u.tile t).tdt = y.tdt
      ∧ (u.tile t).odt = y.odt ∧ (u.tile t).stopping = y.stopping := by
  have hlaunch : launchSource s t .prog = noteWait (finishDone ((clearHold s t .prog).setTile t y) t h.entry h.line
      (atLaunch (clearHold s t .prog) h.launch) false) t .prog 2 := by
    rw [launchSource_held hissued, launchHeld_atIssue (src := .prog) hhold hready hat, simpleEffect_atIssue (h := { h with launch := atLaunch (clearHold s t .prog) h.launch }) hat, tile_clearHold, ← hy]
    rfl
  have hlate := onlyLate_finishDone ((clearHold s t .prog).setTile t y) t h.entry h.line
    (atLaunch (clearHold s t .prog) h.launch) false t
  have hhold' : y.prog.hold = .none := by rw [← hy, prog_atIssueTile]; rfl
  rw [tile_setTile, if_pos rfl] at hlate
  rw [exec_launch_source hrun, hlaunch]
  refine ⟨_, rfl, ?_, sameBytes_of_spad (spad_finishDone ..), ?_⟩
  all_goals rw [tile_noteWait]
  · exact (congrArg SourceSt.hold (hlate.source .prog)).trans hhold'
  · exact ⟨hlate.greg, hlate.g, hlate.pc, hlate.tdt, hlate.odt, hlate.stopping⟩

theorem setOf_some {r : Row} {a b now v : DWord} (h : setOf a b now r = some v) : r.isSet = true ∧ r ≠ .tdw ∧ r ≠ .odw := by
  cases r <;> simp_all [setOf, Row.isSet]

theorem setValue_of_setOf {l : Line} {r : Row} {a b now v : DWord} (h : setOf a (b + iImm l) now r = some v) :
    setValue l r a b now = v := by
  cases r <;> cases h <;> rfl

theorem setG_pc_tdt_odt (x : Tile) (n : Nat) (v : DWord) :
    (x.setG n v).pc = x.pc ∧ (x.setG n v).tdt = x.tdt ∧ (x.setG n v).odt = x.odt := by
  unfold Tile.setG
  split <;> exact ⟨rfl, rfl, rfl⟩

/-- A held instruction whose conditions do not hold stays held. -/
theorem launchHeld_waits {s : State} {t : Nat} {src : Source} {h : HeldInstr} (hhold : ((s.tile t).source src).hold = .instr h)
    (hready : heldReady s h = false) : launchHeld s t src = s := by
  simp only [launchHeld, hhold, hready, Bool.false_and, Bool.false_eq_true, if_false]

theorem heldSetLaunches : Claims.HeldSetLaunches := by
  intro s t h x l op2 runs hrun hhold hentry hissued
  have hstays (hready : heldReady s h = false) : exec (.launch t (.source .prog)) s = .next s := by
    rw [exec_launch_source hrun, launchSource_held hissued, launchHeld_waits (src := .prog) hhold hready]
  refine ⟨fun hconds htime => ?_, fun ⟨c, hc, hfired⟩ => hstays ?_, fun hkind hvalid => hstays ?_⟩
  · have hready := heldReady_of_conds hconds htime
    refine ⟨fun v hv => ?_, fun hr => ?_, fun hr => ?_, fun hr => ?_, fun hr htaken => ?_, fun hr hnot hcond => ?_, fun hr => ?_⟩
    · obtain ⟨hset, htdw, hodw⟩ := setOf_some hv
      obtain ⟨u, hexec, hnone, hsame, hgreg, -, hpc, htdt, hodt, -⟩ := launchProg_atIssue hrun hhold hissued hready (atIssue_of_isSet hset)
        (y := (x.setSource .prog { x.prog with hold := .none }).setG (iSetD l) v) (by
          rw [← setValue_of_setOf hv, ← setEffect_reg _ _ htdw hodw]
          exact atIssueTile_set hset)
      obtain ⟨hp, ht, ho⟩ := setG_pc_tdt_odt (x.setSource .prog { x.prog with hold := .none }) (iSetD l) v
      exact ⟨u, hexec, hnone, hsame, fun n => (hgreg n).trans (greg_setG ..), hpc.trans hp, htdt.trans ht, hodt.trans ho⟩
    · have hrow : rowOf h.line = _ := hr
      have hset : (rowOf h.line).isSet = true := by rw [hrow]; rfl
      obtain ⟨u, hexec, hnone, hsame, -, hg, -, htdt, hodt, -⟩ := launchProg_atIssue hrun hhold hissued hready (atIssue_of_isSet hset)
        (atIssueTile_set hset)
      rw [hrow] at hg htdt hodt
      exact ⟨u, hexec, hnone, hsame, hg, hodt, fun k => (congrArg (Tab.get · 0 k) htdt).trans (get_putDWord ..)⟩
    · have hrow : rowOf h.line = _ := hr
      have hset : (rowOf h.line).isSet = true := by rw [hrow]; rfl
      obtain ⟨u, hexec, hnone, hsame, -, hg, -, htdt, hodt, -⟩ := launchProg_atIssue hrun hhold hissued hready (atIssue_of_isSet hset)
        (atIssueTile_set hset)
      rw [hrow] at hg htdt hodt
      exact ⟨u, hexec, hnone, hsame, hg, htdt, fun k => (congrArg (Tab.get · 0 k) hodt).trans (get_putDWord ..)⟩
    · obtain ⟨u, hexec, hnone, hsame, -, hg, hpc, -⟩ := launchProg_atIssue hrun hhold hissued hready (by rw [hr]; rfl)
        (by rw [atIssueTile, hr])
      exact ⟨u, hexec, hnone, hsame, hg, hpc⟩
    · have hcond : iBrCond l < 6 := by
        unfold brTaken at htaken
        omega
      obtain ⟨u, hexec, hnone, hsame, -, hg, hpc, -⟩ := launchProg_atIssue hrun hhold hissued hready (by rw [hr]; rfl)
        (show _ = { (s.tile t).setSource .prog _ with pc := iTarget l } by rw [atIssueTile, hr]; exact if_pos ((branchTaken_iff l _ _ hcond).mpr htaken))
      exact ⟨u, hexec, hnone, hsame, hg, hpc⟩
    · obtain ⟨u, hexec, hnone, hsame, -, hg, hpc, -⟩ := launchProg_atIssue hrun hhold hissued hready (by rw [hr]; rfl)
        (show _ = (s.tile t).setSource .prog _ by rw [atIssueTile, hr]; exact if_neg (fun hb => hnot ((branchTaken_iff l _ _ hcond).mp hb)))
      exact ⟨u, hexec, hnone, hsame, hg, hpc⟩
    · obtain ⟨u, hexec, hnone, hsame, -, hg, -, -, -, hstop⟩ := launchProg_atIssue hrun hhold hissued hready (by rw [hr]; rfl)
        (by rw [atIssueTile, hr])
      exact ⟨u, hexec, hnone, hsame, hg, hstop⟩
  · rw [heldReady, condsHeld_eq_false ⟨c, hc, hfired⟩, Bool.false_and]
  · rw [heldReady, timeHeld, hvalid, decide_eq_false hkind, Bool.false_and, Bool.false_and, Bool.or_self, Bool.and_false]

/-! ## LAUNCH of a held CLAIM on an express counter -/

/-- A WAIT CLAIM with RREG = 1 as issue would capture it, but on express counter 0, which issue refuses (R248). -/
def expressClaim : HeldInstr :=
  { line := BitVec.ofNat 512 (0x11 + 3 <<< 208 + 1 <<< 216), pc := 0, entry := none
    launch := { conds := [], kind := 0, tL := none, lreg := 0, cause := 2, stepped := false, tbinv := false, timeLast := false
                ll := 0, tl := 0 }
    cid := 0, express := true, opA := 0, opB := 0 }

/-- Tile 0, whose core is on, is held at that CLAIM with g1 = 5. -/
def claimHeld : State :=
  { State.reset with cpc := { Cpc.init with doms := [(GenConfig.domCore State.reset.gen 0, { Dom.init with state := .on })] } }.setTile 0
    { Tile.init with g := [(1, 5)], prog := { ord := 1, hold := .instr expressClaim, issueWait := 0 } }

/-- Its LAUNCH finds the replica at the operand: the CLAIM completes and writes its result to g1. -/
theorem greg_launch_claimHeld : ((launchSource claimHeld 0 .prog).tile 0).g ≠ (claimHeld.tile 0).g := by decide +kernel

/-- Refutes O12: the other claims of it hold as `heldInstructionWaits`, `instructionAwaitsTurn` and `heldSetLaunches` prove them,
but the last one lets the held WAIT be a CLAIM on an express counter, which no issue check has let through, and says that its LAUNCH
leaves the registers. Where the replica satisfies it, the LAUNCH completes the CLAIM and writes RREG (`claimHeld`). -/
theorem not_heldInstructions : ¬ Obligations.HeldInstructions := by
  unfold Obligations.HeldInstructions
  rintro ⟨-, -, -, hothers⟩
  have hrun : coreRuns claimHeld 0 = true := by decide +kernel
  obtain ⟨u, hexec, -, hregs, -⟩ := hothers claimHeld 0 .prog expressClaim 1 hrun (by decide +kernel) (by decide +kernel)
    (by decide +kernel) (.inl ⟨by decide +kernel, by decide +kernel, by decide +kernel⟩)
  rw [exec_launch_source hrun] at hexec
  obtain rfl : launchSource claimHeld 0 .prog = u := by injection hexec
  obtain ⟨hg, -⟩ := hregs (by decide +kernel)
  exact greg_launch_claimHeld hg

end Sys2Proof.Proofs
end

section
/-! PROOF. Instructions that fail an issue check (R69, R76), and an error in the context copy (R415). -/

namespace Sys2Proof.Proofs

open Sys2Proof Sys2Proof.Machine

/-! ## The codes of the issue checks -/

theorem code_of_rankCode {m f p : Bool} {code : Nat} (h : rankCode m f p = some code) :
    code = 0x10 ∨ code = 0x11 ∨ code = 0x19 := by
  unfold rankCode at h
  split at h
  · exact .inl (Option.some.inj h).symm
  · split at h
    · exact .inr (.inl (Option.some.inj h).symm)
    · split at h
      · exact .inr (.inr (Option.some.inj h).symm)
      · cases h

/-! ## A failed check (R69) -/

/-- The fields of the fault of an instruction that fails at issue. -/
theorem fault_at_issue (code pc : Nat) :
    (0x80000000 ||| atN 0 27 ||| atN code 10 ||| atN pc 0 : Word) = 0x80000000 ||| BitVec.ofNat 32 (code * 1024) ||| BitVec.ofNat 32 pc := by
  simp [atN, Nat.shiftLeft_eq]

theorem fault_faultedTile {x : Tile} (hv : bit x.fault 31 = false) (pc code : Nat) :
    (faultedTile (issuedProg x) 0 pc code).fault = 0x80000000 ||| BitVec.ofNat 32 (code * 1024) ||| BitVec.ofNat 32 pc := by
  have hfree : ¬ bit (issuedProg x).fault 31 = true := by
    rw [show bit (issuedProg x).fault 31 = false from hv]
    exact Bool.false_ne_true
  exact (if_neg hfree).trans (fault_at_issue code pc)

/-- A program instruction that fails at issue ends the program. -/
theorem failIssue_prog {s : State} {t : Nat} {hd : Head} {code : Nat} (hhead : headOf (s.tile t) .prog = some hd)
    (hcode : code = 0x10 ∨ code = 0x11 ∨ code = 0x19 ∨ code = 0x38) :
    OnlyTile s (failIssue (popHead s t .prog) t hd.entry hd.pc hd.line code) t
      ∧ (failIssue (popHead s t .prog) t hd.entry hd.pc hd.line code).tile t = faultedTile (issuedProg (s.tile t)) 0 hd.pc code := by
  have hhold := hold_of_headOf hhead
  have htile : (popHead s t .prog).tile t = issuedProg (s.tile t) := by
    rw [tile_popHead_prog hhold]
  rw [failIssue, entry_of_headOf_prog hhead, endInstr_prog _ _ _ (by simp; omega) (by simp; omega)]
  obtain ⟨honly, hfault⟩ := progFault_free (s := popHead s t .prog) (t := t) 0 hd.pc (code := code) (by rw [htile]; rfl) (by omega)
  exact ⟨onlyTile_trans (popHead_prog_onlyTile s t) honly, hfault.trans (by rw [htile])⟩

/-- A ring's entry that fails at issue completes with the code, and its tile goes on. -/
theorem failIssue_ring {s : State} {t : Nat} {src : Source} {hd : Head} {e : EntryRef} {code : Nat} (he : hd.entry = some e)
    (hcode : code < 256) :
    ((failIssue (popHead s t src) t hd.entry hd.pc hd.line code).tile t).seq = (s.tile t).seq
      ∧ ∃ k ∈ ((failIssue (popHead s t src) t hd.entry hd.pc hd.line code).ring e.ring).comps,
          k.idx = e.idx ∧ k.flags = e.flags ∧ k.phase = .ready ∧ k.w72.toNat % 256 = code ∧ k.tLaunch = 0 := by
  rw [he, failIssue]
  refine ⟨((sweeps_endInstr ..).seq t).trans ?_, _, mem_comps_endInstr .., rfl, rfl, rfl, ?_, rfl⟩
  · rw [tile_popHead, seq_leftHead]
  · exact status_compOf (s := popHead s t src) (e := e) (c := { status := code, tag := iTag hd.line, tr := localTime (popHead s t src), launched := false }) hcode

theorem issueSimple_fails {s : State} {t : Nat} {src : Source} {hd : Head} {want : Row} {code : Nat} (hrun : coreRuns s t = true)
    (hhead : headOf (s.tile t) src = some hd) (hstg : (s.tile t).stgPending = none) (hrow : rowOf hd.line = want ∨ rowOf hd.line = .bad)
    (hcode : issueCode s t hd.line (Source.isRing src) = some code) :
    issueSimple s t src want .clean = failIssue (popHead s t src) t hd.entry hd.pc hd.line code := by
  have hoffered : ¬ (rowOf hd.line ≠ want ∧ rowOf hd.line ≠ .bad) := by tauto
  simp only [issueSimple, hrun, hhead, hstg, Bool.not_true, Bool.false_eq_true, if_false, hoffered, Option.isSome_none,
    ctxEcc_clean, hcode]

theorem programCheckFaults : Claims.ProgramCheckFaults := by
  intro s t hd r c code hrun hhead hstg hcode hrow hcmd
  have hcodes := code_of_rankCode hcode
  obtain ⟨honly, htile⟩ := failIssue_prog hhead (code := code) (by omega)
  rw [exec_simpleCmd hcmd, issueSimple_fails hrun hhead hstg hrow hcode]
  refine ⟨_, rfl, honly, ?_, ?_, ?_, ?_, fun hv => ?_, fun hv => ?_⟩
  all_goals rw [htile]
  · rfl
  · rfl
  · rfl
  · rfl
  · exact if_pos hv
  · exact fault_faultedTile hv hd.pc code

theorem issueStream_fails {s : State} {t : Nat} {src : Source} {hd : Head} {want : Row} {code : Nat} (hrun : coreRuns s t = true)
    (hhead : headOf (s.tile t) src = some hd) (hstg : (s.tile t).stgPending = none) (hrow : rowOf hd.line = want) (hbad : want ≠ .bad)
    (hecc : (s.tile t).badWords.any (issueReads (s.tile t) hd.line) = false)
    (hcode : streamCode s t hd.line (Source.isRing src) (issueCtx (s.tile t) hd.line (Source.isRing src)) = some code) :
    issueStream s t src want .clean .clean = failIssue (popHead s t src) t hd.entry hd.pc hd.line code := by
  simp [issueStream, hrun, hhead, hstg, hrow, hbad, Tile.readEcc, hecc, ctxEcc_clean, hcode]

theorem issueResume_fails {s : State} {t : Nat} {src : Source} {hd : Head} {want : Row} {code : Nat} (hrun : coreRuns s t = true)
    (hhead : headOf (s.tile t) src = some hd) (hrow : rowOf hd.line = want) (hbad : want ≠ .bad)
    (hcode : issueCode s t hd.line (Source.isRing src) = some code) :
    issueResume s t src want = failIssue (popHead s t src) t hd.entry hd.pc hd.line code := by
  simp [issueResume, hrun, hhead, hrow, hbad, hcode]

theorem failedIssueEnds : Claims.FailedIssueEnds := by
  intro s t src hd c code x l ring hrun hhead hfails
  have hfail : exec c s = .next (failIssue (popHead s t src) t hd.entry hd.pc hd.line code)
      ∧ (code = 0x10 ∨ code = 0x11 ∨ code = 0x19) := by
    obtain ⟨hrow, hstg, hecc, hcode⟩ | ⟨hrow, hcode⟩ | ⟨hcmd, hstg, hcode⟩ := hfails
    · refine ⟨?_, code_of_rankCode hcode⟩
      obtain ⟨hr, rfl⟩ | ⟨hr, rfl⟩ := hrow
      all_goals exact congrArg Host.Outcome.next (issueStream_fails hrun hhead hstg hr (by decide) hecc hcode)
    · refine ⟨?_, code_of_rankCode hcode⟩
      obtain ⟨hr, rfl⟩ | ⟨hr, rfl⟩ := hrow
      all_goals exact congrArg Host.Outcome.next (issueResume_fails hrun hhead hr (by decide) hcode)
    · refine ⟨?_, code_of_rankCode hcode⟩
      rw [exec_simpleCmd hcmd, issueSimple_fails hrun hhead hstg (.inl rfl) hcode]
  obtain ⟨hexec, hcodes⟩ := hfail
  refine ⟨_, hexec, sameBytes_of_spad (by simp), fun hnone => ?_, fun e he => failIssue_ring he (by omega)⟩
  have hsrc : src = .prog := by
    have hring := entry_isSome_of_headOf hhead
    rw [hnone] at hring
    cases src <;> simp_all [Source.isRing]
  subst hsrc
  obtain ⟨honly, htile⟩ := failIssue_prog hhead (code := code) (by omega)
  refine ⟨honly, ?_, ?_, ?_, fun hv => ?_⟩
  all_goals rw [htile]
  · rfl
  · rfl
  · rfl
  · exact fault_faultedTile hv hd.pc code

/-! ## An error in the context copy (R415) -/

theorem mem_ctxBad_loseCtx (s : State) (k : Nat) : k ∈ (loseCtx s k).lodge.ctxBad := by
  unfold loseCtx
  dsimp only
  split
  next h => exact List.contains_iff_mem.mp h
  next => exact List.mem_append_right _ (List.mem_singleton_self k)

theorem ctxEntry_congr {s u : State} (hgen : u.gen = s.gen) (hlodge : u.lodge = s.lodge) (t x i : Nat) :
    ctxEntry u t x i = ctxEntry s t x i := by
  simp only [ctxEntry, hgen, hlodge]

theorem expressBad_congr {s u : State} (hgen : u.gen = s.gen) (hlodge : u.lodge = s.lodge) (t : Nat) (l : Line) (r : Row) :
    expressBad u t l r = expressBad s t l r := by
  simp only [expressBad, cidOf, ctxEntry_congr hgen hlodge]

/-- An entry that is unmapped names no counter. -/
theorem ctxEntry_of_bad {s : State} {t x i : Nat} (h : ctxPlace (GenConfig.leafOf s.gen t) (64 * x + i) ∈ s.lodge.ctxBad) :
    ctxEntry s t x i = none := by
  have hbad : s.lodge.ctxBad.contains (ctxPlace (GenConfig.leafOf s.gen t) (64 * x + i)) = true := List.contains_iff_mem.mpr h
  simp only [ctxEntry, hbad, Bool.true_or, if_true]

/-- The first place that a NOP's issue reads is that of a local sync ID of its header. -/
theorem ctxReads_nop {s : State} {t : Nat} {l : Line} {k : Nat} (hrow : rowOf l = .nop) (h : (ctxReads s t l).head? = some k) :
    ∃ i ∈ headerIds l, k = ctxPlace (GenConfig.leafOf s.gen t) (64 * iCtx l + i) := by
  have hmem := List.mem_of_mem_head? h
  simp only [ctxReads, hrow, List.mem_map, List.mem_append] at hmem
  obtain ⟨i, hi | hi, rfl⟩ := hmem
  · exact ⟨i, hi, rfl⟩
  · simp [Row.isWait] at hi

/-- With an entry that it names unmapped, an instruction whose word is good fails with PERMISSION. -/
theorem issueCode_of_lost {s : State} {t : Nat} {l : Line} {i : Nat} (hrow : rowOf l = .nop) (hword : wordBad l false = false)
    (hexpress : expressBad s t l .nop = false) (hi : i ∈ headerIds l)
    (hlost : ctxPlace (GenConfig.leafOf s.gen t) (64 * iCtx l + i) ∈ s.lodge.ctxBad) :
    issueCode s t l false = some 0x19 := by
  have hperm : permBad s t l .nop = true := by
    have hany : (headerIds l).any (fun i => idBad s t (ctxEntry s t (iCtx l) i)) = true :=
      List.any_eq_true.mpr ⟨i, hi, by rw [ctxEntry_of_bad hlost]; rfl⟩
    rw [permBad, hany, Bool.true_or, Bool.true_or]
  simp only [issueCode, rankCode, hrow, hword, hexpress, hperm, Bool.or_self, Bool.false_eq_true, if_false, if_true]
  rfl

theorem klog_unrecovered {s : State} (h : keeperRuns s = true) (m : Mech) (u : LogUnit) (i : LogInfo) :
    (klog s .unrecovered m u i).keeper.unrec = satInc s.keeper.unrec := by
  simp only [klog, h, Bool.not_true, Bool.false_eq_true, if_false, raiseFault, raise_keeper]
  rfl

theorem contextErrorFails : Claims.ContextErrorFails := by
  intro s t hd k l hrun hhead hstg hrow hreads hword hexpress hkeeper
  obtain ⟨i, hi, hk⟩ := ctxReads_nop hrow hreads
  let s1 := loseCtx (klog s .unrecovered .sramUe (luRouter (GenConfig.leafOf s.gen t))
    { code := stPermission, addr := BitVec.ofNat 64 (k % 16384) }) k
  have htile1 : s1.tile t = s.tile t := tile_klog ..
  have hlodge1 : s1.lodge = (loseCtx s k).lodge := by simp [s1, loseCtx]
  have hgen1 : s1.gen = (loseCtx s k).gen := klog_gen ..
  have hecc : ctxEcc s t hd.line .bad = s1 := by
    have hreads' : (ctxReads s t hd.line).head? = some k := hreads
    simp only [ctxEcc, hreads']
    rfl
  have hcode : issueCode s1 t hd.line false = some 0x19 := by
    refine issueCode_of_lost hrow hword ((expressBad_congr hgen1 hlodge1 ..).trans hexpress) hi ?_
    rw [hlodge1, hgen1, show (loseCtx s k).gen = s.gen from rfl, ← hk]
    exact mem_ctxBad_loseCtx s k
  have hexec : exec (.nop t { it := .prog, ecc := .bad }) s = .next (issueSimple s t .prog .nop .bad) := rfl
  have hissue : issueSimple s t .prog .nop .bad = failIssue (popHead s1 t .prog) t hd.entry hd.pc hd.line 0x19 := by
    have hisRing : Source.isRing .prog = false := rfl
    have hrow' : rowOf hd.line = .nop := hrow
    simp only [issueSimple, hrun, hhead, hstg, hrow', hecc, hisRing, hcode, Bool.not_true, Bool.false_eq_true, if_false,
      Option.isSome_none, ne_eq, not_true_eq_false, false_and]
  obtain ⟨⟨honly, -⟩, htile⟩ := failIssue_prog (s := s1) (t := t) (hd := hd) (code := 0x19) (by rw [htile1]; exact hhead) (by omega)
  rw [hexec, hissue]
  refine ⟨_, rfl, ?_, ?_, ?_, sameBytes_of_spad ?_, fun hv => ?_⟩
  · rw [honly]
    exact mem_ctxBad_loseCtx _ k
  · rw [htile]
    rfl
  · rw [honly]
    exact klog_unrecovered hkeeper ..
  · rw [spad_failIssue, spad_popHead]
    exact klog_spad ..
  · rw [htile, htile1]
    exact fault_faultedTile hv hd.pc 0x19

/-- Settles O13: by form, a failed check goes to `failIssue`; the context error reaches it through `issueCode_of_lost`. -/
theorem issueCheckFaults : Obligations.IssueCheckFaults := by
  unfold Obligations.IssueCheckFaults
  exact ⟨programCheckFaults, failedIssueEnds, contextErrorFails⟩

end Sys2Proof.Proofs
end

section
/-! PROOF. MOVE and WALK allocate a stream (R41, R44, R45, R103). -/

namespace Sys2Proof.Proofs

open Sys2Proof Sys2Proof.Machine

/-! ## Fields that are put in a word -/

theorem bit_putFld (w : Word) {hi : Nat} (lo v j : Nat) (hhi : hi < 32) :
    bit (putFld w hi lo v) j = if lo ≤ j ∧ j ≤ hi then v.testBit (j - lo) else bit w j := by
  by_cases hj : j < 32
  · have hmask : (BitVec.ofNat 32 ((2 ^ (hi + 1 - lo) - 1) <<< lo)).getLsbD j = decide (lo ≤ j ∧ j ≤ hi) := by
      rw [BitVec.getLsbD_ofNat, Nat.testBit_shiftLeft, Nat.testBit_two_pow_sub_one]
      by_cases hlo : lo ≤ j
      · simp only [hj, hlo, decide_true, Bool.true_and, true_and]
        exact decide_eq_decide.mpr (by omega)
      · simp [hlo]
    simp only [putFld, bit, BitVec.getLsbD_or, BitVec.getLsbD_and, BitVec.getLsbD_not, hmask, BitVec.getLsbD_ofNat,
      Nat.testBit_shiftLeft]
    by_cases hin : lo ≤ j ∧ j ≤ hi
    · simp [hin, hj]
    · simp [hin, hj]
  · have hout : ¬ (lo ≤ j ∧ j ≤ hi) := by omega
    rw [if_neg hout, bit, bit, BitVec.getLsbD_of_ge _ j (by omega), BitVec.getLsbD_of_ge _ j (by omega)]

/-- A field reads as what was put in it. -/
theorem fld_putFld {w : Word} {hi lo v : Nat} (hv : v < 2 ^ (hi + 1 - lo)) (hhi : hi < 32) : fld (putFld w hi lo v) hi lo = v := by
  refine Nat.eq_of_testBit_eq fun j => ?_
  rw [testBit_fld, bit_putFld _ _ _ _ hhi]
  by_cases hj : j < hi + 1 - lo
  · have hin : lo ≤ lo + j ∧ lo + j ≤ hi := by omega
    simp [hj, hin]
  · have hbig : v.testBit j = false :=
      Nat.testBit_lt_two_pow (lt_of_lt_of_le hv (Nat.pow_le_pow_right (by decide) (by omega)))
    simp [hj, hbig]

/-! ## The registrations of a stream's conditions (R253) -/

/-- In `u` stream `n` is `st` but for its launch record; other streams, registers, priorities and bytes are as in `s`. -/
structure KeepsStream (s : State) (t n : Nat) (st : Stream) (u : State) : Prop where
  stream : ∃ la, u.stream? t n = some { st with launch := la }
  others : ∀ m, m ≠ n → u.stream? t m = s.stream? t m
  g : (u.tile t).g = (s.tile t).g
  prio : (u.tile t).prio = (s.tile t).prio
  spad : u.spad = s.spad

/-- A condition of a stream that has not launched fires. -/
theorem wake_stream {u : State} {r : Reg} {t n : Nat} {st : Stream} (hst : u.stream? t n = some st)
    (hr : r.who = { tile := t, stream := some n, src := st.src, ord := st.ord, cond := r.who.cond }) (hl : st.launched = false)
    (result : Nat) : wake u r result = (u.setStream t n { st with launch := st.launch.fire r.who.cond }, true) := by
  have hfind : Tab.find (u.tile t).streams n = some st := hst
  rw [wake, hr]
  simp only [hfind]
  exact if_pos ⟨trivial, trivial, by rw [hl]; rfl⟩

section
variable {s u : State} {t n : Nat} {st : Stream} (hu : KeepsStream s t n st u)
include hu

theorem KeepsStream.of_fields {v : State} (hs : (v.tile t).streams = (u.tile t).streams) (hg : (v.tile t).g = (u.tile t).g)
    (hp : (v.tile t).prio = (u.tile t).prio) (hspad : v.spad = u.spad) : KeepsStream s t n st v where
  stream := by rw [State.stream?, hs]; exact hu.stream
  others m hm := by rw [State.stream?, hs]; exact hu.others m hm
  g := hg.trans hu.g
  prio := hp.trans hu.prio
  spad := hspad.trans hu.spad

theorem KeepsStream.wake {r : Reg} (hr : r.who = { tile := t, stream := some n, src := st.src, ord := st.ord, cond := r.who.cond })
    (hl : st.launched = false) (result : Nat) : KeepsStream s t n st (wake u r result).1 := by
  obtain ⟨⟨la, hst⟩, hothers, hg, hp, hspad⟩ := hu
  rw [wake_stream hst hr hl]
  refine ⟨⟨la.fire r.who.cond, ?_⟩, fun m hm => ?_, ?_, ?_, hspad⟩
  · rw [stream_setStream, if_pos ⟨rfl, rfl⟩]
  · rw [stream_setStream, if_neg (fun h => hm h.2), hothers m hm]
  · simpa [State.setStream] using hg
  · simpa [State.setStream] using hp

theorem KeepsStream.register {r : Reg}
    (hr : r.who = { tile := t, stream := some n, src := st.src, ord := st.ord, cond := r.who.cond }) (hl : st.launched = false) :
    KeepsStream s t n st (register u r) := by
  unfold Machine.register registerX
  split
  · dsimp only
    split
    · refine (hu.of_fields ?_ ?_ ?_ (spad_compareScope ..)).wake hr hl 0
      all_goals rw [tile_compareScope]
    · have ht : r.who.tile = t := by rw [hr]
      rw [ht]
      split
      all_goals
        refine hu.of_fields ?_ ?_ ?_ rfl
        all_goals rw [tile_setTile, if_pos rfl]
  · exact hu.of_fields rfl rfl rfl rfl

theorem KeepsStream.registerConds {cs : List Cond} (hl : st.launched = false) :
    KeepsStream s t n st (registerConds u t (some n) st.src st.ord cs) := by
  unfold Machine.registerConds
  induction cs.zipIdx generalizing u with
  | nil => exact hu
  | cons p ps ih => exact ih (hu.register rfl hl)

end

/-! ## Issue of MOVE and WALK -/

theorem allocate_keeps {s : State} {t n : Nat} {hd : Head} {src : Source} {c : IssueCtx} {e d : Elem} (hn : n < 8)
    (hp : iPrio hd.line < 16) : ∃ u st, allocate s t n hd src c e d = u ∧ u.stream? t n = some st
      ∧ (∃ la, st = { newStream s t hd src (((s.tile t).source src).ord + 1) ((s.tile t).source src).issueWait c e d with launch := la })
      ∧ prioOf (u.tile t) n = iPrio hd.line ∧ (∀ m, m ≠ n → u.stream? t m = s.stream? t m) ∧ (u.tile t).g = (s.tile t).g
      ∧ u.spad = s.spad := by
  let st := newStream s t hd src (((s.tile t).source src).ord + 1) ((s.tile t).source src).issueWait c e d
  let s2 := (popHead s t src).setStream t n st
  let s3 := s2.setTile t { s2.tile t with prio := putFld (s2.tile t).prio (4 * n + 3) (4 * n) (iPrio hd.line)
                                          waited := Tab.put (s2.tile t).waited n 0 }
  have hstart : KeepsStream s3 t n st s3 := by
    refine ⟨⟨st.launch, ?_⟩, fun _ _ => rfl, rfl, rfl, rfl⟩
    simp [s3, s2, State.stream?, State.setStream]
  have hall : allocate s t n hd src c e d = registerConds s3 t (some n) st.src st.ord st.launch.conds := by
    simp only [allocate, tile_popHead, source_leftHead]
    rfl
  obtain ⟨⟨la, hla⟩, hothers, hg, hprio, hspad⟩ := hstart.registerConds (cs := st.launch.conds) rfl
  have hpop : (s2.tile t).g = (s.tile t).g ∧ ∀ m, m ≠ n → s2.stream? t m = s.stream? t m := by
    refine ⟨by simp [s2, State.setStream, tile_popHead], fun m hm => ?_⟩
    rw [stream_setStream, if_neg (fun h => hm h.2), State.stream?, tile_popHead, streams_leftHead]
    rfl
  obtain ⟨hg2, hothers2⟩ := hpop
  refine ⟨_, _, hall, hla, ⟨la, rfl⟩, ?_, fun m hm => ?_, ?_, ?_⟩
  · have h3 : (s3.tile t).prio = putFld (s2.tile t).prio (4 * n + 3) (4 * n) (iPrio hd.line) := by simp [s3]
    have hwidth : 4 * n + 3 + 1 - 4 * n = 4 := by omega
    rw [prioOf, hprio, h3]
    exact fld_putFld (by rw [hwidth]; exact hp) (by omega)
  · rw [hothers m hm, ← hothers2 m hm]
    simp [s3, State.stream?]
  · rw [hg, ← hg2]
    simp [s3]
  · rw [hspad]
    exact spad_popHead ..

theorem badFormat_of_rankCode {m f p : Bool} (h : rankCode m f p = none) : f = false := by
  cases m <;> cases f <;> simp_all [rankCode]

theorem fmtOf_of_elemOrByte {f : Nat} (h : (elemOrByte f).2 = true) : ∃ e, fmtOf f = some e := by
  unfold elemOrByte at h
  split at h
  next e he => exact ⟨e, he⟩
  next => cases h

/-- Both formats of a MOVE or WALK that passes its checks are defined (R69). -/
theorem fmtOf_of_streamCode {s : State} {t : Nat} {l : Line} {ring : Bool} {c : IssueCtx} (h : streamCode s t l ring c = none) :
    (∃ e, fmtOf (tdFmt c.src) = some e) ∧ ∃ d, fmtOf (tdFmt c.dst) = some d := by
  have hfmt := badFormat_of_rankCode h
  simp only [Bool.or_eq_false_iff, Bool.not_eq_false', Bool.and_eq_true, and_assoc] at hfmt
  obtain ⟨hsrc, hdst, -⟩ := hfmt
  exact ⟨fmtOf_of_elemOrByte hsrc, fmtOf_of_elemOrByte hdst⟩

theorem lt_of_freeOf {x : Tile} {ring : Bool} {n : Nat} (h : freeOf x ring = some n) : n < 8 := by
  have hmem := List.mem_of_find?_eq_some h
  rw [poolOf, List.mem_filter, List.mem_range] at hmem
  exact hmem.1

theorem iPrio_lt (l : Line) : iPrio l < 16 := Nat.mod_lt _ (by decide)

theorem issueStream_allocates {s : State} {t : Nat} {src : Source} {hd : Head} {n : Nat} {want : Row} (hrun : coreRuns s t = true)
    (hhead : headOf (s.tile t) src = some hd) (hstg : (s.tile t).stgPending = none)
    (hecc : (s.tile t).badWords.any (issueReads (s.tile t) hd.line) = false)
    (hcode : streamCode s t hd.line (Source.isRing src) (issueCtx (s.tile t) hd.line (Source.isRing src)) = none)
    (hfree : freeOf (s.tile t) (Source.isRing src) = some n) (hrow : rowOf hd.line = want) (hbad : want ≠ .bad) :
    ∃ e d, issueStream s t src want .clean .clean =
      allocate s t n hd src (issueCtx (s.tile t) hd.line (Source.isRing src)) e d := by
  obtain ⟨⟨e, he⟩, ⟨d, hd'⟩⟩ := fmtOf_of_streamCode hcode
  refine ⟨e, d, ?_⟩
  simp [issueStream, hrun, hhead, hstg, hrow, hbad, Tile.readEcc, hecc, ctxEcc_clean, hcode, hfree, he, hd']

/-- What issue captures of a MOVE or WALK. -/
theorem issueStream_captures {s : State} {t : Nat} {src : Source} {hd : Head} {n : Nat} {want : Row} (hrun : coreRuns s t = true)
    (hhead : headOf (s.tile t) src = some hd) (hstg : (s.tile t).stgPending = none)
    (hecc : (s.tile t).badWords.any (issueReads (s.tile t) hd.line) = false)
    (hcode : streamCode s t hd.line (Source.isRing src) (issueCtx (s.tile t) hd.line (Source.isRing src)) = none)
    (hfree : freeOf (s.tile t) (Source.isRing src) = some n) (hrow : rowOf hd.line = want) (hbad : want ≠ .bad) :
    ∃ u st e d la, issueStream s t src want .clean .clean = u ∧ Allocates s u t n src hd st
      ∧ st = { newStream s t hd src (((s.tile t).source src).ord + 1) ((s.tile t).source src).issueWait
          (issueCtx (s.tile t) hd.line (Source.isRing src)) e d with launch := la } := by
  obtain ⟨e, d, hissue⟩ := issueStream_allocates hrun hhead hstg hecc hcode hfree hrow hbad
  obtain ⟨u, st, hall, hst, ⟨la, hla⟩, hprio, hothers, hg, hspad⟩ :=
    allocate_keeps (s := s) (t := t) (src := src) (c := issueCtx (s.tile t) hd.line (Source.isRing src)) (e := e) (d := d)
      (lt_of_freeOf hfree) (iPrio_lt hd.line)
  refine ⟨u, st, e, d, la, hissue.trans hall, ⟨hst, ?_⟩, hla⟩
  rw [hla]
  exact ⟨rfl, rfl, rfl, rfl, rfl, rfl, rfl, rfl, rfl, rfl, hprio, hothers, hg, hspad⟩

/-- Settles O14: `allocate` with the registrations that `KeepsStream` follows, and the walkers as `newStream` starts them. -/
theorem issueAllocatesStream : Obligations.IssueAllocatesStream := by
  unfold Obligations.IssueAllocatesStream
  intro s t src hd n l x hrun hhead hstg hecc hcode hfree
  refine ⟨fun hrow => ?_, fun hrow => ?_⟩
  · obtain ⟨u, st, e, d, la, hissue, hall, rfl⟩ := issueStream_captures hrun hhead hstg hecc hcode hfree hrow (by decide)
    have hnot : ¬ rowOf hd.line = .walk := by rw [show rowOf hd.line = .move from hrow]; decide
    refine ⟨u, _, congrArg Host.Outcome.next hissue, hall, ?_, ?_⟩
    all_goals simp [newStream, issueCtx, hnot, x, l]
  · obtain ⟨u, st, e, d, la, hissue, hall, rfl⟩ := issueStream_captures hrun hhead hstg hecc hcode hfree hrow (by decide)
    have hwalk : rowOf hd.line = .walk := hrow
    refine ⟨u, _, congrArg Host.Outcome.next hissue, hall, ?_, ?_, fun hr => ?_, fun hw => ?_⟩
    · simp [newStream, issueCtx, hwalk]
    · simp [newStream, issueCtx, hwalk]
    · have hr' : iRuse hd.line = true := hr
      simp [newStream, issueCtx, hwalk, hr', Walker.init, Walker.reg, x, l]
    · have hw' : iWuse hd.line = true := hw
      simp [newStream, issueCtx, hwalk, hw', Walker.init, Walker.reg, x, l]

end Sys2Proof.Proofs
end

section
/-! PROOF. LAUNCH of a stream, and its refusal (R42, R229, R230, R308, R309). -/

namespace Sys2Proof.Proofs

open Sys2Proof Sys2Proof.Machine

theorem exec_launch_stream (s : State) (t n : Nat) : exec (.launch t (.stream n)) s = .next (launchStream s t n) := rfl

/-! ## LAUNCH (R229, R230) -/

/-- The tile's record of a stream does not depend on the window counters. -/
theorem streams_resetWindow (x : Tile) (n : Nat) : (resetWindow x n).streams = x.streams := rfl

/-- The stream that launches is not among those behind it. -/
theorem find_launched_orderCleared {x : Tile} {n : Nat} {st : Stream} (h : Tab.find x.streams n = some st) (hl : st.launched = true) :
    Tab.find (orderCleared x st.src st.ord).streams n = some st := by
  rw [find_streams_orderCleared, h]
  simp [hl]

theorem streamLaunches : Claims.StreamLaunches := by
  intro s t n st hrun hst hlaunched habort
  rw [exec_launch_stream]
  refine ⟨fun hconds htime horder hjob hrefuse => ?_, fun hconds => ?_⟩
  · have hgo : launchStream s t n = (s.setStream t n { st with launched := true, launch := atLaunch s st.launch }).setTile t
        (resetWindow (orderCleared ((s.setStream t n { st with launched := true, launch := atLaunch s st.launch }).tile t) st.src st.ord)
          n) := by
      simp [launchStream, hst, hrun, hlaunched, habort, (condsHeld_iff st.launch).mpr hconds, timeHeld_of htime, horder, hjob, hrefuse]
    rw [hgo]
    have hfind : Tab.find ((s.setStream t n { st with launched := true, launch := atLaunch s st.launch }).tile t).streams n
        = some { st with launched := true, launch := atLaunch s st.launch } := by
      rw [← State.stream?, stream_setStream, if_pos ⟨rfl, rfl⟩]
    refine ⟨_, { st with launched := true, launch := atLaunch s st.launch }, rfl,
      onlyTile_trans (onlyTile_setTile s t _) (onlyTile_setTile _ t _), ?_, rfl, rfl, ?_, ?_⟩
    · rw [State.stream?, tile_setTile, if_pos rfl, streams_resetWindow]
      exact find_launched_orderCleared (st := { st with launched := true, launch := atLaunch s st.launch }) hfind rfl
    · rw [tile_setTile, if_pos rfl]
      simp [resetWindow]
    · rw [tile_setTile, if_pos rfl]
      refine (congrArg Tile.g (orderCleared_eq ..)).trans ?_
      simp [State.setStream]
  · simp [launchStream, hst, condsHeld_eq_false hconds]

/-! ## Refusal (R308, R309) -/

/-- A state whose tile has its refusal captured. -/
def refused (s : State) (t n : Nat) (st : Stream) (el : Nat) : State :=
  s.setTile t (captureRefusal (s.tile t) st.entry.isNone n st.pc el)

theorem captureRefusal_eq (x : Tile) (isProg : Bool) (n pc el : Nat) : captureRefusal x isProg n pc el =
    { x with refuseCount := satInc x.refuseCount, admitReg := (captureRefusal x isProg n pc el).admitReg } := by
  unfold captureRefusal
  dsimp only
  split <;> rfl

theorem admitReg_captureRefusal_kept {x : Tile} {isProg : Bool} (h : bit x.admitReg 31 = true ∨ isProg = false) (n pc el : Nat) :
    (captureRefusal x isProg n pc el).admitReg = x.admitReg := by
  obtain h | h := h <;> simp [captureRefusal, h]

theorem admitReg_captureRefusal {x : Tile} (h : bit x.admitReg 31 = false) (n pc el : Nat) :
    (captureRefusal x true n pc el).admitReg = 0x80000000 ||| atN n 28 ||| atN pc 16 ||| atN (min 65535 el) 0 := by
  simp [captureRefusal, h]

/-- What a refusal leaves of the tile but the counters of faults, where the instruction is the program's. -/
theorem refuseLaunch_prog {s : State} {t n : Nat} {st : Stream} (he : st.entry = none) (el : Nat) : refuseLaunch s t n st el =
    ((refused s t n st el).freeStream t n).setTile t
      (captureFault (((refused s t n st el).freeStream t n).tile t) n st.pc stRefused) := by
  rw [refuseLaunch, he, endInstr_prog _ _ _ (show 8 ≤ 0x08 by decide) (show 0x08 ≠ 0x18 by decide)]
  simp only [progFault, if_true, refused, he]

theorem stream_free_none (s : State) (t n : Nat) : (s.freeStream t n).stream? t n = none := by
  rw [stream_freeStream, if_pos ⟨rfl, rfl⟩]

theorem fld_late_refused {s : State} {e : EntryRef} {c : CompArgs} (hs : c.status < 2 ^ 16) (hc : c.cause = 0) :
    fld (compOf s e c).w72 31 16 = min 65535 c.late := by
  have hlow : fld (atN c.status 0) 31 16 = 0 := fld_atN_below 31 hs (by decide)
  have hcause : fld (atN c.cause 8) 31 16 = 0 := by rw [hc]; rfl
  have hlate : fld (atN (min 65535 c.late) 16) 31 16 = min 65535 c.late :=
    fld_atN_self (lt_of_le_of_lt (Nat.min_le_left ..) (by decide)) (by decide)
  simp only [compOf, fld_or, hlow, hcause, hlate, fld_at1_outside _ (Or.inr (show 12 < 16 by decide)),
    fld_at1_outside _ (Or.inr (show 11 < 16 by decide)), Nat.or_zero]

theorem Sweeps.refuseCount {s u : State} (h : Sweeps s u) (j : Nat) : (u.tile j).refuseCount = (s.tile j).refuseCount := by
  rw [h.tile j]; rfl

theorem Sweeps.admitReg {s u : State} (h : Sweeps s u) (j : Nat) : (u.tile j).admitReg = (s.tile j).admitReg := by
  rw [h.tile j]; rfl

/-- What the end of a refused instruction leaves. -/
theorem refuseLaunch_leaves (s : State) (t n : Nat) (st : Stream) (el : Nat) :
    (refuseLaunch s t n st el).stream? t n = none ∧ (refuseLaunch s t n st el).spad = s.spad
      ∧ ((refuseLaunch s t n st el).tile t).refuseCount = satInc (s.tile t).refuseCount
      ∧ ((refuseLaunch s t n st el).tile t).admitReg = (captureRefusal (s.tile t) st.entry.isNone n st.pc el).admitReg
      ∧ ((refuseLaunch s t n st el).tile t).seq = (s.tile t).seq := by
  have hcap : (refused s t n st el).tile t = captureRefusal (s.tile t) st.entry.isNone n st.pc el := by simp [refused]
  have hcount : ((refused s t n st el).tile t).refuseCount = satInc (s.tile t).refuseCount := by rw [hcap, captureRefusal_eq]
  have hseq : ((refused s t n st el).tile t).seq = (s.tile t).seq := by rw [hcap, captureRefusal_eq]
  have hfree := sweeps_freeStream (refused s t n st el) t n
  have hgone := stream_free_none (refused s t n st el) t n
  rw [← hcount, ← hseq, ← hcap]
  cases he : st.entry with
  | none =>
    rw [refuseLaunch_prog he]
    refine ⟨?_, rfl, ?_, ?_, ?_⟩
    all_goals simp only [State.stream?, tile_setTile, if_true]
    · exact hgone
    · exact hfree.refuseCount t
    · exact hfree.admitReg t
    · exact hfree.seq t
  | some e =>
    have hend : Sweeps ((refused s t n st el).freeStream t n) (refuseLaunch s t n st el) := by
      rw [refuseLaunch, refused, he]
      exact sweeps_endInstr ..
    have hsw := hfree.trans hend
    exact ⟨hend.streams t n hgone, hsw.spad, hsw.refuseCount t, hsw.admitReg t, hsw.seq t⟩

/-- The completion of a refused entry. -/
theorem mem_comps_refuseLaunch {s : State} {t n : Nat} {st : Stream} {e : EntryRef} (he : st.entry = some e) (el : Nat) :
    ∃ c ∈ ((refuseLaunch s t n st el).ring e.ring).comps, c.idx = e.idx ∧ c.flags = e.flags ∧ fld c.w72 7 0 = 0x08
      ∧ fld c.w72 31 16 = min 65535 el ∧ c.tLaunch = 0 := by
  rw [refuseLaunch, he]
  exact ⟨_, mem_comps_endInstr .., rfl, rfl, status_compOf (show 0x08 < 256 by decide),
    fld_late_refused (show 0x08 < 2 ^ 16 by decide) rfl, rfl⟩

theorem lateLaunchRefused : Claims.LateLaunchRefused := by
  intro s t n st hrun hst hlaunched habort hconds htime horder hjob hrefuse el hlate
  have hgo : launchStream s t n = (refuseLaunch s t n st el).setTile t
      (orderCleared ((refuseLaunch s t n st el).tile t) st.src st.ord) := by
    have hlate' : oLbudget st.od < estimate s t n st (atLaunch s st.launch).ll := hlate
    simp [launchStream, hst, hrun, hlaunched, habort, hconds, htime, horder, hjob, hrefuse, hlate', el]
  have hsw : Sweeps (refuseLaunch s t n st el) (launchStream s t n) := by
    rw [hgo]
    exact sweeps_orderCleared ..
  obtain ⟨hgone, hspad, hcount, hadmit, hseq⟩ := refuseLaunch_leaves s t n st el
  rw [exec_launch_stream]
  refine ⟨_, rfl, hsw.streams t n hgone, hsw.spad.trans hspad, (hsw.refuseCount t).trans hcount, fun hkept => ?_,
    fun hv he => ⟨(hsw.seq t).trans hseq, ?_⟩, fun e he => ?_⟩
  · refine ((hsw.admitReg t).trans hadmit).trans (admitReg_captureRefusal_kept (hkept.imp_right fun h => ?_) ..)
    cases hentry : st.entry <;> simp_all
  · rw [hsw.admitReg t, hadmit, he]
    exact admitReg_captureRefusal hv ..
  · obtain ⟨c, hc, hfields⟩ := mem_comps_refuseLaunch (s := s) (t := t) (n := n) he el
    exact ⟨c, hsw.mem_comps hc, hfields⟩

/-- Settles O15: `launchStream` takes the branch that the hypotheses choose; a refusal is `refuseLaunch_leaves`. -/
theorem streamsLaunch : Obligations.StreamsLaunch := by
  unfold Obligations.StreamsLaunch
  exact ⟨streamLaunches, lateLaunchRefused⟩

end Sys2Proof.Proofs
end

section
/-! PROOF. RETIRE of a stream, its lateness, RESUME and ABANDON (R39, R65, R66, R76, R107, R233–R235, R328–R330, R430). -/

namespace Sys2Proof.Proofs

open Sys2Proof Sys2Proof.Machine

theorem exec_retire (s : State) (t n : Nat) : exec (.retire t n) s = .next (retireStream s t n) := rfl

/-! ## A launched stream is freed, and its lateness judged -/

/-- L and its cause of a stream that ends at the local time of `s` (R232). -/
def lateAt (s : State) (st : Stream) : Nat × Nat := lateOf st.launch st.launch.ll (finishLate st s.pg.time)

/-- The state once a launched stream has discarded its reservations, is freed and its lateness judged. -/
def freedLate (s : State) (t n : Nat) (st : Stream) : State :=
  judgeLate ((sendDiscards s t n st).freeStream t n) t n st.entry.isSome (lateAt s st).1 (lateAt s st).2

/-- How the end of a launched stream is reported (R327). -/
def endArgs (s : State) (t n : Nat) (st : Stream) (code : Nat) : CompArgs :=
  { status := if code = 0 then doneCode st (decide (fld (s.tile t).lateCtrl 15 0 < (lateAt s st).1)) else code
    late := (lateAt s st).1, cause := (lateAt s st).2, stream := n, tag := iTag st.line, tl := st.launchTime, tr := s.pg.time
    launched := true }

theorem lateCtrl_freed (s : State) (t n : Nat) (st : Stream) :
    (((sendDiscards s t n st).freeStream t n).tile t).lateCtrl = (s.tile t).lateCtrl := by
  simp [State.freeStream]

theorem endStream_launched {s : State} {t n : Nat} {st : Stream} (hl : st.launched = true) (hr : st.resumer = none) (code : Nat) :
    endStream s t n st code = endInstr (freedLate s t n st) t st.entry st.pc (endArgs s t n st code) := by
  have hctrl := lateCtrl_freed s t n st
  simp only [endStream, hl, hr, if_true, Option.isSome_none, Bool.false_eq_true, if_false, reportEnd, freedLate, endArgs, lateAt,
    localTime, freeStream_pg, pg_sendDiscards, hctrl]
  rfl

theorem sweeps_sendDiscards (s : State) (t n : Nat) (st : Stream) : Sweeps s (sendDiscards s t n st) := by
  rw [sendDiscards_eq]
  exact ⟨rfl, fun _ => rfl, fun _ => List.prefix_rfl, fun _ _ h => h⟩

theorem sweeps_freedLate (s : State) (t n : Nat) (st : Stream) : Sweeps s (freedLate s t n st) :=
  ((sweeps_sendDiscards ..).trans (sweeps_freeStream ..)).trans (sweeps_judgeLate ..)

theorem stream_judgeLate (s : State) (t n : Nat) (ring : Bool) (l cause j m : Nat) :
    (judgeLate s t n ring l cause).stream? j m = s.stream? j m := by
  rw [State.stream?, (onlyLate_judgeLate ..).streams]
  rfl

theorem stream_freedLate (s : State) (t n : Nat) (st : Stream) (m : Nat) :
    (freedLate s t n st).stream? t m = if m = n then none else s.stream? t m := by
  rw [freedLate, stream_judgeLate, stream_freeStream]
  simp [State.stream?]

theorem g_freedLate (s : State) (t n : Nat) (st : Stream) : ((freedLate s t n st).tile t).g = (s.tile t).g := by
  rw [freedLate, (onlyLate_judgeLate ..).g]
  simp [State.freeStream]

theorem rings_judgeLate (s : State) (t n : Nat) (ring : Bool) (l cause : Nat) :
    (judgeLate s t n ring l cause).gate.rings = s.gate.rings := by
  unfold judgeLate
  dsimp only
  split
  · rfl
  · split
    · exact rings_raise ..
    · rfl

theorem rings_freedLate (s : State) (t n : Nat) (st : Stream) : (freedLate s t n st).gate.rings = s.gate.rings := by
  rw [freedLate, rings_judgeLate, freeStream_gate, gate_sendDiscards]

/-! ## A stream that has done its work (R39, R430) -/

theorem retire_finished {s : State} {t n : Nat} {st : Stream} (hrun : coreRuns s t = true) (hst : s.stream? t n = some st)
    (hparked : st.parked = none) (habort : st.abort = none) (hstop : st.stop = none) (hl : st.launched = true)
    (hr : st.resumer = none) : retireStream s t n =
      if st.finished = true then endInstr (freedLate s t n st) t st.entry st.pc (endArgs s t n st 0) else s := by
  simp only [retireStream, hst, hrun, hparked, habort, hstop, hl, Bool.not_true, Bool.false_eq_true, if_false, Option.isSome_none,
    Bool.or_self, endStream_launched hl hr]

theorem doneCode_eq (st : Stream) (late : Bool) : doneCode st late =
    if late = true then 1 else if st.replayed = true then 3 else if st.undersize = true then 4 else if st.hasSat = true then 2 else 0 := rfl

theorem doneCode_lt (st : Stream) (late : Bool) : doneCode st late < 8 := by
  rw [doneCode_eq]
  split_ifs <;> decide

/-- The end of an instruction with a code below 0x08, or its park, adds its completion, and no more. -/
theorem endInstr_done {s : State} {t pc : Nat} {c : CompArgs} (e : Option EntryRef) (h : c.status < 8 ∨ c.status = 0x18) :
    endInstr s t e pc c = match e with
      | some e => addComp s e c
      | none => s := by
  have hlow : ¬ (8 ≤ c.status ∧ c.status ≠ stTranslation) := by
    have htr : stTranslation = 0x18 := rfl
    omega
  cases e with
  | none => exact if_neg hlow
  | some e => exact if_neg hlow

theorem tile_endInstr_done {s : State} {t pc : Nat} {c : CompArgs} (e : Option EntryRef) (h : c.status < 8 ∨ c.status = 0x18) (j : Nat) :
    (endInstr s t e pc c).tile j = s.tile j := by
  rw [endInstr_done e h]
  cases e <;> rfl

theorem events_endInstr_done {s : State} {t pc : Nat} {c : CompArgs} (e : Option EntryRef) (h : c.status < 8 ∨ c.status = 0x18) :
    (endInstr s t e pc c).gate.evstat = s.gate.evstat ∧ (endInstr s t e pc c).gate.evinfo = s.gate.evinfo
      ∧ (endInstr s t e pc c).gate.evocc = s.gate.evocc ∧ (endInstr s t e pc c).gate.park = s.gate.park := by
  rw [endInstr_done e h]
  cases e <;> exact ⟨rfl, rfl, rfl, rfl⟩

theorem finishedStreamRetires : Claims.FinishedStreamRetires := by
  intro s t n st hrun hst hparked habort hstop hl hr late code
  have hretire := retire_finished hrun hst hparked habort hstop hl hr
  have hlow : (endArgs s t n st 0).status < 8 ∨ (endArgs s t n st 0).status = 0x18 := .inl (doneCode_lt ..)
  have hstreams (m : Nat) : (endInstr (freedLate s t n st) t st.entry st.pc (endArgs s t n st 0)).stream? t m
      = if m = n then none else s.stream? t m := by
    rw [State.stream?, tile_endInstr_done _ hlow]
    exact stream_freedLate s t n st m
  rw [exec_retire, hretire]
  refine ⟨fun hfin => ?_, fun hfin => by rw [if_neg (by rw [hfin]; exact Bool.false_ne_true)]⟩
  rw [if_pos hfin]
  refine ⟨_, rfl, (hstreams n).trans (if_pos rfl), fun m hm => (hstreams m).trans (if_neg hm), ?_, ?_, fun e he => ?_, fun he => ?_⟩
  · rw [spad_endInstr]
    exact (sweeps_freedLate ..).spad
  · rw [tile_endInstr_done _ hlow]
    exact g_freedLate ..
  · rw [he]
    refine ⟨_, mem_comps_endInstr .., rfl, rfl, rfl, ?_⟩
    rw [status_compOf (lt_trans (doneCode_lt ..) (by decide))]
    exact (doneCode_eq ..).trans (by simp only [decide_eq_true_eq]; rfl)
  · rw [tile_endInstr_done _ hlow, endInstr_done _ hlow, he]
    exact ⟨(sweeps_freedLate ..).seq t, rings_freedLate ..⟩

/-! ## The record of lateness (R235) -/

theorem judgeLate_tolerated {s : State} {t l : Nat} (h : l ≤ fld (s.tile t).lateCtrl 15 0) (n : Nat) (ring : Bool) (cause : Nat) :
    judgeLate s t n ring l cause = s := if_pos h

theorem heard_raise (s : State) {e : Nat} (t n ring detail : Nat) (he : e < 32) : Heard s (raise s e t n ring detail) e t n ring detail := by
  intro hactive hclock
  have hruns : (s.active (GenConfig.domFixed s.gen 6) && !s.cpc.stopped.contains 4) = true := by
    simp [hactive, hclock]
  simp only [raise, hruns, if_true]
  split
  all_goals
    refine ⟨?_, ?_, ?_⟩
    · exact (bit_putBit _ he true e).trans (if_pos rfl)
    · exact Tab.get_set_self ..
    · exact Tab.get_set_self ..

/-- What a tile records of an instruction that is late. -/
theorem tile_judgeLate {s : State} {t l : Nat} (h : fld (s.tile t).lateCtrl 15 0 < l) (n : Nat) (ring : Bool) (cause : Nat) :
    (judgeLate s t n ring l cause).tile t = { s.tile t with
      lateCount := satInc (s.tile t).lateCount
      late := if bit (s.tile t).late 31 = true then (s.tile t).late
        else 0x80000000 ||| atN cause 28 ||| atN n 25 ||| at1 ring 24 ||| atN l 0
      lateMax := if (s.tile t).lateMax.toNat < l then BitVec.ofNat 32 l else (s.tile t).lateMax } := by
  have hlate : ¬ l ≤ fld (s.tile t).lateCtrl 15 0 := by omega
  simp only [judgeLate, hlate, if_false]
  split
  · rw [tile_raise, tile_setTile, if_pos rfl]
  · rw [tile_setTile, if_pos rfl]

theorem heard_judgeLate {s : State} {t l : Nat} (h : fld (s.tile t).lateCtrl 15 0 < l) (hen : bit (s.tile t).lateCtrl 31 = true)
    (n : Nat) (ring : Bool) (cause : Nat) : Heard s (judgeLate s t n ring l cause) 2 t n 0 0 := by
  have hlate : ¬ l ≤ fld (s.tile t).lateCtrl 15 0 := by omega
  simp only [judgeLate, hlate, if_false, hen, if_true]
  exact heard_raise (s.setTile t _) t n 0 0 (by decide)

theorem active_congr {s u : State} (hcpc : u.cpc = s.cpc) (hgen : u.gen = s.gen) (d : Nat) : u.active d = s.active d := by
  unfold State.active State.dom clockDead
  rw [hcpc, hgen]

theorem heard_congr {s s0 u v : State} {e t n ring detail : Nat} (hs : s0.gate = s.gate) (hcpc : s0.cpc = s.cpc) (hgen : s0.gen = s.gen)
    (hstat : v.gate.evstat = u.gate.evstat) (hinfo : v.gate.evinfo = u.gate.evinfo) (hocc : v.gate.evocc = u.gate.evocc)
    (h : Heard s0 u e t n ring detail) : Heard s v e t n ring detail := by
  unfold Heard at h ⊢
  rwa [hstat, hinfo, hocc, ← hs, ← hcpc, ← active_congr hcpc hgen, ← hgen]

/-- L is reported in 16 bits. -/
theorem lateOf_le (la : LaunchSt) (ll fl : Nat) : (lateOf la ll fl).1 ≤ 65535 := by
  unfold lateOf
  split
  · exact Nat.zero_le _
  · exact Nat.min_le_left ..

theorem latenessRecorded : Claims.LatenessRecorded := by
  intro s t n st x lc hrun hst hparked habort hstop hl hr hfin
  have hlow : (endArgs s t n st 0).status < 8 ∨ (endArgs s t n st 0).status = 0x18 := .inl (doneCode_lt ..)
  have hretire := (retire_finished hrun hst hparked habort hstop hl hr).trans (if_pos hfin)
  let s0 := (sendDiscards s t n st).freeStream t n
  have hctrl : (s0.tile t).lateCtrl = x.lateCtrl := lateCtrl_freed ..
  have hfields : (s0.tile t).lateCount = x.lateCount ∧ (s0.tile t).late = x.late ∧ (s0.tile t).lateMax = x.lateMax := by
    simp [s0, State.freeStream, x]
  obtain ⟨hcount, hlate, hmax⟩ := hfields
  have htile : ((endInstr (freedLate s t n st) t st.entry st.pc (endArgs s t n st 0)).tile t)
      = (judgeLate s0 t n st.entry.isSome lc.1 lc.2).tile t := tile_endInstr_done _ hlow t
  rw [exec_retire, hretire]
  refine ⟨fun hover => ?_, fun hunder => ?_⟩
  · have hover0 : fld (s0.tile t).lateCtrl 15 0 < lc.1 := by rwa [hctrl]
    have hjudged := tile_judgeLate hover0 n st.entry.isSome lc.2
    refine ⟨_, rfl, ?_, fun hv => ?_, fun hv => ?_, ?_, fun hen => ?_⟩
    · rw [htile, hjudged, hcount]
    · rw [htile, hjudged, hlate, if_pos hv]
    · rw [htile, hjudged, hlate, if_neg (by rw [hv]; exact Bool.false_ne_true)]
    · have hle : lc.1 ≤ 65535 := lateOf_le ..
      rw [htile, hjudged, hmax]
      dsimp only
      split
      · rw [BitVec.toNat_ofNat, Nat.mod_eq_of_lt (by omega)]
        omega
      · omega
    · have hheard := heard_judgeLate hover0 (by rwa [hctrl]) n st.entry.isSome lc.2
      obtain ⟨hstat, hinfo, hocc, -⟩ := events_endInstr_done (s := freedLate s t n st) (t := t) (pc := st.pc) st.entry hlow
      exact heard_congr (by simp [s0]) (by simp [s0]) (by simp [s0]) hstat hinfo hocc hheard
  · have hjudged : judgeLate s0 t n st.entry.isSome lc.1 lc.2 = s0 := judgeLate_tolerated (by rwa [hctrl]) ..
    refine ⟨_, rfl, ?_, ?_, ?_⟩
    all_goals rw [htile, hjudged]
    · exact hcount
    · exact hlate
    · exact hmax

/-! ## A stream that an error has stopped, or a rule has ended (R76, R107) -/

theorem faultCaptured_congr {x y z : Tile} {n code pc : Nat} (h : FaultCaptured x y n code pc) (hf : z.fault = y.fault)
    (hc : z.faultCount = y.faultCount) : FaultCaptured x z n code pc := by
  unfold FaultCaptured at h ⊢
  rwa [hf, hc]

theorem faultCaptured_base {x y z : Tile} {n code pc : Nat} (h : FaultCaptured x y n code pc) (hf : x.fault = z.fault)
    (hc : x.faultCount = z.faultCount) : FaultCaptured z y n code pc := by
  unfold FaultCaptured at h ⊢
  rwa [← hf, ← hc]

theorem Sweeps.faultCount {s u : State} (h : Sweeps s u) (j : Nat) : (u.tile j).faultCount = (s.tile j).faultCount := by
  rw [h.tile j]; rfl

/-- A fault after launch: the program ends FAULTED and loses its pending signals. -/
theorem progFault_launched (s : State) (t n pc : Nat) {code : Nat} (hcode : code ≠ 0x08) :
    ((progFault s t n pc code true).tile t).seq = .faulted ∧ FaultCaptured (s.tile t) ((progFault s t n pc code true).tile t) n code pc
      ∧ ((progFault s t n pc code true).tile t).pendProg = []
      ∧ ∀ m, s.stream? t m = none → (progFault s t n pc code true).stream? t m = none := by
  let s1 := s.setTile t (captureFault (s.tile t) n pc code)
  let v := clearHold (withdrawHold s1 t .prog) t .prog
  have hv : Sweeps s1 v := (sweeps_withdrawHold ..).trans (sweeps_clearHold ..)
  let y : Tile := { v.tile t with seq := .faulted, pc := pc, fetched := none, stopping := false, pendProg := [] }
  have htile : (progFault s t n pc code true).tile t =
      dropIssued y (fun i => decide (i.src = .prog) && (rowOf i.held.line).pends) := by
    have hne : ¬ code = stRefused := hcode
    simp only [progFault, stopProgram, hne, if_false, if_true, tile_setTile, y, v, s1]
  have hcap : s1.tile t = captureFault (s.tile t) n pc code := by simp [s1]
  have hcaptured : FaultCaptured (s.tile t) (v.tile t) n code pc :=
    faultCaptured_congr (captureFault_captured (s.tile t) n pc code) ((hv.fault t).trans (by rw [hcap]))
      ((hv.faultCount t).trans (by rw [hcap]))
  refine ⟨?_, faultCaptured_congr hcaptured ?_ ?_, ?_, fun m hm => ?_⟩
  · rw [htile, dropIssued_eq]
  · rw [htile, dropIssued_eq]
  · rw [htile, dropIssued_eq]
  · rw [htile, dropIssued_eq]
  · have hnone : v.stream? t m = none := hv.streams t m (by rw [State.stream?, hcap]; exact hm)
    rw [State.stream?, htile, ← Option.isNone_iff_eq_none, ← Option.not_isSome, find_streams_dropIssued, Option.not_isSome,
      Option.isNone_iff_eq_none]
    exact hnone

/-- The end of a launched stream with the code of an error. -/
theorem endStream_error {s : State} {t n : Nat} {st : Stream} (hl : st.launched = true) (hr : st.resumer = none) {code : Nat}
    (h8 : 8 < code) (h256 : code < 256) (hpark : code ≠ 0x18) :
    (endStream s t n st code).stream? t n = none ∧ (endStream s t n st code).spad = s.spad
      ∧ (∀ e, st.entry = some e → ((endStream s t n st code).tile t).seq = (s.tile t).seq
          ∧ ∃ c ∈ ((endStream s t n st code).ring e.ring).comps, c.idx = e.idx ∧ c.flags = e.flags ∧ c.phase = .ready
            ∧ fld c.w72 7 0 = code)
      ∧ (st.entry = none → ((endStream s t n st code).tile t).seq = .faulted
          ∧ FaultCaptured (s.tile t) ((endStream s t n st code).tile t) n code st.pc
          ∧ ((endStream s t n st code).tile t).pendProg = []) := by
  have hstatus : (endArgs s t n st code).status = code := if_neg (by omega)
  have hsw := sweeps_freedLate s t n st
  have hgone : (freedLate s t n st).stream? t n = none := (stream_freedLate ..).trans (if_pos rfl)
  rw [endStream_launched hl hr]
  cases he : st.entry with
  | some e =>
    have hend := sweeps_endInstr (freedLate s t n st) t e st.pc (endArgs s t n st code)
    refine ⟨hend.streams t n hgone, (hsw.trans hend).spad, fun e' h => ?_, nofun⟩
    obtain rfl : e = e' := Option.some.inj h
    refine ⟨(hsw.trans hend).seq t, _, mem_comps_endInstr .., rfl, rfl, rfl, ?_⟩
    rw [status_compOf (by omega), hstatus]
  | none =>
    have hfault : endInstr (freedLate s t n st) t none st.pc (endArgs s t n st code)
        = progFault (freedLate s t n st) t n st.pc code true := by
      rw [endInstr_prog _ _ _ (by omega) (by omega), hstatus]
      rfl
    obtain ⟨hseq, hcap, hpend, hstreams⟩ := progFault_launched (freedLate s t n st) t n st.pc (code := code) (by omega)
    rw [hfault]
    exact ⟨hstreams n hgone, (spad_progFault ..).trans hsw.spad, nofun,
      fun _ => ⟨hseq, faultCaptured_base hcap (hsw.fault t) (hsw.faultCount t), hpend⟩⟩

/-! ## Park (R66, R329, R330) -/

theorem bit_or (v w : Word) (i : Nat) : bit (v ||| w) i = (bit v i || bit w i) := BitVec.getLsbD_or

theorem park_raise (s : State) (e t n ring detail : Nat) : (raise s e t n ring detail).gate.park = s.gate.park := by
  unfold raise
  split
  · dsimp only
    split <;> rfl
  · rfl

/-- What the park table shows of a stream (R330). -/
def parkInfo (st : Stream) : Word :=
  0x80000000 ||| (match st.entry with
    | some e => 0x40000000 ||| atN e.ring 22
    | none => 0) ||| atN (iTag st.line) 0

theorem bit_parkInfo (st : Stream) : bit (parkInfo st) 31 = true ∧ bit (parkInfo st) 30 = st.entry.isSome := by
  have htag : (iTag st.line).testBit 30 = false :=
    Nat.testBit_lt_two_pow (lt_trans (Nat.mod_lt _ (by decide) : iTag st.line < 2 ^ 16) (by decide))
  have h31 : bit (0x80000000 : Word) 31 = true := rfl
  have h30 : bit (0x80000000 : Word) 30 = false := rfl
  have hsome : bit (0x40000000 : Word) 30 = true := rfl
  have hnone : bit (0 : Word) 30 = false := rfl
  refine ⟨?_, ?_⟩
  · simp only [parkInfo, bit_or, h31, Bool.true_or]
  · cases he : st.entry <;>
      simp only [parkInfo, he, bit_or, h30, hsome, hnone, bit_atN, Nat.sub_zero, htag, Bool.and_false, Bool.or_false, Bool.false_or,
        Bool.true_or, Option.isSome_none, Option.isSome_some]

/-- The chunk that a parked stream begins again at, by its indices (R329). -/
def parkIndices (st : Stream) : List Nat :=
  let k := match st.chunks with
    | c :: _ => c.mark.k0
    | [] => st.nextPlace
  if st.wuse then [] else unrank (tdCounts st.dstTd) k

/-- The park table entry of a stream that parks with PARKID `id`. -/
def parkOf (st : Stream) (id : Word) (addr : DWord) : Park :=
  { prog := progressWords id st.committed (parkIndices st), faddr := addr, info := parkInfo st }

/-- The state with a stream parked and its entry written, before the event. -/
def parkNoted (s : State) (t n : Nat) (st : Stream) (addr : DWord) : State :=
  let x := s.tile t
  let u := (s.setTile t { x with parkCtr := if x.parkCtr = 0xFFFFFFFF then 1 else x.parkCtr + 1 }).setStream t n
    { st with parked := some x.parkCtr, resumer := none }
  { u with gate := { u.gate with park := Tab.put u.gate.park (8 * t + n) (parkOf st x.parkCtr addr) } }

/-- How a park is reported (R329). -/
def parkArgs (s : State) (n : Nat) (st : Stream) (pr : List Word) : CompArgs :=
  { status := stTranslation, late := (lateOf st.launch st.launch.ll 0).1, cause := (lateOf st.launch st.launch.ll 0).2
    prog := pr, stream := n, tag := iTag st.line, tl := st.launchTime, tr := localTime s }

theorem parkStream_eq {s : State} {t n : Nat} {st : Stream} (hr : st.resumer = none) (addr : DWord) : parkStream s t n st addr =
    endInstr (raise (parkNoted s t n st addr) evStreamParked t n 0 0) t st.entry st.pc
      (parkArgs (raise (parkNoted s t n st addr) evStreamParked t n 0 0) n st (parkOf st (s.tile t).parkCtr addr).prog) := by
  unfold parkStream reportEnd
  rw [hr]
  rfl

theorem tile_parkNoted (s : State) (t n : Nat) (st : Stream) (addr : DWord) : (parkNoted s t n st addr).tile t =
    { s.tile t with parkCtr := if (s.tile t).parkCtr = 0xFFFFFFFF then 1 else (s.tile t).parkCtr + 1
                    streams := Tab.put (s.tile t).streams n { st with parked := some (s.tile t).parkCtr, resumer := none } } := by
  change (State.setStream _ t n _).tile t = _
  simp [State.setStream]

/-- A stream that parks. -/
theorem parkStream_parks {s : State} {t n : Nat} {st : Stream} (hr : st.resumer = none) (addr : DWord) :
    (parkStream s t n st addr).stream? t n = some { st with parked := some (s.tile t).parkCtr }
      ∧ (∀ m, m ≠ n → (parkStream s t n st addr).stream? t m = s.stream? t m) ∧ (parkStream s t n st addr).spad = s.spad
      ∧ ((parkStream s t n st addr).tile t).seq = (s.tile t).seq ∧ ((parkStream s t n st addr).tile t).fault = (s.tile t).fault
      ∧ ((parkStream s t n st addr).tile t).parkCtr = (if (s.tile t).parkCtr = 0xFFFFFFFF then 1 else (s.tile t).parkCtr + 1)
      ∧ Tab.get (parkStream s t n st addr).gate.park Park.init (8 * t + n) = parkOf st (s.tile t).parkCtr addr
      ∧ Heard s (parkStream s t n st addr) 8 t n 0 0
      ∧ ∀ r, st.entry = some r → ∃ c ∈ ((parkStream s t n st addr).ring r.ring).comps, c.idx = r.idx ∧ c.flags = r.flags
          ∧ c.phase = .ready ∧ fld c.w72 7 0 = 0x18 ∧ c.prog = (parkOf st (s.tile t).parkCtr addr).prog := by
  rw [parkStream_eq hr]
  generalize hargs : parkArgs (raise (parkNoted s t n st addr) evStreamParked t n 0 0) n st
    (parkOf st (s.tile t).parkCtr addr).prog = c
  have hstatus : c.status < 8 ∨ c.status = 0x18 := by rw [← hargs]; exact .inr rfl
  have htile := (tile_endInstr_done (s := raise (parkNoted s t n st addr) evStreamParked t n 0 0) (t := t) (pc := st.pc) st.entry
    hstatus t).trans ((tile_raise ..).trans (tile_parkNoted s t n st addr))
  obtain ⟨hstat, hinfo, hocc, hpark⟩ := events_endInstr_done (s := raise (parkNoted s t n st addr) evStreamParked t n 0 0)
    (t := t) (pc := st.pc) st.entry hstatus
  refine ⟨?_, fun m hm => ?_, ?_, ?_, ?_, ?_, ?_, ?_, fun r hentry => ?_⟩
  · rw [State.stream?, htile, Tab.find_put, if_pos rfl, ← hr]
  · rw [State.stream?, htile, Tab.find_put, if_neg hm]
    rfl
  · rw [spad_endInstr, raise_spad]
    rfl
  · rw [htile]
  · rw [htile]
  · rw [htile]
  · rw [hpark, park_raise]
    exact Tab.get_put_self ..
  · exact heard_congr rfl rfl rfl hstat hinfo hocc (heard_raise (parkNoted s t n st addr) t n 0 0 (by decide))
  · rw [hentry]
    refine ⟨_, mem_comps_endInstr .., rfl, rfl, rfl, ?_, ?_⟩
    · rw [status_compOf (by rw [← hargs]; exact (show 0x18 < 256 by decide)), ← hargs]
      rfl
    · rw [← hargs]
      rfl

theorem stoppedStreamEnds : Claims.StoppedStreamEnds := by
  intro s t n st x ends hrun hst hparked hl hr
  have hends {code : Nat} (hretire : retireStream s t n = endStream s t n st code) (h8 : 8 < code) (h256 : code < 256)
      (hpark : code ≠ 0x18) : ends code := by
    obtain ⟨hgone, hspad, hring, hprog⟩ := endStream_error (s := s) (t := t) (n := n) hl hr h8 h256 hpark
    rw [← hretire] at hgone hspad hring hprog
    exact ⟨_, exec_retire s t n, hgone, hspad, hring, hprog⟩
  have hretire := exec_retire s t n
  refine ⟨fun code habort => ⟨fun hdrained => hends ?_, fun hdrained => hretire.trans ?_⟩, fun e habort hstop =>
    ⟨fun hquiet h8 h256 hpark => hends ?_ h8 h256 hpark, fun hquiet hpark => ?_, fun hquiet => hretire.trans ?_⟩⟩
  · simp [retireStream, hst, hrun, hparked, habort, hdrained]
  · simp [retireStream, hst, hrun, hparked, habort, hdrained]
  · simp only [retireStream, hst, hrun, hparked, habort, hstop, hl, hquiet]
    exact if_neg hpark
  · have hparks : retireStream s t n = parkStream s t n st e.addr := by
      simp only [retireStream, hst, hrun, hparked, habort, hstop, hl, hquiet]
      exact if_pos hpark
    obtain ⟨hstream, hothers, hspad, hseq, hfault, hctr, hentry, hheard, hring⟩ := parkStream_parks (s := s) (t := t) (n := n) hr e.addr
    obtain ⟨h31, h30⟩ := bit_parkInfo st
    rw [← hparks] at hstream hothers hspad hseq hfault hctr hentry hheard hring
    exact ⟨_, parkOf st (s.tile t).parkCtr e.addr, hretire, hstream, hothers, hspad, hseq, hfault, hctr, hentry, rfl, h31, rfl, rfl,
      h30, hheard, hring⟩
  · simp [retireStream, hst, hrun, hparked, habort, hstop, hl, hquiet]

/-! ## RESUME and ABANDON (R65, R328) -/

/-- RESUME and ABANDON carry neither DEP nor LAUNCH (R50). -/
theorem freed_of_ringOnly {s : State} {t : Nat} {l : Line} {ring : Bool} (hcode : issueCode s t l ring = none)
    (hrow : (rowOf l).ringOnly = true) : Freed l := by
  have hword := wordBad_of_issueCode hcode
  simp only [wordBad, headerBad, Bool.or_eq_false_iff, hrow, Bool.true_and, decide_eq_false_iff_not, not_not] at hword
  tauto

/-- A RESUME or ABANDON whose turn has come acts on the stream that it names. -/
theorem issueResume_acts {s : State} {t : Nat} {src : Source} {hd : Head} {want : Row} (hrun : coreRuns s t = true)
    (hhead : headOf (s.tile t) src = some hd) (hcode : issueCode s t hd.line (Source.isRing src) = none) (hrow : rowOf hd.line = want)
    (hwant : want.ringOnly = true)
    (hstreams : ∀ p ∈ (s.tile t).streams, p.2.src = src → p.2.ord ≤ ((s.tile t).source src).ord → p.2.launched = true)
    (hissued : ∀ i ∈ (s.tile t).issued, i.src = src → ((s.tile t).source src).ord < i.ord) (hjob : jobParked s t hd.entry = false) :
    issueResume s t src want = resumeEffect (popHead s t src) t (captureHeld s t src hd) := by
  have hbad : want ≠ .bad := by
    rintro rfl
    cases hwant
  have hfree := freed_of_ringOnly hcode (by rw [hrow]; exact hwant)
  have hturn : turnCome (popHead s t src) t src (((s.tile t).source src).ord + 1) hd.entry = true := by
    obtain ⟨hdep, hlaunch⟩ := hfree
    rw [turnCome_popHead]
    exact turnCome_of_unheld (l := hd.line) ⟨hdep, hlaunch, hstreams, hissued⟩ hjob
  simp only [issueResume, hrun, hhead, hcode, hrow, hbad, tile_popHead, source_leftHead, hturn, Bool.not_true, Bool.false_eq_true,
    if_false, if_true, ne_eq, not_true_eq_false, false_and]

theorem parkedStream_popHead {s : State} {t : Nat} {src : Source} {l : Line} {st : Stream} (hst : s.stream? t (iStream l) = some st)
    (hparked : st.parked = some (iParkid l)) : parkedStream (popHead s t src) t l = some st := by
  have hst' : (popHead s t src).stream? t (iStream l) = some st := by
    rw [State.stream?, tile_popHead, streams_leftHead]
    exact hst
  simp only [parkedStream, hst', hparked, if_true]

theorem pg_popHead (s : State) (t : Nat) (src : Source) : (popHead s t src).pg = s.pg := by
  cases src with
  | prog => rfl
  | ring k =>
    unfold popHead
    dsimp only
    split <;> rfl

theorem stream_restartStream (s : State) (t n : Nat) (st : Stream) : (restartStream s t n st).stream? t n = some st.restartAt := by
  rw [restartStream, stream_setStream, if_pos ⟨rfl, rfl⟩]

/-- What ABANDON puts in its own completion (R328). -/
def abandonArgs (s : State) (l : Line) : CompArgs :=
  { status := stDone, rstatus := stTranslation, stream := iStream l, tag := iTag l, tl := localTime s, tr := localTime s }

theorem rstatus_abandon (s u : State) (e : EntryRef) (l : Line) : (compOf s e (abandonArgs u l)).w72 = 0
    ∧ fld (compOf s e (abandonArgs u l)).w76 31 24 = 0x18 := by
  refine ⟨show (atN 0 16 ||| at1 false 12 ||| at1 false 11 ||| atN 0 8 ||| atN 0 0 : Word) = 0 by decide, ?_⟩
  have hcode : fld (atN 0x18 24) 31 24 = 0x18 := by decide
  have hstream : fld (atN (iStream l) 21) 31 24 = 0 := fld_atN_below 31 (Nat.mod_lt _ (by decide)) (by decide)
  have htile : fld (atN (s.ring e.ring).tile 16) 31 24 = 0 :=
    fld_atN_below 31 (lt_trans (Nat.mod_lt _ (by decide) : (s.ring e.ring).tile < 2 ^ 5) (by decide)) (by decide)
  have htag : fld (atN (iTag l) 0) 31 24 = 0 :=
    fld_atN_below 31 (lt_trans (Nat.mod_lt _ (by decide) : iTag l < 2 ^ 16) (by decide)) (by decide)
  simp only [compOf, abandonArgs, fld_or, show stTranslation = 0x18 from rfl, hcode, hstream, htile, htag, Nat.or_zero]

/-- The state in which an abandoned stream is freed and its ABANDON has completed. -/
def abandonDone (s : State) (t : Nat) (l : Line) (e : EntryRef) (st : Stream) : State :=
  let u := clearPark ((sendDiscards s t (iStream l) st).freeStream t (iStream l)) t (iStream l)
  addComp u e (abandonArgs u l)

theorem abandonStream_eq (s : State) (t : Nat) (l : Line) (e : EntryRef) (st : Stream) : abandonStream s t l e st =
    match st.entry with
    | some b => breakJob (abandonDone s t l e st) b
    | none => (abandonDone s t l e st).setTile t (captureFault ((abandonDone s t l e st).tile t) (iStream l) st.pc stTranslation) := rfl

theorem tile_abandonDone (s : State) (t : Nat) (l : Line) (e : EntryRef) (st : Stream) : (abandonDone s t l e st).tile t =
    { s.tile t with streams := Tab.erase (s.tile t).streams (iStream l) } := by
  change (State.freeStream _ t _).tile t = _
  simp [State.freeStream]

theorem parkedStreamEnds : Claims.ParkedStreamEnds := by
  intro s t k hd e st l n hrun hhead hcode he hst hparked hstreams hissued hjob
  have hfind := parkedStream_popHead (src := .ring k) hst hparked
  refine ⟨fun hrow => ?_, fun hrow => ?_⟩
  · have hexec : exec (.resume t (.ring k)) s = .next (resumeStream (popHead s t (.ring k)) t l e st) := by
      have hissue := issueResume_acts hrun hhead hcode hrow rfl hstreams hissued hjob
      have heff : resumeEffect (popHead s t (.ring k)) t (captureHeld s t (.ring k) hd)
          = resumeStream (popHead s t (.ring k)) t l e st := by
        have hne : ¬ rowOf hd.line = .abandon := by rw [show rowOf hd.line = .resume from hrow]; decide
        simp only [resumeEffect, captureHeld, he, show parkedStream (popHead s t (.ring k)) t hd.line = some st from hfind, hne, if_false]
        rfl
      exact congrArg Host.Outcome.next (hissue.trans heff)
    refine ⟨_, _, hexec, stream_restartStream .., rfl, rfl, rfl, rfl, rfl, ?_, ?_⟩
    · have htime : localTime (popHead s t (.ring k)) = s.pg.time := by rw [localTime, pg_popHead]
      exact congrArg (fun x => some (e, iTag l, x)) htime
    · rw [resumeStream, spad_restartStream, spad_popHead]
  · let s1 := popHead s t (.ring k)
    have hexec : exec (.abandon t (.ring k)) s = .next (abandonStream s1 t l e st) := by
      have hissue := issueResume_acts hrun hhead hcode hrow rfl hstreams hissued hjob
      have heff : resumeEffect s1 t (captureHeld s t (.ring k) hd) = abandonStream s1 t l e st := by
        simp only [resumeEffect, captureHeld, he, show parkedStream s1 t hd.line = some st from hfind,
          show rowOf hd.line = .abandon from hrow, if_true]
        rfl
      exact congrArg Host.Outcome.next (hissue.trans heff)
    have hgone : (abandonDone s1 t l e st).stream? t n = none := by
      rw [State.stream?, tile_abandonDone, Tab.find_erase, if_pos rfl]
    have hmem : compOf _ e _ ∈ ((abandonDone s1 t l e st).ring e.ring).comps := mem_comps_addComp ..
    obtain ⟨hw72, hw76⟩ := rstatus_abandon (clearPark ((sendDiscards s1 t n st).freeStream t n) t n)
      (clearPark ((sendDiscards s1 t n st).freeStream t n) t n) e l
    have hspad : (abandonStream s1 t l e st).spad = s.spad := (spad_abandonStream ..).trans (spad_popHead ..)
    cases hentry : st.entry with
    | some b =>
      have heq : abandonStream s1 t l e st = breakJob (abandonDone s1 t l e st) b := by rw [abandonStream_eq, hentry]
      have hsw := sweeps_breakJob (abandonDone s1 t l e st) b
      rw [← heq] at hsw
      exact ⟨_, _, hexec, hsw.streams t n hgone, hspad, hsw.mem_comps hmem, rfl, hw72, hw76, nofun⟩
    | none =>
      have heq : abandonStream s1 t l e st = (abandonDone s1 t l e st).setTile t
          (captureFault ((abandonDone s1 t l e st).tile t) n st.pc stTranslation) := by
        rw [abandonStream_eq, hentry]
      refine ⟨_, _, hexec, ?_, hspad, ?_, rfl, hw72, hw76, fun _ => ?_⟩
      all_goals rw [heq]
      · rw [State.stream?, tile_setTile, if_pos rfl]
        exact hgone
      · exact hmem
      · rw [tile_setTile, if_pos rfl, tile_abandonDone, tile_popHead]
        refine ⟨seq_leftHead .., ?_⟩
        exact faultCaptured_base (captureFault_captured ..) (fault_leftHead ..) (faultCount_leftHead ..)

/-- Settles O16: each end is a case of `retireStream` or of `resumeEffect`, with what `endInstr` and `breakJob` leave. -/
theorem streamsEnd : Obligations.StreamsEnd := by
  unfold Obligations.StreamsEnd
  exact ⟨finishedStreamRetires, latenessRecorded, stoppedStreamEnds, parkedStreamEnds⟩

end Sys2Proof.Proofs
end

section
/-! PROOF. INSTRUCTION_FETCH and PROGRAM_HALTED (R39, R63, R75, R415). -/

namespace Sys2Proof.Proofs

open Sys2Proof Sys2Proof.Machine

/-! ## Words as one vector -/

/-- Word `k` of words as one number. -/
theorem ofWords_word (ws : List Word) {k : Nat} (hk : k < ws.length) :
    ofWords ws / 2 ^ (32 * k) % 2 ^ 32 = (ws[k]).toNat := by
  induction ws generalizing k with
  | nil => cases hk
  | cons w ws ih =>
    have hw : w.toNat < 2 ^ 32 := w.isLt
    cases k with
    | zero => simp only [ofWords, Nat.mul_zero, Nat.pow_zero, Nat.div_one, Nat.add_mul_mod_self_left, List.getElem_cons_zero,
        Nat.mod_eq_of_lt hw]
    | succ k =>
      have hdiv : ofWords (w :: ws) / 2 ^ (32 * (k + 1)) = ofWords ws / 2 ^ (32 * k) := by
        rw [ofWords, Nat.mul_succ, Nat.add_comm (32 * k), Nat.pow_add, ← Nat.div_div_eq_div_mul,
          Nat.add_mul_div_left _ _ (by decide), Nat.div_eq_of_lt hw, Nat.zero_add]
      rw [hdiv, List.getElem_cons_succ]
      exact ih (Nat.lt_of_succ_lt_succ hk)

theorem fld_tabBits (tb : Tab Word) (i : Nat) {n k : Nat} (hk : k < n) :
    fld (tabBits tb i n (32 * n)) (32 * k + 31) (32 * k) = (Tab.get tb 0 (i + k)).toNat := by
  have hword := ofWords_word ((List.range n).map (fun k => Tab.get tb 0 (i + k))) (k := k) (by simpa using hk)
  rw [List.getElem_map, List.getElem_range] at hword
  rw [← hword]
  refine Nat.eq_of_testBit_eq fun j => ?_
  rw [testBit_fld, tabBits, bit, BitVec.getLsbD_ofNat, Nat.testBit_mod_two_pow, Nat.testBit_div_two_pow]
  have hwidth : 32 * k + 31 + 1 - 32 * k = 32 := by omega
  rw [hwidth, Nat.add_comm j]
  by_cases hj : j < 32
  · have hin : 32 * k + j < 32 * n := by omega
    simp [hj, hin]
  · simp [hj]

/-! ## Fetch (R63, R415) -/

theorem exec_fetch (s : State) (t : Nat) (ecc : Ecc) : exec (.instructionFetch t ecc) s = .next (fetchStep s t ecc) := rfl

/-- A word of the instruction at the program counter holds an error that the scrubber has found. -/
def fetchBad (x : Tile) : Prop := ∃ j w, ScrubLoc.imem j w ∈ x.badWords ∧ w / 16 = x.pc

theorem readEcc_fetch (x : Tile) (ecc : Ecc) [Decidable (fetchBad x)] : x.readEcc (fun l => match l with
    | .imem _ w => decide (w / 16 = x.pc)
    | _ => false) ecc = if fetchBad x then .bad else ecc := by
  unfold Tile.readEcc
  refine if_congr ?_ rfl rfl
  rw [List.any_eq_true]
  refine ⟨fun ⟨p, hp, hw⟩ => ?_, fun ⟨j, w, hmem, hw⟩ => ⟨_, hmem, decide_eq_true hw⟩⟩
  cases p
  case imem j w => exact ⟨j, w, hp, of_decide_eq_true hw⟩
  all_goals cases hw

section
variable {s : State} {t : Nat} (hrun : coreRuns s t = true) (hseq : (s.tile t).seq = .running) (hstop : (s.tile t).stopping = false)
  (hfetched : (s.tile t).fetched = none) (hhold : (s.tile t).prog.hold = .none)
include hrun hseq hstop hfetched hhold

/-- What a fetch does by the place of the program counter and by what its words show. -/
theorem fetchStep_eq (ecc : Ecc) [Decidable (fetchBad (s.tile t))] : fetchStep s t ecc =
    if 1023 < (s.tile t).pc then progFault s t 0 1023 stMalformed false
    else match (if fetchBad (s.tile t) then Ecc.bad else ecc) with
      | .bad => progFault (klog s .unrecovered .sramUe (luTile t)
          { code := stUnrecovered, addr := BitVec.ofNat 64 (64 * (s.tile t).pc) }) t 0 (s.tile t).pc stUnrecovered false
      | e => (if e = .corrected then klog s .corrected .sramCe (luTile t) { addr := BitVec.ofNat 64 (64 * (s.tile t).pc) }
            else s).setTile t { s.tile t with
          fetched := some ((s.tile t).instr (s.tile t).pc), fetchPc := (s.tile t).pc, pc := (s.tile t).pc + 1 } := by
  have hgo : (!coreRuns s t || decide ((s.tile t).seq ≠ .running) || (s.tile t).stopping || (s.tile t).fetched.isSome
      || decide ((s.tile t).prog.hold ≠ .none)) = false := by
    simp [hrun, hseq, hstop, hfetched, hhold]
  rw [← readEcc_fetch]
  unfold fetchStep
  simp only [hgo, Bool.false_eq_true, if_false] <;> rfl

end

theorem fetchReadsInstruction : Claims.FetchReadsInstruction := by
  intro s t x hrun hseq hstop hfetched hhold
  classical
  have hfetch := fetchStep_eq hrun hseq hstop hfetched hhold
  refine ⟨fun hpc hgood => ?_, fun hpc => ?_, fun hpc ecc hecc => ?_⟩
  · have hclean : ¬ fetchBad x := fun ⟨j, w, hmem, hw⟩ => hgood j w hmem hw
    have hstep := hfetch .clean
    rw [if_neg (Nat.not_lt.mpr hpc), if_neg hclean] at hstep
    rw [exec_fetch, hstep]
    refine ⟨_, x.instr x.pc, rfl, onlyTile_setTile s t _, by rw [tile_setTile, if_pos rfl], fun k hk => ?_⟩
    exact fld_tabBits x.imem (16 * x.pc) (n := 16) hk
  · have hstep := hfetch .clean
    rw [if_pos hpc] at hstep
    obtain ⟨honly, htile⟩ := progFault_free (s := s) (t := t) 0 1023 (code := stMalformed) hhold (by decide)
    rw [exec_fetch, hstep]
    refine ⟨_, rfl, honly, ?_, fun hv => ?_, ?_, ?_⟩
    all_goals rw [htile]
    · rfl
    · exact (if_neg (by rw [hv]; exact Bool.false_ne_true)).trans (by decide)
    · rfl
    · rfl
  · have hbad : (if fetchBad x then Ecc.bad else ecc) = .bad := by
      obtain rfl | hfound := hecc
      · exact ite_self _
      · exact if_pos hfound
    have hstep := hfetch ecc
    rw [if_neg (Nat.not_lt.mpr hpc), hbad] at hstep
    let s1 := klog s .unrecovered .sramUe (luTile t) { code := stUnrecovered, addr := BitVec.ofNat 64 (64 * (s.tile t).pc) }
    have htile1 : s1.tile t = x := tile_klog ..
    obtain ⟨honly, htile⟩ := progFault_free (s := s1) (t := t) 0 x.pc (code := stUnrecovered) (by rw [htile1]; exact hhold) (by decide)
    rw [exec_fetch, hstep]
    refine ⟨_, rfl, ?_, ?_, sameBytes_of_spad ((spad_progFault ..).trans (klog_spad ..)), fun hv => ?_⟩
    · rw [htile]
      rfl
    · rw [htile, htile1]
      rfl
    · rw [htile, htile1]
      exact (if_neg (by rw [hv]; exact Bool.false_ne_true)).trans (fault_at_issue 0x38 x.pc)

/-! ## The program's end (R75) -/

/-- The numbers of the program's parked streams. -/
def parkedOrds (x : Tile) : List Nat :=
  (x.streams.filter (fun p => decide (p.2.src = .prog) && p.2.parked.isSome)).map (fun p => p.2.ord)

theorem any_parkedOrds {x : Tile} {k : Nat} (h : ∃ q ∈ x.streams, q.2.src = .prog ∧ q.2.parked.isSome = true ∧ q.2.ord < k) :
    (parkedOrds x).any (fun o => decide (o < k)) = true := by
  obtain ⟨q, hq, hsrc, hparked, hlt⟩ := h
  refine List.any_eq_true.mpr ⟨q.2.ord, List.mem_map.mpr ⟨q, List.mem_filter.mpr ⟨hq, ?_⟩, rfl⟩, decide_eq_true hlt⟩
  simp [hsrc, hparked]

/-- Nothing of the program is left but what stands behind a parked stream. -/
def haltDrained (x : Tile) : Bool :=
  x.streams.all (fun p => decide (p.2.src ≠ .prog) || p.2.parked.isSome)
    && x.pendProg.all (fun p => (parkedOrds x).any (fun o => decide (o < p.ord)))
    && x.issued.all (fun i => decide (i.src ≠ .prog) || (parkedOrds x).any (fun o => decide (o < i.ord)))

theorem programHalts : Claims.ProgramHalts := by
  intro s t x hrun hseq hstop hhold hfetched
  have hexec : exec (.programHalted t) s = .next (if haltDrained x = true then
      s.setTile t { x with seq := .halted, stopping := false } else s) := by
    have hgo : (coreRuns s t && decide (x.seq = .running) && x.stopping && decide (x.prog.hold = .none) && x.fetched.isNone) = true := by
      simp [hrun, hseq, hstop, hhold, hfetched]
    have hstep : haltStep s t = if (coreRuns s t && decide (x.seq = .running) && x.stopping && decide (x.prog.hold = .none)
        && x.fetched.isNone && haltDrained x) = true then s.setTile t { x with seq := .halted, stopping := false } else s := rfl
    rw [hgo, Bool.true_and] at hstep
    exact congrArg Host.Outcome.next hstep
  rw [hexec]
  refine ⟨fun hstreams hpend hissued => ?_, fun ⟨p, hp, hsrc, hparked⟩ => ?_⟩
  · have hdrained : haltDrained x = true := by
      simp only [haltDrained, Bool.and_eq_true, List.all_eq_true, Bool.or_eq_true, decide_eq_true_eq]
      refine ⟨⟨fun p hp => ?_, fun p hp => any_parkedOrds (hpend p hp)⟩, fun i hi => ?_⟩
      · by_cases hsrc : p.2.src = .prog
        · exact .inr (hstreams p hp hsrc)
        · exact .inl hsrc
      · by_cases hsrc : i.src = .prog
        · exact .inr (any_parkedOrds (hissued i hi hsrc))
        · exact .inl hsrc
    rw [if_pos hdrained]
    exact ⟨_, rfl, onlyTile_setTile s t _, by rw [tile_setTile, if_pos rfl]⟩
  · have hdrained : ¬ haltDrained x = true := by
      simp only [haltDrained, Bool.and_eq_true, List.all_eq_true, Bool.or_eq_true, decide_eq_true_eq]
      rintro ⟨⟨hstreams, -⟩, -⟩
      obtain hne | hsome := hstreams p hp
      · exact hne hsrc
      · rw [hparked] at hsome
        cases hsome
    rw [if_neg hdrained]

/-- Settles O17: the branches of `fetchStep` and of `haltStep`. -/
theorem fetchAndHalt : Obligations.FetchAndHalt := by
  unfold Obligations.FetchAndHalt
  exact ⟨fetchReadsInstruction, programHalts⟩

end Sys2Proof.Proofs
end

section
/-! SUPPORT. A step of a walker: what it runs, what it leaves, and how it ends (R88–R95, R106–R108). -/

namespace Sys2Proof.Proofs

open Sys2Proof Sys2Proof.Machine

/-! ## What a step of one stream leaves -/

/-- In `u` the other streams of tile `t`, its general registers and every byte are as in `s`. -/
structure StreamOnly (s u : State) (t n : Nat) : Prop where
  others : ∀ m, m ≠ n → u.stream? t m = s.stream? t m
  g : (u.tile t).g = (s.tile t).g
  spad : u.spad = s.spad

theorem StreamOnly.rfl {s : State} {t n : Nat} : StreamOnly s s t n := ⟨fun _ _ => Eq.refl _, Eq.refl _, Eq.refl _⟩

theorem StreamOnly.trans {s u v : State} {t n : Nat} (h : StreamOnly s u t n) (k : StreamOnly u v t n) : StreamOnly s v t n :=
  ⟨fun m hm => (k.others m hm).trans (h.others m hm), k.g.trans h.g, k.spad.trans h.spad⟩

theorem StreamOnly.of_tiles {s u : State} {t n : Nat} (ht : u.tiles = s.tiles) (hs : u.spad = s.spad) : StreamOnly s u t n :=
  ⟨fun m _ => by rw [State.stream?, State.stream?, tile_congr ht], by rw [tile_congr ht], hs⟩

theorem streamOnly_setStream (s : State) (t n : Nat) (st : Stream) : StreamOnly s (s.setStream t n st) t n where
  others m hm := by rw [stream_setStream, if_neg (fun h => hm h.2)]
  g := by simp [State.setStream]
  spad := Eq.refl _

theorem streamOnly_setTile {s : State} {t n : Nat} {x : Tile} (hs : x.streams = (s.tile t).streams) (hg : x.g = (s.tile t).g) :
    StreamOnly s (s.setTile t x) t n where
  others m _ := by simp [State.stream?, hs]
  g := by simp [hg]
  spad := Eq.refl _

theorem stream_setStream_self (s : State) (t n : Nat) (st : Stream) : (s.setStream t n st).stream? t n = some st := by
  rw [stream_setStream, if_pos ⟨rfl, rfl⟩]

theorem StreamOnly.becomes {s u : State} {t n : Nat} {st' : Stream} {P : State → Stream → Prop} (h : StreamOnly s u t n)
    (hst : u.stream? t n = some st') (hP : P u st') : StreamBecomes s t n (.next u) P :=
  ⟨u, st', Eq.refl _, hst, hP, h.others, h.g, h.spad⟩

/-! ## Errors of a walker -/

theorem streams_captureWalk (x : Tile) (side : Side) (n cause code wpc : Nat) (addr : DWord) :
    (captureWalk x side n cause code wpc addr).streams = x.streams := by unfold captureWalk; dsimp only; split <;> rfl

theorem g_captureWalk (x : Tile) (side : Side) (n cause code wpc : Nat) (addr : DWord) :
    (captureWalk x side n cause code wpc addr).g = x.g := by unfold captureWalk; dsimp only; split <;> rfl

theorem walkCaptured_captureWalk (x : Tile) (side : Side) (n cause code wpc : Nat) (addr : DWord) :
    WalkCaptured x (captureWalk x side n cause code wpc addr) side n cause code (wpc % 4096) addr := by
  unfold captureWalk WalkCaptured
  cases hv : bit x.walkErr 31 <;> simp [hv]

theorem walkErrorAt_eq {s : State} {t n : Nat} {st : Stream} (h : s.stream? t n = some st) (side : Side) (b : Side × Nat)
    (cause code : Nat) (addr : DWord) (wpc : Nat) : walkErrorAt s t n side b cause code addr wpc =
      (s.setTile t (captureWalk (s.tile t) side n cause code wpc addr)).setStream t n (stopAt st b.1 b.2 code addr) := by
  rw [walkErrorAt, h]

theorem stream_walkErrorAt {s : State} {t n : Nat} {st : Stream} (h : s.stream? t n = some st) (side : Side) (b : Side × Nat)
    (cause code : Nat) (addr : DWord) (wpc : Nat) :
    (walkErrorAt s t n side b cause code addr wpc).stream? t n = some (stopAt st b.1 b.2 code addr) := by
  rw [walkErrorAt_eq h, stream_setStream_self]

theorem streamOnly_walkErrorAt (s : State) (t n : Nat) (side : Side) (b : Side × Nat) (cause code : Nat) (addr : DWord)
    (wpc : Nat) : StreamOnly s (walkErrorAt s t n side b cause code addr wpc) t n := by
  cases h : s.stream? t n with
  | none => rw [walkErrorAt, h]; exact StreamOnly.rfl
  | some st =>
    rw [walkErrorAt_eq h]
    exact (streamOnly_setTile (streams_captureWalk ..) (g_captureWalk ..)).trans (streamOnly_setStream ..)

theorem tile_walkErrorAt {s : State} {t n : Nat} {st : Stream} (h : s.stream? t n = some st) (side : Side) (b : Side × Nat)
    (cause code : Nat) (addr : DWord) (wpc : Nat) :
    WalkCaptured (s.tile t) ((walkErrorAt s t n side b cause code addr wpc).tile t) side n cause code (wpc % 4096) addr := by
  have hcap := walkCaptured_captureWalk (s.tile t) side n cause code wpc addr
  rw [walkErrorAt_eq h]
  simpa [State.setStream, WalkCaptured] using hcap

/-- An error only stops its stream. -/
theorem stopAt_eq (st : Stream) (side : Side) (pos code : Nat) (addr : DWord) :
    stopAt st side pos code addr = { st with stop := (stopAt st side pos code addr).stop } := by
  unfold stopAt; split <;> rfl

theorem stopAt_first {st : Stream} (h : st.stop = none) (side : Side) (pos code : Nat) (addr : DWord) : stopAt st side pos code addr =
    { st with stop := some { bounds := [(side, pos)], code := code, side := side, addr := addr } } := by
  rw [stopAt, h]

/-- The comparison of the sides' counts at most stops the stream (R95, R437). -/
theorem checkCounts_spec {s : State} {t n : Nat} {st : Stream} (h : s.stream? t n = some st) :
    (∃ x, (checkCounts s t n).stream? t n = some { st with stop := x }) ∧ StreamOnly s (checkCounts s t n) t n := by
  have hsame : ∃ x, s.stream? t n = some { st with stop := x } := ⟨st.stop, h⟩
  have herr : ∀ (side : Side) (b : Side × Nat) (wpc : Nat),
      (∃ x, (walkErrorAt s t n side b 6 stMalformed 0 wpc).stream? t n = some { st with stop := x })
      ∧ StreamOnly s (walkErrorAt s t n side b 6 stMalformed 0 wpc) t n := fun side b wpc =>
    ⟨⟨_, (stream_walkErrorAt h ..).trans (congrArg some (stopAt_eq ..))⟩, streamOnly_walkErrorAt ..⟩
  unfold checkCounts
  rw [h]
  dsimp only
  split
  · exact ⟨hsame, StreamOnly.rfl⟩
  split
  · exact herr ..
  split
  · exact herr ..
  split
  · exact herr ..
  · exact ⟨hsame, StreamOnly.rfl⟩

/-! ## The walker's side of a stream -/

@[simp] theorem walker_setWalker (st : Stream) (side : Side) (w : Walker) (rs : List Run) : (st.setWalker side w rs).walker side = w := by
  cases side <;> rfl

theorem runsOf_setWalker (st : Stream) (side : Side) (w : Walker) (rs : List Run) :
    runsOf (st.setWalker side w rs) side = runsOf st side ++ rs := by cases side <;> rfl

@[simp] theorem stop_setWalker (st : Stream) (side : Side) (w : Walker) (rs : List Run) : (st.setWalker side w rs).stop = st.stop := by
  cases side <;> rfl

theorem walker_withStop (st : Stream) (x : Option StopSt) (side : Side) : ({ st with stop := x } : Stream).walker side = st.walker side := by
  cases side <;> rfl

theorem runsOf_withStop (st : Stream) (x : Option StopSt) (side : Side) : runsOf { st with stop := x } side = runsOf st side := by
  cases side <;> rfl

/-! ## How a walker's instruction ends -/

theorem walkerExec_steps {s : State} {t n : Nat} {side : Side} {st : Stream} {w' : Walker} {rs : List Run} (hpc : (st.walker side).pc ≤ 4095)
    (hrun : wExec s t st side (walkerWord s t st side) = .ok w' rs) {P : Walker → List Run → Prop} (hP : P w' rs) :
    WalkerSteps s t n side st (.next (walkerExec s t n st side)) P := by
  have heq : walkerExec s t n st side = checkCounts (s.setStream t n (st.setWalker side w' rs)) t n := by
    rw [walkerExec, if_neg (by omega), hrun]
  obtain ⟨⟨x, hx⟩, hframe⟩ := checkCounts_spec (stream_setStream_self s t n (st.setWalker side w' rs))
  obtain ⟨hothers, hg, hspad⟩ := (streamOnly_setStream ..).trans hframe
  rw [heq]
  refine ⟨_, _, rs, rfl, hx, ?_, ?_, hothers, hg, hspad⟩
  · rw [runsOf_withStop, runsOf_setWalker]
  · rw [walker_withStop, walker_setWalker]
    exact hP

/-- A walker's instruction fails: its side is left as the error found it, the stream stops there and the error is captured. -/
theorem walkerExec_fails {s : State} {t n : Nat} {side : Side} {st : Stream} {w' : Walker} {cause code : Nat} {addr : DWord}
    (hrun : (if 4095 < (st.walker side).pc then WRes.err (st.walker side) [] 4 stMalformed 0
      else wExec s t st side (walkerWord s t st side)) = .err w' [] cause code addr)
    (hstop : st.stop = none) : StreamBecomes s t n (.next (walkerExec s t n st side)) (fun u st' => st'.walker side = w'
      ∧ st'.stop = some { bounds := [(side, w'.count)], code := code, side := side, addr := addr }
      ∧ WalkCaptured (s.tile t) (u.tile t) side n cause code ((st.walker side).pc % 4096) addr) := by
  have heq : walkerExec s t n st side = walkErrorAt (s.setStream t n (st.setWalker side w' [])) t n side (side, w'.count) cause code
      addr (st.walker side).pc := by
    rw [walkerExec, hrun]; rfl
  have hst := stream_setStream_self s t n (st.setWalker side w' [])
  rw [heq]
  refine ((streamOnly_setStream ..).trans (streamOnly_walkErrorAt ..)).becomes (stream_walkErrorAt hst ..) ?_
  rw [stopAt_first ((stop_setWalker ..).trans hstop)]
  refine ⟨?_, rfl, ?_⟩
  · rw [walker_withStop, walker_setWalker]
  · have hcap := tile_walkErrorAt hst side (side, w'.count) cause code addr (st.walker side).pc
    simpa [State.setStream, WalkCaptured] using hcap

/-! ## When a command finds its instruction -/

theorem walks_of_ready {s : State} {t n : Nat} {side : Side} {st : Stream} {i : Word} (h : WalkerReady s t n side st i) :
    st.walks side = true := by
  obtain ⟨-, -, hlive, huse, hend, hpast, -⟩ := h
  simp [Stream.walks, hlive, huse, hend, hpast]

theorem word_of_ready {s : State} {t n : Nat} {side : Side} {st : Stream} {i : Word} (h : WalkerReady s t n side st i) :
    walkerWord s t st side = i := by
  obtain ⟨-, -, -, -, -, -, -, hword, -⟩ := h
  exact hword

/-- What the walker of a ready side reads next, and the banks of it. -/
def readBanks (s : State) (t : Nat) (st : Stream) (side : Side) : List Point :=
  ((walkerReads s t st side).map (fun r => banksOf s r.1 r.2)).getD []

theorem walkerReads_of_ready {s : State} {t n : Nat} {side : Side} {st : Stream} {i : Word} (h : WalkerReady s t n side st i) :
    walkerReads s t st side = wReads s t (st.walker side) i := by
  have hw := walks_of_ready h
  have hi := word_of_ready h
  obtain ⟨-, -, -, -, -, -, hpc, -⟩ := h
  simp [walkerReads, hw, hpc, hi]

/-- A read that meets no word with an error, and finds none, is clean. -/
theorem readEcc_clean {x : Tile} {f : ScrubLoc → Bool} (h : ∀ l ∈ x.badWords, f l = false) : x.readEcc f .clean ≠ .bad := by
  have hany : x.badWords.any f = false := List.any_eq_false.mpr (fun l hl => by simp [h l hl])
  simp [Tile.readEcc, hany]

/-- Neither the word nor the bytes of a ready side show an error: its instruction runs once its banks have granted the read. -/
theorem walkerStep_runs {s : State} {t n : Nat} {side : Side} {st : Stream} {i : Word} {want : WOp} (h : WalkerReady s t n side st i)
    (hop : wopOf i = want ∨ wopOf i = .bad) (hgiven : indexGiven s n side (readBanks s t st side) = true) :
    walkerStep s t n side want .clean .clean = walkerExec (takeGiven s n side (readBanks s t st side)) t n st side := by
  have hw := walks_of_ready h
  have hi := word_of_ready h
  obtain ⟨hst, hcore, -, -, -, -, hpc, -, hwords⟩ := h
  have hgo : (!coreRuns s t || !st.walks side || (decide ((st.walker side).pc ≤ 4095) && decide (wopOf (walkerWord s t st side) ≠ want)
      && decide (wopOf (walkerWord s t st side) ≠ .bad)) || !indexGiven s n side (readBanks s t st side)) = false := by
    rw [hcore, hw, hi, hgiven]
    obtain h | h := hop <;> simp [h]
  unfold walkerStep
  rw [hst]
  refine (if_neg (by rw [← Bool.not_eq_true] at hgo; exact hgo)).trans ?_
  refine (if_neg (fun hbad => readEcc_clean (fun l hl => ?_) hbad.right)).trans ?_
  · cases l
    case wpm j k => exact decide_eq_false (fun hk => hwords j (by rw [← hk]; exact hl))
    all_goals rfl
  simp only [reduceCtorEq, and_false, if_false, spadEcc, readBanks]
  cases walkerReads s t st side <;> rfl

theorem walkerStep_runs_noRead {s : State} {t n : Nat} {side : Side} {st : Stream} {i : Word} {want : WOp} (h : WalkerReady s t n side st i)
    (hop : wopOf i = want ∨ wopOf i = .bad) (hread : wReads s t (st.walker side) i = none) :
    walkerStep s t n side want .clean .clean = walkerExec s t n st side := by
  have hbanks : readBanks s t st side = [] := by rw [readBanks, walkerReads_of_ready h, hread]; rfl
  rw [walkerStep_runs h hop (by rw [hbanks]; rfl), hbanks]
  rfl

/-- An instruction that is no index or bitmap read reads nothing. -/
theorem wReads_none {s : State} {t : Nat} {w : Walker} {i : Word} (hidx : wopOf i ≠ .idx) (hscan : wopOf i ≠ .scan) : wReads s t w i = none := by
  unfold wReads
  split
  · contradiction
  · contradiction
  · rfl

section
variable {s : State} {t n : Nat} {side : Side} {st : Stream} {i : Word} {want : WOp} (h : WalkerReady s t n side st i)
include h

theorem step_ok {w' : Walker} {rs : List Run} (hop : wopOf i = want) (hread : wReads s t (st.walker side) i = none)
    (hrun : wExec s t st side i = .ok w' rs) {P : Walker → List Run → Prop} (hP : P w' rs) :
    WalkerSteps s t n side st (.next (walkerStep s t n side want .clean .clean)) P := by
  rw [walkerStep_runs_noRead h (.inl hop) hread]
  refine walkerExec_steps ?_ ((word_of_ready h).symm ▸ hrun) hP
  obtain ⟨-, -, -, -, -, -, hpc, -⟩ := h
  exact hpc

theorem step_err {w' : Walker} {cause code : Nat} {addr : DWord} (hop : wopOf i = want ∨ wopOf i = .bad)
    (hread : wReads s t (st.walker side) i = none)
    (hrun : wExec s t st side i = .err w' [] cause code addr) (hstop : st.stop = none) :
    StreamBecomes s t n (.next (walkerStep s t n side want .clean .clean)) (fun u st' => st'.walker side = w'
      ∧ st'.stop = some { bounds := [(side, w'.count)], code := code, side := side, addr := addr }
      ∧ WalkCaptured (s.tile t) (u.tile t) side n cause code (st.walker side).pc addr) := by
  have hi := word_of_ready h
  have hs := walkerStep_runs_noRead h hop hread
  obtain ⟨-, -, -, -, -, -, hpc, -⟩ := h
  have hmod : (st.walker side).pc % 4096 = (st.walker side).pc := Nat.mod_eq_of_lt (by omega)
  have hfail := walkerExec_fails (s := s) (t := t) (n := n) (side := side) (st := st) (w' := w') (cause := cause) (code := code)
    (addr := addr) (by rw [if_neg (by omega), hi, hrun]) hstop
  rw [hmod] at hfail
  rw [hs]
  exact hfail

end

theorem streamBecomes_imp {s : State} {t n : Nat} {o : Outcome} {P Q : State → Stream → Prop} (h : StreamBecomes s t n o P)
    (hPQ : ∀ u st', P u st' → Q u st') : StreamBecomes s t n o Q := by
  obtain ⟨u, st', ho, hst, hP, hrest⟩ := h
  exact ⟨u, st', ho, hst, hPQ u st' hP, hrest⟩

/-! ## Where a walker goes -/

theorem goesTo_goto {w x : Walker} (hx : x.stack = w.stack) (pc : Nat) : GoesTo w (x.goto pc) pc := by
  simp only [GoesTo, Walker.goto, hx]

@[simp] theorem reg_goto (w : Walker) (pc j : Nat) : (w.goto pc).reg j = w.reg j := rfl

theorem reg_setReg (w : Walker) (k j : Nat) (v : DWord) : (w.setReg k v).reg j = if j = k then v else w.reg j :=
  Tab.get_set _ _ _ _ _

theorem reg_setSum (w : Walker) (k j : Nat) (r : DWord × Bool) : (w.setSum k r).reg j = if j = k then r.1 else w.reg j :=
  Tab.get_set _ _ _ _ _

theorem addI_eq (a : DWord) (o : Int) : addI a o = a + BitVec.ofInt 64 o := by
  have h : addI a o = BitVec.ofInt 64 ((a.toNat : Int) + o) := by
    refine BitVec.eq_of_toNat_eq ?_
    rw [addI, BitVec.toNat_ofNat, BitVec.toNat_ofInt]
    exact Nat.mod_eq_of_lt (by omega)
  rw [h, BitVec.ofInt_add]
  simp

end Sys2Proof.Proofs

end

section
/-! PROOF. The walker instructions that add, load and repeat, and words that are none (R88–R91, R106–R108). -/

namespace Sys2Proof.Proofs

open Sys2Proof Sys2Proof.Machine

theorem sext_eq (n v : Nat) : sext n v = (BitVec.ofNat n v).toInt := by
  rw [BitVec.toInt_eq_toNat_cond, BitVec.toNat_ofNat]
  simp [sext]

/-! ## ADDI and ADDA -/

theorem wAddTo_plain {w : Walker} {i : Word} (d : Int) (h : bit i 22 = false) : wAddTo w i d =
    .ok ((w.setSum (fld i 26 23) (w.reg (fld i 26 23) + BitVec.ofInt 64 d, false)).goto (w.pc + 1)) [] := by
  simp only [wAddTo, wAdd, h, Bool.false_eq_true, if_false, addI_eq]

theorem circAdd_eq {w : Walker} {k : Nat} (v : DWord) (d : Int) (h : 0 < (Tab.get w.cLen 0 k).toNat) : ∃ b, circAdd w k v d =
    some (Tab.get w.cBase 0 k
      + BitVec.ofInt 64 ((v - Tab.get w.cBase 0 k + BitVec.ofInt 64 d).toInt % ((Tab.get w.cLen 0 k).toNat : Int)), b) := by
  have hne : ((Tab.get w.cLen 0 k).toNat : Int) ≠ 0 := by omega
  have hcast : ∀ x : Int, BitVec.ofNat 64 (x % ((Tab.get w.cLen 0 k).toNat : Int)).toNat
      = BitVec.ofInt 64 (x % ((Tab.get w.cLen 0 k).toNat : Int)) := fun x => by
    rw [← BitVec.ofInt_natCast, Int.toNat_of_nonneg (Int.emod_nonneg _ hne)]
  simp only [circAdd, Nat.ne_of_gt h, if_false, hcast, addI_eq, Option.some.injEq, Prod.mk.injEq, true_and, exists_eq']

theorem wAddTo_circular {w : Walker} {i : Word} (d : Int) (h : bit i 22 = true)
    (hlen : 0 < (Tab.get w.cLen 0 (fld i 21 20)).toNat) : ∃ b, wAddTo w i d =
    .ok ((w.setSum (fld i 26 23) (Tab.get w.cBase 0 (fld i 21 20) + BitVec.ofInt 64
      ((w.reg (fld i 26 23) - Tab.get w.cBase 0 (fld i 21 20) + BitVec.ofInt 64 d).toInt
        % ((Tab.get w.cLen 0 (fld i 21 20)).toNat : Int)), b)).goto (w.pc + 1)) [] := by
  obtain ⟨b, hb⟩ := circAdd_eq (w.reg (fld i 26 23)) d hlen
  exact ⟨b, by simp only [wAddTo, wAdd, h, if_true, hb]⟩

theorem wAddTo_empty {w : Walker} {i : Word} (d : Int) (h : bit i 22 = true)
    (hlen : (Tab.get w.cLen 0 (fld i 21 20)).toNat = 0) : wAddTo w i d = .err w [] 5 stMalformed 0 := by
  simp only [wAddTo, wAdd, h, if_true, circAdd, hlen]

theorem walkerAdds : Claims.WalkerAdds := by
  intro s t n side st i d c w k base len hready hc
  have hstep : ∃ want, exec c s = .next (walkerStep s t n side want .clean .clean) ∧ wopOf i = want
      ∧ wReads s t (st.walker side) i = none ∧ wExec s t st side i = wAddTo w i d := by
    rcases hc with ⟨hop, rfl, rfl⟩ | ⟨hop, rfl, rfl⟩
    · exact ⟨.addi, rfl, hop, wReads_none (by simp [hop]) (by simp [hop]), by simp only [wExec, hop, sext_eq]; rfl⟩
    · exact ⟨.adda, rfl, hop, wReads_none (by simp [hop]) (by simp [hop]), by simp only [wExec, hop]; rfl⟩
  obtain ⟨want, hexec, hop, hread, hrun⟩ := hstep
  rw [hexec]
  refine ⟨fun hce => ?_, fun hce hlen => ?_, fun hce hlen hstop => ?_⟩
  · exact step_ok hready hop hread (hrun.trans (wAddTo_plain d hce))
      ⟨rfl, goesTo_goto rfl _, fun j => by rw [reg_goto, reg_setSum]⟩
  · obtain ⟨b, hb⟩ := wAddTo_circular d hce hlen
    exact step_ok hready hop hread (hrun.trans hb) ⟨rfl, goesTo_goto rfl _, fun j => by rw [reg_goto, reg_setSum]⟩
  · refine streamBecomes_imp (step_err hready (.inl hop) hread (hrun.trans (wAddTo_empty d hce hlen)) hstop) ?_
    rintro u st' ⟨hw, hx, -⟩
    exact ⟨hw, _, hx, rfl, rfl⟩

/-! ## LDI and CSET -/

theorem walkerLoads : Claims.WalkerLoads := by
  intro s t n side st i w k v hready
  refine ⟨fun hop => ?_, fun hop => ?_⟩
  · have hexec : exec (.ldi t n side .clean) s = .next (walkerStep s t n side .ldi .clean .clean) := rfl
    rw [hexec]
    have hrun : wExec s t st side i = wLdi w i := by simp only [wExec, hop]; rfl
    refine step_ok hready hop (wReads_none (by simp [hop]) (by simp [hop])) hrun
      ⟨rfl, goesTo_goto rfl _, fun j => ?_⟩
    rw [reg_goto, reg_setReg, addI_eq, sext_eq]
  · have hexec : exec (.cset t n side .clean) s = .next (walkerStep s t n side .cset .clean .clean) := rfl
    rw [hexec]
    have hrun : wExec s t st side i = wCset w i := by simp only [wExec, hop]; rfl
    refine step_ok hready hop (wReads_none (by simp [hop]) (by simp [hop])) hrun
      ⟨rfl, goesTo_goto rfl _, rfl, fun j => ⟨?_, ?_⟩⟩
    · exact Tab.get_set _ _ _ _ _
    · exact Tab.get_set _ _ _ _ _

/-! ## Words that are no instruction -/

theorem pastEnd_fails {s : State} {t n : Nat} {side : Side} {st : Stream} {want : WOp} (hst : s.stream? t n = some st)
    (hcore : coreRuns s t = true) (hlive : st.live = true) (huse : st.usesProg side = true) (hend : (st.walker side).ended = false)
    (hpc : 4095 < (st.walker side).pc) (hstop : st.stop = none) :
    walkerStep s t n side want .clean .clean = walkerExec s t n st side := by
  have hpast : st.walkPast side = false := by simp [Stream.walkPast, hstop]
  have hreads : walkerReads s t st side = none := by
    have hno : ¬ (st.walker side).pc ≤ 4095 := by omega
    simp [walkerReads, hno]
  have hno : ¬ (st.walker side).pc ≤ 4095 := by omega
  simp [walkerStep, hst, hcore, Stream.walks, hlive, huse, hend, hpast, hreads, indexGiven, hno, takeGiven]

theorem walkerWordFails : Claims.WalkerWordFails := by
  intro s t n side st i c w hc hstop
  have hstep : ∃ want, exec c s = .next (walkerStep s t n side want .clean .clean) := by
    simp only [List.mem_cons, List.not_mem_nil, or_false] at hc
    rcases hc with rfl | rfl | rfl | rfl | rfl | rfl | rfl | rfl | rfl | rfl
    all_goals exact ⟨_, rfl⟩
  obtain ⟨want, hexec⟩ := hstep
  rw [hexec]
  refine ⟨fun hready hop => ?_, fun hst hcore hlive huse hend hpc hmax => ?_⟩
  · exact step_err hready (.inr hop) (wReads_none (by simp [hop]) (by simp [hop])) (by simp only [wExec, hop]; rfl) hstop
  · have hmod : (st.walker side).pc % 4096 = 0 := by
      have hat : (st.walker side).pc = 4096 := le_antisymm hmax hpc
      rw [hat]
    have hfail := walkerExec_fails (s := s) (t := t) (n := n) (side := side) (st := st) (w' := w) (cause := 4) (code := stMalformed)
      (addr := 0) (by rw [if_pos hpc]) hstop
    rw [hmod] at hfail
    rw [pastEnd_fails hst hcore hlive huse hend hpc hstop]
    exact hfail

/-- Settles O20: each instruction's result is read off the walker's arithmetic, and the step around it keeps the rest. -/
theorem walkersAddAndLoad : Obligations.WalkersAddAndLoad := by
  unfold Obligations.WalkersAddAndLoad
  exact ⟨walkerAdds, walkerLoads, walkerWordFails⟩

/-! ## REPEAT and REPEATR -/

/-- The checks of a body: not empty, inside the memory and the body around it, and at most eight levels. -/
def BodyFits (w : Walker) (body : Nat) : Prop :=
  0 < body ∧ w.pc + 1 + body ≤ 4096 ∧ (∀ l ls, w.stack = l :: ls → w.pc + 1 + body ≤ l.stop) ∧ w.stack.length < 8

theorem wRepeat_fits {w : Walker} {body : Nat} (count : Nat) (h : BodyFits w body) : wRepeat w body count =
    if count = 0 then .ok (w.goto (w.pc + 1 + body)) []
    else .ok { w with pc := w.pc + 1
                      stack := { first := w.pc + 1, stop := w.pc + 1 + body, left := count - 1 } :: w.stack } [] := by
  obtain ⟨hbody, hend, hinside, hdepth⟩ := h
  refine if_neg ?_
  rintro (h0 | h0 | h0 | h0)
  · omega
  · omega
  · cases hs : w.stack with
    | nil => rw [hs] at h0; exact Bool.false_ne_true h0
    | cons l ls =>
      rw [hs] at h0
      have := hinside l ls hs
      simp only [decide_eq_true_eq] at h0
      omega
  · omega

theorem wRepeat_fails {w : Walker} {body : Nat} (count : Nat)
    (h : body = 0 ∨ 4096 < w.pc + 1 + body ∨ ¬ (∀ l ls, w.stack = l :: ls → w.pc + 1 + body ≤ l.stop) ∨ 8 ≤ w.stack.length) :
    wRepeat w body count = .err w [] 3 stMalformed 0 := by
  refine if_pos ?_
  refine h.imp_right (Or.imp_right (Or.imp_left fun hin => ?_))
  cases hs : w.stack with
  | nil => exact absurd (by simp [hs]) hin
  | cons l ls =>
    refine decide_eq_true ?_
    by_contra hle
    refine hin (fun l' ls' heq => ?_)
    rw [hs] at heq
    obtain ⟨rfl, -⟩ := List.cons.inj heq
    omega

/-- Settles O21: a body that fits enters the stack of loops or is passed, and one that does not stops the stream. -/
theorem walkerRepeats : Obligations.WalkerRepeats := by
  unfold Obligations.WalkerRepeats
  intro s t n side st i c count w stop inside hready hc
  have hstep : ∃ want, exec c s = .next (walkerStep s t n side want .clean .clean) ∧ wopOf i = want
      ∧ wReads s t (st.walker side) i = none ∧ wExec s t st side i = wRepeat w (fld i 11 0) count := by
    rcases hc with ⟨hop, rfl, rfl⟩ | ⟨hop, rfl, rfl⟩
    · exact ⟨.rep, rfl, hop, wReads_none (by simp [hop]) (by simp [hop]), by simp only [wExec, hop]; rfl⟩
    · exact ⟨.repr, rfl, hop, wReads_none (by simp [hop]) (by simp [hop]), by simp only [wExec, hop]; rfl⟩
  obtain ⟨want, hexec, hop, hread, hrun⟩ := hstep
  rw [hexec]
  refine ⟨fun hb hs hi hd hn => ?_, fun hb hs hi hd hn => ?_, fun hbad hstop => ?_⟩
  · have hrep := wRepeat_fits count ⟨hb, hs, hi, hd⟩
    rw [if_neg (by omega)] at hrep
    exact step_ok hready hop hread (hrun.trans hrep) ⟨rfl, rfl, rfl, rfl⟩
  · have hrep := wRepeat_fits count ⟨hb, hs, hi, hd⟩
    rw [if_pos hn] at hrep
    exact step_ok hready hop hread (hrun.trans hrep) ⟨rfl, goesTo_goto rfl _, rfl⟩
  · refine streamBecomes_imp (step_err hready (.inl hop) hread (hrun.trans (wRepeat_fails count hbad)) hstop) ?_
    rintro u st' ⟨-, hx, -⟩
    exact ⟨_, hx, rfl, rfl, rfl⟩

end Sys2Proof.Proofs

end

section
/-! PROOF. The walker instructions that emit and read indexes (R90, R92–R97, R101). -/

namespace Sys2Proof.Proofs

open Sys2Proof Sys2Proof.Machine

/-! ## Runs that an instruction emits -/

/-- The run of a segment, behind the runs and elements before it. -/
def segRun (s : State) (st : Stream) (side : Side) (w : Walker) (rs : List Run) (cnt : Nat) (g : DWord × Nat × Bool) : Run :=
  { addr := st.baseOf side + g.1, n := g.2.1 * (runUnit (st.elemOf side)).2, first := cnt
    wrap := g.2.2 || (rs.isEmpty && w.wrapped), wpc := w.pc, base := s.genNow }

/-- One run is emitted behind those before it, or breaks a rule. -/
def emitSeg (s : State) (t : Nat) (st : Stream) (side : Side) (w : Walker) (acc : Except ((Nat × DWord) × List Run × Nat) (List Run × Nat))
    (g : DWord × Nat × Bool) : Except ((Nat × DWord) × List Run × Nat) (List Run × Nat) :=
  match acc with
  | .error x => .error x
  | .ok (rs, cnt) =>
    match runErr s t (st.elemOf side) side (st.baseOf side + g.1) (g.2.1 * (runUnit (st.elemOf side)).1) with
    | some c => .error ((c, st.baseOf side + g.1), rs, cnt)
    | none => .ok (rs ++ [segRun s st side w rs cnt g], cnt + g.2.1 * (runUnit (st.elemOf side)).2)

/-- A segment whose run breaks no rule. -/
def SegGood (s : State) (t : Nat) (st : Stream) (side : Side) (g : DWord × Nat × Bool) : Prop :=
  runErr s t (st.elemOf side) side (st.baseOf side + g.1) (g.2.1 * (runUnit (st.elemOf side)).1) = none

section
variable {s : State} {t : Nat} {st : Stream} {side : Side} {w : Walker}

theorem emitRuns_eq (segs : List (DWord × Nat × Bool)) :
    emitRuns s t st side w segs = segs.foldl (emitSeg s t st side w) (.ok ([], w.count)) := rfl

theorem foldl_emitSeg_error (segs : List (DWord × Nat × Bool)) (x : (Nat × DWord) × List Run × Nat) :
    segs.foldl (emitSeg s t st side w) (.error x) = .error x := by
  induction segs with
  | nil => rfl
  | cons g gs ih => exact ih

theorem emitSeg_good {g : DWord × Nat × Bool} (h : SegGood s t st side g) (rs : List Run) (cnt : Nat) :
    emitSeg s t st side w (.ok (rs, cnt)) g = .ok (rs ++ [segRun s st side w rs cnt g], cnt + g.2.1 * (runUnit (st.elemOf side)).2) := by
  rw [SegGood] at h
  simp only [emitSeg, h]

/-- Every run keeps the rules: each is emitted at its place, and the elements are counted. -/
theorem foldl_emitSeg_ok (segs : List (DWord × Nat × Bool)) (h : ∀ g ∈ segs, SegGood s t st side g) (rs : List Run) (cnt : Nat) :
    ∃ rs', segs.foldl (emitSeg s t st side w) (.ok (rs, cnt)) =
        .ok (rs ++ rs', cnt + (segs.map (fun g => g.2.1 * (runUnit (st.elemOf side)).2)).sum)
      ∧ rs'.map (fun r => (r.addr, r.n)) = segs.map (fun g => (st.baseOf side + g.1, g.2.1 * (runUnit (st.elemOf side)).2)) := by
  induction segs generalizing rs cnt with
  | nil => exact ⟨[], by simp, rfl⟩
  | cons g gs ih =>
    obtain ⟨rs', hfold, hmap⟩ := ih (fun g' hg' => h g' (List.mem_cons_of_mem _ hg')) (rs ++ [segRun s st side w rs cnt g])
      (cnt + g.2.1 * (runUnit (st.elemOf side)).2)
    refine ⟨segRun s st side w rs cnt g :: rs', ?_, ?_⟩
    · rw [List.foldl_cons, emitSeg_good (h g List.mem_cons_self), hfold, List.append_assoc, List.map_cons, List.sum_cons, Nat.add_assoc]
      rfl
    · rw [List.map_cons, hmap]
      rfl

/-- Runs that have been emitted have kept the rules. -/
theorem segGood_of_ok {segs : List (DWord × Nat × Bool)} {rs : List Run} {cnt : Nat} {x : List Run × Nat}
    (h : segs.foldl (emitSeg s t st side w) (.ok (rs, cnt)) = .ok x) : ∀ g ∈ segs, SegGood s t st side g := by
  induction segs generalizing rs cnt with
  | nil => exact fun g hg => absurd hg List.not_mem_nil
  | cons g gs ih =>
    rw [List.foldl_cons] at h
    have hg : SegGood s t st side g := by
      rw [SegGood]
      cases he : runErr s t (st.elemOf side) side (st.baseOf side + g.1) (g.2.1 * (runUnit (st.elemOf side)).1) with
      | none => rfl
      | some c =>
        have herr : emitSeg s t st side w (.ok (rs, cnt)) g = .error ((c, st.baseOf side + g.1), rs, cnt) := by
          simp only [emitSeg, he]
        rw [herr, foldl_emitSeg_error] at h
        cases h
    rw [emitSeg_good hg] at h
    intro g' hg'
    rcases List.mem_cons.mp hg' with rfl | hin
    · exact hg
    · exact ih h g' hin

end

/-! ## Segments of a circular EMIT -/

theorem circSegs_sum_inside {len ub : Nat} (hub : 0 < ub) : ∀ (fuel n : Nat) (r : Int) (wr : Bool), r < len → n ≤ fuel →
    0 < len → ((circSegs len ub fuel r n wr).map (fun g => g.2.1)).sum = n
  | 0, n, _, _, _, hn, _ => by
    have h0 : n = 0 := by omega
    subst h0
    rfl
  | fuel + 1, n, r, wr, hr, hn, hlen => by
    unfold circSegs
    by_cases h0 : n = 0
    · simp [h0]
    · have hc : 0 < ((len : Int) - r).toNat + ub - 1 := by omega
      have hpos : 0 < (((len : Int) - r).toNat + ub - 1) / ub := Nat.div_pos (by omega) hub
      have hrest := circSegs_sum_inside hub fuel (n - min n ((((len : Int) - r).toNat + ub - 1) / ub)) 0 true
        (by exact_mod_cast hlen) (by omega) hlen
      rw [if_neg h0, if_neg (by omega), List.map_cons, List.sum_cons, hrest]
      dsimp only
      omega

/-- The segments of a circular EMIT hold its units. -/
theorem circSegs_sum {len ub fuel n : Nat} (hub : 0 < ub) (hlen : 0 < len) (hn : n + 1 ≤ fuel) (r : Int) (wr : Bool) :
    ((circSegs len ub fuel r n wr).map (fun g => g.2.1)).sum = n := by
  by_cases hr : r < len
  · exact circSegs_sum_inside hub fuel n r wr hr (by omega) hlen
  · obtain ⟨f, rfl⟩ : ∃ f, fuel = f + 1 := ⟨fuel - 1, by omega⟩
    unfold circSegs
    by_cases h0 : n = 0
    · simp [h0]
    · rw [if_neg h0, if_pos (by omega)]
      exact circSegs_sum_inside hub f n 0 true (by exact_mod_cast hlen) (by omega) hlen

/-! ## EMIT -/

/-- POST: the address register takes the sum, where there is one. -/
def posted (w : Walker) (post : Bool) (an : Nat) (r : Option (DWord × Bool)) : Walker :=
  if post then (match r with
    | some v => w.setSum an v
    | none => w) else w

theorem stack_posted (w : Walker) (post : Bool) (an : Nat) (r : Option (DWord × Bool)) : (posted w post an r).stack = w.stack := by
  unfold posted; 
  split
  · split <;> rfl
  · rfl

theorem count_posted (w : Walker) (post : Bool) (an : Nat) (r : Option (DWord × Bool)) : (posted w post an r).count = w.count := by
  unfold posted
  split
  · split <;> rfl
  · rfl

theorem reg_posted (w : Walker) (post : Bool) (an j : Nat) (v : DWord × Bool) :
    (posted w post an (some v)).reg j = if j = an then (if post then v.1 else w.reg an) else w.reg j := by
  cases post
  · by_cases hj : j = an <;> simp [posted, hj]
  · exact reg_setSum ..

section
variable {s : State} {t : Nat} {st : Stream} {side : Side} {w : Walker} {i : Word}

/-- An EMIT of whole units without CE emits one run. -/
theorem wEmit_plain (hcnt : (fld i 18 0 + 1) % (runUnit (st.elemOf side)).2 = 0) (hce : bit i 21 = false)
    (hgood : SegGood s t st side (w.reg (fld i 26 23), (fld i 18 0 + 1) / (runUnit (st.elemOf side)).2, false)) : wEmit s t st side w i =
    .ok ((posted { w with count := w.count + (fld i 18 0 + 1) / (runUnit (st.elemOf side)).2 * (runUnit (st.elemOf side)).2
                          wrapped := false }
        (bit i 22) (fld i 26 23) (some (w.reg (fld i 26 23)
          + BitVec.ofNat 64 ((fld i 18 0 + 1) / (runUnit (st.elemOf side)).2 * (runUnit (st.elemOf side)).1), false))).goto (w.pc + 1))
      [segRun s st side w [] w.count (w.reg (fld i 26 23), (fld i 18 0 + 1) / (runUnit (st.elemOf side)).2, false)] := by
  have hrun := emitRuns_eq (s := s) (t := t) (st := st) (side := side) (w := w)
    [(w.reg (fld i 26 23), (fld i 18 0 + 1) / (runUnit (st.elemOf side)).2, false)]
  rw [List.foldl_cons, emitSeg_good hgood] at hrun
  simp only [wEmit, hcnt, hce, ne_eq, not_true_eq_false, if_false, Bool.false_and, Bool.false_eq_true, hrun, wAdd, addI_eq, posted,
    Walker.emitted, List.foldl_nil, List.nil_append, List.isEmpty_cons, Bool.and_false, BitVec.ofInt_natCast]

/-- An EMIT with CE emits the segments of its units, one run each. -/
theorem wEmit_circular {segs : List (DWord × Nat × Bool)} {rs : List Run} {c : Nat}
    (hcnt : (fld i 18 0 + 1) % (runUnit (st.elemOf side)).2 = 0) (hce : bit i 21 = true)
    (hlen : 0 < (Tab.get w.cLen 0 (fld i 20 19)).toNat)
    (hsegs : segs = (circSegs (Tab.get w.cLen 0 (fld i 20 19)).toNat (runUnit (st.elemOf side)).1
        (2 * ((fld i 18 0 + 1) / (runUnit (st.elemOf side)).2) + 2) (w.reg (fld i 26 23) - Tab.get w.cBase 0 (fld i 20 19)).toInt
        ((fld i 18 0 + 1) / (runUnit (st.elemOf side)).2) false).map (fun g => (addI (Tab.get w.cBase 0 (fld i 20 19)) g.1, g.2)))
    (hrun : emitRuns s t st side w segs = .ok (rs, c)) : ∃ r, wEmit s t st side w i =
    .ok ((posted (w.emitted rs c) (bit i 22) (fld i 26 23) r).goto (w.pc + 1)) rs := by
  subst hsegs
  have hne : decide ((Tab.get w.cLen 0 (fld i 20 19)).toNat = 0) = false := decide_eq_false (by omega)
  refine ⟨circAdd w (fld i 20 19) (w.reg (fld i 26 23))
    ((fld i 18 0 + 1) / (runUnit (st.elemOf side)).2 * (runUnit (st.elemOf side)).1 : Nat), ?_⟩
  simp only [wEmit, hcnt, hce, hne, ne_eq, not_true_eq_false, if_false, if_true, Bool.true_and, Bool.false_eq_true, hrun, wAdd, posted] <;> rfl

theorem wEmit_unaligned (hcnt : (fld i 18 0 + 1) % (runUnit (st.elemOf side)).2 ≠ 0) :
    wEmit s t st side w i = .err w [] 1 stMalformed (st.baseOf side + w.reg (fld i 26 23)) := if_pos hcnt

end

theorem walkerEmits : Claims.WalkerEmits := by
  intro s t n side st i w k e u cnt units a len segs hready
  refine ⟨fun hop hcnt hce hgood => ?_, fun hop hcnt hstop => ?_, fun hop hcnt hce hlen hub hruns => ?_, fun hop => ?_⟩
  · have hexec : exec (.emit t n side .clean) s = .next (walkerStep s t n side .emit .clean .clean) := rfl
    have hrun : wExec s t st side i = wEmit s t st side w i := by simp only [wExec, hop]; rfl
    rw [hexec]
    refine step_ok hready hop (wReads_none (by simp [hop]) (by simp [hop])) (hrun.trans (wEmit_plain hcnt hce hgood))
      ⟨?_, ?_, goesTo_goto (stack_posted ..) _, fun j => ?_⟩
    · simp [segRun, a, w, k, u, units, cnt, e]
    · exact count_posted ..
    · rw [reg_goto, reg_posted]
      rfl
  · have hexec : exec (.emit t n side .clean) s = .next (walkerStep s t n side .emit .clean .clean) := rfl
    have hrun : wExec s t st side i = wEmit s t st side w i := by simp only [wExec, hop]; rfl
    rw [hexec]
    refine streamBecomes_imp (step_err hready (.inl hop) (wReads_none (by simp [hop]) (by simp [hop]))
      (hrun.trans (wEmit_unaligned hcnt)) hstop) ?_
    rintro u' st' ⟨hw, hx, hcap⟩
    exact ⟨hw, ⟨_, hx, rfl, rfl⟩, hcap⟩
  · have hexec : exec (.emit t n side .clean) s = .next (walkerStep s t n side .emit .clean .clean) := rfl
    have hrun : wExec s t st side i = wEmit s t st side w i := by simp only [wExec, hop]; rfl
    obtain ⟨⟨rs, c⟩, hx⟩ := hruns
    have hfold := hx
    rw [emitRuns_eq] at hfold
    obtain ⟨rs', hfold', hmap⟩ := foldl_emitSeg_ok (w := w) segs (segGood_of_ok hfold) [] w.count
    obtain ⟨hrs, hc⟩ := Prod.mk.inj (Except.ok.inj (hfold.symm.trans hfold'))
    rw [List.nil_append] at hrs
    subst hrs hc
    have hsum : (segs.map (fun g => g.2.1 * u.2)).sum = units * u.2 := by
      have hseg : segs.map (fun g => g.2.1) = (circSegs len u.1 (2 * units + 2)
          (w.reg k - Tab.get w.cBase 0 (fld i 20 19)).toInt units false).map (fun g => g.2.1) := by
        simp only [segs, List.map_map]
        rfl
      rw [List.sum_map_mul_right, hseg, circSegs_sum hub hlen (by omega)]
    have hn : (rs.map (·.n)).sum = units * u.2 := by
      have hmap2 := congrArg (List.map Prod.snd) hmap
      simp only [List.map_map, Function.comp_def] at hmap2
      rw [hmap2]
      exact hsum
    obtain ⟨r, hr⟩ := wEmit_circular hcnt hce hlen rfl hx
    rw [hexec]
    refine step_ok hready hop (wReads_none (by simp [hop]) (by simp [hop])) (hrun.trans hr)
      ⟨hn, ?_, goesTo_goto (stack_posted ..) _⟩
    refine (count_posted ..).trans ?_
    exact congrArg (w.count + ·) hsum
  · have hexec : exec (.walkEnd t n side .clean) s = .next (walkerStep s t n side .wend .clean .clean) := rfl
    have hrun : wExec s t st side i = wEnd w := by simp only [wExec, hop]; rfl
    rw [hexec]
    exact step_ok hready hop (wReads_none (by simp [hop]) (by simp [hop])) hrun ⟨rfl, rfl⟩

/-! ## IDX and SCAN -/

/-- Using granted accesses changes the turnstiles alone. -/
theorem takeGiven_eq (s : State) (n : Nat) (side : Side) (ps : List Point) : ∃ x, takeGiven s n side ps = { s with turn := x } := by
  unfold takeGiven
  induction ps generalizing s with
  | nil => exact ⟨s.turn, rfl⟩
  | cons p ps ih =>
    obtain ⟨x, hx⟩ := ih (setPoint s p { pointSt s p with given := (pointSt s p).given.erase (indexId n side) })
    exact ⟨x, hx⟩

/-- No walker instruction reads the turnstiles. -/
theorem wExec_withTurn (s : State) (t : Nat) (st : Stream) (side : Side) (i : Word) (x : Turn) :
    wExec { s with turn := x } t st side i = wExec s t st side i := rfl

section
variable {s : State} {t n : Nat} {side : Side} {st : Stream} {i : Word} {want : WOp} (h : WalkerReady s t n side st i)
include h

/-- An instruction that reads the scratchpad runs on what it reads, once its banks have granted the access. -/
theorem step_read_ok {w' : Walker} {rs : List Run} {o m : Nat} (hop : wopOf i = want)
    (hread : wReads s t (st.walker side) i = some (o, m)) (hgiven : indexGiven s n side (banksOf s o m) = true)
    (hrun : wExec s t st side i = .ok w' rs) {P : Walker → List Run → Prop} (hP : P w' rs) :
    WalkerSteps s t n side st (.next (walkerStep s t n side want .clean .clean)) P := by
  have hbanks : readBanks s t st side = banksOf s o m := by rw [readBanks, walkerReads_of_ready h, hread]; rfl
  obtain ⟨x, hx⟩ := takeGiven_eq s n side (banksOf s o m)
  rw [walkerStep_runs h (.inl hop) (by rw [hbanks]; exact hgiven), hbanks, hx]
  have hi := word_of_ready h
  obtain ⟨-, -, -, -, -, -, hpc, -⟩ := h
  have hword : wExec { s with turn := x } t st side (walkerWord s t st side) = .ok w' rs := by
    rw [wExec_withTurn, hi, hrun]
  have hsteps := walkerExec_steps (s := { s with turn := x }) (t := t) (n := n) (P := P) hpc hword hP
  exact hsteps

end

/-- The bytes that an instruction reads are the tile's own. -/
theorem ownBytes_eq {s : State} (t : Nat) {a : DWord} {n : Nat} (h : a.toNat + n ≤ GenConfig.spadBytes s.gen) :
    ownBytes s t a n = some (t * slotBytes + a.toNat) := if_pos h

theorem wReads_idx {s : State} {t : Nat} {w : Walker} {i : Word} (hop : wopOf i = .idx) : wReads s t w i =
    if (w.reg (fld i 18 15)).toNat % (if fld i 14 13 = 0 then 2 else 4) = 0 then
      (ownBytes s t (w.reg (fld i 18 15)) (if fld i 14 13 = 0 then 2 else 4)).map (fun o => (o, if fld i 14 13 = 0 then 2 else 4))
    else none := by
  simp only [wReads, hop]

theorem wReads_scan {s : State} {t : Nat} {w : Walker} {i : Word} (hop : wopOf i = .scan) : wReads s t w i =
    (ownBytes s t (w.reg (fld i 22 19)) ((fld i 8 0 + 7) / 8)).map (fun o => (o, (fld i 8 0 + 7) / 8)) := by
  simp only [wReads, hop]

/-- A SCAN takes the bits of its bitmap that have the polarity. -/
theorem shiftRight_mod_two (b p : Nat) (pol : Bool) : decide ((b >>> p) % 2 = (if pol then 0 else 1)) = (b.testBit p != pol) := by
  rw [Nat.testBit_eq_decide_div_mod_eq, Nat.shiftRight_eq_div_pow]
  cases pol
  · simp
  · have hmod : b / 2 ^ p % 2 = 0 ∨ b / 2 ^ p % 2 = 1 := by omega
    rcases hmod with h | h <;> simp [h]

theorem walkerIndexes : Claims.WalkerIndexes := by
  intro s t n side st i w ax p len v x ab nb bits sel u at_ hready
  refine ⟨fun hop hsel hin hal hpois hgiven => ?_, fun hop hsel hout hstop => ?_, fun hop hin hpois hgiven hgood => ?_,
    fun o m c hread hgiven hc => ?_⟩
  · have hexec : exec (.idx t n side ⟨.clean, .clean⟩) s = .next (walkerStep s t n side .idx .clean .clean) := rfl
    have hrd : wReads s t w i = some (t * slotBytes + p.toNat, len) := by
      rw [wReads_idx hop]
      exact (if_pos hal).trans (congrArg (Option.map fun o => (o, len)) (ownBytes_eq t hin))
    have hrun : wExec s t st side i = .ok (((w.setReg ax (p + BitVec.ofNat 64 len)).setReg (fld i 26 23)
        (addI (w.reg (fld i 22 19)) (x * (2 : Int) ^ fld i 12 9))).goto (w.pc + 1)) [] := by
      have hw : wExec s t st side i = wIdx s t w i := by simp only [wExec, hop]; rfl
      rw [hw, wIdx, hrd]
      simp only [hpois, Bool.false_eq_true, if_false, sext_eq]
      rfl
    rw [hexec]
    refine step_read_ok hready hop hrd hgiven hrun ⟨rfl, goesTo_goto rfl _, fun j => ?_⟩
    rw [reg_goto, reg_setReg, reg_setReg, addI_eq]
  · have hexec : exec (.idx t n side ⟨.clean, .clean⟩) s = .next (walkerStep s t n side .idx .clean .clean) := rfl
    have hrd : wReads s t w i = none := by
      rw [wReads_idx hop]
      by_cases hal : p.toNat % len = 0
      · have hfar : ¬ (p.toNat + len ≤ GenConfig.spadBytes s.gen) := by omega
        exact (if_pos hal).trans (congrArg (Option.map fun o => (o, len)) (if_neg hfar))
      · exact if_neg hal
    have hrun : wExec s t st side i = .err w [] 9 stPermission p := by
      have hw : wExec s t st side i = wIdx s t w i := by simp only [wExec, hop]; rfl
      rw [hw, wIdx, hrd]
    rw [hexec]
    refine streamBecomes_imp (step_err hready (.inl hop) hrd hrun hstop) ?_
    rintro u' st' ⟨-, hx, hcap⟩
    exact ⟨⟨_, hx, rfl⟩, hcap⟩
  · have hexec : exec (.scan t n side ⟨.clean, .clean⟩) s = .next (walkerStep s t n side .scan .clean .clean) := rfl
    have hrd : wReads s t w i = some (t * slotBytes + ab.toNat, nb) := by
      rw [wReads_scan hop]
      exact congrArg (Option.map fun o => (o, nb)) (ownBytes_eq t hin)
    have hsegs : ∀ g ∈ sel.map (fun p => (w.reg (fld i 26 23) + BitVec.ofNat 64 p * w.reg ax, 12 / u.2, false)),
        SegGood s t st side g := by
      intro g hg
      obtain ⟨q, hq, rfl⟩ := List.mem_map.mp hg
      exact hgood q hq
    obtain ⟨rs, hfold, hmap⟩ := foldl_emitSeg_ok (w := w) _ hsegs [] w.count
    rw [List.nil_append, ← emitRuns_eq] at hfold
    generalize hc : w.count + List.sum _ = c at hfold
    have hrun : wExec s t st side i = .ok ((w.emitted rs c).goto (w.pc + 1)) rs := by
      have hw : wExec s t st side i = wScan s t st side w i := by simp only [wExec, hop]; rfl
      rw [hw, wScan, hrd]
      simp only [hpois, Bool.false_eq_true, if_false, shiftRight_mod_two]
      rw [hfold]
    rw [hexec]
    refine step_read_ok hready hop hrd hgiven hrun ⟨?_, ?_, goesTo_goto rfl _, rfl⟩
    · rw [hmap, List.map_map]
      rfl
    · refine hc.symm.trans (congrArg (w.count + ·) ?_)
      rw [List.map_map, Function.comp_def]
      simp [u]
  · have hexec : ∃ want, exec c s = .next (walkerStep s t n side want .clean .clean) := by
      rcases hc with ⟨-, rfl⟩ | ⟨-, rfl⟩
      all_goals exact ⟨_, rfl⟩
    obtain ⟨want, hexec⟩ := hexec
    obtain ⟨hst, -⟩ := hready
    rw [hexec, walkerStep, hst]
    simp [hread, hgiven]

/-- Settles O22: runs are emitted segment by segment, and indexes and bitmaps are the bytes that the walker reads. -/
theorem walkersEmit : Obligations.WalkersEmit := by
  unfold Obligations.WalkersEmit
  exact ⟨walkerEmits, walkerIndexes⟩

end Sys2Proof.Proofs

end

section
/-! SUPPORT. A grant of a turnstile inside a tile, the write walker's bookkeeping, and the log of a fault (R300–R309, R421, R431). -/

namespace Sys2Proof.Proofs

open Sys2Proof Sys2Proof.Machine

/-! ## Grants -/

/-- Nothing but the turnstiles, what a tile counts of waits, and the events differs. -/
structure Granted (s u : State) : Prop where
  state : u = { s with tiles := u.tiles, gate := u.gate, turn := u.turn }
  tile : ∀ j, u.tile j = { s.tile j with waited := (u.tile j).waited }

theorem Granted.rfl {s : State} : Granted s s := ⟨Eq.refl _, fun _ => Eq.refl _⟩

theorem Granted.trans {s u v : State} (h : Granted s u) (k : Granted u v) : Granted s v where
  state := by rw [k.state, h.state]
  tile j := by rw [k.tile, h.tile]

theorem granted_setPoint (s : State) (p : Point) (v : PointSt) : Granted s (setPoint s p v) := ⟨Eq.refl _, fun _ => Eq.refl _⟩

theorem granted_raise (s : State) (e t n ring detail : Nat) : Granted s (raise s e t n ring detail) where
  state := by rw [raise_eq]
  tile j := by rw [tile_raise]

theorem granted_noteWaits (s : State) (p : Point) (w : Nat) (cs : List Cand) : Granted s (noteWaits s p w cs) := by
  unfold noteWaits
  split
  · refine ⟨Eq.refl _, fun j => ?_⟩
    rw [tile_setTile]
    split
    next h => rw [h]; rfl
    next => rfl
  · exact Granted.rfl

theorem granted_starve (s : State) (p : Point) (c : Cand) : Granted s (starve s p c) := by
  unfold starve
  dsimp only
  split
  · refine Granted.trans ?_ (granted_raise ..)
    exact ⟨Eq.refl _, fun _ => Eq.refl _⟩
  · exact ⟨Eq.refl _, fun _ => Eq.refl _⟩

theorem granted_starves (cs : List Cand) (p : Point) (s : State) : Granted s (cs.foldl (fun s c => starve s p c) s) := by
  induction cs generalizing s with
  | nil => exact Granted.rfl
  | cons c cs ih => exact (granted_starve s p c).trans (ih _)

theorem granted_accountGrant (s : State) (p : Point) (w : Nat) (cs : List Cand) : Granted s (accountGrant s p w cs) :=
  ((granted_setPoint ..).trans (granted_noteWaits ..)).trans (granted_starves ..)

theorem granted_takePoint (s : State) (p : Point) (cs : List Cand) : Granted s (takePoint s p cs).1 := by
  unfold takePoint
  dsimp only
  split
  · exact (granted_setPoint ..).trans (granted_accountGrant ..)
  · exact (granted_setPoint ..).trans (granted_accountGrant ..)
  · exact Granted.rfl

section
variable {s u : State} (h : Granted s u)
include h

theorem Granted.spad : u.spad = s.spad := by rw [h.state]
theorem Granted.prom : u.prom = s.prom := by rw [h.state]
theorem Granted.keeper : u.keeper = s.keeper := by rw [h.state]
theorem Granted.gen : u.gen = s.gen := by rw [h.state]
theorem Granted.cpc : u.cpc = s.cpc := by rw [h.state]
theorem Granted.streams (j : Nat) : (u.tile j).streams = (s.tile j).streams := by rw [h.tile]
theorem Granted.g (j : Nat) : (u.tile j).g = (s.tile j).g := by rw [h.tile]

theorem Granted.stream (t n : Nat) : u.stream? t n = s.stream? t n := by rw [State.stream?, h.streams]; rfl

theorem Granted.streamOnly (t n : Nat) : StreamOnly s u t n := ⟨fun m _ => h.stream t m, h.g t, h.spad⟩

theorem Granted.dataRoute (t : Nat) (a : DWord) (off : Option Nat) : dataRoute u t a off = dataRoute s t a off := by
  rw [h.state]; rfl

end

/-! ## The write walker's bookkeeping -/

/-- Nothing but the tiles differs, and of tile `t` not its general registers. -/
structure TilesOnly (s u : State) (t : Nat) : Prop where
  state : u = { s with tiles := u.tiles }
  g : (u.tile t).g = (s.tile t).g

theorem TilesOnly.rfl {s : State} {t : Nat} : TilesOnly s s t := ⟨Eq.refl _, Eq.refl _⟩

theorem TilesOnly.trans {s u v : State} {t : Nat} (h : TilesOnly s u t) (k : TilesOnly u v t) : TilesOnly s v t :=
  ⟨by rw [k.state, h.state], k.g.trans h.g⟩

theorem tilesOnly_setTile {s : State} {t : Nat} {x : Tile} (hg : x.g = (s.tile t).g) : TilesOnly s (s.setTile t x) t :=
  ⟨Eq.refl _, by simp [hg]⟩

theorem tilesOnly_setStream (s : State) (t n : Nat) (st : Stream) : TilesOnly s (s.setStream t n st) t :=
  tilesOnly_setTile (Eq.refl _)

theorem tilesOnly_keepPlaced (s : State) (t n : Nat) (p : Placed) : TilesOnly s (keepPlaced s t n p) t :=
  (tilesOnly_setStream ..).trans (tilesOnly_setTile (Eq.refl _))

theorem tilesOnly_walkErrorAt (s : State) (t n : Nat) (side : Side) (b : Side × Nat) (cause code : Nat) (addr : DWord) (wpc : Nat) :
    TilesOnly s (walkErrorAt s t n side b cause code addr wpc) t := by
  cases h : s.stream? t n with
  | none => rw [walkErrorAt, h]; exact TilesOnly.rfl
  | some st =>
    rw [walkErrorAt_eq h]
    exact (tilesOnly_setTile (g_captureWalk ..)).trans (tilesOnly_setStream ..)

theorem tilesOnly_placeStream (s : State) (t n : Nat) : TilesOnly s (placeStream s t n) t := by
  unfold placeStream
  split
  · exact TilesOnly.rfl
  split
  · exact TilesOnly.rfl
  dsimp only
  split
  · exact (tilesOnly_keepPlaced ..).trans (tilesOnly_walkErrorAt ..)
  · exact tilesOnly_keepPlaced ..

theorem tilesOnly_placeTile (s : State) (t : Nat) : TilesOnly s (placeTile s t) t := by
  unfold placeTile
  induction (s.tile t).streams generalizing s with
  | nil => exact TilesOnly.rfl
  | cons p ps ih => exact (tilesOnly_placeStream s t p.1).trans (ih _)

section
variable {s u : State} {t : Nat} (h : TilesOnly s u t)
include h

theorem TilesOnly.spad : u.spad = s.spad := by rw [h.state]
theorem TilesOnly.prom : u.prom = s.prom := by rw [h.state]
theorem TilesOnly.keeper : u.keeper = s.keeper := by rw [h.state]
theorem TilesOnly.cpc : u.cpc = s.cpc := by rw [h.state]

end

/-! ## The log of a fault -/

theorem logged_logEntry (s : State) (c : FClass) (m : Mech) (u : LogUnit) (i : LogInfo) :
    Logged s (logEntry s c m u i) c.code m.code u.unit (u.index % 65536) i.stream i.code (i.detail % 65536) i.addr i.seq := by
  refine ⟨(Tab.get_put_self ..).trans ?_, rfl⟩
  rw [← lo32_eq, ← hi32_eq, ← lo32_eq, ← hi32_eq]

theorem logged_klog_recovered {s : State} (h : keeperRuns s = true) (m : Mech) (u : LogUnit) (i : LogInfo) :
    Logged s (klog s .recovered m u i) 1 m.code u.unit (u.index % 65536) i.stream i.code (i.detail % 65536) i.addr i.seq := by
  have hlog : klog s .recovered m u i = logEntry s .recovered m u i := by
    simp only [klog, h, Bool.not_true, Bool.false_eq_true, if_false]
  rw [hlog]
  exact logged_logEntry s .recovered m u i

theorem logged_klog_unrecovered {s : State} (h : keeperRuns s = true) (m : Mech) (u : LogUnit) (i : LogInfo) :
    Logged s (klog s .unrecovered m u i) 2 m.code u.unit (u.index % 65536) i.stream i.code (i.detail % 65536) i.addr i.seq := by
  have hkeeper : (klog s .unrecovered m u i).keeper = (logEntry s .unrecovered m u i).keeper := by
    simp only [klog, h, Bool.not_true, Bool.false_eq_true, if_false, raiseFault, raise_keeper]
  rw [Logged, hkeeper]
  exact logged_logEntry s .unrecovered m u i

/-- What the log shows depends on its entries and where the next one goes. -/
theorem logged_congr {s u v : State} {cls mech unit index stream code detail : Nat} {addr : DWord} {seq : Word}
    (hlog : v.keeper.log = u.keeper.log) (hnext : v.keeper.next = u.keeper.next)
    (h : Logged s u cls mech unit index stream code detail addr seq) : Logged s v cls mech unit index stream code detail addr seq := by
  rw [Logged, hlog, hnext]
  exact h

theorem replays_klog (s : State) (c : FClass) (m : Mech) (u : LogUnit) (i : LogInfo) :
    (klog s c m u i).keeper.replays = s.keeper.replays := by
  unfold klog
  split
  · rfl
  cases c
  · dsimp only; split <;> rfl
  · rfl
  · simp only [raiseFault, raise_keeper]; rfl
  · dsimp only
    split
    · rfl
    · simp only [raiseFault, raise_keeper]; rfl

theorem streamOnly_klog (s : State) (c : FClass) (m : Mech) (u : LogUnit) (i : LogInfo) (t n : Nat) : StreamOnly s (klog s c m u i) t n :=
  StreamOnly.of_tiles (klog_tiles ..) (klog_spad ..)

theorem stream_klog (s : State) (c : FClass) (m : Mech) (u : LogUnit) (i : LogInfo) (t n : Nat) :
    (klog s c m u i).stream? t n = s.stream? t n := by
  rw [State.stream?, tile_klog]; rfl

/-! ## A stream that a rule ends -/

theorem abortStream_eq {s : State} {t n : Nat} {st : Stream} (h : s.stream? t n = some st) (hab : st.abort = none) (code : Nat) :
    abortStream s t n code = s.setStream t n { st with abort := some (st.firstCode code) } := by
  rw [abortStream, h]
  simp [hab]

theorem firstCode_of_stop_none {st : Stream} (h : st.stop = none) (code : Nat) : st.firstCode code = code := by
  rw [Stream.firstCode, h]

theorem abort_of_live {st : Stream} (h : st.live = true) : st.abort = none := by
  simp only [Stream.live, Bool.and_eq_true, Option.isNone_iff_eq_none] at h
  obtain ⟨-, hab⟩ := h
  exact hab

/-! ## Replay -/

theorem streamOnly_restartStream (s : State) (t n : Nat) (st : Stream) : StreamOnly s (restartStream s t n st) t n := by
  refine StreamOnly.trans ?_ (streamOnly_setStream ..)
  refine StreamOnly.trans ?_ (streamOnly_setTile rfl rfl)
  exact ⟨fun m _ => by rw [State.stream?, tile_sendDiscards]; rfl, by rw [tile_sendDiscards], spad_sendDiscards ..⟩

theorem keeper_restartStream (s : State) (t n : Nat) (st : Stream) : (restartStream s t n st).keeper = s.keeper := by
  rw [restartStream, setStream_keeper, setTile_keeper, sendDiscards_eq]

/-- A chunk that can be redone, with redos left, is: the stream restarts at its first chunk not committed (R421). -/
theorem replay_restarts {s : State} {t n : Nat} {st : Stream} (hst : s.stream? t n = some st) (hlive : st.live = true) (m : Mech)
    (addr : DWord) {k : Nat} (honce : st.readOnce (chunkStart s t st k) = false) (hlost : st.lostApply = false)
    (hchunks : ∀ c ∈ st.chunks, c.lostApply = false) (hreplays : st.replays < 2) :
    ∃ u st', replay s t n m addr k = u ∧ u.stream? t n = some st' ∧ StreamOnly s u t n
      ∧ st' = ({ st with replays := st.replays + 1, replayed := true } : Stream).restartAt
      ∧ u.keeper.replays = satInc s.keeper.replays
      ∧ (keeperRuns s = true → Logged s u 1 m.code 0 (t % 65536) n 0 0 addr (firstSeq s t n st)) := by
  let i : LogInfo := { stream := n, addr := addr, seq := firstSeq s t n st }
  let s1 := klog s .recovered m (luTile t) i
  let s2 : State := { s1 with keeper := { s1.keeper with replays := satInc s1.keeper.replays } }
  let s3 := s2.setTile t { s2.tile t with replays := min 65535 ((s2.tile t).replays + 1) }
  let st1 : Stream := { st with replays := st.replays + 1, replayed := true }
  have hany : st.chunks.any (fun c => c.lostApply) = false := List.any_eq_false.mpr (fun c hc => by simp [hchunks c hc])
  have heq : replay s t n m addr k = restartStream s3 t n st1 := by
    rw [replay, hst]
    refine (if_neg (by simp [hlive])).trans ((if_neg (by simp [honce, hlost, hany])).trans ?_)
    exact if_neg (Nat.not_le.mpr hreplays)
  have hkeeper : (restartStream s3 t n st1).keeper = s2.keeper := (keeper_restartStream ..).trans rfl
  have hframe : StreamOnly s s3 t n := by
    refine StreamOnly.trans ?_ (streamOnly_setTile rfl rfl)
    exact (streamOnly_klog s .recovered m (luTile t) i t n).trans (StreamOnly.of_tiles rfl rfl)
  refine ⟨_, _, heq, stream_restartStream .., hframe.trans (streamOnly_restartStream ..), rfl, ?_, fun hrun => ?_⟩
  · rw [hkeeper]
    exact congrArg satInc (replays_klog ..)
  · refine logged_congr ?_ ?_ (logged_klog_recovered hrun m (luTile t) i)
    · rw [hkeeper]
    · rw [hkeeper]

end Sys2Proof.Proofs

end

section
/-! PROOF. What the read and write walkers send, and chunks that are redone (R97–R103, R249, R410, R411, R421). -/

namespace Sys2Proof.Proofs

open Sys2Proof Sys2Proof.Machine

/-- A message that a stream sends as it changes. -/
theorem streamOnly_send (s : State) (t n : Nat) (st : Stream) (cls : Cls) (src dst : Node) (tail : List Point) (slack : Int)
    (prio flits : Nat) (body : Body) : StreamOnly s (post (s.setStream t n st) cls src dst tail slack prio flits body) t n :=
  StreamOnly.trans (streamOnly_setStream s t n st) (StreamOnly.of_tiles rfl rfl)

theorem net_post_one (s : State) (cls : Cls) (src dst : Node) (tail : List Point) (slack : Int) (prio : Nat) (body : Body) :
    (post s cls src dst tail slack prio 1 body).prom.net = s.prom.net ++ [oneFlit s cls src dst tail slack prio body] := by
  rw [post_one]

/-! ## READ_REQUEST -/

theorem readRequestLeaves : Claims.ReadRequestLeaves := by
  intro s s1 t n st addr len what side pos next skip hrun htake hst hplan
  have hgrant : Granted s s1 := by
    have h := granted_takePoint s (.readIssue t) (streamCands s t true (fun n st => wantsRead s t n st))
    rw [htake] at h
    exact h
  have hexec : exec (.readRequest t true) s = .next (sendRead s1 t n st addr len what side pos next skip) := by
    refine congrArg Host.Outcome.next ?_
    rw [readStep, if_neg (by simp [hrun])]
    simp only [htake, hst, hplan]
    rfl
  have hframe : StreamOnly s (sendRead s1 t n st addr len what side pos next skip) t n := by
    exact (hgrant.streamOnly t n).trans (streamOnly_send ..)
  obtain ⟨hothers, hg, hspad⟩ := hframe
  have hnet : s1.prom.net = s.prom.net := by rw [hgrant.prom]
  refine ⟨_, _, _, _, hexec, stream_setStream_self s1 t n _, (net_post_one ..).trans (congrArg (· ++ [_]) hnet), rfl, rfl, rfl, rfl, rfl, rfl, rfl, rfl, rfl, rfl, rfl, rfl, rfl, rfl,
    rfl, hothers, hg, hspad⟩

/-! ## WRITE_REQUEST -/

/-- Making a reservation changes no byte and no place to which data goes. -/
theorem reserveAcc_eq (s : State) (t n : Nat) (st : Stream) (c : Chunk) : ∃ acc, reserveAcc s t n st c =
    { s with spad := { s.spad with acc := acc } } := by
  unfold reserveAcc
  split
  · exact ⟨s.spad.acc, rfl⟩
  split
  · exact ⟨s.spad.acc, rfl⟩
  · exact ⟨_, rfl⟩

/-- The message of a write. -/
def writeMsg (s : State) (t n : Nat) (st : Stream) (c : Chunk) (p : Piece) (kind : WriteKind) (sg : Option Upd) : Msg :=
  let w := mkWrite s t n st c p kind sg
  let d := dataRoute s t p.addr w.off
  let slack := slackOf s st false
  { cls := .request, src := .tile t, dst := d.1, slack := slack, stamp := slack, prio := prioOf (s.tile t) n
    flits := flitsOf p.addr p.data.length, index := 0, route := GenConfig.route s.gen (.tile t) d.1 ++ d.2
    inp := Node.num (.tile t), done := 0, got := [], sats := 0, bad := false, again := false, body := .wr w }

/-- A write leaves as one message, and its stream waits for it and notes it with its chunk. -/
theorem sendWrite_spec (s : State) (t n : Nat) (st : Stream) (c : Chunk) (p : Piece) (kind : WriteKind) (data : Bool) (sg : Option Upd)
    (f : Chunk → Chunk) : ∃ st', (sendWrite s t n st c p kind data sg f).stream? t n = some st'
      ∧ st'.wrOut = st.wrOut ++ [mkWrite s t n st c p kind sg]
      ∧ st'.chunks = st.chunks.map (fun d => if d.idx = c.idx then f { d with journal := true, unacked := d.unacked + 1 } else d)
      ∧ (sendWrite s t n st c p kind data sg f).prom.net = s.prom.net ++ (writeMsg s t n st c p kind sg).split
      ∧ StreamOnly s (sendWrite s t n st c p kind data sg f) t n := by
  exact ⟨_, stream_setStream_self s t n _, rfl, rfl, rfl, streamOnly_send ..⟩

theorem writeRequestLeaves : Claims.WriteRequestLeaves := by
  intro s t n st c q extra s1 hrun htaker hst hnext
  let s2 := (takePoint s1 (.writeIssue t) (writeCands s1 t)).1
  let kind : WriteKind := if oAcc st.od && !extra then .addend else .data
  let f := fun (c : Chunk) => { c with reserved := c.reserved || oAcc st.od, todo := if extra then c.todo else c.todo.drop 1
                                       extra := if extra then c.extra.drop 1 else c.extra }
  have hplace : TilesOnly s s1 t := tilesOnly_placeTile s t
  have hgrant : Granted s1 s2 := granted_takePoint ..
  obtain ⟨acc, hacc⟩ := reserveAcc_eq s2 t n st c
  let s3 : State := { s2 with spad := { s2.spad with acc := acc } }
  have hexec : exec (.writeRequest t true) s = .next (sendWrite s3 t n st c q kind (!extra) none f) := by
    refine congrArg Host.Outcome.next ?_
    rw [writeStep, if_neg (by simp [hrun])]
    have htaker' : takerOf (placeTile s t) (.writeIssue t) (writeCands (placeTile s t) t) = some n := htaker
    have hst' : (placeTile s t).stream? t n = some st := hst
    have hnext' : nextWrite (placeTile s t) t st = some (c, q, extra) := hnext
    simp only [htaker', hst', hnext', if_true]
    exact congrArg (fun x => sendWrite x t n st c q kind (!extra) none f) hacc
  obtain ⟨st', hst', hwr, -, hnet, hframe⟩ := sendWrite_spec s3 t n st c q kind (!extra) none f
  refine ⟨_, st', writeMsg s3 t n st c q kind none, _, hexec, hst', ?_, rfl, rfl, rfl, ?_, rfl, rfl, rfl, rfl, rfl, rfl, rfl, rfl,
    hwr, ?_, fun o => ?_⟩
  · have hnet3 : s3.prom.net = s.prom.net := by rw [← hplace.prom, ← hgrant.prom]
    rw [hnet, hnet3]
  · exact congrArg Prod.fst (hgrant.dataRoute t q.addr _)
  · exact hframe.g.trans ((hgrant.g t).trans hplace.g)
  · rw [hframe.spad]
    have hmem : s3.spad.mem = s.spad.mem := by rw [← hplace.spad, ← hgrant.spad]
    rw [hmem]

/-- Settles O23: the grant and the bookkeeping before it change no message and no byte, and the request is what the plan says. -/
theorem requestsLeave : Obligations.RequestsLeave := by
  unfold Obligations.RequestsLeave
  exact ⟨readRequestLeaves, writeRequestLeaves⟩

/-! ## LAST_FLIT_SEND -/

/-- What a chunk's last write is: its last piece, or its apply command. -/
def lastPiece (c : Chunk) : Piece :=
  match c.last with
  | some p => p
  | none => { addr := c.addr, data := [], pos := c.mark.k0, wrap := false, base := c.base }

/-- A chunk's last write leaves with its signal, and the chunk has sent its last flit. -/
theorem sendLast_spec (s : State) (t n : Nat) (st : Stream) (c : Chunk) : ∃ st' m w, (sendLast s t n st c).stream? t n = some st'
    ∧ StreamOnly s (sendLast s t n st c) t n ∧ (sendLast s t n st c).prom.net = s.prom.net ++ Msg.split m ∧ m.body = .wr w
    ∧ m.cls = .request ∧ m.src = .tile t
    ∧ (∀ p, c.last = some p → w.addr = p.addr ∧ w.data = p.data ∧ w.kind = .data)
    ∧ (c.last = none → w.addr = c.addr ∧ w.data = [] ∧ w.kind = .apply ∧ w.endpoint = c.endpoint)
    ∧ st'.wrOut = st.wrOut ++ [w] ∧ (∀ d ∈ st'.chunks, d.idx = c.idx → d.lastSent = true) ∧ w.signal = signalOf t n st c := by
  have hchunks : ∀ (f : Chunk → Chunk) (st' : Stream), (∀ d, (f d).lastSent = true) →
      st'.chunks = st.chunks.map (fun d => if d.idx = c.idx then f { d with journal := true, unacked := d.unacked + 1 } else d) →
      ∀ d ∈ st'.chunks, d.idx = c.idx → d.lastSent = true := by
    intro f st' hf hmap d hd hidx
    rw [hmap] at hd
    obtain ⟨d0, -, rfl⟩ := List.mem_map.mp hd
    by_cases h0 : d0.idx = c.idx
    · rw [if_pos h0]
      exact hf _
    · rw [if_neg h0] at hidx
      exact absurd hidx h0
  cases hlast : c.last with
  | some p =>
    obtain ⟨st', hst', hwr, hmap, hnet, hframe⟩ := sendWrite_spec s t n st c p .data true (signalOf t n st c)
      (fun c => { c with lastSent := true, last := none })
    have heq : sendLast s t n st c = sendWrite s t n st c p .data true (signalOf t n st c)
        (fun c => { c with lastSent := true, last := none }) := by
      rw [sendLast, hlast]
    rw [heq]
    refine ⟨st', _, _, hst', hframe, hnet, rfl, rfl, rfl, ?_, nofun, hwr,
      hchunks (fun c => { c with lastSent := true, last := none }) st' (fun _ => rfl) hmap, rfl⟩
    rintro p' ⟨⟩
    exact ⟨rfl, rfl, rfl⟩
  | none =>
    let p : Piece := { addr := c.addr, data := [], pos := c.mark.k0, wrap := false, base := c.base }
    obtain ⟨st', hst', hwr, hmap, hnet, hframe⟩ := sendWrite_spec s t n st c p .apply false (signalOf t n st c)
      (fun c => { c with lastSent := true })
    have heq : sendLast s t n st c = sendWrite s t n st c p .apply false (signalOf t n st c) (fun c => { c with lastSent := true }) := by
      rw [sendLast, hlast]
    rw [heq]
    exact ⟨st', _, _, hst', hframe, hnet, rfl, rfl, rfl, nofun, fun _ => ⟨rfl, rfl, rfl, rfl⟩, hwr,
      hchunks (fun c => { c with lastSent := true }) st' (fun _ => rfl) hmap, rfl⟩

theorem signalOf_none {t n : Nat} {st : Stream} {c : Chunk} (h : c.wantSignal = false) : signalOf t n st c = none := by
  simp [signalOf, h]

theorem signalOf_some {t n : Nat} {st : Stream} {c : Chunk} (h : c.wantSignal = true) : ∃ v, signalOf t n st c = some v ∧ v.cid = st.sigCid
    ∧ v.express = st.sigX ∧ v.seq = c.seq ∧ v.value = BitVec.ofNat 32 (iSiginc st.line) ∧ v.scope = iScope st.line := by
  exact ⟨_, if_pos h, rfl, rfl, rfl, rfl, rfl⟩

theorem lastFlitCarriesSignal : Claims.LastFlitCarriesSignal := by
  intro s t n st c agree residueOk s1 s2 hrun hst hlive hready htaker
  have hplace : TilesOnly s s1 t := tilesOnly_placeTile s t
  have hgrant : Granted s1 s2 := granted_takePoint ..
  have hst2 : s2.stream? t n = some st := (hgrant.stream t n).trans hst
  have hstep : ∀ agree residueOk, exec (.lastFlitSend t n ⟨agree, residueOk⟩) s = .next (
      if !agree then replay s2 t n .chunkchk 0 c.mark.k0
      else if !residueOk then replay s2 t n .residue c.addr c.mark.k0 else sendLast s2 t n st c) := by
    intro agree residueOk
    refine congrArg Host.Outcome.next ?_
    have hst' : (placeTile s t).stream? t n = some st := hst
    have hready' : lastReady (placeTile s t) t st = some c := hready
    have htaker' : (takerOf (placeTile s t) (.writeIssue t) (writeCands (placeTile s t) t) == some n) = true := beq_iff_eq.mpr htaker
    rw [lastStep, if_neg (by simp [hrun])]
    simp only [hst', hready', hlive, htaker', Bool.and_true]
    rfl
  refine ⟨?_, fun hbad honce hreplays hlost hchunks => ?_⟩
  · obtain ⟨st', m, w, hst', hframe, hnet, hbody, hcls, hsrc, hlast, happly, hwr, hsent, hsig⟩ := sendLast_spec s2 t n st c
    rw [hstep]
    refine ((hgrant.streamOnly t n).trans hframe).becomes hst' ⟨m, w, ?_, hbody, hcls, hsrc, hlast, happly, hwr, hsent, fun hno => ?_,
      fun hyes => ?_⟩
    · have hnet2 : s2.prom.net = s.prom.net := by rw [hgrant.prom, hplace.prom]
      exact hnet.trans (by rw [hnet2])
    · rw [hsig, signalOf_none hno]
    · rw [hsig]
      exact signalOf_some hyes
  · have hredo : ∀ mech addr, ∃ u st', replay s2 t n mech addr c.mark.k0 = u ∧ u.stream? t n = some st' ∧ StreamOnly s2 u t n
        ∧ st' = ({ st with replays := st.replays + 1, replayed := true } : Stream).restartAt
        ∧ u.keeper.replays = satInc s2.keeper.replays := fun mech addr => by
      obtain ⟨u, st', hu, hst', hframe, heq, hcount, -⟩ := replay_restarts hst2 hlive mech addr honce hlost hchunks hreplays
      exact ⟨u, st', hu, hst', hframe, heq, hcount⟩
    have hpick : ∃ mech addr, exec (.lastFlitSend t n ⟨agree, residueOk⟩) s = .next (replay s2 t n mech addr c.mark.k0) := by
      rw [hstep]
      cases agree
      · exact ⟨_, _, rfl⟩
      · obtain h | h := hbad
        · exact absurd h (by decide)
        · exact ⟨_, _, by rw [h]; rfl⟩
    obtain ⟨mech, addr, hexec⟩ := hpick
    obtain ⟨u, st', rfl, hst', hframe, rfl, hcount⟩ := hredo mech addr
    rw [hexec]
    refine ((hgrant.streamOnly t n).trans hframe).becomes hst' ⟨rfl, rfl, rfl, rfl, rfl, ?_⟩
    rw [hcount, hgrant.keeper, hplace.keeper]

/-! ## SIGNATURE_COMPARE -/

/-- A fault logged as unrecovered that ends its stream. -/
theorem abort_logged {s : State} {t n : Nat} {st : Stream} (hst : s.stream? t n = some st) (hlive : st.live = true)
    (hstop : st.stop = none) (hkeeper : keeperRuns s = true) (m : Mech) (code : Nat) (addr : DWord) (seq : Word) :
    StreamBecomes s t n (.next (abortStream (klog s .unrecovered m (luTile t) { stream := n, code := code, addr := addr, seq := seq })
      t n code)) (fun u st' => st'.abort = some code ∧ u.keeper.unrec = satInc s.keeper.unrec
        ∧ Logged s u 2 m.code 0 (t % 65536) n code 0 addr seq) := by
  rw [abortStream_eq ((stream_klog ..).trans hst) (abort_of_live hlive), firstCode_of_stop_none hstop]
  refine ((streamOnly_klog ..).trans (streamOnly_setStream ..)).becomes (stream_setStream_self ..) ⟨rfl, ?_, ?_⟩
  · rw [setStream_keeper]
    exact klog_unrecovered hkeeper ..
  · exact logged_congr rfl rfl (logged_klog_unrecovered hkeeper m (luTile t) _)

theorem compareReplays : Claims.CompareReplays := by
  intro s t n st k stuck logs hrun hst hlive
  have hexec : exec (.signatureCompare t n false) s = .next (replay s t n .chunkchk 0
      ((st.current.map (fun c => c.mark.k0)).getD st.firstOpen.1)) := by
    refine congrArg Host.Outcome.next ?_
    rw [compareStep, hst]
    simp only [hrun, Bool.not_false, Bool.and_self, if_true]
    cases st.current <;> rfl
  have hkeeper : 5 ∉ s.cpc.stopped → keeperRuns s = true := fun h => by simp [keeperRuns, h]
  have hstuck : (st.readOnce k || st.lostApply || st.chunks.any (fun c => c.lostApply)) = true ↔ stuck := by
    simp [stuck, or_assoc]
  have hwhole : replay s t n .chunkchk 0 ((st.current.map (fun c => c.mark.k0)).getD st.firstOpen.1) =
      if st.readOnce k || st.lostApply || st.chunks.any (fun c => c.lostApply) then endUnredone s t n st .chunkchk 0
      else if 2 ≤ st.replays then abortStream (klog s .unrecovered .replayLimit (luTile t)
          { stream := n, code := stUnrecovered, addr := 0, seq := firstSeq s t n st }) t n stUnrecovered
      else replay s t n .chunkchk 0 ((st.current.map (fun c => c.mark.k0)).getD st.firstOpen.1) := by
    by_cases h1 : (st.readOnce k || st.lostApply || st.chunks.any (fun c => c.lostApply)) = true
    · rw [if_pos h1, replay, hst]
      exact (if_neg (by simp [hlive])).trans (if_pos h1)
    · rw [if_neg h1]
      by_cases h2 : 2 ≤ st.replays
      · rw [if_pos h2, replay, hst]
        exact (if_neg (by simp [hlive])).trans ((if_neg h1).trans (if_pos h2))
      · rw [if_neg h2]
  refine ⟨?_, fun hno hreplays => ?_, fun hno hreplays hstop hclock => ?_, fun hyes hstop hclock => ?_⟩
  · refine congrArg Host.Outcome.next ?_
    rw [compareStep, hst]
    simp
  · have hnone : ¬ (st.readOnce k = true ∨ st.lostApply = true ∨ ∃ c ∈ st.chunks, c.lostApply = true) := hno
    simp only [not_or, not_exists, not_and, Bool.not_eq_true] at hnone
    obtain ⟨honce, hlost, hchunks⟩ := hnone
    obtain ⟨u, st', hu, hst', hframe, rfl, hcount, hlog⟩ := replay_restarts hst hlive .chunkchk 0 honce hlost hchunks hreplays
    rw [hexec, hu]
    exact hframe.becomes hst' ⟨rfl, rfl, rfl, rfl, rfl, rfl, hcount, hlog⟩
  · rw [hexec, hwhole, if_neg (fun h => hno (hstuck.mp h)), if_pos hreplays]
    refine streamBecomes_imp (abort_logged hst hlive hstop (hkeeper hclock) .replayLimit stUnrecovered 0 _) ?_
    rintro u st' ⟨hab, hunrec, hlog⟩
    exact ⟨hab, hunrec, fun _ => hlog⟩
  · rw [hexec, hwhole, if_pos (hstuck.mpr hyes)]
    refine streamBecomes_imp (abort_logged hst hlive hstop (hkeeper hclock) .chunkchk stNotReplayable 0 _) ?_
    rintro u st' ⟨hab, hunrec, hlog⟩
    exact ⟨hab, hunrec, fun _ => hlog⟩

/-- Settles O24: the last write carries the chunk's signal, and a check that fails is a replay, or the end that R422 gives. -/
theorem flitsCompared : Obligations.FlitsCompared := by
  unfold Obligations.FlitsCompared
  exact ⟨lastFlitCarriesSignal, compareReplays⟩

end Sys2Proof.Proofs

end

section
/-! PROOF. The answer to a read reaches its stream (R26, R106, R191, R342, R402, R416). -/

namespace Sys2Proof.Proofs

open Sys2Proof Sys2Proof.Machine

/-! ## Bytes of an answer -/

theorem ofBytes_take (bs : List Byte) (k : Nat) : ofBytes (bs.take k) = ofBytes bs % 2 ^ (8 * k) := by
  induction bs generalizing k with
  | nil => simp [ofBytes]
  | cons b bs ih =>
    cases k with
    | zero => simp [ofBytes, Nat.mod_one]
    | succ k =>
      have hb := b.isLt
      have hpow : 2 ^ (8 * (k + 1)) = 256 * 2 ^ (8 * k) := by rw [Nat.mul_succ, pow_add]; ring
      rw [List.take_succ_cons, ofBytes, ofBytes, ih, hpow, Nat.mod_mul, Nat.add_mul_mod_self_left, Nat.mod_eq_of_lt hb,
        Nat.add_mul_div_left _ _ (by decide), Nat.div_eq_of_lt hb, Nat.zero_add]

theorem ofBytes_drop (bs : List Byte) (k : Nat) : ofBytes (bs.drop k) = ofBytes bs >>> (8 * k) := by
  induction bs generalizing k with
  | nil => simp [ofBytes]
  | cons b bs ih =>
    cases k with
    | zero => simp
    | succ k =>
      have hb := b.isLt
      rw [List.drop_succ_cons, ofBytes, ih, Nat.shiftRight_eq_div_pow, Nat.shiftRight_eq_div_pow, Nat.mul_succ, Nat.add_comm (8 * k),
        pow_add, ← Nat.div_div_eq_div_mul, show 2 ^ 8 = 256 from rfl, Nat.add_mul_div_left _ _ (by decide), Nat.div_eq_of_lt hb,
        Nat.zero_add]

theorem ofBytes_lt (bs : List Byte) : ofBytes bs < 2 ^ (8 * bs.length) := by
  have h := ofBytes_take bs bs.length
  rw [List.take_length] at h
  rw [h]
  exact Nat.mod_lt _ (by positivity)

theorem bitsAt_ofBytes (data : List Byte) {off : Int} (h : 0 ≤ off) (w : Nat) :
    bitsAt (ofBytes data) (8 * data.length) off w = (ofBytes data >>> off.toNat) % 2 ^ w := by
  simp only [bitsAt, Nat.mod_eq_of_lt (ofBytes_lt data), h, if_true]

/-! ## The answer at its tile -/

section
variable {s : State} {i : Nat} {m : Msg} {r : ReadReq} {a : Answer} {data : List Byte} {st : Stream}

/-- The state in which an answer has left the network. -/
theorem exec_readResponse (harr : arrived s i = some m) (hbody : m.body = .rdResp r a data) (hdst : m.dst = .tile r.tile)
    (hrun : coreRuns s r.tile = true) : exec (.readResponse i .clean) s = .next (readAnswer (dropMsg s i) r a data .clean) := by
  refine congrArg Host.Outcome.next ?_
  rw [responseStep, harr]
  simp only [hbody, hdst, hrun, if_true]

theorem ownStream_eq (hst : s.stream? r.tile r.stream = some st) (hsrc : st.src = r.src) (hord : st.ord = r.ord) :
    ownStream (dropMsg s i) r.tile r.stream r.src r.ord = some st := by
  have hst' : (dropMsg s i).stream? r.tile r.stream = some st := hst
  rw [ownStream, hst']
  exact if_pos ⟨hsrc, hord⟩

theorem waits_true (hmem : r ∈ st.outstanding) : st.outstanding.any (fun q => decide (q.id = r.id)) = true :=
  List.any_eq_true.mpr ⟨r, hmem, decide_eq_true rfl⟩

theorem readAnswer_okay (hst : s.stream? r.tile r.stream = some st) (hsrc : st.src = r.src) (hord : st.ord = r.ord)
    (hmem : r ∈ st.outstanding) (hab : st.abort = none) : readAnswer (dropMsg s i) r .okay data .clean =
      checkEntry ((dropMsg s i).setStream r.tile r.stream (landData st r data)) r.tile r.stream (landData st r data) r := by
  rw [readAnswer, ownStream_eq hst hsrc hord]
  exact if_neg (by simp only [waits_true hmem, hab, Bool.not_true, Option.isSome_none, Bool.or_self, Bool.false_eq_true, not_false_eq_true])

/-- The stream as an answer that brings no data leaves it. -/
def answeredState (s : State) (i : Nat) (r : ReadReq) (st : Stream) : State :=
  (dropMsg s i).setStream r.tile r.stream (st.landed r.id)

theorem readAnswer_failed (hst : s.stream? r.tile r.stream = some st) (hsrc : st.src = r.src) (hord : st.ord = r.ord)
    (hmem : r ∈ st.outstanding) (hab : st.abort = none) : readAnswer (dropMsg s i) r a data .clean =
      match a with
      | .okay => landResponse (dropMsg s i) r.tile r.stream st r data .clean
      | .denied => walkErrorAt (answeredState s i r st) r.tile r.stream r.side r.bound 0xB stPermission r.addr 0
      | .xfault => walkErrorAt (answeredState s i r st) r.tile r.stream r.side r.bound 0xA stTranslation r.addr (faultPc st r)
      | .error => replay (answeredState s i r st) r.tile r.stream .hostError r.addr (st.blockedBy r.bound)
      | .timeout => replay (answeredState s i r st) r.tile r.stream .rspTimeout r.addr (st.blockedBy r.bound)
      | .offline => abortStream (answeredState s i r st) r.tile r.stream stOffline
      | .poison => abortStream (answeredState s i r st) r.tile r.stream stUnrecovered := by
  rw [readAnswer, ownStream_eq hst hsrc hord]
  refine (if_neg ?_).trans (by cases a <;> rfl)
  simp only [waits_true hmem, hab, Bool.not_true, Option.isSome_none, Bool.or_self, Bool.false_eq_true, not_false_eq_true]

end

theorem tile_setStream_self (s : State) (t n : Nat) (st : Stream) :
    (s.setStream t n st).tile t = { s.tile t with streams := Tab.put (s.tile t).streams n st } := by
  rw [State.setStream, tile_setTile, if_pos rfl]

theorem streamOnly_dropMsg (s : State) (i t n : Nat) : StreamOnly s (dropMsg s i) t n := StreamOnly.of_tiles rfl rfl

theorem streamOnly_answered (s : State) (i : Nat) (r : ReadReq) (st : Stream) : StreamOnly s (answeredState s i r st) r.tile r.stream :=
  (streamOnly_dropMsg ..).trans (streamOnly_setStream ..)

/-! ## Data that lands -/

/-- Each of distinct elements, none of which is staged, is put with its own bits. -/
theorem find_staged (f : Int → Word) (es : List (Nat × Int)) (tb : Tab Word) (hnodup : (es.map (·.1)).Nodup)
    (hfree : ∀ e ∈ es, Tab.find tb e.1 = none) : ∀ e ∈ es,
    Tab.find (es.foldl (fun tb e => Tab.put tb e.1 (Tab.get tb 0 e.1 ||| f e.2)) tb) e.1 = some (f e.2) := by
  have hkeep : ∀ (es : List (Nat × Int)) (tb : Tab Word) (k : Nat), k ∉ es.map (·.1) →
      Tab.find (es.foldl (fun tb e => Tab.put tb e.1 (Tab.get tb 0 e.1 ||| f e.2)) tb) k = Tab.find tb k := by
    intro es
    induction es with
    | nil => intro tb k _; rfl
    | cons e es ih =>
      intro tb k hk
      rw [List.map_cons, List.mem_cons, not_or] at hk
      obtain ⟨hne, hk⟩ := hk
      rw [List.foldl_cons, ih _ _ hk, Tab.find_put_of_ne _ _ hne]
  induction es generalizing tb with
  | nil => exact fun e he => absurd he List.not_mem_nil
  | cons e es ih =>
    rw [List.map_cons, List.nodup_cons] at hnodup
    obtain ⟨hnot, hnodup⟩ := hnodup
    intro e' he'
    rw [List.foldl_cons]
    rcases List.mem_cons.mp he' with rfl | hin
    · rw [hkeep es _ _ hnot, Tab.find_put_self, Tab.get, hfree e' List.mem_cons_self]
      simp
    · refine ih _ hnodup (fun q hq => ?_) e' hin
      have hne : q.1 ≠ e.1 := fun h => hnot (h ▸ List.mem_map_of_mem hq)
      rw [Tab.find_put_of_ne _ _ hne]
      exact hfree q (List.mem_cons_of_mem _ hq)

theorem not_mem_landed {rs : List ReadReq} (r : ReadReq) : r ∉ rs.filter (fun q => decide (q.id ≠ r.id)) := by
  simp

theorem outstanding_landData (st : Stream) (r : ReadReq) (data : List Byte) :
    (landData st r data).outstanding = st.outstanding.filter (fun q => decide (q.id ≠ r.id)) := by
  unfold landData
  dsimp only
  split <;> rfl

theorem staged_landData {st : Stream} {r : ReadReq} {es : List (Nat × Int)} (h : r.what = .elems es) (data : List Byte) :
    (landData st r data).staged = es.foldl (fun tb e => Tab.put tb e.1 (Tab.get tb 0 e.1
      ||| BitVec.ofNat 32 (bitsAt (ofBytes data) (8 * data.length) e.2 st.srcE.width))) st.staged := by
  unfold landData
  rw [h]
  rfl

theorem readResponseStages : Claims.ReadResponseStages := by
  intro s i m r data harr hbody hdst hrun
  refine ⟨fun st es hst hsrc hord hab hmem hwhat hnodup hfree => ?_, fun st hst hsrc hord hold hnone => ?_⟩
  · have hcheck : checkEntry ((dropMsg s i).setStream r.tile r.stream (landData st r data)) r.tile r.stream (landData st r data) r =
        (dropMsg s i).setStream r.tile r.stream (landData st r data) := by rw [checkEntry, hwhat]
    rw [exec_readResponse harr hbody hdst hrun, readAnswer_okay hst hsrc hord hmem hab, hcheck]
    refine ((streamOnly_dropMsg ..).trans (streamOnly_setStream ..)).becomes (stream_setStream_self ..) ⟨?_, rfl, fun e he => ?_⟩
    · rw [outstanding_landData]
      exact not_mem_landed r
    · obtain ⟨-, hoff⟩ := hfree e he
      have hput := find_staged (fun o => BitVec.ofNat 32 (bitsAt (ofBytes data) (8 * data.length) o st.srcE.width)) es st.staged hnodup
        (fun q hq => (hfree q hq).left) e he
      rw [staged_landData hwhat, hput, bitsAt_ofBytes data hoff]
  · have hany : st.outstanding.any (fun q => decide (q.id = r.id)) = false :=
      List.any_eq_false.mpr (fun q hq => by simp [hnone q hq])
    have hans : readAnswer (dropMsg s i) r .okay data .clean = answeredState s i r st := by
      rw [readAnswer, ownStream_eq hst hsrc hord]
      exact if_pos (by simp [hany])
    rw [exec_readResponse harr hbody hdst hrun, hans]
    refine (streamOnly_answered ..).becomes (stream_setStream_self ..) ⟨?_, not_mem_landed r, rfl, rfl⟩
    have hsame : st.outstanding.filter (fun q => decide (q.id ≠ r.id)) = st.outstanding :=
      List.filter_eq_self.mpr (fun q hq => by simp [hnone q hq])
    simp only [Stream.landed, hsame]

/-! ## Answers that stop or end the stream -/

theorem readErrorsStop : Claims.ReadErrorsStop := by
  intro s i m r a data st harr hbody hdst hrun hst hsrc hord hmem hab
  have hexec := exec_readResponse harr hbody hdst hrun
  rw [readAnswer_failed hst hsrc hord hmem hab] at hexec
  let s1 := answeredState s i r st
  have hst1 : s1.stream? r.tile r.stream = some (st.landed r.id) := stream_setStream_self ..
  have hframe : StreamOnly s s1 r.tile r.stream := streamOnly_answered ..
  have herr : ∀ (cause code wpc : Nat) (P : State → Stream → Prop),
      (∀ u, WalkCaptured (s.tile r.tile) (u.tile r.tile) r.side r.stream cause code (wpc % 4096) r.addr →
        P u (stopAt (st.landed r.id) r.bound.1 r.bound.2 code r.addr)) →
      StreamBecomes s r.tile r.stream (.next (walkErrorAt s1 r.tile r.stream r.side r.bound cause code r.addr wpc)) P := by
    intro cause code wpc P hP
    refine (hframe.trans (streamOnly_walkErrorAt ..)).becomes (stream_walkErrorAt hst1 ..) (hP _ ?_)
    have hcap := tile_walkErrorAt hst1 r.side r.bound cause code r.addr wpc
    simpa [s1, answeredState, State.setStream, WalkCaptured] using hcap
  have hend : ∀ (code : Nat) (P : State → Stream → Prop),
      (∀ u, P u { st.landed r.id with abort := some (st.firstCode code) }) →
      StreamBecomes s r.tile r.stream (.next (abortStream s1 r.tile r.stream code)) P := by
    intro code P hP
    rw [abortStream_eq hst1 hab]
    exact (hframe.trans (streamOnly_setStream ..)).becomes (stream_setStream_self ..) (hP _)
  refine ⟨fun x hx => ⟨fun ha => ?_, fun ha => ?_⟩, fun hstop => ⟨fun ha => ?_, fun ha => ?_, fun ha => ?_, fun ha => ?_⟩⟩
  · subst ha
    rw [hexec]
    refine herr 0xB stPermission 0 _ (fun u _ => ?_)
    have hx' : (st.landed r.id).stop = some x := hx
    rw [stopAt, hx']
    exact ⟨rfl, hab⟩
  · have hcode : ∀ code, (x.code ≠ 0x18 → some (st.firstCode code) = some x.code)
        ∧ (x.code = 0x18 → some (st.firstCode code) = some code) := by
      intro code
      rw [Stream.firstCode, hx]
      exact ⟨fun h => congrArg some (if_neg h), fun h => congrArg some (if_pos h)⟩
    rcases ha with rfl | rfl
    · rw [hexec]
      exact hend stOffline _ (fun u => ⟨hx, (hcode stOffline).left, fun h => ((hcode stOffline).right h).trans rfl⟩)
    · rw [hexec]
      exact hend stUnrecovered _ (fun u => ⟨hx, (hcode stUnrecovered).left, fun h => ((hcode stUnrecovered).right h).trans rfl⟩)
  · subst ha
    rw [hexec]
    refine herr 0xB stPermission 0 _ (fun u hcap => ⟨?_, hcap⟩)
    rw [stopAt_first (st := st.landed r.id) hstop]
    exact ⟨_, rfl, rfl, rfl, rfl⟩
  · subst ha
    rw [hexec]
    refine herr 0xA stTranslation (faultPc st r) _ (fun u hcap => ⟨?_, fun hprog => ?_⟩)
    · rw [stopAt_first (st := st.landed r.id) hstop]
      exact ⟨_, rfl, rfl, rfl, rfl⟩
    · have hpc : faultPc st r = 0 := by
        have hside : st.sidePc r.side r.pos = 0 := by
          unfold Stream.sidePc
          cases hs : r.side
          · exact if_neg (by rw [hs] at hprog; exact Bool.not_eq_true _ |>.mpr hprog)
          · exact if_neg (by rw [hs] at hprog; exact Bool.not_eq_true _ |>.mpr hprog)
        unfold faultPc
        split
        · exact hside
        · exact hside
        · rfl
      rw [hpc] at hcap
      exact hcap
  · subst ha
    rw [hexec]
    exact hend stOffline _ (fun u => congrArg some (firstCode_of_stop_none hstop _))
  · subst ha
    rw [hexec]
    exact hend stUnrecovered _ (fun u => congrArg some (firstCode_of_stop_none hstop _))

/-! ## Index entries -/

theorem entries_landData {st : Stream} {r : ReadReq} {row : Nat} (h : r.what = .entry row) (data : List Byte) :
    landData st r data = { st with
      outstanding := st.outstanding.filter (fun q => decide (q.id ≠ r.id))
      entries := Tab.put st.entries row (BitVec.ofNat 64 (bitsAt (ofBytes data) (8 * data.length) 0 64),
        BitVec.ofNat 64 (bitsAt (ofBytes data) (8 * data.length) 64 64)) } := by
  unfold landData
  rw [h]

/-- The entry that 16 bytes hold. -/
theorem entry_words {data : List Byte} (h : data.length = 16) :
    BitVec.ofNat 64 (bitsAt (ofBytes data) (8 * data.length) 0 64) = BitVec.ofNat 64 (ofBytes (data.take 8))
    ∧ BitVec.ofNat 64 (bitsAt (ofBytes data) (8 * data.length) 64 64) = BitVec.ofNat 64 (ofBytes (data.drop 8)) := by
  have hhi : ofBytes data >>> 64 < 2 ^ 64 := by
    have hdrop := ofBytes_lt (data.drop 8)
    rw [ofBytes_drop, List.length_drop, h] at hdrop
    exact hdrop
  rw [bitsAt_ofBytes data (by decide), bitsAt_ofBytes data (by decide), ofBytes_take, ofBytes_drop]
  refine ⟨rfl, ?_⟩
  rw [show (64 : Int).toNat = 64 from rfl, Nat.mod_eq_of_lt hhi]

theorem streams_captureBx (x : Tile) (enc : Bool) (n cause code : Nat) (entry : DWord) (rate escn block : Nat) :
    (captureBx x enc n cause code entry rate escn block).streams = x.streams := by
  unfold captureBx; dsimp only; split <;> rfl

theorem g_captureBx (x : Tile) (enc : Bool) (n cause code : Nat) (entry : DWord) (rate escn block : Nat) :
    (captureBx x enc n cause code entry rate escn block).g = x.g := by
  unfold captureBx; dsimp only; split <;> rfl

theorem bxErr_captureBx (x : Tile) (enc : Bool) (n cause code : Nat) (entry : DWord) (rate escn block : Nat) :
    let y := captureBx x enc n cause code entry rate escn block
    y.bxErrCount = satInc x.bxErrCount ∧ (bit x.bxErr 31 = true → y.bxErr = x.bxErr ∧ y.bxErrEntry = x.bxErrEntry)
    ∧ (bit x.bxErr 31 = false → y.bxErrEntry = entry
      ∧ y.bxErr = 0x80000000 ||| at1 enc 30 ||| atN n 27 ||| atN cause 16 ||| atN code 8) := by
  unfold captureBx
  cases hv : bit x.bxErr 31 <;> simp [hv]

theorem indexEntryRejected : Claims.IndexEntryRejected := by
  intro s i row m r data st g x side harr hbody hdst hrun hst hsrc hord hmem hstop hab hwhat hlen hbad
  let st1 := landData st r data
  let pos := row * tdCount st.bxSide.1 0
  let s1 := (dropMsg s i).setStream r.tile r.stream st1
  let y := captureBx (s1.tile r.tile) (decide (side = .write)) r.stream 9 stMalformed (st.entryAddr row) 0 0 0
  obtain ⟨hlo, hhi⟩ := entry_words hlen
  have hst1 : st1 = _ := entries_landData hwhat data
  have hentry : st1.entryOf row = some g := by
    rw [hst1, Stream.entryOf, Tab.find_put_self, hlo, hhi]
    rfl
  have hside : st1.bxSide = st.bxSide := by rw [hst1]; rfl
  have haddr : st1.entryAddr row = st.entryAddr row := by rw [hst1]; rfl
  have hstop1 : st1.stop = none := by rw [hst1]; exact hstop
  have hcheck : checkEntry s1 r.tile r.stream st1 r = (s1.setTile r.tile y).setStream r.tile r.stream (stopAt st1 side pos stMalformed 0) := by
    rw [checkEntry, hwhat]
    simp only [hentry, hside, haddr, hbad]
    rfl
  rw [exec_readResponse harr hbody hdst hrun, readAnswer_okay hst hsrc hord hmem hab, hcheck]
  have hframe : StreamOnly s ((s1.setTile r.tile y).setStream r.tile r.stream (stopAt st1 side pos stMalformed 0)) r.tile r.stream :=
    (((streamOnly_dropMsg ..).trans (streamOnly_setStream ..)).trans
      (streamOnly_setTile (streams_captureBx ..) (g_captureBx ..))).trans (streamOnly_setStream ..)
  refine hframe.becomes (stream_setStream_self ..) ⟨?_, ?_⟩
  · rw [stopAt_first hstop1]
    exact ⟨_, rfl, rfl, rfl⟩
  · have htile1 : s1.tile r.tile = { x with streams := Tab.put x.streams r.stream st1 } := tile_setStream_self ..
    rw [tile_setStream_self, tile_setTile, if_pos rfl]
    simp only [y, htile1]
    exact bxErr_captureBx { x with streams := Tab.put x.streams r.stream st1 } (decide (side = .write)) r.stream 9 stMalformed
      (st.entryAddr row) 0 0 0

/-- Settles O25: the answer is matched with its request, and then by its code lands, stops the stream or ends it. -/
theorem readsReturn : Obligations.ReadsReturn := by
  unfold Obligations.ReadsReturn
  exact ⟨readResponseStages, readErrorsStop, indexEntryRejected⟩

end Sys2Proof.Proofs

end

section
/-! PROOF. Acknowledged writes and commits, the staging layout, and calibration windows (R118, R119, R179, R250, R251). -/

namespace Sys2Proof.Proofs

open Sys2Proof Sys2Proof.Machine

/-! ## Counts of a calibration window -/

/-- The window's saturations first exceed their threshold with `k` more. -/
def hitSat (x : Tile) (n k : Nat) : Bool :=
  bit x.calCtrl 31 && !(Tab.get x.windows Window.init n).satUp && decide (x.calSatThr.toNat < (Tab.get x.windows Window.init n).sats + k)

/-- The window's flushes first exceed their threshold with `k` more. -/
def hitFlush (x : Tile) (n k : Nat) : Bool :=
  bit x.calCtrl 30 && !(Tab.get x.windows Window.init n).flushUp
    && decide (x.calFlushThr.toNat < (Tab.get x.windows Window.init n).flushes + k)

/-- The window with `a` saturations and `b` flushes more. -/
def countedWindow (x : Tile) (n a b : Nat) : Window :=
  let w := Tab.get x.windows Window.init n
  { w with sats := w.sats + a, flushes := w.flushes + b, satUp := w.satUp || decide (x.calSatThr.toNat < w.sats + a)
           flushUp := w.flushUp || decide (x.calFlushThr.toNat < w.flushes + b) }

/-- The tile with those counts. -/
def countedTile (x : Tile) (n a b : Nat) : Tile :=
  let y := { x with windows := Tab.put x.windows n (countedWindow x n a b) }
  let y := if hitSat x n a then setCal y 24 n else y
  if hitFlush x n b then setCal y 16 n else y

theorem countWindow_eq (s : State) (t n a b : Nat) : countWindow s t n a b =
    (let u := s.setTile t (countedTile (s.tile t) n a b)
     let u := if hitSat (s.tile t) n a then raise u evCalibSat t n 0 0 else u
     if hitFlush (s.tile t) n b then raise u evCalibFlush t n 0 0 else u) := rfl

theorem countedTile_eq (x : Tile) (n a b : Nat) : countedTile x n a b =
    { x with windows := Tab.put x.windows n (countedWindow x n a b), calStatus := (countedTile x n a b).calStatus
             calOcc := (countedTile x n a b).calOcc } := by
  unfold countedTile
  cases hitSat x n a <;> cases hitFlush x n b <;> rfl

theorem countedTile_quiet {x : Tile} {n a b : Nat} (hs : hitSat x n a = false) (hf : hitFlush x n b = false) : countedTile x n a b =
    { x with windows := Tab.put x.windows n (countedWindow x n a b) } := by
  simp [countedTile, hs, hf]

theorem bit_setCal (x : Tile) (lo n j : Nat) (h : lo + n < 32) : bit (setCal x lo n).calStatus j =
    if j = lo + n then true else bit x.calStatus j := bit_putBit _ h true j

theorem satBit_countedTile {x : Tile} {n a : Nat} (b : Nat) (hn : n < 8) (h : hitSat x n a = true) :
    bit (countedTile x n a b).calStatus (24 + n) = true := by
  unfold countedTile
  simp only [h, if_true]
  cases hitFlush x n b
  · exact (bit_setCal _ _ _ _ (by omega)).trans (if_pos rfl)
  · rw [if_pos rfl, bit_setCal _ _ _ _ (by omega), if_neg (by omega), bit_setCal _ _ _ _ (by omega), if_pos rfl]

theorem flushBit_countedTile {x : Tile} {n b : Nat} (a : Nat) (hn : n < 8) (h : hitFlush x n b = true) :
    bit (countedTile x n a b).calStatus (16 + n) = true := by
  unfold countedTile
  simp only [h, if_true]
  rw [bit_setCal _ _ _ _ (by omega), if_pos rfl]

theorem tile_countWindow (s : State) (t n a b j : Nat) : (countWindow s t n a b).tile j =
    if j = t then countedTile (s.tile t) n a b else s.tile j := by
  rw [countWindow_eq]
  cases hitSat (s.tile t) n a <;> cases hitFlush (s.tile t) n b <;> simp

theorem state_countWindow (s : State) (t n a b : Nat) : countWindow s t n a b =
    { s with tiles := (countWindow s t n a b).tiles, gate := (countWindow s t n a b).gate } := by
  rw [countWindow_eq]
  dsimp only
  split <;> split
  · rw [raise_eq, raise_eq]; rfl
  · rw [raise_eq]; rfl
  · rw [raise_eq]; rfl
  · rfl

theorem countWindow_quiet {s : State} {t n a b : Nat} (hs : hitSat (s.tile t) n a = false) (hf : hitFlush (s.tile t) n b = false) :
    countWindow s t n a b = s.setTile t (countedTile (s.tile t) n a b) := by
  rw [countWindow_eq]
  simp [hs, hf]

theorem streamOnly_countWindow (s : State) (t n a b m : Nat) : StreamOnly s (countWindow s t n a b) t m where
  others k _ := by rw [State.stream?, tile_countWindow, if_pos rfl, countedTile_eq]; rfl
  g := by rw [tile_countWindow, if_pos rfl, countedTile_eq]
  spad := by rw [state_countWindow]

theorem stream_countWindow (s : State) (t n a b m : Nat) : (countWindow s t n a b).stream? t m = s.stream? t m := by
  rw [State.stream?, tile_countWindow, if_pos rfl, countedTile_eq]; rfl

/-- An event stays recorded when another is raised. -/
theorem heard_raise_other {s u : State} {e t n ring detail : Nat} (h : Heard s u e t n ring detail) {e' : Nat} (t' n' ring' detail' : Nat)
    (hne : e ≠ e') (he : e' < 32) : Heard s (raise u e' t' n' ring' detail') e t n ring detail := by
  intro hactive hclock
  obtain ⟨hstat, hinfo, hocc⟩ := h hactive hclock
  unfold raise
  split
  · dsimp only
    split
    all_goals
      refine ⟨?_, ?_, ?_⟩
      · exact (bit_putBit _ he true e).trans ((if_neg hne).trans hstat)
      · exact (Tab.get_set ..).trans ((if_neg hne).trans hinfo)
      · exact (Tab.get_set ..).trans ((if_neg hne).trans hocc)
  · exact ⟨hstat, hinfo, hocc⟩

theorem heard_sat {s : State} {t n a : Nat} (b : Nat) (h : hitSat (s.tile t) n a = true) :
    Heard s (countWindow s t n a b) evCalibSat t n 0 0 := by
  have hsat : Heard s (raise (s.setTile t (countedTile (s.tile t) n a b)) evCalibSat t n 0 0) evCalibSat t n 0 0 :=
    heard_congr (s0 := s.setTile t (countedTile (s.tile t) n a b)) rfl rfl rfl rfl rfl rfl
      (heard_raise (s.setTile t (countedTile (s.tile t) n a b)) t n 0 0 (by decide))
  rw [countWindow_eq]
  simp only [h, if_true]
  split
  · exact heard_raise_other hsat t n 0 0 (by decide) (by decide)
  · exact hsat

theorem heard_flush {s : State} {t n b : Nat} (a : Nat) (h : hitFlush (s.tile t) n b = true) :
    Heard s (countWindow s t n a b) evCalibFlush t n 0 0 := by
  let s1 := s.setTile t (countedTile (s.tile t) n a b)
  rw [countWindow_eq]
  simp only [h, if_true]
  split
  · intro hactive hclock
    have hactive1 : (raise s1 evCalibSat t n 0 0).active (GenConfig.domFixed (raise s1 evCalibSat t n 0 0).gen 6) = true := by
      rw [active_congr (u := raise s1 evCalibSat t n 0 0) (s := s) (raise_cpc ..) (raise_gen ..), raise_gen]
      exact hactive
    have hclock1 : 4 ∉ (raise s1 evCalibSat t n 0 0).cpc.stopped := by
      rw [raise_cpc]
      exact hclock
    obtain ⟨hstat, hinfo, hocc⟩ := heard_raise (raise s1 evCalibSat t n 0 0) t n 0 0 (e := evCalibFlush) (by decide) hactive1 hclock1
    refine ⟨hstat, hinfo, hocc.trans (congrArg satInc ?_)⟩
    unfold raise
    split
    · dsimp only
      split
      all_goals exact (Tab.get_set ..).trans (if_neg (by decide))
    · rfl
  · exact heard_congr (s0 := s1) rfl rfl rfl rfl rfl rfl (heard_raise s1 t n 0 0 (by decide))

/-! ## WRITE_ACKNOWLEDGEMENT and CHUNK_COMMIT -/

theorem acknowledgementCounts : Claims.AcknowledgementCounts := by
  intro s i m w st harr hbody hdst hrun hst hsrc hord hepoch hmem hab
  let st1 : Stream := { st.writeBack w with hasSat := st.hasSat || decide (0 < 0) }
  let s1 := dropMsg s i
  have hany : st.wrOut.any (fun v => decide (v.id = w.id) && decide (v.epoch = w.epoch)) = true :=
    List.any_eq_true.mpr ⟨w, hmem, by simp⟩
  have hst1 : s1.stream? w.tile w.stream = some st := hst
  have hans : writeAnswer s1 w .okay 0 = countWindow ((s1.setStream w.tile w.stream (st1.writeCount w)).setTile w.tile
      ((s1.setStream w.tile w.stream (st1.writeCount w)).tile w.tile)) w.tile w.stream 0 0 := by
    have hfresh : (decide (w.epoch = st1.epoch) && st1.abort.isNone) = true := by
      have hab' : st1.abort = none := hab
      have hepoch' : w.epoch = st1.epoch := hepoch
      simp [hab', hepoch']
    rw [writeAnswer, hst1]
    refine (if_neg (by simp [hsrc, hord, hany])).trans ?_
    simp only [if_true]
    rw [if_neg (by rw [hfresh]; decide), if_pos ⟨hfresh, trivial⟩]
    rfl
  have hexec : exec (.writeAcknowledgement i) s = .next (writeAnswer s1 w .okay 0) := by
    refine congrArg Host.Outcome.next ?_
    rw [ackStep, harr]
    simp only [hbody, hdst, hrun, if_true]
    rfl
  have hframe : StreamOnly s (writeAnswer s1 w .okay 0) w.tile w.stream := by
    rw [hans]
    exact (((streamOnly_dropMsg ..).trans (streamOnly_setStream ..)).trans (streamOnly_setTile rfl rfl)).trans
      (streamOnly_countWindow ..)
  have hst' : (writeAnswer s1 w .okay 0).stream? w.tile w.stream = some (st1.writeCount w) := by
    rw [hans, stream_countWindow, State.stream?, tile_setTile, if_pos rfl]
    exact stream_setStream_self s1 w.tile w.stream (st1.writeCount w)
  rw [hexec]
  refine hframe.becomes hst' ⟨?_, ?_, rfl⟩
  · simp [st1, Stream.writeCount, Stream.writeBack]
  · rw [hans, state_countWindow]
    rfl

theorem chunkCommits : Claims.ChunkCommits := by
  intro s t n st c cs hrun hst hchunks hab hsignal
  have hjournal : journalEcc s t n .clean = s := by
    rw [journalEcc, hst]
    exact ite_self _
  have hexec : exec (.chunkCommit t ⟨n, .clean⟩) s = .next (commitFirst s t n) := by
    refine congrArg Host.Outcome.next ?_
    rw [commitStep, if_neg (by simp [hrun])]
    simp only [hjournal, hsignal]
  have hcommit : commitFirst s t n = if c.done then
      s.setStream t n { st with chunks := cs, committed := st.committed + 1, replays := 0 } else s := by
    rw [commitFirst, hst]
    simp only [hchunks, hab, Option.isNone_none, Bool.and_true]
  rw [hexec, hcommit]
  refine ⟨fun hsent hacked hsig => ?_, fun hnot => ?_⟩
  · have hdone : c.done = true := by
      cases hw : c.wantSignal with
      | false => simp [Chunk.done, hsent, hacked, hw]
      | true => simp [Chunk.done, hsent, hacked, hsig hw]
    rw [if_pos hdone]
    exact (streamOnly_setStream ..).becomes (stream_setStream_self ..) rfl
  · have hdone : c.done = false := by
      rcases hnot with h | h | ⟨hw, h⟩
      · simp [Chunk.done, h]
      · have hne : c.unacked ≠ 0 := by omega
        simp [Chunk.done, hne]
      · simp [Chunk.done, hw, h]
    rw [hdone]
    rfl

/-- Settles O27: the answer finds its write, and the first chunk leaves when `Chunk.done` holds. -/
theorem chunksCommit : Obligations.ChunksCommit := by
  unfold Obligations.ChunksCommit
  exact ⟨acknowledgementCounts, chunkCommits⟩

/-! ## APPLY and LAYOUT_APPLIED -/

theorem stgApply_eq (x : Tile) :
    let pages := (List.range 4).map (fun k => fld x.sliceA (8 * k + 7) (8 * k))
      ++ (List.range 4).map (fun k => fld x.sliceB (8 * k + 7) (8 * k))
    stgApply x = if (∀ v ∈ pages, 1 ≤ v ∧ v ≤ 64) ∧ pages.sum ≤ 64 then { x with stgPending := some (x.sliceA, x.sliceB) }
      else { x with stgBadsum := true } := by
  intro pages
  have hpages : sliceBytes x.sliceA ++ sliceBytes x.sliceB = pages := rfl
  have hbad : (pages.any (fun v => decide (v = 0) || decide (64 < v)) || decide (64 < pages.sum)) = true
      ↔ ¬ ((∀ v ∈ pages, 1 ≤ v ∧ v ≤ 64) ∧ pages.sum ≤ 64) := by
    rw [Bool.or_eq_true, List.any_eq_true, decide_eq_true_iff, not_and_or, Nat.not_le]
    refine or_congr_left ?_
    simp only [not_forall, Bool.or_eq_true, decide_eq_true_iff]
    exact exists_congr fun v => by
      constructor
      · rintro ⟨hv, h⟩
        exact ⟨hv, by omega⟩
      · rintro ⟨hv, h⟩
        exact ⟨hv, by omega⟩
  unfold stgApply
  rw [hpages]
  by_cases h : (∀ v ∈ pages, 1 ≤ v ∧ v ≤ 64) ∧ pages.sum ≤ 64
  · rw [if_pos h]
    exact if_neg (fun hb => hbad.mp hb h)
  · rw [if_neg h]
    exact if_pos (hbad.mpr h)

theorem stagingLayout : Claims.StagingLayout := by
  intro s t x pages
  refine ⟨fun hreach => ?_, fun p hrun hp => ⟨fun hnone => ?_, fun hsome => ?_⟩⟩
  · have hexec : exec (.apply t) s = .next (hostWrite s (tileAddr t 0x308) 0x80000000 15) := rfl
    have hwrite : hostWrite s (tileAddr t 0x308) 0x80000000 15 = answered (s.setTile t (stgApply x)) := hostWrite_of_reaches hreach rfl
    rw [hexec, hwrite]
    refine ⟨_, rfl, onlyTile_setTile _ _ _, ?_⟩
    rw [tile_answered, tile_setTile, if_pos rfl]
    exact stgApply_eq x
  · have hempty : (s.tile t).streams.isEmpty = true := List.isEmpty_iff.mpr hnone
    have hexec : exec (.layoutApplied t) s = .next (s.setTile t { x with activeA := p.1, activeB := p.2, stgPending := none }) := by
      refine congrArg Host.Outcome.next ?_
      have hp' : (s.tile t).stgPending = some p := hp
      simp only [layoutStep, hp', hrun, hempty, Bool.and_self, if_true]
      rfl
    exact ⟨_, hexec, onlyTile_setTile _ _ _, by rw [tile_setTile, if_pos rfl]⟩
  · have hempty : (s.tile t).streams.isEmpty = false := by
      cases h : (s.tile t).streams with
      | nil => exact absurd h hsome
      | cons q qs => rfl
    refine congrArg Host.Outcome.next ?_
    have hp' : (s.tile t).stgPending = some p := hp
    simp [layoutStep, hp', hempty]

/-! ## CALIBRATION_WINDOW and the thresholds -/

theorem calibrationWindowRestarts : Claims.CalibrationWindowRestarts := by
  intro s t n hrun w
  refine ⟨fun hfull => ?_, fun hnot => ?_⟩
  · let v : Window := { Window.init with elems := w.elems - calWin (s.tile t) }
    let s1 := s.setTile t { s.tile t with windows := Tab.put (s.tile t).windows n v }
    let x1 := s1.tile t
    have hx1 : x1 = { s.tile t with windows := Tab.put (s.tile t).windows n v } := (tile_setTile ..).trans (if_pos rfl)
    have hget : ∀ k, Tab.get x1.windows Window.init k = if k = n then v else Tab.get (s.tile t).windows Window.init k := fun k => by
      rw [hx1]
      exact Tab.get_put ..
    have hv : Tab.get x1.windows Window.init n = v := (hget n).trans (if_pos rfl)
    have hexec : exec (.calibrationWindow t n) s = .next (countWindow s1 t n w.nextSats w.nextFlushes) := by
      refine congrArg Host.Outcome.next ?_
      rw [windowStep, hrun, hfull]
      rfl
    have htile : (countWindow s1 t n w.nextSats w.nextFlushes).tile t = countedTile x1 n w.nextSats w.nextFlushes :=
      (tile_countWindow ..).trans (if_pos rfl)
    have hwin : ∀ k, Tab.get (countedTile x1 n w.nextSats w.nextFlushes).windows Window.init k =
        if k = n then countedWindow x1 n w.nextSats w.nextFlushes else Tab.get (s.tile t).windows Window.init k := fun k => by
      rw [countedTile_eq]
      refine (Tab.get_put ..).trans ?_
      by_cases hk : k = n
      · rw [if_pos hk, if_pos hk]
      · rw [if_neg hk, if_neg hk, hget k, if_neg hk]
    have hself := (hwin n).trans (if_pos rfl)
    refine ⟨_, hexec, ?_, ?_, ?_, fun m hm => ?_, ?_, fun j hj => ?_, ?_, fun hns hnf => ?_, fun hctl hover hn => ?_,
      fun hctl hover hn => ?_⟩
    · rw [htile, hself, countedWindow, hv]
    · rw [htile, hself, countedWindow, hv]
      exact Nat.zero_add _
    · rw [htile, hself, countedWindow, hv]
      exact Nat.zero_add _
    · rw [htile, hwin, if_neg hm]
    · rw [htile, countedTile_eq, hx1]
    · rw [tile_countWindow, if_neg hj, tile_setTile, if_neg hj]
    · rw [state_countWindow]
      rfl
    · have hsat : hitSat x1 n w.nextSats = false := by
        rw [hitSat, hv, hns]
        simp [v, Window.init]
      have hflush : hitFlush x1 n w.nextFlushes = false := by
        rw [hitFlush, hv, hnf]
        simp [v, Window.init]
      rw [countWindow_quiet hsat hflush]
      refine ⟨onlyTile_trans (onlyTile_setTile s t _) (onlyTile_setTile s1 t _), ?_⟩
      rw [tile_setTile, if_pos rfl, countedTile_quiet hsat hflush]
      simp only [hx1, x1, s1]
    · have hhit : hitSat x1 n w.nextSats = true := by
        rw [hitSat, hv, hx1]
        simp [hctl, v, Window.init, hover]
      refine ⟨?_, heard_congr (s0 := s1) rfl rfl rfl rfl rfl rfl (heard_sat w.nextFlushes hhit)⟩
      rw [htile]
      exact satBit_countedTile _ hn hhit
    · have hhit : hitFlush x1 n w.nextFlushes = true := by
        rw [hitFlush, hv, hx1]
        simp [hctl, v, Window.init, hover]
      refine ⟨?_, heard_congr (s0 := s1) rfl rfl rfl rfl rfl rfl (heard_flush w.nextSats hhit)⟩
      rw [htile]
      exact flushBit_countedTile _ hn hhit
  · refine congrArg Host.Outcome.next ?_
    rw [windowStep, hnot, Bool.and_false]
    rfl

/-- A write of a threshold judges the window of the one running stream. -/
theorem registerWrite_threshold {s : State} {a : BitVec 26} {d : Word} {t n : Nat} {st : Stream} {r : TileReg}
    (hr : r = .calSatThr ∨ r = .calFlushThr) (hreach : Reaches s a.toNat (.tile t r)) (hone : (s.tile t).streams = [(n, st)])
    (hl : st.launched = true) : exec (.registerWrite a d 15) s =
      .next (answered (countWindow (s.setTile t (writeTileReg (s.tile t) r d)) t n 0 0)) := by
  have hstreams : ((s.setTile t (writeTileReg (s.tile t) r d)).tile t).streams = [(n, st)] := by
    rw [tile_setTile, if_pos rfl]
    rcases hr with rfl | rfl
    all_goals exact hone
  have hjudge : judgeWindows (s.setTile t (writeTileReg (s.tile t) r d)) t =
      countWindow (s.setTile t (writeTileReg (s.tile t) r d)) t n 0 0 := by
    rw [judgeWindows, hstreams]
    simp [hl]
  have hw : regWrite s a.toNat (.tile t r) d 15 false = (judgeWindows (s.setTile t (writeTileReg (s.tile t) r d)) t, false) := by
    rcases hr with rfl | rfl
    all_goals rfl
  refine congrArg Host.Outcome.next ?_
  rw [hostWrite_of_reaches hreach hw, hjudge]

theorem thresholdsJudge : Claims.ThresholdsJudge := by
  intro s a d t n st w hone hl hn
  refine ⟨fun hreach hctl hfl => ?_, fun hreach hctl hsa => ?_⟩
  · let x : Tile := { s.tile t with calSatThr := d }
    let s1 := s.setTile t x
    have hx : s1.tile t = x := (tile_setTile ..).trans (if_pos rfl)
    have hwrite : writeTileReg (s.tile t) .calSatThr d = x := rfl
    have hexec := registerWrite_threshold (d := d) (.inl rfl) hreach hone hl
    rw [hwrite] at hexec
    have hquiet : hitFlush x n 0 = false := by
      have hle : ¬ (s.tile t).calFlushThr.toNat < w.flushes := Nat.not_lt.mpr hfl
      simp [hitFlush, x, w, hle]
    have hsat : hitSat x n 0 = (!w.satUp && decide (d.toNat < w.sats)) := by simp [hitSat, x, w, hctl]
    have htile : (countWindow s1 t n 0 0).tile t = countedTile x n 0 0 := by rw [tile_countWindow, if_pos rfl, hx]
    refine ⟨_, hexec, ?_, fun hover hup => ?_, fun hno => ?_⟩
    · rw [tile_answered, htile, countedTile_eq]
    · have hhit : hitSat x n 0 = true := by rw [hsat, hup]; exact decide_eq_true hover
      refine ⟨?_, ?_, ?_⟩
      · rw [tile_answered, htile]
        exact satBit_countedTile _ hn hhit
      · exact heard_congr (s0 := s1) (u := countWindow s1 t n 0 0) rfl rfl rfl rfl rfl rfl (heard_sat 0 (by rw [hx]; exact hhit))
      · rw [tile_answered, htile, countedTile_eq]
        refine (congrArg Window.satUp (Tab.get_put_self ..)).trans ?_
        simp only [countedWindow, x, Nat.add_zero]
        exact Bool.or_eq_true _ _ |>.mpr (.inr (decide_eq_true hover))
    · have hhit : hitSat x n 0 = false := by
        rw [hsat]
        rcases hno with h | h
        · simp [h]
        · simp [h]
      rw [tile_answered, htile, countedTile_quiet hhit hquiet, countWindow_quiet (by rw [hx]; exact hhit) (by rw [hx]; exact hquiet)]
      exact ⟨rfl, rfl⟩
  · let x : Tile := { s.tile t with calFlushThr := d }
    let s1 := s.setTile t x
    have hx : s1.tile t = x := (tile_setTile ..).trans (if_pos rfl)
    have hwrite : writeTileReg (s.tile t) .calFlushThr d = x := rfl
    have hexec := registerWrite_threshold (d := d) (.inr rfl) hreach hone hl
    rw [hwrite] at hexec
    have hquiet : hitSat x n 0 = false := by
      have hle : ¬ (s.tile t).calSatThr.toNat < w.sats := Nat.not_lt.mpr hsa
      simp [hitSat, x, w, hle]
    have hflush : hitFlush x n 0 = (!w.flushUp && decide (d.toNat < w.flushes)) := by simp [hitFlush, x, w, hctl]
    have htile : (countWindow s1 t n 0 0).tile t = countedTile x n 0 0 := by rw [tile_countWindow, if_pos rfl, hx]
    refine ⟨_, hexec, ?_, fun hover hup => ?_, fun hno => ?_⟩
    · rw [tile_answered, htile, countedTile_eq]
    · have hhit : hitFlush x n 0 = true := by rw [hflush, hup]; exact decide_eq_true hover
      refine ⟨?_, ?_, ?_⟩
      · rw [tile_answered, htile]
        exact flushBit_countedTile _ hn hhit
      · exact heard_congr (s0 := s1) (u := countWindow s1 t n 0 0) rfl rfl rfl rfl rfl rfl (heard_flush 0 (by rw [hx]; exact hhit))
      · rw [tile_answered, htile, countedTile_eq]
        refine (congrArg Window.flushUp (Tab.get_put_self ..)).trans ?_
        simp only [countedWindow, x, Nat.add_zero]
        exact Bool.or_eq_true _ _ |>.mpr (.inr (decide_eq_true hover))
    · have hhit : hitFlush x n 0 = false := by
        rw [hflush]
        rcases hno with h | h
        · simp [h]
        · simp [h]
      rw [tile_answered, htile, countedTile_quiet hquiet hhit, countWindow_quiet (by rw [hx]; exact hquiet) (by rw [hx]; exact hhit)]
      exact ⟨rfl, rfl⟩

/-- Settles O28: a layout is judged by its pages, and a window's counts by `countWindow`. -/
theorem stagingAndWindows : Obligations.StagingAndWindows := by
  unfold Obligations.StagingAndWindows
  exact ⟨stagingLayout, calibrationWindowRestarts, thresholdsJudge⟩

end Sys2Proof.Proofs

end

section
/-! PROOF. What a bank group does with reads and writes (R22, R98, R277, R285–R289, R402, R415, R416). -/

namespace Sys2Proof.Proofs

open Sys2Proof Sys2Proof.Machine

/-! ## A request at a unit -/

section
variable {s : State} {i d : Nat} {adm : Bool} {off later k : State → State}

theorem serveOr_on (h : availOf s d = .on) : serveOr s i d adm off later k = k s := by rw [serveOr, h]

theorem serveOr_off (h : availOf s d = .off) : serveOr s i d adm off later k = off (dropMsg s i) := by rw [serveOr, h]

theorem serveOr_later (h : availOf s d = .later) (hadm : adm = false) : serveOr s i d adm off later k = later s := by
  rw [serveOr, h, hadm]
  rfl

theorem serveOr_dead (h : availOf s d = .dead) : serveOr s i d adm off later k = dropMsg s i := by rw [serveOr, h]

end

/-- A request that is turned back, on its way to its requester. -/
def turnedBack (s : State) (m : Msg) : Msg :=
  { m with cls := if m.cls = .request then .response else m.cls, src := m.dst, dst := m.src, flits := 1
           index := 0, route := GenConfig.route s.gen m.dst m.src, inp := Node.num m.dst, again := true }

theorem turnBack_eq (s : State) (i : Nat) (m : Msg) : turnBack s i m =
    { s with prom := { s.prom with net := s.prom.net.eraseIdx i ++ [turnedBack s m] } } := rfl

/-! ## Writes of bytes -/

theorem mem_unitsOf {o n u : Nat} (h : coversUnit o n u = true) : u ∈ unitsOf o n := by
  simp only [coversUnit, Bool.and_eq_true, decide_eq_true_eq] at h
  obtain ⟨hlo, hhi⟩ := h
  have hn : n ≠ 0 := by omega
  rw [unitsOf, if_neg hn]
  exact List.mem_map.mpr ⟨u - o / 8, List.mem_range.mpr (by omega), by omega⟩

/-- Bytes of units that are not poisoned are written, and no poison is cleared. -/
theorem spadWrite_clean {sp : Spad} {o : Nat} {bs : List Byte} (h : poisoned sp.poison o bs.length = false) :
    spadWrite sp o bs = ({ sp with mem := memWrite sp.mem o bs }, true) := by
  have hunit : ∀ u ∈ unitsOf o bs.length, sp.poison.contains u = false := fun u hu => by
    simpa using List.any_eq_false.mp h u hu
  have hblock : (unitsOf o bs.length).any (fun u => sp.poison.contains u && !coversUnit o bs.length u) = false :=
    List.any_eq_false.mpr (fun u hu => by rw [hunit u hu]; exact Bool.false_ne_true)
  have hkeep : sp.poison.filter (fun u => !coversUnit o bs.length u) = sp.poison :=
    List.filter_eq_self.mpr (fun u hu => by
      cases hc : coversUnit o bs.length u with
      | false => rfl
      | true => exact absurd (List.contains_iff_mem.mpr hu) (by rw [hunit u (mem_unitsOf hc)]; decide))
  unfold spadWrite
  simp only [hblock, hkeep, Bool.false_eq_true, if_false]

/-- An access that covers part of a poisoned unit writes nothing. -/
theorem spadWrite_blocked {sp : Spad} {o b : Nat} {bs : List Byte} (hb : b ∈ unitsOf o bs.length) (hp : sp.poison.contains b = true)
    (hc : coversUnit o bs.length b = false) : spadWrite sp o bs = (sp, false) := by
  refine if_pos (List.any_eq_true.mpr ⟨b, hb, ?_⟩)
  rw [hp, hc]
  rfl

/-! ## Answers -/

theorem answerWrite_eq (s : State) (src : Node) (m : Msg) (w : WriteReq) (a : Answer) (sats : Nat) : answerWrite s src m w a sats =
    { s with prom := { s.prom with
        net := s.prom.net ++ [oneFlit s .response src (.tile w.tile) [] m.stamp m.prio (.wrAck w a sats)] } } := post_one ..

/-- An update that is sent changes the network and the express wires alone. -/
theorem sendUpd_eq (s : State) (src : Node) (v : Upd) : ∃ net xs, sendUpd s src v =
    { s with prom := { s.prom with net := net }, lodge := { s.lodge with xupds := xs } } := by
  cases hx : v.express with
  | false => exact ⟨_, s.lodge.xupds, sendUpd_home hx⟩
  | true => exact ⟨s.prom.net, _, sendUpd_express hx⟩

theorem forward_eq (s : State) (src : Node) (wire : Nat) (w : WriteReq) : ∃ net xs, forward s src wire w =
    { s with prom := { s.prom with net := net }, lodge := { s.lodge with xupds := xs } } := by
  unfold forward
  split
  · exact sendUpd_eq ..
  · exact ⟨s.prom.net, s.lodge.xupds, rfl⟩

/-- The end of a write that is performed. -/
theorem writeDone_answer {s s0 : State} {i u : Nat} (m : Msg) (w : WriteReq) (sats : Nat) (hnet : s0.prom.net = s.prom.net.eraseIdx i)
    (hx : s0.lodge.xupds = s.lodge.xupds) (hgen : s0.gen = s.gen) :
    WriteDone s (answerWrite (forward s0 (.tile u) u w) (.tile u) m w .okay sats) i u w sats := by
  rw [answerWrite_eq]
  refine ⟨oneFlit (forward s0 (.tile u) u w) .response (.tile u) (.tile w.tile) [] m.stamp m.prio (.wrAck w .okay sats), rfl, rfl, rfl,
    fun hno => ?_, fun g hg hexp => ?_, fun g hg hexp => ?_⟩
  · have hf : forward s0 (.tile u) u w = s0 := by rw [forward, hno]
    rw [hf, hnet, hx]
    exact ⟨rfl, rfl⟩
  · have hf : forward s0 (.tile u) u w = sendUpd s0 (.tile u) { g with wire := u } := by rw [forward, hg]
    rw [hf, sendUpd_home (u := { g with wire := u }) hexp]
    refine ⟨oneFlit s0 .lodge (.tile u) (.lodge (homeBank s0 g.cid)) [] 0 0 (.upd { g with wire := u }), ?_, ?_, rfl, hx⟩
    · rw [hnet, List.append_assoc]
      rfl
    · simp only [oneFlit, homeBank, hgen]
  · have hf : forward s0 (.tile u) u w = sendUpd s0 (.tile u) { g with wire := u } := by rw [forward, hg]
    rw [hf, sendUpd_express (u := { g with wire := u }) hexp]
    exact ⟨by rw [← hnet], by rw [← hx]⟩

/-! ## BANK_WRITE -/

/-- The state after one access of a write. -/
theorem writeAccess_eq (s : State) (u i : Nat) (m : Msg) (o : Nat) (data : List Byte) (fin : State → Msg → State) :
    writeAccess s u i m o data .clean fin =
      nextAccess { s with spad := (spadWrite s.spad (pieceAt o data m.done).1 (pieceAt o data m.done).2).1 } i
        { m with done := m.done + 1, bad := m.bad || !(spadWrite s.spad (pieceAt o data m.done).1 (pieceAt o data m.done).2).2 }
        (accessAt o data.length (m.done + 1))
        (fun s' => fin s' { m with
          done := m.done + 1, bad := m.bad || !(spadWrite s.spad (pieceAt o data m.done).1 (pieceAt o data m.done).2).2 }) := by
  have hecc : partEcc s u (granule o data.length m.done).1 (granule o data.length m.done).2 .clean = s := by
    unfold partEcc
    split <;> rfl
  simp only [writeAccess, hecc]
  rfl

section
variable {s : State} {i u : Nat} {m : Msg} {w : WriteReq}

/-- The end of a write's accesses. -/
def writeFin (u : Nat) (w : WriteReq) (s : State) (m : Msg) : State :=
  if m.bad then answerWrite s (.tile u) m w .poison 0 else answerWrite (forward s (.tile u) u w) (.tile u) m w .okay 0

theorem exec_bankWrite_data (harr : arrived s i = some m) (hbody : m.body = .wr w) (hdst : m.dst = .tile u) (hkind : w.kind = .data) :
    exec (.bankWrite ⟨i, .clean⟩) s = .next (serveOr s i (spadDom s u) (decide (0 < m.done))
      (fun s => answerWrite s (.tile u) m w .offline 0) (fun s => turnBack s i m)
      (fun s => writeAccess s u i m (w.off.getD 0) w.data .clean (writeFin u w))) := by
  refine congrArg Host.Outcome.next ?_
  rw [bankWriteStep, harr]
  simp only [hbody, hdst, hkind]
  rfl

end

theorem bankWriteStores : Claims.BankWriteStores := by
  intro s i u o m w harr hbody hdst hon p
  refine ⟨fun hkind hoff hclean => ?_, fun hkind hoff b hb hp hc => ?_, fun hkind => ?_⟩
  · let s1 : State := { s with spad := { s.spad with mem := memWrite s.spad.mem p.1 p.2 } }
    let m1 : Msg := { m with done := m.done + 1 }
    have hw := spadWrite_clean hclean
    have hexec : exec (.bankWrite ⟨i, .clean⟩) s = .next (nextAccess s1 i { m1 with bad := m.bad || false }
        (accessAt o w.data.length (m.done + 1)) (fun s' => writeFin u w s' { m1 with bad := m.bad || false })) := by
      rw [exec_bankWrite_data harr hbody hdst hkind, serveOr_on hon, hoff, Option.getD_some, writeAccess_eq]
      simp only [p] at hw
      rw [hw]
      rfl
    rw [Bool.or_false] at hexec
    have hbytes : ∀ a, memByte s1.spad.mem a = if p.1 ≤ a ∧ a < p.1 + p.2.length then p.2.getD (a - p.1) 0 else memByte s.spad.mem a :=
      memByte_memWrite p.2 s.spad.mem p.1
    rw [hexec]
    cases hacc : accessAt o w.data.length (m.done + 1) with
    | some o' =>
      refine ⟨_, rfl, hbytes, rfl, rfl, rfl, ?_, nofun⟩
      rintro o'' ⟨⟩
      exact ⟨rfl, rfl⟩
    | none =>
      cases hbad : m.bad with
      | true =>
        have hfin : writeFin u w (dropMsg s1 i) { m1 with bad := true } =
            answerWrite (dropMsg s1 i) (.tile u) { m1 with bad := true } w .poison 0 := if_pos rfl
        refine ⟨_, congrArg Host.Outcome.next hfin, ?_, ?_, ?_, ?_, nofun, fun _ h => absurd h (by decide)⟩
        all_goals rw [answerWrite_eq]
        · exact hbytes
        · rfl
        · rfl
        · rfl
      | false =>
        obtain ⟨net, xs, hfwd⟩ := forward_eq (dropMsg s1 i) (.tile u) u w
        have hfin : writeFin u w (dropMsg s1 i) { m1 with bad := false } =
            answerWrite (forward (dropMsg s1 i) (.tile u) u w) (.tile u) { m1 with bad := false } w .okay 0 := if_neg Bool.false_ne_true
        refine ⟨_, congrArg Host.Outcome.next hfin, ?_, ?_, ?_, ?_, nofun, fun _ _ => writeDone_answer _ _ _ rfl rfl rfl⟩
        all_goals rw [answerWrite_eq, hfwd]
        · exact hbytes
        · rfl
        · rfl
        · rfl
  · have hw := spadWrite_blocked hb hp hc
    have hexec : exec (.bankWrite ⟨i, .clean⟩) s = .next (nextAccess s i { m with done := m.done + 1, bad := m.bad || true }
        (accessAt o w.data.length (m.done + 1)) (fun s' => writeFin u w s' { m with done := m.done + 1, bad := m.bad || true })) := by
      rw [exec_bankWrite_data harr hbody hdst hkind, serveOr_on hon, hoff, Option.getD_some, writeAccess_eq]
      simp only [p] at hw
      rw [hw]
      rfl
    rw [Bool.or_true] at hexec
    rw [hexec]
    cases hacc : accessAt o w.data.length (m.done + 1) with
    | some o' => exact ⟨_, rfl, rfl, nofun⟩
    | none =>
      have hfin : writeFin u w (dropMsg s i) { m with done := m.done + 1, bad := true } =
          answerWrite (dropMsg s i) (.tile u) { m with done := m.done + 1, bad := true } w .poison 0 := if_pos rfl
      rw [answerWrite_eq] at hfin
      refine ⟨_, congrArg Host.Outcome.next hfin, rfl, fun _ => ⟨_, ?_, rfl, rfl⟩⟩
      rfl
  · have hexec : exec (.bankWrite ⟨i, .clean⟩) s = .next (answerWrite (stageAddend (dropMsg s i) w) (.tile u) m w .okay 0) := by
      refine congrArg Host.Outcome.next ?_
      rw [bankWriteStep, harr]
      simp only [hbody, hdst, hkind]
      exact serveOr_on hon
    rw [answerWrite_eq] at hexec
    exact ⟨_, _, hexec, rfl, rfl, rfl, rfl⟩

/-! ## Bank groups that do not serve -/

theorem answerRead_failed (s : State) (src : Node) (m : Msg) (r : ReadReq) {a : Answer} (h : a ≠ .okay) : answerRead s src m r a [] =
    { s with prom := { s.prom with
        net := s.prom.net ++ [oneFlit s .response src (.tile r.tile) [] m.stamp m.prio (.rdResp r a [])] } } := by
  rw [answerRead, if_neg h]
  exact post_one ..

theorem exec_bankRead {s : State} {i u : Nat} {m : Msg} {r : ReadReq} (ecc : Ecc) (harr : arrived s i = some m) (hbody : m.body = .rd r)
    (hdst : m.dst = .tile u) : exec (.bankRead i ecc) s = .next (serveOr s i (spadDom s u) (decide (0 < m.done))
      (fun s => answerRead s (.tile u) m r .offline []) (fun s => turnBack s i m)
      (fun s => readAccess s u i m (r.off.getD 0) r.len ecc (fun s m =>
        if m.bad then answerRead s (.tile u) m r .poison [] else answerRead s (.tile u) m r .okay m.got))) := by
  refine congrArg Host.Outcome.next ?_
  rw [bankReadStep, harr]
  simp only [hbody, hdst]

theorem unavailableBankGroup : Claims.UnavailableBankGroup := by
  refine ⟨fun s i u m w harr hbody hdst hkind => ?_, fun s i u m r harr hbody hdst => ?_⟩
  · rw [exec_bankWrite_data harr hbody hdst hkind]
    refine ⟨fun hoff => ?_, fun hlater hdone => ?_, fun hdead => ?_⟩
    · rw [serveOr_off hoff, answerWrite_eq]
      exact ⟨_, _, rfl, rfl, rfl, rfl, rfl⟩
    · rw [serveOr_later hlater (by simp [hdone]), turnBack_eq]
      exact ⟨_, _, rfl, rfl, rfl, hbody, rfl, rfl, rfl⟩
    · rw [serveOr_dead hdead]
  · rw [exec_bankRead .clean harr hbody hdst]
    refine ⟨fun hoff => ?_, fun hlater hdone => ?_, fun hdead => ?_⟩
    · rw [serveOr_off hoff, answerRead_failed _ _ _ _ (by decide)]
      exact ⟨_, _, rfl, rfl, rfl, rfl, rfl⟩
    · rw [serveOr_later hlater (by simp [hdone]), turnBack_eq]
      exact ⟨_, _, rfl, rfl, rfl, hbody, rfl, rfl, rfl⟩
    · rw [serveOr_dead hdead]

/-- Settles O29: an access that writes is `spadWrite` of its piece, and the last one answers; a unit that is off answers for it. -/
theorem bankGroupWrites : Obligations.BankGroupWrites := by
  unfold Obligations.BankGroupWrites
  exact ⟨bankWriteStores, unavailableBankGroup⟩

/-! ## BANK_READ -/

/-- The message after one access of a read that takes bytes `bs`. -/
def afterRead (m : Msg) (bs : List Byte) (bad : Bool) : Msg :=
  { m with done := m.done + 1, got := m.got ++ bs, bad := m.bad || bad }

theorem readAccess_eq (s : State) (u i : Nat) (m : Msg) (o n : Nat) (ecc : Ecc) (fin : State → Msg → State) :
    let g := granule o n m.done
    let s1 := spadEcc s u g.1 ecc
    let m1 := afterRead m ((List.range g.2).map (fun j => memByte s1.spad.mem (g.1 + j))) (poisoned s1.spad.poison g.1 g.2)
    readAccess s u i m o n ecc fin = nextAccess s1 i m1 (accessAt o n (m.done + 1)) (fun s => fin s m1) := by
  intro g s1 m1
  have hm : m1 = afterRead m (memRead s1.spad.mem g.1 g.2) (poisoned s1.spad.poison g.1 g.2) := by rw [memRead_eq]
  rw [hm]
  rfl

/-- The unit that a byte of a range lies in is one of the range's. -/
theorem poisoned_of_first {p : List Nat} {o n : Nat} (hn : 0 < n) (h : o / 8 ∈ p) : poisoned p o n = true := by
  refine List.any_eq_true.mpr ⟨o / 8, ?_, List.contains_iff_mem.mpr h⟩
  rw [unitsOf, if_neg (by omega)]
  exact List.mem_map.mpr ⟨0, List.mem_range.mpr (by omega), by omega⟩

theorem mem_poisonAt (s : State) (o : Nat) : o / 8 ∈ (poisonAt s o).spad.poison := by
  rw [poisonAt]
  dsimp only
  split
  case isTrue h => exact List.contains_iff_mem.mp h
  case isFalse => exact List.mem_append_right _ List.mem_cons_self

/-- The answer to a read. -/
def readAck (s : State) (u : Nat) (m : Msg) (r : ReadReq) (a : Answer) (data : List Byte) : Msg :=
  { cls := .response, src := .tile u, dst := .tile r.tile, slack := m.stamp, stamp := m.stamp, prio := m.prio
    flits := if a = .okay then flitsOf r.addr r.len else 1, index := 0, route := GenConfig.route s.gen (.tile u) (.tile r.tile) ++ []
    inp := Node.num (.tile u), done := 0, got := [], sats := 0, bad := false, again := false, body := .rdResp r a data }

theorem answerRead_eq (s : State) (u : Nat) (m : Msg) (r : ReadReq) (a : Answer) (data : List Byte) : answerRead s (.tile u) m r a data =
    { s with prom := { s.prom with net := s.prom.net ++ (readAck s u m r a data).split } } := rfl

/-- Settles O30: an access takes the bytes of its granule, and the last answers with all of them unless a unit is poisoned. -/
theorem bankReadReturnsBytes : Obligations.BankReadReturnsBytes := by
  unfold Obligations.BankReadReturnsBytes
  intro s i u o m r harr hbody hdst hon hoff g bs
  have hexec : ∀ ecc, exec (.bankRead i ecc) s = .next (readAccess s u i m o r.len ecc (fun s m =>
      if m.bad then answerRead s (.tile u) m r .poison [] else answerRead s (.tile u) m r .okay m.got)) := fun ecc => by
    rw [exec_bankRead ecc harr hbody hdst, serveOr_on hon, hoff]
    rfl
  refine ⟨fun o' hnext => ?_, fun hlast => ?_, fun hlast hlen hclock => ?_⟩
  · rw [hexec, readAccess_eq, hnext]
    exact ⟨_, rfl, rfl, rfl⟩
  · let m1 := afterRead m bs (poisoned s.spad.poison g.1 g.2)
    have hbad : m1.bad = (m.bad || poisoned s.spad.poison g.1 g.2) := rfl
    have hfin : exec (.bankRead i .clean) s = .next (if m1.bad then answerRead (dropMsg s i) (.tile u) m1 r .poison []
        else answerRead (dropMsg s i) (.tile u) m1 r .okay m1.got) := by
      rw [hexec, readAccess_eq, hlast]
      rfl
    cases hb : m1.bad with
    | false =>
      rw [hb, if_neg Bool.false_ne_true, answerRead_eq] at hfin
      refine ⟨_, readAck (dropMsg s i) u m1 r .okay m1.got, hfin, rfl, rfl, rfl, rfl, rfl, fun _ _ => ⟨rfl, rfl⟩, fun hp => ?_⟩
      rw [hb] at hbad
      rcases hp with h | h
      · rw [h] at hbad
        cases hbad
      · rw [h, Bool.or_true] at hbad
        cases hbad
    | true =>
      rw [hb, if_pos rfl, answerRead_eq] at hfin
      refine ⟨_, readAck (dropMsg s i) u m1 r .poison [], hfin, rfl, rfl, rfl, rfl, rfl, fun h1 h2 => ?_, fun _ => ⟨rfl, rfl⟩⟩
      rw [hb, h1, h2] at hbad
      cases hbad
  · have hkeeper : keeperRuns s = true := by simp [keeperRuns, hclock]
    let s1 := spadEcc s u g.1 .bad
    let m1 := afterRead m ((List.range g.2).map (fun j => memByte s1.spad.mem (g.1 + j))) (poisoned s1.spad.poison g.1 g.2)
    have hmem : g.1 / 8 ∈ s1.spad.poison := mem_poisonAt ..
    have hbad : m1.bad = true := by
      have hp : poisoned s1.spad.poison g.1 g.2 = true := poisoned_of_first hlen hmem
      simp only [m1, afterRead, hp, Bool.or_true]
    have hfin : exec (.bankRead i .bad) s = .next (if m1.bad then answerRead (dropMsg s1 i) (.tile u) m1 r .poison []
        else answerRead (dropMsg s1 i) (.tile u) m1 r .okay m1.got) := by
      rw [hexec, readAccess_eq, hlast]
      rfl
    have hspad : s1.spad.mem = s.spad.mem := by simp [s1, spadEcc, poisonAt]
    have hnet : s1.prom.net = s.prom.net := by simp [s1, spadEcc, poisonAt]
    rw [hbad, if_pos rfl, answerRead_failed _ _ _ _ (by decide)] at hfin
    refine ⟨_, oneFlit (dropMsg s1 i) .response (.tile u) (.tile r.tile) [] m1.stamp m1.prio (.rdResp r .poison []), hfin, hspad, hmem,
      ?_, rfl, ?_⟩
    · rw [← hnet]
      rfl
    · exact klog_unrecovered hkeeper ..

end Sys2Proof.Proofs

end

section
/-! PROOF. Accumulate-on-write: the sum of an element, runs of addends, and an apply performed once (R182–R185). -/

namespace Sys2Proof.Proofs

open Sys2Proof Sys2Proof.Machine

/-! ## Integer sums -/

theorem accElem_unsigned {w stored add : Nat} (rnd : Nat) (hs : stored < 2 ^ w) (ha : add < 2 ^ w) : accElem (.int false w) stored add rnd =
    (min (2 ^ w - 1) (stored + add), if 2 ^ w ≤ stored + add then 1 else 0) := by
  have hpow : ((2 ^ w : Nat) : Int) = (2 : Int) ^ w := by norm_cast
  have hval : intOf false w stored + intOf false w add = ((stored + add : Nat) : Int) := by
    simp [intOf, Nat.mod_eq_of_lt hs, Nat.mod_eq_of_lt ha]
  have hwrap : ∀ n : Nat, n < 2 ^ w → wrap w (n : Int) = n := fun n hn => by
    rw [wrap, ← hpow, ← Int.natCast_mod, Nat.mod_eq_of_lt hn, Int.toNat_natCast]
  have helem : accElem (.int false w) stored add rnd =
      ((clampCast (.val ((stored + add : Nat) : Int) false) (intLo false false w) (intHi false false w) w).code,
        (clampCast (.val ((stored + add : Nat) : Int) false) (intLo false false w) (intHi false false w) w).sat) := by
    rw [← hval]
    rfl
  have hlo : ¬ ((stored + add : Nat) : Int) < intLo false false w := by
    simp only [intLo, Bool.false_eq_true, if_false]
    omega
  have hhi : intHi false false w = ((2 ^ w - 1 : Nat) : Int) := by
    have h1 : 1 ≤ 2 ^ w := Nat.one_le_two_pow
    simp only [intHi, Bool.false_eq_true, if_false]
    rw [← hpow]
    omega
  rw [helem, clampCast, if_neg hlo, hhi]
  by_cases hover : 2 ^ w ≤ stored + add
  · rw [if_pos (by omega), if_pos hover, Nat.min_eq_left (by omega), hwrap _ (by omega)]
  · rw [if_neg (by omega), if_neg hover, Nat.min_eq_right (by omega), hwrap _ (by omega)]

theorem accElem_signed (w stored add rnd : Nat) :
    let v := (BitVec.ofNat w stored).toInt + (BitVec.ofNat w add).toInt
    let c := max (-(2 ^ (w - 1))) (min (2 ^ (w - 1) - 1) v)
    accElem (.int true w) stored add rnd = ((BitVec.ofInt w c).toNat, if v = c then 0 else 1) := by
  intro v c
  have hpos : (0 : Int) < 2 ^ (w - 1) := by positivity
  have helem : accElem (.int true w) stored add rnd =
      ((clampCast (.val v false) (-(2 : Int) ^ (w - 1)) ((2 : Int) ^ (w - 1) - 1) w).code,
        (clampCast (.val v false) (-(2 : Int) ^ (w - 1)) ((2 : Int) ^ (w - 1) - 1) w).sat) := by
    simp only [v, ← sext_eq]
    rfl
  have hwrap : ∀ x, wrap w x = (BitVec.ofInt w x).toNat := fun x => by rw [BitVec.toNat_ofInt, wrap]; norm_cast
  rw [helem, clampCast]
  by_cases hlo : v < -(2 : Int) ^ (w - 1)
  · have hc : c = -(2 : Int) ^ (w - 1) := by omega
    rw [if_pos hlo, hwrap, hc, if_neg (by omega)]
  · by_cases hhi : (2 : Int) ^ (w - 1) - 1 < v
    · have hc : c = (2 : Int) ^ (w - 1) - 1 := by omega
      rw [if_neg hlo, if_pos hhi, hwrap, hc, if_neg (by omega)]
    · have hc : c = v := by omega
      rw [if_neg hlo, if_neg hhi, hwrap, hc, if_pos rfl]

/-! ## Floating-point sums -/

/-- The rational number of a sign and a magnitude. -/
theorem signed_cast (n : Bool) (a : Nat) : (if n then -1 else 1 : ℚ) * a = ((if n then -(a : Int) else (a : Int) : Int) : ℚ) := by
  cases n <;> simp

theorem scaled_pow {lo e : Int} (h : lo ≤ e) (m : Nat) : (m : ℚ) * 2 ^ e = ((m * 2 ^ (e - lo).toNat : Nat) : ℚ) * 2 ^ lo := by
  have hsub : e = ((e - lo).toNat : Int) + lo := by omega
  conv_lhs => rw [hsub]
  rw [zpow_add₀ (by norm_num), zpow_natCast]
  push_cast
  ring

/-- The exact sum of two finite values is one, and an exact zero is −0 only of two of them. -/
theorem addFin_exact (n1 : Bool) (m1 : Nat) (e1 : Int) (n2 : Bool) (m2 : Nat) (e2 : Int) : ∃ (n : Bool) (m : ℕ) (e : ℤ),
    addFin n1 m1 e1 n2 m2 e2 = .fin n m e
    ∧ (if n then -1 else 1 : ℚ) * m * 2 ^ e = (if n1 then -1 else 1) * m1 * 2 ^ e1 + (if n2 then -1 else 1) * m2 * 2 ^ e2
    ∧ (m = 0 → n = (n1 && n2 && decide (m1 = 0) && decide (m2 = 0))) := by
  let lo := min e1 e2
  let a : Int := (m1 * 2 ^ (e1 - lo).toNat : Nat)
  let b : Int := (m2 * 2 ^ (e2 - lo).toNat : Nat)
  let v := (if n1 then -a else a) + (if n2 then -b else b)
  have hsum : (v : ℚ) * 2 ^ lo = (if n1 then -1 else 1) * m1 * 2 ^ e1 + (if n2 then -1 else 1) * m2 * 2 ^ e2 := by
    rw [mul_assoc _ (m1 : ℚ), mul_assoc _ (m2 : ℚ), scaled_pow (min_le_left e1 e2) m1, scaled_pow (min_le_right e1 e2) m2,
      ← mul_assoc, ← mul_assoc, signed_cast, signed_cast, ← add_mul, ← Int.cast_add]
  have hdef : addFin n1 m1 e1 n2 m2 e2 = if v = 0 then .fin (n1 && n2 && decide (m1 = 0) && decide (m2 = 0)) 0 0
      else .fin (decide (v < 0)) v.natAbs lo := rfl
  by_cases h0 : v = 0
  · refine ⟨_, 0, 0, hdef.trans (if_pos h0), ?_, fun _ => rfl⟩
    rw [← hsum, h0]
    simp
  · refine ⟨_, _, _, hdef.trans (if_neg h0), ?_, fun hm => absurd (Int.natAbs_eq_zero.mp hm) h0⟩
    rw [← hsum, signed_cast]
    congr 2
    by_cases hneg : v < 0
    · simp only [hneg, decide_true, if_true]
      omega
    · simp only [hneg, decide_false, Bool.false_eq_true, if_false]
      omega

theorem accElem_flt (f : FFmt) (stored add rnd : Nat) : accElem (.flt f) stored add rnd =
    ((castFlt f (addVal (f.val stored) (f.val add)) (if rnd = 3 then 0 else rnd) 0).code,
      (castFlt f (addVal (f.val stored) (f.val add)) (if rnd = 3 then 0 else rnd) 0).sat) := rfl

/-- A NaN on either side, and opposite infinities, sum to a NaN. -/
theorem addVal_nan {x y : Val} (h : (∃ n, x = .nan n ∨ y = .nan n) ∨ ∃ n, x = .inf n ∧ y = .inf !n) : ∃ n, addVal x y = .nan n := by
  rcases h with ⟨n, rfl | rfl⟩ | ⟨n, rfl, rfl⟩
  · exact ⟨n, rfl⟩
  · cases x with
    | nan k => exact ⟨k, rfl⟩
    | inf k => exact ⟨n, rfl⟩
    | fin k m e => exact ⟨n, rfl⟩
  · cases n <;> exact ⟨false, rfl⟩

theorem accElem_float (f : FFmt) (stored add rnd : Nat) :
    let r := if rnd = 3 then 0 else rnd
    (∀ n1 m1 e1 n2 m2 e2, f.val stored = .fin n1 m1 e1 → f.val add = .fin n2 m2 e2 →
      ∃ (n : Bool) (m : ℕ) (e : ℤ), (if n then -1 else 1 : ℚ) * m * 2 ^ e
          = (if n1 then -1 else 1) * m1 * 2 ^ e1 + (if n2 then -1 else 1) * m2 * 2 ^ e2
        ∧ (m = 0 → n = (n1 && n2 && decide (m1 = 0) && decide (m2 = 0)))
        ∧ accElem (.flt f) stored add rnd = ((castFlt f (Val.fin n m e) r 0).code, (castFlt f (Val.fin n m e) r 0).sat))
    ∧ ((∃ n, f.val stored = .nan n ∨ f.val add = .nan n) ∨ (∃ n, f.val stored = .inf n ∧ f.val add = .inf !n) →
      ∃ n, accElem (.flt f) stored add rnd = ((castFlt f (.nan n) r 0).code, (castFlt f (.nan n) r 0).sat)) := by
  intro r
  refine ⟨fun n1 m1 e1 n2 m2 e2 h1 h2 => ?_, fun h => ?_⟩
  · obtain ⟨n, m, e, hadd, hval, hzero⟩ := addFin_exact n1 m1 e1 n2 m2 e2
    refine ⟨n, m, e, hval, hzero, ?_⟩
    rw [accElem_flt, h1, h2, ← hadd]
    rfl
  · obtain ⟨n, hn⟩ := addVal_nan h
    exact ⟨n, by rw [accElem_flt, hn]⟩

/-! ## Complex elements -/

theorem accElem_complex {e c : Elem} {a b x y rnd : Nat} (he : e.component = some c) (hc : c.component = none) (ha : a < 2 ^ c.width)
    (hx : x < 2 ^ c.width) : accElem e (a + b * 2 ^ c.width) (x + y * 2 ^ c.width) rnd
      = ((accElem c a x rnd).1 + (accElem c b y rnd).1 * 2 ^ c.width, (accElem c a x rnd).2 + (accElem c b y rnd).2) := by
  have hreal : ∀ p q, accElem c p q rnd = accComp c p q rnd := fun p q => by rw [accElem, hc]
  have hmod : ∀ p q, p < 2 ^ c.width → (p + q * 2 ^ c.width) % 2 ^ c.width = p := fun p q hp => by
    rw [Nat.add_mul_mod_self_right, Nat.mod_eq_of_lt hp]
  have hdiv : ∀ p q, p < 2 ^ c.width → (p + q * 2 ^ c.width) / 2 ^ c.width = q := fun p q hp => by
    rw [Nat.add_mul_div_right _ _ (by positivity), Nat.div_eq_of_lt hp, Nat.zero_add]
  rw [accElem, he]
  simp only [hmod a b ha, hmod x y hx, hdiv a b ha, hdiv x y hx, hreal]

/-! ## Runs of addends -/

theorem mem_unitsOf_iff (o n u : Nat) : u ∈ unitsOf o n ↔ n ≠ 0 ∧ o / 8 ≤ u ∧ u ≤ (o + n - 1) / 8 := by
  unfold unitsOf
  by_cases hn : n = 0
  · simp [hn]
  · simp only [hn, if_false, List.mem_map, List.mem_range]
    constructor
    · rintro ⟨k, hk, rfl⟩
      omega
    · rintro ⟨-, hlo, hhi⟩
      exact ⟨u - o / 8, by omega, by omega⟩

/-- A range inside one that meets no poisoned unit meets none. -/
theorem poisoned_inside {p : List Nat} {o n o' n' : Nat} (h : poisoned p o n = false) (hlo : o ≤ o') (hhi : o' + n' ≤ o + n) :
    poisoned p o' n' = false := by
  refine List.any_eq_false.mpr (fun u hu => List.any_eq_false.mp h u ?_)
  obtain ⟨hn, h1, h2⟩ := (mem_unitsOf_iff ..).mp hu
  exact (mem_unitsOf_iff ..).mpr ⟨by omega, by omega, by omega⟩

@[simp] theorem length_toBytes (n v : Nat) : (toBytes n v).length = n := by
  induction n generalizing v with
  | zero => rfl
  | succ n ih => simp [toBytes, ih]

/-- The sum of element `k` of a run, and the bytes it starts from. -/
def elemSum (e : Elem) (rnd wb o : Nat) (add : List Byte) (a : AccRun) (k : Nat) : Nat × Nat :=
  accElem e (ofBytes ((List.range wb).map (fun j => memByte a.spad.mem (o + k * wb + j)))) (ofBytes ((add.drop (k * wb)).take wb)) rnd

/-- One addend of a unit that is not poisoned. -/
theorem applyElem_clean {e : Elem} {rnd o : Nat} {add : List Byte} {a : AccRun} (h : poisoned a.spad.poison o add.length = false) :
    applyElem e rnd o add a = { a with
      spad := { a.spad with mem := memWrite a.spad.mem o (toBytes add.length (elemSum e rnd add.length o add a 0).1) }
      sats := a.sats + (elemSum e rnd add.length o add a 0).2 } := by
  have hsum : elemSum e rnd add.length o add a 0 = accElem e (ofBytes (memRead a.spad.mem o add.length)) (ofBytes add) rnd := by
    simp [elemSum, memRead_eq]
  rw [hsum, applyElem, if_neg (by rw [h]; exact Bool.false_ne_true)]
  simp only
  rw [spadWrite_clean (by rw [length_toBytes]; exact h)]

/-- A run of addends replaces element after element by its sum. -/
theorem applyBytes_spec {e : Elem} {rnd wb : Nat} (hwb : 0 < wb) (n : Nat) : ∀ (fuel o : Nat) (add : List Byte) (a : AccRun), n ≤ fuel →
    add.length = n * wb → poisoned a.spad.poison o add.length = false →
    let r := applyBytes e rnd wb fuel o add a
    r.bad = a.bad ∧ r.spad.poison = a.spad.poison ∧ r.spad.acc = a.spad.acc
    ∧ r.sats = a.sats + ((List.range n).map (fun k => (elemSum e rnd wb o add a k).2)).sum
    ∧ (∀ k j, k < n → j < wb → memByte r.spad.mem (o + k * wb + j) = (toBytes wb (elemSum e rnd wb o add a k).1).getD j 0)
    ∧ ∀ x, x < o ∨ o + n * wb ≤ x → memByte r.spad.mem x = memByte a.spad.mem x := by
  induction n with
  | zero =>
    intro fuel o add a _ hlen _
    have hnil : add = [] := List.length_eq_zero_iff.mp (by omega)
    have hr : applyBytes e rnd wb fuel o add a = a := by
      subst hnil
      cases fuel <;> rfl
    rw [hr]
    exact ⟨rfl, rfl, rfl, rfl, fun k _ hk => absurd hk (Nat.not_lt_zero k), fun _ _ => rfl⟩
  | succ n ih =>
    intro fuel o add a hfuel hlen hclean r
    obtain ⟨fuel, rfl⟩ : ∃ f, fuel = f + 1 := ⟨fuel - 1, by omega⟩
    rw [Nat.succ_mul] at hlen
    have htake : (add.take wb).length = wb := by rw [List.length_take]; omega
    have hdrop : (add.drop wb).length = n * wb := by rw [List.length_drop]; omega
    have hclean1 : poisoned a.spad.poison o (add.take wb).length = false := poisoned_inside hclean le_rfl (by omega)
    have helem := applyElem_clean (e := e) (rnd := rnd) hclean1
    have hsum0 : elemSum e rnd (add.take wb).length o (add.take wb) a 0 = elemSum e rnd wb o add a 0 := by
      rw [htake]
      simp [elemSum, List.take_take]
    rw [hsum0, htake] at helem
    let a1 := applyElem e rnd o (add.take wb) a
    have ha1 : a1 = _ := helem
    have hstep : r = applyBytes e rnd wb fuel (o + wb) (add.drop wb) a1 := by
      have hne : add.isEmpty = false := by
        cases hadd : add with
        | nil => rw [hadd] at hlen; simp only [List.length_nil] at hlen; omega
        | cons b bs => rfl
      simp only [r, applyBytes, hne, Bool.false_eq_true, if_false]
      rfl
    have hpoison1 : a1.spad.poison = a.spad.poison := by rw [ha1]
    have hmem1 : ∀ x, memByte a1.spad.mem x = if o ≤ x ∧ x < o + wb then (toBytes wb (elemSum e rnd wb o add a 0).1).getD (x - o) 0
        else memByte a.spad.mem x := fun x => by
      rw [ha1]
      refine (memByte_memWrite ..).trans ?_
      rw [length_toBytes]
    have hsums : ∀ k, elemSum e rnd wb (o + wb) (add.drop wb) a1 k = elemSum e rnd wb o add a (k + 1) := fun k => by
      have haddr : ∀ j, memByte a1.spad.mem (o + wb + k * wb + j) = memByte a.spad.mem (o + (k + 1) * wb + j) := fun j => by
        rw [hmem1, if_neg (by omega), Nat.succ_mul]
        congr 1
        omega
      simp only [elemSum, haddr, List.drop_drop, Nat.succ_mul, Nat.add_comm wb]
    obtain ⟨hbad, hpoison, hacc, hsats, hbytes, hrest⟩ := ih fuel (o + wb) (add.drop wb) a1 (by omega) hdrop
      (by rw [hpoison1]; exact poisoned_inside hclean (by omega) (by omega))
    rw [← hstep] at hbad hpoison hacc hsats hbytes hrest
    refine ⟨?_, hpoison.trans hpoison1, ?_, ?_, fun k j hk hj => ?_, fun x hx => ?_⟩
    · rw [hbad, ha1]
    · rw [hacc, ha1]
    · rw [hsats, List.range_succ_eq_map, List.map_cons, List.sum_cons, List.map_map, ← Nat.add_assoc]
      have hsats1 : a1.sats = a.sats + (elemSum e rnd wb o add a 0).2 := by rw [ha1]
      rw [hsats1]
      simp only [hsums, Function.comp_def, Nat.succ_eq_add_one]
    · cases k with
      | zero =>
        rw [Nat.zero_mul, Nat.add_zero, hrest _ (by omega), hmem1, if_pos (by omega)]
        congr 1
        omega
      | succ k =>
        rw [← hsums, ← hbytes k j (by omega) hj, Nat.succ_mul]
        congr 1
        omega
    · rw [Nat.succ_mul] at hx
      rw [hrest x (by omega), hmem1, if_neg (by omega)]

theorem addendsSum : Claims.AddendsSum := by
  refine ⟨fun w stored add rnd _ hs ha => ⟨accElem_unsigned rnd hs ha, accElem_signed w stored add rnd⟩, accElem_float,
    fun e c a b x y rnd he hc ha hx => accElem_complex he hc ha hx, fun e rnd wb o n add a hwb hlen hclean => ?_⟩
  have hn : n ≤ add.length := by
    rw [hlen]
    exact Nat.le_mul_of_pos_right n hwb
  obtain ⟨hbad, hpoison, -, hsats, hbytes, hrest⟩ := applyBytes_spec (e := e) (rnd := rnd) hwb n add.length o add a hn hlen hclean
  exact ⟨hbad, hpoison, hsats, hbytes, hrest⟩

/-! ## Applies -/

theorem acc_applyElem (e : Elem) (rnd o : Nat) (add : List Byte) (a : AccRun) : (applyElem e rnd o add a).spad.acc = a.spad.acc := by
  unfold applyElem
  split
  · rfl
  · dsimp only
    unfold spadWrite
    dsimp only
    split <;> rfl

theorem acc_applyBytes (e : Elem) (rnd wb fuel o : Nat) (add : List Byte) (a : AccRun) :
    (applyBytes e rnd wb fuel o add a).spad.acc = a.spad.acc := by
  induction fuel generalizing o add a with
  | zero => rfl
  | succ fuel ih =>
    unfold applyBytes
    split
    · rfl
    · exact (ih ..).trans (acc_applyElem ..)

theorem seqAt_seqPut (rs : List SeqRec) (h : Home) (t n : Nat) (q : Word) : seqAt (seqPut rs h t n q) h t n = some q := by
  have hnone : (rs.filter (fun r => !(decide (r.home = h) && decide (r.tile = t) && decide (r.stream = n)))).find?
      (fun r => decide (r.home = h) && decide (r.tile = t) && decide (r.stream = n)) = none := by
    refine List.find?_eq_none.mpr (fun r hr => ?_)
    obtain ⟨-, hr⟩ := List.mem_filter.mp hr
    exact fun hp => by rw [hp] at hr; exact Bool.false_ne_true hr
  rw [seqAt, seqPut, List.find?_append, hnone]
  simp

/-- The state at the end of an apply, before its answer. -/
def applyDone (s : State) (u g : Nat) (w : WriteReq) : State :=
  let s1 := { s with spad := { s.spad with acc := s.spad.acc.filter (fun r => !accOf w r) } }
  if seqOld s.lodge.applied (.group u g) w.tile w.stream w.seq then s1
  else { s1 with lodge := { s1.lodge with applied := seqPut s.lodge.applied (.group u g) w.tile w.stream w.seq } }

theorem spad_applyDone (s : State) (u g : Nat) (w : WriteReq) : (applyDone s u g w).spad =
    { s.spad with acc := s.spad.acc.filter (fun r => !accOf w r) } := by
  unfold applyDone
  dsimp only
  split <;> rfl

theorem applied_applyDone_old {s : State} {u g : Nat} {w : WriteReq}
    (h : seqOld s.lodge.applied (.group u g) w.tile w.stream w.seq = true) : (applyDone s u g w).lodge.applied = s.lodge.applied := by
  simp only [applyDone, h, if_true]

theorem applied_applyDone_new {s : State} {u g : Nat} {w : WriteReq}
    (h : seqOld s.lodge.applied (.group u g) w.tile w.stream w.seq = false) :
    (applyDone s u g w).lodge.applied = seqPut s.lodge.applied (.group u g) w.tile w.stream w.seq := by
  simp only [applyDone, h, Bool.false_eq_true, if_false]

section
variable {s : State} {u g : Nat} {m : Msg} {w : WriteReq}

theorem applyEnd_eq (hep : w.endpoint = .group u g) : applyEnd s u m w =
    if m.bad then answerWrite (applyDone s u g w) (.tile u) m w .poison m.sats
    else answerWrite (forward (applyDone s u g w) (.tile u) u w) (.tile u) m w .okay m.sats := by
  rw [applyEnd, hep]
  rfl

theorem applyWork_eq (hep : w.endpoint = .group u g) : applyWork s u w =
    if seqOld s.lodge.applied (.group u g) w.tile w.stream w.seq then []
    else ((s.spad.acc.find? (fun r => accOf w r)).map AccRes.accesses).getD [] := by
  rw [applyWork, hep]

/-- An apply that ends well: what it answers, and what its answer leaves. -/
theorem applyEnd_good {s0 : State} {i : Nat} (hep : w.endpoint = .group u g) (hbad : m.bad = false)
    (hnet : s.prom.net = s0.prom.net.eraseIdx i) (hx : s.lodge.xupds = s0.lodge.xupds) (hgen : s.gen = s0.gen) :
    WriteDone s0 (applyEnd s u m w) i u w m.sats ∧ (applyEnd s u m w).spad = (applyDone s u g w).spad
    ∧ (applyEnd s u m w).lodge.applied = (applyDone s u g w).lodge.applied ∧ (applyEnd s u m w).tiles = s.tiles := by
  have heq : applyEnd s u m w = answerWrite (forward (applyDone s u g w) (.tile u) u w) (.tile u) m w .okay m.sats :=
    (applyEnd_eq hep).trans (if_neg (by rw [hbad]; exact Bool.false_ne_true))
  have hdone : (applyDone s u g w).prom = s.prom ∧ (applyDone s u g w).lodge.xupds = s.lodge.xupds
      ∧ (applyDone s u g w).gen = s.gen ∧ (applyDone s u g w).tiles = s.tiles := by
    unfold applyDone
    dsimp only
    split
    · exact ⟨rfl, rfl, rfl, rfl⟩
    · exact ⟨rfl, rfl, rfl, rfl⟩
  obtain ⟨hprom, hxd, hgd, htd⟩ := hdone
  rw [heq]
  refine ⟨writeDone_answer m w m.sats (by rw [hprom, hnet]) (hxd.trans hx) (hgd.trans hgen), ?_, ?_, ?_⟩
  all_goals
    obtain ⟨net, xs, hfwd⟩ := forward_eq (applyDone s u g w) (.tile u) u w
    rw [answerWrite_eq, hfwd]
  exact htd

end

section
variable {s : State} {i u g : Nat} {m : Msg} {w : WriteReq}

theorem exec_accApply (harr : arrived s i = some m) (hbody : m.body = .wr w) (hdst : m.dst = .tile u) (hkind : w.kind = .apply)
    (hon : availOf s (spadDom s u) = .on) : exec (.accApply ⟨i, .clean⟩) s = .next (applyAccess s u i m w .clean) := by
  refine congrArg Host.Outcome.next ?_
  rw [applyStep, harr]
  simp only [hbody, hdst, hkind, ne_eq, not_true_eq_false, if_false]
  exact serveOr_on hon

/-- The second bank cycle of a granule adds, writes and goes on. -/
theorem applyAccess_second {o : Nat} {add : List Byte} (hwork : (applyWork s u w)[m.done / 2]? = some (o, add)) (hodd : m.done % 2 = 1) :
    let e := (fmtOf w.fmt).getD (.int false 8)
    let a := applyBytes e w.rnd (max 1 (e.width / 8)) add.length o add { spad := s.spad, sats := m.sats, bad := m.bad }
    let m1 : Msg := { m with done := m.done + 1, sats := a.sats, bad := a.bad }
    applyAccess s u i m w .clean = nextAccess { s with spad := a.spad } i m1 ((applyWork s u w)[(m.done + 1) / 2]?.map (·.1))
      (fun s => applyEnd s u m1 w) := by
  intro e a m1
  have heven : ¬ m.done % 2 = 0 := by omega
  simp only [applyAccess, hwork, heven, if_false]
  rfl

end

/-- One addend of one byte takes one access. -/
theorem accesses_byte {r : AccRes} {a : WriteReq} {b : Byte} {o : Nat} (hr : r.pieces = [a]) (ha : a.data = [b]) (ho : a.off = some o) :
    r.accesses = [(o, [b])] := by
  have hone : granules o 1 = 1 := by
    unfold granules
    omega
  have hgran : granule o 1 0 = (o, 1) := by
    unfold granule
    exact Prod.ext (by simp; omega) (by simp; omega)
  simp [AccRes.accesses, hr, ha, ho, hone, hgran]

theorem applyAddsOnce : Claims.ApplyAddsOnce := by
  intro s i u g m w harr hbody hdst hkind hep hon
  have hexec := exec_accApply harr hbody hdst hkind hon
  refine ⟨fun r a b o hdone hsats hbad hfmt hfind hr ha hoff hclean hnew => ?_, fun hold hsats hbad => ?_,
    fun o add hwork => ⟨fun heven => ?_, fun hodd => ?_⟩⟩
  · have hwork : applyWork s u w = [(o, [b])] := by
      rw [applyWork_eq hep, hnew, hfind]
      exact accesses_byte hr ha hoff
    have hat : (applyWork s u w)[m.done / 2]? = some (o, [b]) := by rw [hwork, hdone]; rfl
    have hlast : (applyWork s u w)[(m.done + 1) / 2]? = none := by rw [hwork, hdone]; rfl
    let a0 : AccRun := { spad := s.spad, sats := m.sats, bad := m.bad }
    let r1 := applyBytes (.int false 8) w.rnd 1 1 o [b] a0
    have hrun := applyAccess_second (i := i) hat (by rw [hdone])
    have hfmt8 : (fmtOf w.fmt).getD (.int false 8) = .int false 8 := by rw [hfmt]; rfl
    simp only [hfmt8, hlast] at hrun
    obtain ⟨hbad1, -, hacc1, hsats1, hbytes1, hrest1⟩ := applyBytes_spec (e := .int false 8) (rnd := w.rnd) (wb := 1) (by decide) 1 1 o [b]
      a0 le_rfl rfl hclean
    have hsum : elemSum (.int false 8) w.rnd 1 o [b] a0 0 = (min 255 ((memByte s.spad.mem o).toNat + b.toNat),
        if 255 < (memByte s.spad.mem o).toNat + b.toNat then 1 else 0) := by
      have hbytes : elemSum (.int false 8) w.rnd 1 o [b] a0 0 = accElem (.int false 8) (memByte s.spad.mem o).toNat b.toNat w.rnd := by
        simp [elemSum, a0, ofBytes]
      rw [hbytes, accElem_unsigned w.rnd (memByte s.spad.mem o).isLt b.isLt]
      rfl
    let m1 : Msg := { m with done := m.done + 1, sats := r1.sats, bad := r1.bad }
    have hsatsEq : m1.sats = if 255 < (memByte s.spad.mem o).toNat + b.toNat then 1 else 0 := by
      refine hsats1.trans ?_
      rw [List.range_one, List.map_singleton, List.sum_singleton, hsum]
      exact (congrArg (· + _) hsats).trans (Nat.zero_add _)
    obtain ⟨hwd, hspad, happlied, -⟩ := applyEnd_good (s := dropMsg { s with spad := r1.spad } i) (m := m1) (s0 := s) (i := i) hep
      (hbad1.trans hbad) rfl rfl rfl
    have hnew' : seqOld (dropMsg { s with spad := r1.spad } i).lodge.applied (.group u g) w.tile w.stream w.seq = false := hnew
    rw [spad_applyDone] at hspad
    rw [applied_applyDone_new hnew'] at happlied
    refine ⟨_, hexec.trans (congrArg Host.Outcome.next hrun), fun x => ?_, fun q hq => ?_, ?_, ?_⟩
    · refine (congrArg (fun sp => memByte sp.mem x) hspad).trans ?_
      by_cases hx : x = o
      · have h0 := hbytes1 0 0 (by decide) (by decide)
        rw [hsum] at h0
        have hin : o ≤ x ∧ x < o + [BitVec.ofNat 8 (min 255 ((memByte s.spad.mem o).toNat + b.toNat))].length := by
          simp only [List.length_singleton]
          omega
        refine Eq.trans ?_ (if_pos hin).symm
        rw [hx, Nat.sub_self]
        exact h0
      · have hout : ¬ (o ≤ x ∧ x < o + [BitVec.ofNat 8 (min 255 ((memByte s.spad.mem o).toNat + b.toNat))].length) := by
          simp only [List.length_singleton]
          omega
        exact (hrest1 x (by omega)).trans (if_neg hout).symm
    · have hacc : (applyEnd (dropMsg { s with spad := r1.spad } i) u m1 w).spad.acc = r1.spad.acc.filter (fun r => !accOf w r) :=
        congrArg Spad.acc hspad
      have hq' : q ∈ (applyEnd (dropMsg { s with spad := r1.spad } i) u m1 w).spad.acc := hq
      rw [hacc] at hq'
      obtain ⟨-, hq'⟩ := List.mem_filter.mp hq'
      simpa using hq'
    · exact (congrArg (fun rs => seqAt rs (.group u g) w.tile w.stream) happlied).trans (seqAt_seqPut ..)
    · rw [← hsatsEq]
      exact hwd
  · have hwork : applyWork s u w = [] := (applyWork_eq hep).trans (if_pos hold)
    have hrun : applyAccess s u i m w .clean = applyEnd (dropMsg s i) u m w := by
      simp only [applyAccess, hwork, List.getElem?_nil]
    obtain ⟨hwd, hspad, happlied, -⟩ := applyEnd_good (s := dropMsg s i) (m := m) (s0 := s) (i := i) hep hbad rfl rfl rfl
    refine ⟨_, hexec.trans (congrArg Host.Outcome.next hrun), ?_, ?_, hsats ▸ hwd⟩
    · exact (congrArg Spad.mem hspad).trans (by rw [spad_applyDone]; rfl)
    · exact happlied.trans (applied_applyDone_old (s := dropMsg s i) hold)
  · have hrun : applyAccess s u i m w .clean = nextAccess s i { m with done := m.done + 1 } (some o) id := by
      simp only [applyAccess, hwork, heven, if_true]
      rfl
    exact ⟨_, hexec.trans (congrArg Host.Outcome.next hrun), rfl, rfl⟩
  · intro e a
    have hrun := applyAccess_second (i := i) hwork hodd
    refine ⟨fun o' add' hnext => ?_, fun hlast => ?_⟩
    · rw [hnext] at hrun
      exact ⟨_, hexec.trans (congrArg Host.Outcome.next hrun), rfl, rfl, rfl, rfl⟩
    · rw [hlast] at hrun
      have hnew : seqOld s.lodge.applied (.group u g) w.tile w.stream w.seq = false := by
        by_contra hold
        rw [applyWork_eq hep, if_pos (by simpa using hold)] at hwork
        simp at hwork
      let s1 : State := dropMsg { s with spad := a.spad } i
      let m1 : Msg := { m with done := m.done + 1, sats := a.sats, bad := a.bad }
      have hspadDone : (applyDone s1 u g w).spad = { a.spad with acc := s.spad.acc.filter (fun r => !accOf w r) } := by
        rw [spad_applyDone, show s1.spad.acc = s.spad.acc from acc_applyBytes ..]
        rfl
      have hseq : seqAt (applyDone s1 u g w).lodge.applied (.group u g) w.tile w.stream = some w.seq := by
        rw [applied_applyDone_new (s := s1) hnew]
        exact seqAt_seqPut ..
      cases hb : a.bad with
      | false =>
        obtain ⟨hwd, hspad, happlied, htiles⟩ := applyEnd_good (s := s1) (m := m1) (s0 := s) (i := i) hep hb rfl rfl rfl
        refine ⟨_, hexec.trans (congrArg Host.Outcome.next hrun), ?_, htiles, ?_, ?_, fun _ => hwd, nofun⟩
        · exact (congrArg Spad.mem hspad).trans (by rw [hspadDone])
        · exact (congrArg Spad.acc hspad).trans (by rw [hspadDone])
        · exact (congrArg (fun rs => seqAt rs (.group u g) w.tile w.stream) happlied).trans hseq
      | true =>
        have htiles : (applyDone s1 u g w).tiles = s.tiles ∧ (applyDone s1 u g w).prom = s1.prom := by
          unfold applyDone
          dsimp only
          split
          all_goals exact ⟨rfl, rfl⟩
        obtain ⟨htiles, hprom⟩ := htiles
        have hend := ((applyEnd_eq (s := s1) (m := m1) hep).trans (if_pos hb)).trans (answerWrite_eq ..)
        refine ⟨_, hexec.trans (congrArg Host.Outcome.next (hrun.trans hend)), ?_, htiles, ?_, hseq, nofun, fun _ =>
          ⟨oneFlit (applyDone s1 u g w) .response (.tile u) (.tile w.tile) [] m1.stamp m1.prio (.wrAck w .poison m1.sats),
            congrArg (fun p => p.net ++ [_]) hprom, rfl⟩⟩
        all_goals
          dsimp only
          rw [hspadDone]

theorem discardFreesAddends : Claims.DiscardFreesAddends := by
  intro s i u t n ep m q e a off harr hbody hdst hon
  have hexec : exec (.discard i) s = .next { dropMsg s i with spad := { s.spad with acc := s.spad.acc.filter (fun r =>
      !(decide (r.tile = t) && decide (r.stream = n) && decide (r.seq = q) && decide (r.epoch ≤ ep))) } } := by
    refine congrArg Host.Outcome.next ?_
    rw [discardStep, harr]
    simp only [hbody, hdst]
    exact serveOr_on hon
  refine ⟨_, hexec, rfl, rfl, rfl, ?_⟩
  simp only [Bool.decide_and, Bool.and_assoc]

/-- Settles O31: the sums by the kind of element, a run of them by induction, and an apply by its bank cycles. -/
theorem addendsApplied : Obligations.AddendsApplied := by
  unfold Obligations.AddendsApplied
  exact ⟨applyAddsOnce, addendsSum, discardFreesAddends⟩

end Sys2Proof.Proofs

end

section
/-! SUPPORT. What an update does at a counter's home, as long as no watch fires (R242, R243, R250, R251, R402). -/

namespace Sys2Proof.Proofs

open Sys2Proof Sys2Proof.Machine

/-! ## A message at a unit -/

section
variable {s : State} {i d : Nat} {m : Msg} {adm : Bool} {off k : State → State}

theorem serve_on (h : availOf s d = .on) : serve s i m d adm off k = k (dropMsg s i) := serveOr_on h

theorem serve_off (h : availOf s d = .off) : serve s i m d adm off k = off (dropMsg s i) := serveOr_off h

theorem serve_later (h : availOf s d = .later) (hadm : adm = false) : serve s i m d adm off k = turnBack s i m := serveOr_later h hadm

theorem serve_admitted (h : availOf s d = .later) (hadm : adm = true) : serve s i m d adm off k = k (dropMsg s i) := by
  rw [serve, serveOr, h, hadm]
  rfl

theorem serve_dead (h : availOf s d = .dead) : serve s i m d adm off k = dropMsg s i := serveOr_dead h

end

/-! ## Deliveries that leave together (R255) -/

theorem joinWakes_same {s u : State} (h : u.prom.net = s.prom.net) : joinWakes s u = u := by
  simp [joinWakes, h]

/-- A single delivery leaves as it was posted. -/
theorem joinWakes_one {s u : State} {m : Msg} {r : Reg} {result : Nat} {bad : Bool} (h : u.prom.net = s.prom.net ++ [m])
    (hb : m.body = .wake r result bad) (hd : m.dst = .tile r.who.tile) : joinWakes s u = u := by
  have hw : m.wakesOf = [{ route := m.route, reg := r, result := result, bad := bad }] := by rw [Msg.wakesOf, hb]
  have hm : ({ m with dst := .tile r.who.tile, route := m.route, body := .wake r result bad } : Msg) = m := by rw [← hb, ← hd]
  have hfork : forkWakes m m.wakesOf = [m] := by
    rw [hw]
    unfold forkWakes
    cases hr : m.route.head? <;> simp only [List.map_cons, List.map_nil, hr, List.eraseDups_cons, List.filter_nil, List.eraseDups_nil,
      List.flatMap_cons, List.flatMap_nil, List.append_nil, List.filter_cons, decide_true, if_true, hm]
  have hnew : u.prom.net.drop s.prom.net.length = [m] := by rw [h, List.drop_left]
  have htake : u.prom.net.take s.prom.net.length = s.prom.net := by rw [h, List.take_left]
  have hsome : m.wakesOf.isEmpty = false := by rw [hw]; rfl
  simp only [joinWakes, hnew, htake, List.filter_cons, hsome, Bool.not_false, if_true, List.filter_nil, Bool.false_eq_true, if_false,
    List.flatMap_cons, List.flatMap_nil, List.append_nil, hfork]
  rw [← h]

/-! ## Watches of a counter -/

theorem evaluate_unwatched {s : State} {c : Nat} (h : slotsOn s c = []) (rel : Option Rel) : evaluate s c rel = s := by
  unfold evaluate
  split
  · rfl
  · rw [h]
    exact joinWakes_same rfl

@[simp] theorem slotsOn_setCnt (s : State) (k : Nat) (v : Word) (c : Nat) : slotsOn (setCnt s k v) c = slotsOn s c := rfl

theorem slotsOn_congr {s u : State} (h : u.lodge.watches = s.lodge.watches) (c : Nat) : slotsOn u c = slotsOn s c := by
  rw [slotsOn, h]
  rfl

/-! ## The value of an update (R242, R243) -/

/-- The update of a good counter is applied, with at most a flag set, where the code that the statements compute is 0. -/
theorem newValue_applied {s : State} {c : Nat} {amt : Word} (hg : CounterGood s c) (h : (updatedCnt s c amt).2 = 0) :
    ∃ flag, newValue s c amt = .ok (updatedCnt s c amt).1 flag := by
  obtain ⟨hc, hp⟩ := hg
  unfold updatedCnt updated at h ⊢
  unfold newValue
  rw [if_neg (by simpa using hc)]
  by_cases h0 : cntClass s c = 0
  · have hpg : ¬ (cntDepth s c ≠ 0 ∧ s.lodge.poison.contains (cntPartner s c) = true) := fun ⟨hd, hpo⟩ =>
      hp h0 hd (by simpa using hpo)
    simp only [h0, if_true] at h ⊢
    rw [if_neg hpg, seqUpdate]
    split at h
    · exact absurd h (Nat.succ_ne_zero _)
    · rename_i hlim
      exact ⟨none, by simp only [if_neg hlim]⟩
  · by_cases h1 : cntClass s c = 1
    · simp only [h1, Nat.one_ne_zero, if_false, if_true] at h ⊢
      split at h
      · exact absurd h (Nat.succ_ne_zero _)
      · rename_i hneg
        simp only [creditUpdate, if_neg hneg]
        generalize (if cntDepth s c = 0 then 2 ^ 31 - 1 else (cntDepth s c : Int)) = cap
        by_cases hcap : cap < (cntVal s c).toNat + amt.toInt
        · exact ⟨some 2, by rw [if_pos hcap, min_eq_left hcap.le]⟩
        · exact ⟨none, by rw [if_neg hcap, min_eq_right (not_lt.mp hcap)]⟩
    · simp only [h0, h1, if_false] at h ⊢
      refine ⟨_, congrArg (fun v => UpdRes.ok v _) ?_⟩
      unfold satAdd
      split
      · rename_i hsat
        rw [min_eq_left (by omega)]
        rfl
      · rename_i hsat
        rw [min_eq_right (by omega), BitVec.ofNat_add, BitVec.ofNat_toNat, BitVec.setWidth_eq, BitVec.ofNat_toNat,
          BitVec.setWidth_eq]

/-- The update of a good counter that fails leaves its value, and has the code that the statements compute. -/
theorem newValue_failed {s : State} {c : Nat} {amt : Word} (hg : CounterGood s c) (h : (updatedCnt s c amt).2 ≠ 0) :
    newValue s c amt = .fail (updatedCnt s c amt).2 ∧ (updatedCnt s c amt).1 = cntVal s c := by
  obtain ⟨hc, hp⟩ := hg
  unfold updatedCnt updated at h ⊢
  unfold newValue
  rw [if_neg (by simpa using hc)]
  by_cases h0 : cntClass s c = 0
  · have hpg : ¬ (cntDepth s c ≠ 0 ∧ s.lodge.poison.contains (cntPartner s c) = true) := fun ⟨hd, hpo⟩ =>
      hp h0 hd (by simpa using hpo)
    simp only [h0, if_true] at h ⊢
    rw [if_neg hpg, seqUpdate]
    split at h
    · rename_i hlim
      simp only [if_pos hlim]
      exact ⟨rfl, trivial⟩
    · exact absurd rfl h
  · by_cases h1 : cntClass s c = 1
    · simp only [h1, Nat.one_ne_zero, if_false, if_true] at h ⊢
      split at h
      · rename_i hneg
        simp only [creditUpdate, if_pos hneg]
        exact ⟨rfl, trivial⟩
      · exact absurd rfl h
    · simp only [h0, h1, if_false, ne_eq, not_true] at h

/-! ## Updates that change the lodge and its events alone -/

/-- From `s` to `u` only the lodge and the gatehouse's registers have changed. -/
structure LodgeOnly (s u : State) : Prop where
  state : u = { s with lodge := u.lodge, gate := u.gate }

theorem LodgeOnly.rfl {s : State} : LodgeOnly s s := ⟨Eq.refl s⟩

theorem LodgeOnly.trans {s u v : State} (h : LodgeOnly s u) (k : LodgeOnly u v) : LodgeOnly s v := ⟨by rw [k.state, h.state]⟩

section
variable {s u : State} (h : LodgeOnly s u)
include h

theorem LodgeOnly.gen : u.gen = s.gen := by rw [h.state]
theorem LodgeOnly.tiles : u.tiles = s.tiles := by rw [h.state]
theorem LodgeOnly.spad : u.spad = s.spad := by rw [h.state]
theorem LodgeOnly.prom : u.prom = s.prom := by rw [h.state]
theorem LodgeOnly.cpc : u.cpc = s.cpc := by rw [h.state]
theorem LodgeOnly.cp : u.cp = s.cp := by rw [h.state]

end

theorem lodgeOnly_setCnt (s : State) (c : Nat) (v : Word) : LodgeOnly s (setCnt s c v) := ⟨rfl⟩

theorem lodgeOnly_lodge (s : State) (l : Lodge) : LodgeOnly s { s with lodge := l } := ⟨rfl⟩

theorem lodgeOnly_raise (s : State) (e t n ring detail : Nat) : LodgeOnly s (raise s e t n ring detail) :=
  ⟨(raise_eq ..).trans (by rw [raise_lodge])⟩

theorem lodgeOnly_lodgeFlag (s : State) (b cid : Nat) : LodgeOnly s (lodgeFlag s b cid) :=
  LodgeOnly.trans (lodgeOnly_lodge s _) (lodgeOnly_raise ..)

theorem lodgeOnly_lodgeErr (s : State) (host : Bool) (t n code cid : Nat) : LodgeOnly s (lodgeErr s host t n code cid) :=
  LodgeOnly.trans (lodgeOnly_lodge s _) (lodgeOnly_raise ..)

theorem lodgeOnly_failUpd (s : State) (v : Upd) (code : Nat) : LodgeOnly s (failUpd s v code) := lodgeOnly_lodgeErr ..

theorem lodge_lodgeFlag (s : State) (b cid : Nat) : (lodgeFlag s b cid).lodge =
    { s.lodge with flags := putBit s.lodge.flags b true, occ := satInc s.lodge.occ, lastCid := BitVec.ofNat 14 cid } := raise_lodge ..

/-- The lodge's record of a failed update. -/
def errNoted (l : Lodge) (host : Bool) (t n code cid : Nat) : Lodge :=
  { l with
    err := if bit l.err 31 then l.err else 0x80000000 ||| at1 host 30 ||| atN t 25 ||| atN n 22 ||| atN code 14 ||| atN cid 0
    errCount := satInc l.errCount }

theorem lodgeErr_eq (s : State) (host : Bool) (t n code cid : Nat) : lodgeErr s host t n code cid =
    raise { s with lodge := errNoted s.lodge host t n code cid } 5 t n 0 0 := rfl

theorem lodge_lodgeErr (s : State) (host : Bool) (t n code cid : Nat) : (lodgeErr s host t n code cid).lodge =
    errNoted s.lodge host t n code cid := raise_lodge ..

theorem lodge_failUpd (s : State) (v : Upd) (code : Nat) : (failUpd s v code).lodge =
    { s.lodge with err := (failUpd s v code).lodge.err, errCount := (failUpd s v code).lodge.errCount } := by
  simp only [failUpd, lodge_lodgeErr, errNoted]

theorem heard_raise_from {s s0 : State} {e : Nat} (hgate : s0.gate = s.gate) (hcpc : s0.cpc = s.cpc) (hgen : s0.gen = s.gen)
    (t n ring detail : Nat) (he : e < 32) : Heard s (raise s0 e t n ring detail) e t n ring detail :=
  heard_congr hgate hcpc hgen rfl rfl rfl (heard_raise s0 t n ring detail he)

theorem errCaptured_lodgeErr (s : State) (host : Bool) (t n code cid : Nat) :
    ErrCaptured s (lodgeErr s host t n code cid) host t n code cid := by
  refine ⟨?_, fun hv => ?_, fun hv => ?_, ?_⟩
  · rw [lodge_lodgeErr]
    rfl
  · rw [lodge_lodgeErr]
    exact if_pos hv
  · rw [lodge_lodgeErr]
    exact if_neg (by rw [hv]; exact Bool.false_ne_true)
  · exact heard_raise_from (s0 := { s with lodge := errNoted s.lodge host t n code cid }) rfl rfl rfl t n 0 0 (by decide)

/-- What is captured of a failed update stays so while the lodge's capture and the gatehouse stay. -/
theorem errCaptured_congr {s s0 u v : State} {host : Bool} {t n code cid : Nat} (hs : LodgeOnly s s0) (hl : s0.lodge.err = s.lodge.err)
    (hc : s0.lodge.errCount = s.lodge.errCount) (hg : s0.gate = s.gate) (ul : v.lodge.err = u.lodge.err)
    (uc : v.lodge.errCount = u.lodge.errCount) (ug : v.gate = u.gate) (h : ErrCaptured s0 u host t n code cid) :
    ErrCaptured s v host t n code cid := by
  obtain ⟨hcount, hkept, htaken, hheard⟩ := h
  rw [hl] at hkept htaken
  rw [hc] at hcount
  exact ⟨uc.trans hcount, fun hv => ul.trans (hkept hv), fun hv => ul.trans (htaken hv),
    heard_congr hg hs.cpc hs.gen (by rw [ug]) (by rw [ug]) (by rw [ug]) hheard⟩

/-! ## An update that is applied -/

/-- A counter takes the value of an update, a flag is set where the update says so, and its release is noted: the state in which the
counter's watches are evaluated. -/
def taken (s : State) (u : Upd) (v : Word) (flag : Option Nat) : State :=
  let s := setCnt s u.cid v
  let s := match flag with
    | some b => lodgeFlag s b u.cid
    | none => s
  match u.rel with
  | some r => { s with lodge := { s.lodge with rel := Tab.put s.lodge.rel u.cid r } }
  | none => s

theorem applyUpd_ok {s : State} {u : Upd} {v : Word} {flag : Option Nat} (h : newValue s u.cid u.value = .ok v flag) :
    applyUpd s u = (evaluate (taken s u v flag) u.cid u.rel, 0) := by
  rw [applyUpd, h]
  rfl

theorem applyUpd_fail {s : State} {u : Upd} {code : Nat} (h : newValue s u.cid u.value = .fail code) :
    applyUpd s u = (failUpd s u code, code) := by
  rw [applyUpd, h]

/-- What an applied update leaves of the lodge. -/
theorem lodge_taken (s : State) (u : Upd) (v : Word) (flag : Option Nat) : (taken s u v flag).lodge =
    { s.lodge with val := Tab.set s.lodge.val 0 u.cid v, flags := (taken s u v flag).lodge.flags, occ := (taken s u v flag).lodge.occ
                   lastCid := (taken s u v flag).lodge.lastCid, rel := (taken s u v flag).lodge.rel } := by
  cases flag <;> cases hr : u.rel <;> simp only [taken, hr, lodge_lodgeFlag] <;> rfl

theorem lodgeOnly_taken (s : State) (u : Upd) (v : Word) (flag : Option Nat) : LodgeOnly s (taken s u v flag) := by
  have hflag : LodgeOnly s (match flag with
      | some b => lodgeFlag (setCnt s u.cid v) b u.cid
      | none => setCnt s u.cid v) := by
    cases flag with
    | some b => exact LodgeOnly.trans (lodgeOnly_setCnt ..) (lodgeOnly_lodgeFlag ..)
    | none => exact lodgeOnly_setCnt ..
  unfold taken
  dsimp only
  cases u.rel with
  | some r => exact LodgeOnly.trans hflag (lodgeOnly_lodge ..)
  | none => exact hflag

section
variable (s : State) (u : Upd) (v : Word) (flag : Option Nat)

@[simp] theorem watches_taken : (taken s u v flag).lodge.watches = s.lodge.watches := by rw [lodge_taken]
@[simp] theorem poison_taken : (taken s u v flag).lodge.poison = s.lodge.poison := by rw [lodge_taken]
@[simp] theorem timers_taken : (taken s u v flag).lodge.timers = s.lodge.timers := by rw [lodge_taken]
@[simp] theorem applied_taken : (taken s u v flag).lodge.applied = s.lodge.applied := by rw [lodge_taken]

theorem cntVal_taken (k : Nat) : cntVal (taken s u v flag) k = if k = u.cid then v else cntVal s k := by
  rw [cntVal, lodge_taken]
  exact Tab.get_set ..

@[simp] theorem cntClass_taken (k : Nat) : cntClass (taken s u v flag) k = cntClass s k := by
  rw [cntClass, lodge_taken]
  rfl

@[simp] theorem slotsOn_taken (k : Nat) : slotsOn (taken s u v flag) k = slotsOn s k := slotsOn_congr (watches_taken ..) k

end

/-- The update of a good counter that no watch is on. -/
theorem applyUpd_unwatched {s : State} {u : Upd} (hg : CounterGood s u.cid) (hw : slotsOn s u.cid = []) :
    ∃ w, applyUpd s u = (w, (updatedCnt s u.cid u.value).2) ∧ LodgeOnly s w ∧ w.lodge.watches = s.lodge.watches
      ∧ w.lodge.timers = s.lodge.timers ∧ (∀ k, cntVal w k = if k = u.cid then (updatedCnt s u.cid u.value).1 else cntVal s k)
      ∧ ((updatedCnt s u.cid u.value).2 ≠ 0 → w = failUpd s u (updatedCnt s u.cid u.value).2) := by
  by_cases h : (updatedCnt s u.cid u.value).2 = 0
  · obtain ⟨flag, hv⟩ := newValue_applied hg h
    refine ⟨taken s u (updatedCnt s u.cid u.value).1 flag, ?_, lodgeOnly_taken .., watches_taken .., timers_taken ..,
      cntVal_taken _ _ _ _,
      fun hne => absurd h hne⟩
    rw [applyUpd_ok hv, evaluate_unwatched (by rw [slotsOn_taken, hw]), h]
  · obtain ⟨hv, hkeep⟩ := newValue_failed hg h
    refine ⟨failUpd s u (updatedCnt s u.cid u.value).2, applyUpd_fail hv, lodgeOnly_failUpd .., by rw [lodge_failUpd],
      by rw [lodge_failUpd], fun k => ?_, fun _ => rfl⟩
    rw [cntVal, lodge_failUpd, hkeep]
    split
    · rename_i hk
      rw [hk]
      rfl
    · rfl

/-! ## The checks of an update find nothing -/

@[simp] theorem updCheck_sound (s : State) (c : Nat) : updCheck s c { ecc := .clean, lost := [], agree := true } = s := by
  have hlost : watchEcc s c [] = s := by simp [watchEcc]
  simp only [updCheck, cntEcc, hlost, dupCheck, if_true]

theorem ackUpd_eq {u : Upd} (h : u.kind ≤ 1) (s : State) (src : Node) (code : Nat) : ackUpd s src u code =
    { s with prom := { s.prom with net := s.prom.net ++ [oneFlit s .lodge src (.tile u.tile) [] 0 0 (.updAck u code)] } } := by
  rw [ackUpd, if_pos h, postSmall_eq]

/-- SIGNAL_APPLY at a home that serves. -/
theorem exec_signalApply {s : State} {i h : Nat} {m : Msg} {v : Upd} (harr : arrived s i = some m) (hbody : m.body = .upd v)
    (hdst : m.dst = .lodge h) (hon : availOf s (sliceDom s v.cid) = .on) :
    exec (.signalApply i ⟨.clean, [], true⟩) s = .next (homeSignal (dropMsg s i) v ⟨.clean, [], true⟩) := by
  refine congrArg Host.Outcome.next ?_
  rw [signalStep, harr]
  simp only [hbody, hdst]
  exact serve_on hon

/-- The number of a data signal is recorded at home `h`. -/
def seqNoted (s : State) (h : Home) (v : Upd) : State :=
  { s with lodge := { s.lodge with applied := seqPut s.lodge.applied h v.tile v.stream v.seq } }

/-- A signal that has not been applied yet. -/
theorem homeSignal_new {s : State} {v : Upd}
    (hnew : ¬ (v.kind = 0 ∧ seqOld s.lodge.applied (.bank (sliceOf v.cid) (homeBank s v.cid)) v.tile v.stream v.seq = true)) :
    homeSignal s v ⟨.clean, [], true⟩ =
      ackUpd (if v.kind = 0 ∧ (applyUpd s v).2 = 0 then seqNoted (applyUpd s v).1 (.bank (sliceOf v.cid) (homeBank s v.cid)) v
        else (applyUpd s v).1) (.lodge (homeBank s v.cid)) v (applyUpd s v).2 := by
  have hold : (decide (v.kind = 0) && seqOld s.lodge.applied (.bank (sliceOf v.cid) (homeBank s v.cid)) v.tile v.stream v.seq) = false := by
    simpa only [Bool.and_eq_false_iff, decide_eq_false_iff_not, not_and, Bool.not_eq_true, ← imp_iff_not_or] using hnew
  simp only [homeSignal, bankOfCnt, hold, Bool.false_eq_true, if_false, updCheck_sound, seqNoted]

end Sys2Proof.Proofs

end

section
/-! PROOF. Counters and the watches that their updates fire (R242, R243, R250–R257, R420). -/

namespace Sys2Proof.Proofs

open Sys2Proof Sys2Proof.Machine

/-- SIGNAL_APPLY of an update that no watch hears (R250, R251, R420). -/
theorem signalUpdatesCounter : Claims.SignalUpdatesCounter := by
  intro s i h m v harr hbody hdst hon hkind hgood hunwatched
  have hexec := exec_signalApply harr hbody hdst hon
  refine ⟨fun hnew => ?_, fun hk hold => ?_⟩
  · have hg : CounterGood (dropMsg s i) v.cid := hgood
    obtain ⟨w, happly, hframe, hwatches, -, hval, hfail⟩ := applyUpd_unwatched hg hunwatched
    have hupd : updatedCnt (dropMsg s i) v.cid v.value = updatedCnt s v.cid v.value := rfl
    rw [hupd] at happly hval hfail
    let w1 := if v.kind = 0 ∧ (updatedCnt s v.cid v.value).2 = 0 then seqNoted w (.bank (sliceOf v.cid) (homeBank s v.cid)) v else w
    have hw1 : w1 = { w with lodge := { w.lodge with applied := w1.lodge.applied } } := by
      unfold w1
      split <;> rfl
    have hframe1 : LodgeOnly s { w1 with prom := s.prom } := ⟨by rw [hw1, hframe.state]; rfl⟩
    have hsig : homeSignal (dropMsg s i) v ⟨.clean, [], true⟩ =
        ackUpd w1 (.lodge (homeBank s v.cid)) v (updatedCnt s v.cid v.value).2 := by
      rw [homeSignal_new (s := dropMsg s i) hnew, happly]
      rfl
    rw [hsig, ackUpd_eq hkind] at hexec
    refine ⟨_, oneFlit w1 .lodge (.lodge (homeBank s v.cid)) (.tile v.tile) [] 0 0 (.updAck v (updatedCnt s v.cid v.value).2), hexec, ?_,
      fun k hk => ?_, ?_, ?_, ?_, ?_, rfl, rfl, fun hne => ?_⟩
    · refine Eq.trans ?_ ((hval v.cid).trans (if_pos rfl))
      rw [hw1]
      rfl
    · refine Eq.trans ?_ ((hval k).trans (if_neg hk))
      rw [hw1]
      rfl
    · exact hframe1.tiles
    · exact hframe1.spad
    · rw [hw1]
      exact hwatches
    · have hprom : w1.prom = (dropMsg s i).prom := by rw [hw1]; exact hframe.prom
      rw [hprom]
      rfl
    · have hw : w1 = w := if_neg (fun hc => hne hc.right)
      have hcode := hfail hne
      have hhost : decide (2 ≤ v.kind ∧ v.kind ≤ 4) = false := decide_eq_false (by omega)
      have hcap := errCaptured_lodgeErr (dropMsg s i) false v.tile (if v.kind = 0 then v.stream else 0) (updatedCnt s v.cid v.value).2 v.cid
      have hfw : w = lodgeErr (dropMsg s i) false v.tile (if v.kind = 0 then v.stream else 0) (updatedCnt s v.cid v.value).2 v.cid := by
        rw [hcode, failUpd, hhost]
        rfl
      rw [← hfw] at hcap
      rw [hw]
      exact hcap
  · have hhome : homeSignal (dropMsg s i) v ⟨.clean, [], true⟩ = ackUpd (dropMsg s i) (.lodge (homeBank s v.cid)) v 0 := by
      have hdup : (decide (v.kind = 0) &&
          seqOld s.lodge.applied (.bank (sliceOf v.cid) (homeBank s v.cid)) v.tile v.stream v.seq) = true := by
        rw [decide_eq_true hk, hold]
        rfl
      exact if_pos hdup
    rw [hhome, ackUpd_eq hkind] at hexec
    exact ⟨_, _, hexec, rfl, rfl, rfl, rfl, rfl⟩

/-! ## A WAKE watch -/

/-- An event recorded on its own, whatever else has been recorded before. -/
theorem heard_raise_over {s s0 : State} {e : Nat} (hocc : Tab.get s0.gate.evocc 0 e = Tab.get s.gate.evocc 0 e) (hcpc : s0.cpc = s.cpc)
    (hgen : s0.gen = s.gen) (t n ring detail : Nat) (he : e < 32) : Heard s (raise s0 e t n ring detail) e t n ring detail := by
  intro hactive hclock
  rw [← active_congr hcpc hgen, ← hgen] at hactive
  rw [← hcpc] at hclock
  obtain ⟨hstat, hinfo, hcount⟩ := heard_raise s0 t n ring detail he hactive hclock
  exact ⟨hstat, hinfo, hcount.trans (by rw [hocc])⟩

theorem evocc_raise_other (s : State) {e e' : Nat} (hne : e ≠ e') (t n ring detail : Nat) :
    Tab.get (raise s e' t n ring detail).gate.evocc 0 e = Tab.get s.gate.evocc 0 e := by
  unfold raise
  split
  · dsimp only
    split
    all_goals exact (Tab.get_set ..).trans (if_neg hne)
  · rfl

/-- An update that is applied records at most LODGE_ERR. -/
theorem evocc_taken (s : State) (u : Upd) (v : Word) (flag : Option Nat) {e : Nat} (he : e ≠ 5) :
    Tab.get (taken s u v flag).gate.evocc 0 e = Tab.get s.gate.evocc 0 e := by
  cases flag <;> cases hr : u.rel <;> simp only [taken, hr, lodgeFlag]
  · rfl
  · rfl
  · exact evocc_raise_other _ he ..
  · exact evocc_raise_other _ he ..

/-- Only EQ compares otherwise than GE does. -/
theorem classHolds_ge {cond : Nat} (h : cond ≠ 1) (cls : Nat) (v x : Word) : classHolds cls v x cond = classHolds cls v x 0 := by
  unfold classHolds
  rw [if_neg h, if_neg (by decide : (0 : Nat) ≠ 1)]

/-- The state in which the delivery of a watch that fires is sent. -/
def freed (s : State) (rel : Option Rel) (slot : Nat) (x : Watch) (who : Waiter) : State :=
  let u := compareScope (freeWatch s slot) rel x.scope who x.cid
  if 2 ≤ x.cond then setCnt u x.cid (cntVal s x.cid - x.operand) else u

section
variable {s : State} {rel : Option Rel} {slot : Nat} {x : Watch} {who : Waiter} (hx : Tab.find s.lodge.watches slot = some x)
  (hwho : x.who = some who)
include hx hwho

/-- A WAKE watch that its counter satisfies is delivered (R254, R255). -/
theorem evalSlot_fires (hcond : x.cond ≤ 3) (h : cntHolds s x.cid (cntVal s x.cid) x.operand x.cond = true) : evalSlot rel (cntVal s x.cid) s slot =
    sendWake (freed s rel slot x who) (x.reg who) (if x.cond = 3 then 1 else 0) false := by
  simp only [evalSlot, hx, hwho]
  by_cases h3 : x.cond = 3
  · have h0 : cntHolds s x.cid (cntVal s x.cid) x.operand 0 = true := by
      rwa [cntHolds, classHolds_ge (by omega)] at h
    simp only [freed, h3, if_true, h0]
    rfl
  · simp only [freed, h3, if_false, h, if_true]
    by_cases h2 : x.cond = 2
    · rw [if_pos h2, if_pos (by omega)]
    · rw [if_neg h2, if_neg (by omega)]

/-- One that its counter does not satisfy stays. -/
theorem evalSlot_waits (h : cntHolds s x.cid (cntVal s x.cid) x.operand x.cond = false) : evalSlot rel (cntVal s x.cid) s slot = s := by
  simp only [evalSlot, hx, hwho]
  by_cases h3 : x.cond = 3
  · have h0 : cntHolds s x.cid (cntVal s x.cid) x.operand 0 = false := by
      rwa [cntHolds, classHolds_ge (by omega)] at h
    simp only [h3, if_true, h0, Bool.false_eq_true, if_false]
  · simp only [h3, if_false, h, Bool.false_eq_true]

end

/-- The record of a scope mismatch. -/
def mmNoted (l : Lodge) (isBar : Bool) (t n rel acq cid : Nat) : Lodge :=
  { l with
    mm := if bit l.mm 31 then l.mm
      else 0x80000000 ||| at1 isBar 30 ||| atN t 25 ||| atN n 22 ||| atN rel 20 ||| atN acq 18 ||| atN cid 0
    mmCount := satInc l.mmCount }

theorem scopeMm_eq (s : State) (isBar : Bool) (t n rel acq cid : Nat) : scopeMm s isBar t n rel acq cid =
    raise { s with lodge := mmNoted s.lodge isBar t n rel acq cid } 6 t n 0 0 := rfl

/-- A release below the scope of an acquire, or one of scope 0 from another tile (R257). -/
def MmScope (r : Rel) (acq : Nat) (w : Waiter) : Prop := r.scope < acq ∨ (r.scope = 0 ∧ r.tile ≠ some w.tile)

theorem compareScope_low {r : Rel} {acq : Nat} {w : Waiter} (h : MmScope r acq w) (s : State) (cid : Nat) :
    compareScope s (some r) acq w cid = scopeMm s false w.tile (w.stream.getD 0) r.scope acq cid := if_pos h

theorem compareScope_good {r : Rel} {acq : Nat} {w : Waiter} (h : ¬ MmScope r acq w) (s : State) (cid : Nat) :
    compareScope s (some r) acq w cid = s := if_neg h

theorem lodgeOnly_compareScope (s : State) (rel : Option Rel) (acq : Nat) (w : Waiter) (cid : Nat) :
    LodgeOnly s (compareScope s rel acq w cid) := by
  cases rel with
  | none => exact LodgeOnly.rfl
  | some r =>
    by_cases h : MmScope r acq w
    · rw [compareScope_low h, scopeMm_eq]
      exact LodgeOnly.trans (lodgeOnly_lodge s _) (lodgeOnly_raise ..)
    · rw [compareScope_good h]
      exact LodgeOnly.rfl

/-- The comparison of scopes leaves the lodge but for its record of mismatches. -/
theorem lodge_compareScope (s : State) (rel : Option Rel) (acq : Nat) (w : Waiter) (cid : Nat) : (compareScope s rel acq w cid).lodge =
    { s.lodge with mm := (compareScope s rel acq w cid).lodge.mm, mmCount := (compareScope s rel acq w cid).lodge.mmCount } := by
  cases rel with
  | none => rfl
  | some r =>
    by_cases h : MmScope r acq w
    · simp only [compareScope_low h, scopeMm_eq, raise_lodge, mmNoted]
    · simp only [compareScope_good h]

section
variable (s : State) (rel : Option Rel) (slot : Nat) (x : Watch) (who : Waiter)

theorem lodgeOnly_freed : LodgeOnly s (freed s rel slot x who) := by
  have hscope : LodgeOnly s (compareScope (freeWatch s slot) rel x.scope who x.cid) :=
    LodgeOnly.trans (lodgeOnly_lodge s _) (lodgeOnly_compareScope ..)
  unfold freed
  dsimp only
  split
  · exact LodgeOnly.trans hscope (lodgeOnly_setCnt ..)
  · exact hscope

/-- What the lodge keeps when a watch fires. -/
theorem lodge_freed : (freed s rel slot x who).lodge = { s.lodge with
    watches := Tab.erase s.lodge.watches slot, val := (freed s rel slot x who).lodge.val, mm := (freed s rel slot x who).lodge.mm
    mmCount := (freed s rel slot x who).lodge.mmCount } := by
  unfold freed
  dsimp only
  split
  · simp only [setCnt]
    rw [lodge_compareScope]
    rfl
  · rw [lodge_compareScope]
    rfl

theorem cntVal_freed (k : Nat) : cntVal (freed s rel slot x who) k =
    if k = x.cid ∧ 2 ≤ x.cond then cntVal s x.cid - x.operand else cntVal s k := by
  have hscope : cntVal (compareScope (freeWatch s slot) rel x.scope who x.cid) k = cntVal s k := by
    rw [cntVal, lodge_compareScope]
    rfl
  unfold freed
  dsimp only
  by_cases h2 : 2 ≤ x.cond
  · rw [if_pos h2, cntVal_setCnt, hscope]
    simp only [h2, and_true]
  · rw [if_neg h2, hscope, if_neg (fun hk => h2 hk.right)]

/-- What `freed` records of scopes is what the comparison does. -/
theorem mm_freed : (freed s rel slot x who).lodge.mm = (compareScope (freeWatch s slot) rel x.scope who x.cid).lodge.mm
    ∧ (freed s rel slot x who).lodge.mmCount = (compareScope (freeWatch s slot) rel x.scope who x.cid).lodge.mmCount
    ∧ (freed s rel slot x who).gate = (compareScope (freeWatch s slot) rel x.scope who x.cid).gate := by
  unfold freed
  dsimp only
  split
  · exact ⟨rfl, rfl, rfl⟩
  · exact ⟨rfl, rfl, rfl⟩

end

theorem sendWake_eq (s : State) (r : Reg) (result : Nat) (bad : Bool) : sendWake s r result bad =
    { s with prom := { s.prom with net := s.prom.net ++
        [oneFlit s .lodge (.lodge (homeBank s r.cid)) (.tile r.who.tile) [] 0 0 (.wake r result bad)] } } := postSmall_eq ..

/-- A delivery on its own leaves as it was posted. -/
theorem joinWakes_sendWake (s : State) {u : State} (h : u.prom = s.prom) (r : Reg) (result : Nat) (bad : Bool) :
    joinWakes s (sendWake u r result bad) = sendWake u r result bad := by
  rw [sendWake_eq]
  exact joinWakes_one (congrArg (fun p : Prom => p.net ++ [_]) h) rfl rfl

/-- The only watch of all is the only one on its counter. -/
theorem slotsOn_single {s : State} {w c : Nat} {x : Watch} (h : s.lodge.watches = [(w, x)]) (hc : x.cid = c) : slotsOn s c = [w] := by
  simp [slotsOn, h, hc]

section
variable {s : State} {w : Nat} {x : Watch} (hwatches : s.lodge.watches = [(w, x)]) (hpoison : x.cid ∉ s.lodge.poison)
include hwatches hpoison

theorem evaluate_single (rel : Option Rel) : evaluate s x.cid rel = joinWakes s (evalSlot rel (cntVal s x.cid) s w) := by
  rw [evaluate, if_neg (by simpa using hpoison), slotsOn_single hwatches rfl]
  rfl

variable {who : Waiter} (hwho : x.who = some who)
include hwho

theorem evaluate_fires (hcond : x.cond ≤ 3) (h : cntHolds s x.cid (cntVal s x.cid) x.operand x.cond = true) (rel : Option Rel) :
    evaluate s x.cid rel = sendWake (freed s rel w x who) (x.reg who) (if x.cond = 3 then 1 else 0) false := by
  have hfind : Tab.find s.lodge.watches w = some x := by simp [hwatches, Tab.find]
  rw [evaluate_single hwatches hpoison, evalSlot_fires hfind hwho hcond h]
  exact joinWakes_sendWake s (lodgeOnly_freed ..).prom ..

theorem evaluate_waits (h : cntHolds s x.cid (cntVal s x.cid) x.operand x.cond = false) (rel : Option Rel) :
    evaluate s x.cid rel = s := by
  have hfind : Tab.find s.lodge.watches w = some x := by simp [hwatches, Tab.find]
  rw [evaluate_single hwatches hpoison, evalSlot_waits hfind hwho h]
  exact joinWakes_same rfl

end

/-- A scope mismatch is recorded where a watch fires (R257). -/
theorem freed_low {s s0 : State} {r : Rel} {slot : Nat} {x : Watch} {who : Waiter} (h : MmScope r x.scope who)
    (hocc : Tab.get s.gate.evocc 0 6 = Tab.get s0.gate.evocc 0 6) (hcpc : s.cpc = s0.cpc) (hgen : s.gen = s0.gen) :
    (freed s (some r) slot x who).lodge.mmCount = satInc s.lodge.mmCount
    ∧ Heard s0 (freed s (some r) slot x who) 6 who.tile (who.stream.getD 0) 0 0
    ∧ (freed s (some r) slot x who).lodge.mm = (mmNoted s.lodge false who.tile (who.stream.getD 0) r.scope x.scope x.cid).mm := by
  obtain ⟨hmm, hcount, hgate⟩ := mm_freed s (some r) slot x who
  rw [compareScope_low h, scopeMm_eq] at hmm hcount hgate
  let l := mmNoted (freeWatch s slot).lodge false who.tile (who.stream.getD 0) r.scope x.scope x.cid
  have hheard : Heard s0 (raise { freeWatch s slot with lodge := l } 6 who.tile (who.stream.getD 0) 0 0) 6 who.tile (who.stream.getD 0) 0 0 :=
    heard_raise_over (s0 := { freeWatch s slot with lodge := l }) hocc hcpc hgen _ _ _ _ (by decide)
  refine ⟨hcount.trans ?_, heard_congr rfl rfl rfl (congrArg Gate.evstat hgate) (congrArg Gate.evinfo hgate)
    (congrArg Gate.evocc hgate) hheard, hmm.trans ?_⟩
  · rw [raise_lodge]
    rfl
  · rw [raise_lodge]
    rfl

theorem freed_good {s : State} {r : Rel} {slot : Nat} {x : Watch} {who : Waiter} (h : ¬ MmScope r x.scope who) :
    (freed s (some r) slot x who).lodge.mm = s.lodge.mm ∧ (freed s (some r) slot x who).lodge.mmCount = s.lodge.mmCount := by
  obtain ⟨hmm, hcount, -⟩ := mm_freed s (some r) slot x who
  rw [compareScope_good h] at hmm hcount
  exact ⟨hmm, hcount⟩

/-- SIGNAL_APPLY of a SIG that is applied: the counter takes its value and is evaluated. -/
theorem exec_signalApply_sig {s : State} {i h : Nat} {m : Msg} {v : Upd} {n : Word} {flag : Option Nat} (harr : arrived s i = some m)
    (hbody : m.body = .upd v) (hdst : m.dst = .lodge h) (hon : availOf s (sliceDom s v.cid) = .on) (hkind : v.kind = 1)
    (hv : newValue s v.cid v.value = .ok n flag) : exec (.signalApply i ⟨.clean, [], true⟩) s = .next
      (ackUpd (evaluate (taken (dropMsg s i) v n flag) v.cid (some { scope := v.scope, tile := some v.tile }))
        (.lodge (homeBank s v.cid)) v 0) := by
  have hnew : ¬ (v.kind = 0 ∧ seqOld (dropMsg s i).lodge.applied (.bank (sliceOf v.cid) (homeBank (dropMsg s i) v.cid)) v.tile v.stream
      v.seq = true) := fun ⟨h0, _⟩ => by omega
  have hrel : v.rel = some { scope := v.scope, tile := some v.tile } := by
    rw [Upd.rel, if_neg (by omega), if_pos (by omega)]
  have hv' : newValue (dropMsg s i) v.cid v.value = .ok n flag := hv
  rw [exec_signalApply harr hbody hdst hon, homeSignal_new hnew, applyUpd_ok hv', if_neg (fun ⟨h0, _⟩ => by omega), hrel]
  rfl

/-- SIGNAL_APPLY with one watch on the counter (R254, R255, R257). -/
theorem updateFiresWatch : Claims.UpdateFiresWatch := by
  intro s i h w m v x who n harr hbody hdst hon hkind hgood hcode hwatches hcid hwho hcond
  obtain ⟨flag, hv⟩ := newValue_applied hgood hcode
  have hexec := exec_signalApply_sig harr hbody hdst hon hkind hv
  rw [ackUpd_eq (by omega)] at hexec
  let t := taken (dropMsg s i) v n flag
  let r : Rel := { scope := v.scope, tile := some v.tile }
  have hframe : LodgeOnly (dropMsg s i) t := lodgeOnly_taken ..
  have htw : t.lodge.watches = [(w, x)] := (watches_taken ..).trans hwatches
  have hval : ∀ k, cntVal t k = if k = v.cid then n else cntVal s k := cntVal_taken _ _ _ _
  have hpoison : x.cid ∉ t.lodge.poison := by
    obtain ⟨hp, -⟩ := hgood
    rw [poison_taken, hcid]
    exact hp
  have hholds : cntHolds t x.cid (cntVal t x.cid) x.operand x.cond = classHolds (cntClass s v.cid) n x.operand x.cond := by
    rw [cntHolds, hval, if_pos hcid, cntClass_taken, hcid]
    rfl
  refine ⟨fun hfires => ?_, fun hwaits => ?_⟩
  · let f := freed t (some r) w x who
    have heval := evaluate_fires htw hpoison hwho hcond (hholds.trans hfires) (some r)
    rw [hcid, sendWake_eq] at heval
    rw [heval] at hexec
    have hf : LodgeOnly (dropMsg s i) f := hframe.trans (lodgeOnly_freed ..)
    have hfval : ∀ k, cntVal f k = if k = x.cid ∧ 2 ≤ x.cond then cntVal t x.cid - x.operand else cntVal t k :=
      cntVal_freed _ _ _ _ _
    have hmm : t.lodge.mm = s.lodge.mm := (congrArg Lodge.mm (lodge_taken (dropMsg s i) v n flag)).trans rfl
    have hmmCount : t.lodge.mmCount = s.lodge.mmCount := (congrArg Lodge.mmCount (lodge_taken (dropMsg s i) v n flag)).trans rfl
    let k0 := oneFlit f .lodge (.lodge (homeBank f x.cid)) (.tile who.tile) [] 0 0 (.wake (x.reg who) (if x.cond = 3 then 1 else 0) false)
    let a0 := oneFlit f .lodge (.lodge (homeBank s v.cid)) (.tile v.tile) [] 0 0 (.updAck v 0)
    refine ⟨_, k0, a0, hexec, ?_, ?_, fun k hk => ?_, ?_, rfl, rfl, rfl, hf.spad, fun hlow => ?_, fun hscope htile => ?_⟩
    · refine (congrArg Lodge.watches (lodge_freed t (some r) w x who)).trans ?_
      simp [htw, Tab.erase]
    · refine (hfval v.cid).trans ?_
      rw [hval, hval, if_pos hcid, if_pos rfl]
      simp only [hcid, true_and]
    · exact (hfval k).trans ((if_neg (fun hc => hk (hc.left.trans hcid))).trans ((hval k).trans (if_neg hk)))
    · refine (congrArg (fun p : Prom => p.net ++ [_] ++ [_]) hf.prom).trans ?_
      exact List.append_assoc ..
    · have hlow' : MmScope r x.scope who := hlow.imp_right (fun ⟨h0, ht⟩ => ⟨h0, fun he => ht (Option.some.inj he)⟩)
      have hocc : Tab.get t.gate.evocc 0 6 = Tab.get s.gate.evocc 0 6 := evocc_taken (dropMsg s i) v n flag (by decide)
      obtain ⟨hcount, hheard, hnoted⟩ := freed_low (s := t) (s0 := s) (slot := w) hlow' hocc hframe.cpc hframe.gen
      refine ⟨hcount.trans (congrArg satInc hmmCount), hheard, hnoted.trans ?_⟩
      rw [mmNoted, hmm, ← hcid]
      rfl
    · have hgood' : ¬ MmScope r x.scope who := by
        rintro (hlt | ⟨h0, hne⟩)
        · exact absurd hlt (Nat.not_lt.mpr hscope)
        · exact htile.elim (fun hs => hs h0) (fun ht => hne (congrArg some ht))
      obtain ⟨hkeep, hcount⟩ := freed_good (s := t) (slot := w) hgood'
      exact ⟨hkeep.trans hmm, hcount.trans hmmCount⟩
  · have heval := evaluate_waits htw hpoison hwho (hholds.trans hwaits) (some r)
    rw [hcid] at heval
    rw [heval] at hexec
    let a0 := oneFlit t .lodge (.lodge (homeBank s v.cid)) (.tile v.tile) [] 0 0 (.updAck v 0)
    exact ⟨_, a0, hexec, htw, (hval v.cid).trans (if_pos rfl), congrArg (fun p : Prom => p.net ++ [_]) hframe.prom, rfl⟩

/-! ## Comparison (R242, R254) -/

theorem serialGe_iff (v x : Word) : serialGe v x = true ↔ (v.toNat + 2 ^ 32 - x.toNat) % 2 ^ 32 < 2 ^ 31 := by
  rw [serialGe, decide_eq_true_iff]
  have hv := v.isLt
  have hx := x.isLt
  rw [BitVec.toInt_eq_toNat_cond, BitVec.toNat_sub]
  have hmod : (2 ^ 32 - x.toNat + v.toNat) % 2 ^ 32 = (v.toNat + 2 ^ 32 - x.toNat) % 2 ^ 32 := by
    congr 1
    omega
  rw [hmod]
  split
  · omega
  · omega

theorem counterComparison : Claims.CounterComparison := by
  intro cls v x cond
  refine ⟨fun h1 hc => ?_, fun h1 hc => ?_, fun h1 hc => ?_, fun hc => ?_⟩
  · simp [classHolds, h1, hc]
  · rw [← serialGe_iff]
    simp [classHolds, h1, hc]
  · have hcredit : cls ≠ 1 := by omega
    have hseq : cls ≠ 0 := by omega
    simp [classHolds, h1, hcredit, hseq, BitVec.le_def]
  · by_cases hx : 2 ^ 31 ≤ x.toNat
    · rw [classHolds, if_pos ⟨hc, hx⟩]
      exact iff_of_false Bool.false_ne_true (fun ⟨hlt, _⟩ => absurd hlt (Nat.not_lt.mpr hx))
    · by_cases h1 : cond = 1
      · simp [classHolds, hc, h1]
      · simp [classHolds, hc, h1, BitVec.le_def]

/-- Settles O32: an update that no watch hears, one that one watch hears, and the comparison that decides. -/
theorem countersUpdate : Obligations.CountersUpdate := by
  unfold Obligations.CountersUpdate
  exact ⟨signalUpdatesCounter, updateFiresWatch, counterComparison⟩

end Sys2Proof.Proofs

end

section
/-! SUPPORT. Reads and writes on the control port of a register that is reached (R352, R353). -/

namespace Sys2Proof.Proofs

open Sys2Proof Sys2Proof.Machine

/-- State `u` with the answer to a write: its error, and `cp_rdata` 0 with one. -/
def wrote (u : State) (e : Bool) : State :=
  { u with cp := { u.cp with err := e, rdata := if e then 0 else u.cp.rdata } }

/-- State `u` with the answer to a read. -/
def readOut (u : State) (v : Word) : State := { u with cp := { u.cp with err := false, rdata := v } }

section
variable {s : State} {a : Nat} {r : CpReg} (h : Reaches s a r)
include h

theorem ne_feedAddr_of_reaches (hr : r ≠ .bootFeed) : a ≠ feedAddr := by
  obtain ⟨-, -, hat, -⟩ := h
  rintro rfl
  exact hr (Option.some.inj (hat.symm.trans (regAt_feedAddr _)))

theorem hostWrite_reached (hr : r ≠ .bootFeed) {d : Word} {strb : BitVec 4} {u : State} {e : Bool}
    (hw : regWrite s a r d strb false = (u, e)) : hostWrite s a d strb = wrote u e := by
  have hne := ne_feedAddr_of_reaches h hr
  obtain ⟨hreset, hbusy, hat, hreach⟩ := h
  simp only [hostWrite, cpWrite, hreset, hbusy, hat, hreach, hw, hne, false_and, if_true, if_false, Bool.false_eq_true, wrote]

theorem hostRead_reached : hostRead s a = readOut (regRead s a r).1 (regRead s a r).2 := by
  obtain ⟨hreset, hbusy, hat, hreach⟩ := h
  simp only [hostRead, cpRead, hreset, hbusy, hat, hreach, if_true, if_false, Bool.false_eq_true, readOut]

theorem accessServed_reached : accessServed s a = true := by
  obtain ⟨hreset, hbusy, hat, hreach⟩ := h
  simp only [accessServed, hreset, hbusy, hat, hreach, Bool.not_false, Bool.and_self]

end

end Sys2Proof.Proofs

end

section
/-! PROOF. Updates that fail or are clamped, poisoned counters, and the host's accesses to counters (R243–R245, R251, R258, R259,
R417). -/

namespace Sys2Proof.Proofs

open Sys2Proof Sys2Proof.Machine

/-! ## The new value by class -/

section
variable {s : State} {c : Nat} (hg : CounterGood s c)
include hg

theorem newValue_credit (hc : cntClass s c = 1) (amt : Word) : newValue s c amt = creditUpdate (cntVal s c) amt (cntDepth s c) := by
  obtain ⟨hp, -⟩ := hg
  rw [newValue, if_neg (by simpa using hp)]
  simp only [hc, Nat.one_ne_zero, if_false, if_true]

theorem newValue_tally (hc : 2 ≤ cntClass s c) (amt : Word) : newValue s c amt = tallyUpdate (cntVal s c) amt := by
  obtain ⟨hp, -⟩ := hg
  rw [newValue, if_neg (by simpa using hp)]
  simp only [show cntClass s c ≠ 0 by omega, show cntClass s c ≠ 1 by omega, if_false]

end

theorem newValue_poisoned {s : State} {c : Nat} (h : c ∈ s.lodge.poison) (amt : Word) : newValue s c amt = .fail 0x38 :=
  if_pos (by simpa using h)

/-- SIGNAL_APPLY of a SIG that fails. -/
theorem exec_signalApply_failed {s : State} {i h code : Nat} {m : Msg} {v : Upd} (harr : arrived s i = some m)
    (hbody : m.body = .upd v) (hdst : m.dst = .lodge h) (hon : availOf s (sliceDom s v.cid) = .on) (hkind : v.kind = 1)
    (hv : newValue s v.cid v.value = .fail code) : ∃ u k, exec (.signalApply i ⟨.clean, [], true⟩) s = .next u
      ∧ u.lodge.val = s.lodge.val ∧ u.lodge.watches = s.lodge.watches ∧ u.prom.net = s.prom.net.eraseIdx i ++ [k]
      ∧ k.body = .updAck v code := by
  have hnew : ¬ (v.kind = 0 ∧ seqOld (dropMsg s i).lodge.applied (.bank (sliceOf v.cid) (homeBank (dropMsg s i) v.cid)) v.tile v.stream
      v.seq = true) := fun ⟨h0, _⟩ => by omega
  have hv' : newValue (dropMsg s i) v.cid v.value = .fail code := hv
  have hexec := exec_signalApply harr hbody hdst hon
  rw [homeSignal_new hnew, applyUpd_fail hv', if_neg (fun ⟨h0, _⟩ => by omega), ackUpd_eq (by omega)] at hexec
  let f := failUpd (dropMsg s i) v code
  refine ⟨_, oneFlit f .lodge (.lodge (homeBank (dropMsg s i) v.cid)) (.tile v.tile) [] 0 0 (.updAck v code), hexec, ?_, ?_, ?_, rfl⟩
  · exact (congrArg Lodge.val (lodge_failUpd (dropMsg s i) v code)).trans rfl
  · exact (congrArg Lodge.watches (lodge_failUpd (dropMsg s i) v code)).trans rfl
  · exact congrArg (fun p : Prom => p.net ++ [_]) (lodgeOnly_failUpd (dropMsg s i) v code).prom

/-- SIGNAL_APPLY of a SIG that sets a flag of the lodge, on a counter that no watch is on. -/
theorem exec_signalApply_flagged {s : State} {i h b : Nat} {m : Msg} {v : Upd} {n : Word} (harr : arrived s i = some m)
    (hbody : m.body = .upd v) (hdst : m.dst = .lodge h) (hon : availOf s (sliceDom s v.cid) = .on) (hkind : v.kind = 1)
    (hw : slotsOn s v.cid = []) (hb : b < 4) (hv : newValue s v.cid v.value = .ok n (some b)) :
    ∃ u k, exec (.signalApply i ⟨.clean, [], true⟩) s = .next u ∧ cntVal u v.cid = n ∧ bit u.lodge.flags b = true
      ∧ Heard s u 5 0 0 0 0 ∧ u.prom.net = s.prom.net.eraseIdx i ++ [k] ∧ k.body = .updAck v 0 := by
  have hexec := exec_signalApply_sig harr hbody hdst hon hkind hv
  have hw' : slotsOn (taken (dropMsg s i) v n (some b)) v.cid = [] := by rw [slotsOn_taken]; exact hw
  rw [evaluate_unwatched hw', ackUpd_eq (by omega)] at hexec
  let t := taken (dropMsg s i) v n (some b)
  let f := lodgeFlag (setCnt (dropMsg s i) v.cid n) b v.cid
  have hgate : t.gate = f.gate ∧ t.lodge.flags = f.lodge.flags := by
    unfold t f taken
    dsimp only
    cases v.rel with
    | none => exact ⟨rfl, rfl⟩
    | some r => exact ⟨rfl, rfl⟩
  obtain ⟨hgate, hflags⟩ := hgate
  have hheard : Heard s f 5 0 0 0 0 := heard_raise_from (s0 := { setCnt (dropMsg s i) v.cid n with lodge := _ }) rfl rfl rfl 0 0 0 0 (by decide)
  refine ⟨_, oneFlit t .lodge (.lodge (homeBank s v.cid)) (.tile v.tile) [] 0 0 (.updAck v 0), hexec, ?_, ?_, ?_, ?_, rfl⟩
  · exact (cntVal_taken (dropMsg s i) v n (some b) v.cid).trans (if_pos rfl)
  · refine (congrArg (bit · b) hflags).trans ?_
    rw [lodge_lodgeFlag]
    exact (bit_putBit _ hb true b).trans (if_pos rfl)
  · exact heard_congr rfl rfl rfl (congrArg Gate.evstat hgate) (congrArg Gate.evinfo hgate) (congrArg Gate.evocc hgate) hheard
  · exact congrArg (fun p : Prom => p.net ++ [_]) (lodgeOnly_taken (dropMsg s i) v n (some b)).prom

/-- Settles O33: by the outcome of the update, which says what its SIGNAL_APPLY does. -/
theorem failedAndClampedUpdates : Obligations.FailedAndClampedUpdates := by
  unfold Obligations.FailedAndClampedUpdates
  intro s i h m v c cap harr hbody hdst hon hkind hgood
  refine ⟨fun code hv => exec_signalApply_failed harr hbody hdst hon hkind hv, fun hc hw hover => ?_, fun hc hw hover => ?_⟩
  · have hlt : cap < 2 ^ 31 := by
      have hd : cntDepth s c < 2 ^ 16 := by
        unfold cntDepth fld
        exact Nat.mod_lt _ (by decide)
      unfold cap
      split <;> omega
    have hcap : (if cntDepth s c = 0 then 2 ^ 31 - 1 else (cntDepth s c : Int)) = (cap : Int) := by
      unfold cap
      split
      · norm_num
      · rfl
    have hv : newValue s c v.value = .ok (BitVec.ofInt 32 cap) (some 2) := by
      rw [newValue_credit hgood hc, creditUpdate, hcap, if_neg (by omega), if_pos hover]
    obtain ⟨u, k, hexec, hval, hflag, hheard, hnet, hk⟩ := exec_signalApply_flagged harr hbody hdst hon hkind hw (by decide) hv
    refine ⟨u, k, hexec, ?_, hflag, hheard, hnet, hk⟩
    rw [hval, BitVec.ofInt_natCast, BitVec.toNat_ofNat]
    exact Nat.mod_eq_of_lt (lt_trans hlt (by decide))
  · have hsat : satAdd (cntVal s c) v.value.toNat = 0xFFFFFFFF := by
      have hx := (cntVal s c).isLt
      have hy := v.value.isLt
      unfold satAdd
      split
      · rfl
      · apply BitVec.eq_of_toNat_eq
        have hones : (0xFFFFFFFF : Word).toNat = 4294967295 := rfl
        rw [BitVec.toNat_add, BitVec.toNat_ofNat, hones]
        omega
    have hv : newValue s c v.value = .ok 0xFFFFFFFF (some 1) := by
      rw [newValue_tally hgood hc, tallyUpdate, hsat]
      rfl
    exact exec_signalApply_flagged harr hbody hdst hon hkind hw (by decide) hv

/-! ## What an evaluation leaves -/

@[simp] theorem poison_raise (s : State) (e t n ring detail : Nat) : (raise s e t n ring detail).lodge.poison = s.lodge.poison := by
  rw [raise_lodge]

theorem poison_hostScope (s : State) (rel : Option Rel) (acq cid : Nat) : (hostScope s rel acq cid).lodge.poison = s.lodge.poison := by
  unfold hostScope
  split
  · rfl
  · split
    · exact poison_raise ..
    · rfl

theorem poison_fireHost (s : State) (slot : Nat) (x : Watch) (rel : Option Rel) :
    (fireHost s slot x rel).1.lodge.poison = s.lodge.poison := by
  have hscope := poison_hostScope s rel x.scope x.cid
  unfold fireHost
  dsimp only
  generalize hostScope s rel x.scope x.cid = u at hscope
  have hvec : (if x.act % 2 = 1 then pendVec u x.vec else u).lodge.poison = s.lodge.poison := by
    split
    · exact hscope
    · exact hscope
  generalize (if x.act % 2 = 1 then pendVec u x.vec else u) = y at hvec
  split
  · split
    · exact hvec
    · exact hvec
  · exact hvec

theorem poison_rearmRun (rel : Option Rel) (slot : Nat) : ∀ (fuel : Nat) (s : State),
    (rearmRun rel slot fuel s).lodge.poison = s.lodge.poison
  | 0, _ => rfl
  | fuel + 1, s => by
    rw [rearmRun]
    split
    · rfl
    · split
      · rfl
      · dsimp only
        split
        · exact poison_fireHost ..
        · split
          · exact poison_fireHost ..
          · exact (poison_rearmRun rel slot fuel _).trans (poison_fireHost ..)

theorem poison_compareScope (s : State) (rel : Option Rel) (acq : Nat) (w : Waiter) (cid : Nat) :
    (compareScope s rel acq w cid).lodge.poison = s.lodge.poison := by rw [lodge_compareScope]

theorem poison_evalSlot (rel : Option Rel) (start : Word) (s : State) (slot : Nat) :
    (evalSlot rel start s slot).lodge.poison = s.lodge.poison := by
  unfold evalSlot
  split
  · rfl
  · dsimp only
    split
    · split
      · rfl
      · split
        · exact poison_rearmRun ..
        · split
          · split
            · exact poison_fireHost ..
            · exact poison_fireHost ..
          · rfl
    · split
      · split
        · rw [sendWake_eq]
          dsimp only
          split
          · exact poison_compareScope ..
          · exact poison_compareScope ..
        · rfl
      · split
        · rw [sendWake_eq]
          dsimp only
          split
          · exact poison_compareScope ..
          · exact poison_compareScope ..
        · rfl

theorem lodge_joinWakes (s u : State) : (joinWakes s u).lodge = u.lodge := by
  unfold joinWakes
  dsimp only
  split
  · rfl
  · rfl

/-- No evaluation poisons a counter or clears its poison. -/
theorem poison_evaluate (s : State) (c : Nat) (rel : Option Rel) : (evaluate s c rel).lodge.poison = s.lodge.poison := by
  have hslots : ∀ (slots : List Nat) (start : Word) (s : State),
      (slots.foldl (evalSlot rel start) s).lodge.poison = s.lodge.poison := by
    intro slots start
    induction slots with
    | nil => exact fun _ => rfl
    | cons w ws ih => exact fun s => (ih (evalSlot rel start s w)).trans (poison_evalSlot ..)
  unfold evaluate
  split
  · rfl
  · rw [lodge_joinWakes]
    exact hslots ..

/-! ## The control port -/

theorem exec_ldValue {s : State} {c : BitVec 14} (h : Reaches s (0x500000 + 16 * c.toNat) (.ldValue c.toNat)) (v : Word) :
    exec (.ldValue c v) s = .next (wrote (ldValueOp s c.toNat v) false) :=
  congrArg Host.Outcome.next (hostWrite_reached h nofun rfl)

theorem exec_ldAdd {s : State} {c : BitVec 14} (h : Reaches s (0x500004 + 16 * c.toNat) (.ldAdd c.toNat)) (v : Word) :
    exec (.ldAdd (sound c) v) s = .next (wrote (ldAddOp s c.toNat v).1 (decide ((ldAddOp s c.toNat v).2 ≠ 0))) := by
  refine congrArg Host.Outcome.next ?_
  rw [if_pos (accessServed_reached h), updCheck_sound]
  exact hostWrite_reached h nofun rfl

theorem exec_ldAtom {s : State} {c : BitVec 14} (h : Reaches s (0x500008 + 16 * c.toNat) (.ldAtom c.toNat))
    (hsh : Tab.find s.cp.shadow (0x500008 + 16 * c.toNat) = none) :
    exec (.ldAtom (good c)) s = .next (readOut (ldAtomOp s c.toNat).1 (ldAtomOp s c.toNat).2) := by
  have hread : regRead s (0x500008 + 16 * c.toNat) (.ldAtom c.toNat) = ldAtomOp s c.toNat := by
    simp only [regRead, CpReg.isLo, hsh]
  refine congrArg Host.Outcome.next ?_
  rw [if_pos (accessServed_reached h)]
  exact (hostRead_reached h).trans (by rw [hread])

theorem exec_ldCfg {s : State} {c : BitVec 14} (h : Reaches s (0x50000C + 16 * c.toNat) (.ldCfg c.toNat)) (v : Word) :
    exec (.ldCfg c v) s = .next (wrote (ldCfgOp s c.toNat v) false) :=
  congrArg Host.Outcome.next (hostWrite_reached h nofun rfl)

/-- The update that a write of `LD_ADD` makes. -/
def hostUpd (c : Nat) (v : Word) : Upd :=
  { cid := c, express := false, value := v, scope := 2, kind := 2, tile := 0, stream := 0, seq := 0, src := .prog, ord := 0, wire := 0 }

theorem ldAddOp_eq (s : State) (c : Nat) (v : Word) : ldAddOp s c v = applyUpd s (hostUpd c v) := rfl

/-- Settles O34: the update of a poisoned counter fails, and each access reads its poison. -/
theorem poisonedCounter : Obligations.PoisonedCounter := by
  unfold Obligations.PoisonedCounter
  intro s c hc
  refine ⟨fun v hv => ?_, fun i h m v harr hbody hdst hon hv hkind => ?_, fun i h m r harr hbody hdst hon hr => ?_,
    fun a hreach hsh => ?_, ?_⟩
  · refine ⟨applyUpd_fail (newValue_poisoned (hv ▸ hc) _), ?_, ?_⟩
    · rw [lodge_failUpd]
    · rw [lodge_failUpd]
  · rw [← hv] at hc hon
    obtain ⟨u, k, hexec, hval, -, hnet, hk⟩ :=
      exec_signalApply_failed harr hbody hdst hon hkind (newValue_poisoned hc v.value)
    exact ⟨u, k, hexec, hval, hnet, hk⟩
  · have hpoison : (dropMsg s i).lodge.poison.contains r.cid = true := by
      rw [hr]
      exact List.contains_iff_mem.mpr hc
    have hclean : watchEcc (cntEcc (dropMsg s i) r.cid .clean) r.cid [] = dropMsg s i := updCheck_sound (dropMsg s i) r.cid
    have hreg : homeRegister (dropMsg s i) r { ecc := .clean, lost := [], agree := true } = sendWake (dropMsg s i) r 0x38 true := by
      unfold homeRegister
      simp only [hclean, hpoison, if_true]
      rfl
    have hexec : exec (.watchRegistration (sound i)) s = .next (sendWake (dropMsg s i) r 0x38 true) := by
      refine congrArg Host.Outcome.next ?_
      rw [registrationStep, harr]
      simp only [hbody, hdst]
      rw [← hreg]
      exact serve_on (by rw [hr]; exact hon)
    rw [sendWake_eq] at hexec
    exact ⟨_, oneFlit (dropMsg s i) .lodge (.lodge (homeBank (dropMsg s i) r.cid)) (.tile r.who.tile) [] 0 0 (.wake r 0x38 true),
      hexec, rfl, rfl, rfl, rfl⟩
  · have hread : regRead s a.toNat (.ldValue c) = (s, 0) := by
      have hzero : readReg s (.ldValue c) = 0 := if_pos (List.contains_iff_mem.mpr hc)
      simp only [regRead, CpReg.isLo, hsh, hzero]
    have hexec : exec (.registerPairLoRead a) s = .next (readOut s 0) :=
      congrArg Host.Outcome.next ((hostRead_reached hreach).trans (by rw [hread]))
    exact ⟨_, hexec, rfl, rfl⟩
  · rintro b rfl
    refine ⟨fun hreach hsh => ?_, fun v hreach => ?_, fun v hreach => ?_⟩
    · have hop : ldAtomOp s b.toNat = (s, 0) := if_pos (List.contains_iff_mem.mpr hc)
      exact ⟨_, exec_ldAtom hreach hsh, by rw [hop]; rfl, by rw [hop]; rfl⟩
    · have hop : ldAddOp s b.toNat v = (failUpd s (hostUpd b.toNat v) 0x38, 0x38) := applyUpd_fail (newValue_poisoned hc v)
      refine ⟨_, exec_ldAdd hreach v, by rw [hop]; rfl, ?_⟩
      rw [hop]
      exact (congrArg Lodge.val (lodge_failUpd s (hostUpd b.toNat v) 0x38)).trans rfl
    · refine ⟨_, exec_ldValue hreach v, ?_⟩
      have hpoison : (ldValueOp s b.toNat v).lodge.poison = s.lodge.poison.filter (fun p => decide (p ≠ b.toNat)) := poison_evaluate ..
      exact fun hmem => absurd (hpoison ▸ hmem) (by simp)

/-- Settles O40: by the class and the value, which say whether the read claims. -/
theorem atomClaims : Obligations.AtomClaims := by
  unfold Obligations.AtomClaims
  intro s c hreach hsh hc
  have hop : ldAtomOp s c.toNat = if cntClass s c.toNat = 1 ∧ cntVal s c.toNat ≠ 0
      then (setCnt s c.toNat (cntVal s c.toNat - 1), cntVal s c.toNat) else (s, cntVal s c.toNat) := if_neg (by simpa using hc)
  refine ⟨_, exec_ldAtom hreach hsh, ?_⟩
  by_cases hclaim : cntClass s c.toNat = 1 ∧ cntVal s c.toNat ≠ 0
  · rw [hop, if_pos hclaim]
    refine ⟨rfl, rfl, fun k => ?_, rfl, rfl, rfl⟩
    refine (cntVal_setCnt s c.toNat k _).trans ?_
    by_cases hk : k = c.toNat
    · rw [hk, if_pos rfl, if_pos ⟨rfl, hclaim⟩]
    · rw [if_neg hk, if_neg (fun h => hk h.left)]
  · rw [hop, if_neg hclaim]
    refine ⟨rfl, rfl, fun k => ?_, rfl, rfl, rfl⟩
    exact (if_neg (fun ⟨hk, h⟩ => hclaim (hk ▸ h))).symm

/-- The state in which a write of `LD_VALUE` has its counter's watches evaluated. -/
def valueSet (s : State) (c : Nat) (v : Word) : State :=
  let l := (setCnt s c v).lodge
  { s with lodge := { l with poison := l.poison.filter (fun p => decide (p ≠ c)), rel := Tab.put l.rel c { scope := 2, tile := none } } }

theorem ldValueOp_unwatched {s : State} {c : Nat} (h : slotsOn s c = []) (v : Word) : ldValueOp s c v = valueSet s c v :=
  evaluate_unwatched (s := valueSet s c v) h _

/-- The state in which a write of `LD_CFG` has its counter's watches evaluated. -/
def cfgSet (s : State) (c : Nat) (v : Word) : State := { s with lodge := { s.lodge with cfg := Tab.set s.lodge.cfg 0 c v } }

theorem ldCfgOp_unwatched {s : State} {c : Nat} {v : Word} (h : slotsOn s c = []) (hok : ldCfgBad s c v = false) :
    ldCfgOp s c v = cfgSet s c v := by
  rw [ldCfgOp, if_neg (by rw [hok]; exact Bool.false_ne_true)]
  exact evaluate_unwatched (s := cfgSet s c v) h _

/-- Settles O39: a write of a register of a counter is its operation, and no watch hears it. -/
theorem hostCounterAccess : Obligations.HostCounterAccess := by
  unfold Obligations.HostCounterAccess
  intro s c v hw
  refine ⟨fun hreach => ?_, fun hreach hgood => ?_, fun hreach => ⟨fun hok => ?_, fun hbad => ?_⟩⟩
  · have hop := ldValueOp_unwatched hw v
    have hval : ∀ k, cntVal (ldValueOp s c.toNat v) k = if k = c.toNat then v else cntVal s k := fun k => by
      rw [hop]
      exact cntVal_setCnt s c.toNat k v
    refine ⟨_, exec_ldValue hreach v, (hval _).trans (if_pos rfl), fun k hk => (hval k).trans (if_neg hk), ?_, rfl, ?_, ?_⟩
    all_goals
      rw [hop]
      simp [wrote, valueSet]
  · obtain ⟨w, happly, hframe, -, -, hval, hfail⟩ := applyUpd_unwatched (u := hostUpd c.toNat v) hgood hw
    have hop : ldAddOp s c.toNat v = (w, (updatedCnt s c.toNat v).2) := happly
    have hexec := exec_ldAdd hreach v
    rw [hop] at hexec
    refine ⟨_, hexec, (hval _).trans (if_pos rfl), fun k hk => (hval k).trans (if_neg hk), rfl, hframe.tiles, hframe.prom, fun hne => ?_⟩
    have hcap := errCaptured_lodgeErr s true 0 0 (updatedCnt s c.toNat v).2 c.toNat
    have hw' : w = lodgeErr s true 0 0 (updatedCnt s c.toNat v).2 c.toNat := hfail hne
    rw [← hw'] at hcap
    exact hcap
  · have hop := ldCfgOp_unwatched hw hok
    refine ⟨_, exec_ldCfg hreach v, ?_, fun k hk => ?_, ?_⟩
    all_goals rw [hop]
    · exact Tab.get_set_self ..
    · exact Tab.get_set_of_ne _ _ _ hk
    · rfl
  · have hop : ldCfgOp s c.toNat v = lodgeFlag s 3 c.toNat := if_pos hbad
    refine ⟨_, exec_ldCfg hreach v, ?_, ?_, ?_⟩
    all_goals rw [hop]
    · exact (congrArg Lodge.cfg (lodge_lodgeFlag s 3 c.toNat)).trans rfl
    · exact (congrArg Lodge.val (lodge_lodgeFlag s 3 c.toNat)).trans rfl
    · refine (congrArg (fun l : Lodge => bit l.flags 3) (lodge_lodgeFlag s 3 c.toNat)).trans ?_
      exact (bit_putBit _ (by decide) true 3).trans (if_pos rfl)

end Sys2Proof.Proofs

end

section
/-! PROOF. Registrations of watches and the messages that answer them (R252–R256, R402, R427, R428). -/

namespace Sys2Proof.Proofs

open Sys2Proof Sys2Proof.Machine

/-! ## WATCH_REGISTRATION -/

/-- WATCH_REGISTRATION at a home that serves. -/
theorem exec_watchRegistration {s : State} {i h : Nat} {m : Msg} {r : Reg} (harr : arrived s i = some m) (hbody : m.body = .watchReg r)
    (hdst : m.dst = .lodge h) (hon : availOf s (sliceDom s r.cid) = .on) :
    exec (.watchRegistration (sound i)) s = .next (homeRegister (dropMsg s i) r { ecc := .clean, lost := [], agree := true }) := by
  refine congrArg Host.Outcome.next ?_
  rw [registrationStep, harr]
  simp only [hbody, hdst]
  exact serve_on hon

/-- The state in which the delivery of a condition that holds at its registration is sent. -/
def granted (s : State) (r : Reg) : State :=
  let u := compareScope s (lastRel s r.cid) r.scope r.who r.cid
  if 2 ≤ r.cond then setCnt u r.cid (cntVal s r.cid - r.operand) else u

section
variable {s : State} {r : Reg} (hp : r.cid ∉ s.lodge.poison)

theorem lodgeOnly_granted (s : State) (r : Reg) : LodgeOnly s (granted s r) := by
  unfold granted
  dsimp only
  split
  · exact LodgeOnly.trans (lodgeOnly_compareScope ..) (lodgeOnly_setCnt ..)
  · exact lodgeOnly_compareScope ..

theorem watches_granted (s : State) (r : Reg) : (granted s r).lodge.watches = s.lodge.watches := by
  have hscope := congrArg Lodge.watches (lodge_compareScope s (lastRel s r.cid) r.scope r.who r.cid)
  unfold granted
  dsimp only
  split
  · exact hscope
  · exact hscope

theorem cntVal_granted (s : State) (r : Reg) (k : Nat) : cntVal (granted s r) k =
    if k = r.cid ∧ 2 ≤ r.cond then cntVal s r.cid - r.operand else cntVal s k := by
  have hscope : cntVal (compareScope s (lastRel s r.cid) r.scope r.who r.cid) k = cntVal s k := by
    rw [cntVal, lodge_compareScope]
    rfl
  unfold granted
  dsimp only
  by_cases h2 : 2 ≤ r.cond
  · rw [if_pos h2, cntVal_setCnt, hscope]
    simp only [h2, and_true]
  · rw [if_neg h2, hscope, if_neg (fun hk => h2 hk.right)]

include hp

/-- A condition that holds is delivered at once (R254). -/
theorem homeRegister_holds (hw : slotsOn s r.cid = []) (h : cntHolds s r.cid (cntVal s r.cid) r.operand r.cond = true) :
    homeRegister s r { ecc := .clean, lost := [], agree := true } =
      sendWake (granted s r) r (decide (r.cond = 3)).toNat false := by
  have hclean : watchEcc (cntEcc s r.cid .clean) r.cid [] = s := updCheck_sound s r.cid
  have hpoison : s.lodge.poison.contains r.cid = false := by simpa using hp
  have hsent : slotsOn (sendWake (granted s r) r (decide (r.cond = 3)).toNat false) r.cid = [] := by
    rw [sendWake_eq]
    exact (slotsOn_congr (watches_granted s r) r.cid).trans hw
  have heval := evaluate_unwatched hsent (lastRel s r.cid)
  unfold homeRegister
  simp only [hclean, hpoison, h, if_true, Bool.false_eq_true, if_false]
  exact (congrArg (joinWakes (granted s r)) heval).trans (joinWakes_sendWake _ rfl ..)

/-- One that does not hold takes a free slot. -/
theorem homeRegister_waits {w : Nat} (hw : slotsOn s r.cid = []) (h : cntHolds s r.cid (cntVal s r.cid) r.operand r.cond = false)
    (hslot : freeSlot s r.cid = some w) :
    homeRegister s r { ecc := .clean, lost := [], agree := true } = putWatch s w r.watch := by
  have hclean : watchEcc (cntEcc s r.cid .clean) r.cid [] = s := updCheck_sound s r.cid
  have hpoison : s.lodge.poison.contains r.cid = false := by simpa using hp
  unfold homeRegister
  simp only [hclean, hpoison, h, Bool.false_eq_true, if_false, hslot, hw]
  exact joinWakes_same rfl

/-- With no slot free it is answered FULL (R253). -/
theorem homeRegister_full (h : cntHolds s r.cid (cntVal s r.cid) r.operand r.cond = false) (hslot : freeSlot s r.cid = none) :
    homeRegister s r { ecc := .clean, lost := [], agree := true } = answerFull s r := by
  have hclean : watchEcc (cntEcc s r.cid .clean) r.cid [] = s := updCheck_sound s r.cid
  have hpoison : s.lodge.poison.contains r.cid = false := by simpa using hp
  unfold homeRegister
  simp only [hclean, hpoison, h, Bool.false_eq_true, if_false, hslot]

end

theorem registrationWatches : Claims.RegistrationWatches := by
  intro s i h m r harr hbody hdst hon hp hw
  have hexec := exec_watchRegistration harr hbody hdst hon
  let s1 := dropMsg s i
  refine ⟨fun hholds => ?_, fun w hnot hslot => ?_, fun hnot hslot => ?_⟩
  · rw [homeRegister_holds (s := s1) hp hw hholds, sendWake_eq] at hexec
    have hval : ∀ k, cntVal (granted s1 r) k = if k = r.cid ∧ 2 ≤ r.cond then cntVal s r.cid - r.operand else cntVal s k :=
      cntVal_granted s1 r
    have hres : (decide (r.cond = 3)).toNat = if r.cond = 3 then 1 else 0 := by
      split
      · rw [decide_eq_true ‹_›]; rfl
      · rw [decide_eq_false ‹_›]; rfl
    refine ⟨_, oneFlit (granted s1 r) .lodge (.lodge (homeBank (granted s1 r) r.cid)) (.tile r.who.tile) [] 0 0
      (.wake r (decide (r.cond = 3)).toNat false), hexec, ?_, rfl, ?_, ?_, fun k hk => ?_, watches_granted s1 r⟩
    · exact congrArg (fun p : Prom => p.net ++ [_]) (lodgeOnly_granted s1 r).prom
    · exact congrArg (Body.wake r · false) hres
    · refine (hval r.cid).trans ?_
      simp only [true_and]
    · exact (hval k).trans (if_neg (fun hc => hk hc.left))
  · rw [homeRegister_waits (s := s1) hp hw hnot hslot] at hexec
    exact ⟨_, r.watch, hexec, rfl, rfl, rfl, rfl, rfl, rfl, rfl, rfl, rfl⟩
  · rw [homeRegister_full (s := s1) hp hnot hslot, answerFull, postSmall_eq] at hexec
    exact ⟨_, _, hexec, rfl, rfl, rfl, rfl, rfl⟩

/-- WATCH_REGISTRATION_RETRY (R253). -/
theorem registrationRetried : Claims.RegistrationRetried := by
  intro s t k r hrun hk
  let s1 := s.setTile t { s.tile t with fullRegs := (s.tile t).fullRegs.eraseIdx k }
  have hexec : exec (.watchRegistrationRetry t k) s = .next (postSmall s1 .lodge (.tile t) (.lodge (homeBank s r.cid)) (.watchReg r)) := by
    refine congrArg Host.Outcome.next ?_
    simp only [regRetryStep, hk, hrun, if_true]
    rfl
  rw [postSmall_eq] at hexec
  refine ⟨_, oneFlit s1 .lodge (.tile t) (.lodge (homeBank s r.cid)) [] 0 0 (.watchReg r), hexec, ⟨rfl, fun j hj => ?_⟩, ?_, rfl, rfl, rfl⟩
  · exact (tile_setTile ..).trans (if_neg hj)
  · exact (tile_setTile ..).trans (if_pos rfl)

/-- What each command at a slice that does not serve does (R402). -/
theorem unavailableSlice : Claims.UnavailableSlice := by
  intro s i h c m cmd harr hdst hcmd
  rcases hcmd with ⟨v, hbody, hkind, rfl, rfl⟩ | ⟨r, hbody, rfl, rfl⟩
  · have hexec : exec (.signalApply i ⟨.clean, [], true⟩) s = .next (serve s i m (sliceDom s v.cid) false
        (fun s => ackUpd (failUpd s v stOffline) (.lodge h) v stOffline) (fun s => homeSignal s v ⟨.clean, [], true⟩)) := by
      refine congrArg Host.Outcome.next ?_
      rw [signalStep, harr]
      simp only [hbody, hdst]
    refine ⟨fun ha => ?_, fun ha => ?_, fun ha => ?_⟩
    · rw [serve_off ha, ackUpd_eq hkind] at hexec
      let f := failUpd (dropMsg s i) v stOffline
      have hframe : LodgeOnly (dropMsg s i) f := lodgeOnly_failUpd ..
      refine ⟨_, oneFlit f .lodge (.lodge h) (.tile v.tile) [] 0 0 (.updAck v stOffline), hexec, ?_, ?_, hframe.tiles, ?_,
        fun v' hv' => ?_, fun r' hr' => ?_⟩
      · exact (congrArg Lodge.val (lodge_failUpd (dropMsg s i) v stOffline)).trans rfl
      · exact (congrArg Lodge.watches (lodge_failUpd (dropMsg s i) v stOffline)).trans rfl
      · exact congrArg (fun p : Prom => p.net ++ [_]) hframe.prom
      · cases hbody.symm.trans hv'
        exact ⟨rfl, rfl⟩
      · cases hbody.symm.trans hr'
    · rw [serve_later ha rfl, turnBack_eq] at hexec
      exact ⟨_, turnedBack s m, hexec, rfl, rfl, rfl, rfl, rfl, rfl⟩
    · rw [serve_dead ha] at hexec
      exact hexec
  · have hexec : exec (.watchRegistration (sound i)) s = .next (serve s i m (sliceDom s r.cid) false
        (fun s => sendWake s r stOffline true) (fun s => homeRegister s r { ecc := .clean, lost := [], agree := true })) := by
      refine congrArg Host.Outcome.next ?_
      rw [registrationStep, harr]
      simp only [hbody, hdst]
    refine ⟨fun ha => ?_, fun ha => ?_, fun ha => ?_⟩
    · rw [serve_off ha, sendWake_eq] at hexec
      refine ⟨_, oneFlit (dropMsg s i) .lodge (.lodge (homeBank (dropMsg s i) r.cid)) (.tile r.who.tile) [] 0 0 (.wake r stOffline true),
        hexec, rfl, rfl, rfl, rfl, fun v' hv' => ?_, fun r' hr' => ?_⟩
      · cases hbody.symm.trans hv'
      · cases hbody.symm.trans hr'
        exact ⟨rfl, rfl⟩
    · rw [serve_later ha rfl, turnBack_eq] at hexec
      exact ⟨_, turnedBack s m, hexec, rfl, rfl, rfl, rfl, rfl, rfl⟩
    · rw [serve_dead ha] at hexec
      exact hexec

/-- Settles O35: a registration by what its counter and bank have, its retry, and the slices that do not serve. -/
theorem registrations : Obligations.Registrations := by
  unfold Obligations.Registrations
  exact ⟨registrationWatches, registrationRetried, unavailableSlice⟩

end Sys2Proof.Proofs

end

section
/-! PROOF. The deliveries of watches at the tile, where a fault delivery breaks a job (R255, R256, R321, R415). -/

namespace Sys2Proof.Proofs

open Sys2Proof Sys2Proof.Machine

/-! ## A fault delivery that completes a CLAIM of its tile -/

/-- Launch conditions of an instruction that waits on express counter 0. -/
def onExpress : LaunchSt :=
  { conds := [{ cid := 0, express := true, operand := 0, scope := 0, fired := false }], kind := 0, tL := none, lreg := 0, cause := 1
    stepped := false, tbinv := false, timeLast := false, ll := 0, tl := 0 }

/-- The first entry of job 0 of ring 0 as a stream that has not launched. -/
def firstOfJob : Stream :=
  newStream State.reset 0 { line := 0, pc := 0, entry := some { ring := 0, idx := 0, job := 0, flags := 0 } } (.ring 1) 1 0
    (issueCtx Tile.init 0 true) (.int false 8) (.int false 8)

/-- The second entry of the job, held on an express counter. -/
def secondOfJob : HeldInstr :=
  { line := 0, pc := 0, entry := some { ring := 0, idx := 1, job := 0, flags := 0 }, launch := onExpress, cid := 0, express := true
    opA := 0, opB := 0 }

/-- A CLAIM of the program that writes its result to g1. -/
def claimToG1 : WaitSt :=
  { line := 0, pc := 0, entry := none, ord := 1, launch := { onExpress with conds := [] }, cid := 0, express := true, cond := 3
    operand := 0, scope := 0, rreg := 1 }

/-- The registration of the program of tile 0 on express counter 0. -/
def regOfTile0 : Reg :=
  { who := { tile := 0, stream := none, src := .prog, ord := 1, cond := 2 }, cid := 0, express := true, cond := 3, operand := 0, scope := 0 }

/-- The fault delivery for the stream. -/
def faultForFirst : Reg :=
  { who := { tile := 0, stream := some 0, src := .ring 1, ord := 1, cond := 0 }, cid := 0, express := false, cond := 0, operand := 0, scope := 0 }

/-- Tile 0 has the first entry of a job as its stream and its program at the CLAIM, with g1 = 5; it holds no registration back. Tile 1,
which the ring names, has the second entry, and holds the registration of tile 0 back. -/
def jobOnTwoTiles : State :=
  let s := { State.reset with
    cpc := { Cpc.init with doms := [(GenConfig.domCore State.reset.gen 0, { Dom.init with state := .on })] }
    gate := { Gate.init with rings := [(0, { Ring.init with cfg := 0x08000000 })] }
    prom := { Prom.init with net := [{ oneFlit State.reset .lodge (.lodge 0) (.tile 0) [] 0 0 (.wake faultForFirst 0x30 true) with route := [] }] } }
  (s.setTile 0 { Tile.init with g := [(1, 5)], prog := { ord := 1, hold := .wait claimToG1, issueWait := 0 }, streams := [(0, firstOfJob)] }).setTile 1
    { Tile.init with rings := [(1, { ord := 1, hold := .instr secondOfJob, issueWait := 0 })], xheld := [regOfTile0] }

/-- The delivery ends the stream and breaks the job: the withdrawal of the second entry's watch takes the registration that tile 1 holds
back, and the CLAIM of tile 0 completes. -/
theorem g_deliver_jobOnTwoTiles : ((deliveryStep jobOnTwoTiles 0).tile 0).g ≠ (jobOnTwoTiles.tile 0).g := by decide +kernel

/-- Refutes O36: the statement lets another tile hold back a registration whose waiter is of this one. A fault delivery of this tile that
breaks a job of that tile then takes the registration, which completes a CLAIM here and writes its register, though this tile holds none
back (`jobOnTwoTiles`). -/
theorem not_watchMessages : ¬ Obligations.WatchMessages := by
  unfold Obligations.WatchMessages
  rintro ⟨⟨-, hfault, -⟩, -⟩
  obtain ⟨u, hexec, -, -, hregs, -⟩ := hfault jobOnTwoTiles 0 0 0 0x30
    { oneFlit State.reset .lodge (.lodge 0) (.tile 0) [] 0 0 (.wake faultForFirst 0x30 true) with route := [] } faultForFirst firstOfJob
    (by decide +kernel) rfl rfl rfl (by decide +kernel) rfl (by decide +kernel) rfl rfl rfl (by decide)
  have hstep : exec (.watchDelivery 0) jobOnTwoTiles = .next (deliveryStep jobOnTwoTiles 0) := rfl
  rw [hstep] at hexec
  obtain rfl : deliveryStep jobOnTwoTiles 0 = u := by injection hexec
  exact g_deliver_jobOnTwoTiles (hregs (by decide +kernel))

end Sys2Proof.Proofs

end

section
/-! PROOF. Timed signals and host watches (R254, R260, R261). -/

namespace Sys2Proof.Proofs

open Sys2Proof Sys2Proof.Machine

/-! ## Timers -/

/-- The update that a timer of a counter makes. -/
def timerUpd (tcid : Nat) (inc : BitVec 16) : Upd :=
  { cid := tcid, express := false, value := inc.zeroExtend 32, scope := 2, kind := 4, tile := 0, stream := 0, seq := 0, src := .prog
    ord := 0, wire := 0 }

theorem timersSignal : Claims.TimersSignal := by
  refine ⟨fun s k x hk hserves => ⟨fun hdue hactive hgood hw => ?_, fun hearly => ?_⟩, fun s w x d hfind hx hactive => ⟨fun hroom hfuture hrearm => ?_,
    fun hfull => ?_⟩⟩
  · let s1 : State := { s with lodge := { s.lodge with timers := s.lodge.timers.eraseIdx k } }
    obtain ⟨u, happly, hframe, -, htimers, hval, -⟩ := applyUpd_unwatched (s := s1) (u := timerUpd x.tcid x.inc) hgood hw
    have hactive1 : s1.active (sliceDom s1 x.tcid) = true := hactive
    have hstep : timedStep s k { ecc := .clean, lost := [], agree := true } = u := by
      have hdue' : x.deadline ≤ localTime s := hdue
      simp only [timedStep, hk, hdue', hserves, and_self, if_true]
      rw [timedApply, if_pos hactive1, updCheck_sound]
      exact congrArg Prod.fst happly
    refine ⟨u, congrArg Host.Outcome.next hstep, htimers, hframe.tiles, (hval _).trans (if_pos rfl), fun j hj => (hval j).trans (if_neg hj), ?_⟩
    exact congrArg Prom.net hframe.prom
  · have hstep : timedStep s k { ecc := .clean, lost := [], agree := true } = s := by
      have hlate : ¬ x.deadline ≤ localTime s := BitVec.not_le.mpr hearly
      simp only [timedStep, hk, hlate, false_and, if_false]
    exact congrArg Host.Outcome.next hstep
  · let y : Timer := { slice := sliceOf x.cid, bank := homeBank s x.cid, slot := 4096, deadline := d, tcid := x.tsig.tcid, inc := x.tsig.inc }
    have hfull : ¬ (16 ≤ timersIn s x.cid ∨ (!s.active (sliceDom s x.cid)) = true) := by
      rw [hactive]
      simp only [Bool.not_true, Bool.false_eq_true, or_false]
      omega
    have hlate : ¬ d ≤ localTime s := BitVec.not_le.mpr hfuture
    have hstep : timerArmStep s w.toNat { ecc := .clean, lost := [], agree := true } = { s with lodge := { s.lodge with
        timers := s.lodge.timers ++ [y], watches := Tab.erase s.lodge.watches w.toNat } } := by
      simp only [timerArmStep, hfind, hx, if_neg hfull, if_neg hlate, afterArm, hrearm, Bool.false_eq_true, if_false]
      rfl
    exact ⟨_, y, congrArg Host.Outcome.next hstep, rfl, rfl, rfl, rfl, rfl, rfl⟩
  · have hstep : timerArmStep s w.toNat { ecc := .clean, lost := [], agree := true } = s := by
      simp only [timerArmStep, hfind, hx, hfull, true_or, if_true]
    exact congrArg Host.Outcome.next hstep

/-! ## Host watches -/

theorem rearmRun_waits {s : State} {slot : Nat} {x : Watch} (hx : Tab.find s.lodge.watches slot = some x)
    (h : cntHolds s x.cid (cntVal s x.cid) x.operand x.cond = false) (rel : Option Rel) (fuel : Nat) : rearmRun rel slot fuel s = s := by
  cases fuel with
  | zero => rfl
  | succ fuel =>
    rw [rearmRun, hx]
    simp only [h, Bool.not_false, Bool.or_true, if_true]

/-- A host watch that its counter does not satisfy stays. -/
theorem evalSlot_host_waits {s : State} {slot : Nat} {x : Watch} (hx : Tab.find s.lodge.watches slot = some x) (hwho : x.who = none)
    (h : cntHolds s x.cid (cntVal s x.cid) x.operand x.cond = false) (rel : Option Rel) (start : Word) :
    evalSlot rel start s slot = s := by
  simp only [evalSlot, hx, hwho, h, rearmRun_waits hx h, Bool.false_eq_true, if_false, ite_self]

/-- GO with a watch that is allowed and whose condition does not hold. -/
theorem hwGo_waits {s : State} (hact : (hostWatch s.lodge).act ≠ 4) (hscope : (hostWatch s.lodge).scope ≠ 3)
    (hpart : cpCnt s (hostWatch s.lodge).cid = true) (hp : (hostWatch s.lodge).cid ∉ s.lodge.poison)
    (hactive : s.active (sliceDom s (hostWatch s.lodge).cid) = true) (hw : slotsOn s (hostWatch s.lodge).cid = [])
    (hnot : cntHolds s (hostWatch s.lodge).cid (cntVal s (hostWatch s.lodge).cid) (hostWatch s.lodge).operand (hostWatch s.lodge).cond = false) :
    (∀ w, freeSlot s (hostWatch s.lodge).cid = some w → hwGo s = hwDone (putWatch s w (hostWatch s.lodge)) 0 (some w))
    ∧ (freeSlot s (hostWatch s.lodge).cid = none → hwGo s = hwDone s 2 none) := by
  generalize hx : hostWatch s.lodge = x at *
  have hwho : x.who = none := by rw [← hx]; rfl
  have hbad : ¬ (x.act = 4 ∨ x.scope = 3 ∨ (!cpCnt s x.cid) = true ∨ s.lodge.poison.contains x.cid = true) := by
    simp [hact, hscope, hpart, hp]
  have hkeeps : (x.rearm || !false || (decide (2 ≤ x.act) && decide (16 ≤ timersIn s x.cid))) = true := by simp
  refine ⟨fun w hslot => ?_, fun hslot => ?_⟩
  · have hput : evalSlot (lastRel s x.cid) (cntVal s x.cid) (putWatch s w x) w = putWatch s w x :=
      evalSlot_host_waits (s := putWatch s w x) (Tab.find_put_self ..) hwho hnot _ _
    have hrest : joinWakes (putWatch s w x) (putWatch s w x) = putWatch s w x := joinWakes_same rfl
    simp only [hwGo, hx, if_neg hbad, hactive, hnot, hkeeps, hslot, hw, hput, List.foldl_nil, hrest, Bool.not_true, Bool.false_eq_true,
      if_false, if_true]
  · simp only [hwGo, hx, if_neg hbad, hactive, hnot, hkeeps, hslot, Bool.not_true, Bool.false_eq_true, if_false, if_true]

theorem hostWatches : Claims.HostWatches := by
  intro s v x
  have hslot : ∀ b, 11 < b → b < 32 → ∀ f, fld (putBit v b f) 11 0 = fld v 11 0 := fun b hb hb32 f =>
    fld_putBit _ hb32 _ (.inr hb)
  refine ⟨fun hreach hact hscope hpart hp hactive hw hnot => ?_, fun y hreach hfind hwho => ?_⟩
  · let s1 : State := { s with lodge := { s.lodge with hwSlot := BitVec.ofNat 12 (fld (noBit (withBit v 31) 30) 11 0) } }
    have hexec : exec (.ldHwCmdGo v) s = .next (wrote (hwGo s1) false) := by
      have hcancel : bit (noBit (withBit v 31) 30) 30 = false := by simp [noBit, bit_putBit]
      have hgo : bit (noBit (withBit v 31) 30) 31 = true := by simp [noBit, withBit, bit_putBit]
      refine congrArg Host.Outcome.next (hostWrite_reached hreach nofun ?_)
      have hcmd : hwCmdWrite s (noBit (withBit v 31) 30) = hwGo s1 := by
        simp only [hwCmdWrite, hcancel, hgo, Bool.false_eq_true, if_false, if_true]
        rfl
      rw [← hcmd]
      rfl
    obtain ⟨htakes, hfull⟩ := hwGo_waits (s := s1) hact hscope hpart hp hactive hw hnot
    refine ⟨fun w hfree => ?_, fun hfree => ?_⟩
    · rw [htakes w hfree] at hexec
      exact ⟨_, hexec, rfl, rfl, rfl, rfl, rfl⟩
    · rw [hfull hfree] at hexec
      exact ⟨_, hexec, rfl, rfl, rfl⟩
  · have hexec : exec (.ldHwCmdCancel v) s = .next (wrote (hwCmdWrite s (withBit v 30)) false) :=
      congrArg Host.Outcome.next (hostWrite_reached hreach nofun rfl)
    have hcancel : bit (withBit v 30) 30 = true := by simp [withBit, bit_putBit]
    have hfld : fld (withBit v 30) 11 0 = fld v 11 0 := hslot 30 (by decide) (by decide) true
    have hsome : y.who.isSome = false := by rw [hwho]; rfl
    have hcmd : hwCmdWrite s (withBit v 30) = { s with lodge := { s.lodge with
        hwSlot := BitVec.ofNat 12 (fld v 11 0), watches := Tab.erase s.lodge.watches (fld v 11 0)
        timers := s.lodge.timers.filter (fun k => decide (k.slot ≠ fld v 11 0)) } } := by
      simp only [hwCmdWrite, hcancel, if_true, hfld, hwCancel, hfind, hsome, Bool.false_eq_true, if_false]
      rfl
    rw [hcmd] at hexec
    refine ⟨_, hexec, ?_, fun w hw => ?_, fun k => ?_, rfl⟩
    · exact (Tab.find_erase ..).trans (if_pos rfl)
    · exact (Tab.find_erase ..).trans (if_neg hw)
    · exact List.mem_filter.trans (and_congr_right (fun _ => decide_eq_true_iff))

/-- Settles O37: the timers by their deadline, and the host watches by GO and CANCEL. -/
theorem timersAndHostWatches : Obligations.TimersAndHostWatches := by
  unfold Obligations.TimersAndHostWatches
  exact ⟨timersSignal, hostWatches⟩

end Sys2Proof.Proofs

end

section
/-! PROOF. Express counters, and the host's writes of contexts and express counters (R247, R263–R265, R420). -/

namespace Sys2Proof.Proofs

open Sys2Proof Sys2Proof.Machine

/-! ## The updates that reach the combiner in a cycle (R263) -/

theorem firstPerWire_all : ∀ (us : List Upd) (seen : List Nat), (∀ u ∈ us, u.wire ∉ seen) → (us.map (·.wire)).Nodup →
    firstPerWire us seen = (us, [])
  | [], _, _, _ => rfl
  | u :: us, seen, hseen, hnodup => by
    rw [List.map_cons, List.nodup_cons] at hnodup
    obtain ⟨hu, hus⟩ := hnodup
    have hfirst : seen.contains u.wire = false := by simpa using hseen u List.mem_cons_self
    have hrest : ∀ v ∈ us, v.wire ∉ u.wire :: seen := fun v hv hmem => by
      rcases List.mem_cons.mp hmem with heq | hold
      · exact hu (List.mem_map.mpr ⟨v, hv, heq⟩)
      · exact hseen v (List.mem_cons_of_mem _ hv) hold
    rw [firstPerWire, hfirst, firstPerWire_all us (u.wire :: seen) hrest hus]
    rfl

/-- The combiner notes the numbers of data signals and no more. -/
theorem xRecord_eq (s : State) (us : List Upd) : xRecord s us =
    { s with lodge := { s.lodge with applied := (xRecord s us).lodge.applied } } := by
  have hfold : ∀ (us : List Upd) (s : State), ∃ rs, xRecord s us = { s with lodge := { s.lodge with applied := rs } } := by
    intro us
    induction us with
    | nil => exact fun s => ⟨s.lodge.applied, rfl⟩
    | cons v vs ih =>
      intro s
      by_cases hk : v.kind = 0
      · obtain ⟨rs, hrs⟩ := ih { s with lodge := { s.lodge with applied := seqPut s.lodge.applied .combiner v.tile v.stream v.seq } }
        refine ⟨rs, ?_⟩
        unfold xRecord at hrs ⊢
        rw [List.foldl_cons, if_pos hk]
        exact hrs
      · obtain ⟨rs, hrs⟩ := ih s
        refine ⟨rs, ?_⟩
        unfold xRecord at hrs ⊢
        rw [List.foldl_cons, if_neg hk]
        exact hrs
  obtain ⟨rs, hrs⟩ := hfold us s
  rw [hrs]

/-! ## A broadcast that no watch hears -/

/-- No tile has a watch in its replica. -/
def Unwatched (s : State) : Prop := ∀ t, (s.tile t).xwatches = []

/-- From `s` to `u` only the lodge's express counters have changed: every tile reads as before. -/
structure XOnly (s u : State) : Prop where
  state : u = { s with lodge := { s.lodge with xval := u.lodge.xval, xrel := u.lodge.xrel }, tiles := u.tiles }
  tile : ∀ t, u.tile t = s.tile t

theorem XOnly.rfl {s : State} : XOnly s s := ⟨Eq.refl s, fun _ => Eq.refl _⟩

theorem XOnly.trans {s u v : State} (h : XOnly s u) (k : XOnly u v) : XOnly s v where
  state := by rw [k.state, h.state]
  tile t := (k.tile t).trans (h.tile t)

theorem XOnly.unwatched {s u : State} (h : XOnly s u) (hs : Unwatched s) : Unwatched u := fun t => by rw [h.tile t]; exact hs t

theorem xFireTile_unwatched {s : State} (h : Unwatched s) (e t : Nat) : xFireTile e s t = s.setTile t { s.tile t with xwatches := [] } := by
  simp only [xFireTile, h t, List.filter_nil, List.foldl_nil, List.isEmpty_nil, if_true]

theorem xOnly_xFireTile {s : State} (h : Unwatched s) (e t : Nat) : XOnly s (xFireTile e s t) ∧ (xFireTile e s t).lodge = s.lodge := by
  rw [xFireTile_unwatched h]
  refine ⟨⟨rfl, fun j => ?_⟩, rfl⟩
  rw [tile_setTile]
  split
  · rename_i hj
    rw [hj, ← h t]
  · rfl

theorem xOnly_xBroadcast {s : State} (h : Unwatched s) (e : Nat) : XOnly s (xBroadcast s e) ∧ (xBroadcast s e).lodge = s.lodge := by
  have hfold : ∀ (ts : List Nat) (s : State), Unwatched s → XOnly s (ts.foldl (xFireTile e) s) ∧ (ts.foldl (xFireTile e) s).lodge = s.lodge := by
    intro ts
    induction ts with
    | nil => exact fun s _ => ⟨XOnly.rfl, rfl⟩
    | cons t ts ih =>
      intro s h
      obtain ⟨hfire, hlodge⟩ := xOnly_xFireTile h e t
      obtain ⟨hrest, hkeep⟩ := ih (xFireTile e s t) (hfire.unwatched h)
      exact ⟨hfire.trans hrest, hkeep.trans hlodge⟩
  exact hfold _ s h

theorem xSet_unwatched {s : State} (h : Unwatched s) (e : Nat) (v : Word) (r : Rel) : XOnly s (xSet s e v r)
    ∧ ∀ k, Tab.get (xSet s e v r).lodge.xval 0 k = if k = e then v else Tab.get s.lodge.xval 0 k := by
  let s1 : State := { s with lodge := { s.lodge with xval := Tab.set s.lodge.xval 0 e v, xrel := Tab.put s.lodge.xrel e r } }
  obtain ⟨hx, hlodge⟩ := xOnly_xBroadcast (s := s1) h e
  have hset : XOnly s s1 := ⟨rfl, fun _ => rfl⟩
  refine ⟨hset.trans hx, fun k => ?_⟩
  exact (congrArg (fun l : Lodge => Tab.get l.xval 0 k) hlodge).trans (Tab.get_set ..)

/-! ## One cycle of the combiner -/

/-- The sum that the updates for express counter `e` add to `a`. -/
def sumFor (us : List Upd) (e : Nat) (a : Word) : Word := (us.filter (fun u => decide (u.cid = e))).foldl (fun v u => v + u.value) a

/-- The counters named once each take their sums. -/
theorem xSets (us : List Upd) : ∀ (cs : List Nat) (s : State), cs.Nodup → Unwatched s →
    let f := fun (s : State) (e : Nat) =>
      let vs := us.filter (fun u => decide (u.cid = e))
      xSet s e (vs.foldl (fun v u => v + u.value) (Tab.get s.lodge.xval 0 e)) (lowestRel vs)
    XOnly s (cs.foldl f s) ∧ ∀ e, Tab.get (cs.foldl f s).lodge.xval 0 e =
      if e ∈ cs then sumFor us e (Tab.get s.lodge.xval 0 e) else Tab.get s.lodge.xval 0 e := by
  intro cs
  induction cs with
  | nil => exact fun s _ _ => ⟨XOnly.rfl, fun e => (if_neg List.not_mem_nil).symm⟩
  | cons c cs ih =>
    intro s hnodup hs f
    obtain ⟨hc, hcs⟩ := List.nodup_cons.mp hnodup
    obtain ⟨hset, hval⟩ := xSet_unwatched hs c (sumFor us c (Tab.get s.lodge.xval 0 c)) (lowestRel (us.filter (fun u => decide (u.cid = c))))
    obtain ⟨hrest, hvals⟩ := ih (f s c) hcs (hset.unwatched hs)
    refine ⟨hset.trans hrest, fun e => ?_⟩
    rw [List.foldl_cons]
    refine (hvals e).trans ?_
    have hfc : Tab.get (f s c).lodge.xval 0 e = if e = c then sumFor us c (Tab.get s.lodge.xval 0 c) else Tab.get s.lodge.xval 0 e := hval e
    rw [hfc]
    by_cases he : e = c
    · subst he
      rw [if_neg hc, if_pos rfl, if_pos List.mem_cons_self]
    · simp only [he, if_false, List.mem_cons, false_or]

theorem sumFor_absent {us : List Upd} {e : Nat} (h : e ∉ us.map (·.cid)) (a : Word) : sumFor us e a = a := by
  have hnone : us.filter (fun u => decide (u.cid = e)) = [] :=
    List.filter_eq_nil_iff.mpr (fun u hu => by
      rw [decide_eq_true_eq]
      exact fun hc => h (List.mem_map.mpr ⟨u, hu, hc⟩))
  rw [sumFor, hnone]
  rfl

/-- Acknowledgements of updates from the combiner. -/
theorem foldl_ackUpd : ∀ (us : List Upd) (s : State), (∀ v ∈ us, v.kind ≤ 1) → us.foldl (fun s u => ackUpd s .band u 0) s =
    { s with prom := { s.prom with net := s.prom.net ++ us.map (fun u => oneFlit s .lodge .band (.tile u.tile) [] 0 0 (.updAck u 0)) } }
  | [], s, _ => by simp
  | u :: us, s, h => by
    rw [List.foldl_cons, ackUpd_eq (h u List.mem_cons_self), foldl_ackUpd us _ (fun v hv => h v (List.mem_cons_of_mem _ hv))]
    simp only [List.map_cons, List.append_assoc, List.singleton_append]
    rfl

theorem nodup_eraseDups : ∀ l : List Nat, l.eraseDups.Nodup
  | [] => List.nodup_nil
  | a :: l => by
    rw [List.eraseDups_cons, List.nodup_cons]
    refine ⟨fun hmem => ?_, nodup_eraseDups (l.filter (fun b => !b == a))⟩
    obtain ⟨-, ha⟩ := List.mem_filter.mp (List.mem_eraseDups.mp hmem)
    simp at ha
termination_by l => l.length
decreasing_by exact Nat.lt_succ_of_le (List.length_filter_le ..)

/-- EXPRESS_UPDATE with the updates `us` first on their wires, none of them added already. -/
theorem expressStep_adds {s : State} {us rest : List Upd} (hsplit : firstPerWire s.lodge.xupds [] = (us, rest)) (hs : Unwatched s)
    (hkind : ∀ v ∈ us, v.kind ≤ 1) (hnew : ∀ v ∈ us, v.kind = 0 → seqOld s.lodge.applied .combiner v.tile v.stream v.seq = false) :
    ∃ u, exec .expressUpdate s = .next u ∧ u.lodge.xupds = rest ∧ (∀ e, Tab.get u.lodge.xval 0 e = sumFor us e (Tab.get s.lodge.xval 0 e))
      ∧ u.lodge.val = s.lodge.val
      ∧ u.prom.net = s.prom.net ++ us.map (fun v => oneFlit s .lodge .band (.tile v.tile) [] 0 0 (.updAck v 0))
      ∧ ∀ t, u.tile t = s.tile t := by
  let s1 : State := { s with lodge := { s.lodge with xupds := rest } }
  have hall : us.filter (fun u => !(decide (u.kind = 0) && seqOld s1.lodge.applied .combiner u.tile u.stream u.seq)) = us :=
    List.filter_eq_self.mpr (fun v hv => by
      by_cases h0 : v.kind = 0
      · have hold : seqOld s1.lodge.applied .combiner v.tile v.stream v.seq = false := hnew v hv h0
        rw [hold, Bool.and_false]
        rfl
      · rw [decide_eq_false h0, Bool.false_and]
        rfl)
  have hrec := xRecord_eq s1 us
  have hs2 : Unwatched (xRecord s1 us) := fun t => by rw [hrec]; exact hs t
  obtain ⟨hx, hval⟩ := xSets us (us.map (·.cid)).eraseDups (xRecord s1 us) (nodup_eraseDups _) hs2
  have hstep : expressStep s = us.foldl (fun s u => ackUpd s .band u 0) ((us.map (·.cid)).eraseDups.foldl (fun (s : State) (e : Nat) =>
      let vs := us.filter (fun u => decide (u.cid = e))
      xSet s e (vs.foldl (fun v u => v + u.value) (Tab.get s.lodge.xval 0 e)) (lowestRel vs)) (xRecord s1 us)) := by
    simp only [expressStep, hsplit]
    rw [hall]
  rw [foldl_ackUpd us _ hkind] at hstep
  dsimp only at hx hval hstep
  generalize (us.map (·.cid)).eraseDups.foldl _ (xRecord s1 us) = v at hx hval hstep
  have hgen : v.gen = s.gen := by rw [hx.state, hrec]
  refine ⟨_, congrArg Host.Outcome.next hstep, ?_, fun e => ?_, ?_, ?_, fun t => ?_⟩
  · dsimp only
    rw [hx.state, hrec]
  · have hrx : Tab.get (xRecord s1 us).lodge.xval 0 e = Tab.get s.lodge.xval 0 e := by rw [hrec]
    refine (hval e).trans ?_
    rw [hrx]
    by_cases he : e ∈ us.map (·.cid)
    · exact if_pos (List.mem_eraseDups.mpr he)
    · rw [sumFor_absent he, ite_self]
  · dsimp only
    rw [hx.state, hrec]
  · have hprom : v.prom = s.prom := by rw [hx.state, hrec]
    simp only [hprom, oneFlit, hgen]
  · exact (hx.tile t).trans (by rw [hrec]; rfl)

theorem expressAdds : Claims.ExpressAdds := by
  refine ⟨fun s vs hvs hnodup hs hall => ?_, fun s a b hab hwire hkind hs => ?_, fun s v hv hkind hold => ?_, fun s hnone => ?_⟩
  · have hsplit : firstPerWire s.lodge.xupds [] = (vs, []) := by
      rw [hvs]
      exact firstPerWire_all vs [] (fun _ _ => List.not_mem_nil) hnodup
    obtain ⟨u, hexec, hx, hsum, hval, hnet, htile⟩ := expressStep_adds hsplit hs (fun v hv => (hall v hv).left) (fun v hv => (hall v hv).right)
    refine ⟨u, _, hexec, hx, hsum, hval, hnet, ?_, fun t n => by rw [htile t]⟩
    rw [List.map_map]
    rfl
  · have hsplit : firstPerWire s.lodge.xupds [] = ([a], [b]) := by
      rw [hab]
      simp [firstPerWire, hwire]
    obtain ⟨u, hexec, hx, hsum, -, hnet, -⟩ := expressStep_adds hsplit hs (fun v hv => by
      rw [List.mem_singleton.mp hv]
      exact hkind.le) (fun v hv h0 => by
      rw [List.mem_singleton.mp hv] at h0
      omega)
    refine ⟨u, oneFlit s .lodge .band (.tile a.tile) [] 0 0 (.updAck a 0), hexec, hx, hnet, rfl, fun e => (hsum e).trans ?_⟩
    by_cases he : e = a.cid
    · simp [sumFor, he]
    · rw [if_neg he]
      exact sumFor_absent (by simpa using he) _
  · let s1 : State := { s with lodge := { s.lodge with xupds := [] } }
    have hdup : (!(decide (v.kind = 0) && seqOld s1.lodge.applied .combiner v.tile v.stream v.seq)) = false := by
      have hold1 : seqOld s1.lodge.applied .combiner v.tile v.stream v.seq = true := hold
      rw [decide_eq_true hkind, hold1]
      rfl
    have hstep : expressStep s = ackUpd s1 .band v 0 := by
      have hsplit : firstPerWire s.lodge.xupds [] = ([v], []) := by rw [hv]; rfl
      have hnone : [v].filter (fun u => !(decide (u.kind = 0) && seqOld s1.lodge.applied .combiner u.tile u.stream u.seq)) = [] := by
        rw [List.filter_cons, hdup]
        rfl
      simp only [expressStep, hsplit]
      rw [hnone]
      rfl
    rw [ackUpd_eq (by omega)] at hstep
    exact ⟨_, oneFlit s1 .lodge .band (.tile v.tile) [] 0 0 (.updAck v 0), congrArg Host.Outcome.next hstep, rfl, rfl, rfl, rfl, rfl⟩
  · have hstep : expressStep s = { s with lodge := { s.lodge with xupds := [] } } := by
      have hsplit : firstPerWire s.lodge.xupds [] = ([], []) := by rw [hnone]; rfl
      simp only [expressStep, hsplit]
      rfl
    refine congrArg Host.Outcome.next (hstep.trans ?_)
    rw [← hnone]

/-! ## The host's writes -/

theorem get_foldl_set (v : Word) : ∀ (ks : List Nat) (l : Tab Word) (k : Nat),
    Tab.get (ks.foldl (fun c j => Tab.set c 0 j v) l) 0 k = if k ∈ ks then v else Tab.get l 0 k
  | [], l, k => (if_neg List.not_mem_nil).symm
  | j :: ks, l, k => by
    rw [List.foldl_cons, get_foldl_set v ks, Tab.get_set]
    by_cases hk : k ∈ ks
    · rw [if_pos hk, if_pos (List.mem_cons_of_mem _ hk)]
    · simp only [hk, if_false, List.mem_cons, or_false]

theorem hostContextAccess : Claims.HostContextAccess := by
  intro s v
  refine ⟨?_, fun e => ⟨fun hreach hs => ?_, fun hreach => ?_⟩⟩
  · intro x i hreach mine
    let k0 := 64 * x.toNat + i.toNat
    have hexec : exec (.ldCtx x i v) s = .next (wrote (ldCtxOp s k0 v) false) :=
      congrArg Host.Outcome.next (hostWrite_reached hreach nofun rfl)
    have hmem : ∀ k, k ∈ (List.range (GenConfig.leaves s.gen)).map (fun p => ctxPlace p k0) ↔ mine k := fun k => by
      simp only [List.mem_map, List.mem_range, mine, k0, eq_comm]
    have hget : ∀ k, Tab.get (ldCtxOp s k0 v).lodge.ctx 0 k = _ := fun k => get_foldl_set (v &&& 0xC0003FFF) _ s.lodge.ctx k
    exact ⟨_, hexec, fun k hk => (hget k).trans (if_pos ((hmem k).mpr hk)), fun k hk => (hget k).trans (if_neg (fun h => hk ((hmem k).mp h))),
      rfl, rfl, rfl⟩
  · have hexec : exec (.ldXvalue e v) s = .next (wrote (ldXvalueOp s e.toNat v) false) :=
      congrArg Host.Outcome.next (hostWrite_reached hreach nofun rfl)
    obtain ⟨hx, hval⟩ := xSet_unwatched hs e.toNat v { scope := 2, tile := none }
    refine ⟨_, hexec, ?_, hval⟩
    exact (congrArg (fun u : State => u.lodge.val) hx.state).trans rfl
  · have hexec : exec (.ldXadd e v) s = .next (wrote (ldXaddOp s e.toNat v) false) :=
      congrArg Host.Outcome.next (hostWrite_reached hreach nofun rfl)
    exact ⟨_, _, hexec, rfl, rfl, rfl, rfl, rfl, rfl⟩

/-- Settles O38: the combiner by what waits on its wires, and the host's writes. -/
theorem expressAndContext : Obligations.ExpressAndContext := by
  unfold Obligations.ExpressAndContext
  exact ⟨expressAdds, hostContextAccess⟩

end Sys2Proof.Proofs

end

section
/-! PROOF. The answers that reach a tile: acknowledgements, overruns and requests turned back (R56, R251, R271, R402). -/

namespace Sys2Proof.Proofs

open Sys2Proof Sys2Proof.Machine

/-! ## Pending signals only leave -/

/-- From `s` to `u` no tile has got a pending signal that it did not have. -/
structure PendsLeave (s u : State) : Prop where
  mem : ∀ t ring q, q ∈ (u.tile t).pend ring → q ∈ (s.tile t).pend ring

theorem PendsLeave.rfl {s : State} : PendsLeave s s := ⟨fun _ _ _ h => h⟩

theorem PendsLeave.trans {s u v : State} (h : PendsLeave s u) (k : PendsLeave u v) : PendsLeave s v :=
  ⟨fun t ring q hq => h.mem t ring q (k.mem t ring q hq)⟩

theorem pendsLeave_of_tile {s u : State} (h : ∀ t, u.tile t = s.tile t) : PendsLeave s u :=
  ⟨fun t _ _ hq => by rwa [h t] at hq⟩

theorem pendsLeave_setTile {s : State} {j : Nat} {y : Tile} (h : ∀ ring q, q ∈ y.pend ring → q ∈ (s.tile j).pend ring) :
    PendsLeave s (s.setTile j y) where
  mem t ring q hq := by
    rw [tile_setTile] at hq
    split at hq
    · rename_i ht
      rw [ht]
      exact h ring q hq
    · exact hq

/-- A tile is replaced by one with the same queues. -/
theorem pendsLeave_setTile_same {s : State} {j : Nat} {y : Tile} (hp : y.pendProg = (s.tile j).pendProg)
    (hr : y.pendRing = (s.tile j).pendRing) : PendsLeave s (s.setTile j y) :=
  pendsLeave_setTile (fun ring q hq => by
    unfold Tile.pend at hq ⊢
    rwa [hp, hr] at hq)

theorem pendsLeave_foldl {α : Type} {f : State → α → State} (hf : ∀ s a, PendsLeave s (f s a)) (l : List α) (s : State) :
    PendsLeave s (l.foldl f s) := by
  induction l generalizing s with
  | nil => exact PendsLeave.rfl
  | cons a l ih => exact (hf s a).trans (ih (f s a))

theorem pendsLeave_setSource (s : State) (t : Nat) (src : Source) (v : SourceSt) :
    PendsLeave s (s.setTile t ((s.tile t).setSource src v)) := pendsLeave_setTile_same (pendProg_setSource ..) (pendRing_setSource ..)

theorem pendsLeave_clearHold (s : State) (t : Nat) (src : Source) : PendsLeave s (clearHold s t src) := pendsLeave_setSource ..

theorem pendsLeave_noteWait (s : State) (t : Nat) (src : Source) (c : Nat) : PendsLeave s (noteWait s t src c) := pendsLeave_setSource ..

theorem pendsLeave_raise (s : State) (e t n ring detail : Nat) : PendsLeave s (raise s e t n ring detail) :=
  pendsLeave_of_tile (fun _ => tile_raise ..)

theorem pendsLeave_addComp (s : State) (e : EntryRef) (c : CompArgs) : PendsLeave s (addComp s e c) :=
  pendsLeave_of_tile (fun _ => tile_addComp ..)

theorem pendsLeave_judgeLate (s : State) (t n : Nat) (ring : Bool) (l cause : Nat) : PendsLeave s (judgeLate s t n ring l cause) :=
  ⟨fun j ring' q hq => by rwa [(onlyLate_judgeLate s t n ring l cause j).pend] at hq⟩

theorem pendsLeave_finishDone (s : State) (t : Nat) (e : Option EntryRef) (l : Line) (la : LaunchSt) (claimed : Bool) :
    PendsLeave s (finishDone s t e l la claimed) :=
  ⟨fun j ring' q hq => by rwa [(onlyLate_finishDone s t e l la claimed j).pend] at hq⟩

theorem pendsLeave_completeWait (s : State) (t : Nat) (src : Source) (w : WaitSt) (result : Nat) :
    PendsLeave s (completeWait s t src w result) := by
  unfold completeWait
  refine PendsLeave.trans ?_ (pendsLeave_noteWait ..)
  refine PendsLeave.trans ?_ (pendsLeave_finishDone ..)
  split
  · refine (pendsLeave_clearHold s t src).trans (pendsLeave_setTile_same ?_ ?_)
    all_goals rw [setG_eq]
  · exact pendsLeave_clearHold s t src

theorem pendsLeave_wake (s : State) (r : Reg) (result : Nat) : PendsLeave s (wake s r result).1 := by
  unfold wake
  dsimp only
  split
  · split
    · exact PendsLeave.rfl
    · split
      · exact pendsLeave_setTile_same rfl rfl
      · exact PendsLeave.rfl
  · split
    · split
      · exact pendsLeave_setSource ..
      · exact PendsLeave.rfl
    · split
      · exact pendsLeave_completeWait ..
      · exact PendsLeave.rfl
    · exact PendsLeave.rfl

theorem pendsLeave_registerX (s : State) (r : Reg) : PendsLeave s (registerX s r) := by
  unfold registerX
  dsimp only
  split
  · exact (pendsLeave_of_tile (fun _ => tile_compareScope ..)).trans (pendsLeave_wake ..)
  · split
    · exact pendsLeave_setTile_same rfl rfl
    · exact pendsLeave_setTile_same rfl rfl

theorem pendsLeave_takeHeld (s : State) (t : Nat) : PendsLeave s (takeHeld s t) := by
  refine PendsLeave.trans ?_ (pendsLeave_foldl pendsLeave_registerX _ _)
  exact pendsLeave_setTile_same rfl rfl

theorem pendsLeave_post (s : State) (cls : Cls) (src dst : Node) (tail : List Point) (slack : Int) (prio flits : Nat) (body : Body) :
    PendsLeave s (post s cls src dst tail slack prio flits body) := pendsLeave_of_tile (fun _ => rfl)

theorem pendsLeave_withdrawReg (s : State) (r : Reg) : PendsLeave s (withdrawReg s r) := by
  unfold withdrawReg
  dsimp only
  split
  · refine PendsLeave.trans ?_ (pendsLeave_takeHeld ..)
    exact pendsLeave_setTile_same rfl rfl
  · refine PendsLeave.trans ?_ (pendsLeave_post ..)
    exact pendsLeave_setTile_same rfl rfl

theorem pendsLeave_withdrawConds (s : State) (t : Nat) (stream : Option Nat) (src : Source) (ord : Nat) (cs : List Cond) :
    PendsLeave s (withdrawConds s t stream src ord cs) :=
  pendsLeave_foldl (fun u p => by
    split
    · exact PendsLeave.rfl
    · exact pendsLeave_withdrawReg ..) _ _

theorem pendsLeave_withdrawHold (s : State) (t : Nat) (src : Source) : PendsLeave s (withdrawHold s t src) := by
  unfold withdrawHold
  split
  · exact PendsLeave.rfl
  · exact pendsLeave_withdrawConds ..
  · exact pendsLeave_withdrawReg ..
  · exact PendsLeave.rfl

theorem pendsLeave_noteBroken (s : State) (b : EntryRef) : PendsLeave s (noteBroken s b) := by
  have hring : PendsLeave s (s.setRing b.ring { s.ring b.ring with broken := (s.ring b.ring).broken ++ [b] }) :=
    pendsLeave_of_tile (fun _ => tile_setRing ..)
  refine PendsLeave.trans hring ?_
  exact pendsLeave_setTile_same rfl rfl

theorem pendsLeave_sweepTile (s : State) (b : EntryRef) : PendsLeave s (sweepTile s b) := by
  unfold sweepTile
  extract_lets r t k x q badQ isBadP badP isBadI badI s1 s2 s3 s4 src
  have hdrop : PendsLeave s s1 := by
    refine pendsLeave_setTile (fun ring q hq => ?_)
    rw [dropIssued_eq] at hq
    cases ring with
    | false => exact hq
    | true => exact List.mem_of_mem_filter hq
  have hqueue : PendsLeave s1 s2 := pendsLeave_foldl (fun u e => pendsLeave_addComp ..) _ _
  have hpend : PendsLeave s2 s3 := pendsLeave_foldl (fun u p => by
    split
    · exact pendsLeave_addComp ..
    · exact PendsLeave.rfl) _ _
  have hissued : PendsLeave s3 s4 := pendsLeave_foldl (fun u i => by
    split
    · exact pendsLeave_addComp ..
    · exact PendsLeave.rfl) _ _
  have h4 := ((hdrop.trans hqueue).trans hpend).trans hissued
  split
  · split
    · split
      · exact h4.trans (pendsLeave_clearHold ..)
      · exact h4
    · exact h4
  · split
    · split
      · exact ((h4.trans (pendsLeave_withdrawHold ..)).trans (pendsLeave_clearHold ..)).trans (pendsLeave_addComp ..)
      · exact h4
    · exact h4

theorem pendsLeave_freeStream (s : State) (t n : Nat) : PendsLeave s (s.freeStream t n) := by
  unfold State.freeStream
  exact pendsLeave_setTile_same rfl rfl

theorem pendsLeave_orderCleared (s : State) (t : Nat) (src : Source) (ord : Nat) :
    PendsLeave s (s.setTile t (orderCleared (s.tile t) src ord)) :=
  pendsLeave_setTile_same (by rw [orderCleared_eq]) (by rw [orderCleared_eq])

theorem pendsLeave_sweepStreams (s : State) (b : EntryRef) : PendsLeave s (sweepStreams s b) :=
  pendsLeave_foldl (fun u n => by
    split
    · exact PendsLeave.rfl
    · split
      · split
        · refine PendsLeave.trans ?_ (pendsLeave_addComp ..)
          exact ((pendsLeave_withdrawConds ..).trans (pendsLeave_freeStream ..)).trans (pendsLeave_orderCleared ..)
        · exact PendsLeave.rfl
      · exact PendsLeave.rfl) _ _

theorem pendsLeave_breakJob (s : State) (b : EntryRef) : PendsLeave s (breakJob s b) :=
  ((pendsLeave_noteBroken s b).trans (pendsLeave_sweepTile ..)).trans (pendsLeave_sweepStreams ..)

theorem pendsLeave_endInstr (s : State) (t : Nat) (e : EntryRef) (pc : Nat) (c : CompArgs) :
    PendsLeave s (endInstr s t (some e) pc c) := by
  unfold endInstr
  dsimp only
  split
  · exact (pendsLeave_addComp s e c).trans (pendsLeave_breakJob ..)
  · exact pendsLeave_addComp s e c

/-! ## A SIG or BAR that ends (R56, R58) -/

/-- The completion of an entry that ends with DONE and no launch time to be late of. -/
def doneArgs (s : State) (l : Line) (la : LaunchSt) (claimed : Bool) : CompArgs :=
  { status := stDone, claimed := claimed, tag := iTag l, tl := la.tl, tr := localTime s }

theorem finishDone_immediate {la : LaunchSt} (h : la.kind = 0) (s : State) (t : Nat) (e : EntryRef) (l : Line) (claimed : Bool) :
    finishDone s t (some e) l la claimed = addComp s e (doneArgs s l la claimed) := by
  have hlate : lateOf la la.ll 0 = (0, 0) := if_pos h
  have hjudge : judgeLate s t 0 true 0 0 = s := judgeLate_tolerated (Nat.zero_le _) ..
  simp only [finishDone, hlate, Option.isSome_some, hjudge, Nat.not_lt_zero, decide_false, Bool.false_eq_true, if_false]
  rfl

/-- The tile once a pending signal has left its queue. -/
def withoutPend (x : Tile) (p : PendSig) : Tile :=
  x.setPend (Source.isRing p.src) ((x.pend (Source.isRing p.src)).filter (fun q => decide (q ≠ p)))

theorem pendDone_eq (s : State) (t : Nat) (p : PendSig) (code : Nat) :
    pendDone s t p code = finishSimple (s.setTile t (withoutPend (s.tile t) p)) t p.entry p.pc p.line p.launch code := rfl

theorem pend_withoutPend (x : Tile) (p : PendSig) : (withoutPend x p).pend (Source.isRing p.src) =
    (x.pend (Source.isRing p.src)).filter (fun q => decide (q ≠ p)) := by
  rw [withoutPend, pend_setPend, if_pos rfl]

/-- The end of an entry without a stream keeps the queues, and its completion has the code. -/
theorem finishSimple_entry {s : State} {t code : Nat} {e : EntryRef} {la : LaunchSt} (hcode : code < 256) (hkind : code = 0 → la.kind = 0)
    (pc : Nat) (l : Line) : PendsLeave s (finishSimple s t (some e) pc l la code) ∧ (finishSimple s t (some e) pc l la code).spad = s.spad
      ∧ ∃ c ∈ ((finishSimple s t (some e) pc l la code).ring e.ring).comps, c.idx = e.idx ∧ fld c.w72 7 0 = code := by
  by_cases h0 : code = 0
  · have hdone : finishSimple s t (some e) pc l la code = addComp s e (doneArgs s l la false) :=
      (if_pos h0).trans (finishDone_immediate (hkind h0) ..)
    rw [hdone]
    refine ⟨pendsLeave_addComp .., rfl, _, mem_comps_addComp .., rfl, ?_⟩
    exact (status_compOf (c := doneArgs s l la false) (Nat.zero_lt_succ _)).trans h0.symm
  · let s1 := judgeLate s t 0 true (lateOf la la.ll 0).1 (lateOf la la.ll 0).2
    let a : CompArgs := { status := code, late := (lateOf la la.ll 0).1, cause := (lateOf la la.ll 0).2, tag := iTag l, tl := la.tl
                          tr := localTime s1 }
    have hend : finishSimple s t (some e) pc l la code = endInstr s1 t (some e) pc a := if_neg h0
    rw [hend]
    refine ⟨(pendsLeave_judgeLate ..).trans (pendsLeave_endInstr ..), ?_, _, mem_comps_endInstr .., rfl, status_compOf hcode⟩
    rw [spad_endInstr]
    exact (sweeps_judgeLate s t 0 true _ _).spad

/-- A ring's SIG or BAR leaves its queue, and its entry completes with the code. -/
theorem pendDone_entry {s : State} {t code : Nat} {p : PendSig} {e : EntryRef} (he : p.entry = some e) (hcode : code < 256)
    (hkind : code = 0 → p.launch.kind = 0) : p ∉ ((pendDone s t p code).tile t).pend (Source.isRing p.src)
      ∧ (pendDone s t p code).spad = s.spad
      ∧ ∃ c ∈ ((pendDone s t p code).ring e.ring).comps, c.idx = e.idx ∧ fld c.w72 7 0 = code := by
  rw [pendDone_eq, he]
  obtain ⟨hleave, hspad, hcomp⟩ := finishSimple_entry (s := s.setTile t (withoutPend (s.tile t) p)) (t := t) (e := e) hcode hkind p.pc p.line
  refine ⟨fun hmem => ?_, hspad, hcomp⟩
  have hq := hleave.mem t _ p hmem
  rw [tile_setTile, if_pos rfl, pend_withoutPend] at hq
  simp at hq

/-- One that ends with DONE leaves the rest of its queue, and no message. -/
theorem pendDone_done {s : State} {t : Nat} {p : PendSig} (hkind : p.launch.kind = 0) : ((pendDone s t p 0).tile t).pend (Source.isRing p.src) =
      ((s.tile t).pend (Source.isRing p.src)).filter (fun q => decide (q ≠ p)) ∧ (pendDone s t p 0).prom = s.prom := by
  have hdone : pendDone s t p 0 = finishDone (s.setTile t (withoutPend (s.tile t) p)) t p.entry p.line p.launch false := rfl
  have htile : ((s.setTile t (withoutPend (s.tile t) p)).tile t).pend (Source.isRing p.src) =
      ((s.tile t).pend (Source.isRing p.src)).filter (fun q => decide (q ≠ p)) := by
    rw [tile_setTile, if_pos rfl, pend_withoutPend]
  rw [hdone]
  cases he : p.entry with
  | none =>
    rw [finishDone_prog_of_kind_zero _ _ _ hkind]
    exact ⟨htile, rfl⟩
  | some e =>
    rw [finishDone_immediate hkind]
    exact ⟨htile, rfl⟩

/-- Settles O41: an answer by the pending signal that was sent, and a request turned back by whose it is. -/
theorem answersReachTile : Obligations.AnswersReachTile := by
  unfold Obligations.AnswersReachTile
  refine ⟨fun s i t code m v p e harr hbody hdst hkind hrun hsent he hcode hk => ?_,
    fun s i t m a p e harr hbody hdst ht hrun hsent he hwrel => ?_,
    fun s i m r hm hagain hroute hbody hx => ?_, fun s i m r hm hagain hroute hbody => ⟨fun st hst => ?_, fun hnone => ?_⟩⟩
  · have hrun' : coreRuns (dropMsg s i) t = true := hrun
    have hsent' : pendSent ((dropMsg s i).tile t) v.src v.ord = some p := hsent
    have hexec : exec (.signalAcknowledgement i) s = .next (pendDone (dropMsg s i) t p code) := by
      refine congrArg Host.Outcome.next ?_
      rw [signalAckStep, harr]
      simp only [hbody, hdst, hkind, hrun', hsent', ne_eq, not_true_eq_false, if_false, Bool.not_true, Bool.false_eq_true]
    obtain ⟨hgone, hspad, c, hc, hidx, hcodec⟩ := pendDone_entry (s := dropMsg s i) (t := t) he hcode hk
    refine ⟨_, c, hexec, hgone, hc, hidx, hcodec, hspad, fun h0 => ?_⟩
    obtain ⟨hpend, hprom⟩ := pendDone_done (s := dropMsg s i) (t := t) (hk h0)
    rw [h0]
    exact ⟨congrArg Prom.net hprom, hpend⟩
  · subst ht
    have hrun' : coreRuns s a.tile = true := hrun
    have hsent' : pendSent ((dropMsg s i).tile a.tile) a.src a.ord = some p := hsent
    have hexec : exec (.overrunAnswer i) s = .next (pendDone (dropMsg s i) a.tile p 0x2A) := by
      refine congrArg Host.Outcome.next ?_
      rw [overrunStep, harr]
      simp only [hbody, hdst, hrun', if_true, arrivalDone, hsent', hwrel, Bool.false_eq_true, if_false]
      rfl
    obtain ⟨hgone, -, c, hc, hidx, hcodec⟩ := pendDone_entry (s := dropMsg s i) (t := a.tile) (code := 0x2A) he (by decide) nofun
    exact ⟨_, c, hexec, hgone, hc, hidx, hcodec⟩
  · have hexec : exec (.retryLater i) s = .next (register (dropMsg s i) r) := by
      refine congrArg Host.Outcome.next ?_
      simp only [retryLaterStep, hm, hagain, hroute, List.isEmpty_nil, Bool.and_self, if_true, reissue, hbody]
    rw [register, if_neg (by rw [hx]; exact Bool.false_ne_true), post_one] at hexec
    exact ⟨_, _, hexec, rfl, rfl, rfl, rfl, rfl, rfl, rfl⟩
  · have hst' : matchStream (dropMsg s i) r.tile r.stream r.src r.ord r.epoch = some st := hst
    let d := dataRoute (dropMsg s i) r.tile r.addr r.off
    let k : Msg := { oneFlit (dropMsg s i) .request (.tile r.tile) d.1 d.2 (slackOf s st true) (prioOf (s.tile r.tile) r.stream) (.rd r)
      with index := 0 }
    have hexec : exec (.retryLater i) s = .next
        (post (dropMsg s i) .request (.tile r.tile) d.1 d.2 (slackOf s st true) (prioOf (s.tile r.tile) r.stream) 1 (.rd r)) := by
      refine congrArg Host.Outcome.next ?_
      simp only [retryLaterStep, hm, hagain, hroute, List.isEmpty_nil, Bool.and_self, if_true, reissue, hbody, hst']
      rfl
    exact ⟨_, k, hexec, rfl, rfl, rfl, rfl, rfl, rfl, rfl, rfl⟩
  · have hnone' : matchStream (dropMsg s i) r.tile r.stream r.src r.ord r.epoch = none := hnone
    refine congrArg Host.Outcome.next ?_
    simp only [retryLaterStep, hm, hagain, hroute, List.isEmpty_nil, Bool.and_self, if_true, reissue, hbody, hnone']

end Sys2Proof.Proofs

end

section
/-! PROOF. The release of a barrier at the tile, where the release of a reset barrier breaks a job (R272, R321). -/

namespace Sys2Proof.Proofs

open Sys2Proof Sys2Proof.Machine

/-- A BAR of ring source 1, the first entry of job 0 of ring 0, that waits for barrier 0. -/
def barOfFirst : BarSt :=
  { line := 0, pc := 0, entry := some { ring := 0, idx := 0, job := 0, flags := 0 }, ord := 1, launch := { onExpress with conds := [] }
    bar := 0, gen := 0, scope := 0 }

/-- The release of barrier 0 by its reset, at tile 0. -/
def resetRelease : Msg := { oneFlit State.reset .lodge .band (.tile 0) [] 0 0 (.release 0 0 2 true 0) with route := [] }

/-- The tiles of `jobOnTwoTiles`, with the first entry of the job as a BAR of tile 0 in the place of its stream, and the release. -/
def barOnTwoTiles : State :=
  let s := { jobOnTwoTiles with prom := { Prom.init with net := [resetRelease] } }
  s.setTile 0 { Tile.init with g := [(1, 5)], prog := { ord := 1, hold := .wait claimToG1, issueWait := 0 }
                               rings := [(1, { ord := 1, hold := .bar barOfFirst, issueWait := 0 })] }

/-- The release ends the BAR and breaks its job: the withdrawal of the second entry's watch takes the registration that tile 1 holds back,
and the CLAIM of tile 0 completes. -/
theorem g_release_barOnTwoTiles : ((releaseStep barOnTwoTiles 0).tile 0).g ≠ (barOnTwoTiles.tile 0).g := by decide +kernel

/-- Refutes O43: the statement lets another tile hold back a registration whose waiter is of this one. The release of a reset barrier that
ends a BAR breaks its job, and the withdrawal of an entry of that job at the other tile completes a CLAIM here, which writes its register,
though this tile holds no registration back (`barOnTwoTiles`). -/
theorem not_barrierReleases : ¬ Obligations.BarrierReleases := by
  unfold Obligations.BarrierReleases
  rintro ⟨hends, -⟩
  obtain ⟨hsame, -⟩ := hends barOnTwoTiles 0 0 0 0 2 true (.ring 1) resetRelease barOfFirst (by decide +kernel) rfl rfl
    (by decide +kernel) (by decide) (by decide +kernel)
  obtain ⟨u, hexec, -, hregs, -⟩ := hsame rfl (by decide) (Or.inl rfl)
  have hstep : exec (.releaseDelivery 0) barOnTwoTiles = .next (releaseStep barOnTwoTiles 0) := rfl
  rw [hstep] at hexec
  obtain rfl : releaseStep barOnTwoTiles 0 = u := by injection hexec
  exact g_release_barOnTwoTiles (hregs (Or.inr (by decide +kernel)))

end Sys2Proof.Proofs

end

section
/-! PROOF. Arrivals at the bandstand: counted, released, counted ahead or overrun (R268–R271). -/

namespace Sys2Proof.Proofs

open Sys2Proof Sys2Proof.Machine

/-! ## A BAR whose arrival is accepted (R58) -/

/-- From `s` to `u` only tiles and the gatehouse's registers have changed, and no pending vector has been lost. -/
structure EndsQuietly (s u : State) : Prop where
  state : u = { s with tiles := u.tiles, gate := u.gate }
  vec : ∀ k, (Tab.get s.gate.vecs Vec.init k).pend = true → (Tab.get u.gate.vecs Vec.init k).pend = true

theorem EndsQuietly.rfl {s : State} : EndsQuietly s s := ⟨Eq.refl s, fun _ h => h⟩

theorem EndsQuietly.trans {s u v : State} (h : EndsQuietly s u) (k : EndsQuietly u v) : EndsQuietly s v :=
  ⟨by rw [k.state, h.state], fun n hn => k.vec n (h.vec n hn)⟩

section
variable {s u : State} (h : EndsQuietly s u)
include h

theorem EndsQuietly.band : u.band = s.band := by rw [h.state]
theorem EndsQuietly.prom : u.prom = s.prom := by rw [h.state]
theorem EndsQuietly.spad : u.spad = s.spad := by rw [h.state]
theorem EndsQuietly.bar (b : Nat) : u.bar b = s.bar b := by rw [h.state]; rfl

end

theorem endsQuietly_setTile (s : State) (t : Nat) (x : Tile) : EndsQuietly s (s.setTile t x) := ⟨rfl, fun _ h => h⟩

theorem endsQuietly_pendVec (s : State) (v : Nat) : EndsQuietly s (pendVec s v) := by
  refine ⟨rfl, fun k h => ?_⟩
  rw [get_vecs_pendVec]
  split
  · rfl
  · exact h

theorem endsQuietly_raise (s : State) (e t n ring detail : Nat) : EndsQuietly s (raise s e t n ring detail) := by
  unfold raise
  split
  · dsimp only
    split
    · refine EndsQuietly.trans ?_ (endsQuietly_pendVec ..)
      exact ⟨rfl, fun _ h => h⟩
    · exact ⟨rfl, fun _ h => h⟩
  · exact EndsQuietly.rfl

theorem endsQuietly_judgeLate (s : State) (t n : Nat) (ring : Bool) (l cause : Nat) : EndsQuietly s (judgeLate s t n ring l cause) := by
  unfold judgeLate
  dsimp only
  split
  · exact EndsQuietly.rfl
  · split
    · exact (endsQuietly_setTile s t _).trans (endsQuietly_raise ..)
    · exact endsQuietly_setTile ..

theorem endsQuietly_addComp (s : State) (e : EntryRef) (c : CompArgs) : EndsQuietly s (addComp s e c) := ⟨rfl, fun _ h => h⟩

theorem endsQuietly_finishDone (s : State) (t : Nat) (e : Option EntryRef) (l : Line) (la : LaunchSt) (claimed : Bool) :
    EndsQuietly s (finishDone s t e l la claimed) := by
  cases e with
  | none => exact endsQuietly_judgeLate ..
  | some e => exact EndsQuietly.trans (endsQuietly_judgeLate s t 0 true _ _) (endsQuietly_addComp ..)

theorem endsQuietly_arrivalDone (s : State) (a : Arrival) : EndsQuietly s (arrivalDone s a 0) := by
  unfold arrivalDone
  split
  · exact EndsQuietly.rfl
  · split
    · exact endsQuietly_setTile ..
    · rw [pendDone_eq]
      exact (endsQuietly_setTile ..).trans (endsQuietly_finishDone ..)

theorem arrivalDone_none {s : State} {a : Arrival} (h : pendSent (s.tile a.tile) a.src a.ord = none) (code : Nat) :
    arrivalDone s a code = s := by
  rw [arrivalDone, h]

/-- The arrival that was sent leaves its queue. -/
theorem arrivalDone_leaves {s : State} {a : Arrival} {p : PendSig} (h : pendSent (s.tile a.tile) a.src a.ord = some p) :
    p ∉ ((arrivalDone s a 0).tile a.tile).pend (Source.isRing p.src) := by
  intro hmem
  have hafter : p ∈ ((s.setTile a.tile (withoutPend (s.tile a.tile) p)).tile a.tile).pend (Source.isRing p.src) := by
    rw [arrivalDone, h] at hmem
    dsimp only at hmem
    split at hmem
    · exact hmem
    · rw [pendDone_eq] at hmem
      exact (pendsLeave_finishDone ..).mem _ _ _ hmem
  rw [tile_setTile, if_pos rfl, pend_withoutPend] at hafter
  simp at hafter

/-- The entry of a BAR with WREL = 0 completes with DONE. -/
theorem arrivalDone_completes {s : State} {a : Arrival} {p : PendSig} {e : EntryRef} (h : pendSent (s.tile a.tile) a.src a.ord = some p)
    (hwrel : p.wrel = false) (he : p.entry = some e) (hkind : p.launch.kind = 0) :
    ∃ c ∈ ((arrivalDone s a 0).ring e.ring).comps, c.idx = e.idx ∧ fld c.w72 7 0 = 0 := by
  have hend : arrivalDone s a 0 = pendDone s a.tile p 0 := by
    simp only [arrivalDone, h, hwrel, Bool.false_eq_true, if_false]
  rw [hend]
  obtain ⟨-, -, hcomp⟩ := pendDone_entry (s := s) (t := a.tile) (code := 0) he (by decide) (fun _ => hkind)
  exact hcomp

/-! ## One release (R269) -/

/-- The releases of a generation that leave for the tiles. -/
def releaseMsgs (s : State) (b gen scope : Nat) (failed : Bool) : List Msg :=
  (List.range (GenConfig.T s.gen)).map (fun t => oneFlit s .lodge .band (.tile t) [] 0 0 (.release b gen scope failed t))

theorem length_releaseMsgs (s : State) (b gen scope : Nat) (failed : Bool) :
    (releaseMsgs s b gen scope failed).length = GenConfig.T s.gen := by
  rw [releaseMsgs, List.length_map, List.length_range]

theorem mem_releaseMsgs {s : State} {t : Nat} (ht : t < GenConfig.T s.gen) (b gen scope : Nat) (failed : Bool) :
    ∃ k ∈ releaseMsgs s b gen scope failed, k.dst = .tile t ∧ k.body = .release b gen scope failed t :=
  ⟨_, List.mem_map.mpr ⟨t, List.mem_range.mpr ht, rfl⟩, rfl, rfl⟩

theorem foldl_postSmall (cls : Cls) (src : Node) (dst : Nat → Node) (body : Nat → Body) (l : List Nat) (s : State) :
    l.foldl (fun s t => postSmall s cls src (dst t) (body t)) s =
      { s with prom := { s.prom with net := s.prom.net ++ l.map (fun t => oneFlit s cls src (dst t) [] 0 0 (body t)) } } := by
  induction l generalizing s with
  | nil => simp
  | cons t l ih =>
    rw [List.foldl_cons, ih, postSmall_eq]
    simp only [List.map_cons, List.append_assoc, List.singleton_append]
    rfl

theorem sendRelease_eq (s : State) (b gen scope : Nat) (failed : Bool) : sendRelease s b gen scope failed =
    { s with prom := { s.prom with net := s.prom.net ++ releaseMsgs s b gen scope failed } } := foldl_postSmall ..

/-- The barrier once one generation is released. -/
def nextGen (x : Barrier) : Barrier := { gen := (x.gen + 1) % 4, cnt0 := x.cnt1, cnt1 := 0, scope0 := x.scope1, scope1 := 2 }

/-- The signal of a released barrier. -/
def barUpd (s : State) (b : Nat) : Upd :=
  { cid := fld (barCfg s b) 23 10, express := false, value := 1, scope := (s.bar b).scope0, kind := 3, tile := 0, stream := 0, seq := 0
    src := .prog, ord := 0, wire := 128 }

/-- The signal of a release, where SIGEN asks for one. -/
def signalMsgs (s : State) (b : Nat) : List Msg :=
  if bit (barCfg s b) 24 then [oneFlit s .lodge .band (.lodge (homeBank s (fld (barCfg s b) 23 10))) [] 0 0 (.upd (barUpd s b))] else []

/-- One release: the counts move up, the releases and the signal leave, and MSGEN makes the vector pending. -/
theorem releaseOne_eq (s : State) (b : Nat) : releaseOne s b =
    { s.setBar b (nextGen (s.bar b)) with
      prom := { s.prom with net := s.prom.net ++ releaseMsgs s b (s.bar b).gen (s.bar b).scope0 false ++ signalMsgs s b }
      gate := if bit (barCfg s b) 31 then (pendVec s (fld (barCfg s b) 30 25)).gate else s.gate } := by
  unfold releaseOne signalMsgs
  dsimp only
  rw [sendRelease_eq]
  by_cases hsig : bit (barCfg s b) 24 = true
  · rw [if_pos hsig, if_pos hsig, sendUpd_home rfl]
    split <;> rfl
  · rw [if_neg hsig, if_neg hsig, List.append_nil]
    split <;> rfl

theorem barN_pos (s : State) (b : Nat) : 0 < barN s b := Nat.succ_pos _

theorem bar_releaseOne (s : State) (b k : Nat) : (releaseOne s b).bar k = if k = b then nextGen (s.bar b) else s.bar k := by
  rw [releaseOne_eq]
  exact bar_setBar ..

theorem barCfg_releaseOne (s : State) (b k : Nat) : barCfg (releaseOne s b) k = barCfg s k := by
  rw [releaseOne_eq]
  rfl

theorem barN_releaseOne (s : State) (b k : Nat) : barN (releaseOne s b) k = barN s k := by
  rw [barN, barCfg_releaseOne]
  rfl

theorem releaseLoop_stop {s : State} {b : Nat} (h : (s.bar b).cnt0 < barN s b) (n : Nat) : releaseLoop n s b = s := by
  cases n with
  | zero => rfl
  | succ n => exact if_neg (Nat.not_le.mpr h)

theorem releaseLoop_go {s : State} {b : Nat} (h : barN s b ≤ (s.bar b).cnt0) (n : Nat) :
    releaseLoop (n + 1) s b = releaseLoop n (releaseOne s b) b := if_pos h

/-- A complete generation with an incomplete one behind it is released alone. -/
theorem releaseLoop_once {s : State} {b : Nat} (h : barN s b ≤ (s.bar b).cnt0) (hnext : (s.bar b).cnt1 < barN s b) (n : Nat) :
    releaseLoop (n + 1) s b = releaseOne s b := by
  rw [releaseLoop_go h, releaseLoop_stop]
  rw [bar_releaseOne, if_pos rfl, barN_releaseOne]
  exact hnext

/-- With two complete generations both are released. -/
theorem releaseLoop_twice {s : State} {b : Nat} (h : barN s b ≤ (s.bar b).cnt0) (hnext : barN s b ≤ (s.bar b).cnt1) (n : Nat) :
    releaseLoop (n + 2) s b = releaseOne (releaseOne s b) b := by
  rw [releaseLoop_go h, releaseLoop_once]
  · rw [bar_releaseOne, if_pos rfl, barN_releaseOne]
    exact hnext
  · rw [bar_releaseOne, if_pos rfl, barN_releaseOne]
    exact barN_pos s b

theorem tiles_releaseOne (s : State) (b : Nat) : (releaseOne s b).tiles = s.tiles := by
  rw [releaseOne_eq]
  rfl

/-! ## An arrival is counted (R268) -/

section
variable {s : State} {a : Arrival}

/-- The barrier with one more arrival in the present generation. -/
def counted0 (s : State) (a : Arrival) : State :=
  s.setBar a.bar { s.bar a.bar with cnt0 := (s.bar a.bar).cnt0 + 1, scope0 := min (s.bar a.bar).scope0 a.scope }

/-- The barrier with one more arrival in the next generation. -/
def counted1 (s : State) (a : Arrival) : State :=
  s.setBar a.bar { s.bar a.bar with cnt1 := (s.bar a.bar).cnt1 + 1, scope1 := min (s.bar a.bar).scope1 a.scope }

theorem bar_counted0 : (counted0 s a).bar a.bar =
    { s.bar a.bar with cnt0 := (s.bar a.bar).cnt0 + 1, scope0 := min (s.bar a.bar).scope0 a.scope } := by
  rw [counted0, bar_setBar, if_pos rfl]

theorem bar_counted0_of_ne {b : Nat} (h : b ≠ a.bar) : (counted0 s a).bar b = s.bar b := by
  rw [counted0, bar_setBar, if_neg h]

theorem bar_counted1 : (counted1 s a).bar a.bar =
    { s.bar a.bar with cnt1 := (s.bar a.bar).cnt1 + 1, scope1 := min (s.bar a.bar).scope1 a.scope } := by
  rw [counted1, bar_setBar, if_pos rfl]

theorem barN_counted0 (b : Nat) : barN (counted0 s a) b = barN s b := rfl

theorem countArrival_present (hd : (a.a + 4 - (s.bar a.bar).gen) % 4 = 0) : countArrival s a = releaseLoop 3 (counted0 s a) a.bar := by
  have hd' : arrivalD (s.bar a.bar) a.a = 0 := hd
  simp only [countArrival, hd', if_true]
  rfl

/-- With arrivals still to come nothing is released. -/
theorem countArrival_some (hd : (a.a + 4 - (s.bar a.bar).gen) % 4 = 0) (hN : (s.bar a.bar).cnt0 + 1 < barN s a.bar) :
    countArrival s a = counted0 s a := by
  rw [countArrival_present hd, releaseLoop_stop]
  rw [bar_counted0, barN_counted0]
  exact hN

/-- The N-th arrival releases. -/
theorem countArrival_last (hd : (a.a + 4 - (s.bar a.bar).gen) % 4 = 0) (hN : (s.bar a.bar).cnt0 + 1 = barN s a.bar)
    (h1 : (s.bar a.bar).cnt1 < barN s a.bar) : countArrival s a = releaseOne (counted0 s a) a.bar := by
  rw [countArrival_present hd, releaseLoop_once]
  · rw [bar_counted0, barN_counted0]
    exact hN.ge
  · rw [bar_counted0, barN_counted0]
    exact h1

/-- The N-th arrival releases the next generation too where that is complete. -/
theorem countArrival_both (hd : (a.a + 4 - (s.bar a.bar).gen) % 4 = 0) (hN : (s.bar a.bar).cnt0 + 1 = barN s a.bar)
    (h1 : (s.bar a.bar).cnt1 = barN s a.bar) : countArrival s a = releaseOne (releaseOne (counted0 s a) a.bar) a.bar := by
  rw [countArrival_present hd, releaseLoop_twice]
  · rw [bar_counted0, barN_counted0]
    exact hN.ge
  · rw [bar_counted0, barN_counted0]
    exact h1.ge

theorem countArrival_ahead (hd : (a.a + 4 - (s.bar a.bar).gen) % 4 = 1) (h0 : (s.bar a.bar).cnt0 < barN s a.bar) :
    countArrival s a = counted1 s a := by
  have hd' : arrivalD (s.bar a.bar) a.a = 1 := hd
  simp only [countArrival, hd', Nat.one_ne_zero, if_false]
  refine releaseLoop_stop (s := counted1 s a) ?_ 3
  rw [bar_counted1]
  exact h0

end

theorem tiles_releaseLoop (n : Nat) (s : State) (b : Nat) : (releaseLoop n s b).tiles = s.tiles := by
  induction n generalizing s with
  | zero => rfl
  | succ n ih =>
    rw [releaseLoop]
    split
    · rw [ih, tiles_releaseOne]
    · rfl

theorem tiles_countArrival (s : State) (a : Arrival) : (countArrival s a).tiles = s.tiles := by
  unfold countArrival
  dsimp only
  rw [tiles_releaseLoop]
  split <;> rfl

/-! ## BARRIER_ARRIVAL -/

section
variable {s : State} {i : Nat} {m : Msg} {a : Arrival} (harr : arrived s i = some m) (hbody : m.body = .arrive a) (hdst : m.dst = .band)
  (hon : availOf s (bandDom s) = .on)
include harr hbody hdst hon

theorem exec_barrierArrival : exec (.barrierArrival i) s = .next (bandArrival (dropMsg s i) a) := by
  refine congrArg Host.Outcome.next ?_
  rw [arrivalStep, harr]
  simp only [hbody, hdst]
  exact serve_on hon

/-- An arrival that is no overrun is counted, and then leaves its queue. -/
theorem exec_barrierArrival_counted (hgood : arrivalBad s a = false) :
    exec (.barrierArrival i) s = .next (arrivalDone (countArrival (dropMsg s i) a) a 0) := by
  rw [exec_barrierArrival harr hbody hdst hon]
  have hgood' : arrivalBad (dropMsg s i) a = false := hgood
  exact congrArg Host.Outcome.next (if_neg (by rw [hgood']; exact Bool.false_ne_true))

end

theorem arrivalBad_present {s : State} {a : Arrival} (hd : (a.a + 4 - (s.bar a.bar).gen) % 4 = 0)
    (h0 : (s.bar a.bar).cnt0 < barN s a.bar) : arrivalBad s a = false := by
  have hd' : arrivalD (s.bar a.bar) a.a = 0 := hd
  simp only [arrivalBad, hd', decide_eq_false h0.not_ge]
  rfl

theorem arrivalBad_ahead {s : State} {a : Arrival} (hd : (a.a + 4 - (s.bar a.bar).gen) % 4 = 1)
    (h1 : (s.bar a.bar).cnt1 < barN s a.bar) : arrivalBad s a = false := by
  have hd' : arrivalD (s.bar a.bar) a.a = 1 := hd
  simp only [arrivalBad, hd', decide_eq_false h1.not_ge]
  rfl

theorem pendSent_countArrival {s : State} {i : Nat} (a : Arrival) :
    pendSent ((countArrival (dropMsg s i) a).tile a.tile) a.src a.ord = pendSent (s.tile a.tile) a.src a.ord := by
  rw [tile_congr (tiles_countArrival ..)]
  rfl

theorem arrivalCounts : Claims.ArrivalCounts := by
  intro s i m a x w harr hbody hdst hon hd h0 h1
  have hexec := exec_barrierArrival_counted harr hbody hdst hon (arrivalBad_present hd h0)
  have hquiet := endsQuietly_arrivalDone (countArrival (dropMsg s i) a) a
  refine ⟨fun p hp => ⟨_, hexec, ?_, fun e hwrel he hkind => ?_⟩, fun hp => ⟨_, hexec, ?_⟩, fun hN => ?_, fun hN => ?_⟩
  · exact arrivalDone_leaves ((pendSent_countArrival a).trans hp)
  · exact arrivalDone_completes ((pendSent_countArrival a).trans hp) hwrel he hkind
  · rw [arrivalDone_none ((pendSent_countArrival a).trans hp), tiles_countArrival]
    rfl
  · rw [countArrival_some (s := dropMsg s i) hd hN] at hexec hquiet
    refine ⟨_, hexec, (hquiet.bar _).trans bar_counted0, fun b hb => (hquiet.bar _).trans (bar_counted0_of_ne hb), ?_, hquiet.spad⟩
    rw [hquiet.prom]
    rfl
  · rw [countArrival_last (s := dropMsg s i) hd hN h1] at hexec hquiet
    have hpend : pendSent ((releaseOne (counted0 (dropMsg s i) a) a.bar).tile a.tile) a.src a.ord =
        pendSent (s.tile a.tile) a.src a.ord := by
      rw [tile_congr (tiles_releaseOne ..)]
      rfl
    have hgate : (releaseOne (counted0 (dropMsg s i) a) a.bar).gate =
        if bit w 31 then (pendVec s (fld w 30 25)).gate else s.gate := by
      rw [releaseOne_eq]
      rfl
    have hbar : (counted0 (dropMsg s i) a).bar a.bar = { x with cnt0 := x.cnt0 + 1, scope0 := min x.scope0 a.scope } := bar_counted0
    refine ⟨_, releaseMsgs (dropMsg s i) a.bar x.gen (min x.scope0 a.scope) false, signalMsgs (counted0 (dropMsg s i) a) a.bar, hexec, ?_,
      fun b hb => ?_, ?_, length_releaseMsgs .., fun t ht => mem_releaseMsgs (s := dropMsg s i) ht .., fun hsig => ?_, fun hsig => ?_,
      fun hmsg => ?_, fun hp => ?_⟩
    · rw [hquiet.bar, bar_releaseOne, if_pos rfl, hbar]
      rfl
    · rw [hquiet.bar, bar_releaseOne, if_neg hb, bar_counted0_of_ne hb]
      rfl
    · rw [hquiet.prom, releaseOne_eq, hbar]
      rfl
    · exact if_neg (fun h => Bool.false_ne_true (hsig.symm.trans h))
    · refine ⟨_, _, if_pos hsig, rfl, rfl, rfl, rfl, rfl, ?_, rfl⟩
      exact congrArg Barrier.scope0 hbar
    · refine hquiet.vec _ ?_
      rw [hgate, if_pos hmsg, get_vecs_pendVec, if_pos rfl]
    · rw [arrivalDone_none (hpend.trans hp), hgate]
      split <;> rfl

theorem arrivalsAhead : Claims.ArrivalsAhead := by
  intro s i m a x harr hbody hdst hon h0
  refine ⟨fun hd h1 => ?_, fun hd hN h1 hsig => ?_⟩
  · have hexec := exec_barrierArrival_counted harr hbody hdst hon (arrivalBad_ahead hd h1)
    have hquiet := endsQuietly_arrivalDone (countArrival (dropMsg s i) a) a
    have hleaves (p : PendSig) (hp : pendSent (s.tile a.tile) a.src a.ord = some p) :=
      arrivalDone_leaves ((pendSent_countArrival (i := i) a).trans hp)
    rw [countArrival_ahead (s := dropMsg s i) hd h0] at hexec hquiet hleaves
    refine ⟨_, hexec, (hquiet.bar _).trans bar_counted1, fun b hb => ?_, ?_, hquiet.spad, hleaves⟩
    · rw [hquiet.bar, counted1, bar_setBar, if_neg hb]
      rfl
    · rw [hquiet.prom]
      rfl
  · have hexec := exec_barrierArrival_counted harr hbody hdst hon (arrivalBad_present hd h0)
    have hquiet := endsQuietly_arrivalDone (countArrival (dropMsg s i) a) a
    rw [countArrival_both (s := dropMsg s i) hd hN h1] at hexec hquiet
    let s1 := counted0 (dropMsg s i) a
    have hbar1 : s1.bar a.bar = { x with cnt0 := x.cnt0 + 1, scope0 := min x.scope0 a.scope } := bar_counted0
    have hbar2 : (releaseOne s1 a.bar).bar a.bar = { gen := (x.gen + 1) % 4, cnt0 := x.cnt1, cnt1 := 0, scope0 := x.scope1, scope1 := 2 } := by
      rw [bar_releaseOne, if_pos rfl, hbar1]
      rfl
    have hsig1 : signalMsgs s1 a.bar = [] := if_neg (fun h => Bool.false_ne_true (hsig.symm.trans h))
    have hsig2 : signalMsgs (releaseOne s1 a.bar) a.bar = [] :=
      if_neg (fun h => Bool.false_ne_true (hsig.symm.trans ((congrArg (fun w => bit w 24) (barCfg_releaseOne s1 a.bar a.bar)).symm.trans h)))
    have hgen : (releaseOne s1 a.bar).gen = s.gen := by
      rw [releaseOne_eq]
      rfl
    let ks1 := releaseMsgs (dropMsg s i) a.bar x.gen (min x.scope0 a.scope) false
    let ks2 := releaseMsgs (releaseOne s1 a.bar) a.bar ((x.gen + 1) % 4) x.scope1 false
    have hnet1 : (releaseOne s1 a.bar).prom.net = s.prom.net.eraseIdx i ++ ks1 := by
      rw [releaseOne_eq, hsig1, hbar1, List.append_nil]
      rfl
    refine ⟨_, ks1 ++ ks2, hexec, ?_, ?_, ?_, fun t ht => ⟨?_, ?_⟩⟩
    · rw [hquiet.bar, bar_releaseOne, if_pos rfl, hbar2, nextGen, Nat.mod_add_mod]
    · rw [hquiet.prom, releaseOne_eq (releaseOne s1 a.bar), hsig2, hbar2, List.append_nil, ← List.append_assoc, ← hnet1]
    · rw [List.length_append, length_releaseMsgs, length_releaseMsgs, hgen]
      exact (two_mul _).symm
    · obtain ⟨k, hk, hto⟩ := mem_releaseMsgs (s := dropMsg s i) ht a.bar x.gen (min x.scope0 a.scope) false
      exact ⟨k, List.mem_append_left _ hk, hto⟩
    · obtain ⟨k, hk, hto⟩ := mem_releaseMsgs (s := releaseOne s1 a.bar) (hgen.symm ▸ ht) a.bar ((x.gen + 1) % 4) x.scope1 false
      exact ⟨k, List.mem_append_right _ hk, hto⟩

theorem overrunNotCounted : Claims.OverrunNotCounted := by
  intro s i m a harr hbody hdst hon hbad
  have hbad' : arrivalBad (dropMsg s i) a = true := by
    have hbad0 : arrivalBad s a = true := by
      rw [arrivalBad]
      simp only [Bool.or_eq_true, Bool.and_eq_true, decide_eq_true_eq, or_assoc]
      exact hbad
    exact hbad0
  have hexec : exec (.barrierArrival i) s = .next (postSmall (noteOverrun (dropMsg s i) a) .lodge .band (.tile a.tile) (.overrun a)) :=
    (exec_barrierArrival harr hbody hdst hon).trans (congrArg Host.Outcome.next (if_pos hbad'))
  rw [postSmall_eq] at hexec
  refine ⟨_, _, hexec, rfl, rfl, ?_, fun hv => if_pos hv, rfl, rfl, rfl, rfl⟩
  change bit (if bit s.band.err 31 then s.band.err else _) 31 = true
  split
  · assumption
  · simp only [bit_or, Bool.or_eq_true, or_assoc]
    exact Or.inl rfl

/-- Settles O42: where an arrival is counted, what its count releases, and where it is an overrun. -/
theorem barrierArrivals : Obligations.BarrierArrivals := by
  unfold Obligations.BarrierArrivals
  exact ⟨arrivalCounts, arrivalsAhead, overrunNotCounted⟩

end Sys2Proof.Proofs

end

section
/-! PROOF. The timebase: ticks, steps, loads and the timebase port (R214–R221, R414). -/

namespace Sys2Proof.Proofs

open Sys2Proof Sys2Proof.Machine

/-! ## What a move of the counter leaves -/

theorem lodge_moveTime (s : State) (v : DWord) : (moveTime s v).lodge = s.lodge := by
  by_cases h : s.pg.valid = true <;> simp [moveTime, mapLaunches, h]

/-- A signed amount is added modulo 2^64. -/
theorem addI_toInt {n : Nat} (a : DWord) (d : BitVec n) : addI a d.toInt = a + d.signExtend 64 := by
  apply BitVec.eq_of_toNat_eq
  simp only [addI, BitVec.toNat_ofNat, BitVec.toNat_add, BitVec.signExtend, BitVec.toNat_ofInt]
  have ha := a.isLt
  generalize d.toInt = i
  push_cast
  omega

theorem plainTick_due {s : State} (ht : pgTicks s = true) (hk : tickKind s = .plain) : plainTick s =
    moveTime { s with pg := { s.pg with slewCnt := if s.pg.owed = 0 then 0 else s.pg.slewCnt + 1 } } (s.pg.time + 4) :=
  if_pos (by rw [ht, hk]; rfl)

/-! ## A step, and a load that counts as one (R216, R220) -/

/-- What a counted step leaves: one more in STEPS, and TB_STEP. -/
theorem pg_countStep (s : State) : (countStep s).pg = { s.pg with steps := satInc s.pg.steps } := raise_pg ..

theorem heard_countStep {s s0 : State} (hgate : s0.gate = s.gate) (hcpc : s0.cpc = s.cpc) (hgen : s0.gen = s.gen) :
    Heard s (countStep s0) 3 0 0 0 0 := heard_raise_from (s0 := { s0 with pg := { s0.pg with steps := satInc s0.pg.steps } })
      hgate hcpc hgen 0 0 0 0 (by decide)

/-- The state in which a due step is counted. -/
def stepped (s : State) (d : BitVec 32) : State :=
  let u := mapLaunches s (fun _ la => la.step)
  { u with pg := { s.pg with stepDue := none, slewCnt := 0, lastFsync := addI s.pg.lastFsync d.toInt
                             time := addI (s.pg.time + 4) d.toInt, srcIn := s.pg.src } }

theorem stepTick_due {s : State} {d : BitVec 32} (ht : pgTicks s = true) (hk : tickKind s = .step) (hd : s.pg.stepDue = some d) :
    stepTick s = countStep (stepped s d) := by
  rw [stepTick, if_pos (by rw [ht, hk]; rfl), hd]
  rfl

theorem stepTick_not_due {s : State} (hk : tickKind s ≠ .step) : stepTick s = s := by
  simp [stepTick, hk]

theorem loadTick_not_due {s : State} (hk : tickKind s ≠ .load) : loadTick s = s := by
  simp [loadTick, hk]

/-- The state in which a load without STEP_EN is ignored. -/
def loadDropped (s : State) : State := { s with pg := { s.pg with loadReq := false, todDue := none, srcIn := s.pg.src } }

/-- The registers and held launches after the first load. -/
def firstLoaded (s : State) : State :=
  let u := { s with pg := loaded s.pg (loadValue s) }
  { u with tiles := u.tiles.map (fun p => (p.1, Tile.firstLoad u p.2)) }

section
variable {s : State} (hon : pgOn s = true) (hrun : s.pg.running = true) (hk : tickKind s = .load)
include hon hrun hk

theorem loadTick_first (hf : s.pg.frozen = false) (hv : s.pg.valid = false) : loadTick s = firstLoaded s := by
  simp only [loadTick, hon, hrun, hk, hf, hv, decide_true, Bool.and_self, if_true, Bool.false_eq_true, false_and, or_self, if_false]
  rfl

theorem loadTick_later (h : s.pg.frozen = true ∨ (s.pg.valid = true ∧ s.pg.stepEn = true)) :
    loadTick s = countStep (firstLoaded (mapLaunches s (fun _ la => la.step))) := by
  simp only [loadTick, hon, hrun, hk, h, decide_true, Bool.and_self, if_true]
  rfl

theorem loadTick_ignored (hf : s.pg.frozen = false) (hv : s.pg.valid = true) (hen : s.pg.stepEn = false) :
    loadTick s = pgAlarm (loadDropped s) .loadign := by
  rw [loadTick, if_pos (by rw [hon, hrun, hk]; rfl)]
  dsimp only
  rw [if_neg (by simp [hf, hen]), if_pos hv]
  rfl

end

theorem ticks_iff {s : State} : pgTicks s = true ↔ pgOn s = true ∧ s.pg.running = true ∧ s.pg.frozen = false := by
  simp only [pgTicks, Bool.and_eq_true, Bool.not_eq_true', and_assoc]

/-- Settles O45: the tick that is due moves the counter, and every other leaves the state. -/
theorem ticksAndSteps : Obligations.TicksAndSteps := by
  unfold Obligations.TicksAndSteps
  intro s ht heard
  obtain ⟨hon, hrun, -⟩ := ticks_iff.mp ht
  have heard_of {u : State} (h : Heard s u 3 0 0 0 0) : heard u := fun hactive hclock => (h hactive hclock).1
  have hexecTick : exec .tbTick s = .next (plainTick s) := rfl
  have hexecStep : exec .step s = .next (stepTick s) := rfl
  have hexecLoad : exec .timebaseLoad s = .next (loadTick s) := rfl
  refine ⟨fun hk => ⟨_, hexecTick, ?_⟩, fun d hk hd => ⟨_, hexecStep, ?_⟩, fun hk hv hen => ⟨_, hexecLoad, ?_⟩, fun c k hck hne => ?_⟩
  · rw [plainTick_due ht hk, pg_moveTime]
    exact ⟨rfl, rfl, spad_moveTime .., prom_moveTime .., lodge_moveTime ..⟩
  · rw [stepTick_due ht hk hd]
    refine ⟨?_, rfl, ?_, ?_, ?_, heard_of (heard_countStep rfl rfl rfl), raise_spad .., raise_prom ..⟩
    · rw [pg_countStep]
      exact addI_toInt ..
    all_goals
      rw [pg_countStep]
      rfl
  · rw [loadTick_later hon hrun hk (Or.inr ⟨hv, hen⟩)]
    refine ⟨?_, heard_of (heard_countStep rfl rfl rfl), raise_spad ..⟩
    rw [pg_countStep]
    rfl
  · simp only [List.mem_cons, Prod.mk.injEq, List.not_mem_nil, or_false] at hck
    obtain ⟨rfl, rfl⟩ | ⟨rfl, rfl⟩ | ⟨rfl, rfl⟩ | ⟨rfl, rfl⟩ := hck
    · exact congrArg Host.Outcome.next (plainTick_not_due ht hne)
    · exact congrArg Host.Outcome.next (adjustTick_not_due hne)
    · exact congrArg Host.Outcome.next (stepTick_not_due hne)
    · exact congrArg Host.Outcome.next (loadTick_not_due hne)

/-! ## Alarms (R216, R218, R221) -/

/-- The flag that an alarm sets. -/
def flagged (p : Pergola) : Alarm → Pergola
  | .fsmiss => { p with fsmiss := true }
  | .bigerr => { p with bigerr := true }
  | .loadign => { p with loadign := true }

theorem pg_pgAlarm (s : State) (a : Alarm) : (pgAlarm s a).pg = flagged { s.pg with alarmOcc := satInc s.pg.alarmOcc } a := by
  cases a <;> exact raise_pg ..

theorem heard_pgAlarm {s s0 : State} (hgate : s0.gate = s.gate) (hcpc : s0.cpc = s.cpc) (hgen : s0.gen = s.gen) (a : Alarm) :
    Heard s (pgAlarm s0 a) 4 0 0 0 0 := by
  cases a with
  | fsmiss =>
    exact heard_raise_from (s0 := { s0 with pg := flagged { s0.pg with alarmOcc := satInc s0.pg.alarmOcc } .fsmiss }) hgate hcpc hgen
      0 0 0 0 (by decide)
  | bigerr =>
    exact heard_raise_from (s0 := { s0 with pg := flagged { s0.pg with alarmOcc := satInc s0.pg.alarmOcc } .bigerr }) hgate hcpc hgen
      0 0 0 0 (by decide)
  | loadign =>
    exact heard_raise_from (s0 := { s0 with pg := flagged { s0.pg with alarmOcc := satInc s0.pg.alarmOcc } .loadign }) hgate hcpc hgen
      0 0 0 0 (by decide)

theorem loadSetsTime : Claims.LoadSetsTime := by
  intro s hon hrun hk v
  have hexec : exec .timebaseLoad s = .next (loadTick s) := rfl
  refine ⟨fun hf hv => ⟨_, hexec, ?_⟩, fun hstep => ⟨_, hexec, ?_⟩, fun hf hv hen => ⟨_, hexec, ?_⟩⟩
  · rw [loadTick_first hon hrun hk hf hv]
    exact ⟨rfl, rfl, rfl, rfl, rfl, rfl, rfl⟩
  · rw [loadTick_later hon hrun hk hstep, pg_countStep]
    exact ⟨rfl, rfl, rfl, rfl, rfl⟩
  · rw [loadTick_ignored hon hrun hk hf hv hen]
    refine ⟨?_, ?_, ?_, ?_, ?_, heard_pgAlarm (s := s) (s0 := loadDropped s) rfl rfl rfl .loadign⟩
    all_goals
      rw [pg_pgAlarm]
      rfl

/-! ## The measured error (R218) -/

/-- The error is the distance from a frame boundary, and that is the nearest. -/
theorem frameErr_spec (s : State) : (∃ k : Int, (s.pg.time - s.pg.frameRef).toInt = 19660800 * k + frameErr s)
    ∧ -9830400 ≤ frameErr s ∧ frameErr s < 9830400 := by
  unfold frameErr diffI frameTc
  dsimp only
  generalize (s.pg.time - s.pg.frameRef).toInt = x
  split
  · exact ⟨⟨x / 19660800, by omega⟩, by omega, by omega⟩
  · exact ⟨⟨x / 19660800 + 1, by omega⟩, by omega, by omega⟩

/-- The state with the error measured and no correction chosen. -/
def measured (s : State) (e : Int) : State :=
  { s with pg := { s.pg with err := BitVec.ofInt 32 e, stepDue := none, owed := 0, slewCnt := 0 } }

/-- The state with a slew chosen. -/
def slewing (s : State) (e : Int) : State :=
  { measured s e with pg := { (measured s e).pg with owed := BitVec.ofInt 32 (-e) } }

section
variable {s : State} {e : Int}

theorem correct_small (h : e.natAbs ≤ deadband s) : correct s e = measured s e := if_pos h

theorem correct_slew (h : deadband s < e.natAbs) (hlim : e.natAbs ≤ s.pg.slewLim.toNat) : correct s e = slewing s e := by
  rw [correct, if_neg (by exact h.not_ge), if_pos (Or.inl hlim), if_neg hlim.not_gt]
  rfl

theorem correct_bigerr (h : deadband s < e.natAbs) (hlim : s.pg.slewLim.toNat < e.natAbs) (hen : s.pg.stepEn = false) :
    correct s e = pgAlarm (slewing s e) .bigerr := by
  rw [correct, if_neg (by exact h.not_ge), if_pos (Or.inr (by rw [hen]; rfl)), if_pos hlim]
  rfl

theorem correct_step (h : deadband s < e.natAbs) (hlim : s.pg.slewLim.toNat < e.natAbs) (hen : s.pg.stepEn = true) :
    correct s e = { measured s e with pg := { (measured s e).pg with stepDue := some (BitVec.ofInt 32 (-e)) } } := by
  rw [correct, if_neg (by exact h.not_ge), if_neg (by simp [hen, hlim])]
  rfl

/-- Whatever the correction, the error is shown and the counter stays. -/
theorem correct_keeps (s : State) (e : Int) : (correct s e).pg.err = BitVec.ofInt 32 e ∧ (correct s e).pg.time = s.pg.time := by
  unfold correct
  dsimp only
  split
  · exact ⟨rfl, rfl⟩
  · split
    · split
      · rw [pg_pgAlarm]
        exact ⟨rfl, rfl⟩
      · exact ⟨rfl, rfl⟩
    · exact ⟨rfl, rfl⟩

end

/-! ## The edge of TB_FSYNC -/

/-- The state with the edge noted. -/
def edgeNoted (s : State) : State := { s with pg := { s.pg with lastFsync := s.pg.time, missed := false } }

theorem fsyncStep_captured {s : State} {v : DWord} (hon : pgOn s = true) (hsrc : s.pg.srcIn = 1) (htod : s.pg.tod = some v) :
    fsyncStep s = { s with pg := { s.pg with tod := none, todDue := some v, lastFsync := s.pg.time, missed := false } } := by
  simp only [fsyncStep, hon, hsrc, htod, decide_true, Bool.and_self, if_true]

theorem fsyncStep_measures {s : State} (hon : pgOn s = true) (hsrc : s.pg.srcIn = 1) (htod : s.pg.tod = none) (hv : s.pg.valid = true)
    (hen : s.pg.discEn = true) : fsyncStep s = correct (edgeNoted s) (frameErr s) := by
  rw [fsyncStep, if_pos (by rw [hon, hsrc]; rfl), htod]
  dsimp only
  rw [if_pos hv, if_pos hen]
  rfl

theorem timebasePort : Claims.TimebasePort := by
  intro s
  have hedge : exec .tbFsync s = .next (fsyncStep s) := rfl
  refine ⟨fun tod hon hsrc => ?_, fun tod hsrc => ?_, fun v hon hsrc htod => ?_, fun hon hsrc htod hv hen => ?_,
    fun hon hrun hf hk => ?_, fun v hreach => ?_, fun hon hsrc hv hm hlate => ?_, fun ht => ?_⟩
  · refine congrArg Host.Outcome.next ?_
    rw [todStep, if_pos (by rw [hon, hsrc]; rfl)]
  · refine congrArg Host.Outcome.next ?_
    rw [todStep, if_neg (fun h => hsrc (of_decide_eq_true (Bool.and_elim_right h)))]
  · rw [hedge, fsyncStep_captured hon hsrc htod]
    exact ⟨_, rfl, rfl, rfl, rfl, rfl⟩
  · rw [hedge, fsyncStep_measures hon hsrc htod hv hen]
    obtain ⟨herr, htime⟩ := correct_keeps (edgeNoted s) (frameErr s)
    obtain ⟨hk, hlo, hhi⟩ := frameErr_spec s
    refine ⟨_, rfl, herr, htime, hk, hlo, hhi, fun h => ?_, fun h hlim => ?_, fun h hlim hstep => ?_, fun h hlim hstep => ?_⟩
    · rw [correct_small (s := edgeNoted s) h]
      exact ⟨rfl, rfl⟩
    · rw [correct_slew (s := edgeNoted s) h hlim]
      exact ⟨rfl, rfl, rfl⟩
    · rw [correct_bigerr (s := edgeNoted s) h hlim hstep, pg_pgAlarm]
      exact ⟨rfl, rfl, rfl, rfl, heard_pgAlarm (s := s) (s0 := slewing (edgeNoted s) (frameErr s)) rfl rfl rfl .bigerr⟩
    · rw [correct_step (s := edgeNoted s) h hlim hstep]
      exact ⟨rfl, rfl⟩
  · refine congrArg Host.Outcome.next ?_
    have hticks : pgTicks s = false := by rw [pgTicks, hf, Bool.not_true, Bool.and_false]
    simp only [plainTick, hticks, hon, hrun, hf, hk, Bool.false_and, Bool.false_eq_true, if_false, Bool.and_self, ne_eq,
      not_false_eq_true, decide_true, if_true]
  · have hexec : exec (.pgLoad v) s = .next (wrote { s with pg := pgCtrlWrite s.pg (withBit v 31) } false) :=
      congrArg Host.Outcome.next (hostWrite_reached hreach nofun rfl)
    refine ⟨_, hexec, rfl, ?_, ?_, ?_, rfl⟩
    · have hload : bit (withBit v 31) 31 = true := by simp [withBit, bit_putBit]
      exact congrArg (fun b => s.pg.loadReq || b) (by rw [hload, Bool.true_and])
    · exact (bit_putBit v (by decide) true 30).trans (if_neg (by decide))
    · exact (bit_putBit v (by decide) true 29).trans (if_neg (by decide))
  · have hstep : exec .fsmiss s = .next (pgAlarm { s with pg := { s.pg with missed := true } } .fsmiss) := by
      refine congrArg Host.Outcome.next (if_pos ?_)
      rw [hon, hsrc, hv, hm]
      exact decide_eq_true hlate
    refine ⟨_, hstep, ?_, ?_, ?_,
      heard_pgAlarm (s := s) (s0 := { s with pg := { s.pg with missed := true } }) rfl rfl rfl .fsmiss⟩
    all_goals
      rw [pg_pgAlarm]
      rfl
  · let s0 := { s with pg := { s.pg with frozen := true } }
    have hstep : exec .tbMismatch s = .next (klog s0 .unrecovered .tbMismatch luPergola {}) := congrArg Host.Outcome.next (if_pos ht)
    refine ⟨_, hstep, ?_, ?_, fun hclock => ?_, klog_tiles ..⟩
    · rw [klog_pg]
    · rw [klog_pg]
    · have hruns : keeperRuns s0 = true := by simpa [keeperRuns] using hclock
      have hlog : klog s0 .unrecovered .tbMismatch luPergola {} =
          raiseFault (logEntry s0 .unrecovered .tbMismatch luPergola {}) s.keeper.next .tbMismatch luPergola {} := by
        simp only [klog, hruns, Bool.not_true, Bool.false_eq_true, if_false]
        rfl
      refine ⟨?_, logged_klog_unrecovered hruns .tbMismatch luPergola {}, ?_⟩
      · rw [hlog, raiseFault, raise_keeper]
        rfl
      · rw [hlog]
        exact heard_raise_from (s0 := logEntry s0 .unrecovered .tbMismatch luPergola {}) rfl rfl rfl 0 0 0 _ (by decide)

/-- Settles O46: what a load sets, and what the port's events choose. -/
theorem timebaseLoads : Obligations.TimebaseLoads := by
  unfold Obligations.TimebaseLoads
  exact ⟨loadSetsTime, timebasePort⟩

end Sys2Proof.Proofs

end

section
/-! PROOF. Turnstiles: the order of the grants, the flit that moves, and starvation (R24, R293–R305). -/

namespace Sys2Proof.Proofs

open Sys2Proof Sys2Proof.Machine

/-! ## The order of R300 -/

/-- The order by which the grants go: slack, then priority, then round robin after the last winner. -/
theorem beats_iff {last : Nat} {a b : Cand} : beats last a b = true ↔ a.slack < b.slack ∨ (a.slack = b.slack ∧ (b.prio < a.prio
    ∨ (a.prio = b.prio ∧ (a.id + candMod - last - 1) % candMod < (b.id + candMod - last - 1) % candMod))) := by
  simp only [beats, Bool.or_eq_true, Bool.and_eq_true, decide_eq_true_eq]

/-- Where neither of two steps of a comparison is a win, their composition is none. -/
theorem not_beats_trans {last : Nat} {a b c : Cand} (hab : ¬ beats last a b = true) (hbc : ¬ beats last b c = true) :
    ¬ beats last a c = true := by
  rw [beats_iff] at hab hbc ⊢
  generalize (a.id + candMod - last - 1) % candMod = x at *
  generalize (b.id + candMod - last - 1) % candMod = y at *
  generalize (c.id + candMod - last - 1) % candMod = z at *
  omega

theorem not_beats_of_beats {last : Nat} {a b : Cand} (h : beats last a b = true) : ¬ beats last b a = true := by
  rw [beats_iff] at h ⊢
  omega

theorem not_beats_self (last : Nat) (a : Cand) : ¬ beats last a a = true := by
  rw [beats_iff]
  omega

/-- The chosen requester is one of them, and none beats it. -/
theorem bestCand_unbeaten {last : Nat} {cs : List Cand} {w : Cand} (h : bestCand last cs = some w) :
    w ∈ cs ∧ ∀ c ∈ cs, ¬ beats last c w = true := by
  induction cs generalizing w with
  | nil => cases h
  | cons d cs ih =>
    rw [bestCand] at h
    split at h
    next hnone =>
      obtain rfl : d = w := by injection h
      have hnil : cs = [] := by
        cases cs with
        | nil => rfl
        | cons e es =>
          rw [bestCand] at hnone
          split at hnone
          · cases hnone
          · split at hnone <;> cases hnone
      subst hnil
      exact ⟨List.mem_singleton.mpr rfl, fun c hc => List.mem_singleton.mp hc ▸ not_beats_self last d⟩
    next e he =>
      obtain ⟨hmem, hmin⟩ := ih he
      split at h
      next hbeats =>
        obtain rfl : e = w := by injection h
        refine ⟨List.mem_cons_of_mem _ hmem, fun c hc => ?_⟩
        rcases List.mem_cons.mp hc with rfl | hc
        · exact not_beats_of_beats hbeats
        · exact hmin c hc
      next hnot =>
        obtain rfl : d = w := by injection h
        refine ⟨List.mem_cons_self, fun c hc => ?_⟩
        rcases List.mem_cons.mp hc with rfl | hc
        · exact not_beats_self last c
        · exact not_beats_trans (hmin c hc) hnot

theorem bestCand_some {last : Nat} {cs : List Cand} (h : cs ≠ []) : ∃ w, bestCand last cs = some w := by
  cases cs with
  | nil => exact absurd rfl h
  | cons d cs =>
    rw [bestCand]
    split
    · exact ⟨_, rfl⟩
    · split <;> exact ⟨_, rfl⟩

theorem turnstileOrder : Claims.TurnstileOrder := by
  intro last cs
  refine ⟨bestCand_some, fun w hw => ?_⟩
  obtain ⟨hmem, hmin⟩ := bestCand_unbeaten hw
  refine ⟨hmem, fun c hc => ?_⟩
  have hnot := hmin c hc
  rw [beats_iff] at hnot
  exact ⟨by omega, fun hs => by omega, fun hs hp => by omega⟩

/-! ## One flit at a point -/

@[simp] theorem pointSt_setPoint (s : State) (p : Point) (v : PointSt) : pointSt (setPoint s p v) p = v := by
  have hnone : (s.turn.points.filter (fun q => decide (q.1 ≠ p))).find? (fun q => decide (q.1 = p)) = none := by
    simp [List.find?_eq_none]
  simp only [pointSt, setPoint, List.find?_append, hnone, Option.none_or, List.find?_cons, decide_true, Option.map_some, Option.getD_some]

theorem ranked_one {last n : Nat} (c : Cand) : ranked last (n + 1) [c] = [c] := by
  have hnone : ranked last n [] = [] := by cases n <;> rfl
  have hbest : bestCand last [c] = some c := rfl
  rw [ranked, hbest]
  simp only [ne_eq, not_true_eq_false, decide_false, Bool.false_eq_true, not_false_eq_true, List.filter_cons_of_neg, List.filter_nil,
    hnone]

theorem ranked_none (last n : Nat) : ranked last n [] = [] := by cases n <;> rfl

/-- A flit that has its start ready is the only one that waits at the point. -/
structure Alone (s : State) (p : Point) (m : Msg) : Prop where
  net : s.prom.net = [m]
  head : m.route.head? = some p
  ready : flitReady s p (0, m) = true

section
variable {s : State} {p : Point} {m : Msg} (h : Alone s p m)
include h

theorem Alone.flitHeads : flitHeads s p = [(0, m)] := by
  have hwaits : waitsAt p m = true := decide_eq_true h.head
  simp only [Machine.flitHeads, h.net, heads, hwaits, List.contains_nil, Bool.not_false, if_true, List.filter_cons,
    h.ready, List.filter_nil, and_self]

/-- With no index read waiting, it is the only requester. -/
theorem Alone.pointCands (hidx : indexCands s p = []) : pointCands s p = [m.cand s] := by
  rw [Machine.pointCands, h.flitHeads, hidx]
  rfl

/-- The decision of a cycle goes to it. -/
theorem Alone.pointOrder (hidx : indexCands s p = []) (last age n : Nat) : pointOrder s p last age (n + 1) = [m.queue] := by
  unfold Machine.pointOrder
  dsimp only
  rw [h.flitHeads]
  split
  · cases hcls : m.cls <;> by_cases hage : 15 ≤ age <;>
      simp [hcls, hage, ranked_one, ranked_none, Msg.cand, List.eraseDups_cons]
  · rw [h.pointCands hidx, ranked_one]
    rfl

/-- What the turnstiles account does not touch it. -/
theorem Alone.granted {u : State} (hg : Granted s u) : Alone u p m where
  net := by rw [hg.prom, h.net]
  head := h.head
  ready := by
    rw [hg.state]
    exact h.ready

end

/-! ## A cycle of a point of the promenade -/

/-- A point outside the tiles' own turnstiles has the cycle of the promenade. -/
theorem grantStep_point (s : State) {p : Point} (h : ∀ t, p ≠ .readIssue t ∧ p ≠ .writeIssue t ∧ p ≠ .datapath t) :
    grantStep s p = pointStep s p := by
  cases p with
  | readIssue t => exact absurd rfl (h t).left
  | writeIssue t =>
    obtain ⟨-, hw, -⟩ := h t
    exact absurd rfl hw
  | datapath t =>
    obtain ⟨-, -, hd⟩ := h t
    exact absurd rfl hd
  | tileOut t => rfl
  | pavOut q e => rfl
  | bank t b => rfl
  | sysPort n => rfl
  | winPort l => rfl

/-- The state at the end of a cycle in which the requesters `took` started and the accounts left `s1`. -/
def cycled (s s1 : State) (p : Point) (took : List Nat) : State :=
  let q1 := pointSt s1 p
  let ctl := (flitHeads s p).any (fun h => decide (h.2.cls = .control))
  let age := if ctl && !took.any (fun k => decide (k % 4 = 3)) then (pointSt s p).ctlAge + 1 else 0
  setPoint s1 p { q1 with granted := pointOrder s p q1.last age (mostStarts s p + 1), ctlAge := age, half := leftOver s p took.length }

/-- Where nothing was decided, nothing starts. -/
theorem pointStep_undecided {s : State} {p : Point} (hup : linkUp s p = true) (hnone : (pointSt s p).granted = []) :
    pointStep s p = cycled s s p [] := by
  have hsend : sendStarts p (startsOf s p) [] [] s = (s, []) := by cases startsOf s p <;> rfl
  simp only [pointStep, hup, Bool.not_true, Bool.false_eq_true, if_false, hnone, hsend]
  rfl

/-- Where one requester was decided and takes its start, it is accounted and goes. -/
theorem pointStep_started {s : State} {p : Point} {k : Nat} (hup : linkUp s p = true) (hdec : (pointSt s p).granted = [k])
    (hstarts : startsOf s p ≠ 0) (hk : (pointCands s p).any (fun c => decide (c.id = k)) = true) :
    pointStep s p = cycled s (startOne (accountGrant s p k (pointCands s p)) p k) p [k] := by
  obtain ⟨n, hn⟩ := Nat.exists_eq_succ_of_ne_zero hstarts
  have hall : (pointCands s p).filter (fun c => !([] : List Nat).contains c.id) = pointCands s p :=
    List.filter_eq_self.mpr (fun _ _ => rfl)
  have hrest (v : State) : sendStarts p n [] [k] v = (v, [k]) := by cases n <;> rfl
  have hsend : sendStarts p (n + 1) [k] [] s = (startOne (accountGrant s p k (pointCands s p)) p k, [k]) := by
    simp only [sendStarts, hall, hk, if_true, List.nil_append, hrest]
  simp only [pointStep, hup, Bool.not_true, Bool.false_eq_true, if_false, hdec, hn, hsend]
  rfl

/-- Where one requester was decided and has nothing to send, the grant is accounted and nothing starts. -/
theorem pointStep_unused {s : State} {p : Point} {w : Nat} (hup : linkUp s p = true) (hdec : (pointSt s p).granted = [w])
    (hw : (pointCands s p).any (fun c => decide (c.id = w)) = false) :
    pointStep s p = cycled s (accountGrant s p w (pointCands s p)) p [] := by
  have hall : (pointCands s p).filter (fun c => !([] : List Nat).contains c.id) = pointCands s p :=
    List.filter_eq_self.mpr (fun _ _ => rfl)
  have hsend : sendStarts p (startsOf s p) [w] [] s = (s, []) := by
    cases startsOf s p with
    | zero => rfl
    | succ n => simp only [sendStarts, hall, hw, Bool.false_eq_true, if_false]
  simp only [pointStep, hup, Bool.not_true, Bool.false_eq_true, if_false, hdec, hsend]
  rfl

/-! ## The accounts of a grant -/

theorem points_setTile (s : State) (t : Nat) (x : Tile) (p : Point) : pointSt (s.setTile t x) p = pointSt s p := rfl

theorem turn_noteWaits (s : State) (p : Point) (w : Nat) (cs : List Cand) : (noteWaits s p w cs).turn = s.turn := by
  unfold noteWaits
  split <;> rfl

theorem gate_noteWaits (s : State) (p : Point) (w : Nat) (cs : List Cand) : (noteWaits s p w cs).gate = s.gate := by
  unfold noteWaits
  split <;> rfl

/-- `TS_STARVE` after requester `c` has starved at the point (R305). -/
def starved (old : Word) (p : Point) (c : Cand) : Word :=
  let k := pointCode p
  putFld (if bit old 31 then old else 0x80000000 ||| atN k.1 28 ||| atN k.2.1 22 ||| atN c.kind 20 ||| atN (c.rtile % 32) 15
    ||| atN c.rstream 12 ||| atN k.2.2 8) 7 0 (min 255 (fld old 7 0 + 1))

theorem turn_starve (s : State) (p : Point) (c : Cand) : (starve s p c).turn =
    { s.turn with starve := starved s.turn.starve p c, starveCount := satInc s.turn.starveCount } := by
  unfold starve
  dsimp only
  split
  · exact raise_turn ..
  · rfl

/-- The raising of starvation leaves the points as they are. -/
theorem pointSt_starves (cs : List Cand) (p q : Point) (s : State) : pointSt (cs.foldl (fun s c => starve s p c) s) q = pointSt s q := by
  induction cs generalizing s with
  | nil => rfl
  | cons c cs ih =>
    rw [List.foldl_cons, ih, pointSt, turn_starve]
    rfl

theorem pointSt_congr {s u : State} (h : u.turn = s.turn) (p : Point) : pointSt u p = pointSt s p := by
  rw [pointSt, h]
  rfl

/-- The winner of a grant is the last winner of the point. -/
theorem last_accountGrant (s : State) (p : Point) (w : Nat) (cs : List Cand) : (pointSt (accountGrant s p w cs) p).last = w := by
  unfold accountGrant
  dsimp only
  rw [pointSt_starves, pointSt_congr (turn_noteWaits ..), pointSt_setPoint]

theorem granted_cycled (s s1 : State) (p : Point) (took : List Nat) : Granted s1 (cycled s s1 p took) := granted_setPoint ..

/-- A flit that takes its start leaves the tiles, the memory and the turnstiles' state as they are. -/
theorem startOne_flit {s : State} {p : Point} {m : Msg} (h : Alone s p m) :
    startOne s p m.queue = { s with prom := { s.prom with net := sendFlit p [m] 0 m } } := by
  rw [startOne, h.flitHeads, List.find?_cons_of_pos (by exact decide_eq_true rfl)]
  simp only [h.net]

/-! ## TURNSTILE_GRANT at a point where one flit waits -/

theorem exec_turnstileGrant {s : State} {p : Point} (h : ∀ t, p ≠ .readIssue t ∧ p ≠ .writeIssue t ∧ p ≠ .datapath t) :
    exec (.turnstileGrant p) s = .next (pointStep s p) := congrArg Host.Outcome.next (grantStep_point s h)

theorem grantMovesFlit : Claims.GrantMovesFlit := by
  refine ⟨fun s p m rest hnet hroute hup hready hpoint => ?_, fun s i m hm hroute => ⟨fun hfloor => ?_, fun hfloor => ?_⟩⟩
  · have halone : Alone s p m := ⟨hnet, by rw [hroute]; rfl, hready⟩
    have hexec := exec_turnstileGrant (s := s) hpoint
    refine ⟨fun hnone => ?_, fun hdec hstarts => ?_⟩
    · rw [pointStep_undecided hup hnone] at hexec
      refine ⟨_, hexec, rfl, rfl, rfl, fun hidx => ?_⟩
      rw [cycled, pointSt_setPoint]
      exact halone.pointOrder hidx ..
    · have hcand : (pointCands s p).any (fun c => decide (c.id = m.queue)) = true := by
        rw [pointCands, halone.flitHeads]
        simp [Msg.cand]
      rw [pointStep_started hup hdec hstarts hcand] at hexec
      have hacc := granted_accountGrant s p m.queue (pointCands s p)
      have hlast := last_accountGrant s p m.queue (pointCands s p)
      have hstart := startOne_flit (halone.granted hacc)
      rw [hstart] at hexec
      let s1 := accountGrant s p m.queue (pointCands s p)
      let s2 := { s1 with prom := { s1.prom with net := sendFlit p [m] 0 m } }
      have hnet2 : (cycled s s2 p [m.queue]).prom.net = sendFlit p [m] 0 m := rfl
      have htail : m.route.drop 1 = rest := by rw [hroute]; rfl
      refine ⟨_, hexec, hacc.spad, hacc.tile, ?_, fun hbank => ?_, fun hbank hw hall hlt => ?_, fun hbank hw hnot => ?_⟩
      · rw [cycled, pointSt_setPoint]
        exact hlast
      · rw [hnet2, sendFlit, if_pos hbank]
        rfl
      · rw [hnet2, sendFlit, if_neg (by rw [hbank]; exact Bool.false_ne_true), passPoint]
        split
        next ws hws => exact absurd hws (hw ws)
        next =>
          rw [if_pos (by rw [htail, hall, decide_eq_true hlt]; rfl)]
          rfl
      · rw [hnet2, sendFlit, if_neg (by rw [hbank]; exact Bool.false_ne_true), passPoint]
        split
        next ws hws => exact absurd hws (hw ws)
        next =>
          rw [htail, if_neg]
          · rfl
          · rw [Bool.and_eq_true, decide_eq_true_eq]
            rintro ⟨hall, hlt⟩
            rcases hnot with hbad | hlast
            · exact Bool.false_ne_true (hbad.symm.trans hall)
            · omega
  · have hstep : exec (.slackDecrement i) s =
        .next { s with prom := { s.prom with net := s.prom.net.set i { m with slack := m.slack - 1 } } } := by
      refine congrArg Host.Outcome.next ?_
      have hgo : ¬ (m.route.isEmpty = true ∨ m.slack ≤ slackFloor s) := by
        rintro (he | hle)
        · exact hroute (List.isEmpty_iff.mp he)
        · omega
      rw [slackStep, hm]
      exact if_neg hgo
    exact ⟨_, hstep, rfl, rfl⟩
  · refine congrArg Host.Outcome.next ?_
    rw [slackStep, hm]
    exact if_pos (Or.inr hfloor)

/-! ## Starvation (R305) -/

/-- The state with a grant to `w` accounted to the one requester `c` that waits, before starvation is raised; `late` are the requesters
that it is raised for. -/
def booked (s : State) (p : Point) (w : Nat) (c : Cand) (late : List Nat) : State :=
  let q := pointSt s p
  noteWaits (setPoint s p { q with
    last := w, lost := Tab.put [] c.id (Tab.get q.lost 0 c.id + 1)
    raised := (q.raised.filter (fun i => decide (i ≠ w) && [c.id].contains i)) ++ late }) p w [c]

/-- A requester has waited past the limit, and its starvation has not been raised. -/
def overdue (s : State) (p : Point) (c : Cand) : Prop :=
  0 < s.turn.starveLimit.toNat ∧ s.turn.starveLimit.toNat < Tab.get (pointSt s p).lost 0 c.id + 1 ∧ c.id ∉ (pointSt s p).raised

section
variable {s : State} {p : Point} {w : Nat} {c : Cand}

theorem accountGrant_one (hw : c.id ≠ w) (b : Bool) (hb : b = true ↔ overdue s p c) : accountGrant s p w [c] =
    (if b then [c] else []).foldl (fun s c => starve s p c) (booked s p w c ((if b then [c] else []).map (·.id))) := by
  have hlost : ([c].filter (fun c => decide (c.id ≠ w))).foldl
      (fun (tb : Tab Nat) c => Tab.put tb c.id (Tab.get (pointSt s p).lost 0 c.id + 1)) [] =
        Tab.put [] c.id (Tab.get (pointSt s p).lost 0 c.id + 1) := by
    rw [List.filter_cons_of_pos (by exact decide_eq_true hw)]
    rfl
  have hpast : [c].filter (fun d => decide (d.id ≠ w) && decide (0 < s.turn.starveLimit.toNat)
      && decide (s.turn.starveLimit.toNat < Tab.get (Tab.put [] c.id (Tab.get (pointSt s p).lost 0 c.id + 1)) 0 d.id)
      && !(pointSt s p).raised.contains d.id) = if b then [c] else [] := by
    rw [List.filter_cons, List.filter_nil]
    refine if_congr ?_ rfl rfl
    simp only [hb, overdue, Tab.get_put_self, Bool.and_eq_true, decide_eq_true_eq, Bool.not_eq_true', List.contains_eq_mem,
      decide_eq_false_iff_not, hw, ne_eq, not_false_eq_true, true_and, and_assoc]
  unfold accountGrant
  dsimp only
  rw [hlost, hpast]
  rfl

theorem accountGrant_within (hw : c.id ≠ w) (h : ¬ overdue s p c) : accountGrant s p w [c] = booked s p w c [] :=
  accountGrant_one hw false (iff_of_false Bool.false_ne_true h)

theorem accountGrant_past (hw : c.id ≠ w) (h : overdue s p c) : accountGrant s p w [c] = starve (booked s p w c [c.id]) p c :=
  accountGrant_one hw true (iff_of_true rfl h)

theorem pointSt_booked (late : List Nat) : pointSt (booked s p w c late) p = { pointSt s p with
    last := w, lost := Tab.put [] c.id (Tab.get (pointSt s p).lost 0 c.id + 1)
    raised := ((pointSt s p).raised.filter (fun i => decide (i ≠ w) && [c.id].contains i)) ++ late } := by
  rw [booked, pointSt_congr (turn_noteWaits ..), pointSt_setPoint]

theorem granted_booked (late : List Nat) : Granted s (booked s p w c late) := (granted_setPoint ..).trans (granted_noteWaits ..)

theorem pointSt_starve (u : State) (q : Point) : pointSt (starve u p c) q = pointSt u q := pointSt_starves [c] p q u

theorem turn_booked (late : List Nat) : (booked s p w c late).turn = { s.turn with points := (booked s p w c late).turn.points } := by
  rw [booked, turn_noteWaits]
  rfl

theorem heard_starve {s u : State} (hgate : u.gate = s.gate) (hcpc : u.cpc = s.cpc) (hgen : u.gen = s.gen) (hev : u.turn.evEn = true) :
    Heard s (starve u p c) 7 (if c.kind = 0 then c.rtile else 0) c.rstream 0 0 := by
  unfold starve
  dsimp only
  rw [if_pos hev]
  exact heard_raise_from (s := s)
    (s0 := { u with turn := { u.turn with starve := starved u.turn.starve p c, starveCount := satInc u.turn.starveCount } })
    hgate hcpc hgen _ _ _ _ (by decide)

end

/-- `TS_STARVE` of a stream's starvation, where nothing stood in it. -/
theorem starved_stream {old : Word} {p : Point} {c : Cand} (hk : c.kind = 0) (hv : bit old 31 = false) : starved old p c =
    putFld (0x80000000 ||| atN (pointCode p).1 28 ||| atN (pointCode p).2.1 22 ||| atN (c.rtile % 32) 15
      ||| atN c.rstream 12 ||| atN (pointCode p).2.2 8) 7 0 (min 255 (fld old 7 0 + 1)) := by
  have hzero : atN 0 20 = 0#32 := rfl
  unfold starved
  dsimp only
  rw [if_neg (by rw [hv]; exact Bool.false_ne_true), hk, hzero, BitVec.or_zero]

theorem starved_kept {old : Word} {p : Point} {c : Cand} (hv : bit old 31 = true) :
    starved old p c = putFld old 7 0 (min 255 (fld old 7 0 + 1)) := by
  unfold starved
  dsimp only
  rw [if_pos hv]

theorem starvationCaptured : Claims.StarvationCaptured := by
  intro s p m r w hnet hhead hup hready hidx hpoint hbody hw hdec past
  have halone : Alone s p m := ⟨hnet, hhead, hready⟩
  have hcands : pointCands s p = [m.cand s] := halone.pointCands hidx
  have hne : (m.cand s).id ≠ w := fun h => hw h.symm
  have hany : (pointCands s p).any (fun c => decide (c.id = w)) = false := by
    rw [hcands, List.any_cons, List.any_nil, Bool.or_false]
    exact decide_eq_false hne
  have hexec := exec_turnstileGrant (s := s) hpoint
  rw [pointStep_unused hup hdec hany, hcands] at hexec
  have hstarver : m.starver = (0, r.tile, r.stream) := by rw [Msg.starver, hbody]
  have hkind : (m.cand s).kind = 0 := congrArg (fun k : Nat × Nat × Nat => k.1) hstarver
  have htile : (m.cand s).rtile = r.tile := congrArg (fun k : Nat × Nat × Nat => k.2.1) hstarver
  have hstream : (m.cand s).rstream = r.stream := congrArg (fun k : Nat × Nat × Nat => k.2.2) hstarver
  have hacc := granted_accountGrant s p w [m.cand s]
  refine ⟨_, hexec, congrArg Prom.net hacc.prom, hacc.spad, ?_, fun hnot => ?_, fun hlim hmore hnew => ?_⟩
  · rw [cycled, pointSt_setPoint]
    by_cases hover : overdue s p (m.cand s)
    · rw [accountGrant_past hne hover, pointSt_starve, pointSt_booked]
      exact Tab.get_put_self ..
    · rw [accountGrant_within hne hover, pointSt_booked]
      exact Tab.get_put_self ..
  · have hover : ¬ overdue s p (m.cand s) := by
      rintro ⟨hlim, hmore, hnew⟩
      rcases hnot with h0 | hle | hmem
      · rw [h0] at hlim
        exact absurd hlim (by decide)
      · exact absurd hle hmore.not_ge
      · exact hnew hmem
    rw [accountGrant_within hne hover]
    have hturn : (cycled s (booked s p w (m.cand s) []) p []).turn.starve = (booked s p w (m.cand s) []).turn.starve
      ∧ (cycled s (booked s p w (m.cand s) []) p []).turn.starveCount = (booked s p w (m.cand s) []).turn.starveCount := ⟨rfl, rfl⟩
    rw [turn_booked] at hturn
    exact hturn
  · have hover : overdue s p (m.cand s) := ⟨hlim, hmore, hnew⟩
    rw [accountGrant_past hne hover]
    let b := booked s p w (m.cand s) [(m.cand s).id]
    have hturn : (starve b p (m.cand s)).turn.starve = starved s.turn.starve p (m.cand s)
        ∧ (starve b p (m.cand s)).turn.starveCount = satInc s.turn.starveCount := by
      rw [turn_starve, turn_booked]
      exact ⟨rfl, rfl⟩
    obtain ⟨hstarve, hcount⟩ := hturn
    refine ⟨?_, hcount, fun hv => ?_, fun hv => hstarve.trans (starved_kept hv), fun hev => ?_⟩
    · rw [cycled, pointSt_setPoint, pointSt_starve, pointSt_booked]
      exact List.mem_append_right _ (List.mem_singleton.mpr rfl)
    · have hword := hstarve.trans (starved_stream hkind hv)
      rw [htile, hstream] at hword
      exact hword
    · have hbooked : b.turn.evEn = true := (congrArg Turn.evEn (turn_booked ..)).trans hev
      have hheard := heard_starve (s := s) (u := b) (p := p) (c := m.cand s) (gate_noteWaits ..)
        (granted_booked _).cpc (granted_booked _).gen hbooked
      rw [if_pos hkind, htile, hstream] at hheard
      exact hheard

/-- Settles O47: the order of the grants, the one flit that a grant moves, and the account of one that waits. -/
theorem turnstilesGrant : Obligations.TurnstilesGrant := by
  unfold Obligations.TurnstilesGrant
  exact ⟨turnstileOrder, grantMovesFlit, starvationCaptured⟩

end Sys2Proof.Proofs

end

section
/-! SUPPORT. Rings of the gatehouse and its accesses to host memory (R310, R315, R323, R438). -/

namespace Sys2Proof.Proofs

open Sys2Proof Sys2Proof.Machine

/-! ## Changes of the gatehouse alone -/

/-- From `s` to `u` only the gatehouse has changed. -/
structure GateOnly (s u : State) : Prop where
  state : u = { s with gate := u.gate }

theorem GateOnly.rfl {s : State} : GateOnly s s := ⟨Eq.refl s⟩

theorem GateOnly.trans {s u v : State} (h : GateOnly s u) (k : GateOnly u v) : GateOnly s v := ⟨by rw [k.state, h.state]⟩

section
variable {s u : State} (h : GateOnly s u)
include h

theorem GateOnly.prom : u.prom = s.prom := by rw [h.state]
theorem GateOnly.tiles : u.tiles = s.tiles := by rw [h.state]
theorem GateOnly.spad : u.spad = s.spad := by rw [h.state]
theorem GateOnly.gen : u.gen = s.gen := by rw [h.state]
theorem GateOnly.turn : u.turn = s.turn := by rw [h.state]

end

theorem gateOnly_setRing (s : State) (q : Nat) (x : Ring) : GateOnly s (s.setRing q x) := ⟨rfl⟩
theorem gateOnly_raise (s : State) (e t n ring detail : Nat) : GateOnly s (raise s e t n ring detail) := ⟨raise_eq ..⟩
theorem gateOnly_addComp (s : State) (e : EntryRef) (c : CompArgs) : GateOnly s (addComp s e c) := ⟨rfl⟩

theorem gateOnly_ringFlag (s : State) (q b : Nat) : GateOnly s (ringFlag s q b) := by
  unfold ringFlag
  dsimp only
  refine GateOnly.trans ?_ (gateOnly_raise ..)
  exact ⟨rfl⟩

/-- A ring with a flag of `GH_RING<q>_ERR` set. -/
def flaggedRing (r : Ring) (b : Nat) : Ring := { r with flags := putBit r.flags b true, occ := satInc r.occ }

theorem ring_raise (s : State) (e t n r detail k : Nat) : (raise s e t n r detail).ring k = s.ring k := by
  rw [State.ring, rings_raise]
  rfl

theorem ring_ringFlag (s : State) (q b k : Nat) : (ringFlag s q b).ring k = if k = q then flaggedRing (s.ring q) b else s.ring k := by
  unfold ringFlag
  dsimp only
  rw [ring_raise]
  exact Tab.get_put ..

theorem heard_ringFlag {s s0 : State} (hgate : s0.gate.evocc = s.gate.evocc) (hcpc : s0.cpc = s.cpc) (hgen : s0.gen = s.gen) (q b : Nat) :
    Heard s (ringFlag s0 q b) 9 0 0 q 0 := by
  exact heard_raise_over (s0 := s0.setRing q (flaggedRing (s0.ring q) b)) (congrArg (fun t => Tab.get t 0 9) hgate) hcpc hgen 0 0 q 0
    (by decide)

/-! ## Accesses outside the scratchpad window -/

/-- Where a fetch goes turns on the window and on the ring's base and size. -/
theorem ghAccess_fetch_congr {s u : State} {q : Nat} (hbase : (u.ring q).base = (s.ring q).base) (hcfg : (u.ring q).cfg = (s.ring q).cfg)
    (i n : Nat) : ghAccess u (.fetch q i n) = ghAccess s (.fetch q i n) := by
  simp only [ghAccess, Ring.entryAddr, Ring.len, Ring.size, hbase, hcfg]

theorem outside_fetch_congr {s u : State} {q : Nat} (hprom : u.prom = s.prom) (hbase : (u.ring q).base = (s.ring q).base)
    (hcfg : (u.ring q).cfg = (s.ring q).cfg) (i n : Nat) : Outside u (.fetch q i n) ↔ Outside s (.fetch q i n) := by
  have hwindow (a : DWord) : windowOff u a = windowOff s a := by rw [windowOff, windowOff, hprom]
  unfold Outside
  dsimp only
  rw [ghAccess_fetch_congr hbase hcfg, hwindow, hwindow]

theorem outside_fetch_setRing {s : State} {q : Nat} {x : Ring} (hbase : x.base = (s.ring q).base) (hcfg : x.cfg = (s.ring q).cfg)
    (i n : Nat) : Outside (s.setRing q x) (.fetch q i n) ↔ Outside s (.fetch q i n) := by
  have hring : (s.setRing q x).ring q = x := by rw [ring_setRing, if_pos rfl]
  exact outside_fetch_congr (s := s) (u := s.setRing q x) rfl (by rw [hring, hbase]) (by rw [hring, hcfg]) i n

/-- A fetch outside the window leaves as one message. -/
theorem ghPost_fetch {s : State} {q i n : Nat} (h : Outside s (.fetch q i n)) : ∃ m : Msg,
    ghPost s (.fetch q i n) = { s with prom := { s.prom with net := s.prom.net ++ [m] } } ∧ m.src = .gate ∧ m.body = .gh (.fetch q i n) := by
  obtain ⟨hfirst, hlast⟩ := h
  have hpost : ghPost s (.fetch q i n) = post s .request .gate (.sysPort (portOf s none (ghAccess s (.fetch q i n)).1))
      [.sysPort (portOf s none (ghAccess s (.fetch q i n)).1)] (max (slackFloor s) (sext 16 (fld s.turn.fixed 15 0))) 0 1
      (.gh (.fetch q i n)) := by
    unfold ghPost
    dsimp only
    rw [hfirst, hlast]
    rfl
  rw [hpost, post_one]
  exact ⟨_, rfl, rfl, rfl⟩

/-- One with a byte inside is answered DENIED. -/
theorem ghPost_inside {s : State} {a : GhAcc} (h : ¬ Outside s a) : ghPost s a = ghAnswer s a .denied [] := by
  unfold ghPost
  dsimp only
  rw [if_pos]
  rw [Bool.or_eq_true, Option.isSome_iff_ne_none, Option.isSome_iff_ne_none]
  by_contra hnot
  rw [not_or, not_not, not_not] at hnot
  exact h hnot

/-- The ring with one more fetch under way. -/
def fetchingRing (r : Ring) (i n : Nat) : Ring := { r with fetching := r.fetching ++ [(i, n)] }

/-- A fetch that is sent, and leaves. -/
theorem sendFetch_outside {s : State} {q i n : Nat} (h : Outside s (.fetch q i n)) : ∃ m : Msg,
    sendFetch s q i n = { s.setRing q (fetchingRing (s.ring q) i n) with prom := { s.prom with net := s.prom.net ++ [m] } }
      ∧ m.src = .gate ∧ m.body = .gh (.fetch q i n) := by
  have hout : Outside (s.setRing q (fetchingRing (s.ring q) i n)) (.fetch q i n) :=
    (outside_fetch_setRing (x := fetchingRing (s.ring q) i n) rfl rfl i n).mpr h
  obtain ⟨m, hpost, hmsg⟩ := ghPost_fetch hout
  exact ⟨m, hpost, hmsg⟩

/-- A fetch that is sent, and is held as a failed attempt. -/
theorem sendFetch_inside {s : State} {q i n : Nat} (h : ¬ Outside s (.fetch q i n)) :
    GateOnly s (sendFetch s q i n) ∧ GhAcc.fetch q i n ∈ ((sendFetch s q i n).ring q).held
      ∧ bit ((sendFetch s q i n).ring q).flags 0 = true ∧ ∀ k, k ≠ q → (sendFetch s q i n).ring k = s.ring k := by
  let s0 := s.setRing q (fetchingRing (s.ring q) i n)
  have hring : s0.ring q = fetchingRing (s.ring q) i n := by rw [ring_setRing, if_pos rfl]
  have hin : ¬ Outside s0 (.fetch q i n) := fun hout =>
    h ((outside_fetch_setRing (x := fetchingRing (s.ring q) i n) rfl rfl i n).mp hout)
  have hflight : ((s0.ring q).inFlight q).contains (GhAcc.fetch q i n) = true := by
    rw [hring, List.contains_iff_mem, Ring.inFlight, List.mem_append, List.mem_append, List.mem_map]
    exact Or.inl (Or.inl ⟨(i, n), List.mem_append_right _ (List.mem_singleton.mpr rfl), rfl⟩)
  let s1 := s0.setRing q ((s0.ring q).landed (.fetch q i n))
  let s2 := ringFlag s1 q 0
  have hsend : sendFetch s q i n = s2.setRing q { s2.ring q with held := (s2.ring q).held ++ [.fetch q i n] } := by
    have hanswer : sendFetch s q i n = ghAnswer s0 (.fetch q i n) .denied [] := ghPost_inside hin
    rw [hanswer]
    simp only [ghAnswer, GhAcc.ring?, hflight, Bool.not_true, Bool.false_eq_true, if_false]
    rfl
  rw [hsend]
  refine ⟨?_, ?_, ?_, fun k hk => ?_⟩
  · exact ((GateOnly.trans (gateOnly_setRing ..) (gateOnly_setRing ..)).trans (gateOnly_ringFlag ..)).trans (gateOnly_setRing ..)
  · rw [ring_setRing, if_pos rfl]
    exact List.mem_append_right _ (List.mem_singleton.mpr rfl)
  · rw [ring_setRing, if_pos rfl]
    change bit (s2.ring q).flags 0 = true
    rw [ring_ringFlag, if_pos rfl]
    exact (bit_putBit _ (by decide) _ _).trans (if_pos rfl)
  · rw [ring_setRing, if_neg hk, ring_ringFlag, if_neg hk, ring_setRing, if_neg hk, ring_setRing, if_neg hk]

/-! ## Entries that end at the gatehouse (R318, R320) -/

theorem ring_addComp (s : State) (e : EntryRef) (c : CompArgs) (k : Nat) : (addComp s e c).ring k =
    if k = e.ring then { s.ring e.ring with comps := (s.ring e.ring).comps ++ [compOf s e c] } else s.ring k := by
  rw [addComp, ring_setRing]
  rfl

/-- Entries of one ring that end: their completions join its list in turn, and nothing but the gatehouse changes. -/
theorem ring_foldl_addComp {q : Nat} (f : QEntry → CompArgs) (es : List QEntry) (hq : ∀ e ∈ es, e.ref.ring = q)
    (hst : ∀ e ∈ es, (f e).status = 0x12) (s : State) :
    let u := es.foldl (fun s e => addComp s e.ref (f e)) s
    GateOnly s u ∧ (∀ k, k ≠ q → u.ring k = s.ring k)
    ∧ ∃ cs, u.ring q = { s.ring q with comps := (s.ring q).comps ++ cs } ∧ cs.map (·.idx) = es.map (fun e => e.ref.idx)
      ∧ ∀ c ∈ cs, fld c.w72 7 0 = 0x12 := by
  induction es generalizing s with
  | nil => exact ⟨GateOnly.rfl, fun _ _ => rfl, [], by rw [List.append_nil]; rfl, rfl, nofun⟩
  | cons e es ih =>
    have he : e.ref.ring = q := hq e List.mem_cons_self
    obtain ⟨honly, hother, cs, hring, hidx, hcode⟩ := ih (fun d hd => hq d (List.mem_cons_of_mem _ hd))
      (fun d hd => hst d (List.mem_cons_of_mem _ hd)) (addComp s e.ref (f e))
    have hone (k : Nat) := (ring_addComp s e.ref (f e) k).trans (by rw [he])
    refine ⟨(gateOnly_addComp ..).trans honly, fun k hk => (hother k hk).trans ((hone k).trans (if_neg hk)),
      compOf s e.ref (f e) :: cs, ?_, ?_, ?_⟩
    · refine hring.trans ?_
      rw [hone, if_pos rfl, List.append_assoc]
      rfl
    · rw [List.map_cons, hidx]
      rfl
    · intro c hc
      rcases List.mem_cons.mp hc with rfl | hc
      · exact (status_compOf (by rw [hst e List.mem_cons_self]; decide)).trans (hst e List.mem_cons_self)
      · exact hcode c hc

/-- An open job that ends, where no entry has a reserved bit: every entry ends with BAD_CHAIN. -/
theorem ring_failJob {s : State} {q : Nat} (h : ∀ e ∈ (s.ring q).openJob, e.ref.ring = q ∧ fld e.ref.flags 26 0 = 0) :
    GateOnly s (failJob s q) ∧ (∀ k, k ≠ q → (failJob s q).ring k = s.ring k)
    ∧ ∃ cs, (failJob s q).ring q = { s.ring q with openJob := [], comps := (s.ring q).comps ++ cs }
      ∧ cs.map (·.idx) = (s.ring q).openJob.map (fun e => e.ref.idx) ∧ ∀ c ∈ cs, fld c.w72 7 0 = 0x12 := by
  obtain ⟨honly, hother, cs, hring, hidx, hcode⟩ := ring_foldl_addComp (q := q)
    (fun e => { status := if efRes e.ref.flags then stMalformed else stBadChain, tag := iTag e.line }) (s.ring q).openJob
    (fun e he => And.left (h e he)) (fun e he => by
      obtain ⟨-, hres⟩ := h e he
      have hgood : efRes e.ref.flags = false := decide_eq_false (fun hne => hne hres)
      rw [hgood]
      rfl) (s.setRing q { s.ring q with openJob := [] })
  refine ⟨(gateOnly_setRing ..).trans honly, fun k hk => (hother k hk).trans ?_, cs, hring.trans ?_, hidx, hcode⟩
  · rw [ring_setRing, if_neg hk]
  · rw [ring_setRing, if_pos rfl]

end Sys2Proof.Proofs

end

section
/-! PROOF. Rings run: their enable, their doorbell, and their fetches (R311–R316, R320, R438). -/

namespace Sys2Proof.Proofs

open Sys2Proof Sys2Proof.Machine

/-! ## The doorbell (R313) -/

theorem setRing_self_ring {s : State} {q : Nat} {r x : Ring} (k : Nat) :
    ((s.setRing q r).setRing q x).ring k = if k = q then x else s.ring k := by
  rw [ring_setRing, ring_setRing]
  split
  · rfl
  · rfl

/-- With nothing held and no entry found with OWN = 0, a PROD write sets nothing going again. -/
theorem retryAll_idle {s : State} {q : Nat} (hheld : (s.ring q).held = []) (hx : (s.ring q).heldX = []) (hown : (s.ring q).notown = false) :
    retryAll s q = s.setRing q (s.ring q) := by
  have hsame : ({ s.ring q with held := [], heldX := [] } : Ring) = s.ring q := by
    generalize s.ring q = r at hheld hx
    cases r
    cases hheld
    cases hx
    rfl
  have hnone : ((s.setRing q (s.ring q)).ring q).notown = false := by
    rw [ring_setRing, if_pos rfl]
    exact hown
  unfold retryAll
  dsimp only
  rw [hheld, hx, hsame, List.append_nil, List.foldl_nil, refetch]
  exact if_neg (fun ⟨h, _⟩ => Bool.false_ne_true (hnone.symm.trans h))

theorem ringDoorbell : Claims.RingDoorbell := by
  intro s q r
  refine ⟨fun hreach hen => ⟨fun hok => ?_, fun hbad => ?_⟩, fun v hreach hheld hx hown => ⟨fun hfit hahead => ?_, fun hover => ?_⟩⟩
  · have hop : ringEnableOp s q.toNat = s.setRing q.toNat { r with en := true } := by
      unfold ringEnableOp
      dsimp only
      rw [if_neg (by rw [hen]; exact Bool.false_ne_true), if_pos hok]
    have hexec : exec (.ringEnable q) s = .next (wrote (s.setRing q.toNat { r with en := true }) false) :=
      congrArg Host.Outcome.next (hostWrite_reached hreach nofun (congrArg (fun u => (u, false)) hop))
    refine ⟨_, hexec, (ring_setRing ..).trans (if_pos rfl), fun k hk => (ring_setRing ..).trans (if_neg hk), rfl, rfl⟩
  · have hop : ringEnableOp s q.toNat = ghCfgErr s q.toNat := by
      unfold ringEnableOp
      dsimp only
      rw [if_neg (by rw [hen]; exact Bool.false_ne_true), if_neg (by rw [hbad]; exact Bool.false_ne_true)]
    have hexec : exec (.ringEnable q) s = .next (wrote (ghCfgErr s q.toNat) false) :=
      congrArg Host.Outcome.next (hostWrite_reached hreach nofun (congrArg (fun u => (u, false)) hop))
    exact ⟨_, hexec, rfl, rfl, (BitVec.ofNat_toNat 8 q).trans (BitVec.setWidth_eq q), rfl⟩
  · let s0 := s.setRing q.toNat { r with prod := v }
    have hring : s0.ring q.toNat = { r with prod := v } := (ring_setRing ..).trans (if_pos rfl)
    have hop : prodOp s q.toNat v = s0.setRing q.toNat (s0.ring q.toNat) := by
      unfold prodOp
      dsimp only
      rw [if_neg (by rintro (h | h); exacts [hfit.not_gt h, hahead.not_gt h])]
      exact retryAll_idle (by rw [hring]; exact hheld) (by rw [hring]; exact hx) (by rw [hring]; exact hown)
    have hexec : exec (.prod q v) s = .next (wrote (s0.setRing q.toNat (s0.ring q.toNat)) false) :=
      congrArg Host.Outcome.next (hostWrite_reached hreach nofun (congrArg (fun u => (u, false)) hop))
    refine ⟨_, hexec, (ring_setRing ..).trans ((if_pos rfl).trans hring), fun k hk => ?_, rfl⟩
    exact (setRing_self_ring k).trans (if_neg hk)
  · let s0 := ringFlag s q.toNat 3
    have hring : s0.ring q.toNat = flaggedRing r 3 := (ring_ringFlag ..).trans (if_pos rfl)
    have hop : prodOp s q.toNat v = s0.setRing q.toNat (s0.ring q.toNat) := by
      unfold prodOp
      dsimp only
      rw [if_pos hover]
      exact retryAll_idle (by rw [hring]; exact hheld) (by rw [hring]; exact hx) (by rw [hring]; exact hown)
    have hexec : exec (.prod q v) s = .next (wrote (s0.setRing q.toNat (s0.ring q.toNat)) false) :=
      congrArg Host.Outcome.next (hostWrite_reached hreach nofun (congrArg (fun u => (u, false)) hop))
    have hthis : (wrote (s0.setRing q.toNat (s0.ring q.toNat)) false).ring q.toNat = flaggedRing r 3 :=
      (ring_setRing ..).trans ((if_pos rfl).trans hring)
    refine ⟨_, hexec, ?_, ?_, ?_, fun k hk => ?_, (gateOnly_ringFlag s q.toNat 3).prom⟩
    · rw [hthis]
      rfl
    · rw [hthis]
      exact (bit_putBit _ (by decide) _ _).trans (if_pos rfl)
    · exact heard_congr (s0 := s) rfl rfl rfl rfl rfl rfl (heard_ringFlag (s := s) rfl rfl rfl q.toNat 3)
    · exact (ring_setRing ..).trans ((if_neg hk).trans ((ring_ringFlag ..).trans (if_neg hk)))

/-! ## RING_FETCH (R315, R320) -/

theorem ringFetchStep_some {s : State} {q i n : Nat} (hon : gateOn s = true) (hnext : nextRing s = some (q, i, n)) :
    ringFetchStep s = sendFetch (endFullJob { s with gate := { s.gate with rr := q } } q) q i n := by
  simp only [ringFetchStep, hon, hnext, Bool.not_true, Bool.false_eq_true, if_false]

theorem endFullJob_room {s : State} {q : Nat} (h : (s.ring q).openJob.length < 16) : endFullJob s q = s :=
  if_neg (by
    rw [Ring.jobFull, decide_eq_true_eq]
    omega)

theorem endFullJob_full {s : State} {q : Nat} (h : (s.ring q).openJob.length = 16) :
    endFullJob s q = failJob (s.setRing q { s.ring q with overrun := true }) q :=
  if_pos (decide_eq_true h.ge)

/-! ## FETCH_RETRY (R316) -/

theorem foldl_min_pos {l : List Nat} {a : Nat} (ha : 0 < a) (hl : ∀ x ∈ l, 0 < x) : 0 < l.foldl min a := by
  induction l generalizing a with
  | nil => exact ha
  | cons x l ih => exact ih (lt_min ha (hl x List.mem_cons_self)) (fun y hy => hl y (List.mem_cons_of_mem _ hy))

theorem foldl_min_zero (l : List Nat) : l.foldl min 0 = 0 := by
  induction l with
  | nil => rfl
  | cons x l ih => rw [List.foldl_cons, Nat.zero_min, ih]

/-- How far the entries that are fetched or held already lie ahead of FETCH. -/
def aheadOf (r : Ring) : List Nat :=
  ((r.fetching ++ r.heldFetches).map (·.1) ++ r.arrived.map (·.1)).map (idxDist r.fetch.toNat)

/-- The entries that a retry fetches. -/
def retrySpan (r : Ring) : Nat :=
  r.span r.fetch.toNat r.room ((aheadOf r).foldl min (idxDist r.fetch.toNat r.prod.toNat))

theorem refetch_eq (s : State) (q : Nat) : refetch s q = if (s.ring q).notown = true ∧ 0 < retrySpan (s.ring q)
    then sendFetch (s.setRing q { s.ring q with notown := false }) q (s.ring q).fetch.toNat (retrySpan (s.ring q)) else s := rfl

theorem idxDist_self (a : Word) : idxDist a.toNat a.toNat = 0 := by
  unfold idxDist
  have := a.isLt
  omega

theorem idxDist_pos {a b : Word} (h : a ≠ b) : 0 < idxDist a.toNat b.toNat := by
  unfold idxDist
  have ha := a.isLt
  have hb := b.isLt
  have hne : a.toNat ≠ b.toNat := fun he => h (BitVec.eq_of_toNat_eq he)
  omega

theorem span_le_room (r : Ring) (i room left : Nat) : r.span i room left ≤ room :=
  (Nat.min_le_left _ _).trans (Nat.min_le_left _ _)

/-- An entry of a ring on a page starts 128 B or more before the page's end. -/
theorem page_left {r : Ring} (hbase : fld r.base 11 0 = 0) (i : Nat) : 0 < (4096 - (r.entryAddr i).toNat % 4096) / 128 := by
  have hlow : r.base.toNat % 4096 = 0 := by
    simpa [fld] using hbase
  have haddr : (r.entryAddr i).toNat % 128 = 0 := by
    rw [Ring.entryAddr, BitVec.toNat_add, BitVec.toNat_ofNat]
    omega
  omega

theorem retrySpan_pos {r : Ring} (hroom : 0 < r.room) (hprod : r.fetch ≠ r.prod) (hbase : fld r.base 11 0 = 0)
    (hfetch : ∀ f ∈ r.fetching ++ r.heldFetches, 0 < idxDist r.fetch.toNat f.1)
    (harrived : ∀ a ∈ r.arrived, 0 < idxDist r.fetch.toNat a.1) : 0 < retrySpan r := by
  have hleft : 0 < (aheadOf r).foldl min (idxDist r.fetch.toNat r.prod.toNat) := by
    refine foldl_min_pos (idxDist_pos hprod) (fun x hx => ?_)
    obtain ⟨j, hj, rfl⟩ := List.mem_map.mp hx
    rcases List.mem_append.mp hj with hj | hj
    · obtain ⟨f, hf, rfl⟩ := List.mem_map.mp hj
      exact hfetch f hf
    · obtain ⟨a, ha, rfl⟩ := List.mem_map.mp hj
      exact harrived a ha
  have hlen : 0 < r.len - r.fetch.toNat % r.len := Nat.sub_pos_of_lt (Nat.mod_lt _ (Nat.two_pow_pos _))
  exact lt_min (lt_min hroom hleft) (lt_min hlen (page_left hbase _))

theorem retrySpan_zero {r : Ring} (h : r.fetch = r.prod ∨ r.room = 0) : retrySpan r = 0 := by
  unfold retrySpan Ring.span
  rcases h with h | h
  · rw [h, idxDist_self, foldl_min_zero, Nat.min_zero, Nat.zero_min]
  · rw [h, Nat.zero_min, Nat.zero_min]

theorem ringsFetch : Claims.RingsFetch := by
  refine ⟨fun s q i n hon hnext hout hjob => ?_, fun s q i n hon hnext hout hjob hes => ?_, fun s q i n hon hnext hin hjob => ?_,
    fun s hon hnext => ?_, fun s q hon => ⟨fun hown hroom hprod hbase hout hfetch harrived => ?_, fun hidle => ?_⟩⟩
  · have hexec : exec .ringFetch s = .next (ringFetchStep s) := rfl
    rw [ringFetchStep_some hon hnext] at hexec
    rw [endFullJob_room (s := { s with gate := { s.gate with rr := q } }) hjob] at hexec
    obtain ⟨m, hsend, hsrc, hbody⟩ := sendFetch_outside (s := { s with gate := { s.gate with rr := q } }) hout
    rw [hsend] at hexec
    refine ⟨_, m, hexec, rfl, ?_, fun k hk => ?_, rfl, hsrc, hbody, rfl, rfl, rfl⟩
    · exact congrArg Ring.fetching ((ring_setRing ..).trans (if_pos rfl))
    · exact (ring_setRing ..).trans (if_neg hk)
  · have hexec : exec .ringFetch s = .next (ringFetchStep s) := rfl
    let s0 := { s with gate := { s.gate with rr := q } }
    let s1 := s0.setRing q { s.ring q with overrun := true }
    have hring1 : s1.ring q = { s.ring q with overrun := true } := (ring_setRing ..).trans (if_pos rfl)
    obtain ⟨honly, -, cs, hring, hidx, hcode⟩ := ring_failJob (s := s1) (q := q) (by rw [hring1]; exact hes)
    rw [hring1] at hring hidx
    rw [ringFetchStep_some hon hnext, endFullJob_full (s := s0) hjob] at hexec
    have hout1 : Outside (failJob s1 q) (.fetch q i n) :=
      (outside_fetch_congr (s := s) honly.prom (by rw [hring]) (by rw [hring]) i n).mpr hout
    obtain ⟨m, hsend, -, hbody⟩ := sendFetch_outside hout1
    have hexec' : exec .ringFetch s = .next (sendFetch (failJob s1 q) q i n) := hexec
    rw [hsend, hring, honly.prom] at hexec'
    let r2 : Ring := { s.ring q with overrun := true, openJob := [], comps := (s.ring q).comps ++ cs }
    have hring2 (p : Prom) : ({ (failJob s1 q).setRing q (fetchingRing r2 i n) with prom := p } : State).ring q = fetchingRing r2 i n :=
      (ring_setRing ..).trans (if_pos rfl)
    refine ⟨_, m, cs, hexec', ?_, ?_, ?_, hidx, hcode, rfl, hbody⟩
    all_goals
      rw [hring2]
      rfl
  · have hexec : exec .ringFetch s = .next (ringFetchStep s) := rfl
    rw [ringFetchStep_some hon hnext] at hexec
    rw [endFullJob_room (s := { s with gate := { s.gate with rr := q } }) hjob] at hexec
    obtain ⟨honly, hheld, hflag, hother⟩ := sendFetch_inside (s := { s with gate := { s.gate with rr := q } }) hin
    exact ⟨_, hexec, congrArg Prom.net honly.prom, hheld, hflag, hother, honly.tiles, honly.spad⟩
  · refine congrArg Host.Outcome.next ?_
    simp only [ringFetchStep, hnext]
    split <;> rfl
  · have hpos := retrySpan_pos hroom hprod hbase hfetch harrived
    have hle : retrySpan (s.ring q.toNat) ≤ 16 := (span_le_room ..).trans (Nat.sub_le ..)
    let s0 := s.setRing q.toNat { s.ring q.toNat with notown := false }
    have hring0 : s0.ring q.toNat = { s.ring q.toNat with notown := false } := (ring_setRing ..).trans (if_pos rfl)
    have hout0 : Outside s0 (.fetch q.toNat (s.ring q.toNat).fetch.toNat (retrySpan (s.ring q.toNat))) :=
      (outside_fetch_setRing (x := { s.ring q.toNat with notown := false }) rfl rfl _ _).mpr (hout _ hle)
    obtain ⟨m, hsend, -, hbody⟩ := sendFetch_outside hout0
    have hexec : exec (.fetchRetry q) s = .next (sendFetch s0 q.toNat (s.ring q.toNat).fetch.toNat (retrySpan (s.ring q.toNat))) := by
      refine congrArg Host.Outcome.next ?_
      rw [fetchRetryStep, if_pos hon, refetch_eq, if_pos ⟨hown, hpos⟩]
    rw [hsend, hring0] at hexec
    refine ⟨_, m, _, hexec, ?_, hpos, ?_, rfl, hbody⟩
    · exact congrArg Ring.notown ((ring_setRing ..).trans (if_pos rfl))
    · exact congrArg Ring.fetching ((ring_setRing ..).trans (if_pos rfl))
  · refine congrArg Host.Outcome.next ?_
    rw [fetchRetryStep, if_pos hon, refetch_eq]
    refine if_neg ?_
    rintro ⟨hown, hpos⟩
    rcases hidle with h | h
    · exact Bool.false_ne_true (h.symm.trans hown)
    · exact absurd (retrySpan_zero h) hpos.ne'

/-- Settles O48: the checks of enable and doorbell, and which entries a fetch or a retry asks for. -/
theorem ringsRun : Obligations.RingsRun := by
  unfold Obligations.RingsRun
  exact ⟨ringDoorbell, ringsFetch⟩

end Sys2Proof.Proofs

end

section
/-! PROOF. Entries that a fetch brings, their dispatch and their receipt (R315–R322, R415). -/

namespace Sys2Proof.Proofs

open Sys2Proof Sys2Proof.Machine

/-! ## One entry is captured (R318–R320) -/

/-- The flags word of a fetched entry. -/
def entryWord (data : List Byte) : Word := BitVec.ofNat 32 (ofBytes ((data.drop 64).take 4))

/-- The entry that a ring with no job open captures. -/
def firstEntry (s : State) (q : Nat) (data : List Byte) : QEntry :=
  { ref := { ring := q, idx := (s.ring q).fetch.toNat, job := (s.ring q).fetch.toNat, flags := entryWord data }
    line := BitVec.ofNat 512 (ofBytes (data.take 64)) }

/-- The ring with that entry in its open job. -/
def openedRing (s : State) (q : Nat) (data : List Byte) : Ring :=
  { s.ring q with fetch := (s.ring q).fetch + 1, openJob := [firstEntry s q data], overrun := false }

/-- The entry's chain flags contradict each other. -/
def chainBad (w : Word) : Bool := (efFirst w == false) || (efChain w == efLast w)

/-- A fetch of one entry. -/
theorem captureAll_one {s : State} {q : Nat} {data : List Byte} (hlen : data.length = 128) (hown : bit (entryWord data) 31 = true) :
    captureAll q 16 data s = captureEntry s q data := by
  have htake : data.take 128 = data := List.take_of_length_le hlen.le
  have hdrop : data.drop 128 = [] := List.drop_of_length_le hlen.le
  have hown' : efOwn (BitVec.ofNat 32 (ofBytes ((data.drop 64).take 4))) = true := hown
  rw [captureAll, if_neg (by omega), if_pos hown', htake, hdrop]
  rfl

theorem captureAll_notOwn {s : State} {q : Nat} {data : List Byte} (hlen : data.length = 128) (hown : bit (entryWord data) 31 = false) :
    captureAll q 16 data s = (ringFlag s q 2).setRing q { (ringFlag s q 2).ring q with notown := true } := by
  have hown' : efOwn (BitVec.ofNat 32 (ofBytes ((data.drop 64).take 4))) = false := hown
  rw [captureAll, if_neg (by omega), if_neg (by rw [hown']; exact Bool.false_ne_true)]

section
variable {s : State} {q : Nat} {data : List Byte} (hjob : (s.ring q).openJob = [])
include hjob

/-- One whose chain flags contradict each other, or that is its job's 17th, ends. -/
theorem captureEntry_bad (hbad : (s.ring q).overrun = true ∨ chainBad (entryWord data) = true) :
    captureEntry s q data = failJob (s.setRing q (openedRing s q data)) q := by
  unfold captureEntry jobBad
  simp only [hjob, List.isEmpty_nil, Bool.not_true, List.head?_nil, Option.map_none, Option.getD_none, List.nil_append,
    List.length_singleton, Nat.lt_irrefl, decide_false, Bool.false_and, Bool.or_false]
  rw [if_pos]
  · rfl
  · rw [Bool.or_eq_true]
    exact hbad

/-- A job of this one entry is handed on. -/
theorem captureEntry_good (hover : (s.ring q).overrun = false) (hgood : chainBad (entryWord data) = false)
    (hlast : bit (entryWord data) 29 = true) (hres : fld (entryWord data) 26 0 = 0) : captureEntry s q data =
      (s.setRing q (openedRing s q data)).setRing q
        { openedRing s q data with openJob := [], ready := (s.ring q).ready ++ [firstEntry s q data] } := by
  have hopen : (s.setRing q (openedRing s q data)).ring q = openedRing s q data := by rw [ring_setRing, if_pos rfl]
  have hrefs : efRes (firstEntry s q data).ref.flags = false := decide_eq_false (fun h => h hres)
  unfold captureEntry jobBad
  simp only [hjob, List.isEmpty_nil, Bool.not_true, List.head?_nil, Option.map_none, Option.getD_none, List.nil_append,
    List.length_singleton, Nat.lt_irrefl, decide_false, Bool.false_and, Bool.or_false, List.any_cons, List.any_nil]
  rw [if_neg, if_pos, if_neg]
  · change (s.setRing q (openedRing s q data)).setRing q { (s.setRing q (openedRing s q data)).ring q with
        openJob := [], ready := ((s.setRing q (openedRing s q data)).ring q).ready ++ [firstEntry s q data] } = _
    rw [hopen]
    rfl
  · exact fun h => Bool.false_ne_true (hrefs.symm.trans h)
  · exact hlast
  · rw [Bool.or_eq_true]
    rintro (h | h)
    · exact Bool.false_ne_true (hover.symm.trans h)
    · exact Bool.false_ne_true (hgood.symm.trans h)

/-- What a bad entry without a reserved bit leaves of its ring: the entry's completion with BAD_CHAIN. -/
theorem ring_captureEntry_bad (hbad : (s.ring q).overrun = true ∨ chainBad (entryWord data) = true)
    (hres : fld (entryWord data) 26 0 = 0) : ∃ c, (captureEntry s q data).ring q =
      { s.ring q with fetch := (s.ring q).fetch + 1, openJob := [], overrun := false, comps := (s.ring q).comps ++ [c] }
      ∧ c.idx = (s.ring q).fetch.toNat ∧ fld c.w72 7 0 = 0x12 := by
  have hopen : (s.setRing q (openedRing s q data)).ring q = openedRing s q data := by rw [ring_setRing, if_pos rfl]
  obtain ⟨-, -, cs, hring, hidx, hcode⟩ := ring_failJob (s := s.setRing q (openedRing s q data)) (q := q) (by
    rw [hopen]
    intro e he
    obtain rfl : e = firstEntry s q data := List.mem_singleton.mp he
    exact ⟨rfl, hres⟩)
  rw [hopen] at hring hidx
  obtain ⟨c, rfl⟩ : ∃ c, cs = [c] := List.length_eq_one_iff.mp (by
    rw [← List.length_map (f := Comp.idx), hidx]
    rfl)
  refine ⟨c, ?_, List.singleton_inj.mp hidx, hcode c (List.mem_singleton.mpr rfl)⟩
  rw [captureEntry_bad hjob hbad, hring]
  rfl

end

/-! ## FETCH_RESPONSE -/

/-- The ring once an answer has been taken. -/
def takenRing (r : Ring) (a : Nat) : Ring := { r with arrived := r.arrived.filter (fun b => decide (b.1 ≠ a)) }

section
variable {s : State} {q : BitVec 8} {data : List Byte}
  (harr : (s.ring q.toNat).arrived = [((s.ring q.toNat).fetch.toNat, data)])
include harr

theorem find_arrived : (s.ring q.toNat).arrived.find? (fun a => decide (a.1 = (s.ring q.toNat).fetch.toNat)) =
    some ((s.ring q.toNat).fetch.toNat, data) := by
  rw [harr]
  exact List.find?_cons_of_pos (by exact decide_eq_true rfl)

section
variable (hon : gateOn s = true) (hown : (s.ring q.toNat).notown = false)
include hon hown

theorem exec_fetchResponse_clean : exec (.fetchResponse ⟨q, .clean⟩) s =
    .next (captureAll q.toNat 16 data (s.setRing q.toNat (takenRing (s.ring q.toNat) (s.ring q.toNat).fetch.toNat))) := by
  refine congrArg Host.Outcome.next ?_
  unfold fetchResponseStep
  dsimp only
  rw [find_arrived harr]
  dsimp only
  rw [if_pos (by rw [hon, hown]; rfl)]
  rfl

theorem exec_fetchResponse_bad : exec (.fetchResponse ⟨q, .bad⟩) s =
    .next (sendFetch (klog (s.setRing q.toNat (takenRing (s.ring q.toNat) (s.ring q.toNat).fetch.toNat)) .recovered .sramUe luGate
      (fetchInfo s q.toNat (s.ring q.toNat).fetch.toNat)) q.toNat (s.ring q.toNat).fetch.toNat (data.length / 128)) := by
  refine congrArg Host.Outcome.next ?_
  unfold fetchResponseStep
  dsimp only
  rw [find_arrived harr]
  dsimp only
  rw [if_pos (by rw [hon, hown]; rfl)]
  rfl

end

end

/-- A recovered fault is logged by the keeper alone. -/
theorem gate_klog_recovered (s : State) (m : Mech) (u : LogUnit) (i : LogInfo) : (klog s .recovered m u i).gate = s.gate := by
  unfold klog
  split <;> rfl

theorem fetchedEntriesJobs : Claims.FetchedEntriesJobs := by
  intro s q data r w hon hown hjob harr hlen
  let s1 := s.setRing q.toNat (takenRing r r.fetch.toNat)
  have hring1 : s1.ring q.toNat = takenRing r r.fetch.toNat := by
    rw [ring_setRing, if_pos rfl]
  have hjob1 : (s1.ring q.toNat).openJob = [] := by
    rw [hring1]
    exact hjob
  have hclean := exec_fetchResponse_clean harr hon hown
  have hfails (hw : bit w 31 = true) (hres : fld w 26 0 = 0) (hbad : r.overrun = true ∨ chainBad w = true) :
      ∃ u c, exec (.fetchResponse ⟨q, .clean⟩) s = .next u ∧ (u.ring q.toNat).fetch = r.fetch + 1
        ∧ (u.ring q.toNat).ready = r.ready ∧ (u.ring q.toNat).openJob = [] ∧ (u.ring q.toNat).overrun = false
        ∧ (u.ring q.toNat).comps = r.comps ++ [c] ∧ c.idx = r.fetch.toNat ∧ fld c.w72 7 0 = 0x12 := by
    obtain ⟨c, hring, hidx, hcode⟩ := ring_captureEntry_bad hjob1 (data := data) (by
      rw [hring1]
      exact hbad) hres
    rw [captureAll_one hlen hw] at hclean
    rw [hring1] at hring hidx
    refine ⟨_, c, hclean, ?_, ?_, ?_, ?_, ?_, hidx, hcode⟩
    all_goals rw [hring] <;> rfl
  refine ⟨fun hw hover hres => hfails hw hres (Or.inl hover), fun hw hover hfirst hlast hchain hres => ?_,
    fun hw hfirst hlast hchain hres => ?_, fun hw => ?_, fun hout => ?_⟩
  · have hgood : chainBad w = false := by
      simp only [chainBad, efFirst, efChain, efLast, hfirst, hlast, hchain]
      decide
    rw [captureAll_one hlen hw, captureEntry_good hjob1 (by rw [hring1]; exact hover) hgood hlast hres] at hclean
    refine ⟨_, firstEntry s1 q.toNat data, hclean, ?_⟩
    have hring : ((s1.setRing q.toNat (openedRing s1 q.toNat data)).setRing q.toNat { openedRing s1 q.toNat data with
        openJob := [], ready := (s1.ring q.toNat).ready ++ [firstEntry s1 q.toNat data] }).ring q.toNat =
          { openedRing s1 q.toNat data with openJob := [], ready := (s1.ring q.toNat).ready ++ [firstEntry s1 q.toNat data] } := by
      rw [ring_setRing, if_pos rfl]
    rw [hring]
    unfold openedRing firstEntry
    rw [hring1]
    exact ⟨rfl, rfl, rfl, rfl, rfl, rfl, rfl, rfl, rfl⟩
  · obtain ⟨u, c, hexec, hfetch, hready, hopen, -, hcomps, hidx, hcode⟩ := hfails hw hres (Or.inr (by
      simp only [chainBad, efFirst, efChain, efLast, hfirst, hlast, hchain]
      decide))
    exact ⟨u, c, hexec, hfetch, hready, hopen, hcomps, hidx, hcode⟩
  · rw [captureAll_notOwn hlen hw] at hclean
    have hflag : (ringFlag s1 q.toNat 2).ring q.toNat = flaggedRing (takenRing r r.fetch.toNat) 2 := by
      rw [ring_ringFlag, if_pos rfl, hring1]
    have hring : ((ringFlag s1 q.toNat 2).setRing q.toNat { (ringFlag s1 q.toNat 2).ring q.toNat with notown := true }).ring q.toNat =
        { flaggedRing (takenRing r r.fetch.toNat) 2 with notown := true } := by
      rw [ring_setRing, if_pos rfl, hflag]
    refine ⟨_, hclean, ?_, ?_, ?_, ?_, ?_⟩
    · rw [hring]
      rfl
    · rw [hring]
    · rw [hring]
      exact (bit_putBit _ (by decide) _ _).trans (if_pos rfl)
    · rw [hring]
      rfl
    · exact heard_congr (s0 := s) (u := ringFlag s1 q.toNat 2) rfl rfl rfl rfl rfl rfl
        (heard_ringFlag (s := s) (s0 := s1) rfl rfl rfl q.toNat 2)
  · have hexec := exec_fetchResponse_bad harr hon hown
    rw [hlen] at hexec
    let s2 := klog s1 .recovered .sramUe luGate (fetchInfo s q.toNat r.fetch.toNat)
    have hring2 : s2.ring q.toNat = takenRing r r.fetch.toNat := by
      rw [State.ring, gate_klog_recovered]
      exact hring1
    have hout2 : Outside s2 (.fetch q.toNat r.fetch.toNat 1) :=
      (outside_fetch_congr (s := s) (u := s2) (klog_prom ..) (by rw [hring2]; rfl) (by rw [hring2]; rfl) _ _).mpr hout
    obtain ⟨m, hsend, -, hbody⟩ := sendFetch_outside hout2
    have hexec' : exec (.fetchResponse ⟨q, .bad⟩) s = .next (sendFetch s2 q.toNat r.fetch.toNat 1) := hexec
    have hprom2 : s2.prom = s.prom := klog_prom ..
    rw [hsend, hring2, hprom2] at hexec'
    have hring (p : Prom) : ({ s2.setRing q.toNat (fetchingRing (takenRing r r.fetch.toNat) r.fetch.toNat 1) with prom := p } :
        State).ring q.toNat = fetchingRing (takenRing r r.fetch.toNat) r.fetch.toNat 1 := (ring_setRing ..).trans (if_pos rfl)
    have harrived : (takenRing r r.fetch.toNat).arrived = [] := by
      unfold takenRing
      rw [harr, List.filter_cons_of_neg (by simp)]
      rfl
    refine ⟨_, m, hexec', ?_, ?_, ?_, ?_, rfl, hbody⟩
    · rw [hring]
      rfl
    · rw [hring]
      exact harrived
    · rw [hring]
      rfl
    · rw [hring]
      rfl

/-! ## DISPATCH (R322) -/

theorem takeAccepted_none {s : State} (h : ∀ m ∈ s.prom.net, m.acceptance = none) : takeAccepted s = s := by
  have hgot : s.prom.net.filterMap Msg.acceptance = [] := List.filterMap_eq_nil_iff.mpr h
  have hnet : s.prom.net.filter (fun m => (Msg.acceptance m).isNone) = s.prom.net :=
    List.filter_eq_self.mpr (fun m hm => by rw [h m hm]; rfl)
  have hplaced : s.gate.placed.filter (fun p => !([] : List EntryRef).contains p.ref) = s.gate.placed :=
    List.filter_eq_self.mpr (fun _ _ => rfl)
  unfold takeAccepted
  simp only [hgot, hnet, hplaced]

section
variable {s : State} {q : BitVec 8} (hon : gateOn s = true)
include hon

theorem exec_dispatch_idle (hr : (s.ring q.toNat).ready = []) : exec (.dispatch q) s = .next (takeAccepted s) := by
  have hr' : ((takeAccepted s).ring q.toNat).ready = [] := hr
  refine congrArg Host.Outcome.next ?_
  simp only [dispatchStep, hon, Bool.not_true, Bool.false_eq_true, if_false, hr']

section
variable {e : QEntry} {es : List QEntry} (hr : (s.ring q.toNat).ready = e :: es) (hnone : ∀ m ∈ s.prom.net, m.acceptance = none)
include hr hnone

theorem exec_dispatch_broken (hb : (s.ring q.toNat).broken.any (fun b => inBroken b e.ref) = true) : exec (.dispatch q) s =
    .next (badChain (s.setRing q.toNat { s.ring q.toNat with ready := es }) e.ref (iTag e.line)) := by
  refine congrArg Host.Outcome.next ?_
  simp only [dispatchStep, hon, Bool.not_true, Bool.false_eq_true, if_false, takeAccepted_none hnone, hr, hb, if_true]

theorem exec_dispatch_full (hb : (s.ring q.toNat).broken.any (fun b => inBroken b e.ref) = false)
    (hfull : 4 ≤ seatsTaken s (Ring.tile (s.ring q.toNat)) (Ring.rsrc (s.ring q.toNat))) : exec (.dispatch q) s = .next s := by
  refine congrArg Host.Outcome.next ?_
  simp only [dispatchStep, hon, Bool.not_true, Bool.false_eq_true, if_false, takeAccepted_none hnone, hr, hb, hfull.not_gt]

end

end

/-- The gatehouse once the first entry of a ring has been sent. -/
def dispatched (s : State) (q : Nat) (e : QEntry) (es : List QEntry) : State :=
  let r := s.ring q
  let u := s.setRing q { r with ready := es, broken := keepBroken r.broken e.ref }
  { u with gate := { u.gate with placed := u.gate.placed ++ [{ tile := Ring.tile r, src := Ring.rsrc r, ref := e.ref }] } }

theorem exec_dispatch_sent {s : State} {q : BitVec 8} {e : QEntry} {es : List QEntry} (hon : gateOn s = true)
    (hr : (s.ring q.toNat).ready = e :: es) (hnone : ∀ m ∈ s.prom.net, m.acceptance = none)
    (hb : (s.ring q.toNat).broken.any (fun b => inBroken b e.ref) = false)
    (hroom : seatsTaken s (Ring.tile (s.ring q.toNat)) (Ring.rsrc (s.ring q.toNat)) < 4) : exec (.dispatch q) s =
      .next (postSmall (dispatched s q.toNat e es) .control .gate (.tile (Ring.tile (s.ring q.toNat)))
        (.entry (Ring.tile (s.ring q.toNat)) (Ring.rsrc (s.ring q.toNat)) e)) := by
  refine congrArg Host.Outcome.next ?_
  simp only [dispatchStep, hon, Bool.not_true, Bool.false_eq_true, if_false, takeAccepted_none hnone, hr, hb, hroom, if_true]
  rfl

theorem seatsTaken_dispatched (s : State) (q : Nat) (e : QEntry) (es : List QEntry) :
    seatsTaken (dispatched s q e es) (Ring.tile (s.ring q)) (Ring.rsrc (s.ring q)) =
      seatsTaken s (Ring.tile (s.ring q)) (Ring.rsrc (s.ring q)) + 1 := by
  have hplaced : (dispatched s q e es).gate.placed =
      s.gate.placed ++ [{ tile := Ring.tile (s.ring q), src := Ring.rsrc (s.ring q), ref := e.ref }] := rfl
  rw [seatsTaken, hplaced, List.filter_append, List.length_append, List.filter_cons_of_pos (by simp)]
  rfl

theorem any_broken_false {bs : List EntryRef} {e : EntryRef} (h : ∀ b ∈ bs, inBroken b e = false) :
    bs.any (fun b => inBroken b e) = false := List.any_eq_false.mpr (fun b hb => by rw [h b hb]; exact Bool.false_ne_true)

/-! ## ENTRY_RECEIPT (R322, R402) -/

section
variable {s : State} {i t k : Nat} {m : Msg} {e : QEntry} (harr : arrived s i = some m) (hbody : m.body = .entry t k e)
include harr hbody

theorem exec_entryReceipt_on (hon : s.isOn (GenConfig.domCore s.gen t) = true)
    (hb : (s.tile t).broken.any (fun b => inBroken b e.ref) = false) : exec (.entryReceipt i) s =
      .next ((dropMsg s i).setTile t { s.tile t with
        inq := Tab.put (s.tile t).inq k (Tab.get (s.tile t).inq [] k ++ [e]), broken := keepBroken (s.tile t).broken e.ref }) := by
  have hon' : (dropMsg s i).isOn (GenConfig.domCore (dropMsg s i).gen t) = true := hon
  refine congrArg Host.Outcome.next ?_
  rw [receiptStep, harr]
  simp only [hbody, hon', if_true, tile_dropMsg, hb, Bool.false_eq_true, if_false]

theorem exec_entryReceipt_broken (hon : s.isOn (GenConfig.domCore s.gen t) = true)
    (hb : (s.tile t).broken.any (fun b => inBroken b e.ref) = true) : exec (.entryReceipt i) s =
      .next (badChain (dropMsg s i) e.ref (iTag e.line)) := by
  have hon' : (dropMsg s i).isOn (GenConfig.domCore (dropMsg s i).gen t) = true := hon
  refine congrArg Host.Outcome.next ?_
  rw [receiptStep, harr]
  simp only [hbody, hon', if_true, tile_dropMsg, hb]

theorem exec_entryReceipt_off (hoff : s.isOn (GenConfig.domCore s.gen t) = false) : exec (.entryReceipt i) s =
    .next (endInstr (dropMsg s i) t (some e.ref) 0 { status := stOffline, tag := iTag e.line }) := by
  have hoff' : (dropMsg s i).isOn (GenConfig.domCore (dropMsg s i).gen t) = false := hoff
  refine congrArg Host.Outcome.next ?_
  rw [receiptStep, harr]
  simp only [hbody, hoff', Bool.false_eq_true, if_false]

end

theorem entriesDispatch : Claims.EntriesDispatch := by
  refine ⟨?_, fun s q i m e hon hm hbody hroute hr => ?_, fun s i t k m e harr hbody => ⟨fun hon hb => ?_, fun hon hb => ?_, fun hoff => ?_⟩⟩
  · intro s q e es r n hon hr hnone
    refine ⟨fun hroom hb => ?_, fun hfull hb => ?_, fun hb hq => ?_⟩
    · have hexec := exec_dispatch_sent hon hr hnone (any_broken_false hb) hroom
      rw [postSmall_eq] at hexec
      refine ⟨_, _, hexec, ?_, rfl, rfl, rfl, rfl, rfl, seatsTaken_dispatched ..⟩
      exact congrArg Ring.ready ((ring_setRing s q.toNat q.toNat _).trans (if_pos rfl))
    · exact exec_dispatch_full hon hr hnone (any_broken_false hb) hfull
    · obtain ⟨b, hmem, hbroken⟩ := hb
      have hexec := exec_dispatch_broken hon hr hnone (List.any_eq_true.mpr ⟨b, hmem, hbroken⟩)
      have hring (c : CompArgs) : (addComp (s.setRing q.toNat { r with ready := es }) e.ref c).ring q.toNat =
          { r with ready := es, comps := r.comps ++ [compOf (s.setRing q.toNat { r with ready := es }) e.ref c] } := by
        rw [ring_addComp, hq, if_pos rfl, ring_setRing, if_pos rfl]
      refine ⟨_, _, hexec, congrArg Ring.ready (hring _), congrArg Ring.comps (hring _), rfl, ?_, rfl, rfl⟩
      exact status_compOf (show stBadChain < 256 by decide)
  · have hacc : m.acceptance = some e := by
      simp only [Msg.acceptance, hbody, hroute, List.isEmpty_nil, if_true]
    have hmem : m ∈ s.prom.net := List.mem_of_getElem? hm
    refine ⟨_, exec_dispatch_idle hon hr, fun p hp heq => ?_, fun hnet => ?_, fun p hp hother => ?_⟩
    · have hkept := List.of_mem_filter hp
      rw [Bool.not_eq_true', List.contains_eq_mem, decide_eq_false_iff_not, heq] at hkept
      exact hkept (List.mem_filterMap.mpr ⟨m, hmem, hacc⟩)
    · have hkept := List.of_mem_filter hnet
      rw [hacc] at hkept
      exact Bool.false_ne_true hkept
    · refine List.mem_filter.mpr ⟨hp, ?_⟩
      rw [Bool.not_eq_true', List.contains_eq_mem, decide_eq_false_iff_not, List.mem_filterMap]
      rintro ⟨j, hj, hja⟩
      exact hother j hj hja
  · refine ⟨_, exec_entryReceipt_on harr hbody hon (any_broken_false hb), ⟨rfl, fun j hj => ?_⟩, ?_, ?_, rfl⟩
    · rw [tile_setTile, if_neg hj]
      rfl
    · rw [tile_setTile, if_pos rfl]
      exact Tab.get_put_self ..
    · rw [tile_setTile, if_pos rfl]
  · obtain ⟨b, hmem, hbroken⟩ := hb
    exact ⟨_, _, exec_entryReceipt_broken harr hbody hon (List.any_eq_true.mpr ⟨b, hmem, hbroken⟩), rfl, mem_comps_addComp .., rfl,
      status_compOf (show stBadChain < 256 by decide)⟩
  · exact ⟨_, _, exec_entryReceipt_off harr hbody hoff, mem_comps_endInstr .., rfl, status_compOf (show stOffline < 256 by decide)⟩

/-- Settles O49: what a fetched entry becomes, where an entry is dispatched, and what its tile does with it. -/
theorem entriesRun : Obligations.EntriesRun := by
  unfold Obligations.EntriesRun
  exact ⟨fetchedEntriesJobs, entriesDispatch⟩

end Sys2Proof.Proofs

end

section
/-! PROOF. Requests at a system port, and the answers to its translation queries (R340, R346–R348). -/

namespace Sys2Proof.Proofs

open Sys2Proof Sys2Proof.Machine

/-! ## Answers that leave a port -/

/-- The answer with no data to a stream's read, as it leaves system port `n`. -/
def readFailure (s : State) (n : Nat) (q : PortReq) (r : ReadReq) (a : Answer) : Msg :=
  oneFlit s .response (.sysPort n) (.tile r.tile) [] q.slack q.prio (.rdResp r a [])

theorem answerReq_failed {q : PortReq} {r : ReadReq} {a : Answer} (hq : q.req = .rd r) (ha : a ≠ .okay) (s : State) (n : Nat) :
    answerReq s n q a [] = { s with prom := { s.prom with net := s.prom.net ++ [readFailure s n q r a] } } := by
  rw [answerReq, hq]
  dsimp only
  rw [if_neg ha, post_one]
  rfl

/-- A port with a flag of `SP_ERR` set for a tag. -/
def flaggedPort (x : SysPort) (b tag : Nat) : SysPort :=
  { x with flags := putBit x.flags b true, occ := satInc x.occ, tag := BitVec.ofNat 10 tag }

theorem spFlag_eq (s : State) (n b tag : Nat) : spFlag s n b tag = s.setSp n (flaggedPort (s.sp n) b tag) := rfl

/-- The port once a translation fault has ended a read: XFAULT is set with the address. -/
def faultedPort (x : SysPort) (a : DWord) : SysPort := { flaggedPort x 1 x.tag.toNat with faddr := a }

theorem sp_faultReq {s : State} {n : Nat} {q : PortReq} {r : ReadReq} (hq : q.req = .rd r) :
    (faultReq s n q).sp n = faultedPort (s.sp n) r.addr ∧ (∀ j, j ≠ n → (faultReq s n q).sp j = s.sp j)
    ∧ (faultReq s n q).prom.net = s.prom.net ++ [readFailure s n q r .xfault]
    ∧ (faultReq s n q).tiles = s.tiles ∧ (faultReq s n q).spad = s.spad := by
  have hstep : faultReq s n q = answerReq ((spFlag s n 1 (s.sp n).tag.toNat).setSp n
      { (spFlag s n 1 (s.sp n).tag.toNat).sp n with faddr := r.addr }) n q .xfault [] := by
    unfold faultReq
    rw [hq]
    rfl
  have hx : (spFlag s n 1 (s.sp n).tag.toNat).sp n = flaggedPort (s.sp n) 1 (s.sp n).tag.toNat := by
    rw [spFlag_eq, sp_setSp, if_pos rfl]
  rw [hstep, answerReq_failed hq (by decide), hx]
  refine ⟨?_, fun j hj => ?_, rfl, rfl, rfl⟩
  · exact (sp_setSp ..).trans (if_pos rfl)
  · refine (sp_setSp ..).trans ((if_neg hj).trans ?_)
    rw [spFlag_eq, sp_setSp, if_neg hj]

/-! ## A request is presented (R340, R346) -/

/-- The tag of a request that is presented. -/
def tagOf (q : PortReq) (pa : DWord) (ent : Option TlbEnt) : TagSt :=
  { req := q, pa := pa, xlate := ent.map (fun e => (e.part, e.va, e.size)), got := [], timedOut := false, blocks := false }

theorem present_untranslated {s : State} {n k : Nat} (h : freeTag (s.sp n) = some k) (q : PortReq) (pa : DWord) :
    present s n q pa none = s.setSp n { s.sp n with tags := Tab.put (s.sp n).tags k (tagOf q pa none) } := by
  unfold present
  dsimp only
  rw [h]
  rfl

theorem present_translated {s : State} {n k : Nat} (h : freeTag (s.sp n) = some k) (q : PortReq) (pa : DWord) (e : TlbEnt) :
    present s n q pa (some e) = s.setSp n { s.sp n with
      tags := Tab.put (s.sp n).tags k (tagOf q pa (some e)), tlb := touch (s.sp n).tlb e } := by
  unfold present
  dsimp only
  rw [h]
  rfl

/-! ## Translation (R346, R347) -/

section
variable {s : State} {n : Nat} {q : SpReq}

theorem translate_plain (h : s.always.xlateEn = false) : Machine.translate s n q = .go (reqAccess s q).1 none :=
  if_pos (by rw [h]; rfl)

theorem translate_hit {e : TlbEnt} (h : s.always.xlateEn = true)
    (he : (s.sp n).tlb.find? (fun e => e.hits (reqPart s q) (pageOf (reqAccess s q).1)) = some e)
    (hp : permits e.perm (reqAccess s q).2.2 = true) : Machine.translate s n q = .go (e.phys (reqAccess s q).1) (some e) := by
  simp only [Machine.translate, h, he, hp, Bool.not_true, Bool.false_eq_true, if_false, if_true]

theorem translate_fault {e : TlbEnt} (h : s.always.xlateEn = true)
    (he : (s.sp n).tlb.find? (fun e => e.hits (reqPart s q) (pageOf (reqAccess s q).1)) = some e)
    (hp : permits e.perm (reqAccess s q).2.2 = false) : Machine.translate s n q = .fault := by
  simp only [Machine.translate, h, he, hp, Bool.not_true, Bool.false_eq_true, if_false]

theorem translate_miss (h : s.always.xlateEn = true)
    (he : (s.sp n).tlb.find? (fun e => e.hits (reqPart s q) (pageOf (reqAccess s q).1)) = none) : Machine.translate s n q = .miss := by
  simp only [Machine.translate, h, he, Bool.not_true, Bool.false_eq_true, if_false]

end

/-! ## SYSTEM_PORT_REQUEST -/

theorem tlbEcc_clean (s : State) (n : Nat) (q : SpReq) : tlbEcc s n q .clean = s := by
  unfold tlbEcc
  dsimp only
  split <;> rfl

section
variable {s : State} {n i : Nat} {m : Msg} {q : PortReq} (harr : arrived s i = some m) (hq : portReq m = some q)
  (hdst : m.dst = .sysPort n) (hon : availOf s (portDom s n) = .on) (hroom : portRoom (s.sp n) = true)
include harr hq hdst hon hroom

theorem exec_systemPortRequest : exec (.systemPortRequest n ⟨i, .clean⟩) s = .next ((acceptReq (dropMsg s i) n q).getD s) := by
  have hroom' : portRoom (s.sp n) = true := hroom
  refine congrArg Host.Outcome.next ?_
  rw [portRequestStep, harr]
  simp only [hq, hdst, hon, hroom', ne_eq, not_true_eq_false, if_false, if_true, tlbEcc_clean]

end

/-! With nothing waiting at the port, a request is translated at once. -/

section
variable {s : State} {n : Nat} {q : PortReq} (h : (s.sp n).waiting = [])
include h

theorem acceptReq_go {pa : DWord} {ent : Option TlbEnt} (ht : Machine.translate s n q.req = .go pa ent) :
    acceptReq s n q = some (present s n q pa ent) := by
  simp only [acceptReq, h, List.any_nil, Bool.false_eq_true, if_false, ht]

theorem acceptReq_fault (ht : Machine.translate s n q.req = .fault) : acceptReq s n q = some (faultReq s n q) := by
  simp only [acceptReq, h, List.any_nil, Bool.false_eq_true, if_false, ht]

theorem acceptReq_miss (ht : Machine.translate s n q.req = .miss) : acceptReq s n q =
    (sendQuery s n q.req).map (fun s => s.setSp n { s.sp n with waiting := (s.sp n).waiting ++ [q] }) := by
  simp only [acceptReq, h, List.any_nil, Bool.false_eq_true, if_false, ht]

end

/-- The port once a query has gone out for a request's page. -/
def queryingPort (s : State) (n k : Nat) (q : SpReq) : SysPort :=
  { s.sp n with
    xmiss := satInc (s.sp n).xmiss
    queries := Tab.put (s.sp n).queries k { part := reqPart s q, va := pageOf (reqAccess s q).1, wr := (reqAccess s q).2.2, invals := [] } }

theorem sendQuery_free {s : State} {n k : Nat} {q : SpReq} (hnone : queryFor s n q = none) (hk : freeQuery (s.sp n) = some k) :
    sendQuery s n q = some (s.setSp n (queryingPort s n k q)) := by
  unfold sendQuery
  rw [hnone, if_neg (by exact Bool.false_ne_true)]
  dsimp only
  rw [hk]
  rfl

theorem requestsTranslated : Claims.RequestsTranslated := by
  intro s n i m q x a harr hq hdst hon hroom hwait
  have hexec := exec_systemPortRequest harr hq hdst hon hroom
  refine ⟨fun k hk hoff => ?_, fun e hen he => ⟨fun k hk hp => ?_, fun r hp hr => ?_⟩, fun k hen he hnone hk => ?_⟩
  · rw [acceptReq_go (s := dropMsg s i) hwait (translate_plain (s := dropMsg s i) hoff), Option.getD_some] at hexec
    rw [present_untranslated (s := dropMsg s i) hk] at hexec
    refine ⟨_, tagOf q a.1 none, hexec, (sp_setSp ..).trans (if_pos rfl), rfl, rfl, rfl, rfl, fun j hj => ?_, rfl, rfl, rfl⟩
    exact (sp_setSp ..).trans (if_neg hj)
  · rw [acceptReq_go (s := dropMsg s i) hwait (translate_hit (s := dropMsg s i) hen he hp), Option.getD_some] at hexec
    rw [present_translated (s := dropMsg s i) hk] at hexec
    have hsp (y : SysPort) : ((dropMsg s i).setSp n y).sp n = y := (sp_setSp ..).trans (if_pos rfl)
    exact ⟨_, tagOf q (e.phys a.1) (some e), hexec, congrArg SysPort.tags (hsp _), rfl, rfl, congrArg SysPort.tlb (hsp _), rfl, rfl⟩
  · rw [acceptReq_fault (s := dropMsg s i) hwait (translate_fault (s := dropMsg s i) hen he hp), Option.getD_some] at hexec
    obtain ⟨hport, -, hnet, -, hspad⟩ := sp_faultReq (s := dropMsg s i) (n := n) hr
    have ha : a.1 = r.addr := by
      change (reqAccess s q.req).1 = r.addr
      rw [hr]
      rfl
    refine ⟨_, readFailure (dropMsg s i) n q r .xfault, hexec, ?_, ?_, ?_, hnet, rfl, rfl, hspad⟩
    · exact (congrArg SysPort.tags hport).trans rfl
    · exact (congrArg SysPort.faddr hport).trans ha.symm
    · exact (congrArg (fun y : SysPort => bit y.flags 1) hport).trans ((bit_putBit _ (by decide) _ _).trans (if_pos rfl))
  · rw [acceptReq_miss (s := dropMsg s i) hwait (translate_miss (s := dropMsg s i) hen he), sendQuery_free (s := dropMsg s i) hnone hk] at hexec
    have hsp : ((dropMsg s i).setSp n (queryingPort (dropMsg s i) n k q.req)).sp n = queryingPort (dropMsg s i) n k q.req :=
      (sp_setSp ..).trans (if_pos rfl)
    refine ⟨_, hexec, ?_, rfl, rfl⟩
    refine (sp_setSp ..).trans ((if_pos rfl).trans ?_)
    rw [hsp]
    have hnil : (queryingPort (dropMsg s i) n k q.req).waiting = [] := hwait
    rw [hnil]
    rfl

/-! ## TRANSLATION_ANSWER (R347, R348) -/

/-- The translation that an answer brings. -/
def answeredEnt (q : Query) (pa : BitVec 52) (size perm : BitVec 2) : TlbEnt :=
  { part := q.part, va := q.va, pa := pa, size := size, perm := perm }

section
variable {s : State} {n id : Nat} {pa : BitVec 52} {size perm : BitVec 2} {q : Query} (hact : portActive s n = true)
  (hq : Tab.find (s.sp n).queries id = some q)
include hact hq

theorem xlateAnswerStep_dropped {fault : Bool}
    (h : (q.invals ++ (s.sp n).inval.toList).any (fun v => v.hits q.part q.va size) = true) :
    xlateAnswerStep s n id pa size perm fault = s.setSp n { s.sp n with
      xmiss := satInc (s.sp n).xmiss, queries := Tab.put (s.sp n).queries id { q with invals := [] } } := by
  simp only [xlateAnswerStep, hq, hact, h, Bool.not_true, Bool.false_eq_true, if_false, if_true]

section
variable (hinv : q.invals = []) (hcur : (s.sp n).inval = none)
include hinv hcur

/-- The port with a translation at the front of its buffer and the query ended. -/
theorem xlateAnswerStep_good (hp : permits perm q.wr = true) : xlateAnswerStep s n id pa size perm false =
    let s0 := s.setSp n { s.sp n with queries := Tab.erase (s.sp n).queries id }
    let s1 := s0.setSp n { s0.sp n with tlb := (answeredEnt q pa size perm :: (s0.sp n).tlb).take 256 }
    drain n (s1.sp n).waiting [] [] s1 := by
  simp only [xlateAnswerStep, hq, hact, hinv, hcur, hp, Bool.not_true, Bool.false_eq_true, if_false, Option.toList_none, List.append_nil,
    List.any_nil, Bool.or_self]
  rfl

theorem xlateAnswerStep_faulted : xlateAnswerStep s n id pa size perm true =
    let s0 := s.setSp n { s.sp n with queries := Tab.erase (s.sp n).queries id }
    let s1 := endFaulted n q true perm (s.sp n).waiting [] [] s0
    drain n (s1.sp n).waiting [] [] s1 := by
  simp only [xlateAnswerStep, hq, hact, hinv, hcur, Bool.not_true, Bool.false_eq_true, if_false, Option.toList_none, List.append_nil,
    List.any_nil, Bool.true_or, if_true]

end

end

theorem hits_own (q : Query) (pa : BitVec 52) (size perm : BitVec 2) : (answeredEnt q pa size perm).hits q.part q.va = true := by
  simp [TlbEnt.hits, answeredEnt, samePage]

theorem find_answered (q : Query) (pa : BitVec 52) (size perm : BitVec 2) (l : List TlbEnt) :
    ((answeredEnt q pa size perm :: l).take 256).find? (fun e => e.hits q.part q.va) = some (answeredEnt q pa size perm) :=
  List.find?_cons_of_pos (hits_own ..)

/-- A stream's read that waits alone, and whose page is answered with a fault. -/
theorem endFaulted_read {s : State} {n : Nat} {q : Query} {w : PortReq} {r : ReadReq} (hr : w.req = .rd r) (hpart : r.part = q.part)
    (hpage : pageOf r.addr = q.va) (perm : BitVec 2) : endFaulted n q true perm [w] [] [] s =
      (faultReq s n w).setSp n { (faultReq s n w).sp n with waiting := [] } := by
  simp only [endFaulted, hr, reqPart, reqAccess, hpart, hpage, List.contains_nil, Bool.not_false, decide_true, Bool.and_self, Bool.true_or,
    if_true]

theorem translationAnswered : Claims.TranslationAnswered := by
  intro s n id pa size perm q x hact hq
  have hexec (fault : Bool) : exec (.translationAnswer n id pa size perm fault) s = .next (xlateAnswerStep s n id pa size perm fault) := rfl
  let s0 := s.setSp n { x with queries := Tab.erase x.queries id }
  have hx0 : s0.sp n = { x with queries := Tab.erase x.queries id } := (sp_setSp ..).trans (if_pos rfl)
  let s1 := s0.setSp n { s0.sp n with tlb := (answeredEnt q pa size perm :: (s0.sp n).tlb).take 256 }
  have hx1 : s1.sp n = { x with
      queries := Tab.erase x.queries id, tlb := (answeredEnt q pa size perm :: x.tlb).take 256 } := by
    refine (sp_setSp ..).trans ((if_pos rfl).trans ?_)
    rw [hx0]
  refine ⟨fun hinv hcur hp hwait => ?_, fun w k r hinv hcur hp hwait hr hpart hpage hrd hen hk => ?_,
    fun w r hinv hcur hwait hr hpart hpage => ?_, fun fault hhit => ?_⟩
  · have hend : exec (.translationAnswer n id pa size perm false) s = .next (s1.setSp n { s1.sp n with waiting := [] }) := by
      rw [hexec, xlateAnswerStep_good hact hq hinv hcur hp]
      change Host.Outcome.next (drain n (s1.sp n).waiting [] [] s1) = _
      have hnil : (s1.sp n).waiting = [] := (congrArg SysPort.waiting hx1).trans hwait
      rw [hnil]
      rfl
    refine ⟨_, hend, ?_, fun j hj => ?_, rfl, rfl⟩
    · refine (sp_setSp ..).trans ((if_pos rfl).trans ?_)
      rw [hx1, ← hwait]
      rfl
    · rw [sp_setSp, if_neg hj, sp_setSp, if_neg hj, sp_setSp, if_neg hj]
  · have hwait1 : (s1.sp n).waiting = [w] := (congrArg SysPort.waiting hx1).trans hwait
    have hfree1 : freeTag (s1.sp n) = some k := by rw [hx1]; exact hk
    have hfind : (s1.sp n).tlb.find? (fun e => e.hits (reqPart s1 w.req) (pageOf (reqAccess s1 w.req).1)) =
        some (answeredEnt q pa size perm) := by
      rw [hr, hx1]
      change ((answeredEnt q pa size perm :: x.tlb).take 256).find? (fun e => e.hits r.part (pageOf r.addr)) = _
      rw [hpart, hpage]
      exact find_answered ..
    have hperm : permits (answeredEnt q pa size perm).perm (reqAccess s1 w.req).2.2 = true := by
      rw [hr]
      rw [hrd] at hp
      exact hp
    have hgo := translate_hit (s := s1) (n := n) (q := w.req) hen hfind hperm
    have hpres := present_translated hfree1 w ((answeredEnt q pa size perm).phys (reqAccess s1 w.req).1) (answeredEnt q pa size perm)
    let s2 := s1.setSp n { s1.sp n with
      tags := Tab.put (s1.sp n).tags k (tagOf w ((answeredEnt q pa size perm).phys (reqAccess s1 w.req).1) (some (answeredEnt q pa size perm)))
      tlb := touch (s1.sp n).tlb (answeredEnt q pa size perm) }
    have hend : exec (.translationAnswer n id pa size perm false) s = .next (s2.setSp n { s2.sp n with waiting := [] }) := by
      rw [hexec, xlateAnswerStep_good hact hq hinv hcur hp]
      change Host.Outcome.next (drain n (s1.sp n).waiting [] [] s1) = _
      rw [hwait1]
      simp only [drain, List.contains_nil, Bool.false_eq_true, if_false, hgo, hpres]
      rfl
    have hx2 : (s2.setSp n { s2.sp n with waiting := [] }).sp n = { s2.sp n with waiting := [] } := (sp_setSp ..).trans (if_pos rfl)
    have htags2 : (s2.sp n).tags = Tab.put (s1.sp n).tags k
        (tagOf w ((answeredEnt q pa size perm).phys (reqAccess s1 w.req).1) (some (answeredEnt q pa size perm))) :=
      congrArg SysPort.tags ((sp_setSp ..).trans (if_pos rfl))
    refine ⟨_, tagOf w ((answeredEnt q pa size perm).phys (reqAccess s1 w.req).1) (some (answeredEnt q pa size perm)), hend, ?_, ?_, rfl,
      ?_, rfl, rfl⟩
    · rw [hx2]
    · rw [hx2]
      refine htags2.trans ?_
      rw [hx1]
    · change (answeredEnt q pa size perm).phys (reqAccess s1 w.req).1 = _
      rw [hr]
      rfl
  · obtain ⟨hport, -, hnet, htiles, -⟩ := sp_faultReq (s := s0) (n := n) hr
    let s2 := (faultReq s0 n w).setSp n { (faultReq s0 n w).sp n with waiting := [] }
    have hx2 : s2.sp n = { faultedPort (s0.sp n) r.addr with waiting := [] } := by
      refine (sp_setSp ..).trans ((if_pos rfl).trans ?_)
      rw [hport]
    have hend : exec (.translationAnswer n id pa size perm true) s = .next (s2.setSp n { s2.sp n with waiting := [] }) := by
      rw [hexec, xlateAnswerStep_faulted hact hq hinv hcur, hwait]
      dsimp only
      rw [endFaulted_read hr hpart hpage]
      change Host.Outcome.next (drain n (s2.sp n).waiting [] [] s2) = _
      have hnil : (s2.sp n).waiting = [] := congrArg SysPort.waiting hx2
      rw [hnil]
      rfl
    have hx3 : (s2.setSp n { s2.sp n with waiting := [] }).sp n =
        { faultedPort { x with queries := Tab.erase x.queries id } r.addr with waiting := [] } := by
      refine (sp_setSp ..).trans ((if_pos rfl).trans ?_)
      rw [hx2, hx0]
    refine ⟨_, readFailure s0 n w r .xfault, hend, ?_, ?_, ?_, ?_, ?_, hnet, rfl, htiles⟩
    · rw [hx3]
    · rw [hx3]
      rfl
    · rw [hx3]
      rfl
    · rw [hx3]
      rfl
    · rw [hx3]
      exact (bit_putBit _ (by decide) _ _).trans (if_pos rfl)
  · have hend := hexec fault
    rw [xlateAnswerStep_dropped hact hq hhit] at hend
    exact ⟨_, hend, (sp_setSp ..).trans (if_pos rfl), rfl, rfl⟩

/-- Settles O52: what a port makes of a request, and of the answer to a query. -/
theorem portRequests : Obligations.PortRequests := by
  unfold Obligations.PortRequests
  exact ⟨requestsTranslated, translationAnswered⟩

end Sys2Proof.Proofs

end

section
/-! PROOF. Responses at a system port, tags that time out, and invalidations (R342, R345, R348). -/

namespace Sys2Proof.Proofs

open Sys2Proof Sys2Proof.Machine

/-! ## SYSTEM_PORT_RESPONSE (R342) -/

/-- The state in which a response's flit has been counted. -/
def flitCounted (s : State) (n : Nat) : State := s.setSp n { s.sp n with rspFlits := (s.sp n).rspFlits + 1 }

theorem sp_flitCounted (s : State) (n : Nat) : (flitCounted s n).sp n = { s.sp n with rspFlits := (s.sp n).rspFlits + 1 } :=
  (sp_setSp ..).trans (if_pos rfl)

theorem tags_flitCounted (s : State) (n : Nat) : ((flitCounted s n).sp n).tags = (s.sp n).tags := by rw [sp_flitCounted]

theorem tags_freeTagOf (s : State) (n tag : Nat) : ((freeTagOf s n tag).sp n).tags = Tab.erase (s.sp n).tags tag :=
  congrArg SysPort.tags ((sp_setSp ..).trans (if_pos rfl))

theorem sp_spFlag (s : State) (n b tag : Nat) : (spFlag s n b tag).sp n = flaggedPort (s.sp n) b tag :=
  (sp_setSp ..).trans (if_pos rfl)

theorem bit_flags_spFlag (s : State) (n tag : Nat) {b : Nat} (hb : b < 4) : bit ((spFlag s n b tag).sp n).flags b = true := by
  rw [sp_spFlag]
  exact (bit_putBit _ hb _ _).trans (if_pos rfl)

section
variable {s : State} {n tag : Nat} (hact : portActive s n = true)
include hact

theorem portResponse_unknown {idx : Nat} {code : BitVec 3} {data : List Byte} {last : Bool} (h : Tab.find (s.sp n).tags tag = none) :
    portResponseStep s n tag idx code data last = spFlag (flitCounted s n) n 0 tag := by
  unfold portResponseStep
  rw [hact, Bool.not_true, if_neg Bool.false_ne_true]
  extract_lets y s0 x
  have h0 : Tab.find x.tags tag = none := (congrArg (fun t => Tab.find t tag) (tags_flitCounted s n)).trans h
  rw [h0]
  rfl

section
variable {g : TagSt} (h : Tab.find (s.sp n).tags tag = some g)
include h

theorem portResponse_late {idx : Nat} {code : BitVec 3} {data : List Byte} (hlate : g.timedOut = true) :
    portResponseStep s n tag idx code data true = spFlag (freeTagOf (flitCounted s n) n tag) n 2 tag := by
  unfold portResponseStep
  rw [hact, Bool.not_true, if_neg Bool.false_ne_true]
  extract_lets y s0 x
  have h0 : Tab.find x.tags tag = some g := (congrArg (fun t => Tab.find t tag) (tags_flitCounted s n)).trans h
  rw [h0]
  dsimp only
  rw [if_pos hlate, if_pos rfl]
  rfl

section
variable (hlive : g.timedOut = false)
include hlive

theorem portResponse_failed {idx : Nat} {code : BitVec 3} {data : List Byte} {last : Bool} (hcode : code ≠ 0) :
    portResponseStep s n tag idx code data last = failTag (flitCounted s n) n tag code.toNat g := by
  unfold portResponseStep
  rw [hact, Bool.not_true, if_neg Bool.false_ne_true]
  extract_lets y s0 x
  have h0 : Tab.find x.tags tag = some g := (congrArg (fun t => Tab.find t tag) (tags_flitCounted s n)).trans h
  rw [h0]
  dsimp only
  rw [if_neg (by rw [hlive]; exact Bool.false_ne_true), if_pos hcode]
  rfl

/-- The tag with the newest flit of its response. -/
def withFlit (g : TagSt) (idx : Nat) (data : List Byte) : TagSt := { g with got := g.got ++ [(idx, data)] }

theorem portResponse_last {idx : Nat} {data : List Byte} (hall : (reqAccess (flitCounted s n) g.req.req).2.2 = true
      ∨ gotAll (withFlit g idx data) (flitsOf (reqAccess (flitCounted s n) g.req.req).1 (reqAccess (flitCounted s n) g.req.req).2.1) = true) :
    portResponseStep s n tag idx 0 data true = finishTag (flitCounted s n) n tag (withFlit g idx data) := by
  unfold portResponseStep
  rw [hact, Bool.not_true, if_neg Bool.false_ne_true]
  extract_lets y s0 x
  have h0 : Tab.find x.tags tag = some g := (congrArg (fun t => Tab.find t tag) (tags_flitCounted s n)).trans h
  rw [h0]
  dsimp only
  rw [if_neg (by rw [hlive]; exact Bool.false_ne_true), if_neg (by simp), if_pos rfl]
  exact if_pos (by rw [Bool.or_eq_true]; exact hall)

end

end

end

/-- The data of a read of one granule comes from its one flit. -/
theorem assemble_one {g : TagSt} {data : List Byte} (hg : g.got = []) {a : DWord} {len : Nat} (hone : flitsOf a len = 1) :
    assemble (withFlit g 0 data) a len = (List.range len).map (fun j => data.getD (a.toNat % 128 + j) 0) := by
  have hgot : (withFlit g 0 data).got = [(0, data)] := by rw [withFlit, hg]; rfl
  unfold assemble
  rw [hgot]
  refine List.map_congr_left (fun k hk => ?_)
  have hlt : k < len := List.mem_range.mp hk
  have hin : a.toNat % 128 + k < 128 := by
    rw [flitsOf, if_neg (by omega)] at hone
    omega
  have hfirst : (a.toNat % 128 + k) / 128 = 0 := Nat.div_eq_of_lt hin
  rw [hfirst, Nat.mod_eq_of_lt hin]
  rfl

theorem gotAll_one {g : TagSt} {data : List Byte} (hg : g.got = []) : gotAll (withFlit g 0 data) 1 = true := by
  have hgot : (withFlit g 0 data).got = [(0, data)] := by rw [withFlit, hg]; rfl
  rw [gotAll, hgot]
  rfl

/-- A read's answer of one flit. -/
theorem answerReq_read_one {s : State} {n : Nat} {q : PortReq} {r : ReadReq} (hq : q.req = .rd r) (hone : flitsOf r.addr r.len = 1)
    (data : List Byte) : answerReq s n q .okay data = { s with prom := { s.prom with
      net := s.prom.net ++ [oneFlit s .response (.sysPort n) (.tile r.tile) [] q.slack q.prio (.rdResp r .okay data)] } } := by
  rw [answerReq, hq]
  dsimp only
  rw [if_pos rfl, hone, post_one]

theorem answerReq_write {s : State} {n : Nat} {q : PortReq} {w : WriteReq} (hq : q.req = .wr w) (a : Answer) (data : List Byte) :
    answerReq s n q a data = { s with prom := { s.prom with
      net := s.prom.net ++ [oneFlit s .response (.sysPort n) (.tile w.tile) [] q.slack q.prio (.wrAck w a 0)] } } := by
  rw [answerReq, hq]
  dsimp only
  rw [post_one]

/-- The end of a read by an error response: DENIED for code 1, and ERROR for the others below 3. -/
theorem failTag_read {s : State} {n tag code : Nat} {g : TagSt} {r : ReadReq} (hr : g.req.req = .rd r) (hcode : code < 3) :
    let u := failTag s n tag code g
    (u.sp n).tags = Tab.erase (s.sp n).tags tag ∧ bit (u.sp n).flags 3 = true
    ∧ u.prom.net = s.prom.net ++ [readFailure s n g.req r (if code = 1 then .denied else .error)] := by
  intro u
  let s1 := spFlag (freeTagOf s n tag) n 3 tag
  have htags : (s1.sp n).tags = Tab.erase (s.sp n).tags tag := by
    rw [sp_spFlag]
    exact tags_freeTagOf ..
  have hflag : bit (s1.sp n).flags 3 = true := bit_flags_spFlag _ n tag (by decide)
  by_cases h1 : code = 1
  · have hu : u = answerReq s1 n g.req .denied [] := if_pos h1
    rw [hu, answerReq_failed hr (by decide), if_pos h1]
    exact ⟨htags, hflag, rfl⟩
  · have hu : u = answerReq (klog s1 .reported .hostError (luSysPort n) { addr := (reqAccess s1 g.req.req).1 }) n g.req .error [] := by
      refine (if_neg h1).trans ?_
      rw [if_neg (by omega)]
    rw [hu, answerReq_failed hr (by decide), if_neg h1]
    have hsp : (klog s1 .reported .hostError (luSysPort n) { addr := (reqAccess s1 g.req.req).1 }).sp n = s1.sp n := by
      rw [State.sp, klog_prom]
      rfl
    refine ⟨(congrArg SysPort.tags hsp).trans htags, (congrArg (fun x : SysPort => bit x.flags 3) hsp).trans hflag, ?_⟩
    dsimp only
    rw [klog_prom]
    have hmsg : readFailure (klog s1 .reported .hostError (luSysPort n) { addr := (reqAccess s1 g.req.req).1 }) n g.req r .error =
        readFailure s n g.req r .error := by
      rw [readFailure, oneFlit, klog_gen]
      rfl
    rw [hmsg]
    rfl

theorem portResponses : Claims.PortResponses := by
  intro s n tag hact
  refine ⟨fun g hg hlive => ⟨fun r data hr hgot hone => ?_, fun w data hw hsig => ?_, fun r data hr => ?_, fun r data hr => ?_⟩,
    fun g code data hg hlate => ?_, fun idx code data last hnone => ?_⟩
  · have hacc : reqAccess (flitCounted s n) g.req.req = (r.addr, r.len, false) := by rw [hr]; rfl
    have hexec : exec (.systemPortResponse n tag 0 0 data true) s = .next (finishTag (flitCounted s n) n tag (withFlit g 0 data)) := by
      refine congrArg Host.Outcome.next (portResponse_last hact hg hlive (Or.inr ?_))
      rw [hacc]
      exact (congrArg (gotAll (withFlit g 0 data)) hone).trans (gotAll_one hgot)
    let s1 := freeTagOf (flitCounted s n) n tag
    have hfin : finishTag (flitCounted s n) n tag (withFlit g 0 data) =
        answerReq s1 n g.req .okay (assemble (withFlit g 0 data) r.addr r.len) := by
      have hreq : (withFlit g 0 data).req = g.req := rfl
      unfold finishTag
      rw [hreq, hr]
      rfl
    rw [hfin, assemble_one hgot hone, answerReq_read_one hr hone] at hexec
    refine ⟨_, _, hexec, ?_, rfl, rfl, rfl, rfl, rfl, rfl⟩
    exact (tags_freeTagOf ..).trans (congrArg (fun t => Tab.erase t tag) (tags_flitCounted s n))
  · have hacc : (reqAccess (flitCounted s n) g.req.req).2.2 = true := by rw [hw]; rfl
    have hexec : exec (.systemPortResponse n tag 0 0 data true) s = .next (finishTag (flitCounted s n) n tag (withFlit g 0 data)) :=
      congrArg Host.Outcome.next (portResponse_last hact hg hlive (Or.inl hacc))
    let s1 := freeTagOf (flitCounted s n) n tag
    have hfin : finishTag (flitCounted s n) n tag (withFlit g 0 data) = answerReq s1 n g.req .okay [] := by
      have hreq : (withFlit g 0 data).req = g.req := rfl
      unfold finishTag
      rw [hreq, hw]
      dsimp only
      rw [forward, hsig]
    rw [hfin, answerReq_write hw] at hexec
    refine ⟨_, _, hexec, ?_, rfl, rfl, rfl, rfl⟩
    exact (tags_freeTagOf ..).trans (congrArg (fun t => Tab.erase t tag) (tags_flitCounted s n))
  · have hexec : exec (.systemPortResponse n tag 0 1 data true) s = .next (failTag (flitCounted s n) n tag 1 g) :=
      congrArg Host.Outcome.next (portResponse_failed hact hg hlive (by decide))
    obtain ⟨htags, hflag, hnet⟩ := failTag_read (s := flitCounted s n) (n := n) (tag := tag) (code := 1) hr (by decide)
    exact ⟨_, _, hexec, htags.trans (congrArg (fun t => Tab.erase t tag) (tags_flitCounted s n)), hnet, rfl, hflag⟩
  · have hexec : exec (.systemPortResponse n tag 0 2 data true) s = .next (failTag (flitCounted s n) n tag 2 g) :=
      congrArg Host.Outcome.next (portResponse_failed hact hg hlive (by decide))
    obtain ⟨htags, hflag, hnet⟩ := failTag_read (s := flitCounted s n) (n := n) (tag := tag) (code := 2) hr (by decide)
    exact ⟨_, _, hexec, htags.trans (congrArg (fun t => Tab.erase t tag) (tags_flitCounted s n)), hnet, rfl, hflag⟩
  · have hexec : exec (.systemPortResponse n tag 0 code data true) s = .next (spFlag (freeTagOf (flitCounted s n) n tag) n 2 tag) :=
      congrArg Host.Outcome.next (portResponse_late hact hg hlate)
    refine ⟨_, hexec, ?_, bit_flags_spFlag _ n tag (by decide), rfl, rfl⟩
    rw [sp_spFlag]
    exact (tags_freeTagOf ..).trans (congrArg (fun t => Tab.erase t tag) (tags_flitCounted s n))
  · have hexec : exec (.systemPortResponse n tag idx code data last) s = .next (spFlag (flitCounted s n) n 0 tag) :=
      congrArg Host.Outcome.next (portResponse_unknown hact hnone)
    refine ⟨_, hexec, ?_, bit_flags_spFlag _ n tag (by decide), rfl, rfl⟩
    rw [sp_spFlag]
    exact tags_flitCounted s n

/-! ## RESPONSE_TIMEOUT of a tag (R345) -/

theorem tagTimesOut : Claims.TagTimesOut := by
  intro s n k g hact hg
  refine ⟨fun r hlive hr => ?_, fun hlate => ?_⟩
  · let s1 := s.setSp n { s.sp n with tags := Tab.put (s.sp n).tags k { g with timedOut := true } }
    let s2 := klog s1 .reported .rspTimeout (luSysPort n) { addr := (reqAccess s1 g.req.req).1 }
    have hexec : exec (.responseTimeout (.tag n k)) s = .next (answerReq s2 n g.req .timeout []) := by
      refine congrArg Host.Outcome.next ?_
      unfold timeoutStep tagTimeout
      dsimp only
      rw [hg]
      dsimp only
      rw [if_neg (by rw [hlive, hact]; exact Bool.false_ne_true)]
    have hprom : s2.prom = s1.prom := klog_prom ..
    rw [answerReq_failed hr (by decide), hprom] at hexec
    refine ⟨_, _, hexec, ?_, rfl, rfl, rfl, klog_tiles .., klog_spad ..⟩
    exact (sp_setSp s n n _).trans (if_pos rfl)
  · refine congrArg Host.Outcome.next ?_
    unfold timeoutStep tagTimeout
    dsimp only
    rw [hg]
    dsimp only
    rw [if_pos (by rw [hlate]; rfl)]

/-! ## Invalidations (R348) -/

theorem invalidationsDropPages : Claims.InvalidationsDropPages := by
  intro s n hact
  refine ⟨?_, fun v hv => ⟨fun hdone => ?_, fun hblocked => ?_⟩⟩
  · intro all va part hnone v
    let tags := (s.sp n).tags.map (fun p => (p.1, { p.2 with blocks := p.2.blocks || (match p.2.xlate with
      | some (a, b, c) => v.hits a b c
      | none => false) }))
    let x : SysPort := { s.sp n with tlb := (s.sp n).tlb.filter (fun e => !v.hits e.part e.va e.size), tags := tags, inval := some v }
    have hexec : exec (.invalidation n all va part) s = .next (s.setSp n x) := by
      refine congrArg Host.Outcome.next (if_neg ?_)
      rw [hact, hnone]
      exact Bool.false_ne_true
    have hx : (s.setSp n x).sp n = x := (sp_setSp ..).trans (if_pos rfl)
    refine ⟨_, hexec, ?_, fun e => ?_, ?_, ?_, fun j hj => (sp_setSp ..).trans (if_neg hj), rfl, rfl⟩
    · rw [hx]
    · rw [hx]
      exact List.mem_filter.trans (and_congr_right (fun _ => by rw [Bool.not_eq_true']))
    · rw [hx]
    · rw [hx]
  · have hfree : (s.sp n).tags.any (fun p => p.2.blocks && !p.2.timedOut) = false := List.any_eq_false.mpr (fun p hp => by
      intro hb
      rw [Bool.and_eq_true, Bool.not_eq_true'] at hb
      obtain ⟨hblocks, hlive⟩ := hb
      exact Bool.false_ne_true (hlive.symm.trans (hdone p hp hblocks)))
    have hexec : exec (.invalidationComplete n) s = .next (s.setSp n { s.sp n with
        inval := none, queries := (s.sp n).queries.map (fun p => (p.1, { p.2 with invals := p.2.invals ++ [v] })) }) := by
      refine congrArg Host.Outcome.next ?_
      simp only [invalDoneStep, hv, hact, hfree, Bool.not_true, Bool.or_self, Bool.false_eq_true, if_false]
    exact ⟨_, hexec, (sp_setSp ..).trans (if_pos rfl), fun j hj => (sp_setSp ..).trans (if_neg hj), rfl, rfl⟩
  · obtain ⟨p, hp, hblocks, hlive⟩ := hblocked
    have hheld : (s.sp n).tags.any (fun p => p.2.blocks && !p.2.timedOut) = true :=
      List.any_eq_true.mpr ⟨p, hp, by rw [hblocks, hlive]; rfl⟩
    refine congrArg Host.Outcome.next ?_
    simp only [invalDoneStep, hv, hheld, Bool.or_true, if_true]

/-- Settles O53: what a response does to its tag, a timeout, and what an invalidation takes. -/
theorem portAnswers : Obligations.PortAnswers := by
  unfold Obligations.PortAnswers
  exact ⟨portResponses, tagTimesOut, invalidationsDropPages⟩

end Sys2Proof.Proofs

end

section
/-! PROOF. Window ports: their requests leave in parts, bank groups perform these, and the answers come back (R339, R349, R400, R416). -/

namespace Sys2Proof.Proofs

open Sys2Proof Sys2Proof.Machine

/-! ## The parts of a request (R349) -/

/-- The request that one part of a window-port request carries. -/
def partReq (l tag op o : Nat) (data : List Byte) (p : (Nat × Nat) × Nat) : WpReq :=
  { port := l, tag := tag, op := op, part := p.2, off := p.1.1, len := p.1.2
    data := if op = 1 then (data.drop (p.1.1 - o)).take p.1.2 else data.take 16 }

/-- The message that carries it to its bank group. -/
def partMsg (slack : Int) (l tag op o : Nat) (data : List Byte) (s : State) (p : (Nat × Nat) × Nat) : Msg :=
  { cls := .request, src := .winPort l, dst := .tile (p.1.1 / slotBytes), slack := slack, stamp := slack, prio := 0
    flits := if op = 1 then flitsOf (BitVec.ofNat 64 p.1.1) p.1.2 else 1, index := 0
    route := GenConfig.route s.gen (.winPort l) (.tile (p.1.1 / slotBytes)) ++ [bankOf s p.1.1], inp := Node.num (.winPort l), done := 0
    got := [], sats := 0, bad := false, again := false, body := .wp (partReq l tag op o data p) }

/-- The slack of a window port's requests (R293, R304). -/
def windowSlack (s : State) : Int := max (slackFloor s) (sext 16 (fld s.turn.fixed 31 16))

/-- Messages that leave one after the other. -/
theorem foldl_post (f : State → α → Msg) (g : State → α → State) (hg : ∀ s p, g s p = { s with prom := { s.prom with
      net := s.prom.net ++ (f s p).split } })
    (hf : ∀ s net p, f { s with prom := { s.prom with net := net } } p = f s p) (l : List α) (s : State) :
    l.foldl g s = { s with prom := { s.prom with net := s.prom.net ++ (l.map (f s)).flatMap Msg.split } } := by
  induction l generalizing s with
  | nil => simp
  | cons p l ih =>
    have htail : l.map (f { s with prom := { s.prom with net := s.prom.net ++ (f s p).split } }) = l.map (f s) :=
      List.map_congr_left (fun q _ => hf ..)
    rw [List.foldl_cons, hg, ih, htail]
    simp only [List.map_cons, List.flatMap_cons, List.append_assoc]

/-- The record of the parts that wait for their answers. -/
def partsOut (s : State) (l tag o n : Nat) : State :=
  { s with prom := { s.prom with wpOut := Tab.put s.prom.wpOut (wpKey l tag) ((wpParts s o n).map (fun _ => none)) } }

theorem wpSend_eq (s : State) (l tag op o n : Nat) (data : List Byte) : wpSend s l tag op o n data =
    { partsOut s l tag o n with prom := { (partsOut s l tag o n).prom with
      net := s.prom.net ++ ((wpParts s o n).zipIdx.map (partMsg (windowSlack s) l tag op o data s)).flatMap Msg.split } } :=
  foldl_post (partMsg (windowSlack s) l tag op o data)
    (fun u p => post u .request (.winPort l) (.tile (p.1.1 / slotBytes)) [bankOf u p.1.1] (windowSlack s) 0
      (if op = 1 then flitsOf (BitVec.ofNat 64 p.1.1) p.1.2 else 1) (.wp (partReq l tag op o data p)))
    (fun _ _ => rfl) (fun _ _ _ => rfl) (wpParts s o n).zipIdx (partsOut s l tag o n)

theorem windowPortRequested : Claims.WindowPortRequested := by
  intro s l tag op addr len data n answers hfree
  have hexec : exec (.windowPortRequest l ⟨tag, op⟩ addr len data) s = .next (windowStepPort s l tag.toNat op.toNat addr n data) := rfl
  unfold windowStepPort at hexec
  rw [if_neg (by rw [hfree]; exact Bool.false_ne_true)] at hexec
  refine ⟨fun hon htarget => ?_, fun hlater => ?_, fun o hon htarget => ?_⟩
  · rw [hon, htarget] at hexec
    exact ⟨_, hexec, rfl, rfl, rfl, Tab.find_put_self ..⟩
  · rw [hlater] at hexec
    exact ⟨_, hexec, rfl, rfl, rfl, Tab.find_put_self ..⟩
  · rw [hon, htarget] at hexec
    dsimp only at hexec
    rw [wpSend_eq] at hexec
    refine ⟨_, (wpParts s o n).zipIdx.map (partMsg (windowSlack s) l tag.toNat op.toNat o data s), hexec, rfl, ?_, rfl, rfl, rfl, fun k p hp => ?_⟩
    · rw [List.length_map, List.length_zipIdx]
    · have hop : op.toNat = 1 ↔ op = 1 := ⟨fun h => BitVec.eq_of_toNat_eq h, fun h => by rw [h]; rfl⟩
      refine ⟨partMsg (windowSlack s) l tag.toNat op.toNat o data s (p, k), partReq l tag.toNat op.toNat o data (p, k), ?_, rfl, rfl, rfl, rfl, rfl, rfl,
        rfl, rfl, rfl, if_congr hop rfl rfl, fun h => if_pos (hop.mpr h), fun h => if_neg (fun h' => h (hop.mp h'))⟩
      rw [List.getElem?_map, List.getElem?_zipIdx, hp, Option.map_some, Option.map_some, Nat.zero_add]

/-! ## The parts at a bank group -/

section
variable {s : State} {i t : Nat} {m : Msg} {q : WpReq} (harr : arrived s i = some m) (hbody : m.body = .wp q) (hdst : m.dst = .tile t)
include harr hbody hdst

/-- The end of a window port's read. -/
def wpReadFin (u : Nat) (q : WpReq) (s : State) (m : Msg) : State :=
  if m.bad then answerWp s u m q 2 [] else answerWp s u m q 0 m.got

theorem exec_bankRead_wp (hop : q.op = 0) : exec (.bankRead i .clean) s = .next (serveOr s i (spadDom s t) (decide (0 < m.done))
    (fun s => answerWp s t m q 4 []) (fun s => answerWp (dropMsg s i) t m q 3 [])
    (fun s => readAccess s t i m q.off q.len .clean (wpReadFin t q))) := by
  refine congrArg Host.Outcome.next ?_
  rw [bankReadStep, harr]
  simp only [hbody, hdst, hop, ne_eq, not_true_eq_false, if_false]
  rfl

theorem exec_bankWrite_wp (hop : q.op ≠ 0) : exec (.bankWrite ⟨i, .clean⟩) s = .next (serveOr s i (spadDom s t) (decide (0 < m.done))
    (fun s => answerWp s t m q 4 []) (fun s => answerWp (dropMsg s i) t m q 3 [])
    (fun s => if q.op = 1 then writeAccess s t i m q.off q.data .clean (fun s m => answerWp s t m q (if m.bad then 2 else 0) [])
      else atomicAccess (dropMsg s i) t m q .clean)) := by
  refine congrArg Host.Outcome.next ?_
  rw [bankWriteStep, harr]
  simp only [hbody, hdst, hop, if_false]

end

/-- The answer to a part, as it leaves its bank group. -/
def partAck (s : State) (u : Nat) (m : Msg) (q : WpReq) (code : Nat) (data : List Byte) : Msg :=
  { cls := .response, src := .tile u, dst := .winPort q.port, slack := m.stamp, stamp := m.stamp, prio := m.prio
    flits := if data.isEmpty then 1 else flitsOf (BitVec.ofNat 64 q.off) q.len, index := 0
    route := GenConfig.route s.gen (.tile u) (.winPort q.port) ++ [], inp := Node.num (.tile u), done := 0, got := [], sats := 0
    bad := false, again := false, body := .wpResp q code data }

theorem answerWp_eq (s : State) (u : Nat) (m : Msg) (q : WpReq) (code : Nat) (data : List Byte) : answerWp s u m q code data =
    { s with prom := { s.prom with net := s.prom.net ++ (partAck s u m q code data).split } } := rfl

theorem windowPortPerformed : Claims.WindowPortPerformed := by
  intro s i t m q answers p g bs harr hbody hdst
  refine ⟨fun hon hop hclean => ?_, fun hon hop => ⟨fun o' hnext => ?_, fun hlast => ?_⟩, ?_, fun c hc => ?_⟩
  · have hop0 : q.op ≠ 0 := by rw [hop]; decide
    let s1 : State := { s with spad := { s.spad with mem := memWrite s.spad.mem p.1 p.2 } }
    let m1 : Msg := { m with done := m.done + 1 }
    have hw := spadWrite_clean hclean
    have hexec : exec (.bankWrite ⟨i, .clean⟩) s = .next (nextAccess s1 i { m1 with bad := m.bad || false }
        (accessAt q.off q.data.length (m.done + 1))
        (fun s' => answerWp s' t { m1 with bad := m.bad || false } q (if m.bad || false then 2 else 0) [])) := by
      rw [exec_bankWrite_wp harr hbody hdst hop0, serveOr_on hon, if_pos hop, writeAccess_eq]
      simp only [p] at hw
      rw [hw]
      rfl
    rw [Bool.or_false] at hexec
    have hbytes : ∀ a, memByte s1.spad.mem a = if p.1 ≤ a ∧ a < p.1 + p.2.length then p.2.getD (a - p.1) 0 else memByte s.spad.mem a :=
      memByte_memWrite p.2 s.spad.mem p.1
    rw [hexec]
    cases hacc : accessAt q.off q.data.length (m.done + 1) with
    | some o' =>
      refine ⟨_, rfl, hbytes, rfl, ?_, nofun⟩
      rintro o'' ⟨⟩
      rfl
    | none =>
      refine ⟨_, rfl, hbytes, rfl, nofun, fun _ hbad => ⟨partAck (dropMsg s1 i) t { m1 with bad := m.bad } q 0 [], ?_, rfl, rfl, rfl⟩⟩
      change (answerWp (dropMsg s1 i) t { m1 with bad := m.bad } q (if m.bad then 2 else 0) []).prom.net = _
      rw [if_neg (by rw [hbad]; exact Bool.false_ne_true), answerWp_eq]
      rfl
  · rw [exec_bankRead_wp harr hbody hdst hop, serveOr_on hon, readAccess_eq, hnext]
    exact ⟨_, rfl, rfl, rfl⟩
  · let m1 := afterRead m bs (poisoned s.spad.poison g.1 g.2)
    have hbad : m1.bad = (m.bad || poisoned s.spad.poison g.1 g.2) := rfl
    have hfin : exec (.bankRead i .clean) s = .next (wpReadFin t q (dropMsg s i) m1) := by
      rw [exec_bankRead_wp harr hbody hdst hop, serveOr_on hon, readAccess_eq, hlast]
      rfl
    rw [hfin]
    unfold wpReadFin
    refine ⟨_, rfl, ?_, fun hm hp => ?_, fun hm => ?_⟩
    · split <;> exact Eq.refl _
    · rw [hm, hp, Bool.or_false] at hbad
      rw [if_neg (by rw [hbad]; exact Bool.false_ne_true), answerWp_eq]
      exact ⟨partAck (dropMsg s i) t m1 q 0 m1.got, rfl, rfl, rfl, rfl⟩
    · have htrue : m1.bad = true := by
        rw [hbad, Bool.or_eq_true]
        exact hm
      rw [if_pos htrue, answerWp_eq]
      exact ⟨partAck (dropMsg s i) t m1 q 2 [], rfl, rfl, rfl, rfl⟩
  · intro hon hlo hhi hclean old x cmp
    have hexec : exec (.bankWrite ⟨i, .clean⟩) s = .next (atomicAccess (dropMsg s i) t m q .clean) := by
      rw [exec_bankWrite_wp harr hbody hdst (by omega), serveOr_on hon, if_neg (by omega)]
    let v := atomicValue q.op q.len old (ofBytes ((q.data.take 8).take q.len)) (ofBytes ((q.data.drop 8).take q.len))
    have hold : ofBytes (memRead s.spad.mem q.off q.len) = old := by rw [memRead_eq]
    have hlen : (toBytes q.len v).length = q.len := length_toBytes ..
    have hw : spadWrite s.spad q.off (toBytes q.len v) = ({ s.spad with mem := memWrite s.spad.mem q.off (toBytes q.len v) }, true) :=
      spadWrite_clean (by rw [hlen]; exact hclean)
    let s1 : State := { dropMsg s i with spad := { s.spad with mem := memWrite s.spad.mem q.off (toBytes q.len v) } }
    have hfin : atomicAccess (dropMsg s i) t m q .clean = answerWp s1 t m q 0 (toBytes 8 old) := by
      have hclean' : poisoned (spadEcc (dropMsg s i) t q.off .clean).spad.poison q.off q.len = false := hclean
      unfold atomicAccess
      dsimp only
      rw [if_neg (by rw [hclean']; exact Bool.false_ne_true)]
      change answerWp { dropMsg s i with spad := (spadWrite s.spad q.off (toBytes q.len (atomicValue q.op q.len
        (ofBytes (memRead s.spad.mem q.off q.len)) _ _))).1 } t m q 0 (toBytes 8 (ofBytes (memRead s.spad.mem q.off q.len))) = _
      rw [hold]
      exact congrArg (fun w => answerWp { dropMsg s i with spad := w } t m q 0 (toBytes 8 old)) (congrArg Prod.fst hw)
    rw [hfin, answerWp_eq] at hexec
    refine ⟨_, v, hexec, memByte_memWrite _ s.spad.mem q.off, ⟨partAck s1 t m q 0 (toBytes 8 old), rfl, rfl, rfl, rfl⟩, rfl,
      fun h => ?_, fun h => ?_, fun h => ?_, fun h => ?_, fun h => ?_⟩
    all_goals
      change atomicValue q.op q.len old _ _ = _
      rw [h]
    · exact (Nat.add_mod_mod ..).symm
    all_goals rfl
  · have hserve : exec c s = .next (serveOr s i (spadDom s t) (decide (0 < m.done)) (fun s => answerWp s t m q 4 [])
        (fun s => answerWp (dropMsg s i) t m q 3 []) (fun s => if q.op = 0 then readAccess s t i m q.off q.len .clean (wpReadFin t q)
          else if q.op = 1 then writeAccess s t i m q.off q.data .clean (fun s m => answerWp s t m q (if m.bad then 2 else 0) [])
          else atomicAccess (dropMsg s i) t m q .clean)) := by
      rw [hc]
      by_cases hop : q.op = 0
      · simp only [hop, if_true, exec_bankRead_wp harr hbody hdst hop]
      · simp only [hop, if_false, exec_bankWrite_wp harr hbody hdst hop]
    rw [hserve]
    refine ⟨fun hoff => ?_, fun hlater hdone => ?_⟩
    · rw [serveOr_off hoff, answerWp_eq]
      exact ⟨_, rfl, rfl, partAck (dropMsg s i) t m q 4 [], rfl, rfl, rfl, rfl⟩
    · rw [serveOr_later hlater (by simp [hdone]), answerWp_eq]
      exact ⟨_, rfl, rfl, partAck (dropMsg s i) t m q 3 [], rfl, rfl, rfl, rfl⟩

/-! ## The answers at the window port (R349) -/

theorem windowPortAnswered : Claims.WindowPortAnswered := by
  intro s i code m q data c key harr hbody hdst
  have hexec : exec c s = .next (wpLand (dropMsg s i) q code data) := by
    by_cases hop : q.op = 1
    · have hc : c = .writeAcknowledgement i := if_pos hop
      rw [hc]
      refine congrArg Host.Outcome.next ?_
      rw [ackStep, harr]
      simp only [hbody, hdst, hop, if_true]
    · have hc : c = .readResponse i .clean := if_neg hop
      rw [hc]
      refine congrArg Host.Outcome.next ?_
      rw [responseStep, harr]
      simp only [hbody, hdst, hop, if_false]
  refine ⟨fun hpart hout => ?_, fun hpart hout => ?_⟩
  · have hland : wpLand (dropMsg s i) q code data = wpAnswer { dropMsg s i with prom := { (dropMsg s i).prom with
        wpOut := Tab.erase s.prom.wpOut key } } q.port q.tag code (if code = 0 then data else []) := by
      have hout' : Tab.find (dropMsg s i).prom.wpOut (wpKey q.port q.tag) = some [none] := hout
      unfold wpLand
      dsimp only
      rw [hout', hpart]
      by_cases h0 : code = 0
      · simp [h0, key]
        rfl
      · simp [h0, key]
        rfl
    rw [hland] at hexec
    exact ⟨_, hexec, rfl, rfl, Tab.find_put_self .., fun l hl => Tab.find_put_of_ne _ _ hl, rfl, rfl⟩
  · have hland : wpLand (dropMsg s i) q code data = { dropMsg s i with prom := { (dropMsg s i).prom with
        wpOut := Tab.put s.prom.wpOut key ([none, none].set q.part (some (code, data))) } } := by
      have hout' : Tab.find (dropMsg s i).prom.wpOut (wpKey q.port q.tag) = some [none, none] := hout
      have hwaits : ([none, none].set q.part (some (code, data))).all (·.isSome) = false := by
        rcases Nat.lt_or_ge q.part 1 with h | h
        · obtain h0 : q.part = 0 := by omega
          rw [h0]
          rfl
        · obtain h1 : q.part = 1 := by omega
          rw [h1]
          rfl
      unfold wpLand
      dsimp only
      rw [hout']
      dsimp only
      rw [if_neg (by rw [hwaits]; exact Bool.false_ne_true)]
      rfl
    rw [hland] at hexec
    exact ⟨_, hexec, rfl, rfl, Tab.find_put_self .., rfl⟩

/-- Settles O54: a window port's request by its parts, each at its bank group, and by their answers. -/
theorem windowPortAccess : Obligations.WindowPortAccess := by
  unfold Obligations.WindowPortAccess
  exact ⟨windowPortRequested, windowPortPerformed, windowPortAnswered⟩

end Sys2Proof.Proofs

end

section
/-! SUPPORT. What the registers read after a write of one of them (R12, R353). -/

namespace Sys2Proof.Proofs

open Sys2Proof Sys2Proof.Machine

/-! ## What a register's value depends on -/

theorem slackWord_congr {s u : State} {t : Nat} (hstreams : (u.tile t).streams = (s.tile t).streams)
    (hwaited : (u.tile t).waited = (s.tile t).waited) (hfloor : u.turn.floor = s.turn.floor)
    (huntimed : u.turn.untimed = s.turn.untimed) (htime : u.pg.time = s.pg.time) (n : Nat) :
    slackWord u t n = slackWord s t n := by
  simp only [slackWord, State.stream?, slackOf, slackFloor, localTime, hstreams, hwaited, hfloor, huntimed, htime]

/-- A tile's registers read as before while the tile, its slack's limits and the time stay. -/
theorem readTile_congr {s u : State} {t : Nat} (htile : u.tile t = s.tile t) (hfloor : u.turn.floor = s.turn.floor)
    (huntimed : u.turn.untimed = s.turn.untimed) (htime : u.pg.time = s.pg.time) (r : TileReg) :
    readTile u t r = readTile s t r := by
  cases r with
  | slack n => exact slackWord_congr (congrArg Tile.streams htile) (congrArg Tile.waited htile) hfloor huntimed htime n
  | _ => simp only [readTile, htile]

theorem readReg_wrote (u : State) (e : Bool) (q : CpReg) : readReg (wrote u e) q = readReg u q := by
  cases q with
  | tile j x => exact readTile_congr (s := u) rfl rfl rfl rfl x
  | _ => rfl

/-- A tile set to what it is changes no register's value. -/
theorem readReg_setTile_self (s : State) (t : Nat) (q : CpReg) : readReg (s.setTile t (s.tile t)) q = readReg s q := by
  have htile : ∀ j, (s.setTile t (s.tile t)).tile j = s.tile j := fun j => by
    rw [tile_setTile]
    split
    next h => rw [h]
    next => rfl
  cases q with
  | tile j x => exact readTile_congr (s := s) (htile j) rfl rfl rfl x
  | _ => rfl

/-! ## A write of one register alone -/

/-- Register `r` reads as the word `d`, every other as before, and the scratchpad and the promenade stay. -/
structure WritesOnly (s u : State) (r : CpReg) (d : Word) : Prop where
  self : readReg u r = d
  others : ∀ q, q ≠ r → readReg u q = readReg s q
  spad : u.spad = s.spad
  prom : u.prom = s.prom

/-- A write of one register of a tile that leaves the tile's streams alone. -/
theorem writesOnly_setTile {s : State} {t : Nat} {r : TileReg} {d : Word} {y : Tile} (hstreams : y.streams = (s.tile t).streams)
    (hwaited : y.waited = (s.tile t).waited) (hself : readTile (s.setTile t y) t r = d)
    (hother : ∀ x, x ≠ r → (∀ n, x ≠ .slack n) → readTile (s.setTile t y) t x = readTile s t x) :
    WritesOnly s (s.setTile t y) (.tile t r) d := by
  have htile : (s.setTile t y).tile t = y := by rw [tile_setTile, if_pos rfl]
  refine ⟨hself, fun q hq => ?_, rfl, rfl⟩
  cases q with
  | tile j x =>
    by_cases hj : j = t
    · subst hj
      by_cases hx : ∃ n, x = .slack n
      · obtain ⟨n, rfl⟩ := hx
        exact slackWord_congr (s := s) ((congrArg Tile.streams htile).trans hstreams)
          ((congrArg Tile.waited htile).trans hwaited) rfl rfl rfl n
      · exact hother x (fun e => hq (congrArg _ e)) (fun n e => hx ⟨n, e⟩)
    · exact readTile_congr (s := s) ((tile_setTile ..).trans (if_neg hj)) rfl rfl rfl x
  | _ => rfl

theorem tile_setTile_self (s : State) (t : Nat) (y : Tile) : (s.setTile t y).tile t = y := by rw [tile_setTile, if_pos rfl]

theorem writesOnly_prio (s : State) (t : Nat) (d : Word) :
    WritesOnly s (s.setTile t { s.tile t with prio := d }) (.tile t .prio) d := by
  refine writesOnly_setTile rfl rfl (by simp only [readTile, tile_setTile_self]) fun x hx hs => ?_
  cases x with
  | prio => exact absurd rfl hx
  | slack n => exact absurd rfl (hs n)
  | _ => simp only [readTile, tile_setTile_self] <;> rfl

/-- The tile with one of its staging slices set. -/
def withSlice (x : Tile) (b : Bool) (d : Word) : Tile := if b then { x with sliceB := d } else { x with sliceA := d }

theorem writesOnly_stgSlice (s : State) (t : Nat) (b : Bool) (d : Word) :
    WritesOnly s (s.setTile t (withSlice (s.tile t) b d)) (.tile t (.stgSlice b)) d := by
  have hself : readTile (s.setTile t (withSlice (s.tile t) b d)) t (.stgSlice b) = d := by
    simp only [readTile, tile_setTile_self]
    cases b <;> rfl
  refine writesOnly_setTile (by cases b <;> rfl) (by cases b <;> rfl) hself fun x hx hs => ?_
  cases x with
  | stgSlice c =>
    have hc : c ≠ b := fun e => hx (congrArg _ e)
    simp only [readTile, tile_setTile_self]
    obtain ⟨rfl, rfl⟩ | ⟨rfl, rfl⟩ : b = true ∧ c = false ∨ b = false ∧ c = true := by
      revert hc
      cases b <;> cases c <;> decide
    · rfl
    · rfl
  | slack n => exact absurd rfl (hs n)
  | _ => simp only [readTile, tile_setTile_self, withSlice] <;> cases b <;> rfl

theorem writesOnly_calSatThr (s : State) (t : Nat) (d : Word) :
    WritesOnly s (s.setTile t { s.tile t with calSatThr := d }) (.tile t .calSatThr) d := by
  refine writesOnly_setTile rfl rfl (by simp only [readTile, tile_setTile_self]) fun x hx hs => ?_
  cases x with
  | calSatThr => exact absurd rfl hx
  | slack n => exact absurd rfl (hs n)
  | _ => simp only [readTile, tile_setTile_self] <;> rfl

theorem writesOnly_calFlushThr (s : State) (t : Nat) (d : Word) :
    WritesOnly s (s.setTile t { s.tile t with calFlushThr := d }) (.tile t .calFlushThr) d := by
  refine writesOnly_setTile rfl rfl (by simp only [readTile, tile_setTile_self]) fun x hx hs => ?_
  cases x with
  | calFlushThr => exact absurd rfl hx
  | slack n => exact absurd rfl (hs n)
  | _ => simp only [readTile, tile_setTile_self] <;> rfl

/-! ## The registers of code RW -/

theorem writesOnly_congr {s u : State} {r : CpReg} {d : Word} (hself : readReg u r = d)
    (hothers : ∀ q, q ≠ r → (∀ t x, q ≠ .tile t x) → readReg u q = readReg s q) (htiles : u.tiles = s.tiles)
    (hfloor : u.turn.floor = s.turn.floor) (huntimed : u.turn.untimed = s.turn.untimed) (htime : u.pg.time = s.pg.time)
    (hspad : u.spad = s.spad) (hprom : u.prom = s.prom) : WritesOnly s u r d := by
  refine ⟨hself, fun q hq => ?_, hspad, hprom⟩
  by_cases h : ∃ t x, q = .tile t x
  · obtain ⟨t, x, rfl⟩ := h
    exact readTile_congr (tile_congr htiles t) hfloor huntimed htime x
  · exact hothers q hq (fun t x e => h ⟨t, x, e⟩)

theorem writesOnly_tsFixed (s : State) (d : Word) : WritesOnly s { s with turn := { s.turn with fixed := d } } .tsFixed d := by
  refine writesOnly_congr rfl (fun q hq ht => ?_) rfl rfl rfl rfl rfl rfl
  cases q with
  | tsFixed => exact absurd rfl hq
  | tile t x => exact absurd rfl (ht t x)
  | _ => rfl

theorem writesOnly_pgSlewLim (s : State) (d : Word) : WritesOnly s { s with pg := { s.pg with slewLim := d } } .pgSlewLim d := by
  refine writesOnly_congr rfl (fun q hq ht => ?_) rfl rfl rfl rfl rfl rfl
  cases q with
  | pgSlewLim => exact absurd rfl hq
  | tile t x => exact absurd rfl (ht t x)
  | _ => rfl

theorem writesOnly_pwrTo (s : State) (d : Word) : WritesOnly s { s with cpc := { s.cpc with pwrTo := d } } .pwrTo d := by
  refine writesOnly_congr rfl (fun q hq ht => ?_) rfl rfl rfl rfl rfl rfl
  cases q with
  | pwrTo => exact absurd rfl hq
  | tile t x => exact absurd rfl (ht t x)
  | _ => rfl

theorem writesOnly_ldHwOperand (s : State) (d : Word) :
    WritesOnly s { s with lodge := { s.lodge with hwOperand := d } } .ldHwOperand d := by
  refine writesOnly_congr rfl (fun q hq ht => ?_) rfl rfl rfl rfl rfl rfl
  cases q with
  | ldHwOperand => exact absurd rfl hq
  | tile t x => exact absurd rfl (ht t x)
  | _ => rfl

theorem writesOnly_ldHwOffset (s : State) (d : Word) :
    WritesOnly s { s with lodge := { s.lodge with hwOffset := d } } .ldHwOffset d := by
  refine writesOnly_congr rfl (fun q hq ht => ?_) rfl rfl rfl rfl rfl rfl
  cases q with
  | ldHwOffset => exact absurd rfl hq
  | tile t x => exact absurd rfl (ht t x)
  | _ => rfl

/-- A field of a vector after one of its fields is set: the vector set has the new one, and any other the old one. -/
theorem vec_setVec {α : Type} (s : State) (v w : Nat) (f : Vec → Vec) (p : Vec → α)
    (hp : p (f (Tab.get s.gate.vecs Vec.init v)) = p (Tab.get s.gate.vecs Vec.init v)) :
    p (Tab.get (setVec s v f).gate.vecs Vec.init w) = p (Tab.get s.gate.vecs Vec.init w) := by
  refine (congrArg p (Tab.get_put ..)).trans ?_
  split
  next h => rw [h, hp]
  next => rfl

theorem writesOnly_vecData (s : State) (v : Nat) (d : Word) :
    WritesOnly s (setVec s v (fun x => { x with data := d })) (.vecData v) d := by
  refine writesOnly_congr ?_ (fun q hq ht => ?_) rfl rfl rfl rfl rfl rfl
  · exact congrArg Vec.data (Tab.get_put_self ..)
  · cases q with
    | vecData w =>
      have hw : w ≠ v := fun e => hq (congrArg _ e)
      exact congrArg Vec.data (Tab.get_put_of_ne _ _ _ hw)
    | vecAddr w hi => exact vec_setVec s v w _ (fun x => half hi x.addr) rfl
    | vecCtrl w => exact vec_setVec s v w _ vecWord rfl
    | vecCount w => exact vec_setVec s v w _ Vec.count rfl
    | tile t x => exact absurd rfl (ht t x)
    | _ => rfl

end Sys2Proof.Proofs

end

section
/-! PROOF. Register writes, register pairs, `GH_COMPAT` and sealed registers (R10–R12, R352, R353, R377–R379). -/

namespace Sys2Proof.Proofs

open Sys2Proof Sys2Proof.Machine

/-! ## Writes that the control port refuses, or does nothing for -/

/-- A write whose outcome leaves the state is answered. -/
theorem hostWrite_of_same {s : State} {a : Nat} {d : Word} {strb : BitVec 4} {e : Bool} (hbusy : s.cp.busy = false)
    (hfeed : a = 0x108 → s.boot.held = []) (hw : (if s.cp.inReset then (s, true) else cpWrite s a d strb false) = (s, e)) :
    hostWrite s a d strb = wrote s e := by
  have hnot : ¬ (a = feedAddr ∧ s.boot.held ≠ []) := fun ⟨ha, hne⟩ => hne (hfeed ha)
  unfold hostWrite
  rw [if_neg (by rw [hbusy]; exact Bool.false_ne_true), hw, if_neg hnot]
  rfl

theorem cpWrite_of_reaches {s : State} {a : Nat} {r : CpReg} (h : Reaches s a r) (d : Word) (strb : BitVec 4) :
    (if s.cp.inReset then (s, true) else cpWrite s a d strb false) = regWrite s a r d strb false := by
  obtain ⟨hreset, -, hat, hreach⟩ := h
  simp only [hreset, Bool.false_eq_true, if_false, cpWrite, hat, hreach, if_true]

theorem regWrite_badStrobe {s : State} {a : Nat} {r : CpReg} {d : Word} {strb : BitVec 4} (h0 : strb ≠ 0) (h15 : strb ≠ 15)
    (hr : r ≠ .unlisted) (ht : ∀ t x, r ≠ .tile t x) : regWrite s a r d strb false = (s, true) := by
  unfold regWrite
  rw [if_neg h0]
  cases r with
  | unlisted => exact absurd rfl hr
  | tile t x => exact absurd rfl (ht t x)
  | _ => exact if_pos h15

theorem regWrite_tile_badStrobe {s : State} {a t : Nat} {x : TileReg} {d : Word} {strb : BitVec 4} (h0 : strb ≠ 0)
    (h15 : strb ≠ 15) (hx : x ≠ .unlisted) (hmem : x.isMem = false) :
    regWrite s a (.tile t x) d strb false = (s, true) := by
  unfold regWrite
  rw [if_neg h0]
  cases x with
  | unlisted => exact absurd rfl hx
  | imem | tdt | odt | wpm => exact absurd hmem nofun
  | _ => exact if_pos h15

theorem regWrite_unlisted {s : State} {a : Nat} {r : CpReg} (hr : r = .unlisted ∨ ∃ t, r = .tile t .unlisted) (d : Word)
    (strb : BitVec 4) : regWrite s a r d strb false = (s, false) := by
  unfold regWrite
  split
  · rfl
  · obtain rfl | ⟨t, rfl⟩ := hr
    · rfl
    · rfl

theorem cpWrite_turnedAway {s : State} {a : Nat} (h : s.cp.inReset = true ∨ regAt s.gen a = none
    ∨ ∃ r, regAt s.gen a = some r ∧ reachable s a r = false) (d : Word) (strb : BitVec 4) :
    (if s.cp.inReset then (s, true) else cpWrite s a d strb false) = (s, true) := by
  by_cases hreset : s.cp.inReset = true
  · exact if_pos hreset
  · rw [if_neg hreset]
    obtain h | hat | ⟨r, hat, hreach⟩ := h
    · exact absurd h hreset
    · simp only [cpWrite, hat]
    · simp only [cpWrite, hat, hreach, Bool.false_eq_true, if_false]

/-! ## Writes of whole registers -/

/-- REGISTER_WRITE of a register whose own effect is to read the word written. -/
theorem registerWrite_writesOnly {s u : State} {a : BitVec 26} {r : CpReg} {d : Word} (h : Reaches s a.toNat r) (hr : r ≠ .bootFeed)
    (hw : regWrite s a.toNat r d 15 false = (u, false)) (hu : WritesOnly s u r d) :
    ∃ v, exec (.registerWrite a d 15) s = .next v ∧ readReg v r = d ∧ (∀ q, q ≠ r → readReg v q = readReg s q)
      ∧ v.cp.err = false ∧ v.spad = s.spad ∧ v.prom = s.prom :=
  ⟨wrote u false, congrArg Host.Outcome.next (hostWrite_reached h hr hw), (readReg_wrote ..).trans hu.self,
    fun q hq => (readReg_wrote ..).trans (hu.others q hq), rfl, hu.spad, hu.prom⟩

theorem judgeWindows_of_empty {s : State} {t : Nat} (h : (s.tile t).streams = []) : judgeWindows s t = s := by
  rw [judgeWindows, h]
  rfl

theorem plainRw_written (s : State) {a : Nat} {t v : Nat} {r : CpReg} (d : Word) (hr : r ∈ plainRw t v) :
    r ≠ .bootFeed ∧ ∃ u, regWrite s a r d 15 false = (u, false) ∧ WritesOnly s u r d := by
  simp only [plainRw, List.mem_cons, List.not_mem_nil, or_false] at hr
  obtain rfl | rfl | rfl | rfl | rfl | rfl | rfl | rfl | rfl := hr
  · exact ⟨nofun, _, rfl, writesOnly_prio s t d⟩
  · exact ⟨nofun, _, rfl, writesOnly_stgSlice s t false d⟩
  · exact ⟨nofun, _, rfl, writesOnly_stgSlice s t true d⟩
  · exact ⟨nofun, _, rfl, writesOnly_tsFixed s d⟩
  · exact ⟨nofun, _, rfl, writesOnly_pgSlewLim s d⟩
  · exact ⟨nofun, _, rfl, writesOnly_pwrTo s d⟩
  · exact ⟨nofun, _, rfl, writesOnly_vecData s v d⟩
  · exact ⟨nofun, _, rfl, writesOnly_ldHwOperand s d⟩
  · exact ⟨nofun, _, rfl, writesOnly_ldHwOffset s d⟩

theorem thresholds_written {s : State} {a t : Nat} {r : TileReg} (d : Word) (hr : r ∈ [TileReg.calSatThr, .calFlushThr])
    (hempty : (s.tile t).streams = []) :
    ∃ u, regWrite s a (.tile t r) d 15 false = (u, false) ∧ WritesOnly s u (.tile t r) d := by
  simp only [List.mem_cons, List.not_mem_nil, or_false] at hr
  obtain rfl | rfl := hr
  · have hst : ((s.setTile t { s.tile t with calSatThr := d }).tile t).streams = [] :=
      (congrArg Tile.streams (tile_setTile_self ..)).trans hempty
    exact ⟨_, congrArg (·, false) (judgeWindows_of_empty hst), writesOnly_calSatThr s t d⟩
  · have hst : ((s.setTile t { s.tile t with calFlushThr := d }).tile t).streams = [] :=
      (congrArg Tile.streams (tile_setTile_self ..)).trans hempty
    exact ⟨_, congrArg (·, false) (judgeWindows_of_empty hst), writesOnly_calFlushThr s t d⟩

/-- A write of a read-only register changes nothing that a register reads. -/
theorem readOnly_written (s : State) {a t : Nat} {r : CpReg} (d : Word)
    (hr : r ∈ [CpReg.ghId, .ghConfig, .kpCorr, .kpUnrec, .pgErr, .tsStarveCount, .tile t .status, .tile t .faultCount]) :
    r ≠ .bootFeed ∧ ∃ u, regWrite s a r d 15 false = (u, false) ∧ (∀ q, readReg u q = readReg s q) ∧ u.spad = s.spad
      ∧ u.prom = s.prom := by
  simp only [List.mem_cons, List.not_mem_nil, or_false] at hr
  obtain rfl | rfl | rfl | rfl | rfl | rfl | rfl | rfl := hr
  · exact ⟨nofun, s, rfl, fun _ => rfl, rfl, rfl⟩
  · exact ⟨nofun, s, rfl, fun _ => rfl, rfl, rfl⟩
  · exact ⟨nofun, s, rfl, fun _ => rfl, rfl, rfl⟩
  · exact ⟨nofun, s, rfl, fun _ => rfl, rfl, rfl⟩
  · exact ⟨nofun, s, rfl, fun _ => rfl, rfl, rfl⟩
  · exact ⟨nofun, s, rfl, fun _ => rfl, rfl, rfl⟩
  · exact ⟨nofun, _, rfl, readReg_setTile_self s t, rfl, rfl⟩
  · exact ⟨nofun, _, rfl, readReg_setTile_self s t, rfl, rfl⟩

theorem registerWrites : Claims.RegisterWrites := by
  unfold Claims.RegisterWrites
  intro s a d hbusy hfeed
  refine ⟨fun t r hr h hempty => ?_, fun t v r hr h => ?_, fun t r hr h => ?_, fun r h => ?_, fun strb r h h0 h15 hr ht => ?_,
    fun strb t x h h0 h15 hx hmem => ?_, fun strb r hr h => ?_, fun strb h => ?_⟩
  · obtain ⟨u, hw, hu⟩ := thresholds_written (a := a.toNat) d hr hempty
    exact registerWrite_writesOnly h nofun hw hu
  · obtain ⟨hne, u, hw, hu⟩ := plainRw_written s (a := a.toNat) d hr
    exact registerWrite_writesOnly h hne hw hu
  · obtain ⟨hne, u, hw, hread, hspad, hprom⟩ := readOnly_written s (a := a.toNat) d hr
    exact ⟨wrote u false, congrArg Host.Outcome.next (hostWrite_reached h hne hw),
      fun q => (readReg_wrote ..).trans (hread q), rfl, hspad, hprom⟩
  · exact congrArg Host.Outcome.next (hostWrite_of_same (e := false) hbusy hfeed (cpWrite_of_reaches h d 0))
  · exact congrArg Host.Outcome.next
      (hostWrite_of_same hbusy hfeed ((cpWrite_of_reaches h ..).trans (regWrite_badStrobe h0 h15 hr ht)))
  · exact congrArg Host.Outcome.next
      (hostWrite_of_same hbusy hfeed ((cpWrite_of_reaches h ..).trans (regWrite_tile_badStrobe h0 h15 hx hmem)))
  · exact congrArg Host.Outcome.next
      (hostWrite_of_same (e := false) hbusy hfeed ((cpWrite_of_reaches h d strb).trans (regWrite_unlisted hr d strb)))
  · exact congrArg Host.Outcome.next (hostWrite_of_same hbusy hfeed (cpWrite_turnedAway h d strb))

/-! ## Register pairs (R10) -/

/-- A whole write of a half of a pair that is not sealed goes its pair's way. -/
theorem regWrite_half (s : State) (a : Nat) (d : Word) {hi : Bool} : ∀ {r : CpReg}, r.halfOf = some hi → r.sealGroup = none →
    r ≠ .bootFeed ∧ regWrite s a r d 15 false = (pairWrite s a r hi d, false)
  | .vecAddr _ _, rfl, _ => ⟨nofun, rfl⟩
  | .ringBase _ _, rfl, _ => ⟨nofun, rfl⟩
  | .ringShadow _ _, rfl, _ => ⟨nofun, rfl⟩
  | .pgLoad _, rfl, _ => ⟨nofun, rfl⟩
  | .pmWindow _, rfl, _ => ⟨nofun, rfl⟩
  | .tile _ (.g _ _), rfl, _ => ⟨nofun, rfl⟩

theorem regRead_of_lo {s : State} {a : Nat} {r h : CpReg} (hlo : r.isLo = some h) : regRead s a r =
    ({ s with cp := { s.cp with shadow := Tab.put s.cp.shadow (a + 4) (readReg s h) } }, readReg s r) := by
  simp only [regRead, hlo]

theorem regRead_of_shadow {s : State} {a : Nat} {r : CpReg} {v : Word} (hlo : r.isLo = none)
    (hv : Tab.find s.cp.shadow a = some v) :
    regRead s a r = ({ s with cp := { s.cp with shadow := Tab.erase s.cp.shadow a } }, v) := by
  simp only [regRead, hlo, hv]

/-- The pairs that are written as a whole: their lower halves. -/
theorem writePair_written {s : State} {v t n : Nat} {r : CpReg} (w : DWord)
    (hr : r ∈ [CpReg.vecAddr v false, .ringBase v false, .ringShadow v false, .pgLoad false, .tile t (.g n false)])
    (hlock : pairLocked s r = false) :
    r.halfOf = some false ∧ r.sealGroup = none ∧ pairValue (writePair s r w) r = w
      ∧ (∀ j k, CpReg.tile j (.g k false) ≠ r → ((writePair s r w).tile j).greg k = (s.tile j).greg k)
      ∧ (writePair s r w).spad = s.spad ∧ (writePair s r w).prom = s.prom := by
  simp only [List.mem_cons, List.not_mem_nil, or_false] at hr
  obtain rfl | rfl | rfl | rfl | rfl := hr
  · exact ⟨rfl, rfl, congrArg Vec.addr (Tab.get_put_self ..), fun _ _ _ => rfl, rfl, rfl⟩
  · exact ⟨rfl, rfl, congrArg Ring.base (Tab.get_put_self ..), fun _ _ _ => rfl, rfl, rfl⟩
  · exact ⟨rfl, rfl, congrArg Ring.shadow (Tab.get_put_self ..), fun _ _ _ => rfl, rfl, rfl⟩
  · exact ⟨rfl, rfl, rfl, fun _ _ _ => rfl, rfl, rfl⟩
  · have hn : n ≠ 0 := by
      rintro rfl
      simp [pairLocked] at hlock
    refine ⟨rfl, rfl, ?_, fun j k hjk => ?_, rfl, rfl⟩
    · refine (congrArg (Tile.greg · n) (tile_setTile_self ..)).trans ?_
      rw [greg_setG, if_pos ⟨rfl, hn⟩]
    · refine (congrArg (Tile.greg · k) (tile_setTile ..)).trans ?_
      split
      next hj =>
        subst hj
        have hk : k ≠ n := fun e => hjk (e ▸ rfl)
        rw [greg_setG, if_neg (fun h => hk (And.left h))]
      next => rfl

theorem pairValue_congr_cp (s : State) (c : CtlPort) (r : CpReg) : pairValue { s with cp := c } r = pairValue s r := by
  cases r with
  | tile t x =>
    cases x with
    | _ => rfl
  | _ => rfl

theorem registerPairs : Claims.RegisterPairs := by
  unfold Claims.RegisterPairs
  intro s a d r h
  refine ⟨fun lo hlo => ?_, fun v hlo hv => ?_, fun hhalf hseal hlock => ?_, fun v t n hr hlock => ?_⟩
  · have hexec : exec (.registerPairLoRead a) s = .next (hostRead s a.toNat) := rfl
    rw [hexec, hostRead_reached h, regRead_of_lo hlo]
    rfl
  · have hexec : exec (.registerPairLoRead a) s = .next (hostRead s a.toNat) := rfl
    rw [hexec, hostRead_reached h, regRead_of_shadow hlo hv]
    rfl
  · obtain ⟨hne, hw⟩ := regWrite_half s a.toNat d hhalf hseal
    have hheld : pairWrite s a.toNat r true d = holdHi s a.toNat d := by
      rw [pairWrite, if_neg (by rw [hlock]; exact Bool.false_ne_true), if_pos rfl]
    rw [hheld] at hw
    exact congrArg Host.Outcome.next (hostWrite_reached h hne hw)
  · obtain ⟨hhalf, hseal, hvalue, hgreg, hspad, hprom⟩ := writePair_written (loValue s a.toNat r d) hr hlock
    obtain ⟨hne, hw⟩ := regWrite_half s a.toNat d hhalf hseal
    have hpair : pairWrite s a.toNat r false d = dropHi (writePair s r (loValue s a.toNat r d)) (a.toNat + 4) := by
      rw [pairWrite, if_neg (by rw [hlock]; exact Bool.false_ne_true), if_neg Bool.false_ne_true]
    rw [hpair] at hw
    exact ⟨_, congrArg Host.Outcome.next (hostWrite_reached h hne hw), (pairValue_congr_cp ..).trans hvalue,
      (Tab.find_erase ..).trans (if_pos rfl), rfl, hgreg, hspad, hprom⟩

/-! ## `GH_COMPAT` -/

theorem compatWritten : Claims.CompatWritten := by
  unfold Claims.CompatWritten
  intro s d h
  have hexec : exec (.ghCompat d) s = .next (hostWrite s 4 d 15) := rfl
  rw [hexec]
  by_cases hd : fld d 3 0 ≤ 2
  · have hw : regWrite s 4 .ghCompat d 15 false =
        ({ s with always := { s.always with profile := BitVec.ofNat 4 (fld d 3 0) } }, false) :=
      congrArg (·, false) (if_pos hd)
    rw [hostWrite_reached h nofun hw, if_pos hd]
    rfl
  · have hw : regWrite s 4 .ghCompat d 15 false = (s, false) := congrArg (·, false) (if_neg hd)
    rw [hostWrite_reached h nofun hw, if_neg hd]
    rfl

/-! ## Sealed registers (R377–R379) -/

/-- A whole write of a sealed register that is no half of a pair goes the sealed registers' way. -/
theorem regWrite_sealed (s : State) (a : Nat) (d : Word) {g : Nat} : ∀ {r : CpReg}, r.sealGroup = some g → r.halfOf = none →
    r ≠ .bootFeed ∧ g < 8 ∧ regWrite s a r d 15 false = (sealWrite s a r g d false, false)
  | .partTile _, rfl, _ => ⟨nofun, by decide, rfl⟩
  | .partCtrl, rfl, _ => ⟨nofun, by decide, rfl⟩
  | .partCnt _, rfl, _ => ⟨nofun, by decide, rfl⟩
  | .partBar _, rfl, _ => ⟨nofun, by decide, rfl⟩
  | .pmXlate, rfl, _ => ⟨nofun, by decide, rfl⟩
  | .wpMask _, rfl, _ => ⟨nofun, by decide, rfl⟩
  | .ldExpAlloc, rfl, _ => ⟨nofun, by decide, rfl⟩
  | .pgSrc, rfl, _ => ⟨nofun, by decide, rfl⟩
  | .rstauth, rfl, _ => ⟨nofun, by decide, rfl⟩
  | .debug, rfl, _ => ⟨nofun, by decide, rfl⟩

/-- What the sealed registers hold, without the record of their changes. -/
def sealedPart (x : Always) : Always := { x with refused := 0, used := [], sealLog := [] }

/-- A sealed register's value depends on what the sealed registers hold alone. -/
theorem readReg_sealed_congr {s u : State} {g : Nat} (hal : sealedPart u.always = sealedPart s.always) (hpg : u.pg.src = s.pg.src) :
    ∀ {r : CpReg}, r.sealGroup = some g → r.halfOf = none → readReg u r = readReg s r
  | .partTile i, rfl, _ => (congrArg (fun x : Always => Tab.get x.partTile 0 i) hal :)
  | .partCtrl, rfl, _ => (congrArg (fun x : Always => wordOf x.partCtrl) hal :)
  | .partCnt p, rfl, _ => (congrArg (fun x : Always => Tab.get x.partCnt (partCntInit p) p) hal :)
  | .partBar p, rfl, _ => (congrArg (fun x : Always => Tab.get x.partBar (partBarInit p) p) hal :)
  | .pmXlate, rfl, _ => (congrArg (fun x : Always => word1 x.xlateEn) hal :)
  | .wpMask l, rfl, _ => (congrArg (fun x : Always => Tab.get x.wpMask 0 l) hal :)
  | .ldExpAlloc, rfl, _ => (congrArg (fun x : Always => x.expAlloc) hal :)
  | .pgSrc, rfl, _ => congrArg wordOf hpg
  | .rstauth, rfl, _ => (congrArg (fun x : Always => wordOf x.rstauth) hal :)
  | .debug, rfl, _ => (congrArg (fun x : Always => word1 x.debug) hal :)

theorem wordOf_ofNat {n : Nat} {v : Word} (hv : v.toNat < 2 ^ n) : wordOf (BitVec.ofNat n v.toNat) = v := by
  refine BitVec.eq_of_toNat_eq ?_
  rw [wordOf, BitVec.toNat_ofNat, BitVec.toNat_ofNat, Nat.mod_eq_of_lt hv, Nat.mod_eq_of_lt v.isLt]

theorem word1_bit {v : Word} (hv : v.toNat < 2) : word1 (bit v 0) = v := by
  obtain rfl | rfl : v = 0 ∨ v = 1 := by bv_omega
  · rfl
  · rfl

theorem toNat_and_le (d m : Word) : (d &&& m).toNat ≤ m.toNat := by
  rw [BitVec.toNat_and]
  exact Nat.and_le_right

/-- A sealed register reads as the bits of its new value that a write performs. -/
theorem readReg_setSealed (s : State) (c : GenConfig) (d : Word) {g : Nat} : ∀ {r : CpReg}, r.sealGroup = some g → r.halfOf = none →
    readReg (setSealed s r (d &&& sealBits c r) 0) r = d &&& sealBits c r
  | .partTile _, rfl, _ => Tab.get_set_self ..
  | .partCtrl, rfl, _ => wordOf_ofNat (lt_of_le_of_lt (toNat_and_le d 0xF) (by decide))
  | .partCnt _, rfl, _ => Tab.get_put_self ..
  | .partBar _, rfl, _ => Tab.get_put_self ..
  | .pmXlate, rfl, _ => word1_bit (lt_of_le_of_lt (toNat_and_le d 1) (by decide))
  | .wpMask _, rfl, _ => Tab.get_set_self ..
  | .ldExpAlloc, rfl, _ => rfl
  | .pgSrc, rfl, _ => wordOf_ofNat (lt_of_le_of_lt (toNat_and_le d 3) (by decide))
  | .rstauth, rfl, _ => wordOf_ofNat (lt_of_le_of_lt (toNat_and_le d 7) (by decide))
  | .debug, rfl, _ => word1_bit (lt_of_le_of_lt (toNat_and_le d 1) (by decide))

/-- Nothing that the record of a change rests on differs: the record itself, the time, the tiles and the scratchpad. -/
structure RecordStays (s u : State) : Prop where
  used : u.always.used = s.always.used
  sealLog : u.always.sealLog = s.always.sealLog
  time : u.pg.time = s.pg.time
  tiles : u.tiles = s.tiles
  spad : u.spad = s.spad

theorem recordStays_setSealed (s : State) (d hi : Word) {g : Nat} : ∀ {r : CpReg}, r.sealGroup = some g → r.halfOf = none →
    RecordStays s (setSealed s r d hi)
  | .partTile _, rfl, _ => ⟨rfl, rfl, rfl, rfl, rfl⟩
  | .partCtrl, rfl, _ => ⟨rfl, rfl, rfl, rfl, rfl⟩
  | .partCnt _, rfl, _ => ⟨rfl, rfl, rfl, rfl, rfl⟩
  | .partBar _, rfl, _ => ⟨rfl, rfl, rfl, rfl, rfl⟩
  | .pmXlate, rfl, _ => ⟨rfl, rfl, rfl, rfl, rfl⟩
  | .wpMask _, rfl, _ => ⟨rfl, rfl, rfl, rfl, rfl⟩
  | .ldExpAlloc, rfl, _ => ⟨rfl, rfl, rfl, rfl, rfl⟩
  | .pgSrc, rfl, _ => ⟨rfl, rfl, rfl, rfl, rfl⟩
  | .rstauth, rfl, _ => ⟨rfl, rfl, rfl, rfl, rfl⟩
  | .debug, rfl, _ => ⟨rfl, rfl, rfl, rfl, rfl⟩

/-- The first word of the log entry of a change by host software (R379). -/
def sealW0 (g reg : Nat) : Word := 0x80000000 ||| at1 true 30 ||| atN g 27 ||| at1 false 26 ||| atN reg 0

theorem fld_or4 (v w x y z : Word) (hi lo : Nat) :
    fld (v ||| w ||| x ||| y ||| z) hi lo = fld v hi lo ||| fld w hi lo ||| fld x hi lo ||| fld y hi lo ||| fld z hi lo := by
  rw [fld_or, fld_or, fld_or, fld_or]

theorem fld_sealW0_group {g reg : Nat} (hg : g < 8) (hreg : reg < 2 ^ 26) : fld (sealW0 g reg) 29 27 = g := by
  have hconst : fld (0x80000000 : Word) 29 27 = 0 := by decide
  have hlow : fld (atN reg 0) 29 27 = 0 := fld_atN_below 29 (lt_trans hreg (Nat.pow_lt_pow_right Nat.one_lt_two (by decide))) (by decide)
  rw [sealW0, fld_or4, hconst, hlow, fld_at1_outside true (.inl (by decide)), fld_atN_self hg (by decide),
    fld_at1_outside false (.inr (by decide))]
  simp

theorem fld_sealW0_reg {g reg : Nat} (hreg : reg < 2 ^ 26) : fld (sealW0 g reg) 25 0 = reg := by
  have hconst : fld (0x80000000 : Word) 25 0 = 0 := by decide
  rw [sealW0, fld_or4, hconst, fld_at1_outside true (.inl (by decide)), fld_atN_above g 0 (by decide),
    fld_at1_outside false (.inl (by decide)), fld_atN_self hreg (by decide)]
  simp

theorem bit_sealW0_host (g reg : Nat) : bit (sealW0 g reg) 30 = true := by
  simp [sealW0, bit_or, bit_at1]

/-- A change of group `g` is counted (R378). -/
def changeCounted (x : State) (g : Nat) : State :=
  { x with always := { x.always with used := Tab.set x.always.used 0 g (Tab.get x.always.used 0 g + 1) } }

/-- A change of group `g` is refused for good (R378). -/
def refusedIn (x : State) (g : Nat) : State := { x with always := { x.always with refused := putBit x.always.refused g true } }

theorem bootOpen_of_ended {s : State} (h : s.boot.state = 5 ∨ s.boot.state = 6) : bootOpen s = false := by
  unfold bootOpen
  obtain h | h := h
  · rw [h]; rfl
  · rw [h]; rfl

theorem bootOpen_of_lt {s : State} (h : s.boot.state < 5) : bootOpen s = true := by
  have h5 : s.boot.state ≠ 5 := Nat.ne_of_lt h
  have h6 : s.boot.state ≠ 6 := Nat.ne_of_lt (Nat.lt_succ_of_lt h)
  simp [bootOpen, h5, h6]

section
variable {s : State} {a : Nat} {r : CpReg} {g : Nat} {d : Word} (hseal : r.sealGroup = some g) (hhalf : r.halfOf = none)

theorem sealWrite_open (hopen : bootOpen s = true) : sealWrite s a r g d false = raise s 10 0 0 0 (g + 8) := by
  rw [sealWrite, hopen]
  rfl

include hhalf

theorem sealWrite_ended (hopen : bootOpen s = false) (hig : sealIgnored r d = false) : sealWrite s a r g d false =
    if 3 ≤ Tab.get s.always.used 0 g then refuseChange s a g false else hostChange s a r g d := by
  rw [sealWrite, hopen, hhalf, hig]
  rfl

include hseal

/-- A change of host software within the budget: what the register reads, the count and the log entry (R378, R379). -/
theorem hostChange_counted :
    readReg (hostChange s a r g d) r = d &&& sealBits s.gen r
      ∧ Tab.get (hostChange s a r g d).always.used 0 g = Tab.get s.always.used 0 g + 1
      ∧ (hostChange s a r g d).always.sealLog = s.always.sealLog ++ [[sealW0 g a, readReg s r, d &&& sealBits s.gen r, 0, 0,
          s.pg.time.extractLsb' 0 32, s.pg.time.extractLsb' 32 32]]
      ∧ (hostChange s a r g d).tiles = s.tiles ∧ (hostChange s a r g d).spad = s.spad := by
  obtain ⟨hused, hlog, htime, htiles, hspad⟩ := recordStays_setSealed s (d &&& sealBits s.gen r) 0 hseal hhalf
  have hval := readReg_setSealed s s.gen d hseal hhalf
  generalize hx : setSealed s r (d &&& sealBits s.gen r) 0 = x at hused hlog htime htiles hspad hval
  have hchange : hostChange s a r g d = sealEntry (changeCounted x g) false g a false (readReg s r) (d &&& sealBits s.gen r) 0 0 := by
    rw [← hx, hostChange, hhalf]
    rfl
  rw [hchange]
  have hread : readReg (sealEntry (changeCounted x g) false g a false (readReg s r) (d &&& sealBits s.gen r) 0 0) r = readReg x r :=
    readReg_sealed_congr (s := x) (u := sealEntry (changeCounted x g) ..) rfl rfl hseal hhalf
  have hcount : Tab.get (changeCounted x g).always.used 0 g = Tab.get x.always.used 0 g + 1 :=
    (Tab.get_set_self x.always.used 0 g (Tab.get x.always.used 0 g + 1) :)
  rw [hused] at hcount
  refine ⟨hread.trans hval, hcount, ?_, htiles, hspad⟩
  rw [← hlog, ← htime]
  rfl

end

theorem sealChangesCounted : Claims.SealChangesCounted := by
  unfold Claims.SealChangesCounted
  intro s a d r g h hseal hhalf
  obtain ⟨hne, hg, hw⟩ := regWrite_sealed s a.toNat d hseal hhalf
  have hexec : exec (.sealChange a d) s = .next (wrote (sealWrite s a.toNat r g d false) false) :=
    congrArg Host.Outcome.next (hostWrite_reached h hne hw)
  refine ⟨fun hboot hig => ?_, fun hboot => ?_⟩
  · have hended := sealWrite_ended (g := g) (a := a.toNat) hhalf (bootOpen_of_ended hboot) hig
    refine ⟨fun hused => ?_, fun hused => ?_⟩
    · rw [if_neg (Nat.not_le.mpr hused)] at hended
      rw [hended] at hexec
      obtain ⟨hval, hcount, hlog, htiles, hspad⟩ := hostChange_counted (s := s) (a := a.toNat) (d := d) hseal hhalf
      exact ⟨_, sealW0 g a.toNat, hexec, (readReg_wrote ..).trans hval, hcount, hlog, fld_sealW0_group hg a.isLt, fld_sealW0_reg a.isLt,
        bit_sealW0_host .., htiles, hspad⟩
    · rw [if_pos hused] at hended
      rw [hended] at hexec
      have hrefuse : refuseChange s a.toNat g false = raise (refusedIn s g) 10 0 0 0 g := rfl
      rw [hrefuse] at hexec
      have hal : (raise (refusedIn s g) 10 0 0 0 g).always = (refusedIn s g).always := raise_always ..
      have hpg : (raise (refusedIn s g) 10 0 0 0 g).pg = s.pg := raise_pg ..
      have hread : readReg (raise (refusedIn s g) 10 0 0 0 g) r = readReg s r :=
        readReg_sealed_congr (s := s) ((congrArg sealedPart hal).trans rfl) (congrArg Pergola.src hpg) hseal hhalf
      have hheard : Heard s (raise (refusedIn s g) 10 0 0 0 g) 10 0 0 0 g :=
        heard_raise_from (s := s) (s0 := refusedIn s g) rfl rfl rfl 0 0 0 g (by decide)
      refine ⟨_, hexec, (readReg_wrote ..).trans hread, ?_, (congrArg Always.sealLog hal).trans rfl, (congrArg Always.used hal).trans rfl, hheard,
        raise_tiles ..⟩
      refine (congrArg (fun x => bit x.refused g) hal).trans ?_
      exact (bit_putBit _ hg _ _).trans (if_pos rfl)
  · rw [sealWrite_open (bootOpen_of_lt hboot)] at hexec
    exact ⟨_, hexec, raise_always .., raise_pg .., rfl, raise_tiles .., heard_raise_from (s0 := s) rfl rfl rfl 0 0 0 (g + 8) (by decide)⟩

/-- Settles O55: each write goes its register's way, and what the registers read after it is that register's new value alone. -/
theorem registerAccess : Obligations.RegisterAccess := by
  unfold Obligations.RegisterAccess
  exact ⟨registerWrites, registerPairs, compatWritten, sealChangesCounted⟩

end Sys2Proof.Proofs

end

section
/-! SUPPORT. The image's writes of a tile's memories, of the context table and of `TL_CTRL` (R353, R374, R376). -/

namespace Sys2Proof.Proofs

open Sys2Proof Sys2Proof.Machine

/-! ## A register of a tile and its address -/

theorem tileAddr_split {t o : Nat} (ho : o < 2 ^ 20) : tileAddr t o / 2 ^ 20 = t + 16 ∧ tileAddr t o % 2 ^ 20 = o := by
  unfold tileAddr
  norm_num at ho ⊢
  omega

theorem regAt_tileAddr {c : GenConfig} {t o : Nat} (ht : t < GenConfig.T c) (ho : o < 2 ^ 20) (h4 : o % 4 = 0) :
    regAt c (tileAddr t o) = some (.tile t (tileReg o)) := by
  obtain ⟨hdiv, hmod⟩ := tileAddr_split (t := t) ho
  have hal : ¬ tileAddr t o % 4 ≠ 0 := by
    unfold tileAddr
    omega
  have hin : 16 ≤ t + 16 ∧ t + 16 < 16 + GenConfig.T c := by omega
  unfold regAt
  rw [if_neg hal, hdiv, hmod]
  exact (if_pos hin).trans (by rw [Nat.add_sub_cancel])

theorem reachable_core {s : State} {t o : Nat} {r : CpReg} (ho : o < 2 ^ 20) (hbxz : o < 0x40000)
    (hruns : coreRuns s t = true) : reachable s (tileAddr t o) r = true := by
  obtain ⟨hdiv, hmod⟩ := tileAddr_split (t := t) ho
  have hdom : addrDom s.gen (tileAddr t o) r = some (GenConfig.domCore s.gen t) := by
    unfold addrDom
    rw [hdiv, hmod]
    refine (if_neg (by omega)).trans ?_
    rw [Nat.add_sub_cancel]
  rw [reachable, hdom]
  exact hruns

theorem slot_at {base stride n i : Nat} (hs : 0 < stride) (hi : i < n) : slot (base + stride * i) base stride n = some (i, 0) := by
  have hle : base ≤ base + stride * i := Nat.le_add_right ..
  have hlt : base + stride * i < base + stride * n := Nat.add_lt_add_left (Nat.mul_lt_mul_of_pos_left hi hs) base
  rw [slot, if_pos ⟨hle, hlt⟩, Nat.add_sub_cancel_left, Nat.mul_div_cancel_left _ hs, Nat.mul_mod_right]

theorem slot_beyond {base stride n o : Nat} (h : o < base ∨ base + stride * n ≤ o) : slot o base stride n = none :=
  if_neg (by omega)

theorem tileReg_imem {w : Nat} (h : w < 16384) : tileReg (0x10000 + 4 * w) = .imem w := by
  simp only [tileReg, slot_at (base := 0x10000) (by decide : 0 < 4) h]

theorem tileReg_tdt {w : Nat} (h : w < 8192) : tileReg (0x20000 + 4 * w) = .tdt w := by
  have h1 : slot (0x20000 + 4 * w) 0x10000 4 16384 = none := slot_beyond (.inr (by omega))
  simp only [tileReg, h1, slot_at (base := 0x20000) (by decide : 0 < 4) h]

theorem tileReg_odt {w : Nat} (h : w < 2048) : tileReg (0x28000 + 4 * w) = .odt w := by
  have h1 : slot (0x28000 + 4 * w) 0x10000 4 16384 = none := slot_beyond (.inr (by omega))
  have h2 : slot (0x28000 + 4 * w) 0x20000 4 8192 = none := slot_beyond (.inr (by omega))
  simp only [tileReg, h1, h2, slot_at (base := 0x28000) (by decide : 0 < 4) h]

theorem tileReg_wpm {w : Nat} (h : w < 4096) : tileReg (0x30000 + 4 * w) = .wpm w := by
  have h1 : slot (0x30000 + 4 * w) 0x10000 4 16384 = none := slot_beyond (.inr (by omega))
  have h2 : slot (0x30000 + 4 * w) 0x20000 4 8192 = none := slot_beyond (.inr (by omega))
  have h3 : slot (0x30000 + 4 * w) 0x28000 4 2048 = none := slot_beyond (.inr (by omega))
  simp only [tileReg, h1, h2, h3, slot_at (base := 0x30000) (by decide : 0 < 4) h]

/-! ## Runs of words -/

/-- A table with consecutive words written from index `w` on. -/
def wordsRun (m : Tab Word) (w : Nat) : List Word → Tab Word
  | [] => m
  | d :: ds => wordsRun (Tab.set m 0 w d) (w + 1) ds

theorem get_wordsRun : ∀ (ds : List Word) (m : Tab Word) (w k : Nat), Tab.get (wordsRun m w ds) 0 k =
    if w ≤ k ∧ k < w + ds.length then wordAt ds (k - w) else Tab.get m 0 k
  | [], m, w, k => (if_neg (fun ⟨h1, h2⟩ => absurd h2 (Nat.not_lt.mpr h1))).symm
  | d :: ds, m, w, k => by
    rw [wordsRun, get_wordsRun ds, Tab.get_set, List.length_cons]
    obtain h | rfl | h := Nat.lt_trichotomy k w
    · rw [if_neg (by omega), if_neg (by omega), if_neg (by omega)]
    · rw [if_neg (by omega), if_pos rfl, if_pos (by omega), Nat.sub_self]
      rfl
    · have hsub : k - w = (k - (w + 1)) + 1 := by omega
      by_cases hk : k < w + 1 + ds.length
      · rw [if_pos (by omega), if_pos (by omega), hsub]
        rfl
      · rw [if_neg (by omega), if_neg (by omega), if_neg (by omega)]

theorem wordAt_drop_one (ws : List Word) (i : Nat) : wordAt (ws.drop 1) i = wordAt ws (i + 1) := by
  simp only [wordAt, List.getElem?_drop, Nat.add_comm]

theorem mergeStrb_full (old d : Word) : mergeStrb old d 15 = d := by
  refine BitVec.eq_of_getLsbD_eq fun i hi => ?_
  change bit (mergeStrb old d 15) i = bit d i
  have hstrb : bit (15 : BitVec 4) 0 = true ∧ bit (15 : BitVec 4) 1 = true ∧ bit (15 : BitVec 4) 2 = true
      ∧ bit (15 : BitVec 4) 3 = true := by decide
  obtain ⟨h0, h1, h2, h3⟩ := hstrb
  simp only [mergeStrb, h0, h1, h2, h3, if_true, bit_or, bit_atN, testBit_fld]
  obtain h | h | h | h : i < 8 ∨ (8 ≤ i ∧ i < 16) ∨ (16 ≤ i ∧ i < 24) ∨ 24 ≤ i := by omega
  · grind
  · grind
  · grind
  · grind

/-! ## The memories of a tile -/

/-- The tile with consecutive words of a memory written from index `w` on, as the image does. -/
def memRun (r : Nat → TileReg) (x : Tile) (w : Nat) : List Word → Tile
  | [] => x
  | d :: ds => memRun r (writeTileMem x (r w) d 15) (w + 1) ds

theorem memRun_imem : ∀ (ds : List Word) {x : Tile} (w : Nat), x.seq ≠ .running →
    memRun .imem x w ds = { x with imem := wordsRun x.imem w ds, badWords := (memRun .imem x w ds).badWords }
  | [], _, _, _ => rfl
  | d :: ds, x, w, hq => by
    have hstep : writeTileMem x (.imem w) d 15 =
        { x with imem := Tab.set x.imem 0 w d, badWords := (writeTileMem x (.imem w) d 15).badWords } := by
      simp only [writeTileMem, if_neg hq, mergeStrb_full]
    have hq' : (writeTileMem x (.imem w) d 15).seq ≠ .running := by rw [hstep]; exact hq
    rw [memRun, wordsRun, memRun_imem ds (w + 1) hq']
    generalize (memRun .imem (writeTileMem x (.imem w) d 15) (w + 1) ds).badWords = bad
    rw [hstep]

theorem memRun_tdt : ∀ (ds : List Word) (x : Tile) (w : Nat),
    memRun .tdt x w ds = { x with tdt := wordsRun x.tdt w ds, badWords := (memRun .tdt x w ds).badWords }
  | [], _, _ => rfl
  | d :: ds, x, w => by
    have hstep : writeTileMem x (.tdt w) d 15 =
        { x with tdt := Tab.set x.tdt 0 w d, badWords := (writeTileMem x (.tdt w) d 15).badWords } := by
      simp only [writeTileMem, mergeStrb_full]
    rw [memRun, wordsRun, memRun_tdt ds]
    generalize (memRun .tdt (writeTileMem x (.tdt w) d 15) (w + 1) ds).badWords = bad
    rw [hstep]

theorem memRun_odt : ∀ (ds : List Word) (x : Tile) (w : Nat),
    memRun .odt x w ds = { x with odt := wordsRun x.odt w ds, badWords := (memRun .odt x w ds).badWords }
  | [], _, _ => rfl
  | d :: ds, x, w => by
    have hstep : writeTileMem x (.odt w) d 15 =
        { x with odt := Tab.set x.odt 0 w d, badWords := (writeTileMem x (.odt w) d 15).badWords } := by
      simp only [writeTileMem, mergeStrb_full]
    rw [memRun, wordsRun, memRun_odt ds]
    generalize (memRun .odt (writeTileMem x (.odt w) d 15) (w + 1) ds).badWords = bad
    rw [hstep]

theorem memRun_wpm : ∀ (ds : List Word) (x : Tile) (w : Nat),
    memRun .wpm x w ds = { x with wpm := wordsRun x.wpm w ds, badWords := (memRun .wpm x w ds).badWords }
  | [], _, _ => rfl
  | d :: ds, x, w => by
    have hstep : writeTileMem x (.wpm w) d 15 =
        { x with wpm := Tab.set x.wpm 0 w d, badWords := (writeTileMem x (.wpm w) d 15).badWords } := by
      simp only [writeTileMem, mergeStrb_full]
    rw [memRun, wordsRun, memRun_wpm ds]
    generalize (memRun .wpm (writeTileMem x (.wpm w) d 15) (w + 1) ds).badWords = bad
    rw [hstep]

theorem onlyTile_refl (s : State) (t : Nat) : OnlyTile s s t := ⟨rfl, fun _ _ => rfl⟩

theorem coreRuns_congr {s u : State} {t : Nat} (h : OnlyTile s u t) (j : Nat) : coreRuns u j = coreRuns s j := by
  obtain ⟨hu, -⟩ := h
  rw [hu]
  rfl

/-- Consecutive writes of the image from word `w` of a tile's memory, whose words lie from `base` on, change that tile alone. -/
theorem writeRun_mem {r : Nat → TileReg} {base size t : Nat} (hreg : ∀ w, w < size → tileReg (base + 4 * w) = r w)
    (hmem : ∀ w, (r w).isMem = true) (hbase : base + 4 * size ≤ 0x40000) (h4 : base % 4 = 0) :
    ∀ (ds : List Word) {s : State} (w : Nat), t < GenConfig.T s.gen → coreRuns s t = true → w + ds.length ≤ size →
      OnlyTile s (writeRun s (tileAddr t (base + 4 * w)) ds) t
        ∧ (writeRun s (tileAddr t (base + 4 * w)) ds).tile t = memRun r (s.tile t) w ds
  | [], s, w, _, _, _ => ⟨onlyTile_refl s t, rfl⟩
  | d :: ds, s, w, ht, hruns, hlen => by
    rw [List.length_cons] at hlen
    have ho : base + 4 * w < 0x40000 := by omega
    have hw : cpWrite s (tileAddr t (base + 4 * w)) d 15 true = (s.setTile t (writeTileMem (s.tile t) (r w) d 15), false) := by
      have hword : regWrite s (tileAddr t (base + 4 * w)) (.tile t (r w)) d 15 true =
          (s.setTile t (writeTileMem (s.tile t) (r w) d 15), false) := by
        have hm := hmem w
        cases hr : r w <;> simp_all [regWrite, TileReg.isMem]
      rw [cpWrite, regAt_tileAddr ht (by omega) (by omega), hreg w (by omega)]
      dsimp only
      rw [if_pos (reachable_core (by omega) ho hruns), hword]
    have hnext : tileAddr t (base + 4 * w) + 4 = tileAddr t (base + 4 * (w + 1)) := by
      unfold tileAddr
      omega
    have hfirst : OnlyTile s (s.setTile t (writeTileMem (s.tile t) (r w) d 15)) t := onlyTile_setTile ..
    obtain ⟨honly, htile⟩ := writeRun_mem hreg hmem hbase h4 ds (s := s.setTile t (writeTileMem (s.tile t) (r w) d 15)) (w + 1)
      ht ((coreRuns_congr hfirst t).trans hruns) (by omega)
    rw [writeRun, hw, hnext]
    refine ⟨onlyTile_trans hfirst honly, htile.trans ?_⟩
    rw [tile_setTile_self]
    rfl

/-! ## The context table -/

theorem ldReg_ctx {k : Nat} (h : k < 16384) : ldReg (0x40000 + 4 * k) = .ldCtx k := by
  have h1 : slot (0x40000 + 4 * k) 0 16 16384 = none := slot_beyond (.inr (by omega))
  simp only [ldReg, h1, slot_at (base := 0x40000) (by decide : 0 < 4) h]

theorem cpWrite_ctx (s : State) {k : Nat} (hk : k < 16384) (d : Word) :
    cpWrite s (0x540000 + 4 * k) d 15 true = (ldCtxOp s k d, false) := by
  have hdiv : (0x540000 + 4 * k) / 2 ^ 20 = 5 := by omega
  have hmod : (0x540000 + 4 * k) % 2 ^ 20 = 0x40000 + 4 * k := by omega
  have hat : regAt s.gen (0x540000 + 4 * k) = some (.ldCtx k) := by
    unfold regAt
    rw [if_neg (by omega), hdiv, hmod]
    exact congrArg some (ldReg_ctx hk)
  have hreach : reachable s (0x540000 + 4 * k) (.ldCtx k) = true := by
    have hdom : addrDom s.gen (0x540000 + 4 * k) (.ldCtx k) = none := by
      unfold addrDom
      rw [hdiv]
      rfl
    rw [reachable, hdom]
  rw [cpWrite, hat]
  dsimp only
  rw [if_pos hreach]
  rfl

theorem get_ldCtxOp {s : State} {k : Nat} (d : Word) {p j : Nat} (hp : p < GenConfig.leaves s.gen) (hk : k < 16384)
    (hj : j < 16384) : Tab.get (ldCtxOp s k d).lodge.ctx 0 (ctxPlace p j) =
      if j = k then d &&& 0xC0003FFF else Tab.get s.lodge.ctx 0 (ctxPlace p j) := by
  have hmem : ctxPlace p j ∈ (List.range (GenConfig.leaves s.gen)).map (fun p => ctxPlace p k) ↔ j = k := by
    simp only [List.mem_map, List.mem_range, ctxPlace]
    constructor
    · rintro ⟨q, -, hq⟩
      omega
    · rintro rfl
      exact ⟨p, hp, rfl⟩
  refine (get_foldl_set (d &&& 0xC0003FFF) _ s.lodge.ctx (ctxPlace p j)).trans ?_
  simp only [hmem]

/-- Consecutive writes of the image in the context table, from entry `k0` on, in the copy of every leaf router. -/
theorem writeRun_ctx : ∀ (ds : List Word) (s : State) (k0 : Nat), k0 + ds.length ≤ 16384 →
    writeRun s (0x540000 + 4 * k0) ds = { s with lodge := (writeRun s (0x540000 + 4 * k0) ds).lodge }
      ∧ ∀ p k, p < GenConfig.leaves s.gen → k < 16384 →
        Tab.get (writeRun s (0x540000 + 4 * k0) ds).lodge.ctx 0 (ctxPlace p k) =
          if k0 ≤ k ∧ k < k0 + ds.length then wordAt ds (k - k0) &&& 0xC0003FFF else Tab.get s.lodge.ctx 0 (ctxPlace p k)
  | [], s, k0, _ => ⟨rfl, fun p k _ _ => (if_neg (fun ⟨h1, h2⟩ => absurd h2 (Nat.not_lt.mpr h1))).symm⟩
  | d :: ds, s, k0, hlen => by
    rw [List.length_cons] at hlen
    have hnext : 0x540000 + 4 * k0 + 4 = 0x540000 + 4 * (k0 + 1) := by omega
    rw [writeRun, cpWrite_ctx s (by omega), hnext]
    obtain ⟨hstate, hget⟩ := writeRun_ctx ds (ldCtxOp s k0 d) (k0 + 1) (by omega)
    refine ⟨hstate, fun p k hp hk => (hget p k hp hk).trans ?_⟩
    rw [get_ldCtxOp d hp (by omega) hk, List.length_cons]
    obtain h | rfl | h := Nat.lt_trichotomy k k0
    · rw [if_neg (by omega), if_neg (by omega), if_neg (by omega)]
    · rw [if_neg (by omega), if_pos rfl, if_pos (by omega), Nat.sub_self]
      rfl
    · have hsub : k - k0 = (k - (k0 + 1)) + 1 := by omega
      by_cases hin : k < k0 + 1 + ds.length
      · rw [if_pos (by omega), if_pos (by omega), hsub]
        rfl
      · rw [if_neg (by omega), if_neg (by omega), if_neg (by omega)]

/-! ## The programs that the start section starts (R376) -/

/-- The word that the start section writes to `TL_CTRL`. -/
def startWord (x : Tile) (w : Word) : Word := 0x80000000 ||| atN x.ringStreams.toNat 16 ||| BitVec.ofNat 32 (fld w 9 0)

theorem tileReg_ctrl : tileReg 0 = .ctrl := by decide

theorem startTile_runs {s : State} {t : Nat} (w : Word) (ht : t < GenConfig.T s.gen) (hruns : coreRuns s t = true) :
    startTile s (t, w) = s.setTile t (tileCtrl (s.tile t) (startWord (s.tile t) w)) := by
  have hat : regAt s.gen (tileAddr t 0) = some (.tile t .ctrl) :=
    (regAt_tileAddr ht (by decide) (by decide)).trans (by rw [tileReg_ctrl])
  have hreach : reachable s (tileAddr t 0) (.tile t .ctrl) = true := reachable_core (by decide) (by decide) hruns
  rw [startTile, cpWrite, hat]
  dsimp only
  rw [if_pos hreach]
  rfl

theorem startTile_off {s : State} {t : Nat} (w : Word) (ht : t < GenConfig.T s.gen) (hruns : coreRuns s t = false) :
    startTile s (t, w) = s := by
  have hat : regAt s.gen (tileAddr t 0) = some (.tile t .ctrl) :=
    (regAt_tileAddr ht (by decide) (by decide)).trans (by rw [tileReg_ctrl])
  obtain ⟨hdiv, hmod⟩ := tileAddr_split (t := t) (o := 0) (by decide)
  have hdom : addrDom s.gen (tileAddr t 0) (.tile t .ctrl) = some (GenConfig.domCore s.gen t) := by
    unfold addrDom
    rw [hdiv, hmod]
    refine (if_neg (by omega)).trans ?_
    rw [Nat.add_sub_cancel]
  have hreach : reachable s (tileAddr t 0) (.tile t .ctrl) = false := by
    rw [reachable, hdom]
    exact hruns
  rw [startTile, cpWrite, hat]
  dsimp only
  rw [if_neg (by rw [hreach]; exact Bool.false_ne_true)]

theorem onlyTile_startTile {s : State} {t : Nat} (w : Word) (ht : t < GenConfig.T s.gen) : OnlyTile s (startTile s (t, w)) t := by
  cases hruns : coreRuns s t with
  | true => rw [startTile_runs w ht hruns]; exact onlyTile_setTile ..
  | false => rw [startTile_off w ht hruns]; exact onlyTile_refl s t

theorem fld_of_ofNat {v hi : Nat} (hv : v < 2 ^ (hi + 1)) (h32 : hi < 32) : fld (BitVec.ofNat 32 v) hi 0 = v := by
  have hat : BitVec.ofNat 32 v = atN v 0 := rfl
  rw [hat]
  exact fld_atN_self hv h32

/-- A program that does not run runs from the word's start instruction on. -/
theorem tileCtrl_startWord {x : Tile} (hq : x.seq ≠ .running) (w : Word) :
    (tileCtrl x (startWord x w)).seq = .running ∧ (tileCtrl x (startWord x w)).pc = fld w 9 0 := by
  have hlt : fld w 9 0 < 2 ^ (9 + 1) := Nat.mod_lt _ (by decide)
  have h30 : bit (startWord x w) 30 = false := by
    have hbig : (fld w 9 0).testBit 30 = false := Nat.testBit_lt_two_pow (lt_trans hlt (by norm_num))
    have hrs : x.ringStreams.toNat.testBit 14 = false := Nat.testBit_lt_two_pow (lt_trans x.ringStreams.isLt (by norm_num))
    have hconst : bit (0x80000000 : Word) 30 = false := by decide
    have hat : BitVec.ofNat 32 (fld w 9 0) = atN (fld w 9 0) 0 := rfl
    rw [startWord, hat, bit_or, bit_or, hconst]
    simp [bit_atN, hbig, hrs]
  have h31 : bit (startWord x w) 31 = true := by
    have hconst : bit (0x80000000 : Word) 31 = true := by decide
    rw [startWord, bit_or, bit_or, hconst]
    rfl
  have hpc : fld (startWord x w) 9 0 = fld w 9 0 := by
    have hconst : fld (0x80000000 : Word) 9 0 = 0 := by decide
    rw [startWord, fld_or, fld_or, hconst, fld_atN_above _ 0 (by decide), fld_of_ofNat hlt (by decide)]
    simp
  simpa [tileCtrl, h30, h31, hq, hpc] using hlt

/-- The programs of the tiles named are started, one after the other, and no other tile changes. -/
theorem foldl_startTile : ∀ (ps : List (Nat × Word)) (s : State), (ps.map Prod.fst).Nodup → (∀ p ∈ ps, p.1 < GenConfig.T s.gen) →
    ps.foldl startTile s = { s with tiles := (ps.foldl startTile s).tiles }
      ∧ (∀ j, j ∉ ps.map Prod.fst → (ps.foldl startTile s).tile j = s.tile j)
      ∧ ∀ t w, (t, w) ∈ ps → coreRuns s t = true → (s.tile t).seq ≠ .running →
        ((ps.foldl startTile s).tile t).seq = .running ∧ ((ps.foldl startTile s).tile t).pc = fld w 9 0
  | [], s, _, _ => ⟨rfl, fun _ _ => rfl, fun _ _ h => absurd h List.not_mem_nil⟩
  | (t, w) :: ps, s, hnd, ht => by
    rw [List.map_cons, List.nodup_cons] at hnd
    obtain ⟨hnot, hnd⟩ := hnd
    have htT : t < GenConfig.T s.gen := ht (t, w) List.mem_cons_self
    have honly := onlyTile_startTile w htT
    have hgen : (startTile s (t, w)).gen = s.gen := by
      obtain ⟨hu, -⟩ := honly
      rw [hu]
    obtain ⟨hstate, hother, hstarted⟩ := foldl_startTile ps (startTile s (t, w)) hnd
      (fun p hp => hgen ▸ ht p (List.mem_cons_of_mem _ hp))
    rw [List.foldl_cons]
    obtain ⟨hu, hkept⟩ := honly
    refine ⟨?_, fun j hj => ?_, fun j v hjv hruns hq => ?_⟩
    · rw [hstate, hu]
    · rw [List.map_cons, List.mem_cons, not_or] at hj
      obtain ⟨hne, hj⟩ := hj
      exact (hother j hj).trans (hkept j hne)
    · obtain hjv | hjv := List.mem_cons.mp hjv
      · obtain ⟨rfl, rfl⟩ := Prod.mk.inj hjv
        rw [hother j hnot, startTile_runs v htT hruns, tile_setTile_self]
        exact tileCtrl_startWord hq v
      · have hne : j ≠ t := fun e => hnot (List.mem_map.mpr ⟨(j, v), hjv, e⟩)
        refine hstarted j v hjv ((coreRuns_congr ⟨hu, hkept⟩ j).trans hruns) ?_
        rw [hkept j hne]
        exact hq

end Sys2Proof.Proofs

end

section
/-! PROOF. Reset, the boot sequencer and the configuration image (R359, R361–R376). -/

namespace Sys2Proof.Proofs

open Sys2Proof Sys2Proof.Machine

/-! ## What a step of the sequencer leaves -/

theorem portOn_idle {s : State} (h : s.cp.busy = false) (u : State) : portOn s u = u :=
  if_neg (fun ⟨hb, _⟩ => Bool.false_ne_true (h.symm.trans hb))

/-- The image entries of some groups are logged. -/
def logGroups (gs : List Nat) (s : State) : State :=
  gs.foldl (fun s g => sealEntry s true g (sealGroup s g).2 false 0 (crc32c (wordBytes (sealGroup s g).1)) 0 0) s

theorem logGroups_state : ∀ (gs : List Nat) (s : State),
    logGroups gs s = { s with always := { s.always with sealLog := (logGroups gs s).always.sealLog } }
      ∧ (logGroups gs s).always.sealLog.length = s.always.sealLog.length + gs.length
  | [], s => ⟨rfl, rfl⟩
  | g :: gs, s => by
    obtain ⟨hstate, hlen⟩ :=
      logGroups_state gs (sealEntry s true g (sealGroup s g).2 false 0 (crc32c (wordBytes (sealGroup s g).1)) 0 0)
    refine ⟨hstate, hlen.trans ?_⟩
    rw [sealEntry, List.length_append, List.length_cons, List.length_cons, List.length_nil]
    omega

theorem logImage_eq (s : State) : logImage s = { s with always := { s.always with sealLog := (logImage s).always.sealLog } } := by
  obtain ⟨hstate, -⟩ := logGroups_state (List.range 8) s
  exact hstate

theorem length_sealLog_logImage (s : State) : (logImage s).always.sealLog.length = s.always.sealLog.length + 8 := by
  obtain ⟨-, hlen⟩ := logGroups_state (List.range 8) s
  exact hlen

/-- The sequencer's state after a failed step. -/
def failedBoot (b : Boot) (err sect : Nat) (off : Word) : Boot :=
  { b with state := 6, err := err, sect := sect, offset := off, running := false, entries := [], held := [] }

theorem bootFail_eq (s : State) (err sect : Nat) (off : Word) : bootFail s err sect off =
    { s with always := { s.always with sealLog := (logImage s).always.sealLog }, boot := failedBoot s.boot err sect off } := by
  unfold bootFail
  rw [logImage_eq s]
  rfl

theorem boot_bootFail (s : State) (err sect : Nat) (off : Word) : (bootFail s err sect off).boot = failedBoot s.boot err sect off := by
  rw [bootFail_eq]

theorem tiles_bootFail (s : State) (err sect : Nat) (off : Word) : (bootFail s err sect off).tiles = s.tiles := by
  rw [bootFail_eq]

theorem spad_bootFail (s : State) (err sect : Nat) (off : Word) : (bootFail s err sect off).spad = s.spad := by
  rw [bootFail_eq]

theorem lodge_bootFail (s : State) (err sect : Nat) (off : Word) : (bootFail s err sect off).lodge = s.lodge := by
  rw [bootFail_eq]

theorem seqOn_unheld {s : State} {b : Boot} (h : b.held = []) : seqOn s b = { s with boot := b } := by
  rw [seqOn, h]
  rfl

/-- The state after commands of the sequencer on the configuration port. -/
def withSpi (s : State) (cs : List SpiCmd) : State := { s with boot := { s.boot with spi := s.boot.spi ++ cs } }

theorem withSpi_append (s : State) (cs ds : List SpiCmd) : withSpi (withSpi s cs) ds = withSpi s (cs ++ ds) := by
  simp only [withSpi, List.append_assoc]

theorem issueSpi_flash {s : State} (h : s.boot.hostfeed = false) (c : SpiCmd) : issueSpi s c = withSpi s [c] :=
  if_neg (by rw [h]; exact Bool.false_ne_true)

theorem foldl_issueSpi_flash : ∀ (cs : List SpiCmd) {s : State}, s.boot.hostfeed = false → cs.foldl issueSpi s = withSpi s cs
  | [], s, _ => by rw [withSpi, List.append_nil]; rfl
  | c :: cs, s, h => by
    rw [List.foldl_cons, issueSpi_flash h, foldl_issueSpi_flash cs (s := withSpi s [c]) h, withSpi_append]
    rfl

theorem imageWords_flash {s : State} (h : s.boot.hostfeed = false) (ws : List Word) : imageWords s ws = ws :=
  if_neg (by rw [h]; exact Bool.false_ne_true)

/-! ## Reset and BOOT_START -/

/-- `rst_n` is released, and the sequencer runs. -/
def bootStarted (s : State) (hostfeed : Bool) : State :=
  { s with cp := { s.cp with inReset := false }, boot := { s.boot with hostfeed := hostfeed, running := true, powerStep := 0 } }

theorem resetAndBootStart : Claims.ResetAndBootStart := by
  unfold Claims.ResetAndBootStart
  refine ⟨fun s => rfl, fun s hostfeed hrun hstate => ?_⟩
  intro d hack
  have hcond : (!s.boot.running) = true ∧ s.boot.state = 0 := ⟨by rw [hrun]; rfl, hstate⟩
  have hexec : exec (.bootStart hostfeed) s = .next ((bootStarted s hostfeed).setDom d { s.dom d with
      state := .powering, req := true, phase := .ackHigh, thenUp := false }) := by
    refine congrArg Host.Outcome.next ((if_pos hcond).trans ?_)
    exact if_neg (fun h => Bool.false_ne_true (hack.symm.trans h))
  exact ⟨_, hexec, rfl, rfl, (dom_setDom ..).trans (if_pos rfl), fun e he => (dom_setDom ..).trans (if_neg he), rfl, rfl⟩

/-! ## DISCOVERY, HEADER and BOOT_TIMEOUT -/

theorem present_sfdpOf (sig : Word) (bfpt : List Word) : (sfdpOf sig bfpt).present = decide (sig = 0x50444653) := by
  unfold sfdpOf
  by_cases h : sig = 0x50444653
  · rw [if_pos h, decide_eq_true h]
  · rw [if_neg h, decide_eq_false h]
    rfl

theorem addr4_sfdpOf {sig : Word} {bfpt : List Word} (h : (sfdpOf sig bfpt).present = false) : (sfdpOf sig bfpt).addr4 = false := by
  rw [present_sfdpOf] at h
  rw [sfdpOf, if_neg (of_decide_eq_false h)]
  rfl

theorem modeBits_sfdpOf {sig : Word} {bfpt : List Word} {r : ReadWay} (h : (sfdpOf sig bfpt).r144 = some r) : r.modeBits = 0 := by
  unfold sfdpOf at h
  split at h
  · dsimp only at h
    split at h
    · exact (Option.some.inj h) ▸ rfl
    · exact nomatch h
  · exact nomatch h

section
variable {s : State} {ws : List Word} (hon : bootOn s = true) (hstate : s.boot.state = 3) (hfeed : s.boot.hostfeed = false)
  (hlen : ws.length = 8)
include hon hstate hfeed hlen

theorem headerStep_fails {e : Nat} (he : headerErr s.gen ws = some e) :
    headerStep s ws = bootFail (withSpi s [imageRead s.boot 0 0 8]) e 0 0 := by
  unfold headerStep
  rw [imageWords_flash hfeed]
  dsimp only
  rw [if_pos ⟨hon, hstate, hlen⟩, issueSpi_flash hfeed, show headerErr (withSpi s _).gen ws = some e from he]

theorem headerStep_accepts (he : headerErr s.gen ws = none) :
    headerStep s ws = headerTake (withSpi s [imageRead s.boot 0 0 8]) ws := by
  unfold headerStep
  rw [imageWords_flash hfeed]
  dsimp only
  rw [if_pos ⟨hon, hstate, hlen⟩, issueSpi_flash hfeed, show headerErr (withSpi s _).gen ws = none from he]

end

/-- Taking held words changes those that are held and those that are taken alone. -/
theorem takeFeed_eq : ∀ (n : Nat) (b : Boot), takeFeed n b = { b with held := (takeFeed n b).held, feed := (takeFeed n b).feed }
  | 0, _ => rfl
  | n + 1, b => by
    unfold takeFeed
    split
    · rfl
    · split
      · exact (takeFeed_eq n _).trans rfl
      · rfl

/-- What the header leaves in the sequencer. -/
def headerBoot (b : Boot) (ws : List Word) : Boot :=
  { b with nsect := fld (wordAt ws 1) 31 16, total := (wordAt ws 2).toNat
           div := if b.nosfdp then 8 else fld (wordAt ws 3) 7 0, modemax := fld (wordAt ws 3) 9 8
           mode := BitVec.ofNat 2 (readMode b.sfdp (fld (wordAt ws 3) 9 8)), state := 4, next := 32, sect := 0, feed := [] }

/-- The commands by which the first quad read is prepared. -/
def quadCmds (b : Boot) (ws : List Word) : List SpiCmd :=
  if readMode b.sfdp (fld (wordAt ws 3) 9 8) = 0 then [] else quadEnable b.sfdp.qer

theorem headerTake_flash {s : State} (hfeed : s.boot.hostfeed = false) (ws : List Word) : headerTake s ws =
    seqOn (withSpi s (quadCmds s.boot ws)) (headerBoot (withSpi s (quadCmds s.boot ws)).boot ws) := by
  unfold headerTake quadCmds headerBoot
  rw [hfeed]
  dsimp only
  rw [if_neg Bool.false_ne_true]
  by_cases h : readMode s.boot.sfdp (fld (wordAt ws 3) 9 8) = 0
  · rw [if_pos h, if_pos h, show withSpi s [] = s by rw [withSpi, List.append_nil]]
  · rw [if_neg h, if_neg h, foldl_issueSpi_flash _ hfeed]
    rfl

theorem bootTimeout_fails {s : State} (hrun : s.boot.running = true) (hbusy : s.cp.busy = false) :
    (s.boot.state = 0 → exec .bootTimeout s = .next (bootFail s errPwr 0 0))
      ∧ (s.boot.state = 1 → exec .bootTimeout s = .next (bootFail s errPll 0 0)) := by
  have hgo : ¬ (!s.boot.running) = true := by rw [hrun]; exact Bool.false_ne_true
  have hexec : exec .bootTimeout s = .next (bootTimeoutStep s) := congrArg Host.Outcome.next (portOn_idle hbusy _)
  refine ⟨fun h => hexec.trans (congrArg Host.Outcome.next ?_), fun h => hexec.trans (congrArg Host.Outcome.next ?_)⟩
  · rw [bootTimeoutStep, if_neg hgo, if_pos h]
  · rw [bootTimeoutStep, if_neg hgo, if_neg (by rw [h]; decide), if_pos h]

theorem discoveryAndHeader : Claims.DiscoveryAndHeader := by
  unfold Claims.DiscoveryAndHeader
  intro s
  refine ⟨fun sig bfpt hon hstate hfeed => ?_, fun ws hbusy hon hstate hfeed hlen => ?_, fun hrun hbusy => ?_, fun hrun hbusy => ?_⟩
  · intro f cmds
    refine ⟨?_, present_sfdpOf .., addr4_sfdpOf, fun r => modeBits_sfdpOf⟩
    refine congrArg Host.Outcome.next ((if_pos ⟨hon, hstate⟩).trans ?_)
    rw [foldl_issueSpi_flash _ hfeed]
    rfl
  · intro failed
    have hexec : exec (.header ws) s = .next (headerStep s ws) := congrArg Host.Outcome.next (portOn_idle hbusy _)
    have hfails : ∀ {e}, headerErr s.gen ws = some e → failed e := fun {e} he => by
      rw [headerStep_fails hon hstate hfeed hlen he] at hexec
      refine ⟨_, hexec, ?_, ?_, ?_, tiles_bootFail .., spad_bootFail ..⟩
      · rw [boot_bootFail]; rfl
      · rw [boot_bootFail]; rfl
      · rw [boot_bootFail]; rfl
    refine ⟨fun hmagic => hfails ?_, fun hmagic hcrc => hfails ?_, fun hmagic hcrc hbad => hfails ?_, fun hmagic hcrc hgood => ?_⟩
    · rw [headerErr, if_pos hmagic]; rfl
    · rw [headerErr, if_neg (not_not_intro hmagic), if_pos hcrc]; rfl
    · rw [headerErr, if_neg (not_not_intro hmagic), if_neg (not_not_intro hcrc), if_pos hbad]; rfl
    · have he : headerErr s.gen ws = none := by
        rw [headerErr, if_neg (not_not_intro hmagic), if_neg (not_not_intro hcrc), if_neg (by rw [hgood]; exact Bool.false_ne_true)]
      rw [headerStep_accepts hon hstate hfeed hlen he, headerTake_flash (s := withSpi s _) hfeed, withSpi_append] at hexec
      have hboot := takeFeed_eq s.boot.held.length (headerBoot (withSpi s ([imageRead s.boot 0 0 8] ++ quadCmds s.boot ws)).boot ws)
      refine ⟨_, hexec, rfl, ?_, ?_, ?_, ?_, ?_, fun hsfdp => ?_, ?_, ?_, ?_⟩
      · exact (congrArg Boot.state hboot).trans rfl
      · exact (congrArg Boot.sect hboot).trans rfl
      · exact (congrArg Boot.next hboot).trans rfl
      · exact (congrArg Boot.nsect hboot).trans rfl
      · exact (congrArg Boot.total hboot).trans rfl
      · exact (congrArg Boot.div hboot).trans (if_neg (by rw [show (withSpi s _).boot.nosfdp = false from hsfdp]; exact Bool.false_ne_true))
      · obtain ⟨hr, -⟩ := (Bool.and_eq_true_iff.mp hon : _ ∧ _)
        exact (congrArg Boot.running hboot).trans hr
      · exact (congrArg Boot.mode hboot).trans rfl
      · exact (congrArg Boot.spi hboot).trans (List.append_assoc ..).symm
  · obtain ⟨hpwr, hpll⟩ := bootTimeout_fails hrun hbusy
    refine ⟨fun h => ⟨_, hpwr h, ?_, ?_, ?_⟩, fun h => ⟨_, hpll h, ?_, ?_, ?_⟩⟩
    all_goals
      rw [boot_bootFail]
      rfl
  · refine congrArg Host.Outcome.next ((portOn_idle hbusy _).trans ?_)
    rw [bootTimeoutStep, if_pos (by rw [hrun]; rfl)]

/-! ## Host feed -/

theorem takeFeed_busy {b : Boot} (h : (b.state ≠ 3 ∧ b.state ≠ 4) ∨ b.entries ≠ []) : ∀ n, takeFeed n b = b
  | 0 => rfl
  | n + 1 => by
    have hnot : ¬ ((b.state = 3 ∨ b.state = 4) ∧ b.entries = [] ∧ b.feed.length < feedWant b) := by
      rintro ⟨h34, he, -⟩
      obtain ⟨h3, h4⟩ | hne := h
      · exact h34.elim h3 h4
      · exact hne he
    unfold takeFeed
    split
    · rfl
    · exact if_neg hnot

/-- One word held is taken while there is room for it. -/
theorem takeFeed_one {b : Boot} {w : Word} (hheld : b.held = [w]) (hst : b.state = 3 ∨ b.state = 4) (hent : b.entries = [])
    (hroom : b.feed.length < feedWant b) : takeFeed 1 b = { b with held := [], feed := b.feed ++ [w] } := by
  simp only [takeFeed, hheld, hst, hent, hroom, and_self, if_true]

theorem regWrite_bootFeed (s : State) (w : Word) : regWrite s 0x108 .bootFeed w 15 false = (feedWord s w, false) := rfl

/-- A write of `GH_BOOT_FEED` that is not answered yet. -/
theorem hostWrite_bootFeed_held {s : State} (h : Reaches s 0x108 .bootFeed) {w : Word} (hheld : (feedWord s w).boot.held ≠ []) :
    hostWrite s 0x108 w 15 = { feedWord s w with cp := { (feedWord s w).cp with busy := true } } := by
  obtain ⟨hreset, hbusy, hat, hreach⟩ := h
  simp only [hostWrite, cpWrite, hreset, hbusy, hat, hreach, regWrite_bootFeed, if_true, if_false, Bool.false_eq_true, hheld,
    feedAddr, ne_eq, not_false_eq_true, and_self]

theorem hostWrite_bootFeed_taken {s : State} (h : Reaches s 0x108 .bootFeed) {w : Word} (hheld : (feedWord s w).boot.held = []) :
    hostWrite s 0x108 w 15 = answered (feedWord s w) := by
  obtain ⟨hreset, hbusy, hat, hreach⟩ := h
  simp only [hostWrite, cpWrite, hreset, hbusy, hat, hreach, regWrite_bootFeed, if_true, if_false, Bool.false_eq_true, hheld,
    ne_eq, not_true_eq_false, and_false, answered]

theorem feedWord_fed {s : State} (hfeed : s.boot.hostfeed = true) (hrun : s.boot.running = true) (w : Word) :
    feedWord s w = seqOn s { s.boot with held := s.boot.held ++ [w] } := if_pos ⟨hfeed, hrun⟩

theorem hostWrite_busy {s : State} (h : s.cp.busy = true) (a : Nat) (d : Word) (strb : BitVec 4) :
    hostWrite s a d strb = { s with cp := { s.cp with waiting := s.cp.waiting ++ [.write a d strb] } } := if_pos h

theorem hostRead_busy {s : State} (h : s.cp.busy = true) (a : Nat) :
    hostRead s a = { s with cp := { s.cp with waiting := s.cp.waiting ++ [.read a] } } := if_pos h

theorem headEntry_cons {s : State} {e : BootEntry} {rest : List BootEntry} (hon : bootOn s = true) (hent : s.boot.entries = e :: rest)
    {kind : Nat} (hk : e.kind = kind) : headEntry s kind = some e := by
  rw [headEntry, hent]
  exact if_pos ⟨hon, hk⟩

theorem headEntry_other {s : State} {e : BootEntry} {rest : List BootEntry} (hent : s.boot.entries = e :: rest)
    {kind : Nat} (hk : e.kind ≠ kind) : headEntry s kind = none := by
  rw [headEntry, hent]
  exact if_neg (fun ⟨_, h⟩ => hk h)

/-- The sequencer's state once the last entry of a list is done. -/
def listDone (b : Boot) : Boot := { b with entries := [], sect := b.sect + 1 }

theorem popEntry_single {s : State} {e : BootEntry} (hent : s.boot.entries = [e]) : popEntry s = seqOn s (listDone s.boot) := by
  rw [popEntry, hent]
  rfl

/-- The last entry of a list is done: the next section is due, and takes the word that is held for it. -/
theorem popEntry_last {s : State} {e : BootEntry} {w : Word} (hstate : s.boot.state = 4) (hent : s.boot.entries = [e])
    (hfeed : s.boot.feed = []) (hheld : s.boot.held = [w]) :
    popEntry s = { s with boot := { s.boot with entries := [], sect := s.boot.sect + 1, feed := [w], held := [] } } := by
  have hwant : feedWant (listDone s.boot) = 4 := by simp [feedWant, listDone, hstate, hfeed]
  have hroom : (listDone s.boot).feed.length < feedWant (listDone s.boot) := by
    rw [hwant, show (listDone s.boot).feed = [] from hfeed]
    decide
  have htake := takeFeed_one (b := listDone s.boot) hheld (.inr hstate) rfl hroom
  rw [show (listDone s.boot).feed = [] from hfeed] at htake
  rw [popEntry_single hent, seqOn, show (listDone s.boot).held = [w] from hheld]
  exact congrArg (fun b => { s with boot := b }) htake

theorem feedHolds : Claims.FeedHolds := by
  unfold Claims.FeedHolds
  intro s
  refine ⟨fun w h => ⟨fun hfeed hrun hstate hent hlen hheld => ?_, fun hfeed hrun hbusy => ?_, fun hoff hheld => ?_⟩,
    fun hbusy a d strb => ⟨?_, ?_⟩, fun e w hon hstate hent hkind hfeed hbusy hheld hwait => ?_⟩
  · have hw : feedWord s w = { s with boot := { s.boot with held := [], feed := s.boot.feed ++ [w] } } := by
      rw [feedWord_fed hfeed hrun, hheld]
      have hwant : feedWant { s.boot with held := [] ++ [w] } = 8 := if_pos hstate
      exact congrArg (fun b => { s with boot := b })
        (takeFeed_one (b := { s.boot with held := [] ++ [w] }) rfl (.inl hstate) hent (by rw [hwant]; exact hlen))
    refine congrArg Host.Outcome.next ((hostWrite_bootFeed_taken h (by rw [hw])).trans ?_)
    rw [hw, ← hheld]
    rfl
  · have hw : feedWord s w = { s with boot := { s.boot with held := s.boot.held ++ [w] } } := by
      rw [feedWord_fed hfeed hrun, seqOn]
      exact congrArg (fun b => { s with boot := b }) (takeFeed_busy (b := { s.boot with held := s.boot.held ++ [w] }) hbusy _)
    refine congrArg Host.Outcome.next ((hostWrite_bootFeed_held h (by rw [hw]; simp)).trans ?_)
    rw [hw]
  · have hw : feedWord s w = s := by
      refine if_neg (fun ⟨hf, hr⟩ => ?_)
      obtain hoff | hoff := hoff
      · exact Bool.false_ne_true (hoff.symm.trans hf)
      · exact Bool.false_ne_true (hoff.symm.trans hr)
    refine congrArg Host.Outcome.next ((hostWrite_bootFeed_taken h (by rw [hw]; exact hheld)).trans ?_)
    rw [hw]
  · exact congrArg Host.Outcome.next (hostWrite_busy hbusy ..)
  · exact congrArg Host.Outcome.next (hostRead_busy hbusy ..)
  · have hstep : delayEntry s = popEntry s := by rw [delayEntry, headEntry_cons hon hent hkind]
    refine congrArg Host.Outcome.next ?_
    rw [hstep, popEntry_last hstate hent hfeed hheld]
    refine (if_pos ⟨hbusy, rfl⟩).trans ?_
    dsimp only
    rw [hwait, List.foldl_nil]

/-! ## Sections (R370, R372) -/

/-- A section of the image has been read, and none of its words is left. -/
def secRead (s : State) : State :=
  { s with boot := { s.boot with feed := [], spi := s.boot.spi ++ [imageRead s.boot s.boot.mode.toNat s.boot.next s.boot.div] } }

theorem secKnown_of {ty : Nat} (h : ty ∈ [1, 2, 3, 4, 5, 15]) : secKnown ty = true := by
  simp only [List.mem_cons, List.not_mem_nil, or_false] at h
  obtain rfl | rfl | rfl | rfl | rfl | rfl := h <;> rfl

/-- A good section of the type that a command applies is applied. -/
theorem sectionStep_good {s : State} {ws : List Word} (h : SectionGood s ws) {ty : Nat} (hty : secType ws = ty)
    (f : State → List Word → State) : sectionStep s ty ws f = f (secRead s) ws := by
  obtain ⟨-, hdue, hfeed, -, hlen, hwhole, herr⟩ := h
  unfold sectionStep
  rw [imageWords_flash hfeed]
  dsimp only
  rw [if_pos ⟨hdue, hlen, hwhole, .inl hty⟩, issueSpi_flash hfeed, show sectionErr (withSpi s _) ws = none from herr]
  rfl

/-- A section that fails a check fails boot. -/
theorem sectionStep_bad {s : State} {ws : List Word} (hdue : sectionDue s = true) (hfeed : s.boot.hostfeed = false)
    (hlen : 4 ≤ ws.length) (hwhole : secWhole ws = true) {e : Nat} (herr : sectionErr s ws = some e) {ty : Nat}
    (hty : secType ws = ty) (f : State → List Word → State) : sectionStep s ty ws f =
      bootFail (withSpi s [imageRead s.boot s.boot.mode.toNat s.boot.next s.boot.div]) e s.boot.sect
        (BitVec.ofNat 32 s.boot.next) := by
  unfold sectionStep
  rw [imageWords_flash hfeed]
  dsimp only
  rw [if_pos ⟨hdue, hlen, hwhole, .inl hty⟩, issueSpi_flash hfeed, show sectionErr (withSpi s _) ws = some e from herr]
  rfl

theorem section_checks {s : State} {ws : List Word} (h : SectionGood s ws) :
    targetBad s.gen ws = false ∧ payloadBad s.gen (secType ws) (secBody ws) = false := by
  obtain ⟨-, -, -, -, -, -, herr⟩ := h
  unfold sectionErr at herr
  iterate 4
    split at herr
    · exact nomatch herr
  next hfields =>
    simp only [Bool.or_eq_true, not_or, Bool.not_eq_true] at hfields
    obtain ⟨⟨-, htarget⟩, hpayload⟩ := hfields
    exact ⟨htarget, hpayload⟩

theorem beyond_false {first n size : Nat} (h : beyond first n size = false) : first + n ≤ size := by
  simp only [beyond, Bool.or_eq_false_iff, decide_eq_false_iff_not] at h
  omega

theorem progBad_false {body : List Word} (h : progBad body = false) :
    16 * fld (wordAt body 0) 9 0 + (body.drop 1).length ≤ 16384 := by
  simp only [progBad, Bool.or_eq_false_iff, decide_eq_false_iff_not, not_not] at h
  obtain ⟨⟨-, hmod⟩, hbey⟩ := h
  have hle := beyond_false hbey
  rw [List.length_drop]
  omega

theorem ctxBad_false {body : List Word} (h : ctxBad body = false) : fld (wordAt body 0) 13 0 + (body.drop 1).length ≤ 16384 := by
  simp only [ctxBad, Bool.or_eq_false_iff] at h
  obtain ⟨-, hbey⟩ := h
  have hle := beyond_false hbey
  rwa [List.length_drop]

theorem descBad_false {body : List Word} {n size o : Nat} (htab : descTable (fld (wordAt body 0) 25 24) = some (n, size, o))
    (h : descBad body = false) : n * fld (wordAt body 0) 11 0 + (body.drop 1).length ≤ n * size := by
  simp only [descBad, htab, Bool.or_eq_false_iff, decide_eq_false_iff_not, not_not] at h
  obtain ⟨-, hmod, hbey⟩ := h
  have hle := beyond_false hbey
  rw [List.length_drop]
  have hdiv : n * ((body.length - 1) / n) = body.length - 1 := Nat.mul_div_cancel' (Nat.dvd_of_mod_eq_zero hmod)
  calc n * fld (wordAt body 0) 11 0 + (body.length - 1)
      = n * (fld (wordAt body 0) 11 0 + (body.length - 1) / n) := by rw [Nat.mul_add, hdiv]
    _ ≤ n * size := Nat.mul_le_mul_left n hle

theorem startBad_false {c : GenConfig} {body : List Word} (h : startBad c body = false) :
    body.length = 1 + (runTiles (wordAt body 0)).length ∧ ∀ t ∈ runTiles (wordAt body 0), t < GenConfig.T c := by
  simp only [startBad, Bool.or_eq_false_iff, decide_eq_false_iff_not, not_not, List.any_eq_false, decide_eq_true_eq, not_le] at h
  obtain ⟨⟨hlen, hlt⟩, -⟩ := h
  exact ⟨hlen, hlt⟩

section
variable {s : State} {ws : List Word} (h : SectionGood s ws)
include h

theorem sectionGood_exec {c : Instr} {step : State → List Word → State} (hc : exec c s = .next (portOn s (step s ws))) :
    exec c s = .next (step s ws) := by
  obtain ⟨hbusy, -⟩ := h
  rw [hc, portOn_idle hbusy]

theorem held_secRead : (secRead s).boot.held = [] := by
  obtain ⟨-, -, -, hheld, -⟩ := h
  exact hheld

/-- The section is done on the state that its writes have left, where the sequencer's own state is as the section was read. -/
theorem sectionDone_boot {u : State} (hboot : u.boot = (secRead s).boot) (len : Nat) : sectionDone u len =
    { u with boot := { (secRead s).boot with sect := s.boot.sect + 1, next := s.boot.next + 16 + len } } := by
  rw [sectionDone, hboot]
  exact seqOn_unheld (held_secRead h)

/-- A section that writes words of one tile's memories. -/
theorem sectionDone_onlyTile {u : State} {t : Nat} (hu : OnlyTile (secRead s) u t) :
    SectionDone s (sectionDone u (secLen ws)) ws ∧ (∀ j, j ≠ t → (sectionDone u (secLen ws)).tile j = s.tile j)
      ∧ (sectionDone u (secLen ws)).tile t = u.tile t ∧ (sectionDone u (secLen ws)).spad = s.spad := by
  obtain ⟨hstate, hother⟩ := hu
  have hboot : u.boot = (secRead s).boot := by rw [hstate]
  have hspad : u.spad = s.spad := by
    rw [hstate]
    rfl
  rw [sectionDone_boot h hboot]
  exact ⟨rfl, hother, rfl, hspad⟩

end

theorem takeList_secRead {s : State} {ws : List Word} (hne : listEntries (s.boot.next + 16) (secBody ws) ≠ []) :
    takeList (secRead s) ws = { secRead s with boot := { (secRead s).boot with
      entries := listEntries (s.boot.next + 16) (secBody ws), next := s.boot.next + 16 + secLen ws } } := by
  have hnext : listEntries ((secRead s).boot.next + 16) (secBody ws) = listEntries (s.boot.next + 16) (secBody ws) := rfl
  rw [takeList, hnext]
  cases hl : listEntries (s.boot.next + 16) (secBody ws) with
  | nil => exact absurd hl hne
  | cons e es => rfl

/-! Words of a section that stand in a memory. -/

theorem get_section (m : Tab Word) (body : List Word) (first k : Nat) : Tab.get (wordsRun m first (body.drop 1)) 0 k =
    if first ≤ k ∧ k < first + (body.length - 1) then wordAt body (k - first + 1) else Tab.get m 0 k := by
  rw [get_wordsRun, wordAt_drop_one, List.length_drop]

section
variable {s : State} {ws : List Word} (h : SectionGood s ws)
include h

theorem progSection_applied (hty : secType ws = 2) (hruns : coreRuns s (secTarget ws) = true) :
    ∃ u, exec (.progSection ws) s = .next u ∧ SectionDone s u ws ∧ (∀ j, j ≠ secTarget ws → u.tile j = s.tile j)
      ∧ u.tile (secTarget ws) = memRun .imem (s.tile (secTarget ws)) (16 * fld (wordAt (secBody ws) 0) 9 0) ((secBody ws).drop 1)
      ∧ u.spad = s.spad := by
  obtain ⟨htarget, hpayload⟩ := section_checks h
  have hexec := sectionGood_exec h (c := .progSection ws) (step := progStep) rfl
  rw [progStep, sectionStep_good h (ty := secProg) hty] at hexec
  dsimp only at hexec
  have ht : secTarget ws < GenConfig.T s.gen := by
    simpa [targetBad, hty, secProg] using htarget
  have hbad : progBad (secBody ws) = false := by
    simpa [payloadBad, hty, secRegs, secSeal, secProg] using hpayload
  have haddr : 0x10000 + 64 * fld (wordAt (secBody ws) 0) 9 0 = 0x10000 + 4 * (16 * fld (wordAt (secBody ws) 0) 9 0) := by omega
  rw [haddr] at hexec
  obtain ⟨honly, htile⟩ := writeRun_mem (r := .imem) (base := 0x10000) (size := 16384) (fun _ => tileReg_imem) (fun _ => rfl)
    (by decide) (by decide) ((secBody ws).drop 1) (s := secRead s) (16 * fld (wordAt (secBody ws) 0) 9 0) ht hruns (progBad_false hbad)
  obtain ⟨hdone, hother, hself, hspad⟩ := sectionDone_onlyTile h honly
  exact ⟨_, hexec, hdone, hother, hself.trans htile, hspad⟩

/-- A DESC section writes words of the memory that it names. -/
theorem desc_applied {r : Nat → TileReg} {n size o : Nat} (hty : secType ws = 3) (hruns : coreRuns s (secTarget ws) = true)
    (htab : descTable (fld (wordAt (secBody ws) 0) 25 24) = some (n, size, o))
    (hreg : ∀ w, w < n * size → tileReg (o + 4 * w) = r w) (hmem : ∀ w, (r w).isMem = true)
    (hbase : o + 4 * (n * size) ≤ 0x40000) (h4 : o % 4 = 0) :
    ∃ u, exec (.desc ws) s = .next u ∧ SectionDone s u ws ∧ (∀ j, j ≠ secTarget ws → u.tile j = s.tile j)
      ∧ u.tile (secTarget ws) = memRun r (s.tile (secTarget ws)) (n * fld (wordAt (secBody ws) 0) 11 0) ((secBody ws).drop 1)
      ∧ u.spad = s.spad := by
  obtain ⟨htarget, hpayload⟩ := section_checks h
  have hexec := sectionGood_exec h (c := .desc ws) (step := descStep) rfl
  rw [descStep, sectionStep_good h (ty := secDesc) hty] at hexec
  dsimp only at hexec
  rw [htab] at hexec
  dsimp only at hexec
  have ht : secTarget ws < GenConfig.T s.gen := by
    simpa [targetBad, hty, secProg, secDesc] using htarget
  have hbad : descBad (secBody ws) = false := by
    simpa [payloadBad, hty, secRegs, secSeal, secProg, secDesc] using hpayload
  have haddr : o + 4 * n * fld (wordAt (secBody ws) 0) 11 0 = o + 4 * (n * fld (wordAt (secBody ws) 0) 11 0) := by
    rw [Nat.mul_assoc]
  rw [haddr] at hexec
  obtain ⟨honly, htile⟩ := writeRun_mem hreg hmem hbase h4 ((secBody ws).drop 1) (s := secRead s)
    (n * fld (wordAt (secBody ws) 0) 11 0) ht hruns (descBad_false htab hbad)
  obtain ⟨hdone, hother, hself, hspad⟩ := sectionDone_onlyTile h honly
  exact ⟨_, hexec, hdone, hother, hself.trans htile, hspad⟩

theorem ctx_applied (hty : secType ws = 4) :
    ∃ u, exec (.ctx ws) s = .next u ∧ SectionDone s u ws ∧ u.tiles = s.tiles ∧ u.spad = s.spad
      ∧ ∀ p k, p < GenConfig.leaves s.gen → k < 16384 → Tab.get u.lodge.ctx 0 (ctxPlace p k) =
          if fld (wordAt (secBody ws) 0) 13 0 ≤ k ∧ k < fld (wordAt (secBody ws) 0) 13 0 + ((secBody ws).length - 1) then
            wordAt (secBody ws) (k - fld (wordAt (secBody ws) 0) 13 0 + 1) &&& 0xC0003FFF
          else Tab.get s.lodge.ctx 0 (ctxPlace p k) := by
  obtain ⟨-, hpayload⟩ := section_checks h
  have hexec := sectionGood_exec h (c := .ctx ws) (step := ctxStep) rfl
  rw [ctxStep, sectionStep_good h (ty := secCtx) hty] at hexec
  dsimp only at hexec
  have hbad : ctxBad (secBody ws) = false := by
    simpa [payloadBad, hty, secRegs, secSeal, secProg, secDesc, secCtx] using hpayload
  obtain ⟨hstate, hget⟩ := writeRun_ctx ((secBody ws).drop 1) (secRead s) (fld (wordAt (secBody ws) 0) 13 0) (ctxBad_false hbad)
  have hboot := congrArg State.boot hstate
  have htiles := congrArg State.tiles hstate
  have hspad := congrArg State.spad hstate
  rw [sectionDone_boot h hboot] at hexec
  refine ⟨_, hexec, rfl, htiles, hspad, fun p k hp hk => (hget p k hp hk).trans ?_⟩
  rw [wordAt_drop_one, List.length_drop]
  rfl

end

/-- The state in which the start section starts its programs. -/
def profileStarted (s : State) : State := { secRead s with always := { s.always with active := s.always.profile } }

theorem start_applied {s : State} {ws : List Word} (h : SectionGood s ws) (hty : secType ws = 15) :
    ∃ u, exec (.start ws) s = .next u ∧ u.always.active = s.always.profile ∧ u.boot.state = 5 ∧ u.boot.running = false
      ∧ u.always.sealLog.length = s.always.sealLog.length + 8 ∧ u.spad = s.spad
      ∧ (∀ j, bit (wordAt (secBody ws) 0) j = false → u.tile j = s.tile j)
      ∧ ∀ k j, (runTiles (wordAt (secBody ws) 0))[k]? = some j → coreRuns s j = true → (s.tile j).seq ≠ .running →
          (u.tile j).seq = .running ∧ (u.tile j).pc = fld (wordAt (secBody ws) (k + 1)) 9 0 := by
  obtain ⟨-, hpayload⟩ := section_checks h
  have hexec := sectionGood_exec h (c := .start ws) (step := startStep) rfl
  rw [startStep, sectionStep_good h (ty := secStart) hty] at hexec
  dsimp only at hexec
  have hbad : startBad s.gen (secBody ws) = false := by
    simpa [payloadBad, hty, secRegs, secSeal, secProg, secDesc, secCtx] using hpayload
  obtain ⟨hlen, hlt⟩ := startBad_false hbad
  generalize hps : (runTiles (wordAt (secBody ws) 0)).zip ((secBody ws).drop 1) = ps at hexec
  have hfst : ps.map Prod.fst = runTiles (wordAt (secBody ws) 0) := by
    rw [← hps]
    refine List.map_fst_zip ?_
    rw [List.length_drop]
    omega
  have hlog := logImage_eq (profileStarted s)
  have hnd : (ps.map Prod.fst).Nodup := by
    rw [hfst]
    exact List.nodup_range.filter _
  have hT : ∀ p ∈ ps, p.1 < GenConfig.T (logImage (profileStarted s)).gen := fun p hp => by
    rw [hlog]
    exact hlt p.1 (hfst ▸ List.mem_map_of_mem hp)
  obtain ⟨hstate, hother, hstarted⟩ := foldl_startTile ps (logImage (profileStarted s)) hnd hT
  have halways := congrArg State.always hstate
  have htile : ∀ j, (logImage (profileStarted s)).tile j = s.tile j := fun j => by
    rw [hlog]
    rfl
  refine ⟨_, hexec, ?_, rfl, rfl, ?_, ?_, fun j hj => ?_, fun k j hk hruns hq => ?_⟩
  · refine (congrArg Always.active halways).trans ?_
    rw [hlog]
    rfl
  · exact (congrArg (fun x : Always => x.sealLog.length) halways).trans (length_sealLog_logImage (profileStarted s))
  · refine (congrArg State.spad hstate).trans ?_
    rw [hlog]
    rfl
  · refine (hother j ?_).trans (htile j)
    rw [hfst, runTiles, List.mem_filter, hj]
    exact fun ⟨_, hb⟩ => Bool.false_ne_true hb
  · have hmem : (j, wordAt (secBody ws) (k + 1)) ∈ ps := by
      obtain ⟨hklt, hkeq⟩ := List.getElem?_eq_some_iff.mp hk
      have hk2 : k < ((secBody ws).drop 1).length := by
        rw [List.length_drop]
        omega
      have hword : wordAt (secBody ws) (k + 1) = ((secBody ws).drop 1)[k] := by
        rw [← wordAt_drop_one, wordAt, List.getElem?_eq_getElem hk2, Option.getD_some]
      rw [← hps, ← hkeq, hword]
      exact List.mem_iff_getElem.mpr ⟨k, by rw [List.length_zip]; omega, List.getElem_zip ..⟩
    refine hstarted j _ hmem ?_ ?_
    · rw [hlog]
      exact hruns
    · rw [htile]
      exact hq

theorem sectionsApplied : Claims.SectionsApplied := by
  unfold Claims.SectionsApplied
  intro s ws h body t es
  have hdue4 : s.boot.state = 4 := by
    obtain ⟨-, hdue, -⟩ := h
    simp only [sectionDue, Bool.and_eq_true, decide_eq_true_eq] at hdue
    obtain ⟨⟨-, h4⟩, -⟩ := hdue
    exact h4
  refine ⟨fun hty hne => ?_, fun hty hne hok => ?_, fun hty hex => ?_, fun hty hruns hq => ?_, fun n mem hty hruns hmem => ?_,
    ctx_applied h, start_applied h⟩
  · have hexec := sectionGood_exec h (c := .regs ws) (step := regsStep) rfl
    rw [regsStep, sectionStep_good h (ty := secRegs) hty, takeList_secRead hne] at hexec
    exact ⟨_, hexec, rfl, rfl, rfl, hdue4⟩
  · have hexec := sectionGood_exec h (c := .seal ws) (step := sealStep) rfl
    have hfind : es.find? (fun e => !sealEntryOk s.gen e) = none := by
      rw [List.find?_eq_none]
      intro e he
      rw [hok e he]
      exact Bool.false_ne_true
    have hfind' : (listEntries ((secRead s).boot.next + 16) (secBody ws)).find? (fun e => !sealEntryOk (secRead s).gen e) = none := hfind
    rw [sealStep, sectionStep_good h (ty := secSeal) hty, hfind'] at hexec
    dsimp only at hexec
    rw [takeList_secRead hne] at hexec
    exact ⟨_, hexec, rfl, rfl, hdue4⟩
  · have hexec := sectionGood_exec h (c := .seal ws) (step := sealStep) rfl
    obtain ⟨e, he, hbad⟩ := hex
    have hsome : (es.find? (fun e => !sealEntryOk s.gen e)).isSome = true := by
      rw [List.find?_isSome]
      exact ⟨e, he, by rw [hbad]; rfl⟩
    obtain ⟨f, hf⟩ := Option.isSome_iff_exists.mp hsome
    have hf' : (listEntries ((secRead s).boot.next + 16) (secBody ws)).find? (fun e => !sealEntryOk (secRead s).gen e) = some f := hf
    rw [sealStep, sectionStep_good h (ty := secSeal) hty, hf'] at hexec
    refine ⟨_, hexec, ?_, ?_, tiles_bootFail ..⟩
    · rw [boot_bootFail]; rfl
    · rw [boot_bootFail]; rfl
  · obtain ⟨u, hexec, hdone, hother, htile, hspad⟩ := progSection_applied h hty hruns
    have hrun := memRun_imem ((secBody ws).drop 1) (16 * fld (wordAt (secBody ws) 0) 9 0) hq
    refine ⟨u, hexec, hdone, hother, ?_, hspad, fun k => ?_⟩
    · rw [htile, hrun]
    · rw [htile, hrun]
      exact get_section ..
  · obtain ⟨hk, rfl, rfl⟩ | ⟨hk, rfl, rfl⟩ | ⟨hk, rfl, rfl⟩ := hmem
    · obtain ⟨u, hexec, hdone, hother, htile, hspad⟩ := desc_applied h (r := .tdt) (n := 32) (size := 256) (o := 0x20000) hty hruns
        (by rw [hk]; rfl) (fun _ => tileReg_tdt) (fun _ => rfl) (by decide) (by decide)
      have hrun := memRun_tdt ((secBody ws).drop 1) (s.tile t) (32 * fld (wordAt (secBody ws) 0) 11 0)
      refine ⟨u, hexec, hdone, hother, ?_, hspad, fun hn => absurd rfl hn, fun _ => ?_, fun _ => ?_, fun k => ?_⟩
      · rw [htile, hrun]
      · rw [htile, hrun]
      · rw [htile, hrun]
      · rw [htile, hrun]
        exact get_section ..
    · obtain ⟨u, hexec, hdone, hother, htile, hspad⟩ := desc_applied h (r := .odt) (n := 16) (size := 128) (o := 0x28000) hty hruns
        (by rw [hk]; rfl) (fun _ => tileReg_odt) (fun _ => rfl) (by decide) (by decide)
      have hrun := memRun_odt ((secBody ws).drop 1) (s.tile t) (16 * fld (wordAt (secBody ws) 0) 11 0)
      refine ⟨u, hexec, hdone, hother, ?_, hspad, fun _ => ?_, fun hn => absurd rfl hn, fun _ => ?_, fun k => ?_⟩
      · rw [htile, hrun]
      · rw [htile, hrun]
      · rw [htile, hrun]
      · rw [htile, hrun]
        exact get_section ..
    · obtain ⟨u, hexec, hdone, hother, htile, hspad⟩ := desc_applied h (r := .wpm) (n := 1) (size := 4096) (o := 0x30000) hty hruns
        (by rw [hk]; rfl) (fun _ => tileReg_wpm) (fun _ => rfl) (by decide) (by decide)
      have hrun := memRun_wpm ((secBody ws).drop 1) (s.tile t) (1 * fld (wordAt (secBody ws) 0) 11 0)
      refine ⟨u, hexec, hdone, hother, ?_, hspad, fun _ => ?_, fun _ => ?_, fun hn => absurd rfl hn, fun k => ?_⟩
      · rw [htile, hrun]
      · rw [htile, hrun]
      · rw [htile, hrun]
      · rw [htile, hrun]
        exact get_section ..

/-! ## A section whose checksum is wrong -/

theorem badSectionFails : Claims.BadSectionFails := by
  unfold Claims.BadSectionFails
  intro s ws c hc hbusy hdue hfeed hlen hwhole hlenok hscrc
  have herr : sectionErr s ws = some errScrc := by
    rw [sectionErr, if_neg (by rw [hlenok]; exact Bool.false_ne_true), if_pos hscrc]
  have hfails : ∃ v, exec c s = .next (bootFail v 5 s.boot.sect (BitVec.ofNat 32 s.boot.next)) ∧ v.tiles = s.tiles ∧ v.lodge = s.lodge
      ∧ v.spad = s.spad := by
    have hbad := fun ty => sectionStep_bad hdue hfeed hlen hwhole herr (ty := ty)
    refine ⟨withSpi s [imageRead s.boot s.boot.mode.toNat s.boot.next s.boot.div], ?_, rfl, rfl, rfl⟩
    simp only [List.mem_cons, List.not_mem_nil, or_false, Prod.mk.injEq] at hc
    obtain ⟨hty, rfl⟩ | ⟨hty, rfl⟩ | ⟨hty, rfl⟩ | ⟨hty, rfl⟩ | ⟨hty, rfl⟩ | ⟨hty, rfl⟩ := hc
    · exact congrArg Host.Outcome.next ((portOn_idle hbusy _).trans (hbad secRegs hty _))
    · exact congrArg Host.Outcome.next ((portOn_idle hbusy _).trans (hbad secProg hty _))
    · exact congrArg Host.Outcome.next ((portOn_idle hbusy _).trans (hbad secDesc hty _))
    · exact congrArg Host.Outcome.next ((portOn_idle hbusy _).trans (hbad secCtx hty _))
    · exact congrArg Host.Outcome.next ((portOn_idle hbusy _).trans (hbad secSeal hty _))
    · exact congrArg Host.Outcome.next ((portOn_idle hbusy _).trans (hbad secStart hty _))
  obtain ⟨v, hexec, htiles, hlodge, hspad⟩ := hfails
  refine ⟨_, hexec, ?_, ?_, ?_, (tiles_bootFail ..).trans htiles, (lodge_bootFail ..).trans hlodge, (spad_bootFail ..).trans hspad⟩
  all_goals
    rw [boot_bootFail]
    rfl

/-! ## The register list (R373) -/

theorem boot_ldAtomOp (s : State) (c : Nat) : (ldAtomOp s c).1.boot = s.boot := by
  unfold ldAtomOp
  split
  · rfl
  · dsimp only
    split <;> rfl

theorem boot_regRead (s : State) (a : Nat) (r : CpReg) : (regRead s a r).1.boot = s.boot := by
  unfold regRead
  split
  · rfl
  · split
    · rfl
    · exact boot_ldAtomOp ..
    · rfl
    · rfl

theorem boot_cpRead (s : State) (a : Nat) : (cpRead s a).1.boot = s.boot := by
  unfold cpRead
  split
  · rfl
  · split
    · exact boot_regRead ..
    · rfl

theorem popEntry_cons {s : State} {e : BootEntry} {rest : List BootEntry} (hent : s.boot.entries = e :: rest) (hne : rest ≠ []) :
    popEntry s = { s with boot := { s.boot with entries := rest } } := by
  cases rest with
  | nil => exact absurd rfl hne
  | cons f es => rw [popEntry, hent]

theorem not_and_eq_iff (v m : Word) : ~~~v &&& m = m ↔ v &&& m = 0 := by
  constructor
  · intro h
    refine BitVec.eq_of_getLsbD_eq fun i hi => ?_
    have hi' := congrArg (fun w : Word => w.getLsbD i) h
    simp only [BitVec.getLsbD_and, BitVec.getLsbD_not, hi, decide_true, Bool.true_and] at hi'
    rw [BitVec.getLsbD_and]
    revert hi'
    cases v.getLsbD i <;> cases m.getLsbD i <;> simp
  · intro h
    refine BitVec.eq_of_getLsbD_eq fun i hi => ?_
    have hi' := congrArg (fun w : Word => w.getLsbD i) h
    simp only [BitVec.getLsbD_and] at hi'
    simp only [BitVec.getLsbD_and, BitVec.getLsbD_not, hi, decide_true, Bool.true_and]
    revert hi'
    cases v.getLsbD i <;> cases m.getLsbD i <;> simp

section
variable {s : State} {e : BootEntry} {rest : List BootEntry} {kind : Nat} (h : EntryDue s kind e rest)
include h

theorem headEntry_due : headEntry s kind = some e := by
  obtain ⟨-, hon, hent, hkind, -⟩ := h
  exact headEntry_cons hon hent hkind

/-- The head entry is done in a state in which the sequencer's own state is as it was. -/
theorem popEntry_due {u : State} (hu : u.boot = s.boot) : popEntry u = { u with boot := { s.boot with entries := rest } } := by
  obtain ⟨-, -, hent, -, hne⟩ := h
  rw [popEntry_cons (hu ▸ hent) hne, hu]

end

/-- A poll reads once: it is done where its bits are as it wants them, and waits else. -/
theorem pollEntry_due {s : State} {e : BootEntry} {rest : List BootEntry} {kind : Nat} (h : EntryDue s kind e rest) (want : Bool)
    (hok : (cpRead s e.addr).2.2 = false) : pollEntry s kind want =
      if (if want then (cpRead s e.addr).2.1 else ~~~(cpRead s e.addr).2.1) &&& e.value = e.value then popEntry (cpRead s e.addr).1
      else (cpRead s e.addr).1 := by
  rw [pollEntry, headEntry_due h]
  exact if_neg (by rw [hok]; exact Bool.false_ne_true)

theorem polls_applied {s : State} {e : BootEntry} {rest : List BootEntry} {kind : Nat} {c : Instr}
    (hkc : (kind, c) ∈ [(1, Instr.pollset), (2, .pollclr)]) (h : EntryDue s kind e rest) (hok : (cpRead s e.addr).2.2 = false) :
    exec c s = .next (if (if kind = 1 then (cpRead s e.addr).2.1 &&& e.value = e.value else (cpRead s e.addr).2.1 &&& e.value = 0) then
      popEntry (cpRead s e.addr).1 else (cpRead s e.addr).1) := by
  have hbusy : s.cp.busy = false := by
    obtain ⟨hbusy, -⟩ := h
    exact hbusy
  simp only [List.mem_cons, List.not_mem_nil, or_false, Prod.mk.injEq] at hkc
  obtain ⟨rfl, rfl⟩ | ⟨rfl, rfl⟩ := hkc
  · exact congrArg Host.Outcome.next ((portOn_idle hbusy _).trans (pollEntry_due h true hok))
  · refine congrArg Host.Outcome.next ((portOn_idle hbusy _).trans ((pollEntry_due h false hok).trans ?_))
    simp only [Bool.false_eq_true, if_false, not_and_eq_iff, OfNat.ofNat_ne_one]

theorem entriesApplied : Claims.EntriesApplied := by
  unfold Claims.EntriesApplied
  intro s e rest
  refine ⟨fun h => ⟨?_, fun hnone => ?_⟩, fun kind c hkc h => ?_, fun h => ?_, fun kind c hkc hkind hbusy hent => ?_⟩
  · intro r hok hboot
    obtain ⟨hbusy, -⟩ := id h
    refine congrArg Host.Outcome.next ((portOn_idle hbusy _).trans ?_)
    rw [writeEntry, headEntry_due h]
    exact (if_neg (by rw [hok]; exact Bool.false_ne_true)).trans (popEntry_due h hboot)
  · obtain ⟨hbusy, -⟩ := id h
    have hw : cpWrite s e.addr e.value 15 true = (s, true) := by rw [cpWrite, hnone]
    have hexec : exec .write s = .next (bootFail s errEntry s.boot.sect (BitVec.ofNat 32 e.offset)) := by
      refine congrArg Host.Outcome.next ((portOn_idle hbusy _).trans ?_)
      rw [writeEntry, headEntry_due h]
      dsimp only
      rw [hw, if_pos rfl]
      rfl
    refine ⟨_, hexec, ?_, ?_, ?_, tiles_bootFail .., spad_bootFail ..⟩
    all_goals
      rw [boot_bootFail]
      rfl
  · intro r held
    refine ⟨fun hok hheld => ?_, fun hok hheld => ?_, fun hstate => ?_⟩
    · rw [polls_applied hkc h hok, if_pos hheld, popEntry_due h (boot_cpRead ..), ← boot_cpRead s e.addr]
    · rw [polls_applied hkc h hok, if_neg hheld]
    · obtain ⟨hbusy, hon, hent, hkind, -⟩ := id h
      have hk12 : kind = 1 ∨ kind = 2 := by
        simp only [List.mem_cons, List.not_mem_nil, or_false, Prod.mk.injEq] at hkc
        exact hkc.imp And.left And.left
      have hpoll : polling s = true := by
        rw [polling, hent]
        simpa [hkind] using hk12
      obtain ⟨hrun, -⟩ := Bool.and_eq_true_iff.mp hon
      have hexec : exec .bootTimeout s = .next (bootFail s errPoll s.boot.sect (BitVec.ofNat 32 e.offset)) := by
        refine congrArg Host.Outcome.next ((portOn_idle hbusy _).trans ?_)
        rw [bootTimeoutStep, if_neg (by rw [hrun]; exact Bool.false_ne_true), if_neg (by omega), if_neg (by omega), hent]
        exact if_pos (by rw [hon, hpoll]; rfl)
      refine ⟨_, hexec, ?_, ?_, tiles_bootFail ..⟩
      all_goals
        rw [boot_bootFail]
        rfl
  · obtain ⟨hbusy, -⟩ := id h
    refine congrArg Host.Outcome.next ((portOn_idle hbusy _).trans ?_)
    rw [delayEntry, headEntry_due h]
    exact popEntry_due h rfl
  · have hnone := headEntry_other hent hkind
    simp only [List.mem_cons, List.not_mem_nil, or_false, Prod.mk.injEq] at hkc
    obtain ⟨rfl, rfl⟩ | ⟨rfl, rfl⟩ | ⟨rfl, rfl⟩ | ⟨rfl, rfl⟩ := hkc
    · exact congrArg Host.Outcome.next ((portOn_idle hbusy _).trans (by rw [writeEntry, hnone]))
    · exact congrArg Host.Outcome.next ((portOn_idle hbusy _).trans (by rw [pollEntry, hnone]))
    · exact congrArg Host.Outcome.next ((portOn_idle hbusy _).trans (by rw [pollEntry, hnone]))
    · exact congrArg Host.Outcome.next ((portOn_idle hbusy _).trans (by rw [delayEntry, hnone]))

/-- Settles O57: reset and the first step, the header's checks, the words of host feed, and each section and entry by its type. -/
theorem bootProceeds : Obligations.BootProceeds := by
  unfold Obligations.BootProceeds
  exact ⟨resetAndBootStart, discoveryAndHeader, feedHolds, sectionsApplied, badSectionFails, entriesApplied⟩

end Sys2Proof.Proofs

end

section
/-! PROOF. The fault log's entry of a link that fails, whose router number goes past the 16 bits of INDEX (R412, R431). -/

namespace Sys2Proof.Proofs

open Sys2Proof Sys2Proof.Machine

/-- A link of router 65,536, the leaf of tile 262,144 where a leaf has four tiles. -/
def farLink : Point := .tileOut 262144

/-- A flit waits at the link, which has failed seven sends; nothing else differs from reset. -/
def farLinkFailing : State :=
  { State.reset with prom := { Prom.init with
      net := [{ oneFlit State.reset .response .band (.tile 0) [] 0 0 (.release 0 0 2 true 0) with route := [farLink] }]
      linkFails := [(farLink, 7)] } }

/-- The entry that the failed link leaves has INDEX 0, the router's number modulo 2^16. -/
theorem index_farLinkFailing :
    ((Tab.get (resendStep farLinkFailing farLink false).keeper.log LogEntry.init 0).ws[0]?).getD 0
      ≠ 0x80000000 ||| atN 2 29 ||| atN 4 24 ||| atN 1 20 ||| atN 65536 0 := by decide +kernel

/-- Refutes O60: LINK_RESEND of the clause on links names a point by numbers without a bound, and the log's INDEX keeps 16 bits of the
router's number, while the statement puts the whole number into the word: at a link of router 65,536 whose eighth send fails the two
differ in bit 16 (`farLinkFailing`). -/
theorem not_keeperActs : ¬ Obligations.KeeperActs := by
  unfold Obligations.KeeperActs
  rintro ⟨-, hlinks, -⟩
  obtain ⟨-, -, hfails⟩ := hlinks farLinkFailing farLink 65536 (by decide +kernel) (by decide +kernel) (by decide +kernel)
    ⟨_, List.mem_singleton_self _, rfl⟩
  obtain ⟨u, hexec, -, -, -, -, -, -, hlogged⟩ := hfails (by decide +kernel)
  obtain ⟨⟨hentry, -⟩, -⟩ := hlogged rfl
  have hstep : exec (.linkResend farLink false) farLinkFailing = .next (resendStep farLinkFailing farLink false) := rfl
  rw [hstep] at hexec
  obtain rfl : resendStep farLinkFailing farLink false = u := by injection hexec
  exact index_farLinkFailing (congrArg (fun e : LogEntry => (e.ws[0]?).getD 0) hentry)

end Sys2Proof.Proofs

end

section
/-! SUPPORT. What the reset of a unit leaves to the power controller and in the scratchpads' arrays (R402, R405, R406). -/

namespace Sys2Proof.Proofs

open Sys2Proof Sys2Proof.Machine

/-- The clock and power controller and the scratchpads' arrays stay, and a boot sequencer that does not run does not start. -/
structure ControllerStays (s u : State) : Prop where
  cpc : u.cpc = s.cpc
  gen : u.gen = s.gen
  mem : u.spad.mem = s.spad.mem
  running : s.boot.running = false → u.boot.running = false

theorem ControllerStays.refl (s : State) : ControllerStays s s := ⟨rfl, rfl, rfl, id⟩

theorem ControllerStays.trans {s u v : State} (h : ControllerStays s u) (k : ControllerStays u v) : ControllerStays s v :=
  ⟨k.cpc.trans h.cpc, k.gen.trans h.gen, k.mem.trans h.mem, fun hr => k.running (h.running hr)⟩

theorem controllerStays_foldl {α : Type} (f : State → α → State) (hf : ∀ s x, ControllerStays s (f s x)) :
    ∀ (xs : List α) (s : State), ControllerStays s (xs.foldl f s)
  | [], s => .refl s
  | x :: xs, s => (hf s x).trans (controllerStays_foldl f hf xs (f s x))

theorem controllerStays_of_sweeps {s u : State} (h : Sweeps s u) : ControllerStays s u := by
  refine ⟨h.cpc, ?_, ?_, fun hr => ?_⟩
  · rw [h.state]
  · rw [h.state]
  · rw [h.state]
    exact hr

theorem controllerStays_raise (s : State) (e t n ring detail : Nat) : ControllerStays s (raise s e t n ring detail) :=
  controllerStays_of_sweeps (sweeps_raise ..)

theorem controllerStays_addComp (s : State) (e : EntryRef) (c : CompArgs) : ControllerStays s (addComp s e c) :=
  controllerStays_of_sweeps (sweeps_addComp ..)

theorem controllerStays_breakJob (s : State) (b : EntryRef) : ControllerStays s (breakJob s b) :=
  controllerStays_of_sweeps (sweeps_breakJob ..)

/-! ## A core -/

theorem controllerStays_judgeLate (s : State) (t n : Nat) (ring : Bool) (l cause : Nat) :
    ControllerStays s (judgeLate s t n ring l cause) := by
  unfold judgeLate
  extract_lets x w y s0
  split
  · exact .refl s
  · have hset : ControllerStays s s0 := ⟨rfl, rfl, rfl, id⟩
    split
    · exact hset.trans (controllerStays_raise ..)
    · exact hset

theorem controllerStays_judgeLost (s : State) (t : Nat) (ls : List Lost) : ControllerStays s (judgeLost s t ls) := by
  unfold judgeLost
  exact controllerStays_foldl _ (fun s l => by exact controllerStays_judgeLate ..) ls s

theorem controllerStays_completeWith (s : State) (code : Nat) (ls : List Lost) : ControllerStays s (completeWith s code ls) := by
  unfold completeWith
  extract_lets now s1
  have h1 : ControllerStays s s1 := controllerStays_foldl _ (fun s l => by exact controllerStays_addComp ..) ls s
  exact h1.trans (controllerStays_foldl _ (fun s l => by exact controllerStays_breakJob ..) ls s1)

theorem controllerStays_breakParked (s : State) (x : Tile) : ControllerStays s (breakParked s x) := by
  unfold breakParked
  refine controllerStays_foldl _ (fun s p => ?_) x.streams s
  split
  · exact controllerStays_breakJob ..
  · exact .refl s

theorem controllerStays_completeResumers (s : State) (x : Tile) : ControllerStays s (completeResumers s x) := by
  unfold completeResumers
  refine controllerStays_foldl _ (fun s p => ?_) x.streams s
  split
  next e tag tEff _ =>
    have hadd := controllerStays_addComp s e
      { status := stDone, rstatus := stOffline, stream := p.1, tag := tag, tl := tEff, tr := localTime s }
    dsimp only
    split
    · exact hadd.trans (controllerStays_breakJob ..)
    · exact hadd
  next => exact .refl s

theorem controllerStays_setTile (s : State) (t : Nat) (x : Tile) : ControllerStays s (s.setTile t x) := ⟨rfl, rfl, rfl, id⟩

theorem controllerStays_forgetTile (s : State) (t : Nat) : ControllerStays s (forgetTile s t) := ⟨rfl, rfl, rfl, id⟩

theorem controllerStays_net (s : State) (net : List Msg) : ControllerStays s { s with prom := { s.prom with net := net } } :=
  ⟨rfl, rfl, rfl, id⟩

theorem controllerStays_clearPark (s : State) (t n : Nat) : ControllerStays s (clearPark s t n) := ⟨rfl, rfl, rfl, id⟩

theorem controllerStays_coreReset (s : State) (t : Nat) : ControllerStays s (coreReset s t) := by
  unfold coreReset
  extract_lets x ls s1 s2 q s3 s4
  have h1 : ControllerStays s s1 := controllerStays_judgeLost ..
  have h2 : ControllerStays s1 s2 := (controllerStays_setTile s1 t (coreInit x)).trans (controllerStays_forgetTile ..)
  have h3 : ControllerStays s2 s3 := controllerStays_net ..
  have h4 : ControllerStays s3 s4 := by
    refine controllerStays_foldl _ (fun s p => ?_) x.streams s3
    split
    · exact controllerStays_clearPark ..
    · exact .refl s
  have h5 : ControllerStays s4 (breakParked (completeResumers s4 x) x) :=
    (controllerStays_completeResumers ..).trans (controllerStays_breakParked ..)
  exact h1.trans (h2.trans (h3.trans (h4.trans (h5.trans (controllerStays_completeWith ..)))))

/-! ## Every unit -/

theorem controllerStays_seqReset (s : State) : ControllerStays s (seqReset s) := by
  unfold seqReset
  split
  · exact .refl s
  · exact ⟨rfl, rfl, rfl, fun _ => rfl⟩

theorem controllerStays_unitReset (s : State) (d : Nat) : ControllerStays s (unitReset s d) := by
  unfold unitReset
  split
  · exact controllerStays_coreReset ..
  · exact ⟨rfl, rfl, rfl, id⟩
  · exact ⟨rfl, rfl, rfl, id⟩
  · exact ⟨rfl, rfl, rfl, id⟩
  · exact ⟨rfl, rfl, rfl, id⟩
  · exact ⟨rfl, rfl, rfl, id⟩
  · exact ⟨rfl, rfl, rfl, id⟩
  · exact ⟨rfl, rfl, rfl, id⟩
  · exact ⟨rfl, rfl, rfl, id⟩
  · exact controllerStays_seqReset s
  · exact .refl s
  · exact .refl s

/-! ## A domain -/

/-- The state after the reset of a leaf PLL's domain has forced its multiplexer. -/
theorem monStatus_forceLock (s : State) (p : Nat) : (forceLock s p).cpc.monStatus = s.cpc.monStatus := by
  unfold forceLock startLock
  dsimp only
  split <;> rfl

theorem monStatus_domReset (s : State) (d : Nat) : (domReset s d).cpc.monStatus = s.cpc.monStatus := by
  unfold domReset
  extract_lets x q s1 s2 s3
  split
  · have h1 : s1.cpc.monStatus = s.cpc.monStatus := by
      show (if x.state = .quiescing ∧ cmdOn s d then { s with cpc := { s.cpc with cmdWaits := true } } else s).cpc.monStatus = _
      split <;> rfl
    have h3 : s3.cpc.monStatus = s.cpc.monStatus :=
      (congrArg Cpc.monStatus (controllerStays_unitReset s2 d).cpc).trans h1
    split
    · exact (monStatus_forceLock ..).trans h3
    · exact h3
  · rfl

theorem monStatus_leafReset (s : State) (l : Nat) : (leafReset s l).cpc.monStatus = s.cpc.monStatus := by
  have hfold : ∀ (ds : List Nat) (s : State), (ds.foldl domReset s).cpc.monStatus = s.cpc.monStatus := fun ds => by
    induction ds with
    | nil => exact fun s => rfl
    | cons d ds ih => exact fun s => (ih (domReset s d)).trans (monStatus_domReset s d)
  exact hfold ..

end Sys2Proof.Proofs

end

section
/-! PROOF. PLLs and clock monitors (R386–R393). -/

namespace Sys2Proof.Proofs

open Sys2Proof Sys2Proof.Machine

/-! ## PLLs -/

theorem pll_setPll (s : State) (p q : Nat) (x : Pll) : (s.setPll p x).pll q = if q = p then x else s.pll q := by
  unfold State.pll State.setPll
  rw [Tab.get_put]

theorem pll_setPll_self (s : State) (p : Nat) (x : Pll) : (s.setPll p x).pll p = x := by rw [pll_setPll, if_pos rfl]

/-- PLL `p` is as `x` says, and nothing else of the PLLs and nothing of the tiles and the scratchpads differs. -/
structure PllSet (s u : State) (p : Nat) (x : Pll) : Prop where
  self : u.pll p = x
  others : ∀ q, q ≠ p → u.pll q = s.pll q
  tiles : u.tiles = s.tiles
  spad : u.spad = s.spad

theorem pllSet_setPll (s : State) (p : Nat) (x : Pll) : PllSet s (s.setPll p x) p x :=
  ⟨pll_setPll_self .., fun q hq => by rw [pll_setPll, if_neg hq], rfl, rfl⟩

theorem PllSet.trans {s u v : State} {p : Nat} {x y : Pll} (h : PllSet s u p x) (k : PllSet u v p y) : PllSet s v p y :=
  ⟨k.self, fun q hq => (k.others q hq).trans (h.others q hq), k.tiles.trans h.tiles, k.spad.trans h.spad⟩

/-- A state that has the same controller, tiles and scratchpads has the same PLLs. -/
theorem pllSet_congr {s u v : State} {p : Nat} {x : Pll} (h : PllSet s u p x) (hcpc : v.cpc = u.cpc) (htiles : v.tiles = u.tiles)
    (hspad : v.spad = u.spad) : PllSet s v p x := by
  have hpll : ∀ q, v.pll q = u.pll q := fun q => by rw [State.pll, State.pll, hcpc]
  exact ⟨(hpll p).trans h.self, fun q hq => (hpll q).trans (h.others q hq), htiles.trans h.tiles, hspad.trans h.spad⟩

theorem pllSet_klog {s u : State} {p : Nat} {x : Pll} (h : PllSet s u p x) (c : FClass) (m : Mech) (lu : LogUnit) (i : LogInfo) :
    PllSet s (klog u c m lu i) p x :=
  pllSet_congr h (klog_cpc ..) (klog_tiles ..) (klog_spad ..)

/-- A PLL starts to lock; PLL 1 stops the timebase (R388, R389). -/
theorem startLock_set (s : State) (p : Nat) :
    PllSet s (startLock s p) p { s.pll p with busy := true, lock := false, sel := decide (p = 1) }
      ∧ (startLock s p).pg = { s.pg with running := s.pg.running && decide (p ≠ 1) } := by
  have hset := pllSet_setPll s p { s.pll p with busy := true, lock := false, sel := decide (p = 1) }
  unfold startLock
  by_cases hp : p = 1
  · rw [if_pos hp]
    refine ⟨pllSet_congr hset rfl rfl rfl, ?_⟩
    simp [hp, State.setPll]
  · rw [if_neg hp]
    refine ⟨hset, ?_⟩
    simp [hp, State.setPll]

section
variable {s : State} {p : Nat} {v : Word}

/-- What GO leaves of a PLL's flags: LOCKFAIL is cleared by a 1. -/
def goFlags (x : Pll) (v : Word) : Pll := { x with lockfail := clrBit x.lockfail v 28 }

/-- A PLL takes its settings into use. -/
def inUseOf (x : Pll) : Pll := { x with inUse := (x.cfg, x.frac) }

theorem go_exec (h : Reaches s (0x10000C + 32 * p) (.pllCtrl p)) (hp : p < 2 + GenConfig.leaves s.gen) :
    exec (.go p v) s = .next (wrote (pllGo (s.setPll p (goFlags (s.pll p) v)) p) false) := by
  have hw : regWrite s (0x10000C + 32 * p) (.pllCtrl p) (withBit v 31) 15 false = (pllCtrlWrite s p (withBit v 31), false) := rfl
  have h31 : bit (withBit v 31) 31 = true := by simp [withBit, bit_putBit]
  have h28 : bit (withBit v 31) 28 = bit v 28 := by simp [withBit, bit_putBit]
  have hctrl : pllCtrlWrite s p (withBit v 31) = pllGo (s.setPll p (goFlags (s.pll p) v)) p := by
    unfold pllCtrlWrite
    rw [if_pos h31, clrBit, h28]
    rfl
  refine congrArg Host.Outcome.next ((if_pos hp).trans ?_)
  rw [hostWrite_reached h nofun hw, hctrl]

section
variable {y : Pll}

theorem pllGo_locks (hgo : ¬ (p = 1 ∧ s.pg.valid = true)) (hon : pllOff s p = false) (hmux : muxStuck s p = false) :
    pllGo (s.setPll p y) p = startLock ((s.setPll p y).setPll p (inUseOf y)) p := by
  have hgo' : ¬ (p = 1 ∧ (s.setPll p y).pg.valid = true) := hgo
  have hon' : pllOff ((s.setPll p y).setPll p (inUseOf y)) p = false := hon
  have hmux' : muxStuck ((s.setPll p y).setPll p (inUseOf y)) p = false := hmux
  unfold pllGo
  rw [if_neg hgo', pll_setPll_self]
  change (if pllOff ((s.setPll p y).setPll p (inUseOf y)) p = true then _ else _) = _
  rw [if_neg (by rw [hon']; exact Bool.false_ne_true)]
  exact if_neg (fun h => Bool.false_ne_true (hmux'.symm.trans h))

theorem pllGo_stuck (hgo : ¬ (p = 1 ∧ s.pg.valid = true)) (hon : pllOff s p = false) (hmux : muxStuck s p = true) :
    pllGo (s.setPll p y) p = ((s.setPll p y).setPll p (inUseOf y)).setPll p { inUseOf y with busy := true } := by
  have hgo' : ¬ (p = 1 ∧ (s.setPll p y).pg.valid = true) := hgo
  have hon' : pllOff ((s.setPll p y).setPll p (inUseOf y)) p = false := hon
  unfold pllGo
  rw [if_neg hgo', pll_setPll_self]
  change (if pllOff ((s.setPll p y).setPll p (inUseOf y)) p = true then _ else _) = _
  rw [if_neg (by rw [hon']; exact Bool.false_ne_true)]
  refine (if_pos hmux).trans ?_
  change ((s.setPll p y).setPll p (inUseOf y)).setPll p { ((s.setPll p y).setPll p (inUseOf y)).pll p with busy := true } = _
  rw [pll_setPll_self]

theorem pllGo_off (hp : p ≠ 1) (hoff : pllOff s p = true) : pllGo (s.setPll p y) p = (s.setPll p y).setPll p (inUseOf y) := by
  unfold pllGo
  rw [if_neg (fun ⟨h, _⟩ => hp h), pll_setPll_self]
  exact if_pos hoff

end

end

theorem pllsLock_go {s : State} {p : Nat} (v : Word) (h : Reaches s (0x10000C + 32 * p) (.pllCtrl p))
    (hp : p < 2 + GenConfig.leaves s.gen) :
    (¬ (p = 1 ∧ s.pg.valid = true) → pllOff s p = false → muxStuck s p = false → ∃ u, exec (.go p v) s = .next u
        ∧ PllSet s u p { inUseOf (goFlags (s.pll p) v) with busy := true, lock := false, sel := decide (p = 1) }
        ∧ u.pg = { s.pg with running := s.pg.running && decide (p ≠ 1) })
      ∧ (muxStuck s p = true → pllOff s p = false → ∃ u, exec (.go p v) s = .next u
        ∧ u.pll p = { inUseOf (goFlags (s.pll p) v) with busy := true } ∧ u.pg = s.pg)
      ∧ (p = 1 → s.pg.valid = true → ∃ u, exec (.go p v) s = .next u ∧ u.pll p = goFlags (s.pll p) v ∧ u.pg = s.pg)
      ∧ (p ≠ 1 → pllOff s p = true → ∃ u, exec (.go p v) s = .next u ∧ u.pll p = inUseOf (goFlags (s.pll p) v) ∧ u.pg = s.pg) := by
  have hexec := go_exec (v := v) h hp
  refine ⟨fun hgo hon hmux => ?_, fun hmux hon => ?_, fun h1 hvalid => ?_, fun h1 hoff => ?_⟩
  · rw [pllGo_locks hgo hon hmux] at hexec
    obtain ⟨hset, hpg⟩ := startLock_set ((s.setPll p (goFlags (s.pll p) v)).setPll p (inUseOf (goFlags (s.pll p) v))) p
    rw [pll_setPll_self] at hset
    exact ⟨_, hexec, pllSet_congr ((pllSet_setPll s p _).trans ((pllSet_setPll ..).trans hset)) rfl rfl rfl, hpg⟩
  · have hne : ¬ (p = 1 ∧ s.pg.valid = true) := by
      rintro ⟨rfl, -⟩
      simp [muxStuck] at hmux
    rw [pllGo_stuck hne hon hmux] at hexec
    exact ⟨_, hexec, (pllSet_setPll ..).self, rfl⟩
  · have hstop : pllGo (s.setPll p (goFlags (s.pll p) v)) p = s.setPll p (goFlags (s.pll p) v) := if_pos ⟨h1, hvalid⟩
    rw [hstop] at hexec
    exact ⟨_, hexec, (pllSet_setPll ..).self, rfl⟩
  · rw [pllGo_off h1 hoff] at hexec
    exact ⟨_, hexec, (pllSet_setPll ..).self, rfl⟩

/-- The tb clock runs with PLL 1, unless its monitor has found it stopped. -/
def clockStarted (s : State) (p : Nat) : State :=
  if p = 1 ∧ !s.cpc.stopped.contains 2 then { s with pg := { s.pg with running := true } } else s

/-- A leaf PLL's domain goes on to its release. -/
def leafReleased (s : State) (p : Nat) : State :=
  match pllDom s p with
  | some d => if (s.dom d).phase = .lock then s.setDom d { s.dom d with phase := .release } else s
  | none => s

theorem lockStep_locks {s : State} {p : Nat} (hbusy : (s.pll p).busy = true) (hmux : muxStuck s p = false) : lockStep s p =
    bootLocked (leafReleased (clockStarted (s.setPll p { s.pll p with busy := false, lock := true, sel := true }) p) p) := by
  unfold lockStep
  dsimp only
  rw [if_pos (by rw [hbusy, hmux]; rfl)]
  rfl

/-- The PLLs, the time, the tiles and the scratchpads stay. -/
structure ClocksStay (s u : State) : Prop where
  plls : u.cpc.plls = s.cpc.plls
  time : u.pg.time = s.pg.time
  tiles : u.tiles = s.tiles
  spad : u.spad = s.spad

theorem clocksStay_clockStarted (s : State) (p : Nat) : ClocksStay s (clockStarted s p) := by
  unfold clockStarted
  split <;> exact ⟨rfl, rfl, rfl, rfl⟩

theorem clocksStay_leafReleased (s : State) (p : Nat) : ClocksStay s (leafReleased s p) := by
  unfold leafReleased
  split
  · split <;> exact ⟨rfl, rfl, rfl, rfl⟩
  · exact ⟨rfl, rfl, rfl, rfl⟩

theorem clocksStay_bootLocked (s : State) : ClocksStay s (bootLocked s) := by
  unfold bootLocked
  split <;> exact ⟨rfl, rfl, rfl, rfl⟩

theorem pllSet_of_clocksStay {s u v : State} {p : Nat} {x : Pll} (h : PllSet s u p x) (k : ClocksStay u v) : PllSet s v p x := by
  have hpll : ∀ q, v.pll q = u.pll q := fun q => by rw [State.pll, State.pll, k.plls]
  exact ⟨(hpll p).trans h.self, fun q hq => (hpll q).trans (h.others q hq), k.tiles.trans h.tiles, k.spad.trans h.spad⟩

theorem pllsLock : Claims.PllsLock := by
  unfold Claims.PllsLock
  intro s p x
  refine ⟨fun v h hp => ?_, fun hbusy hcp hmux => ?_, fun hbusy hmux => ?_, fun hidle => ?_⟩
  · obtain ⟨hlocks, hstuck, hvalid, hoff⟩ := pllsLock_go v h hp
    refine ⟨fun hgo hon hmux => ?_, hstuck, hvalid, hoff⟩
    obtain ⟨u, hexec, hset, hpg⟩ := hlocks hgo hon hmux
    exact ⟨u, hexec, hset.self, hset.others, hpg, hset.tiles, hset.spad⟩
  · have hexec : exec (.pllLock p) s = .next (lockStep s p) := congrArg Host.Outcome.next (portOn_idle hcp _)
    rw [lockStep_locks hbusy hmux] at hexec
    have hset := pllSet_setPll s p { x with busy := false, lock := true, sel := true }
    have hclock := clocksStay_clockStarted (s.setPll p { x with busy := false, lock := true, sel := true }) p
    have hset := pllSet_of_clocksStay (pllSet_of_clocksStay (pllSet_of_clocksStay hset hclock) (clocksStay_leafReleased _ p))
      (clocksStay_bootLocked _)
    exact ⟨_, hexec, hset.self, hset.others,
      (clocksStay_bootLocked _).time.trans ((clocksStay_leafReleased _ p).time.trans hclock.time), hset.tiles, hset.spad⟩
  · have hstep : lockfailStep s p = klog (s.setPll p { x with busy := false, lockfail := true, occ := satInc x.occ }) .reported
        .pllLockfail (luClock p) {} := if_pos (by rw [hmux]; exact Bool.and_eq_true_iff.mpr ⟨hbusy, rfl⟩)
    have hset := pllSet_klog (pllSet_setPll s p { x with busy := false, lockfail := true, occ := satInc x.occ }) .reported
      .pllLockfail (luClock p) {}
    exact ⟨_, congrArg Host.Outcome.next hstep, hset.self, hset.others, klog_pg .., hset.tiles, hset.spad⟩
  · have hnot : ¬ (x.busy && !muxStuck s p) = true := by
      rw [Bool.and_eq_true_iff]
      rintro ⟨hb, hm⟩
      obtain hidle | hidle := hidle
      · exact Bool.false_ne_true (hidle.symm.trans hb)
      · rw [hidle] at hm
        exact Bool.false_ne_true hm
    refine ⟨fun hcp => congrArg Host.Outcome.next ((portOn_idle hcp _).trans (if_neg hnot)), congrArg Host.Outcome.next (if_neg hnot)⟩

/-! ## Clock monitors (R392, R393) -/

theorem monStatus_monReport (s : State) (k n : Nat) (stop : Bool) :
    (monReport s k n stop).cpc.monStatus = putBit s.cpc.monStatus (if stop then k else 16 + k) true := by
  unfold monReport
  extract_lets b q s1 s2
  have h2 : s2.cpc = s1.cpc := by
    show (if n = 0 ∧ k = 5 then s1 else klog s1 .reported (if stop then .clkStop else .clkFreq) (luClock k) {}).cpc = _
    split
    · rfl
    · exact klog_cpc ..
  split
  · exact congrArg Cpc.monStatus h2
  · exact (congrArg Cpc.monStatus (raise_cpc ..)).trans (congrArg Cpc.monStatus h2)

theorem monStatus_monAction (s : State) (k : Nat) : (monAction s k).cpc.monStatus = s.cpc.monStatus := by
  unfold monAction
  split
  · split
    · exact monStatus_leafReset ..
    · rfl
  · split <;> rfl

/-- The windows of zero in a row that a window with a count leaves. -/
def zerosAfter (s : State) (k count : Nat) : List Nat :=
  if count = 0 then s.cpc.monZero.filter (fun j => decide (j ≠ k)) ++ [k] else s.cpc.monZero.filter (fun j => decide (j ≠ k))

/-- The state after a window has been counted. -/
def windowed (s : State) (k count : Nat) : State := { s with cpc := { s.cpc with monZero := zerosAfter s k count } }

/-- The report of a count outside the limits. -/
def freqReported (s : State) (k count : Nat) : State :=
  if count < fld (monRange s k) 7 0 ∨ fld (monRange s k) 15 8 < count then monReport (windowed s k count) k count false
  else windowed s k count

section
variable {s : State} {k : Nat} (hon : bit (monRange s k) 31 = true) (hrun : monSuspended s k = false)
include hon hrun

theorem monitorStep_counts (count : Nat) : monitorStep s k count =
    if decide (count = 0) && s.cpc.monZero.contains k then monAction (monReport (freqReported s k count) k count true) k
    else freqReported s k count := by
  unfold monitorStep
  dsimp only
  rw [if_neg (by rw [hon, hrun]; exact Bool.false_ne_true)]
  rfl

end

theorem bit_putBit_true {w : Word} {i j : Nat} (hi : i < 32) (h : bit w j = true ∨ j = i) : bit (putBit w i true) j = true := by
  rw [bit_putBit w hi]
  split
  · rfl
  next hne => exact h.resolve_right hne

theorem monitorsReport : Claims.MonitorsReport := by
  unfold Claims.MonitorsReport
  intro s k count hk w
  refine ⟨fun hon hrun => ?_, fun hoff => ?_⟩
  · have hexec : exec (.monitorWindow k count) s = .next _ := congrArg Host.Outcome.next (monitorStep_counts hon hrun count)
    refine ⟨fun hlo hhi hne => ?_, fun hout => ?_, fun hzero htwice => ?_⟩
    · have hin : ¬ (count < fld (monRange s k) 7 0 ∨ fld (monRange s k) 15 8 < count) := by
        rintro (h | h)
        · exact absurd h (Nat.not_lt.mpr hlo)
        · exact absurd h (Nat.not_lt.mpr hhi)
      rw [if_neg (by simp [hne]), freqReported, if_neg hin] at hexec
      refine ⟨_, hexec, rfl, ?_⟩
      change k ∉ zerosAfter s k count
      simp [zerosAfter, hne]
    · have hreport : freqReported s k count = monReport (windowed s k count) k count false := if_pos hout
      have hfreq : bit (freqReported s k count).cpc.monStatus (16 + k) = true := by
        rw [hreport, monStatus_monReport]
        exact bit_putBit_true (by simp only [Bool.false_eq_true, if_false]; omega) (.inr rfl)
      refine ⟨_, hexec, ?_⟩
      split
      · rw [monStatus_monAction, monStatus_monReport]
        exact bit_putBit_true (by rw [if_pos rfl]; omega) (.inl hfreq)
      · exact hfreq
    · have hboth : (decide (count = 0) && s.cpc.monZero.contains k) = true := by
        simp [hzero, htwice]
      rw [if_pos hboth] at hexec
      refine ⟨_, hexec, ?_, fun h2 => ?_⟩
      · rw [monStatus_monAction, monStatus_monReport]
        exact bit_putBit_true (by rw [if_pos rfl]; omega) (.inr rfl)
      · subst h2
        rfl
  · have hparted : (!bit (monRange s k) 31 || monSuspended s k) = true := by
      rw [Bool.or_eq_true]
      exact hoff.imp (fun h => by rw [show bit (monRange s k) 31 = false from h]; rfl) id
    exact congrArg Host.Outcome.next (if_pos hparted)

/-- Settles O58: GO by what its PLL is in, the end of a lock, and each window of a monitor by its count. -/
theorem clocksRun : Obligations.ClocksRun := by
  unfold Obligations.ClocksRun
  exact ⟨pllsLock, monitorsReport⟩

end Sys2Proof.Proofs

end

section
/-! PROOF. The power commands and the steps of a domain (R395–R407). -/

namespace Sys2Proof.Proofs

open Sys2Proof Sys2Proof.Machine

/-! ## Domains -/

theorem dom_congr {s u : State} (h : u.cpc = s.cpc) (d : Nat) : u.dom d = s.dom d := by rw [State.dom, State.dom, h]

theorem dom_of_doms {s u : State} (h : u.cpc.doms = s.cpc.doms) (d : Nat) : u.dom d = s.dom d := by rw [State.dom, State.dom, h]

/-- Domain `d` is as `x` says, and no other domain differs. -/
structure DomSet (s u : State) (d : Nat) (x : Dom) : Prop where
  self : u.dom d = x
  others : ∀ e, e ≠ d → u.dom e = s.dom e

theorem domSet_setDom (s : State) (d : Nat) (x : Dom) : DomSet s (s.setDom d x) d x :=
  ⟨(dom_setDom ..).trans (if_pos rfl), fun _ he => (dom_setDom ..).trans (if_neg he)⟩

theorem DomSet.trans {s u v : State} {d : Nat} {x y : Dom} (h : DomSet s u d x) (k : DomSet u v d y) : DomSet s v d y :=
  ⟨k.self, fun e he => (k.others e he).trans (h.others e he)⟩

/-- A step that changes no domain. -/
theorem DomSet.next {s u v : State} {d : Nat} {x : Dom} (h : DomSet s u d x) (k : v.cpc.doms = u.cpc.doms) : DomSet s v d x :=
  ⟨(dom_of_doms k d).trans h.self, fun _ he => (dom_of_doms k _).trans (h.others _ he)⟩

/-- A change of the domain in a state that has the domains of another one. -/
theorem DomSet.of {s u v : State} {d : Nat} {x : Dom} (h : DomSet u v d x) (k : u.cpc.doms = s.cpc.doms) : DomSet s v d x :=
  ⟨h.self, fun _ he => (h.others _ he).trans (dom_of_doms k _)⟩

/-! ## Commands (R397, R398) -/

/-- A command on a domain, as the controller's registers hold it. -/
def cmdNamed (s : State) (op : Nat) (d : BitVec 8) : State :=
  { s with cpc := { s.cpc with cmdOp := BitVec.ofNat 3 op, cmdDom := d } }

/-- A command on a domain that has been taken. -/
def cmdTaken (s : State) (op : Nat) (d : BitVec 8) : State :=
  { s with cpc := { s.cpc with cmdOp := BitVec.ofNat 3 op, cmdDom := d, cmdBusy := true, cmdWaits := false } }

theorem pwrWord_fields {op : Nat} (hop : op < 4) (d : BitVec 8) :
    bit (pwrWord op d) 31 = true ∧ fld (pwrWord op d) 26 24 = op ∧ fld (pwrWord op d) 7 0 = d.toNat := by
  refine ⟨?_, ?_, ?_⟩
  · have hconst : bit (0x80000000 : Word) 31 = true := by decide
    rw [pwrWord, bit_or, bit_or, hconst]
    rfl
  · have hconst : fld (0x80000000 : Word) 26 24 = 0 := by decide
    rw [pwrWord, fld_or, fld_or, hconst, fld_atN_self (lt_trans hop (by decide)) (by decide),
      fld_atN_below 26 (lt_trans d.isLt (by norm_num)) (by decide)]
    simp
  · have hconst : fld (0x80000000 : Word) 7 0 = 0 := by decide
    rw [pwrWord, fld_or, fld_or, hconst, fld_atN_above op 0 (by decide), fld_atN_self d.isLt (by decide)]
    simp

section
variable {s : State} {d : BitVec 8} {op : Nat}

theorem pwrWrite_idle (hop : op < 4) (hd : d.toNat < GenConfig.domains s.gen) (hidle : s.cpc.cmdBusy = false) :
    pwrWrite s (pwrWord op d) =
      if op = 2 ∧ (spadOf s d.toNat).isNone = true then endCmd (cmdNamed s op d) pwInvalid
      else if (op = 1 ∨ op = 3) ∧ d.toNat = GenConfig.domFixed s.gen 6 ∧ anyRing s = true then endCmd (cmdNamed s op d) pwInvalid
      else if op = 3 ∧ (!bit s.always.rstauth 0) = true then endCmd (cmdNamed s op d) pwAuth
      else takeCmd { cmdNamed s op d with cpc := { (cmdNamed s op d).cpc with cmdBusy := true } } := by
  obtain ⟨h31, hfop, hfd⟩ := pwrWord_fields hop d
  have hnamed : BitVec.ofNat 8 d.toNat = d := by simp
  unfold pwrWrite
  rw [if_neg (by rw [hidle]; exact Bool.false_ne_true)]
  dsimp only
  rw [hfop, hfd, h31, hnamed]
  have h1 : ¬ GenConfig.domains s.gen ≤ d.toNat := Nat.not_le.mpr hd
  have h2 : ¬ 4 ≤ op := Nat.not_le.mpr hop
  simp only [Bool.not_true, Bool.false_eq_true, if_false, h1, h2, false_or]
  rfl

/-- A power command on its way through `CP_PWR_CMD`. -/
theorem cmd_exec {c : Instr} (h : Reaches s 0x100800 .pwrCmd) (hc : exec c s = .next (hostWrite s 0x100800 (pwrWord op d) 15)) :
    exec c s = .next (wrote (pwrWrite s (pwrWord op d)) false) := by
  have hw : regWrite s 0x100800 .pwrCmd (pwrWord op d) 15 false = (pwrWrite s (pwrWord op d), false) := rfl
  rw [hc, hostWrite_reached h nofun hw]

/-- A command that its row of the table turns away or starts. -/
theorem takeCmd_named (s : State) (op : Nat) (d : BitVec 8) :
    takeCmd { cmdNamed s op d with cpc := { (cmdNamed s op d).cpc with cmdBusy := true } } = takeCmd (cmdTaken s op d) := rfl

section
variable (hop : op < 4)
include hop

theorem toNat_cmdOp : (cmdTaken s op d).cpc.cmdOp.toNat = op := by
  have hlt : op < 2 ^ 3 := lt_trans hop (by decide)
  exact (BitVec.toNat_ofNat ..).trans (Nat.mod_eq_of_lt hlt)

theorem takeCmd_off (hstate : (s.dom d.toNat).state = .off) : takeCmd (cmdTaken s op d) =
    if op = 0 then guarded (cmdTaken s op d) 0 d.toNat (fun s => startUp s d.toNat)
    else if op = 1 then endCmd (cmdTaken s op d) pwOk else endCmd (cmdTaken s op d) pwInvalid := by
  have hst : ((cmdTaken s op d).dom (cmdTaken s op d).cpc.cmdDom.toNat).state = .off := hstate
  unfold takeCmd
  dsimp only
  rw [toNat_cmdOp hop]
  split
  next h => exact nomatch hst.symm.trans h
  next h => rfl
  all_goals
    next h => exact nomatch hst.symm.trans h

theorem takeCmd_on (hstate : (s.dom d.toNat).state = .on) : takeCmd (cmdTaken s op d) =
    if op = 0 then endCmd (cmdTaken s op d) pwOk
    else if op = 1 then guarded (cmdTaken s op d) 1 d.toNat (fun s => startDown s d.toNat false)
    else if op = 2 then guarded (cmdTaken s op d) 2 d.toNat (fun s => startDown s d.toNat true)
    else domReset (cmdTaken s op d) d.toNat := by
  have hst : ((cmdTaken s op d).dom (cmdTaken s op d).cpc.cmdDom.toNat).state = .on := hstate
  unfold takeCmd
  dsimp only
  rw [toNat_cmdOp hop]
  split
  next h => rfl
  all_goals
    next h => exact nomatch hst.symm.trans h

end

end

section
variable {s : State} {op d : Nat} {k : State → State}

theorem guarded_starts (hdeps : breaksDeps s op d = false) (hparked : (op = 1 ∨ op = 2) → hasParked s d = false) :
    guarded s op d k = k s := by
  have hnot : ¬ ((op = 1 ∨ op = 2) ∧ hasParked s d = true) := fun ⟨ho, hp⟩ => Bool.false_ne_true ((hparked ho).symm.trans hp)
  rw [guarded, if_neg (by rw [hdeps]; exact Bool.false_ne_true), if_neg hnot]

theorem guarded_depends (hdeps : breaksDeps s op d = true) : guarded s op d k = endCmd s pwDepend := if_pos hdeps

end

theorem not_all_of_exists {xs : List Nat} {f : Nat → Bool} (h : ∃ e ∈ xs, f e = false) : (!xs.all f) = true := by
  obtain ⟨e, he, hf⟩ := h
  rw [Bool.not_eq_true', List.all_eq_false]
  exact ⟨e, he, by rw [hf]; exact Bool.false_ne_true⟩

theorem all_of_forall {xs : List Nat} {f : Nat → Bool} (h : ∀ e ∈ xs, f e = true) : (!xs.all f) = false := by
  rw [Bool.not_eq_false', List.all_eq_true]
  exact h

/-! ## The start of a change -/

theorem controllerStays_quiesceCore (s : State) (t : Nat) : ControllerStays s (quiesceCore s t) := by
  unfold quiesceCore
  extract_lets x ls s1
  exact (controllerStays_setTile ..).trans (controllerStays_completeWith ..)

/-- The quiesce of a domain begins (R399). -/
def quiescingDom (x : Dom) (ret : Bool) : Dom := { x with state := .quiescing, phase := .drain, toRet := ret, thenUp := false }

theorem cpc_startDown (s : State) (d : Nat) (ret : Bool) :
    (startDown s d ret).cpc = (s.setDom d (quiescingDom (s.dom d) ret)).cpc := by
  unfold startDown
  dsimp only
  split
  · exact (controllerStays_quiesceCore ..).cpc
  · rfl

/-- The power of a domain is requested, or the fall of `pw_ack` is awaited first (R403). -/
def poweringDom (x : Dom) : Dom :=
  if x.ack then { x with state := .powering, phase := .ackLow, thenUp := true }
  else { x with state := .powering, req := true, phase := .ackHigh, thenUp := false }

theorem startUp_eq (s : State) (d : Nat) : startUp s d = s.setDom d (poweringDom (s.dom d)) := by
  unfold startUp poweringDom
  dsimp only
  split <;> rfl

/-- The domains and the command in progress stay. -/
structure CommandStays (s u : State) : Prop where
  doms : u.cpc.doms = s.cpc.doms
  cmdBusy : u.cpc.cmdBusy = s.cpc.cmdBusy
  cmdDom : u.cpc.cmdDom = s.cpc.cmdDom

theorem CommandStays.trans {s u v : State} (h : CommandStays s u) (k : CommandStays u v) : CommandStays s v :=
  ⟨k.doms.trans h.doms, k.cmdBusy.trans h.cmdBusy, k.cmdDom.trans h.cmdDom⟩

theorem commandStays_of_cpc {s u : State} (h : u.cpc = s.cpc) : CommandStays s u := by
  refine ⟨?_, ?_, ?_⟩ <;> rw [h]

theorem commandStays_forceLock (s : State) (p : Nat) : CommandStays s (forceLock s p) := by
  unfold forceLock startLock
  dsimp only
  split <;> exact ⟨rfl, rfl, rfl⟩

/-- A domain that is held in reset (R405). -/
def heldDom (x : Dom) : Dom := { x with state := .reset, phase := .inReset, resets := satInc x.resets }

/-- A reset of a domain that is ON holds it in reset; the command goes on. -/
theorem domReset_on {s : State} {d : Nat} (h : (s.dom d).state = .on) : DomSet s (domReset s d) d (heldDom (s.dom d))
    ∧ (domReset s d).cpc.cmdBusy = s.cpc.cmdBusy ∧ (domReset s d).cpc.cmdDom = s.cpc.cmdDom := by
  have hnot : ¬ ((s.dom d).state = .quiescing ∧ cmdOn s d = true) := fun ⟨hq, _⟩ => nomatch h.symm.trans hq
  have hset := domSet_setDom s d (heldDom (s.dom d))
  have hunit := commandStays_of_cpc (controllerStays_unitReset (s.setDom d (heldDom (s.dom d))) d).cpc
  have heq : domReset s d = unitReset (s.setDom d (heldDom (s.dom d))) d
      ∨ ∃ l, domReset s d = forceLock (unitReset (s.setDom d (heldDom (s.dom d))) d) (2 + l) := by
    unfold domReset
    dsimp only
    rw [if_pos (.inl h), if_neg hnot]
    split
    next l _ => exact .inr ⟨l, rfl⟩
    next => exact .inl rfl
  obtain heq | ⟨l, heq⟩ := heq
  · rw [heq]
    exact ⟨hset.next hunit.doms, hunit.cmdBusy.trans rfl, hunit.cmdDom.trans rfl⟩
  · have hlock := hunit.trans (commandStays_forceLock (unitReset (s.setDom d (heldDom (s.dom d))) d) (2 + l))
    rw [heq]
    exact ⟨hset.next hlock.doms, hlock.cmdBusy.trans rfl, hlock.cmdDom.trans rfl⟩

theorem powerCommandsTaken : Claims.PowerCommandsTaken := by
  unfold Claims.PowerCommandsTaken
  intro s d h hd n x gate0 refused begins
  have hexec : ∀ {c op}, exec c s = .next (hostWrite s 0x100800 (pwrWord op d) 15) →
      exec c s = .next (wrote (pwrWrite s (pwrWord op d)) false) := cmd_exec h
  refine ⟨fun hidle => ?_, fun hbusy c hc => ?_⟩
  · have hup : exec (.up d) s = .next (wrote (takeCmd (cmdTaken s 0 d)) false) := by
      rw [hexec (op := 0) rfl, pwrWrite_idle (by decide) hd hidle, if_neg (by simp), if_neg (by simp), if_neg (by simp), takeCmd_named]
    have hdown : n ≠ gate0 → exec (.down d) s = .next (wrote (takeCmd (cmdTaken s 1 d)) false) := fun hne => by
      rw [hexec (op := 1) rfl, pwrWrite_idle (by decide) hd hidle, if_neg (by simp), if_neg (fun ⟨_, he, _⟩ => hne he),
        if_neg (by simp), takeCmd_named]
    have hretain : ∀ t, spadOf s n = some t → exec (.retain d) s = .next (wrote (takeCmd (cmdTaken s 2 d)) false) := fun t ht => by
      rw [hexec (op := 2) rfl, pwrWrite_idle (by decide) hd hidle, if_neg (by rw [show spadOf s d.toNat = some t from ht]; simp),
        if_neg (by simp), if_neg (by simp), takeCmd_named]
    have hrefused : ∀ {c : Instr} {s0 : State} {r : Nat}, exec c s = .next (wrote (endCmd s0 r) false) → s0.cpc.doms = s.cpc.doms →
        s0.tiles = s.tiles → s0.spad = s.spad → refused c (BitVec.ofNat 3 r) := fun hc hdoms htiles hspad =>
      ⟨_, hc, rfl, rfl, dom_of_doms hdoms, htiles, hspad⟩
    have hbegins : ∀ {c : Instr} {u : State} {op : Nat} {y : Dom}, exec c s = .next (wrote u false) → DomSet (cmdTaken s op d) u n y →
        u.cpc.cmdBusy = true → u.cpc.cmdDom = d → begins c y := fun hc hset hb hcd =>
      ⟨_, hc, hset.self, hset.others, hb, hcd⟩
    clear_value refused begins
    refine ⟨fun hoff hneeds hack => ?_, fun hoff hneeds hack => ?_, fun hoff hneeds => ?_, fun hon hne hdeps hparked => ?_,
      fun hon hne hdeps => ?_, fun t hon ht hdeps hparked => ?_, fun ht => ?_, fun hon hne hauth => ?_, fun hon hne hauth => ?_⟩
    · have hok : breaksDeps (cmdTaken s 0 d) 0 d.toNat = false := all_of_forall hneeds
      rw [takeCmd_off (by decide) hoff, if_pos rfl, guarded_starts hok (fun h0 => by simp at h0), startUp_eq] at hup
      have hpow : poweringDom x = { x with state := .powering, phase := .ackLow, thenUp := true } := if_pos hack
      rw [← hpow]
      exact hbegins hup (domSet_setDom ..) rfl rfl
    · have hok : breaksDeps (cmdTaken s 0 d) 0 d.toNat = false := all_of_forall hneeds
      rw [takeCmd_off (by decide) hoff, if_pos rfl, guarded_starts hok (fun h0 => by simp at h0), startUp_eq] at hup
      have hpow : poweringDom x = { x with state := .powering, req := true, phase := .ackHigh, thenUp := false } :=
        if_neg (by rw [hack]; exact Bool.false_ne_true)
      rw [← hpow]
      exact hbegins hup (domSet_setDom ..) rfl rfl
    · have hbad : breaksDeps (cmdTaken s 0 d) 0 d.toNat = true := not_all_of_exists hneeds
      rw [takeCmd_off (by decide) hoff, if_pos rfl, guarded_depends hbad] at hup
      exact hrefused hup rfl rfl rfl
    · have hdown := hdown hne
      have hok : breaksDeps (cmdTaken s 1 d) 1 d.toNat = false := all_of_forall hdeps
      rw [takeCmd_on (by decide) hon, if_neg (by decide), if_pos rfl, guarded_starts hok (fun _ => hparked)] at hdown
      have hcpc := cpc_startDown (cmdTaken s 1 d) n false
      exact hbegins hdown ((domSet_setDom ..).next (congrArg Cpc.doms hcpc)) (congrArg Cpc.cmdBusy hcpc) (congrArg Cpc.cmdDom hcpc)
    · have hdown := hdown hne
      have hbad : breaksDeps (cmdTaken s 1 d) 1 d.toNat = true := not_all_of_exists hdeps
      rw [takeCmd_on (by decide) hon, if_neg (by decide), if_pos rfl, guarded_depends hbad] at hdown
      exact hrefused hdown rfl rfl rfl
    · have hretain := hretain t ht
      have hoffs : breaksDeps (cmdTaken s 2 d) 2 d.toNat = false := all_of_forall (fun e he => decide_eq_true (hdeps e he))
      rw [takeCmd_on (by decide) hon, if_neg (by decide), if_neg (by decide), if_pos rfl, guarded_starts hoffs (fun _ => hparked)] at hretain
      have hcpc := cpc_startDown (cmdTaken s 2 d) n true
      exact hbegins hretain ((domSet_setDom ..).next (congrArg Cpc.doms hcpc)) (congrArg Cpc.cmdBusy hcpc) (congrArg Cpc.cmdDom hcpc)
    · have hinvalid : exec (.retain d) s = .next (wrote (endCmd (cmdNamed s 2 d) pwInvalid) false) := by
        rw [hexec (op := 2) rfl, pwrWrite_idle (by decide) hd hidle, if_pos ⟨rfl, by rw [show spadOf s d.toNat = none from ht]; rfl⟩]
      exact hrefused hinvalid rfl rfl rfl
    · have hreset : exec (.reset d) s = .next (wrote (takeCmd (cmdTaken s 3 d)) false) := by
        rw [hexec (op := 3) rfl, pwrWrite_idle (by decide) hd hidle, if_neg (by simp), if_neg (fun ⟨_, he, _⟩ => hne he),
          if_neg (by rw [hauth]; simp), takeCmd_named]
      rw [takeCmd_on (by decide) hon, if_neg (by decide), if_neg (by decide), if_neg (by decide)] at hreset
      obtain ⟨hset, hb, hcd⟩ := domReset_on (s := cmdTaken s 3 d) hon
      exact hbegins hreset hset hb hcd
    · have hrefuse : exec (.reset d) s = .next (wrote (endCmd (cmdNamed s 3 d) pwAuth) false) := by
        rw [hexec (op := 3) rfl, pwrWrite_idle (by decide) hd hidle, if_neg (by simp), if_neg (fun ⟨_, he, _⟩ => hne he),
          if_pos ⟨rfl, by rw [hauth]; rfl⟩]
      exact hrefused hrefuse rfl rfl rfl
  · have hsame : ∀ v, pwrWrite s v = s := fun v => if_pos hbusy
    simp only [List.mem_cons, List.not_mem_nil, or_false] at hc
    obtain rfl | rfl | rfl | rfl := hc
    · exact (hexec (op := 0) rfl).trans (by rw [hsame]; rfl)
    · exact (hexec (op := 1) rfl).trans (by rw [hsame]; rfl)
    · exact (hexec (op := 2) rfl).trans (by rw [hsame]; rfl)
    · exact (hexec (op := 3) rfl).trans (by rw [hsame]; rfl)

/-! ## The end of a command -/

/-- A step of the controller leaves the domains, the tiles and the scratchpads. -/
structure DomainsStay (s u : State) : Prop where
  doms : u.cpc.doms = s.cpc.doms
  tiles : u.tiles = s.tiles
  spad : u.spad = s.spad

theorem domainsStay_doneCmd (s : State) (d r : Nat) : DomainsStay s (doneCmd s d r) := by
  unfold doneCmd
  split <;> exact ⟨rfl, rfl, rfl⟩

theorem domainsStay_klog (s : State) (c : FClass) (m : Mech) (u : LogUnit) (i : LogInfo) : DomainsStay s (klog s c m u i) :=
  ⟨congrArg Cpc.doms (klog_cpc ..), klog_tiles .., klog_spad ..⟩

theorem doneCmd_own {s : State} {d : Nat} (hb : s.cpc.cmdBusy = true) (hw : s.cpc.cmdWaits = false) (hd : s.cpc.cmdDom.toNat = d)
    (r : Nat) : doneCmd s d r = endCmd s r :=
  if_pos (by rw [cmdOn, hb, hw, decide_eq_true hd]; rfl)

theorem cmdWaits_doneCmd {s : State} (hw : s.cpc.cmdWaits = false) (d r : Nat) : (doneCmd s d r).cpc.cmdWaits = false := by
  unfold doneCmd
  split
  · rfl
  · exact hw

/-- No command waits for the domain's action. -/
theorem wakeCmd_idle {s : State} (hw : s.cpc.cmdWaits = false) (d : Nat) : wakeCmd s d = s :=
  if_neg (by rw [hw, Bool.and_false, Bool.false_and]; exact Bool.false_ne_true)

/-- What the end of a command on the domain shows. -/
theorem doneCmd_shows {s : State} {d : Nat} (hw : s.cpc.cmdWaits = false) {r : Nat}
    (hmine : s.cpc.cmdBusy = true ∧ s.cpc.cmdDom.toNat = d) :
    (doneCmd s d r).cpc.cmdBusy = false ∧ (doneCmd s d r).cpc.cmdResult = BitVec.ofNat 3 r := by
  obtain ⟨hb, hd⟩ := hmine
  rw [doneCmd_own hb hw hd]
  exact ⟨rfl, rfl⟩

/-! ## Taking a domain down (R399) -/

theorem domSet_quiesceAck {s : State} {d : Nat} (h : (s.dom d).phase = .drain ∧ drained s d = true ∧ clockDead s d = false) :
    DomSet s (quiesceAckStep s d) d { s.dom d with state := .quiesced, phase := .confirm }
      ∧ (quiesceAckStep s d).tiles = s.tiles ∧ (quiesceAckStep s d).spad = s.spad := by
  have hset := domSet_setDom s d { s.dom d with state := .quiesced, phase := .confirm }
  unfold quiesceAckStep
  dsimp only
  rw [if_pos h]
  split
  · exact ⟨hset.next rfl, rfl, rfl⟩
  · exact ⟨hset, rfl, rfl⟩

theorem quiesceTimeoutStep_drain {s : State} {d : Nat} (h : (s.dom d).phase = .drain) : quiesceTimeoutStep s d =
    klog (doneCmd (s.setDom d { s.dom d with state := .on, phase := .idle }) d pwQtimeout) .reported .pwrTimeout luKeeper
      { detail := pwQtimeout } := if_pos h

/-- A domain that is isolated, and whose power is no longer requested. -/
def isolatedDom (x : Dom) : Dom := { x with iso := true, req := false, phase := .ackLow }

theorem confirmStep_isolates {s : State} {d : Nat} (h : (s.dom d).phase = .confirm) (hleft : flitsLeft s d = false) :
    DomSet s (confirmStep s d) d (isolatedDom (s.dom d)) ∧ (confirmStep s d).tiles = s.tiles ∧ (confirmStep s d).spad = s.spad
      ∧ ∀ t, (s.dom d).toRet = true → spadOf s d = some t → t ∈ (confirmStep s d).cpc.pwRet := by
  have hset := domSet_setDom s d (isolatedDom (s.dom d))
  have hgo : (s.dom d).phase = .confirm ∧ (!flitsLeft s d) = true := ⟨h, by rw [hleft]; rfl⟩
  unfold confirmStep
  dsimp only
  rw [if_pos hgo]
  split
  next t hret hspad =>
    refine ⟨hset.next rfl, rfl, rfl, fun r _ hr => ?_⟩
    have hrt : some r = some t := hr.symm.trans hspad
    rw [Option.some.inj hrt]
    exact List.mem_append_right _ (List.mem_singleton_self t)
  next hnone =>
    exact ⟨hset, rfl, rfl, fun t hret ht => absurd ht (hnone t hret)⟩

/-! ## The fall of `pw_ack` -/

/-- Domain `d` as its `pw_ack` has been seen at a level. -/
def ackSeen (s : State) (d : Nat) (level : Bool) : State := s.setDom d { s.dom d with ack := level }

theorem dom_ackSeen (s : State) (d : Nat) (level : Bool) : (ackSeen s d level).dom d = { s.dom d with ack := level } :=
  (domSet_setDom ..).self

theorem pwAckStep_falls {s : State} {d : Nat} (hreset : s.cp.inReset = false) (h : (s.dom d).phase = .ackLow) :
    pwAckStep s d false = wakeCmd (ackDown (ackSeen s d false) d) d := by
  have hphase : ((ackSeen s d false).dom d).phase = .ackLow := by rw [dom_ackSeen]; exact h
  unfold pwAckStep
  rw [if_neg (by rw [hreset]; exact Bool.false_ne_true)]
  change (match ((ackSeen s d false).dom d).phase, false with
    | .ackLow, false => ackFell (ackSeen s d false) d
    | .ackHigh, true => ackRose (ackSeen s d false) d
    | _, _ => ackSeen s d false) = _
  rw [hphase]
  rfl

theorem doms_dropArray (s : State) (d : Nat) : (dropArray s d).cpc.doms = s.cpc.doms := by
  unfold dropArray
  split <;> rfl

theorem tiles_dropArray (s : State) (d : Nat) : (dropArray s d).tiles = s.tiles := by
  unfold dropArray
  split <;> rfl

theorem cmdWaits_dropArray (s : State) (d : Nat) : (dropArray s d).cpc.cmdWaits = s.cpc.cmdWaits := by
  unfold dropArray
  split <;> rfl

/-- A scratchpad's bytes are lost with its supply, and no other's. -/
theorem memByte_dropArray (s : State) (d o : Nat) : memByte (dropArray s d).spad.mem o =
    if spadOf s d = some (o / slotBytes) then 0 else memByte s.spad.mem o := by
  unfold dropArray
  split
  next t ht =>
    have hfind : Tab.find (s.spad.mem.filter (fun c => decide (c.1 / slotBytes ≠ t))) o =
        if decide (o / slotBytes ≠ t) then Tab.find s.spad.mem o else none :=
      Tab.find_filter (fun k => decide (k / slotBytes ≠ t)) s.spad.mem o
    change (Tab.find (s.spad.mem.filter (fun c => decide (c.1 / slotBytes ≠ t))) o).getD 0 = _
    rw [hfind, ht]
    by_cases h : o / slotBytes = t
    · simp [h]
    · rw [if_pos (decide_eq_true h), if_neg (fun he => h (Option.some.inj he).symm)]
      rfl
  next hnone => rw [hnone, if_neg nofun]

theorem pllDown_leaves (s : State) (d : Nat) : (pllDown s d).cpc.doms = s.cpc.doms ∧ (pllDown s d).tiles = s.tiles
    ∧ (pllDown s d).spad = s.spad ∧ (pllDown s d).cpc.cmdWaits = s.cpc.cmdWaits := by
  unfold pllDown
  split <;> exact ⟨rfl, rfl, rfl, rfl⟩

/-- A domain that is OFF. -/
def offDom (x : Dom) : Dom := { x with state := .off, phase := .idle, thenUp := false }

/-- A domain that enters OFF, with its scratchpad's bytes lost. -/
theorem enterOff_off (s : State) (d : Nat) : DomSet s (enterOff s d) d (offDom (s.dom d)) ∧ (enterOff s d).tiles = s.tiles
    ∧ (enterOff s d).cpc.cmdWaits = s.cpc.cmdWaits
    ∧ ∀ o, memByte (enterOff s d).spad.mem o = if spadOf s d = some (o / slotBytes) then 0 else memByte s.spad.mem o := by
  have hset := domSet_setDom s d (offDom (s.dom d))
  obtain ⟨hdoms, htiles, hspad, hwaits⟩ := pllDown_leaves (dropArray (s.setDom d (offDom (s.dom d))) d) d
  have heq : enterOff s d = pllDown (dropArray (s.setDom d (offDom (s.dom d))) d) d := rfl
  rw [heq]
  refine ⟨hset.next (hdoms.trans (doms_dropArray ..)), htiles.trans (tiles_dropArray ..), hwaits.trans (cmdWaits_dropArray ..),
    fun o => ?_⟩
  rw [hspad]
  exact memByte_dropArray (s.setDom d (offDom (s.dom d))) d o

/-- A domain whose power has gone once more. -/
def cycledDom (x : Dom) : Dom := { x with cycles := satInc x.cycles }

/-- A domain that keeps its array. -/
def retainedDom (x : Dom) : Dom := { x with state := .retention, phase := .idle }

theorem ackDown_off {s : State} {d : Nat} (hup : (s.dom d).thenUp = false) (hret : (s.dom d).toRet = false) :
    ackDown s d = doneCmd (enterOff (s.setDom d (cycledDom (s.dom d))) d) d pwOk := by
  unfold ackDown
  dsimp only
  rw [if_neg (by rw [hup]; exact Bool.false_ne_true), if_neg (by rw [hret]; exact Bool.false_ne_true)]
  rfl

theorem ackDown_retains {s : State} {d : Nat} (hup : (s.dom d).thenUp = false) (hret : (s.dom d).toRet = true) :
    ackDown s d = doneCmd ((s.setDom d (cycledDom (s.dom d))).setDom d (retainedDom ((s.setDom d (cycledDom (s.dom d))).dom d))) d
      pwOk := by
  unfold ackDown
  dsimp only
  rw [if_neg (by rw [hup]; exact Bool.false_ne_true), if_pos hret]
  rfl

section
variable {s : State} {d : Nat} (hphase : (s.dom d).phase = .ackLow) (hup : (s.dom d).thenUp = false)
  (hwaits : s.cpc.cmdWaits = false) (hreset : s.cp.inReset = false)
include hphase hup hwaits hreset

theorem pwAck_off (hret : (s.dom d).toRet = false) : ∃ u, exec (.pwAck d false) s = .next u
    ∧ DomSet s u d { s.dom d with ack := false, state := .off, phase := .idle, cycles := satInc (s.dom d).cycles } ∧ u.tiles = s.tiles
    ∧ ∀ o, memByte u.spad.mem o = if spadOf s d = some (o / slotBytes) then 0 else memByte s.spad.mem o := by
  have hdom := dom_ackSeen s d false
  have hfall := ackDown_off (s := ackSeen s d false) (d := d) (by rw [hdom]; exact hup) (by rw [hdom]; exact hret)
  have hseen : DomSet s (ackSeen s d false) d { s.dom d with ack := false } := domSet_setDom ..
  have hcyc := domSet_setDom (ackSeen s d false) d (cycledDom ((ackSeen s d false).dom d))
  obtain ⟨hoff, htiles, hw, hmem⟩ := enterOff_off ((ackSeen s d false).setDom d (cycledDom ((ackSeen s d false).dom d))) d
  have hdone := domainsStay_doneCmd (enterOff ((ackSeen s d false).setDom d (cycledDom ((ackSeen s d false).dom d))) d) d pwOk
  have hexec : exec (.pwAck d false) s = .next _ := congrArg Host.Outcome.next (pwAckStep_falls hreset hphase)
  rw [hfall, wakeCmd_idle (cmdWaits_doneCmd (hw.trans hwaits) d pwOk)] at hexec
  have hset := (hseen.trans (hcyc.trans hoff)).next hdone.doms
  have hdomEq : offDom (((ackSeen s d false).setDom d (cycledDom ((ackSeen s d false).dom d))).dom d) =
      { s.dom d with ack := false, state := .off, phase := .idle, cycles := satInc (s.dom d).cycles } := by
    rw [hcyc.self, hdom, offDom, cycledDom, ← hup]
  rw [hdomEq] at hset
  refine ⟨_, hexec, hset, hdone.tiles.trans htiles, fun o => ?_⟩
  rw [hdone.spad]
  exact hmem o

theorem pwAck_retains (hret : (s.dom d).toRet = true) : ∃ u, exec (.pwAck d false) s = .next u
    ∧ DomSet s u d { s.dom d with ack := false, state := .retention, phase := .idle, cycles := satInc (s.dom d).cycles }
    ∧ u.spad = s.spad := by
  have hdom := dom_ackSeen s d false
  have hfall := ackDown_retains (s := ackSeen s d false) (d := d) (by rw [hdom]; exact hup) (by rw [hdom]; exact hret)
  have hseen : DomSet s (ackSeen s d false) d { s.dom d with ack := false } := domSet_setDom ..
  have hcyc := domSet_setDom (ackSeen s d false) d (cycledDom ((ackSeen s d false).dom d))
  rw [hcyc.self, hdom] at hfall
  rw [hdom] at hcyc
  have hkept := domSet_setDom ((ackSeen s d false).setDom d (cycledDom { s.dom d with ack := false })) d
    (retainedDom (cycledDom { s.dom d with ack := false }))
  have hexec : exec (.pwAck d false) s = .next _ := congrArg Host.Outcome.next (pwAckStep_falls hreset hphase)
  have hw := cmdWaits_doneCmd (s := ((ackSeen s d false).setDom d (cycledDom { s.dom d with ack := false })).setDom d
    (retainedDom (cycledDom { s.dom d with ack := false }))) hwaits d pwOk
  rw [hfall, wakeCmd_idle hw] at hexec
  have hdone := domainsStay_doneCmd (((ackSeen s d false).setDom d (cycledDom { s.dom d with ack := false })).setDom d
    (retainedDom (cycledDom { s.dom d with ack := false }))) d pwOk
  exact ⟨_, hexec, (hseen.trans (hcyc.trans hkept)).next hdone.doms, hdone.spad⟩

end

theorem domainsGoDown : Claims.DomainsGoDown := by
  unfold Claims.DomainsGoDown
  intro s d x
  refine ⟨fun hdrain => ⟨fun hdone hclock => ?_, fun hnot => ?_, ?_⟩, fun hconf => ⟨fun hleft => ?_, fun hleft => ?_⟩,
    fun hlow hup hwaits hreset => ⟨fun hret => ?_, fun hret => ?_⟩⟩
  · obtain ⟨hset, htiles, hspad⟩ := domSet_quiesceAck ⟨hdrain, hdone, hclock⟩
    exact ⟨_, rfl, hset.self, hset.others, htiles, hspad⟩
  · refine congrArg Host.Outcome.next (if_neg ?_)
    rintro ⟨-, hd, hc⟩
    obtain hnot | hnot := hnot
    · exact Bool.false_ne_true (hnot.symm.trans hd)
    · exact Bool.false_ne_true (hc.symm.trans hnot)
  · have hexec : exec (.quiesceTimeout d) s = .next _ := congrArg Host.Outcome.next (quiesceTimeoutStep_drain hdrain)
    have hset := domSet_setDom s d { s.dom d with state := .on, phase := .idle }
    have hdone := domainsStay_doneCmd (s.setDom d { s.dom d with state := .on, phase := .idle }) d pwQtimeout
    have hlog := domainsStay_klog (doneCmd (s.setDom d { s.dom d with state := .on, phase := .idle }) d pwQtimeout) .reported
      .pwrTimeout luKeeper { detail := pwQtimeout }
    have hset := (hset.next hdone.doms).next hlog.doms
    refine ⟨_, hexec, hset.self, hset.others, hlog.tiles.trans hdone.tiles, hlog.spad.trans hdone.spad, fun hb hw hd => ?_⟩
    rw [klog_cpc]
    exact doneCmd_shows (s := s.setDom d { s.dom d with state := .on, phase := .idle }) hw ⟨hb, hd⟩
  · obtain ⟨hset, htiles, hspad, hret⟩ := confirmStep_isolates hconf hleft
    exact ⟨_, rfl, hset.self, hset.others, htiles, hspad, hret⟩
  · refine congrArg Host.Outcome.next (if_neg ?_)
    rintro ⟨-, hl⟩
    rw [hleft] at hl
    exact Bool.false_ne_true hl
  · obtain ⟨u, hexec, hset, htiles, hmem⟩ := pwAck_off hlow hup hwaits hreset hret
    exact ⟨u, hexec, hset.self, hset.others, htiles, hmem⟩
  · obtain ⟨u, hexec, hset, hspad⟩ := pwAck_retains hlow hup hwaits hreset hret
    exact ⟨u, hexec, hset.self, hset.others, hspad⟩

/-! ## Bringing a domain up (R403, R404) -/

theorem booting_idle {s : State} (h : s.boot.running = false) : booting s = false := by rw [booting, h]; rfl

theorem bootNext_idle {s : State} (h : s.boot.running = false) (d : Nat) : bootNext s d = s :=
  if_neg (fun ⟨hb, _⟩ => Bool.false_ne_true ((booting_idle h).symm.trans hb))

theorem bootPlls_idle {s : State} (h : s.boot.running = false) : bootPlls s = s :=
  if_neg (fun ⟨hb, _⟩ => Bool.false_ne_true ((booting_idle h).symm.trans hb))

theorem pwAckStep_rises {s : State} {d : Nat} (hreset : s.cp.inReset = false) (h : (s.dom d).phase = .ackHigh) :
    pwAckStep s d true = ackRose (ackSeen s d true) d := by
  have hphase : ((ackSeen s d true).dom d).phase = .ackHigh := by rw [dom_ackSeen]; exact h
  unfold pwAckStep
  rw [if_neg (by rw [hreset]; exact Bool.false_ne_true)]
  change (match ((ackSeen s d true).dom d).phase, true with
    | .ackLow, false => ackFell (ackSeen s d true) d
    | .ackHigh, true => ackRose (ackSeen s d true) d
    | _, _ => ackSeen s d true) = ackRose (ackSeen s d true) d
  generalize ((ackSeen s d true).dom d).phase = q at hphase
  subst hphase
  rfl

theorem ackRose_releases {s : State} {d : Nat} (hrun : s.boot.running = false)
    (hd : ∀ l, GenConfig.domUnit s.gen d ≠ some (.pll l)) :
    ackRose s d = s.setDom d { s.dom d with phase := .release } := by
  have hnext : bootNext (s.setDom d { s.dom d with phase := .release }) d = s.setDom d { s.dom d with phase := .release } :=
    bootNext_idle (s := s.setDom d { s.dom d with phase := .release }) hrun d
  unfold ackRose
  split
  next l hl _ => exact absurd hl (hd l)
  next => exact hnext

theorem ackRose_locks {s : State} {d l : Nat} (hrun : s.boot.running = false) (hd : GenConfig.domUnit s.gen d = some (.pll l)) :
    ackRose s d = forceLock (s.setDom d { s.dom d with phase := .lock }) (2 + l) := by
  rw [ackRose, hd, booting_idle hrun]

/-- The forced lock of a leaf PLL starts it again. -/
theorem pll_forceLock (s : State) (l : Nat) :
    (forceLock s (2 + l)).pll (2 + l) = { s.pll (2 + l) with busy := true, lock := false, sel := false }
      ∧ (forceLock s (2 + l)).tiles = s.tiles := by
  obtain ⟨hset, -⟩ := startLock_set
    { s with cpc := { s.cpc with stopped := s.cpc.stopped.filter (fun k => decide (k ≠ 2 + l + 6)) } } (2 + l)
  have hsel : decide (2 + l = 1) = false := decide_eq_false (by omega)
  rw [hsel] at hset
  exact ⟨hset.self, hset.tiles⟩

/-- The state after an action of the domain has taken too long. -/
def ackLate (s : State) (d : Nat) : State :=
  klog (doneCmd s d pwAcktimeout) .reported .pwrTimeout luKeeper { detail := pwAcktimeout }

theorem domainsStay_ackLate (s : State) (d : Nat) : DomainsStay s (ackLate s d) := by
  have hdone := domainsStay_doneCmd s d pwAcktimeout
  have hlog := domainsStay_klog (doneCmd s d pwAcktimeout) .reported .pwrTimeout luKeeper { detail := pwAcktimeout }
  exact ⟨hlog.doms.trans hdone.doms, hlog.tiles.trans hdone.tiles, hlog.spad.trans hdone.spad⟩

theorem cpc_ackLate (s : State) (d : Nat) : (ackLate s d).cpc = (doneCmd s d pwAcktimeout).cpc := klog_cpc ..

/-- An action of the domain that has taken too long leaves the domain as `y` says and ends its command with ACKTIMEOUT. -/
theorem ackLate_shows {s : State} {d : Nat} (hw : s.cpc.cmdWaits = false) (y : Dom) :
    DomSet s (wakeCmd (ackLate (s.setDom d y) d) d) d y ∧ (wakeCmd (ackLate (s.setDom d y) d) d).tiles = s.tiles
      ∧ (wakeCmd (ackLate (s.setDom d y) d) d).spad = s.spad
      ∧ (s.cpc.cmdBusy = true ∧ s.cpc.cmdDom.toNat = d → (wakeCmd (ackLate (s.setDom d y) d) d).cpc.cmdBusy = false
          ∧ (wakeCmd (ackLate (s.setDom d y) d) d).cpc.cmdResult = 4) := by
  have hstay := domainsStay_ackLate (s.setDom d y) d
  have hcpc := cpc_ackLate (s.setDom d y) d
  have hidle : (ackLate (s.setDom d y) d).cpc.cmdWaits = false := by
    rw [hcpc]
    exact cmdWaits_doneCmd (s := s.setDom d y) hw d _
  rw [wakeCmd_idle hidle, hcpc]
  exact ⟨(domSet_setDom s d y).next hstay.doms, hstay.tiles, hstay.spad, doneCmd_shows (s := s.setDom d y) hw⟩

section
variable {s : State} {d : Nat} (hrun : s.boot.running = false)
include hrun

theorem ackTimeoutStep_high (h : (s.dom d).phase = .ackHigh) : ackTimeoutStep s d =
    wakeCmd (ackLate (s.setDom d { s.dom d with state := .off, req := false, ackerr := true, phase := .idle }) d) d := by
  unfold ackTimeoutStep
  dsimp only
  rw [if_neg (by rw [booting_idle hrun]; exact Bool.false_ne_true)]
  split
  next => rfl
  next h' => exact nomatch h.symm.trans h'
  next h' _ => exact absurd h h'

theorem ackTimeoutStep_low (h : (s.dom d).phase = .ackLow) : ackTimeoutStep s d =
    wakeCmd (ackLate (s.setDom d { s.dom d with
      state := if (s.dom d).state = .powering then .off else .quiesced, ackerr := true, phase := .idle, thenUp := false }) d) d := by
  unfold ackTimeoutStep
  dsimp only
  rw [if_neg (by rw [booting_idle hrun]; exact Bool.false_ne_true)]
  split
  next h' => exact nomatch h.symm.trans h'
  next => rfl
  next h' => exact absurd h h'

end

/-- A scratchpad that comes up is not retained any more. -/
def retentionEnded (s : State) (d : Nat) : State :=
  match spadOf s d with
  | some t => { s with cpc := { s.cpc with pwRet := s.cpc.pwRet.filter (fun r => decide (r ≠ t)) } }
  | none => s

/-- The end of retention leaves the domains, the command in progress, the bytes and the boot sequencer. -/
theorem retentionEnded_leaves (s : State) (d : Nat) : CommandStays s (retentionEnded s d)
    ∧ (retentionEnded s d).cpc.cmdWaits = s.cpc.cmdWaits ∧ (retentionEnded s d).spad = s.spad
    ∧ (retentionEnded s d).boot = s.boot := by
  unfold retentionEnded
  split <;> exact ⟨⟨rfl, rfl, rfl⟩, rfl, rfl, rfl⟩

/-- A domain that is ON after its release. -/
def releasedDom (x : Dom) : Dom := { x with state := .on, iso := false, phase := .idle }

theorem releaseStepDom_on {s : State} {d : Nat} (h : (s.dom d).phase = .release) : releaseStepDom s d =
    bootPlls (wakeCmd (doneCmd ((retentionEnded (unitReset s d) d).setDom d (releasedDom ((retentionEnded (unitReset s d) d).dom d)))
      d pwOk) d) := by
  unfold releaseStepDom
  dsimp only
  rw [if_pos h]
  rfl

theorem isolationRelease_on {s : State} {d : Nat} (hrun : s.boot.running = false) (hw : s.cpc.cmdWaits = false)
    (h : (s.dom d).phase = .release) : ∃ u, exec (.isolationRelease d) s = .next u
      ∧ DomSet s u d { s.dom d with state := .on, iso := false, phase := .idle }
      ∧ (∀ o, memByte u.spad.mem o = memByte s.spad.mem o)
      ∧ (s.cpc.cmdBusy = true ∧ s.cpc.cmdDom.toNat = d → u.cpc.cmdBusy = false ∧ u.cpc.cmdResult = 0) := by
  have hunit := controllerStays_unitReset s d
  obtain ⟨hret, hwaits, hspad, hboot⟩ := retentionEnded_leaves (unitReset s d) d
  generalize hv : retentionEnded (unitReset s d) d = v at hret hwaits hspad hboot
  have hcmd : CommandStays s v := (commandStays_of_cpc hunit.cpc).trans hret
  have hvw : v.cpc.cmdWaits = false := hwaits.trans ((congrArg Cpc.cmdWaits hunit.cpc).trans hw)
  have hvdom : v.dom d = s.dom d := dom_of_doms hcmd.doms d
  have hstep := releaseStepDom_on h
  rw [hv, hvdom] at hstep
  have hdone := domainsStay_doneCmd (v.setDom d (releasedDom (s.dom d))) d pwOk
  have hidle := cmdWaits_doneCmd (s := v.setDom d (releasedDom (s.dom d))) hvw d pwOk
  have hvrun : (doneCmd (v.setDom d (releasedDom (s.dom d))) d pwOk).boot.running = false := by
    have hb : (doneCmd (v.setDom d (releasedDom (s.dom d))) d pwOk).boot = v.boot := by
      unfold doneCmd
      split <;> rfl
    rw [hb, hboot]
    exact hunit.running hrun
  rw [wakeCmd_idle hidle, bootPlls_idle hvrun] at hstep
  have hset := ((domSet_setDom v d (releasedDom (s.dom d))).of hcmd.doms).next hdone.doms
  refine ⟨_, congrArg Host.Outcome.next hstep, hset, fun o => ?_, fun ⟨hb, hd⟩ => ?_⟩
  · rw [hdone.spad, show (v.setDom d (releasedDom (s.dom d))).spad = v.spad from rfl, hspad, hunit.mem]
  · exact doneCmd_shows (s := v.setDom d (releasedDom (s.dom d))) hvw
      ⟨hcmd.cmdBusy.trans hb, (congrArg BitVec.toNat hcmd.cmdDom).trans hd⟩

theorem domainsComeUp : Claims.DomainsComeUp := by
  unfold Claims.DomainsComeUp
  intro s d hrun hw hreset x mine
  refine ⟨fun hhigh => ⟨fun hd => ?_, fun l hd => ?_, ?_⟩, fun hlow => ?_, fun hrel => ?_, fun hheld => ?_, fun c hc hidle => ?_⟩
  · have hexec : exec (.pwAck d true) s = .next _ := congrArg Host.Outcome.next (pwAckStep_rises hreset hhigh)
    rw [ackRose_releases (s := ackSeen s d true) hrun hd, dom_ackSeen] at hexec
    have hset := (domSet_setDom s d { s.dom d with ack := true }).trans
      (domSet_setDom (ackSeen s d true) d { s.dom d with ack := true, phase := .release })
    exact ⟨_, hexec, hset.self, hset.others, rfl⟩
  · have hexec : exec (.pwAck d true) s = .next _ := congrArg Host.Outcome.next (pwAckStep_rises hreset hhigh)
    rw [ackRose_locks (s := ackSeen s d true) hrun hd, dom_ackSeen] at hexec
    have hset := (domSet_setDom (ackSeen s d true) d { s.dom d with ack := true, phase := .lock }).next
      (commandStays_forceLock ((ackSeen s d true).setDom d { s.dom d with ack := true, phase := .lock }) (2 + l)).doms
    obtain ⟨hpll, htiles⟩ := pll_forceLock ((ackSeen s d true).setDom d { s.dom d with ack := true, phase := .lock }) l
    exact ⟨_, hexec, hset.self, hpll, htiles⟩
  · obtain ⟨hset, htiles, hspad, hshows⟩ := ackLate_shows hw
      { s.dom d with state := .off, req := false, ackerr := true, phase := .idle }
    exact ⟨_, congrArg Host.Outcome.next (ackTimeoutStep_high hrun hhigh), hset.self, hset.others, htiles, hspad, hshows⟩
  · obtain ⟨hset, htiles, hspad, hshows⟩ := ackLate_shows hw { s.dom d with
      state := if (s.dom d).state = .powering then .off else .quiesced, ackerr := true, phase := .idle, thenUp := false }
    exact ⟨_, congrArg Host.Outcome.next (ackTimeoutStep_low hrun hlow), hset.self, htiles, hspad, hshows⟩
  · obtain ⟨u, hexec, hset, hmem, hshows⟩ := isolationRelease_on hrun hw hrel
    exact ⟨u, hexec, hset.self, hset.others, hmem, hshows⟩
  · have hset := domSet_setDom s d { s.dom d with state := .on, phase := .idle }
    have hdone := domainsStay_doneCmd (s.setDom d { s.dom d with state := .on, phase := .idle }) d pwOk
    have hwd := cmdWaits_doneCmd (s := s.setDom d { s.dom d with state := .on, phase := .idle }) hw d pwOk
    have hexec : exec (.resetRelease d) s = .next _ := congrArg Host.Outcome.next (if_pos hheld)
    rw [wakeCmd_idle hwd] at hexec
    have hset := hset.next hdone.doms
    exact ⟨_, hexec, hset.self, hset.others, hdone.tiles, hdone.spad,
      doneCmd_shows (s := s.setDom d { s.dom d with state := .on, phase := .idle }) hw⟩
  · simp only [List.mem_cons, List.not_mem_nil, or_false] at hc
    have hrelease : ¬ (s.dom d).phase = .release := fun h => nomatch (show DomPhase.idle = .release from hidle.symm.trans h)
    have hheld : ¬ (s.dom d).phase = .inReset := fun h => nomatch (show DomPhase.idle = .inReset from hidle.symm.trans h)
    obtain rfl | rfl := hc
    · exact congrArg Host.Outcome.next (if_neg hrelease)
    · exact congrArg Host.Outcome.next (if_neg hheld)

/-- Settles O59: each command by its row of the table of R398, and each step by the phase that its domain is in. -/
theorem domainsChange : Obligations.DomainsChange := by
  unfold Obligations.DomainsChange
  exact ⟨powerCommandsTaken, domainsGoDown, domainsComeUp⟩

end Sys2Proof.Proofs

end
